-- ==== Sys2Proof/Word.lean ====
section
/-! DEFINITION. The words of the module (R4, R9, R14, R17) and the sparse table in one canonical form that holds every large array of State. -/

namespace Sys2Proof

/-- One byte. -/
abbrev Byte := BitVec 8
/-- A 16-bit word. -/
abbrev U16 := BitVec 16
/-- A 32-bit word: one register of the window (R360). -/
abbrev U32 := BitVec 32
/-- A 64-bit word. -/
abbrev U64 := BitVec 64
/-- A 64-byte digest, byte 0 in bits 7..0 (R4). -/
abbrev Digest := BitVec 512

/-- A physical or logical region number, 0 to 47 (R9, R13). -/
abbrev Region := Fin 48
/-- A logical core index within a region (R14). -/
abbrev Core := Fin 896
/-- A physical core index within a region (R14). -/
abbrev PCore := Fin 924
/-- A photonic engine (R17). -/
abbrev Engine := Fin 16
/-- A context number (R93). -/
abbrev Ctx := Fin 64

/-- A sparse table: keys strictly rising, no entry equal to the table's default value. -/
abbrev Tab (α : Type) := List (Nat × α)

namespace Tab

/-- The value at a key, `d` where the table lists none. -/
def get {α : Type} (d : α) : Tab α → Nat → α
  | [], _ => d
  | (j, v) :: t, k => if j = k then v else get d t k

/-- The table without its entry at `k`. -/
def erase {α : Type} : Tab α → Nat → Tab α
  | [], _ => []
  | (j, v) :: t, k => if j = k then erase t k else (j, v) :: erase t k

/-- The table with `v` listed at `k`, keys kept rising. -/
def insert {α : Type} : Tab α → Nat → α → Tab α
  | [], k, v => [(k, v)]
  | (j, w) :: t, k, v =>
    if k < j then (k, v) :: (j, w) :: t
    else if k = j then (k, v) :: t
    else (j, w) :: insert t k v

/-- Write `v` at `k`: the default value is never listed, so equal tables are equal lists. -/
def set {α : Type} [DecidableEq α] (d : α) (t : Tab α) (k : Nat) (v : α) : Tab α :=
  if v = d then erase t k else insert t k v

/-- Change the value at `k` by `f`. -/
def upd {α : Type} [DecidableEq α] (d : α) (t : Tab α) (k : Nat) (f : α → α) : Tab α :=
  set d t k (f (get d t k))

/-- Every key of the table is above `k`. -/
def above {α : Type} (k : Nat) : Tab α → Bool
  | [] => true
  | (j, _) :: t => k < j && above j t

/-- The canonical form: keys strictly rising, no default listed. -/
def wf {α : Type} [DecidableEq α] (d : α) : Tab α → Bool
  | [] => true
  | (j, v) :: t => !decide (v = d) && above j t && wf d t

end Tab

/-- Byte-addressed memory: the cells it lists, in the canonical form of `Tab` with 0 as the value of an unlisted byte. -/
abbrev Memory := Tab Byte

end Sys2Proof
end

