-- ==== Sys2Proof/Types.lean ====
section
/-! DEFINITION. Data shared by the commands and the state: packets, batten messages, records, frames, the operations of a core program and the courses of a Ranile image. -/

namespace Sys2Proof

/-- A counter and its threshold: one wait of a trailer (R96, Table 12.5). -/
structure Wait where
  ctr : Nat
  thr : Nat
  deriving DecidableEq, Repr, Inhabited

/-- An emit: logical region (63 the control die), unit in the encoding of R130 with logical numbers, counter and count (Table 12.5). -/
structure Emit where
  region : Nat
  unit : Nat
  ctr : Nat
  count : Nat
  deriving DecidableEq, Repr, Inhabited

/-- A record's trailer (Table 12.5): the waits and emits in use, and the firings per step. -/
structure Trailer where
  waits : List Wait := []
  emits : List Emit := []
  rep : Nat := 1
  deriving DecidableEq, Repr, Inhabited

/-- Operand descriptor (Table 12.6). -/
structure OpDesc where
  base : Nat := 0
  pitch : Nat := 1
  roff : Nat := 0
  coff : Nat := 0
  adv : Nat := 0
  wrap : Nat := 0
  deriving DecidableEq, Repr, Inhabited

/-- A tile operation (Tables 2.1, 3.4, 12.4, 12.6). -/
structure TileOp where
  fmt : Bool := false
  outf : Bool := false
  init : Nat := 0
  drain : Bool := true
  ta : Bool := false
  tb : Bool := false
  grad : Bool := false
  m : Nat := 1
  n : Nat := 1
  k : Nat := 1
  tileId : U32 := 0
  dmode : Nat := 0
  dfun : Nat := 0
  stf : Bool := false
  dstash : Bool := false
  deferred : Bool := false
  a : OpDesc := {}
  b : OpDesc := {}
  c0 : OpDesc := {}
  out : OpDesc := {}
  stash : OpDesc := {}
  tr : Trailer := {}
  deriving DecidableEq, Repr, Inhabited

/-- One stage of a vector chain (R68). -/
structure Stage where
  op : Nat := 0
  fn : Nat := 0
  a : Nat := 15
  b : Nat := 15
  c : Nat := 15
  deriving DecidableEq, Repr, Inhabited

/-- One stream of a vector chain (Table 4.3, Table 12.4). -/
structure Stream where
  base : Nat := 0
  pitch : Nat := 1
  sfmt : Bool := false
  tr : Bool := false
  bc : Nat := 0
  osrc : Nat := 0
  adv : Nat := 0
  wrap : Nat := 0
  deriving DecidableEq, Repr, Inhabited

/-- A vector chain (Tables 4.1, 12.4). -/
structure Chain where
  vfmt : Bool := false
  nst : Nat := 1
  rows : Nat := 1
  cols : Nat := 1
  nin : Nat := 0
  nout : Nat := 0
  rop : Nat := 0
  rscope : Nat := 0
  rdst : Nat := 0
  grad : Bool := false
  deferred : Bool := false
  tileId : U32 := 0
  stages : List Stage := []
  ins : List Stream := []
  outs : List Stream := []
  tr : Trailer := {}
  deriving DecidableEq, Repr, Inhabited

/-- A remote operation (Table 5.3, Table 12.4). -/
structure Rmo where
  op : Nat := 0
  len : Nat := 1
  sfmt : Bool := false
  gaddr : U64 := 0
  laddr : Nat := 0
  prio : Bool := false
  ttok : Nat := 0
  ltok : Nat := 0
  deferred : Bool := false
  gstr : Int := 0
  lstr : Int := 0
  deriving DecidableEq, Repr, Inhabited

/-- What an instruction of a context does (Table 12.4, kinds 0x10 to 0x15). -/
inductive CtxOp where
  | rmo (r : Rmo)
  | wait
  | emit
  | launch (seq : Nat)
  | loop (count body : Nat)
  | stop
  deriving DecidableEq, Repr, Inhabited

/-- An instruction record: what it does and its trailer (R252). -/
structure CtxInstr where
  op : CtxOp := .stop
  tr : Trailer := {}
  deriving DecidableEq, Repr, Inhabited

/-- A beat-table entry (Table 6.2). -/
structure BeatEntry where
  beat : Nat := 0
  kind : Nat := 0
  pin : Nat := 0
  pout : Nat := 0
  soff : Nat := 0
  etok : Nat := 0
  deriving DecidableEq, Repr, Inhabited

/-- A sequence of a beat table (Table 12.13, section 0x05). -/
structure SeqEntry where
  first : Nat := 0
  count : Nat := 0
  lead : Nat := 0
  deriving DecidableEq, Repr, Inhabited

/-- The sections of a region course that are given per core (Table 12.13). -/
structure CoreCourse where
  core : Nat
  slots : List Nat := []
  tiles : List TileOp := []
  chains : List Chain := []
  progs : List (Nat × List CtxInstr) := []
  beats : List BeatEntry := []
  seqs : List SeqEntry := []
  counters : List (Nat × Bool) := []
  deriving DecidableEq, Repr, Inhabited

/-- Areas of the store (Table 7.1). -/
inductive Area where
  | free | parameter | exchange | innerParity | outerParity | working | stepLocal
  deriving DecidableEq, Repr, Inhabited

/-- A run of the store map (R411, section 0x08). -/
structure StoreRun where
  bank : Nat
  first : Nat
  count : Nat
  area : Area
  staging : Bool := false
  deriving DecidableEq, Repr, Inhabited

/-- A sheaf entry: eight members of logical region, bank and first line, and the run length (R141). -/
structure Sheaf where
  members : List (Nat × Nat × Nat)
  n : Nat
  deriving DecidableEq, Repr, Inhabited

/-- A declared flow (R411, section 0x07). -/
structure Flow where
  src : Nat
  dmod : Nat
  dregion : Nat
  space : Bool
  index : Nat
  prio : Bool
  vc : Nat
  rate : Nat
  burst : Nat
  deriving DecidableEq, Repr, Inhabited

/-- A DMA channel declaration (R411, section 0x0A). -/
structure DmaDecl where
  engine : Nat
  channel : Nat
  cpri : Nat
  cmode : Bool
  core : Nat
  y : Nat
  dring : Nat
  cring : Nat
  deriving DecidableEq, Repr, Inhabited

/-- The micro-batch unit of a region (R253): kind 0 context, 1 tile operation, 2 chain. -/
structure MbUnit where
  kind : Nat
  core : Nat
  index : Nat
  pos : Nat := 0
  deriving DecidableEq, Repr, Inhabited

/-- An orchard consumer (R411, section 0x0B type 3). -/
structure OrcConsumer where
  table : Nat
  core : Nat
  soff : Nat
  ctr : Nat
  deriving DecidableEq, Repr, Inhabited

/-- A region course (R253, R411). -/
structure RegionCourse where
  cores : List CoreCourse := []
  flows : List Flow := []
  runs : List StoreRun := []
  lists : List (List Nat) := []
  sheaves : List Sheaf := []
  dma : List DmaDecl := []
  mbUnits : List MbUnit := []
  classes : List (Nat × Nat) := []
  orcCons : List OrcConsumer := []
  siCtrs : List (Nat × Bool × Nat) := []
  deriving DecidableEq, Repr, Inhabited

/-- A parameter group (Table 8.1); binary32 fields as bits. -/
structure Group where
  recipe : Nat := 0
  decay : Nat := 0
  clip : Nat := 0
  biasc : Bool := false
  trscope : Bool := false
  ripe : Nat := 0
  sched : Nat := 0
  b1 : Nat := 0
  b2 : Nat := 0
  eps : Nat := 0
  lambda : Nat := 0
  clipc : Nat := 0
  lrmul : Nat := 0
  rbeta : Nat := 0
  trmax : Nat := 0
  deriving DecidableEq, Repr, Inhabited

/-- A schedule (Table 8.2). -/
structure Sched where
  form : Nat := 0
  s0 : Nat := 0
  warm : Nat := 0
  dsteps : Nat := 1
  peak : Nat := 0
  floor : Nat := 0
  rsq : Nat := 1
  pts : List (Nat × Nat) := []
  deriving DecidableEq, Repr, Inhabited

/-- A shard (Table 8.3); `runs` are the six copy runs in order (master, moments, ripe, working, buffer), none for a copy not kept. -/
structure Shard where
  group : Nat := 0
  nlines : Nat := 2
  runs : List (Option Nat) := []
  hbank : Nat := 0
  hline : Nat := 0
  ncont : Nat := 1
  abase : Nat := 0
  normc : Bool := false
  epoch : Nat := 0
  release : List Wait := []
  ready : List Emit := []
  frees : List Emit := []
  deriving DecidableEq, Repr, Inhabited

/-- Loss scaling (Table 8.4). -/
structure LossScale where
  lsen : Bool := false
  e0 : Int := 0
  emin : Int := 0
  emax : Int := 0
  down : Nat := 1
  grow : Nat := 1
  deriving DecidableEq, Repr, Inhabited

/-- An orchard table (Table 12.14, kind 0x24) with its owners (kind 0x28). -/
structure OrcTable where
  table : Nat
  rows : Nat
  width : Nat
  lines : Nat
  group : Nat
  k : Nat
  maxList : Nat
  lookahead : Nat
  emits : List Emit := []
  owners : List (Nat × Nat × Nat × Nat) := []   -- logical region, cache list, working list, cache rows
  deriving DecidableEq, Repr, Inhabited

/-- The press course of one logical region: scale-ready emits and shards (R412). -/
structure PressRegion where
  lregion : Nat
  scaleReady : List Emit := []
  shards : List Shard := []
  deriving DecidableEq, Repr, Inhabited

/-- The press course (R161, R412). -/
structure PressCourse where
  ls : LossScale := {}
  cells : List (Nat × Nat × Nat) := []   -- logical region, logical core, SRAM offset
  groups : List Group := []
  scheds : List Sched := []
  tables : List OrcTable := []
  regions : List PressRegion := []
  deriving DecidableEq, Repr, Inhabited

/-- A link declaration (R231). -/
structure LinkDecl where
  engine : Nat
  link : Nat
  tx : Nat
  rx : Nat
  pmod : Nat
  pengine : Nat
  minl : Nat
  deriving DecidableEq, Repr, Inhabited

/-- A route of the module route table (R238). -/
structure Route where
  epoch : Nat
  dmod : Nat
  hops : List (Nat × Nat)
  deriving DecidableEq, Repr, Inhabited

/-- An outer sheaf declaration (R148). -/
structure OuterSheaf where
  d : Nat
  data : List Nat
  parity : Nat
  own : Nat
  lregion : Nat
  list : Nat
  n : Nat
  deriving DecidableEq, Repr, Inhabited

/-- A relay declaration (R208). -/
structure Relay where
  lregion : Nat
  core : Nat
  ctx : Nat
  ctr : Nat
  dmod : Nat
  dregion : Nat
  dcore : Nat
  doff : Nat
  dctr : Nat
  deriving DecidableEq, Repr, Inhabited

/-- The link course (R253, R412). -/
structure LinkCourse where
  mod : Nat := 0
  loopMod : Nat := 0xFFFF
  held : Nat := 1
  lists : List (Nat × List Nat) := []
  links : List LinkDecl := []
  slots : List (Nat × Nat × Nat) := []     -- engine, slot, module
  routes : List Route := []
  outer : List OuterSheaf := []
  relays : List Relay := []
  xtoks : List (Nat × Nat × Nat × Nat) := []   -- consumer region, unit, counter, source module
  inlogs : List (Nat × Nat × Nat) := []    -- partner module, logical region, line list
  deriving DecidableEq, Repr, Inhabited

/-- The step course (R253, R412). -/
structure StepCourse where
  mb : Nat := 1
  resGiB : Nat := 4
  s : Nat := 2
  commits : List Nat := []
  store : List (Nat × Nat × Nat) := []     -- logical region, run A list, run B list
  touch : List (Nat × Nat × Nat) := []     -- table, first slot line, lines per micro-batch
  deriving DecidableEq, Repr, Inhabited

/-- The mode course (Table 12.8). -/
structure ModeCourse where
  prec : Bool := false
  updt : Bool := false
  spare : Bool := false
  prot : Bool := false
  clock : Nat := 0
  store : Bool := false
  trap : Bool := false
  back : Bool := false
  rchk : Bool := false
  hwin : Bool := false
  diag : Nat := 0
  sbw : Nat := 24
  sbe : Nat := 23
  tmask : Nat := 0
  gradOnly : Bool := false
  frun : List Nat := []
  flow : List Nat := []
  outm : Nat := 0
  deriving DecidableEq, Repr, Inhabited

/-- An image, full or re-shard, as its bytes spell it (R249 to R253). -/
structure Image where
  reshard : Bool := false
  cold : Bool := true
  imageId : Nat := 0
  step0 : Nat := 0
  lepoch0 : Nat := 0
  nreg : Nat := 0
  keyId : U64 := 0
  table : List (Nat × Nat × Nat × Nat) := []   -- CTYPE, CINDEX, COFF, CLEN
  digests : List Digest := []                  -- course digests, in course-table order
  moved : List (Nat × Nat) := []               -- shards that the re-shard it comes from moves, by new owner (R216)
  regions : List (Nat × RegionCourse) := []
  link : Option LinkCourse := none
  press : Option PressCourse := none
  step : Option StepCourse := none
  mode : Option ModeCourse := none
  settings : List (Nat × U32) := []
  deriving DecidableEq, Repr, Inhabited

/-- A bounded-plane or Hezin packet (Tables 6.4 and 11.5). The model adds `tag`, a name of the operation it belongs to; `base`, the operation's first offset (with `glen` the operation's whole range for every kind); `stampD`, the line-stamp part of a parity delta; `org`, the cluster whose store port a store interface's packet leaves by, or the router at which a packet that only passes through the module entered; `parts`, the operations of the packets combined into this one, with their packet counts; `iter`, the loop iteration of the operation (R285); and `seng` and `sslot`, the source engine and partner slot whose stream carries it on Hezin (log entries 23, 26, 117 and 142). -/
structure Packet where
  vc : Nat := 0
  prio : Bool := false
  leg : Bool := false
  kind : Nat := 0
  pidx : Nat := 0
  last : Bool := true
  nflag : Nat := 0
  gaddr : U64 := 0
  smod : Nat := 0
  slregion : Nat := 0
  skind : Nat := 0
  sunit : Nat := 0
  sctx : Nat := 0
  ltok : Nat := 0
  ttok : Nat := 0
  count : Nat := 1
  glen : Nat := 1
  layout : U32 := 0
  iregion : Option Nat := none
  hops : Nat := 0
  hkind : Nat := 0
  cetag : Nat := 0
  tseq : U32 := 0
  payload : List Byte := []
  tag : Nat := 0
  base : Nat := 0
  stampD : Nat := 0
  org : Nat := 0
  parts : List (Nat × Nat) := []
  iter : Nat := 0
  seng : Nat := 0
  sslot : Nat := 0
  deriving DecidableEq, Repr, Inhabited

/-- A numeric record with the batten header of its source (Tables 2.4, 2.6). -/
structure NumRec where
  step : U64 := 0
  mbatch : Nat := 0
  replay : Bool := false
  lregion : Nat := 0
  pregion : Nat := 0
  lcore : Nat := 0
  pcore : Nat := 0
  tileId : U32 := 0
  w0 : U32 := 0
  w1 : U32 := 0
  store : Bool := false
  deriving DecidableEq, Repr, Inhabited

/-- The health-log fields a fault report or event carries (Table 13.9, bytes 0x08 to 0x1B). -/
structure HealthRec where
  cls : Nat
  action : Nat := 0
  done : Bool := false
  pregion : Nat := 63
  lregion : Nat := 63
  unit : Nat := 0xFFFF
  sub : Nat := 0
  detail : Nat := 0
  deriving DecidableEq, Repr, Inhabited

/-- What a fault report says has failed (Table 13.1). -/
inductive FaultKind where
  | core (pregion : Region) (pcore : PCore) (cls : Nat)
  | region (pregion : Region) (cls : Nat)
  | storeLine (pregion : Region) (bank line : Nat)
  | engine (e : Engine)
  deriving DecidableEq, Repr

/-- Where a fault report comes from: the batten network holds it, or a unit raises it whose failure no other command shows: core memory, region supply, flash (Table 13.1; log entry 148). -/
inductive FaultSource where
  | queued (i : Nat)
  | raised (k : FaultKind)
  deriving DecidableEq, Repr

/-- The average receive power of a lane, in thousandths of a dBm (R225). -/
structure LanePower where
  lane : Fin 64
  mdbm : Int
  deriving DecidableEq, Repr

/-- The lane tags of the last 64 codewords of a lane, all of which decoded (R226). -/
structure LaneTags where
  lane : Fin 64
  tags : List (BitVec 20)
  deriving DecidableEq, Repr

/-- What a lane's decoder counted over a period: bits corrected and uncorrectable codewords (R229, R230). -/
structure LaneErrs where
  bits : Nat
  unc : Nat
  deriving DecidableEq, Repr

/-- A packet of a transport stream, by its class and `TSEQ` (R242). -/
structure TxRef where
  cls : Fin 4
  tseq : U32
  deriving DecidableEq, Repr

/-- A lost engine: of this module, or of the named partner (R244). -/
structure LostEngine where
  engine : Engine
  partner : Option U16
  deriving DecidableEq, Repr

/-- Where a configuration parity mismatch was found (R368). -/
inductive ParitySite where
  | core (r : Region) (c : PCore)
  | region (r : Region)
  | control (staged : Bool) (addr : BitVec 26)
  deriving DecidableEq, Repr

/-- A unit that an operation can be applied at (R91, R102). -/
inductive Target where
  | core (r : Region) (c : Core)
  | store (r : Region)
  | port (r : Region) (c : Core)
  deriving DecidableEq, Repr

/-- A DMA channel: engine x 16 + channel of a region, or a bridge channel (R194). -/
inductive Chan where
  | region (r : Region) (n : Fin 128)
  | bridge (c : Fin 256)
  deriving DecidableEq, Repr

/-- How a link or scheduled-plane transfer arrived (R124). -/
inductive LinkErr where
  | clean | corrected | uncorrectable
  deriving DecidableEq, Repr

/-- What a store read found (R137). -/
inductive EccRead where
  | clean
  | corrected (symbol : Nat)
  | uncorrectable
  deriving DecidableEq, Repr

/-- The submission queue and identifier of an Afist command (R342). -/
structure CmdHdr where
  sq : Fin 16128
  cid : U16
  tmo : U16 := 0            -- timeout in units of 10 ms, 0 for the command's default
  since : U64 := 0          -- control-die time of its fetch (R345)
  deriving DecidableEq, Repr

/-- A norm record (Table 8.5); sums are binary64 bits. -/
structure NormRec where
  step : U64
  cepoch : U32
  lepoch : U32
  mod : U16
  flags : U16
  sglob : U64
  sgrp : List U64
  deriving DecidableEq, Repr

/-- A sag exchange record (R295). -/
structure SagRec where
  mod : U16
  step : U64
  cepoch : U32
  sag : U64
  sent : U64
  echoSent : U64
  echoAt : U64
  deriving DecidableEq, Repr

/-- An identity frame of a link (Table 11.3): with the credits it grants to each class (R237), and its sender's own judgement of the link, once it has judged (log entry 143). -/
structure IdFrame where
  midd : Digest
  mod : U16
  engine : Engine
  fibres : Byte
  cepoch : U32
  root : Digest
  lepoch : U32
  credits : List Nat := []
  agrees : Option Bool := none
  deriving DecidableEq, Repr

/-- A beacon (Table 11.7). -/
structure Beacon where
  step : U64
  cepoch : U32
  lepoch : U32
  mod : U16
  eng : Byte
  flags : Byte
  sag : U64
  root : Digest
  deriving DecidableEq, Repr

/-- What the model adds to the packet whose header and payload stand in a frame: the fields of `Packet` that Table 6.4 does not hold, and the bytes of its payload (log entry 142). -/
structure PktName where
  tag : Nat := 0
  base : Nat := 0
  glen : Nat := 1
  stampD : Nat := 0
  parts : List (Nat × Nat) := []
  seng : Nat := 0
  sslot : Nat := 0
  bytes : Nat := 0
  deriving DecidableEq, Repr, Inhabited

/-- A link frame: its control flit (Table 11.4), its 19 payload flits, and the names of the packets that its payload completes. -/
structure Frame where
  ctl : BitVec 256
  flits : List (BitVec 256)
  names : List PktName := []
  deriving DecidableEq, Repr

/-- The codeword counters that the lanes of a link carry at one moment, in ascending lane number (R226, R233). -/
structure LaneHeard where
  counters : List (BitVec 10)
  deriving DecidableEq, Repr

/-- A point at which lanes may join or leave a link's striping: the codeword counter, how many codewords ago a lane-change frame agreed it, and what the lanes then carry (R233). -/
structure ChangePoint where
  counter : BitVec 10
  lead : Nat
  heard : LaneHeard
  deriving DecidableEq, Repr

/-- A transport acknowledgement (Table 11.6), with the source engine of its stream (log entry 142). -/
structure TAck where
  dmod : U16
  amod : U16
  vc : Fin 4
  slot : Fin 256
  cum : U32
  sel : BitVec 128
  hops : Nat := 0
  eng : Engine := 0
  deriving DecidableEq, Repr

/-- A training word (R227). -/
structure TrainWord where
  marker : U32
  lane : BitVec 10
  coef : BitVec 6
  converged : Bool
  rsv : BitVec 47 := 0
  crc : U32 := 0
  deriving DecidableEq, Repr

/-- The signed record of the meter, 256 bytes as a number, byte 0 lowest (Table 17.3). -/
abbrev MeterRec := BitVec 2048

/-- What the inlet's sensors show of a millisecond: voltage in millivolts and power in watts as the carrier measures them (R311, R314), and the meter's own voltage in millivolts and channel currents in milliamperes, negative where energy flows out (R376, R379). -/
structure InletReading where
  mv : U16
  watts : U16
  meterMv : U32
  chanA : Int
  chanB : Int
  deriving DecidableEq, Repr

/-- A frame of the export link (R388). -/
inductive ExportFrame where
  | status (mtime eimp erev : U64) (flags : U16) (seq : U64)
  | record (r : MeterRec)
  | sag (mtime : U64) (dur : U32) (low : U16)
  | identity (pub : BitVec 456) (serial : U64) (checksum : U32) (version : U16)
  | bad
  deriving DecidableEq, Repr

/-- A marker frame to the meter (R389). -/
structure Marker where
  epoch : U32
  root : BitVec 192
  step : U64
  deriving DecidableEq, Repr

/-- The three complement-pair guards (R369). -/
inductive Guard where
  | fence | rpwr | promo
  deriving DecidableEq, Repr

/-- What the bridge was waiting on the host for (R334). -/
inductive HostWait where
  | chan (c : Fin 256) (write : Bool)
  | command (h : CmdHdr)
  deriving DecidableEq, Repr

end Sys2Proof
end

