-- ==== Sys2Proof/Syntax.lean ====
section
/-! DEFINITION. The commands of the block: one constructor for each row of spec/opcode_table.json, in the table's order, with the operands its rule names. What the outside world decides (a measured value, an error on a wire, which of several packets arrives) is an operand; everything else is state. -/

namespace Sys2Proof

/-- The commands. Each constructor's docstring gives its row and rule. -/
inductive Instr where
  /-- IDENTIFY (R347). -/
  | identify (h : CmdHdr) (haddr : U64)
  /-- ATTEST (R400). -/
  | attest (h : CmdHdr) (haddr : U64) (nonce : BitVec 256) (hlen : U32)
  /-- HEALTH_READ (R347). -/
  | healthRead (h : CmdHdr) (haddr : U64) (sel : Byte) (fromSeq count : U32)
  /-- LINK_STATUS (R347). -/
  | linkStatus (h : CmdHdr) (haddr : U64) (engmask : U16)
  /-- IMAGE_STAGE (R348). -/
  | imageStage (h : CmdHdr) (haddr : U64) (hlen : U32) (ioff : U64)
  /-- RESHARD (R215). -/
  | reshard (h : CmdHdr) (haddr : U64) (hlen : U32) (ioff : U64)
  /-- IMAGE_CHECK (R265). -/
  | imageCheck (h : CmdHdr)
  /-- IMAGE_CHECK_END (R261). -/
  | imageCheckEnd
  /-- IMAGE_ARM (R262). -/
  | imageArm (h : CmdHdr) (b : U64) (e : U32) (haddr : U64)
  /-- IMAGE_ABANDON (R261). -/
  | imageAbandon (h : CmdHdr)
  /-- STEP_RUN (R350). -/
  | stepRun (h : CmdHdr) (limit : U64)
  /-- STEP_HOLD (R350). -/
  | stepHold (h : CmdHdr) (at_ : Byte)
  /-- BATCH_FEED (R351). -/
  | batchFeed (h : CmdHdr) (stepNo : U64)
  /-- COMPUTE_RESET (R329). -/
  | computeReset (h : CmdHdr)
  /-- PARAM_READ (R352). -/
  | paramRead (h : CmdHdr) (haddr : U64) (lregion copy : Byte) (shard : U16) (fline nln : U32)
  /-- PARAM_WRITE (R352). -/
  | paramWrite (h : CmdHdr) (haddr : U64) (lregion copy : Byte) (shard : U16) (fline nln : U32)
  /-- CHECKPOINT_EXPORT (R353). -/
  | checkpointExport (h : CmdHdr) (haddr : U64) (dest flush : Byte) (hlen : U64)
  /-- CHECKPOINT_IMPORT (R353). -/
  | checkpointImport (h : CmdHdr) (haddr : U64) (src : Byte) (sline : U32) (hlen : U64)
  /-- PARTNER_SET (R354). -/
  | partnerSet (h : CmdHdr) (partners : List (U16 × U32))
  /-- FEED_DOMAIN_SET (R354). -/
  | feedDomainSet (h : CmdHdr) (own : U16) (domains : List (U16 × U16))
  /-- NUMERIC_RING_READ (R355). -/
  | numericRingRead (h : CmdHdr) (haddr : U64) (maxN : U16) (adv : Byte)
  /-- METER_MIRROR_READ (R390). -/
  | meterMirrorRead (h : CmdHdr) (haddr fromSeq : U64) (count : U32)
  /-- KEY_ENROL (R396). -/
  | keyEnrol (h : CmdHdr) (haddr : U64) (slot : Byte)
  /-- LOCK (R371). -/
  | lock (h : CmdHdr) (mask : U32)
  /-- COMMAND_FETCH (R344). -/
  | commandFetch
  /-- LANE_COMMAND_START (R344). -/
  | laneCommandStart
  /-- COMMAND_TIMEOUT (R345). -/
  | commandTimeout (h : CmdHdr)
  /-- COMPLETION_ENTRY_WRITE (R192). -/
  | completionEntryWrite (q : Fin 32768)
  /-- MSI_X_COALESCE_TIMEOUT (R192). -/
  | msiXCoalesceTimeout (q : Fin 32768)
  /-- HOST_QUEUE_CREATE (R189). -/
  | hostQueueCreate (q : Fin 32768)
  /-- HOST_QUEUE_DELETE (R189). -/
  | hostQueueDelete (q : Fin 32768)
  /-- DB_PROD (R190). -/
  | dbProd (q : Fin 32768) (v : U32)
  /-- DB_CONS (R190). -/
  | dbCons (q : Fin 32768) (v : U32)
  /-- HEADER_LINE_REREAD (R191). -/
  | headerLineReread (q : Fin 32768)
  /-- BRIDGE_DMA_RESUME (R203). -/
  | bridgeDmaResume (c : Fin 256)
  /-- BRIDGE_DMA_ABORT (R203). -/
  | bridgeDmaAbort (c : Fin 256)
  /-- CONSUMER_INDEX_WRITE (R43). -/
  | consumerIndexWrite (v : U32)
  /-- OVERWRITE_OLDEST (R390). -/
  | overwriteOldest
  /-- STOP_AT_FULL (R390). -/
  | stopAtFull
  /-- CLEAR_THE_MIRROR (R390). -/
  | clearTheMirror
  /-- GUARD_VALUE_WRITE (R369). -/
  | guardValueWrite (g : Guard) (v : U32)
  /-- CTL_GRD_FENCE (R370). -/
  | ctlGrdFence (comp : U32)
  /-- CTL_GRD_RPWR (R370). -/
  | ctlGrdRpwr (comp : U32)
  /-- CTL_GRD_PROMO (R370). -/
  | ctlGrdPromo (comp : U32)
  /-- GUARD_CONFIRM_TIMEOUT (R369). -/
  | guardConfirmTimeout
  /-- LOCK_BIT_WRITE (R371). -/
  | lockBitWrite (v : U32)
  /-- CTL_CLK_WRITE (R304). -/
  | ctlClkWrite (v : U32)
  /-- FSET_WRITE (R304). -/
  | fsetWrite (r : Region) (v : U32)
  /-- GRANT (R406). -/
  | grant (r : Region) (v : U32)
  /-- CTL_DBG_WRITE (R399). -/
  | ctlDbgWrite (v : U32)
  /-- REGISTER_WRITE (R363). -/
  | registerWrite (addr : BitVec 26) (size : BitVec 4) (data : U64) (poison : Bool)
  /-- CLEAR_ON_READ (R367). -/
  | clearOnRead (addr : BitVec 26) (size : BitVec 4)
  /-- MANAGEMENT_BUS_WRITE (R323). -/
  | managementBusWrite (index : Byte) (data : Option U32)
  /-- MANAGEMENT_BUS_CLOCK_STUCK (R323). -/
  | managementBusClockStuck
  /-- WINDOW_WRITE (R338). -/
  | windowWrite (off : BitVec 40) (data : List Byte) (poison : Bool)
  /-- WINDOW_READ (R338). -/
  | windowRead (off : BitVec 40) (len : Nat)
  /-- TILE_OPERATION_ISSUE (R60). -/
  | tileOperationIssue (r : Region) (c : Core)
  /-- TILE_DRAIN (R38). -/
  | tileDrain (r : Region) (c : Core)
  /-- VECTOR_CHAIN_ISSUE (R73). -/
  | vectorChainIssue (r : Region) (c : Core)
  /-- VECTOR_CHAIN_COMPLETE (R79). -/
  | vectorChainComplete (r : Region) (c : Core)
  /-- PUT (R87). -/
  | put (r : Region) (c : Core)
  /-- GET (R87). -/
  | get (r : Region) (c : Core)
  /-- REDUCE_ADD (R88). -/
  | reduceAdd (r : Region) (c : Core)
  /-- REDUCE_MAX (R88). -/
  | reduceMax (r : Region) (c : Core)
  /-- REDUCE_XOR (R87). -/
  | reduceXor (r : Region) (c : Core)
  /-- COMPARE_AND_SWAP (R87). -/
  | compareAndSwap (r : Region) (c : Core)
  /-- WAIT (R252). -/
  | wait (r : Region) (c : Core)
  /-- EMIT (R98). -/
  | emit (r : Region) (c : Core)
  /-- LAUNCH (R109). -/
  | launch (r : Region) (c : Core)
  /-- LOOP (R252). -/
  | loop (r : Region) (c : Core)
  /-- END (R252). -/
  | endProg (r : Region) (c : Core)
  /-- REMOTE_OPERATION_APPLY (R91). -/
  | remoteOperationApply (t : Target)
  /-- GET_DATA_ARRIVAL (R91). -/
  | getDataArrival (r : Region) (c : Core)
  /-- PUT_ACKNOWLEDGEMENT (R91). -/
  | putAcknowledgement (r : Region) (c : Core)
  /-- COMPARE_AND_SWAP_RESULT (R87). -/
  | compareAndSwapResult (r : Region) (c : Core)
  /-- EMIT_ARRIVAL (R98). -/
  | emitArrival (i : Nat)
  /-- LAUNCH_ARRIVAL (R110). -/
  | launchArrival (r : Region) (c : Core)
  /-- BEAT_TABLE_ENTRY (R108). -/
  | beatTableEntry (r : Region) (c : Core) (err : LinkErr)
  /-- PACKET_FORWARD (R120). -/
  | packetForward (router : Fin 1344) (out : Fin 7) (err : LinkErr)
  /-- CONFIGURATION_WRITE (R130). -/
  | configurationWrite (r : Region) (unit : U16) (off data : U32)
  /-- CONFIGURATION_READ_REQUEST (R130). -/
  | configurationReadRequest (r : Region) (unit : U16) (off : U32)
  /-- CONFIGURATION_READ_RESPONSE (R130). -/
  | configurationReadResponse (i : Nat)
  /-- NUMERIC_RECORD (R42). -/
  | numericRecord (i : Nat)
  /-- NUMERIC_RECORD_EXPIRY (R132). -/
  | numericRecordExpiry (i : Nat)
  /-- MICRO_BATCH_REPORT (R46). -/
  | microBatchReport (i : Nat)
  /-- HOLD_TOKEN (R46). -/
  | holdToken (r : Region)
  /-- HOLD_REACHED (R46). -/
  | holdReached
  /-- END_OF_STEP_REPORT (R19). -/
  | endOfStepReport (r : Region)
  /-- STEP_COMMIT (R22). -/
  | stepCommit
  /-- COMMIT_TOKEN (R19). -/
  | commitToken (r : Region)
  /-- CONTRIBUTION_ARRIVAL (R164). -/
  | contributionArrival (r : Region)
  /-- SHARD_UPDATE (R166). -/
  | shardUpdate (r : Region) (k : Fin 4096)
  /-- SHARD_SUM (R168). -/
  | shardSum (r : Region) (k : Fin 4096)
  /-- NORM_RECORD_SEND (R169). -/
  | normRecordSend
  /-- NORM_RECORD_ARRIVAL (R169). -/
  | normRecordArrival (n : NormRec)
  /-- NORM_EXCHANGE_COMPLETE (R170). -/
  | normExchangeComplete
  /-- NORM_EXCHANGE_TIMEOUT (R169). -/
  | normExchangeTimeout (m : U16)
  /-- HELD_SHARD_UPDATE (R170). -/
  | heldShardUpdate (r : Region) (k : Fin 4096)
  /-- FINGERPRINT_ARRIVAL (R297). -/
  | fingerprintArrival (m : U16) (r : Region) (k : Fin 4096) (stepNo : U64) (fp : BitVec 128)
  /-- FINGERPRINT_TIMEOUT (R297). -/
  | fingerprintTimeout (m : U16) (r : Region) (k : Fin 4096)
  /-- STAMP_REFRESH (R284). -/
  | stampRefresh (r : Region)
  /-- DELTA_PACKET_ARRIVAL (R145). -/
  | deltaPacketArrival (r : Region)
  /-- SCRUB (R138). -/
  | scrub (r : Region) (bank : Core) (line : Nat) (found : EccRead)
  /-- LINE_RECOVERED (R137). -/
  | lineRecovered (r : Region) (bank : Core) (line : Nat)
  /-- DRAM_ROW_REMAP (R139). -/
  | dramRowRemap (r : Region) (bank : Core) (row : Nat)
  /-- ORCHARD_ROW_PREPARE (R156). -/
  | orchardRowPrepare (r : Region) (table : Fin 64) (row : U32)
  /-- ORCHARD_FILL_COMPLETE (R156). -/
  | orchardFillComplete (r : Region) (table : Fin 64) (row : U32)
  /-- ORCHARD_FILL_TIMEOUT (R156). -/
  | orchardFillTimeout (r : Region) (table : Fin 64) (row : U32)
  /-- FLASH_DIE_LOST (R153). -/
  | flashDieLost (die : Fin 4)
  /-- DESCRIPTOR_FETCH (R197). -/
  | descriptorFetch (ch : Chan)
  /-- DESCRIPTOR_RUN (R197). -/
  | descriptorRun (ch : Chan)
  /-- DMA_READ_REQUEST (R198). -/
  | dmaReadRequest (t : Target)
  /-- DMA_READ_DATA (R198). -/
  | dmaReadData (ch : Chan)
  /-- DMA_WRITE_ARRIVAL (R198). -/
  | dmaWriteArrival (t : Target)
  /-- DMA_WRITE_ACKNOWLEDGEMENT (R201). -/
  | dmaWriteAcknowledgement (ch : Chan)
  /-- DESCRIPTOR_COMPLETE (R201). -/
  | descriptorComplete (ch : Chan)
  /-- HOST_COMPLETION_TIMEOUT (R334). -/
  | hostCompletionTimeout (w : HostWait)
  /-- MOVE_BEGIN (R217). -/
  | moveBegin (r : Region) (k : Fin 4096)
  /-- MOVE_COMPLETE (R218). -/
  | moveComplete (r : Region) (k : Fin 4096)
  /-- LANE_POWER_IN_RANGE (R228). -/
  | lanePowerInRange (e : Engine) (l : Fin 64)
  /-- RECEIVER_OVER_POWER (R225). -/
  | receiverOverPower (e : Engine) (p : LanePower)
  /-- TRAINING_WORD (R227). -/
  | trainingWord (e : Engine) (l : Fin 64) (w : TrainWord)
  /-- LANE_STATE_TIMEOUT (R228). -/
  | laneStateTimeout (e : Engine) (l : Fin 64)
  /-- CODEWORD_LOCK (R228). -/
  | codewordLock (e : Engine) (x : LaneTags)
  /-- MEASURE_END (R229): what the own decoder counted, and the errored bits that the partner reports. -/
  | measureEnd (e : Engine) (l : Fin 64) (own : LaneErrs) (partnerErrs : Nat)
  /-- ERROR_WINDOW_END (R230): what the own decoder counted, and the errored bits that the partner reports. -/
  | errorWindowEnd (e : Engine) (l : Fin 64) (own : LaneErrs) (partnerErrs : Nat)
  /-- LOSS_OF_CODEWORD_LOCK (R228). -/
  | lossOfCodewordLock (e : Engine) (l : Fin 64)
  /-- LANE_CHANGE_POINT (R233). -/
  | laneChangePoint (e : Engine) (j : Fin 8) (point : ChangePoint)
  /-- LINK_ALIGN (R233). -/
  | linkAlign (e : Engine) (j : Fin 8) (heard : LaneHeard)
  /-- IDENTITY_FRAME (R232). -/
  | identityFrame (e : Engine) (j : Fin 8) (f : IdFrame)
  /-- IDENTIFY_TIMEOUT (R232). -/
  | identifyTimeout (e : Engine) (j : Fin 8)
  /-- FRAME_RECEIPT (R235). -/
  | frameReceipt (e : Engine) (j : Fin 8) (f : Frame)
  /-- LINK_REPLAY_TIMEOUT (R235). -/
  | linkReplayTimeout (e : Engine) (j : Fin 8)
  /-- TRANSPORT_PACKET_ACCEPT (R240). -/
  | transportPacketAccept (e : Engine) (p : Packet)
  /-- TRANSPORT_ACKNOWLEDGEMENT (R242). -/
  | transportAcknowledgement (e : Engine) (a : TAck)
  /-- TRANSPORT_RETRANSMISSION (R242): the packet whose `RTO` has passed. -/
  | transportRetransmission (e : Engine) (slot : Fin 256) (p : TxRef)
  /-- ENGINE_LOSS (R244): an engine of this module, or of a partner. -/
  | engineLoss (x : LostEngine)
  /-- BEACON_SEND (R246). -/
  | beaconSend (e : Engine) (j : Fin 8)
  /-- BEACON_RECEIPT (R246). -/
  | beaconReceipt (e : Engine) (j : Fin 8) (f : Frame)
  /-- BEACON_MISS (R246). -/
  | beaconMiss (e : Engine) (j : Fin 8)
  /-- APPLY_TOKEN (R263). -/
  | applyToken (r : Region)
  /-- REGION_LOAD_COMPLETE (R256). -/
  | regionLoadComplete (r : Region) (digestOk : Bool)
  /-- GO_TOKEN (R263). -/
  | goToken
  /-- LIVE_SIGNAL_TIMEOUT (R274). -/
  | liveSignalTimeout (r : Region) (c : PCore)
  /-- OPERATION_DEADLINE (R275). -/
  | operationDeadline (r : Region) (c : Core) (i : Nat)
  /-- QUIESCENCE_WATCHDOG (R276). -/
  | quiescenceWatchdog
  /-- PARTNER_LOSS (R277). -/
  | partnerLoss (m : U16)
  /-- ILLEGAL_OPERATION_REPORT (R278). -/
  | illegalOperationReport (i : Nat) (digestOk : Bool)
  /-- FAULT_REPORT (R281). -/
  | faultReport (f : FaultSource)
  /-- REGION_SUPPLY_TRIP (R288). -/
  | regionSupplyTrip (r : Region)
  /-- LOCKSTEP_DIVERGENCE (R340). -/
  | lockstepDivergence
  /-- CONFIGURATION_PARITY_SCRUB (R368). -/
  | configurationParityScrub (site : ParitySite)
  /-- REWIND (R281). -/
  | rewind (r : Region)
  /-- REWIND_QUIESCENT (R281). -/
  | rewindQuiescent
  /-- DRAIN_TIMEOUT (R281). -/
  | drainTimeout
  /-- RESUME_TOKEN (R281). -/
  | resumeToken
  /-- STANDBY_POWERED (R289). -/
  | standbyPowered
  /-- REBUILD_CHAIN_STEP (R289). -/
  | rebuildChainStep (g : Region) (sheaf line : Nat)
  /-- REPLAY_START (R290). -/
  | replayStart
  /-- COMMIT_POINT_REPORT (R279). -/
  | commitPointReport (r : Region)
  /-- SNAPSHOT_SETTLED (R279). -/
  | snapshotSettled
  /-- SAG_EXCHANGE_SEND (R295). -/
  | sagExchangeSend
  /-- SAG_EXCHANGE_RECORD (R295). -/
  | sagExchangeRecord (x : SagRec)
  /-- PLL_LOCKED (R305). -/
  | pllLocked (r : Region)
  /-- PLL_LOCK_TIMEOUT (R305). -/
  | pllLockTimeout (r : Region)
  /-- POWER_FAIL (R311). -/
  | powerFail (mv : U16)
  /-- OVER_VOLTAGE (R311). -/
  | overVoltage (mv : U16)
  /-- ABSOLUTE_OVER_VOLTAGE (R311). -/
  | absoluteOverVoltage (mv : U16)
  /-- INLET_RESTORED (R311). -/
  | inletRestored (mv : U16)
  /-- GOVERNOR_TICK (R314). -/
  | governorTick (reading : InletReading)
  /-- THERMAL_DUTY_TICK (R318). -/
  | thermalDutyTick (r : Region) (tj : Byte)
  /-- JUNCTION_TRIP (R318). -/
  | junctionTrip (r : Region)
  /-- COOLANT_SAMPLE (R316). -/
  | coolantSample (flowA flowB tinA tinB : Option (BitVec 10)) (tout : BitVec 10)
  /-- COOLANT_LIMIT (R317). -/
  | coolantLimit
  /-- PWR_EN_HIGH (R320). -/
  | pwrEnHigh
  /-- PWR_EN_LOW (R320). -/
  | pwrEnLow
  /-- MOD_RST_N (R321). -/
  | modRstN
  /-- RSTGL (R321). -/
  | rstgl
  /-- BRING_UP_STAGE_END (R324): regions and cores that failed a self-test, a fuse-map check or training (R325). -/
  | bringUpStageEnd (failed : List Region) (cores : List (Region × PCore))
  /-- BRING_UP_STAGE_TIMEOUT (R324). -/
  | bringUpStageTimeout (coolant : Bool)
  /-- TOPOLOGY_CHECK_PASS (R327). -/
  | topologyCheckPass
  /-- TOPOLOGY_TIMEOUT (R327). -/
  | topologyTimeout
  /-- LINK_ERROR_CHECK (R328). -/
  | linkErrorCheck
  /-- BRIDGE_CONTROLLER_FAILOVER (R335). -/
  | bridgeControllerFailover
  /-- CXL_LINK_RECOVERED (R335). -/
  | cxlLinkRecovered
  /-- INTERVAL_RECORD (R383). -/
  | intervalRecord
  /-- METER_POWER_LOST (R383). -/
  | meterPowerLost (mv : U16)
  /-- METER_POWER_RESTORED (R383). -/
  | meterPowerRestored
  /-- COVER_OPENED (R392). -/
  | coverOpened
  /-- COVER_CLOSED (R383). -/
  | coverClosed
  /-- UNSEATED (R392). -/
  | unseated
  /-- SEATED (R392). -/
  | seated
  /-- SERVICE_SESSION_BEGIN (R392). -/
  | serviceSessionBegin
  /-- SERVICE_SESSION_END (R392). -/
  | serviceSessionEnd
  /-- METER_TIME_ADJUST (R381). -/
  | meterTimeAdjust (t : U64)
  /-- TAMPER_CLEAR (R392). -/
  | tamperClear
  /-- METER_START (R383). -/
  | meterStart
  /-- BUTTON_PRESS (R382). -/
  | buttonPress
  /-- DISPLAY_TIMEOUT (R382). -/
  | displayTimeout
  /-- CHANNEL_COMPARISON (R380). -/
  | channelComparison (a b : U32)
  /-- SAG_BEGIN (R387). -/
  | sagBegin (mv : U16)
  /-- SAG_END (R387). -/
  | sagEnd (dur : U32) (low : U16)
  /-- STATUS_FRAME (R388). -/
  | statusFrame
  /-- IDENTITY_FRAME_EXPORT (R388). -/
  | identityFrameExport
  /-- BACKFILL (R388). -/
  | backfill
  /-- EXPORT_FRAME_RECEIPT (R388). -/
  | exportFrameReceipt (i : Nat) (intact : Bool)
  /-- EXPORT_LOST (R388). -/
  | exportLost
  /-- MARKER_RECEIPT (R389). -/
  | markerReceipt (i : Nat) (intact : Bool)
  /-- MARKER_HOLD_END (R389). -/
  | markerHoldEnd
  /-- IDE_KM_OVER_DOE (R331). -/
  | ideKmOverDoe (established : Bool)
  deriving DecidableEq, Repr

end Sys2Proof
end

