-- ==== Sys2Proof/Config.lean ====
section
/-! DEFINITION. What an implementation fixes and the values the manual leaves open. Every open value is an opaque constant: no proof can see what it is. -/

namespace Sys2Proof.Config

/-- A fresh undefined value: the n-th value the manual leaves open, read as a number (log entry 1). -/
opaque freeValue : Nat → Nat

/-- Results of `FN` and `DFN` that R77 binds only by an accuracy bound, taken where they lie within it: format code, function code, derivative flag and operand bits give the result bits (log entry 2). -/
opaque fnValue : (fmt : Nat) → (fun_ : Nat) → (deriv : Bool) → (operand : Nat) → Nat

/-- The binary64 power B^t of R171, whose order of multiplications the manual does not give, taken where it lies within t ulp (log entry 3). -/
opaque powValue : (b : Nat) → (t : Nat) → Nat

/-- The binary64 cosine of R174, cos(pi x u / d), taken where it lies within 1 ulp (log entry 4). -/
opaque cosValue : (u : Nat) → (d : Nat) → Nat

/-- The public key of the vendor root in Afist ROM, 57 bytes as a number (R394; log entry 6). -/
opaque vendorRoot : Nat

/-- SHAKE256 digest of the Afist ROM, first 64 bytes (R400; log entry 6). -/
opaque romDigest : Digest

/-- What an overlapped stream element reads under R71: true for the value being written (log entry 7). -/
opaque overlapNew : Nat → Bool

/-- Where a partner module keeps the outer parity of a line: logical region, bank and line there, from the module, and the line's own region, bank and line (R148; log entry 40). -/
opaque outerPlace : (m lregion bank line : Nat) → Nat × Nat × Nat

/-- What a count of waiting cycles holds of the step that has ended: physical region, register offset, configuration epoch, step (R80, R105, R133; log entry 116). -/
opaque waitCount : (region off : Nat) → (epoch : U32) → (step : U64) → U32

end Sys2Proof.Config
end

