-- ==== Sys2Proof/Machine/Digest.lean ====
section
/-! DEFINITION. SHAKE256 of FIPS 202 (R2), the CRC-32C and the ones'-complement sum of R200. -/

namespace Sys2Proof.Machine

/-- Rotation offsets of Keccak-f[1600], lane x + 5y. -/
def keccakRot : List Nat :=
  [0, 1, 62, 28, 27, 36, 44, 6, 55, 20, 3, 10, 43, 25, 39, 41, 45, 15, 21, 8, 18, 2, 61, 56, 14]

/-- Round constants of Keccak-f[1600]. -/
def keccakRc : List (BitVec 64) :=
  [0x1, 0x8082, 0x800000000000808A, 0x8000000080008000, 0x808B, 0x80000001, 0x8000000080008081, 0x8000000000008009] ++
  [0x8A, 0x88, 0x80008009, 0x8000000A, 0x8000808B, 0x800000000000008B, 0x8000000000008089, 0x8000000000008003] ++
  [0x8000000000008002, 0x8000000000000080, 0x800A, 0x800000008000000A, 0x8000000080008081, 0x8000000000008080, 0x80000001, 0x8000000080008008]

/-- Lane x + 5y of the state. -/
def lane (a : List (BitVec 64)) (x y : Nat) : BitVec 64 := a.getD (x % 5 + 5 * (y % 5)) 0

/-- One round of Keccak-f[1600]. -/
def keccakRound (a : List (BitVec 64)) (rc : BitVec 64) : List (BitVec 64) :=
  let c := (List.range 5).map fun x => lane a x 0 ^^^ lane a x 1 ^^^ lane a x 2 ^^^ lane a x 3 ^^^ lane a x 4
  let d := (List.range 5).map fun x => c.getD ((x + 4) % 5) 0 ^^^ (c.getD ((x + 1) % 5) 0).rotateLeft 1
  let t := (List.range 25).map fun i => a.getD i 0 ^^^ d.getD (i % 5) 0
  let b := (List.range 25).map fun j =>
    let x' := j % 5
    let y' := j / 5
    -- lane (x', y') of B comes from lane (x, y) with x' = y and y' = 2x + 3y
    let y := x'
    let x := (y' + 2 * y) * 3 % 5
    (t.getD (x + 5 * y) 0).rotateLeft (keccakRot.getD (x + 5 * y) 0)
  (List.range 25).map fun i =>
    let x := i % 5
    let y := i / 5
    let v := lane b x y ^^^ (~~~ lane b (x + 1) y &&& lane b (x + 2) y)
    if i = 0 then v ^^^ rc else v

/-- Keccak-f[1600]. -/
def keccakF (a : List (BitVec 64)) : List (BitVec 64) := keccakRc.foldl keccakRound a

/-- Little-endian value of a list of bytes (R4). -/
def leNat : List Byte → Nat
  | [] => 0
  | b :: t => b.toNat + 256 * leNat t

/-- `n` bytes of a number, little-endian (R4). -/
def leBytes : Nat → Nat → List Byte
  | 0, _ => []
  | n + 1, v => BitVec.ofNat 8 v :: leBytes n (v / 256)

/-- Exclusive-or a 136-byte block into the first 17 lanes. -/
def absorb (a : List (BitVec 64)) (block : List Byte) : List (BitVec 64) :=
  (List.range 25).map fun i =>
    if i < 17 then a.getD i 0 ^^^ BitVec.ofNat 64 (leNat ((block.drop (8 * i)).take 8)) else a.getD i 0

/-- Absorb whole blocks, `n` of them. -/
def absorbAll : Nat → List (BitVec 64) → List Byte → List (BitVec 64)
  | 0, a, _ => a
  | n + 1, a, m => absorbAll n (keccakF (absorb a (m.take 136))) (m.drop 136)

/-- The message padded to whole 136-byte blocks with the SHAKE suffix. -/
def shakePad (m : List Byte) : List Byte :=
  let r := m.length % 136
  if r = 135 then m ++ [0x9F]
  else m ++ [0x1F] ++ List.replicate (134 - r) 0 ++ [0x80]

/-- First `n` bytes (n at most 136) of SHAKE256 over a message. -/
def shake256 (m : List Byte) (n : Nat) : List Byte :=
  let p := shakePad m
  let a := absorbAll (p.length / 136) (List.replicate 25 0) p
  ((a.take 17).flatMap fun w => leBytes 8 w.toNat).take n

/-- First 64 bytes of SHAKE256, as the digest value with byte 0 lowest. -/
def digest64 (m : List Byte) : Digest := BitVec.ofNat 512 (leNat (shake256 m 64))

/-- A `KEYID`: first 8 bytes of SHAKE256 over a 57-byte public key (R250, R394). -/
def keyId (pub : Nat) : U64 := BitVec.ofNat 64 (leNat (shake256 (leBytes 57 pub) 8))

/-- One bit of the reflected CRC-32C register (R200). -/
def crcBit (c : U32) : U32 := if c.getLsbD 0 then (c >>> 1) ^^^ 0x82F63B78#32 else c >>> 1

/-- One byte into the reflected CRC-32C register. -/
def crcByte (c : U32) (b : Byte) : U32 :=
  let x := c ^^^ b.setWidth 32
  crcBit (crcBit (crcBit (crcBit (crcBit (crcBit (crcBit (crcBit x)))))))

/-- CRC-32C register carried on over bytes, before the final exclusive-or. -/
def crcRun (c : U32) (m : List Byte) : U32 := m.foldl crcByte c

/-- CRC-32C of R200. -/
def crc32c (m : List Byte) : U32 := crcRun 0xFFFFFFFF#32 m ^^^ 0xFFFFFFFF#32

/-- One 64-bit word into the ones'-complement sum with end-around carry (R200). -/
def onesAdd (a b : Nat) : Nat :=
  let s := a + b
  if s ≥ 2 ^ 64 then s - 2 ^ 64 + 1 else s

/-- Ones'-complement sum carried on over whole 64-bit words, `n` of them. -/
def onesRun : Nat → Nat → List Byte → Nat
  | 0, a, _ => a
  | n + 1, a, m => onesRun n (onesAdd a (leNat (m.take 8))) (m.drop 8)

end Sys2Proof.Machine
end

