-- ==== Sys2Proof/Machine/Ed448.lean ====
section
/-! DEFINITION. Pure Ed448 of RFC 8032 (R2): the curve, keys, signing and verification. -/

namespace Sys2Proof.Machine

/-- The field prime 2^448 − 2^224 − 1. -/
def edP : Nat := 2 ^ 448 - 2 ^ 224 - 1
/-- The order of the base point. -/
def edL : Nat := 2 ^ 446 - 13818066809895115352007386748515426880336692474882178609894547503885
/-- The curve constant d = −39081. -/
def edD : Nat := edP - 39081

def edAdd (a b : Nat) : Nat := (a + b) % edP
def edSub (a b : Nat) : Nat := (a + (edP - b % edP)) % edP
def edMul (a b : Nat) : Nat := a * b % edP

/-- a^e in the field, `n` binary digits of the exponent to go. -/
def edPowGo (a : Nat) : Nat → Nat → Nat
  | 0, _ => 1
  | n + 1, e =>
    let h := edPowGo a n (e / 2)
    let q := edMul h h
    if e % 2 = 1 then edMul q a else q

def edPow (a e : Nat) : Nat := edPowGo a 448 e
def edInv (a : Nat) : Nat := edPow a (edP - 2)

/-- A point in projective coordinates: x = X ÷ Z, y = Y ÷ Z. -/
structure EdPoint where
  x : Nat
  y : Nat
  z : Nat
  deriving DecidableEq, Repr

/-- The neutral point. -/
def EdPoint.zero : EdPoint := ⟨0, 1, 1⟩

/-- The base point. -/
def EdPoint.base : EdPoint :=
  ⟨224580040295924300187604334099896036246789641632564134246125461686950415467406032909029192869357953282578032075146446173674602635247710,
   298819210078481492676017930443930673437544040154080242095928241372331506189835876003536878655418784733982303233503462500531545062832660, 1⟩

/-- The sum of two points. -/
def EdPoint.add (p q : EdPoint) : EdPoint :=
  let a := edMul p.z q.z
  let b := edMul a a
  let c := edMul p.x q.x
  let d := edMul p.y q.y
  let e := edMul edD (edMul c d)
  let f := edSub b e
  let g := edAdd b e
  let h := edMul (edAdd p.x p.y) (edAdd q.x q.y)
  ⟨edMul a (edMul f (edSub (edSub h c) d)), edMul a (edMul g (edSub d c)), edMul f g⟩

/-- k·P, `n` binary digits of k to go. -/
def EdPoint.mulGo (p : EdPoint) : Nat → Nat → EdPoint
  | 0, _ => .zero
  | n + 1, k =>
    let h := p.mulGo n (k / 2)
    let q := h.add h
    if k % 2 = 1 then q.add p else q

/-- k·P for k below 2^456. -/
def EdPoint.mul (p : EdPoint) (k : Nat) : EdPoint := p.mulGo 456 k

/-- The same point. -/
def EdPoint.same (p q : EdPoint) : Bool := decide (edMul p.x q.z = edMul q.x p.z ∧ edMul p.y q.z = edMul q.y p.z)

/-- A point as 57 bytes: y, and the lowest bit of x in the last bit. -/
def EdPoint.encode (p : EdPoint) : Nat :=
  let i := edInv p.z
  edMul p.y i + 2 ^ 455 * (edMul p.x i % 2)

/-- The point that 57 bytes encode, if they encode one. -/
def EdPoint.decode (w : Nat) : Option EdPoint :=
  let sign := w / 2 ^ 455 % 2
  let y := w % 2 ^ 455
  let u := edSub (edMul y y) 1
  let v := edSub (edMul edD (edMul y y)) 1
  let u3v := edMul (edMul u (edMul u u)) v
  let x := edMul u3v (edPow (edMul u3v (edMul (edMul u u) (edMul v v))) ((edP - 3) / 4))
  if y ≥ edP ∨ edMul v (edMul x x) ≠ u ∨ (x = 0 ∧ sign = 1) then none
  else some ⟨if x % 2 = sign then x else edP - x, y, 1⟩

/-- SHAKE256 to 114 bytes over the prefix dom4(0, ctx) and a message, as a number. -/
def edHash (ctx msg : List Byte) : Nat :=
  leNat (shake256 ([0x53, 0x69, 0x67, 0x45, 0x64, 0x34, 0x34, 0x38, 0, BitVec.ofNat 8 ctx.length] ++ ctx ++ msg) 114)

/-- The secret scalar and the nonce prefix of a 57-byte private key. -/
def edSecret (seed : Nat) : Nat × List Byte :=
  let h := shake256 (leBytes 57 seed) 114
  let a := leNat (h.take 57) % 2 ^ 448
  (a % 2 ^ 447 - a % 4 + 2 ^ 447, h.drop 57)

/-- The public key of a private key, 57 bytes as a number. -/
def ed448Public (seed : Nat) : Nat := (EdPoint.base.mul (edSecret seed).1).encode

/-- Sign: the 114 bytes as a number, byte 0 least significant. -/
def ed448Sign (seed : Nat) (ctx msg : List Byte) : Nat :=
  let (s, pre) := edSecret seed
  let a := (EdPoint.base.mul s).encode
  let r := edHash ctx (pre ++ msg) % edL
  let rr := (EdPoint.base.mul r).encode
  let k := edHash ctx (leBytes 57 rr ++ leBytes 57 a ++ msg) % edL
  rr + 2 ^ 456 * ((r + k * s) % edL)

/-- Verify a 114-byte signature under a 57-byte public key: S below the order, and 4·S·B = 4·R + 4·k·A. -/
def ed448Verify (key ctx msg sig : List Byte) : Bool :=
  let rr := sig.take 57
  let s := leNat (sig.drop 57)
  match EdPoint.decode (leNat key), EdPoint.decode (leNat rr) with
  | some a, some r =>
    let k := edHash ctx (rr ++ key ++ msg) % edL
    let four (p : EdPoint) : EdPoint := (p.add p).add (p.add p)
    decide (key.length = 57 ∧ sig.length = 114 ∧ s < edL) && (four (EdPoint.base.mul s)).same ((four r).add (four (a.mul k)))
  | _, _ => false

end Sys2Proof.Machine
end

