-- ==== Sys2Proof/Machine/Bits.lean ====
section
/-! DEFINITION. Bit fields, sign extension and reads of byte lists. -/

namespace Sys2Proof.Machine

/-- Bits `lo` upward, `w` of them, of a number. -/
def fld (v lo w : Nat) : Nat := v / 2 ^ lo % 2 ^ w

/-- One bit of a number. -/
def bitAt (v i : Nat) : Bool := v / 2 ^ i % 2 = 1

/-- The number `v` with its field at `lo` of width `w` replaced by `x`. -/
def putFld (v lo w x : Nat) : Nat := v - fld v lo w * 2 ^ lo + x % 2 ^ w * 2 ^ lo

/-- Two's-complement value of a `w`-bit field. -/
def sext (v w : Nat) : Int := if bitAt v (w - 1) then (v % 2 ^ w : Nat) - (2 ^ w : Nat) else (v % 2 ^ w : Nat)

/-- 1 for true. -/
def b2n (b : Bool) : Nat := if b then 1 else 0

/-- Fields packed least significant bit first: each a value and its width. -/
def pack : List (Nat × Nat) → Nat
  | [] => 0
  | (v, w) :: t => v % 2 ^ w + 2 ^ w * pack t

/-- Little-endian number of `n` bytes of a list from byte `off`. -/
def leAt (l : List Byte) (off n : Nat) : Nat := leNat ((l.drop off).take n)

/-- The list with bytes written over it at `off`, its length kept. -/
def overlay (l : List Byte) (off : Nat) (b : List Byte) : List Byte :=
  (l.take off ++ b ++ l.drop (off + b.length)).take l.length

/-- Lists of eight-byte words as numbers. -/
def words64 : Nat → List Byte → List Nat
  | 0, _ => []
  | n + 1, l => leNat (l.take 8) :: words64 n (l.drop 8)

/-- Exclusive-or of two equally long byte lists. -/
def xorBytes (a b : List Byte) : List Byte := List.zipWith (· ^^^ ·) a b

/-- Bytes as a bit-vector of `8 * n` bits, byte 0 lowest. -/
def ofBytes (n : Nat) (l : List Byte) : BitVec (8 * n) := BitVec.ofNat (8 * n) (leNat l)

/-- Saturating increase of a 32-bit count (R64). -/
def sat32 (c : U32) (n : Nat) : U32 := BitVec.ofNat 32 (min (c.toNat + n) 0xFFFFFFFF)

/-- The first index, counted from `i`, whose element passes the test. -/
def findIdx {α : Type} (p : α → Bool) : List α → Nat → Option Nat
  | [], _ => none
  | a :: t, i => if p a then some i else findIdx p t (i + 1)

/-- The list without its element at an index. -/
def dropAt {α : Type} : List α → Nat → List α
  | [], _ => []
  | _ :: t, 0 => t
  | a :: t, n + 1 => a :: dropAt t n

/-- The list with its element at an index replaced. -/
def setAt {α : Type} : List α → Nat → α → List α
  | [], _, _ => []
  | _ :: t, 0, x => x :: t
  | a :: t, n + 1, x => a :: setAt t n x

/-- Ceiling of a quotient. -/
def ceilDiv (a b : Nat) : Nat := (a + b - 1) / b

/-- Run `f` on 0, 1, … below `n`, each with its number. -/
def loopN {σ : Type} (f : Nat → σ → σ) : Nat → σ → σ
  | 0, s => s
  | n + 1, s => f n (loopN f n s)

end Sys2Proof.Machine
end

