-- ==== Sys2Proof/Machine/Fp.lean ====
section
/-! DEFINITION. IEEE 754 binary16, binary32 and binary64 values as exact dyadic numbers, and the rounding of the module's engines (R27, R31, R32, R35). -/

namespace Sys2Proof.Machine

/-- A format: exponent bits and fraction bits. -/
structure Fmt where
  ebits : Nat
  mbits : Nat
  deriving DecidableEq, Repr

/-- binary16 (R27). -/
def b16 : Fmt := ⟨5, 10⟩
/-- binary32 (R27). -/
def b32 : Fmt := ⟨8, 23⟩
/-- binary64 (R168). -/
def b64 : Fmt := ⟨11, 52⟩

/-- The format that a one-bit format field names: 0 binary16, 1 binary32 (Table 2.1). -/
def fmtOf (bit : Bool) : Fmt := if bit then b32 else b16

/-- Width of a format in bits. -/
def Fmt.width (f : Fmt) : Nat := 1 + f.ebits + f.mbits
/-- Width of a format in bytes. -/
def Fmt.bytes (f : Fmt) : Nat := f.width / 8
/-- Exponent bias. -/
def Fmt.bias (f : Fmt) : Nat := 2 ^ (f.ebits - 1) - 1
/-- The exponent field of infinities and NaNs. -/
def Fmt.emax (f : Fmt) : Nat := 2 ^ f.ebits - 1

/-- A value: NaN, an infinity, or ±m·2^e exactly. -/
inductive Fp where
  | nan
  | inf (neg : Bool)
  | fin (neg : Bool) (m : Nat) (e : Int)
  deriving DecidableEq, Repr

/-- The value a bit pattern holds; a signalling NaN counts as a quiet one (R33, R66). -/
def Fp.ofBits (f : Fmt) (w : Nat) : Fp :=
  let frac := w % 2 ^ f.mbits
  let ex := w / 2 ^ f.mbits % 2 ^ f.ebits
  let neg := w / 2 ^ (f.ebits + f.mbits) % 2 = 1
  if ex = f.emax then (if frac = 0 then .inf neg else .nan)
  else if ex = 0 then .fin neg frac (1 - (f.bias : Int) - f.mbits)
  else .fin neg (2 ^ f.mbits + frac) ((ex : Int) - f.bias - f.mbits)

/-- The canonical quiet NaN of a format (R35). -/
def nanBits (f : Fmt) : Nat := f.emax * 2 ^ f.mbits + 2 ^ (f.mbits - 1)
/-- An infinity's bits. -/
def infBits (f : Fmt) (neg : Bool) : Nat := (if neg then 2 ^ (f.ebits + f.mbits) else 0) + f.emax * 2 ^ f.mbits
/-- A zero's bits. -/
def zeroBits (f : Fmt) (neg : Bool) : Nat := if neg then 2 ^ (f.ebits + f.mbits) else 0

/-- `m / 2^k` rounded to nearest, ties to even. -/
def roundShift (m k : Nat) : Nat :=
  if k = 0 then m
  else
    let q := m >>> k
    let r := m % 2 ^ k
    let half := 2 ^ (k - 1)
    if r > half then q + 1 else if r < half then q else q + q % 2

/-- Round ±m·2^e once by round-to-nearest-even: the bits, and whether a finite value overflowed to an infinity (R31, R32). -/
def roundBits (f : Fmt) (neg : Bool) (m : Nat) (e : Int) : Nat × Bool :=
  if m = 0 then (zeroBits f neg, false)
  else
    let top : Int := e + (Nat.log2 m : Int)
    let emin : Int := 1 - f.bias
    let q : Int := max top emin - f.mbits
    let r := if q ≤ e then m * 2 ^ (e - q).toNat else roundShift m (q - e).toNat
    let mag :=
      if r < 2 ^ f.mbits then r
      else (q + f.mbits + f.bias).toNat * 2 ^ f.mbits + (r - 2 ^ f.mbits)
    if mag ≥ f.emax * 2 ^ f.mbits then (infBits f neg, true)
    else (zeroBits f neg + mag, false)

/-- The bits of a value in a format, rounded once, with the overflow flag. -/
def Fp.toBits (f : Fmt) : Fp → Nat × Bool
  | .nan => (nanBits f, false)
  | .inf s => (infBits f s, false)
  | .fin s m e => roundBits f s m e

/-- NaN or infinite. -/
def Fp.nonFinite : Fp → Bool
  | .fin _ _ _ => false
  | _ => true

/-- A zero of either sign. -/
def Fp.isZero : Fp → Bool
  | .fin _ m _ => m = 0
  | _ => false

/-- The sign bit; false for a NaN, whose sign the module does not keep (R35). -/
def Fp.neg : Fp → Bool
  | .nan => false
  | .inf s => s
  | .fin s _ _ => s

/-- The exact sum of two signed dyadics; an exact zero is +0 unless both are negative (R31). -/
def addExact (s1 : Bool) (m1 : Nat) (e1 : Int) (s2 : Bool) (m2 : Nat) (e2 : Int) : Bool × Nat × Int :=
  let e := min e1 e2
  let a : Int := (m1 * 2 ^ (e1 - e).toNat : Nat)
  let b : Int := (m2 * 2 ^ (e2 - e).toNat : Nat)
  let s : Int := (if s1 then -a else a) + (if s2 then -b else b)
  if s = 0 then (s1 && s2 && decide (m1 = 0) && decide (m2 = 0), 0, e)
  else (decide (s < 0), s.natAbs, e)

/-- A result with the two flags an operation may raise (R69). -/
structure Fr where
  v : Fp
  inv : Bool := false
  ovf : Bool := false
  deriving DecidableEq, Repr

/-- Round a value to a format; overflow is raised by a finite value only (R69). -/
def Fr.round (f : Fmt) (x : Fp) (inv : Bool := false) : Fr :=
  let (b, o) := x.toBits f
  ⟨Fp.ofBits f b, inv, o⟩

/-- Exact sum before rounding: value and invalid. -/
def Fp.add (a b : Fp) : Fp × Bool :=
  match a, b with
  | .nan, _ => (.nan, false)
  | _, .nan => (.nan, false)
  | .inf s, .inf t => if s = t then (.inf s, false) else (.nan, true)
  | .inf s, _ => (.inf s, false)
  | _, .inf t => (.inf t, false)
  | .fin s1 m1 e1, .fin s2 m2 e2 =>
    let (s, m, e) := addExact s1 m1 e1 s2 m2 e2
    (.fin s m e, false)

/-- Sign flipped; a NaN stays the NaN. -/
def Fp.negate : Fp → Fp
  | .nan => .nan
  | .inf s => .inf (!s)
  | .fin s m e => .fin (!s) m e

/-- Exact product: value and invalid (R28, R33, R69). -/
def Fp.mul (a b : Fp) : Fp × Bool :=
  match a, b with
  | .nan, _ => (.nan, false)
  | _, .nan => (.nan, false)
  | .inf s, .inf t => (.inf (s != t), false)
  | .inf s, .fin t m _ => if m = 0 then (.nan, true) else (.inf (s != t), false)
  | .fin s m _, .inf t => if m = 0 then (.nan, true) else (.inf (s != t), false)
  | .fin s1 m1 e1, .fin s2 m2 e2 => (.fin (s1 != s2) (m1 * m2) (e1 + e2), false)

/-- A + B rounded once (R69). -/
def fpAdd (f : Fmt) (a b : Fp) : Fr := let (v, i) := a.add b; Fr.round f v i
/-- A − B rounded once. -/
def fpSub (f : Fmt) (a b : Fp) : Fr := fpAdd f a b.negate
/-- A × B rounded once. -/
def fpMul (f : Fmt) (a b : Fp) : Fr := let (v, i) := a.mul b; Fr.round f v i
/-- A × B + C rounded once; a 0 × ∞ product is invalid whatever the addend (R69). -/
def fpFma (f : Fmt) (a b c : Fp) : Fr :=
  let (p, i1) := a.mul b
  let (v, i2) := p.add c
  Fr.round f v (i1 || i2)

/-- `a < b` of two values that are not NaN, with −0 below +0 (R69). -/
def Fp.lt (a b : Fp) : Bool :=
  match a, b with
  | .inf s, .inf t => s && !t
  | .inf s, .fin _ _ _ => s
  | .fin _ _ _, .inf t => !t
  | .fin s1 m1 e1, .fin s2 m2 e2 =>
    if m1 = 0 ∧ m2 = 0 then s1 && !s2
    else
      let e := min e1 e2
      let x : Int := (m1 * 2 ^ (e1 - e).toNat : Nat)
      let y : Int := (m2 * 2 ^ (e2 - e).toNat : Nat)
      decide ((if s1 then -x else x) < (if s2 then -y else y))
  | _, _ => false

/-- The greater, NaN if either is NaN (R69). -/
def fpMax (a b : Fp) : Fp := if a = .nan ∨ b = .nan then .nan else if a.lt b then b else a
/-- The lesser, NaN if either is NaN (R69). -/
def fpMin (a b : Fp) : Fp := if a = .nan ∨ b = .nan then .nan else if b.lt a then b else a

/-- Magnitude quotient m1·2^e1 ÷ m2·2^e2 with a sticky bit below 130 exact bits, so that one rounding of it is the correct rounding. -/
def quotient (m1 : Nat) (e1 : Int) (m2 : Nat) (e2 : Int) : Nat × Int :=
  let k := 130 + Nat.log2 m2
  let n := m1 * 2 ^ k
  (2 * (n / m2) + (if n % m2 = 0 then 0 else 1), e1 - e2 - k - 1)

/-- Correctly rounded division with the special cases of R171. -/
def fpDiv (f : Fmt) (a b : Fp) : Fr :=
  match a, b with
  | .nan, _ => ⟨.nan, false, false⟩
  | _, .nan => ⟨.nan, false, false⟩
  | .inf _, .inf _ => ⟨.nan, true, false⟩
  | .inf s, .fin t _ _ => ⟨.inf (s != t), false, false⟩
  | .fin s _ _, .inf t => ⟨.fin (s != t) 0 0, false, false⟩
  | .fin s1 m1 e1, .fin s2 m2 e2 =>
    if m2 = 0 then (if m1 = 0 then ⟨.nan, true, false⟩ else ⟨.inf (s1 != s2), false, false⟩)
    else
      let (m, e) := quotient m1 e1 m2 e2
      Fr.round f (.fin (s1 != s2) m e)

/-- Digit-by-digit integer square root, `n` binary digits of the root still to find. -/
def isqrtGo (x : Nat) : Nat → Nat → Nat
  | 0, r => r
  | n + 1, r =>
    let c := r + 2 ^ n
    if c * c ≤ x then isqrtGo x n c else isqrtGo x n r

/-- Floor of the square root. -/
def isqrt (x : Nat) : Nat := isqrtGo x (Nat.log2 x / 2 + 1) 0

/-- Magnitude square root of m·2^e with a sticky bit below 130 exact bits. -/
def rootMag (m : Nat) (e : Int) : Nat × Int :=
  let odd := e % 2 = 1
  let m' := if odd then 2 * m else m
  let e' := if odd then e - 1 else e
  let x := m' * 2 ^ 260
  let r := isqrt x
  (2 * r + (if r * r = x then 0 else 1), (e' - 260) / 2 - 1)

/-- Correctly rounded square root with the special cases of R171. -/
def fpSqrt (f : Fmt) : Fp → Fr
  | .nan => ⟨.nan, false, false⟩
  | .inf false => ⟨.inf false, false, false⟩
  | .inf true => ⟨.nan, true, false⟩
  | .fin s m e =>
    if m = 0 then ⟨.fin s 0 e, false, false⟩
    else if s then ⟨.nan, true, false⟩
    else let (r, e') := rootMag m e; Fr.round f (.fin false r e')

/-- Widen bits from one format to a wider one exactly, or narrow with one rounding (R66): bits and overflow. -/
def convert (src dst : Fmt) (w : Nat) : Nat × Bool := (Fp.ofBits src w).toBits dst

/-- The exact value of a natural number. -/
def Fp.ofNat (n : Nat) : Fp := .fin false n 0

end Sys2Proof.Machine
end

