-- ==== Sys2Proof/Machine/RegTable.lean ====
section
/-! DEFINITION. The setting registers of the window: their writable fields, ranges, swap classes and reset values (R363, Tables 2.8, 3.7, 5.7, 6.8, 7.13, 8.12, 9.11, 11.8, 13.11, 14.12). -/

namespace Sys2Proof.Machine

/-- Swap classes of the window's fields (Table 12.9). -/
inductive Swap where
  | micro | step | epoch | immediate
  deriving DecidableEq, Repr

/-- A writable field: its lowest bit, width, and the range it accepts. -/
structure RegField where
  lo : Nat
  w : Nat
  min : Nat
  max : Nat
  deriving DecidableEq, Repr

/-- A setting register: its writable fields, class and reset value. -/
structure RegDesc where
  fields : List RegField
  swap : Swap
  reset : U32
  deriving DecidableEq, Repr

/-- Base of the region block of physical region `p` (R64). -/
def rgnBase (p : Nat) : Nat := 0x01000000 + p * 0x40000
/-- Base of the link block of engine `e` (Table 16.3). -/
def lnkBase (e : Nat) : Nat := 0x02000000 + e * 0x10000

/-- The region whose block holds an address, and the offset in the block. -/
def rgnOf (a : Nat) : Option (Nat × Nat) :=
  if 0x01000000 ≤ a ∧ a < 0x01000000 + 48 * 0x40000 then some ((a - 0x01000000) / 0x40000, (a - 0x01000000) % 0x40000) else none

/-- The engine whose block holds an address, and the offset in the block. -/
def lnkOf (a : Nat) : Option (Nat × Nat) :=
  if 0x02000000 ≤ a ∧ a < 0x02100000 then some ((a - 0x02000000) / 0x10000, (a - 0x02000000) % 0x10000) else none

/-- Setting registers of a region block, by offset. -/
def rgnDesc (off : Nat) : Option RegDesc :=
  if off = 0x2000 then some ⟨[⟨0, 1, 0, 1⟩], .step, 0⟩
  else if off = 0x2020 then some ⟨[⟨0, 5, 4, 31⟩], .step, 16⟩
  else if off = 0x2034 then some ⟨[⟨0, 32, 0, 0xFFFFFFFF⟩], .step, 0⟩
  else if off = 0x2040 then some ⟨[⟨0, 10, 64, 1023⟩, ⟨10, 1, 0, 1⟩], .step, 0x600⟩
  else if off = 0x20C0 then some ⟨[⟨0, 5, 0, 24⟩], .step, 24⟩
  else none

/-- Setting registers outside the region and link blocks, by address. -/
def modDesc (a : Nat) : Option RegDesc :=
  if a = 0x4000 then some ⟨[⟨0, 1, 0, 1⟩, ⟨1, 4, 0, 15⟩, ⟨5, 1, 0, 1⟩], .micro, 0x14⟩
  else if a = 0x5000 then some ⟨[⟨12, 20, 0, 0xFFFFF⟩], .immediate, 0⟩
  else if a = 0x5004 then some ⟨[⟨0, 32, 0, 0xFFFFFFFF⟩], .immediate, 0⟩
  else if a = 0x5008 then some ⟨[⟨0, 5, 0, 31⟩, ⟨5, 1, 0, 1⟩, ⟨6, 1, 0, 1⟩, ⟨7, 1, 0, 1⟩], .immediate, 0⟩
  else if a = 0x500C then some ⟨[⟨0, 11, 0, 0x7FF⟩, ⟨11, 1, 0, 1⟩, ⟨12, 8, 0, 0xFF⟩, ⟨20, 2, 0, 3⟩, ⟨22, 1, 0, 1⟩], .immediate, 0⟩
  else if a = 0x8000 then some ⟨[⟨0, 10, 5, 1000⟩, ⟨10, 10, 1, 1000⟩, ⟨20, 10, 10, 1000⟩], .step, BitVec.ofNat 32 (200 + 100 * 2 ^ 10 + 100 * 2 ^ 20)⟩
  else if a = 0x9004 then some ⟨[⟨0, 10, 1, 1000⟩], .epoch, 30⟩
  else if a = 0x9008 then some ⟨[⟨0, 5, 0, 24⟩, ⟨8, 5, 0, 24⟩, ⟨16, 5, 0, 24⟩], .step, BitVec.ofNat 32 (24 + 24 * 2 ^ 8 + 24 * 2 ^ 16)⟩
  else if a = 0x900C then some ⟨[⟨0, 6, 10, 44⟩], .step, 44⟩
  else if a = 0x9024 then some ⟨[⟨0, 10, 0, 0x3FF⟩], .immediate, 0x3FF⟩
  else if a = 0x02100014 then some ⟨[⟨0, 6, 4, 48⟩], .step, 12⟩
  else if a = 0x02200000 then some ⟨[⟨0, 1, 0, 1⟩], .step, 1⟩
  else if a = 0x0220001C then some ⟨[⟨0, 10, 1, 1000⟩], .step, 100⟩
  else none

/-- Setting registers of a link block, by offset. -/
def lnkDesc (off : Nat) : Option RegDesc :=
  if off = 0x0000 then some ⟨[⟨0, 14, 20, 10000⟩], .step, 200⟩
  else if off = 0x0018 then some ⟨[⟨0, 6, 0, 63⟩], .immediate, 0⟩
  else none

/-- Bits of a register's writable fields. -/
def RegDesc.mask (d : RegDesc) : U32 := d.fields.foldl (fun m f => m ||| BitVec.ofNat 32 ((2 ^ f.w - 1) * 2 ^ f.lo)) 0

/-- A value's writable fields all lie in their ranges. -/
def RegDesc.inRange (d : RegDesc) (v : U32) : Bool :=
  d.fields.all fun f => decide (f.min ≤ v.toNat / 2 ^ f.lo % 2 ^ f.w) && decide (v.toNat / 2 ^ f.lo % 2 ^ f.w ≤ f.max)

/-- Bits of read-only fields that share a register with settings: `RGN_CLK.FACT` and `LOCK`, `PRS_CFG.HELD` (R361). -/
def roBits (a : Nat) : U32 :=
  match rgnOf a with
  | some (_, off) => if off = 0x20C0 then 0x3F00 else 0
  | none => if a = 0x02200000 then 0x2 else 0

/-- The setting register at a staged-view address. -/
def regDesc (a : Nat) : Option RegDesc :=
  match rgnOf a with
  | some (_, off) => rgnDesc off
  | none =>
    match lnkOf a with
    | some (_, off) => lnkDesc off
    | none => modDesc a

/-- Bits of a setting register that are neither writable nor read-only fields (R361). -/
def reservedBits (d : RegDesc) (a : Nat) : U32 := ~~~(d.mask ||| roBits a)

end Sys2Proof.Machine
end

