-- ==== Sys2Proof/Machine/State.lean ====
section
/-! DEFINITION. The state of the module: every register, memory, queue, counter, mode and pin the manual names, as plain data, and the queue of waiting commands. -/

namespace Sys2Proof

/-- The canonical form of a byte memory: addresses strictly rising, no entry equal to the 0 that an unlisted byte reads as (log entry 9). -/
def Memory.wf (m : Memory) : Bool := Tab.wf (0 : Byte) m

end Sys2Proof

namespace Sys2Proof.Machine

/-- Why the block stops. -/
inductive Fault where
  /-- The operands describe no event of this hardware (a list of a length that the manual's format does not have). Raised by the commands that `WellFormed` constrains. Safe: the hardware cannot meet such an event. -/
  | illFormed
  deriving DecidableEq, Repr

/-- Why a command has no meaning. -/
inductive Refusal where
  /-- A row of the table without a meaning, by its mnemonic. Raised by Dispatch alone; no arm raises it. Safe. -/
  | notModelled (mnemonic : String)
  deriving DecidableEq, Repr

/-- Access to settings: which value a register field holds, staged and active (R363). -/
structure Pending where
  addr : Nat
  value : U32
  mbus : Bool := false
  deriving DecidableEq, Repr

/-- Settings registers: values in force and values staged, by staged-view address. -/
structure Settings where
  active : Tab (Option U32) := []
  staged : List Pending := []
  disc : Bool := false
  slost : Bool := false
  par : Bool := false
  discCount : U32 := 0
  daddr : U32 := 0
  parCount : U32 := 0
  lock : BitVec 3 := 0
  test : Tab U32 := []          -- live test controls among the reserved bits of the setting registers, by staged-view address (R361)
  deriving DecidableEq, Repr

/-- The pending complement pair and the last result (R369). -/
structure GuardSt where
  pending : Option (Guard × U32) := none
  code : Nat := 0
  guard : Nat := 0
  fresh : Bool := false
  deriving DecidableEq, Repr

/-- An entry of the numeric status ring (Table 2.6). -/
structure NumEntry where
  item : NumRec := {}
  seq : U32 := 0
  deriving DecidableEq, Repr

/-- The numeric status ring and the hold of R41 to R47. -/
structure NumSt where
  ring : Tab NumEntry := []
  prod : BitVec 13 := 0
  cons : BitVec 13 := 0
  seq : U32 := 0
  drop : U32 := 0
  held : Bool := false
  trig : Bool := false
  ovfl : Bool := false
  hmb : BitVec 12 := 0
  summary : BitVec 4 := 0
  gnf : Bool := false
  hold : Option Nat := none
  holdNumeric : Bool := false
  top : Nat := 0                     -- micro-batches that some region has reported begun in the step
  heard : List (Nat × Nat) := []
  done : List (Nat × Nat) := []
  deriving DecidableEq, Repr

/-- Run states (Table 15.2). -/
inductive RunState where
  | idle | stopped | running | held
  deriving DecidableEq, Repr

/-- A command in hand: its header and opcode, whether a reserved byte of its header is set, and its 56 parameter bytes (R342). -/
structure InHand where
  h : CmdHdr
  opc : Nat
  rsv : Bool := false
  prm : List Byte
  deriving DecidableEq, Repr

/-- The command makes requests to host memory: it has a host buffer, and a checkpoint command names it and not the staging lines (Table 15.6). -/
def InHand.asksHost (x : InHand) : Bool :=
  [0x01, 0x02, 0x03, 0x04, 0x10, 0x12, 0x30, 0x31, 0x34, 0x50, 0x51, 0x60].contains x.opc || ((decide (x.opc = 0x32) || decide (x.opc = 0x33)) && decide (x.prm.getD 8 0 = 0))

/-- A completion-queue entry waiting to be written (Tables 9.8, 15.4): a command's completion, an event by its code, or a DMA completion with the emits that follow it and whether it still holds its descriptor slot (R201). -/
inductive CqItem where
  | cmd (cid : U16) (status : Byte) (sqid : U16) (res0 res1 res2 : U64)
  | event (code : Nat)
  | dma (tag : U32) (status : Byte) (chan : BitVec 10) (csum : U64) (done index : U32) (emits : List Emit) (slot : Bool)
  deriving DecidableEq, Repr

/-- A pending event (R357). -/
structure EventPend where
  pend : Bool := false
  res0 : U64 := 0
  res1 : U64 := 0
  merged : Nat := 0
  deriving DecidableEq, Repr

/-- Commands, events and run state (R340 to R358). -/
structure RunSt where
  st : RunState := .idle
  hcause : Nat := 0
  atStep : Bool := false
  limit : U64 := 0
  step : U64 := 0
  crossed : Bool := false              -- the commit token of the last boundary has been sent, and the step after it has not begun (R19, R152)
  inStep : Bool := false
  tokens : List Nat := []
  ended : List Nat := []
  stopAsked : Bool := false
  holdAsked : Bool := false            -- a micro-batch hold that waits for a recovery to end (R350)
  rerun : Bool := false                -- the step in hand is run again after a re-entry arm (R270)
  holds : List (CmdHdr × Byte) := []
  feeds : List (CmdHdr × U64) := []
  check : Option CmdHdr := none
  armed : Option CmdHdr := none
  laneQ : List InHand := []
  rr : Nat := 0
  events : Tab EventPend := []
  merged : U16 := 0
  skipped : Bool := false
  absorbed : Bool := false
  prog : Tab U32 := []
  resetAsked : Bool := false           -- a COMPUTE_RESET waits for an application to complete (R346)
  resetCmd : Option CmdHdr := none     -- the command that asked for it, unless it has timed out
  hostFails : List CmdHdr := []        -- commands whose next host request times out, or returns an error or poison (R334)
  lastRead : U64 := 0
  readOk : Bool := true
  lastWindow : Option (List Byte) := none
  deriving DecidableEq, Repr

/-- A host queue (R188 to R192): its context words and its indices. -/
structure HostQ where
  en : Bool := false
  stg : BitVec 128 := 0
  host : U32 := 0
  dev : U32 := 0
  derr : Bool := false
  unsig : Nat := 0
  items : List CqItem := []
  deriving DecidableEq, Repr

/-- The host bridge (R331 to R339). -/
structure BridgeSt where
  hq : Tab HostQ := []
  hqCode : Nat := 0
  hqDerr : U32 := 0
  hwinRej : U32 := 0
  act : Bool := false
  spareOk : Bool := true
  ide : Bool := false
  failover : U16 := 0
  downSince : Nat := 0           -- when the controller in use failed (Table 13.9)
  linkDown : Bool := false
  dead : Bool := false           -- both controllers have failed (R335)
  delayed : List Instr := []     -- accesses of the host that wait for the link, oldest first (R335)
  gather : Tab (List (Nat × List Byte)) := []   -- window writes of the last microsecond, gathered by line: offset and bytes, by (region x 1024 + bank) x 16384 + line (R338)
  deriving DecidableEq, Repr

/-- Staged-set states (Table 12.10). -/
inductive StageState where
  | empty | loading | checking | checked | armed | failed
  deriving DecidableEq, Repr

/-- The staged set (R261). -/
structure StagingSt where
  st : StageState := .empty
  reshard : Bool := false
  bytes : Memory := []
  have_ : List (Nat × Nat) := []
  size : Option Nat := none
  writes : List Pending := []
  partners : Option (List (U16 × U32)) := none
  code : Nat := 0
  decl : Bool := false
  disag : Bool := false
  root : Digest := 0
  digests : List (Nat × Digest) := []
  image : Option Image := none       -- what will be in force once the set is applied
  imageBytes : Memory := []
  full : Bool := false               -- the set holds an image, not a re-shard or settings alone
  b : U64 := 0
  e : U32 := 0
  applying : Bool := false
  applyAt : U64 := 0
  applyToks : List Nat := []
  loading : List Nat := []
  deriving DecidableEq, Repr

/-- The configuration in force (R263, R267). -/
structure ConfigSt where
  image : Option Image := none
  bytes : Memory := []
  epoch : U32 := 0
  root : Digest := 0
  digests : List (Nat × Digest) := []
  xep : U32 := 0
  load : Nat := 0
  map : Tab (Option Nat) := []
  topoOk : Bool := false
  topoWait : Bool := false
  layout : U32 := 0
  fwd : U32 := 0
  stale : U32 := 0
  miss : U32 := 0
  moved : Nat := 0
  rsDone : Bool := false
  moves : List (Nat × Nat × Nat × Nat × Nat) := []   -- new region, new shard, old region, old shard, next line
  readySent : List (Nat × Nat) := []                 -- shards whose move of the last re-shard is complete, region and number (R222)
  oldPress : Option PressCourse := none
  oldRegions : List (Nat × RegionCourse) := []
  oldRoutes : List Route := []
  links : List LinkDecl := []                        -- link declarations in force, or last in force (R329)
  linkMod : Nat := 0
  partners : List (U16 × U32) := []
  domain : U16 := 0
  domains : List (U16 × U16) := []
  deriving DecidableEq, Repr

/-- What a physical region holds beside its units (R303 to R319, and the region registers). -/
structure RegionSt where
  powered : Bool := false
  clockOn : Bool := false
  lock : Bool := false
  k : Nat := 24
  kNext : Option (Nat × Bool) := none   -- clock that takes hold at the next step boundary of the region, and whether its `FLOW` raised it (R304)
  retired : Bool := false
  tested : Bool := false
  tj : Byte := 0
  tduty : Nat := 16
  duty : Nat := 16
  gate : Bool := false
  beat : BitVec 48 := 0
  grant : Nat := 0
  syncOvf : Bool := false
  syncCtr : Nat := 0
  syncCore : Nat := 0
  fcor : Bool := false
  frtx : Bool := false
  late : Bool := false
  cluster : Nat := 0
  port : Nat := 0
  dmaStop : Bool := false
  dmaChan : Nat := 0
  dmaCode : Nat := 0
  counts : Tab Nat := []        -- accumulating counts of the step, by register offset
  latched : Tab U32 := []       -- counts latched at the step boundary (R64)
  numDrop : Tab U32 := []
  cfg : Tab U32 := []           -- batten configuration words by unit x 2^32 + offset (R130)
  deriving DecidableEq, Repr

/-- A LOOP in progress (R252). -/
structure LoopFrame where
  head : Nat
  body : Nat
  left : Nat
  deriving DecidableEq, Repr

/-- An outstanding get, put or compare-and-swap (R94). -/
structure Outst where
  tag : Nat
  kind : Nat
  left : Nat
  ltok : Nat
  laddr : Nat
  gaddr : U64
  deriving DecidableEq, Repr

/-- A context (R93, R252). -/
structure CtxSt where
  pc : Nat := 0
  ended : Bool := false
  loops : List LoopFrame := []
  iters : Tab Nat := []
  outst : List Outst := []
  deriving DecidableEq, Repr

/-- The first event of an accumulator (R39): cause and K index. -/
structure Event where
  cause : Nat := 0
  kidx : Nat := 0xFFFFFF
  deriving DecidableEq, Repr

/-- An accumulator set in use (R24, R61). -/
structure AccSet where
  op : Nat                      -- index of the chain's latest operation
  firing : Nat
  vals : List U32 := []
  evs : List Event := []
  nfi : Bool := false
  inv : Bool := false
  ovf : Bool := false
  kbase : Nat := 0
  mbatch : Nat := 0
  draining : Bool := false
  deriving DecidableEq, Repr

/-- A vector chain between its issue and its completion (R73). -/
structure VecRun where
  chain : Nat
  writes : List (Nat × List Byte) := []   -- SRAM offset and bytes still to be written
  w0 : U32 := 0
  w1 : U32 := 0
  mbatch : Nat := 0
  deriving DecidableEq, Repr

/-- A sequence a core is running (R109): its number, start beat and next entry. -/
structure ActiveSeq where
  seq : Nat
  start : Nat
  next : Nat := 0
  deriving DecidableEq, Repr

/-- Flag summaries of one micro-batch (R40). -/
structure MbFlags where
  grad : BitVec 4 := 0
  other : BitVec 4 := 0
  deriving DecidableEq, Repr

/-- A logical core: counters, contexts, engines and queues. -/
structure CoreSt where
  ctrs : Tab Nat := []
  ctxs : Tab CtxSt := []
  lastCtx : Nat := 63
  tileFired : Tab Nat := []
  chainFired : Tab Nat := []
  arrivals : Tab (List (Nat × Nat)) := []   -- tokens that have arrived and not been taken, by counter: runs of arrival stamp and count, oldest first (R60)
  clock : Nat := 0                -- arrival stamps given so far
  lateStart : Bool := false       -- a critical chain has waited for the drain just ended, the other set being held (R61)
  accs : List AccSet := []
  vec : Option VecRun := none
  sticky : Tab MbFlags := []
  outq : List Packet := []
  inHi : List Packet := []
  inNo : List Packet := []
  port : List Packet := []
  ported : List Packet := []      -- answers of direct operations in the vertical port's own buffer (Table 5.1)
  rflags : Tab Nat := []          -- reduces not yet whole: 8 x packets applied + flags, by tag x 2^16 + module
  seqs : List ActiveSeq := []
  wires : Tab (List Byte) := []   -- beat groups that arrive on a port, by port x 2^48 + beat
  halted : Bool := false
  deriving DecidableEq, Repr

/-- A line-delta being assembled (R145): the parity line it is for, the parts present, and its sender. -/
structure DeltaEntry where
  tag : Nat
  bank : Nat
  line : Nat
  smod : Nat
  sregion : Nat
  parts : List (Nat × List Byte) := []
  stamp : Byte := 0
  deriving DecidableEq, Repr

/-- A line-delta not yet acknowledged (R144, R146): its line, its content, its parity line, and whether it has been sent. -/
structure DeltaOut where
  tag : Nat
  bank : Nat
  line : Nat
  data : List Byte
  stamp : Byte
  omod : Option Nat               -- the module that holds the outer parity segment; none for the inner sheaf
  plregion : Nat
  pbank : Nat
  pline : Nat
  sent : Bool
  deriving DecidableEq, Repr

/-- A shard's state within the step (R166 to R170, R283). -/
inductive ShardPhase where
  | waiting | summed | updated | unchanged
  deriving DecidableEq, Repr

/-- The press report of R168: binary64 sums as bits. -/
structure PressReport where
  glob : U64 := 0
  grps : List (Nat × U64) := []
  nf : Nat := 0
  deriving DecidableEq, Repr

/-- A logical region's store interface, press and step progress. -/
structure LRegionSt where
  ctrs : Tab Nat := []
  inHi : List Packet := []
  inNo : List Packet := []
  outq : List Packet := []
  rflags : Tab Nat := []          -- reduces not yet whole: 8 x packets applied + flags, by tag x 2^16 + module
  deltas : List DeltaEntry := []
  outDeltas : List DeltaOut := []
  counts : Tab Nat := []          -- contribution count: shard x 2^24 + line
  parts : Tab Bool := []          -- line part already written: (shard x 2^24 + line) x 4 + part
  asm : Memory := []              -- assembly memory: slot x 2048 + byte
  occ : Tab Nat := []             -- assembly slots occupied: shard + 1
  hiwat : Nat := 0
  phases : Tab ShardPhase := []
  stamped : Bool := false         -- stamp refresh of the step done (R284)
  reentered : Bool := false       -- the step has been re-entered by a rewind (R283)
  sums : List (Nat × U64 × Nat × U64 × U64) := []   -- summed shards: shard, S, non-finite count, and for TRSCOPE W and U (R168, R173)
  report : Option PressReport := none
  gnf : Bool := false
  lrs : List U64 := []            -- schedule values of the step, binary64 bits
  mbBegun : Nat := 0
  mbEnded : Nat := 0
  replayTo : Nat := 0             -- micro-batches that a rewind of the step found begun: work of a lower number is a replay (R42)
  endSent : Bool := false
  active : Bool := false          -- between the receipt of a commit token and the end-of-step report
  counted : Bool := false         -- the apply token has latched the counts of the step that has ended (R64, R263)
  holdTok : Option Nat := none
  cpReported : Bool := false
  remembered : List (Nat × Nat) := []
  orcTold : Tab Nat := []         -- micro-batches whose rows are ready, by orchard table (R156)
  deriving DecidableEq, Repr

/-- A micro-batch report in flight (R45, R40). -/
structure MbReport where
  lregion : Nat
  n : Nat
  ended : Bool
  grad : BitVec 4 := 0
  other : BitVec 4 := 0
  deriving DecidableEq, Repr

/-- A report of an illegal operation (R278): logical core or 0x3FF, and the record or counter. -/
structure IllegalRep where
  lregion : Nat
  core : Nat
  point : Nat
  deriving DecidableEq, Repr

/-- A fault report (Table 6.7 type 0x4); `guarded` sets DETAIL [30] (R370) and `half` a named standby. -/
structure FaultRep where
  kind : FaultKind
  guarded : Bool := false
  half : Option Nat := none
  deriving DecidableEq, Repr

/-- A launch on its way to a core (R109). -/
structure LaunchMsg where
  lregion : Nat
  core : Nat
  seq : Nat
  start : Nat
  deriving DecidableEq, Repr

/-- A configuration read response in flight (R130). -/
structure CfgResp where
  region : Nat
  unit : U16
  off : U32
  data : U32
  deriving DecidableEq, Repr

/-- The batten network: what is in flight on it (R129 to R132). -/
structure BattenSt where
  emits : List Emit := []
  launches : List LaunchMsg := []
  mbs : List MbReport := []
  nums : List NumRec := []
  illegals : List IllegalRep := []
  faults : List FaultRep := []
  cfgs : List CfgResp := []
  cfgRead : Option CfgResp := none
  deriving DecidableEq, Repr

/-- A router: its input buffers and its outputs (R113, R120, R121, R124). -/
structure RouterSt where
  q : List (Nat × Packet) := []      -- what its input buffers hold, in order of arrival; the buffer's number is ((port x 4 + vc) x 2 + prio) x 2 + leg
  high : Tab (List Bool) := []       -- last 16 flit cycles of an output: high-priority or not
  last : Tab Nat := []               -- last (port x 4 + vc) x 2 + leg served plus 1, by output x 2 + prio
  retries : Tab Nat := []            -- retransmissions of the packet in `resend`, by output
  resend : Tab (Option (Nat × Packet)) := []   -- the packet an output keeps until the receiver confirms it, by output, with its buffer (R124)
  deriving DecidableEq, Repr

/-- The bounded plane (R113 to R126). -/
structure NetSt where
  routers : Tab RouterSt := []
  inter : Tab (Option Nat) := []     -- intermediate region by source x 64 + destination (R118)
  unroutable : List (Nat × Nat) := []
  told : List (Nat × Nat) := []      -- unroutable pairs already in the health log
  gen : BitVec 12 := 0
  ndark : Nat := 0
  nextTag : Nat := 0
  deriving DecidableEq, Repr

/-- The store tier beside its bytes. -/
structure StoreSt where
  mem : Memory := []                 -- key: ((pregion x 1024 + bank) x 16384 + line) x 2048 + byte
  stamps : Tab Byte := []            -- by line key
  bad : List Nat := []               -- lines found uncorrectable and not yet recovered, by line key
  lastFix : Tab (List Nat) := []     -- when each symbol of a DRAM row was corrected in the last 24 hours (R139), by row key x 2^32 + symbol
  rowSpares : Tab Nat := []          -- spare rows used, by bank key
  remapDue : List Nat := []          -- DRAM rows to be remapped (R139), bank key x 4096 + row
  since : Tab Nat := []              -- when a line of `bad` was found so, by line key (Table 13.9)
  dueSince : Tab Nat := []           -- when a row of `remapDue` became due
  eccCor : Bool := false
  eccUnc : Bool := false
  eccRegion : Nat := 0
  eccBank : Nat := 0
  corCount : U32 := 0
  rebuild : U32 := 0
  rows : U16 := 0
  exh : Byte := 0
  degr : Bool := false
  place : Bool := false
  slots : Tab Nat := []              -- reservoir slot: 0 free, 1 full, 2 in use
  resRej : U32 := 0
  snoops : Nat := 0
  deriving DecidableEq, Repr

/-- A cached orchard row (R156). -/
structure OrcRow where
  table : Nat
  row : Nat
  pos : Nat
  pinned : Bool := false
  dirty : Bool := false
  done : Bool := false               -- the press has written back its update of this step
  deriving DecidableEq, Repr

/-- The orchard (R153 to R157). -/
structure OrchardSt where
  flash : Memory := []               -- key: (table x 2^32 + row) x 2^17 + byte
  cache : Tab (List OrcRow) := []    -- by owner region x 64 + table, clock order, oldest first
  fills : List (Nat × Nat × Nat × Nat) := []   -- owner region, table, row, cache position
  life : Nat := 0
  worn : Bool := false
  die : Bool := false
  lostDies : List Nat := []
  fillCount : U32 := 0
  written : Nat := 0
  wear : List (Nat × Nat) := []      -- write-backs of the last 30 days: time and bytes (R157)
  deriving DecidableEq, Repr

/-- The press block's module-wide state (R169, R170, R176, R182). -/
structure PressSt where
  skip : Bool := false
  nfShard : Bool := false
  excess : Bool := false
  normTo : Bool := false
  exp : Int := 0
  clean : Nat := 0
  skips : U32 := 0
  upd : Nat := 0
  excessCount : U32 := 0
  asmHi : Nat := 0
  sent : Bool := false
  recs : List NormRec := []
  nextRecs : List NormRec := []
  decided : Bool := false
  skipStep : Bool := false
  glob : U64 := 0
  grps : List U64 := []
  fps : List (Nat × Nat × Nat × U64 × BitVec 128) := []   -- module (0x10000 own), region, shard, step, fingerprint
  waitFp : List (Nat × Nat) := []    -- shards awaiting comparison, region and shard
  round2 : List (Nat × Nat) := []    -- of these, compared a second time
  mism : List (Nat × Nat × Nat) := []   -- shards in disagreement and since when: region, shard, time (R297, Table 13.9)
  deriving DecidableEq, Repr

/-- A DMA descriptor (Table 9.4). -/
structure Desc where
  raw : BitVec 512
  lost : Bool := false          -- fetched, and addressed to what a partial reset has cleared (R329)
  deriving DecidableEq, Repr

/-- A DMA channel (R193 to R204). -/
structure DmaSt where
  fetched : U32 := 0
  queue : List Desc := []
  cur : Option Desc := none
  asked : Nat := 0              -- bytes of the descriptor asked for and moved; writes sent and acknowledged by the channel
  moved : Nat := 0
  acked : Nat := 0
  sentPk : Nat := 0
  buf : List Packet := []
  reads : List Packet := []
  acks : List Packet := []
  status : Byte := 0
  crc : U32 := 0xFFFFFFFF
  sum : Nat := 0
  prevCsum : Nat := 0
  completed : U32 := 0
  stop : Bool := false
  hold : List Byte := []        -- bytes moved that await a whole write packet
  moving : Bool := false        -- the channel has the turn among those of its priority (R199)
  turn : Nat := 0               -- bytes moved in its turn
  mover : Bool := false         -- its engine moved its last beat for this channel
  epoch : Nat := 0              -- aborts so far, so that what was sent before one is known when it returns
  hostAcks : Nat := 0           -- host writes not yet acknowledged
  refused : Nat := 0            -- bytes of the descriptor that its target rejected or discarded
  took : List Wait := []        -- what the descriptor in hand has taken from the counters (R197)
  crc0 : U32 := 0xFFFFFFFF      -- checksum state before the descriptor in hand (R204)
  sum0 : Nat := 0
  prev0 : Nat := 0
  ctrs : Tab Nat := []          -- a region channel's counters 0 to 7 (R194)
  deriving DecidableEq, Repr

/-- Lane states (Table 11.2). -/
inductive LaneState where
  | dark | equalise | locked | measure | service | retired
  deriving DecidableEq, Repr

/-- A lane pair (R228 to R230). -/
structure LaneSt where
  st : LaneState := .dark
  pre : Int := 0                -- the transmitter's three coefficients, in steps from where training began (R227)
  main : Int := 0
  post : Int := 0
  fails : Nat := 0
  bad : Nat := 0                -- windows in a row over the limit, of the receive lane (R230)
  badPartner : Nat := 0         -- and of the transmit lane, as the partner reports
  mark : Bool := false
  err : U32 := 0
  errPartner : Nat := 0         -- errored bits that the partner counted in the same window
  recent : List Nat := []       -- errored bits of the windows of the last second, newest first (R328)
  deriving DecidableEq, Repr

/-- Link states (Table 11.3). -/
inductive LinkState where
  | down | align | identify | up | mismatch
  deriving DecidableEq, Repr

/-- A data frame kept until it is acknowledged: its number, the times it has been replayed, its packets (R235; log entry 62). -/
structure SentFrame where
  seq : U16
  replays : Nat := 0
  pkts : List Packet := []
  acks : List TAck := []
  beacon : Option Beacon := none
  change : Bool := false        -- a lane-change frame (Table 11.4)
  cred : List Nat := []         -- the buffers it reports as freed
  deriving DecidableEq, Repr

/-- A link of an engine (R231 to R237). -/
structure LinkSt where
  st : LinkState := .down
  lanes : List Nat := []
  fseq : U16 := 0
  rxLast : U16 := 0xFFFF
  nakSent : Bool := false
  outst : List SentFrame := []
  cred : Tab Nat := []
  freed : Tab Nat := []         -- receive buffers freed since they were last reported, by class (R234)
  part : List (BitVec 256) := []  -- flits of a packet that a later frame ends (R234)
  agreed : Bool := false        -- a lane-change frame has been sent or received for the next lane-change point (R233)
  peer : Option IdFrame := none
  beacon : Option Beacon := none
  missed : Bool := false        -- no beacon has come for 3 ms (R246)
  cdiff : Bool := false
  ldiff : Bool := false
  marginal : Bool := false
  aligns : Nat := 0
  deriving DecidableEq, Repr

/-- The sending side of a transport stream (R240). -/
structure TxStream where
  next : U32 := 0
  unacked : List Packet := []
  holder : Option (Nat × Nat) := none   -- the partner's engine that holds the other end, where the first packet went straight to it: module and engine (R244)
  deriving DecidableEq, Repr

/-- The receiving side of a transport stream (R240): all below `cum` received, and what is received above it. -/
structure RxStream where
  cum : U32 := 0
  got : List Nat := []
  waiting : List Packet := []
  held : List Packet := []
  deriving DecidableEq, Repr

/-- A photonic engine. -/
structure EngineSt where
  ok : Bool := false
  lost : Bool := false
  lanes : Tab LaneSt := []
  links : Tab LinkSt := []
  tx : Tab TxStream := []            -- by slot x 4 + class
  rx : Tab RxStream := []            -- by ((module x 16 + source engine) x 256 + slot at the source) x 4 + class
  acks : List TAck := []             -- transport acknowledgements that wait for a credit
  arrived : List (Nat × Packet) := []  -- out of whole frames of a link, not yet judged; 8 names no link
  toSlab : List Packet := []         -- accepted, waiting at the engine's link ports
  mism : Bool := false
  bmiss : Bool := false
  fecUnc : U32 := 0
  replay : U32 := 0
  tretx : U32 := 0
  tdup : U32 := 0
  retCount : Nat := 0
  deriving DecidableEq, Repr

/-- A commit snapshot (R280): carry sets, and of every core the counters, positions and firing indices; store-interface counters and DMA ring indices. -/
structure Snapshot where
  step : U64 := 0
  mb : Nat := 0
  runB : Bool := false               -- it lies in run B of the commit store
  cores : Tab CoreSt := []
  sram : Memory := []
  ctrs : List (Nat × Tab Nat) := []
  told : List (Nat × Tab Nat) := []
  dma : Tab DmaSt := []
  begun : List (Nat × Nat) := []
  ready : List (Nat × Nat) := []     -- moved shards whose ready emits it holds (R222)
  deriving DecidableEq, Repr

/-- Phases of an absorption (R281, R289, R290). -/
inductive FaultPhase where
  | none | draining | rebuilding | restored
  deriving DecidableEq, Repr

/-- An entry of an inbound log (R285): a packet accepted from a partner, or the identity of one sent to it. -/
structure LogItem where
  m : Nat
  sent : Bool
  e : Nat := 0
  p : Packet
  deriving DecidableEq, Repr

/-- A relocation in hand or done (R288 to R290): the logical region, the lost and the promoted physical region, whether the standby's compute is powered, its course loaded, every lost line rebuilt. -/
structure Promo where
  lregion : Nat
  lost : Nat
  standby : Nat
  on : Bool := false
  courseOk : Bool := false
  rebuilt : Bool := false
  deriving DecidableEq, Repr

/-- A rebuild chain in progress (R289): the line, the survivors it has passed, and the partial result with its stamp. -/
structure RebuildChain where
  lregion : Nat
  bank : Nat
  line : Nat
  passed : Nat := 0
  data : List Byte
  stamp : Byte := 0
  deriving DecidableEq, Repr

/-- Fault absorption (R272 to R302). -/
structure FaultSt where
  phase : FaultPhase := .none
  awaiting : List Nat := []                 -- regions that the rewind report has not reached
  quiet : List Nat := []                    -- regions that have stopped issuing
  drainedOut : Bool := false                -- the drain limit has passed
  repairs : List FaultRep := []
  exh : Bool := false
  partner : Bool := false
  partnerMod : Nat := 0
  image : Bool := false
  logOvf : Bool := false                    -- RC bit of `CTL_FLT_STATUS`
  logFull : Bool := false                   -- an inbound log has filled since the last commit point (R286)
  stbyW : Bool := false
  stbyE : Bool := false
  replaying : Bool := false
  replayTo : Nat := 0
  since : U64 := 0                          -- when the absorption in hand began
  promos : List Promo := []
  chains : List RebuildChain := []
  rebuilt : List Nat := []                  -- line keys rebuilt
  mgmtOk : Bool := true                     -- the standby pair of management cores is available (R340)
  replays : U32 := 0
  rmis : U32 := 0
  snap : Option Snapshot := none
  pendSnap : Option Snapshot := none
  coinc : List (Nat × Nat × Nat) := []      -- sag coincidences: partner, its sag time, the local sag time (R295)
  corr : Bool := false
  offsets : List (Nat × Int) := []          -- partner's meter time less the local one
  echoes : List (Nat × U64 × U64) := []     -- partner's last sending time and when the record arrived
  partnerSags : List (Nat × U64) := []
  lastSag : U64 := 0
  fences : Tab (Option Nat) := []           -- shifted physical column, by pregion x 28 + row
  dead : List Nat := []                     -- fenced cores, by pregion x 924 + pcore
  inlog : List LogItem := []
  relog : List LogItem := []                -- of the log, what the replay has not yet reached
  aliases : List (Nat × Nat) := []          -- operations of a replay that were suppressed: the name they had before, and now (R285)
  closed : List (Nat × Nat) := []           -- partner engines known to be lost, whose streams are closed: module and engine (R244)
  outerDue : List (Nat × Nat × Nat) := []   -- outer parity lines of lost regions still to be recomputed: region, bank, line (R290)
  needLoad : Bool := false                  -- exchange lines are lost: the module takes a warm load before it runs on (R294)
  deriving DecidableEq, Repr

/-- A health-log record (Table 13.9). -/
structure LogRec where
  time : U64
  step : U64
  item : HealthRec
  seq : U32
  deriving DecidableEq, Repr

/-- The health log (R301): records held, oldest first, and the newest sequence number. -/
structure HealthLog where
  recs : List LogRec := []
  seq : U32 := 0
  deriving DecidableEq, Repr

/-- Inlet, power, cooling, sideband and bring-up (R311 to R330). -/
structure PowerSt where
  inletOk : Bool := false
  pwrEn : Bool := false
  mv : U16 := 0
  watts : U16 := 0
  mduty : Nat := 16
  gateMs : Nat := 0
  riseMs : Nat := 0
  flow : Nat := 0
  tin : Nat := 0
  tout : Nat := 0
  silentA : Nat := 0
  silentB : Nat := 0
  silentTA : Nat := 0
  silentTB : Nat := 0
  sens : Bool := false
  badFlow : Bool := false        -- the pair of flow sensors disagrees or one of it is silent, and so for the temperatures
  badTin : Bool := false
  allowC : Nat := 4400000        -- coolant allowance in hundredths of a watt (R316)
  stage : Nat := 0
  ready : Bool := false
  fail : Nat := 0
  topoTo : Bool := false
  rstgl : Byte := 0
  alert : BitVec 10 := 0
  xOvr : Bool := false
  xRegion : Nat := 0
  xKind : Nat := 0
  xCount : Nat := 0
  marg : Bool := false
  margLink : Nat := 0
  nmarg : Nat := 0
  mbIndex : Byte := 0
  mbNack : Bool := false
  mbRead : Option U32 := none    -- what a read of the management bus returns at the index set
  rstLow : Bool := false         -- `MOD_RST_N` is low
  standby : Nat := 0             -- microseconds the standby rails have been up, as far as 50 ms (R323)
  fuse : Tab (Option Nat) := []
  tempRise : Tab Nat := []
  deriving DecidableEq, Repr

/-- Keys and identities (R394). -/
structure KeySt where
  serial : U64 := 0
  seed : Nat := 0
  pub : Nat := 0
  cert : BitVec 2048 := 0
  owners : Tab (Option Nat) := []
  count : U64 := 0
  vimg : Bool := false
  used : Bool := false
  deriving DecidableEq, Repr

/-- What the meter's display shows (Table 17.2): energies in watt-hours, that is, kWh with 3 decimals. -/
inductive Shown where
  | imported (wh : Nat)
  | firmware (version : U16) (checksum : U32)
  | serial (n : U64)
  | clock (year month day hour minute second : Nat)
  | seal (opened : Bool) (events : U16)
  | reverse (wh : Nat)
  | allOn
  deriving DecidableEq, Repr

/-- An occasion on which the meter writes a record (R383): the inlet's millivolts at a loss of power, the code of a seal event, the epoch, root and merges of a marker. -/
inductive OccasionKind where
  | interval
  | lost (mv : Nat)
  | restored
  | seal (evt : Nat)
  | epoch (e : U32) (root : BitVec 192) (merges : Nat)
  deriving DecidableEq, Repr

/-- An occasion and its meter time. -/
structure Occasion where
  what : OccasionKind
  at_ : U64
  deriving DecidableEq, Repr

/-- The Clailo meter (R376 to R392). Energies are in units of half a microwatt for a microsecond, 7.2 x 10^12 to the mWh. -/
structure MeterSt where
  seed : Nat := 0
  pub : Nat := 0
  serial : U64 := 0
  checksum : U32 := 0
  time : U64 := 0
  eimp : Nat := 0
  erev : Nat := 0
  istart : Nat := 0
  vmin : U16 := 0xFFFF
  vmax : U16 := 0
  pmax : U32 := 0
  nsag : U32 := 0
  sagFirst : U64 := 0
  sagLast : U64 := 0
  disagree : Bool := false
  disInt : Bool := false
  vOut : Bool := false
  iOver : Bool := false
  cepoch : U32 := 0
  roott : BitVec 192 := 0
  nseal : U16 := 0
  tamper : Bool := false
  unseated : Bool := false
  adjusted : Bool := false
  seq : U64 := 0
  recs : List (Nat × MeterRec) := []
  lost : Bool := false
  live : Bool := true
  coverOpen : Bool := false
  session : Bool := false
  screen : Nat := 1
  sag : Option U64 := none
  accepted : Option (U32 × BitVec 192) := none
  seals : List (Nat × U64) := []     -- seal events of a dead inlet, not yet recorded: kind and meter time (R383)
  window : Bool := false
  heldM : Option Marker := none
  merges : Nat := 0
  backfill : Nat := 0
  mv : Nat := 0                      -- the voltage and the two channel currents as the meter measures them (R379)
  ia : Int := 0
  ib : Int := 0
  runs : List (Nat × Nat) := []      -- the voltage over the last second, newest first: millivolts and microseconds (R387)
  sumV : Nat := 0                    -- sums of voltage and power since the last whole second, and its microseconds (Table 17.3)
  sumP : Int := 0
  sumN : Nat := 0
  apartAll : Bool := true            -- every comparison of the channels since the last whole 60 s found them apart, or alike (R380)
  alikeAll : Bool := true
  pulses : Nat := 0                  -- pulses given at the test pulse output (Table 17.1)
  occ : List Occasion := []          -- occasions of the present microsecond, whose records are still to be written (R384)
  seated : Bool := true              -- the cartridge is on its carrier (R377)
  image : Shown := .imported 0       -- what the display keeps without power (R382)
  deriving DecidableEq, Repr

/-- The control die's meter mirror (R390, R393). -/
structure MirrorSt where
  live : Bool := false
  lost : Bool := false
  tamper : Bool := false
  disagr : Bool := false
  stopFull : Bool := false
  full : Bool := false
  badf : U32 := 0
  badsig : U32 := 0
  recs : Tab (Option (Nat × MeterRec)) := []
  newest : U64 := 0
  eimp : U64 := 0
  mtime : U64 := 0
  ident : BitVec 640 := 0
  pub : Option Nat := none
  frames : List ExportFrame := []
  markers : List Marker := []
  deriving DecidableEq, Repr

/-- What the module sends to the outside world, oldest first. -/
inductive Out where
  | msix (vec : Nat)
  | norm (m : Nat) (r : NormRec)
  | fingerprint (m r k : Nat) (step : U64) (fp : BitVec 128)
  | sag (m : Nat) (r : SagRec)
  | frame (e j : Nat) (f : Frame)
  | training (e l : Nat) (w : TrainWord)
  | measured (e l errs : Nat)    -- the result of a measurement or window, on the reverse lane (R229)
  | identity (e j : Nat) (f : IdFrame)
  | snoop (line : Nat)
  | quiesceAlert                 -- ALERT_N asserted throughout an orderly quiesce (R312, R322)
  deriving DecidableEq, Repr

/-- The whole module. -/
structure State where
  pending : List Instr
  time : U64
  free : Nat
  host : Memory
  sram : Memory
  cores : Tab CoreSt
  lregions : Tab LRegionSt
  regions : Tab RegionSt
  set : Settings
  grd : GuardSt
  num : NumSt
  run : RunSt
  brg : BridgeSt
  stg : StagingSt
  cfg : ConfigSt
  bat : BattenSt
  net : NetSt
  store : StoreSt
  orc : OrchardSt
  prs : PressSt
  dma : Tab DmaSt
  eng : Tab EngineSt
  flt : FaultSt
  log : HealthLog
  pwr : PowerSt
  keys : KeySt
  meter : MeterSt
  mir : MirrorSt
  out : List Out
  deriving DecidableEq, Repr

/-- The module right after reset: every register at the value its table gives, memory with nothing listed, the manufacture record in the health log (R301), no command waiting. -/
def State.reset : State where
  pending := []
  time := 0
  free := 0
  host := []
  sram := []
  cores := []
  lregions := []
  regions := []
  set := {}
  grd := {}
  num := {}
  run := {}
  brg := {}
  stg := {}
  cfg := {}
  bat := {}
  net := {}
  store := {}
  orc := {}
  prs := {}
  dma := []
  eng := []
  flt := {}
  log := { recs := [⟨0, 0, { cls := 0 }, 1⟩], seq := 1 }
  pwr := {}
  keys := {}
  meter := {}
  mir := {}
  out := []

end Sys2Proof.Machine
end

