-- ==== Sys2Proof/Machine/Ops.lean ====
section
/-! DEFINITION. The named operations over the state: updates of its parts, memories by logical position, counters, settings, the health log, events and reports. -/

namespace Sys2Proof.Machine

/-- The answer of a command that has an effect: the next state. -/
abbrev Ans := Host.Outcome State Fault Refusal

/-! Updates of one part. -/

def State.onRun (s : State) (f : RunSt → RunSt) : State := { s with run := f s.run }
def State.onNum (s : State) (f : NumSt → NumSt) : State := { s with num := f s.num }
def State.onSet (s : State) (f : Settings → Settings) : State := { s with set := f s.set }
def State.onBrg (s : State) (f : BridgeSt → BridgeSt) : State := { s with brg := f s.brg }
def State.onStg (s : State) (f : StagingSt → StagingSt) : State := { s with stg := f s.stg }
def State.onCfg (s : State) (f : ConfigSt → ConfigSt) : State := { s with cfg := f s.cfg }
def State.onBat (s : State) (f : BattenSt → BattenSt) : State := { s with bat := f s.bat }
def State.onNet (s : State) (f : NetSt → NetSt) : State := { s with net := f s.net }
def State.onStore (s : State) (f : StoreSt → StoreSt) : State := { s with store := f s.store }
def State.onOrc (s : State) (f : OrchardSt → OrchardSt) : State := { s with orc := f s.orc }
def State.onPrs (s : State) (f : PressSt → PressSt) : State := { s with prs := f s.prs }
def State.onFlt (s : State) (f : FaultSt → FaultSt) : State := { s with flt := f s.flt }
def State.onPwr (s : State) (f : PowerSt → PowerSt) : State := { s with pwr := f s.pwr }
def State.onKeys (s : State) (f : KeySt → KeySt) : State := { s with keys := f s.keys }
def State.onMeter (s : State) (f : MeterSt → MeterSt) : State := { s with meter := f s.meter }
def State.onMir (s : State) (f : MirrorSt → MirrorSt) : State := { s with mir := f s.mir }
def State.onGrd (s : State) (f : GuardSt → GuardSt) : State := { s with grd := f s.grd }

/-- Send something to the outside world. -/
def State.emitOut (s : State) (o : Out) : State := { s with out := s.out ++ [o] }

/-- Take a fresh undefined value (log entry 1). -/
def State.fresh (s : State) : Nat × State := (Config.freeValue s.free, { s with free := s.free + 1 })

/-! Logical cores, regions and engines. -/

/-- Key of logical core `c` of logical region `r`. -/
def coreKey (r c : Nat) : Nat := r * 896 + c

/-- A logical core (R14). -/
def State.core (s : State) (r c : Nat) : CoreSt := s.cores.get {} (coreKey r c)
def State.onCore (s : State) (r c : Nat) (f : CoreSt → CoreSt) : State := { s with cores := s.cores.upd {} (coreKey r c) f }

/-- What a logical region holds. -/
def State.lreg (s : State) (r : Nat) : LRegionSt := s.lregions.get {} r
def State.onLreg (s : State) (r : Nat) (f : LRegionSt → LRegionSt) : State := { s with lregions := s.lregions.upd {} r f }

/-- What a physical region holds. -/
def State.reg (s : State) (p : Nat) : RegionSt := s.regions.get {} p
def State.onReg (s : State) (p : Nat) (f : RegionSt → RegionSt) : State := { s with regions := s.regions.upd {} p f }

/-- A photonic engine. -/
def State.engine (s : State) (e : Nat) : EngineSt := s.eng.get {} e
def State.onEng (s : State) (e : Nat) (f : EngineSt → EngineSt) : State := { s with eng := s.eng.upd {} e f }

/-- The physical region that holds a logical region (R13). -/
def State.phys (s : State) (r : Nat) : Option Nat := s.cfg.map.get none r

/-- The logical region that a physical region holds. -/
def State.logicalOf (s : State) (p : Nat) : Option Nat := (List.range 48).find? fun r => s.phys r = some p

/-- Half of a physical region: 0 west, 1 east (R10). -/
def halfOf (p : Nat) : Nat := p % 8 / 4

/-- Physical core of logical core `c` in physical region `p`, past the row's fenced core (R14, R15). -/
def State.pcore (s : State) (p c : Nat) : Nat :=
  let row := c / 32
  let col := c % 32
  match s.flt.fences.get none (p * 28 + row) with
  | none => row * 33 + col
  | some f => row * 33 + (if col < f then col else col + 1)

/-- Logical core of physical core `pc` in physical region `p`; none for a spare or a fenced core. -/
def State.lcore (s : State) (p pc : Nat) : Option Nat :=
  let row := pc / 33
  let col := pc % 33
  match s.flt.fences.get none (p * 28 + row) with
  | none => if col < 32 then some (row * 32 + col) else none
  | some f => if col < f then some (row * 32 + col) else if col = f then none else some (row * 32 + col - 1)

/-- Cluster index of a logical core or store bank (R16, R113). -/
def clusterOf (c : Nat) : Nat := c / 32 / 4 * 4 + c % 32 / 8

/-! The host link (R324, R335). -/

/-- The host link reaches the module: it is up, and bring-up has not failed in its ROM check, after which only the management bus answers (R324, R335). -/
def State.hostReaches (s : State) : Bool := !s.brg.linkDown && decide (s.pwr.fail ≠ 1)

/-- An access of the host to the window: performed, delayed until a link that recovers is up again, or unanswered (R324, R335). -/
def State.overLink (s : State) (c : Instr) (f : State → Ans) : Ans :=
  if s.pwr.fail = 1 then .next s
  else if s.brg.linkDown then .next (s.onBrg fun b => { b with delayed := b.delayed ++ [c] })
  else f s

/-! Changes of every entry. -/

/-- Drop entries with a default value, which a map over a table may have made. -/
def tidy {α : Type} [DecidableEq α] (d : α) (t : Tab α) : Tab α := t.filter fun x => !decide (x.2 = d)

/-- Change every entry of a table. -/
def mapTab {α : Type} [DecidableEq α] (d : α) (f : α → α) (t : Tab α) : Tab α := tidy d (t.map fun x => (x.1, f x.2))

/-- Change every core, every logical region, every router. -/
def State.onCores (s : State) (f : CoreSt → CoreSt) : State := { s with cores := mapTab {} f s.cores }
def State.onLregs (s : State) (f : LRegionSt → LRegionSt) : State := { s with lregions := mapTab {} f s.lregions }
def State.onRouters (s : State) (f : RouterSt → RouterSt) : State := s.onNet fun n => { n with routers := mapTab {} f n.routers }

/-- A DMA channel: region channels by logical region x 128 + number, bridge channels from 48 x 128 up (R193). -/
def State.chan (s : State) (k : Nat) : DmaSt := s.dma.get {} k
def State.onChan (s : State) (k : Nat) (f : DmaSt → DmaSt) : State := { s with dma := s.dma.upd {} k f }

/-! Courses in force. -/

/-- The region course of a logical region in the configuration in force; an empty one where it names none. -/
def State.course (s : State) (r : Nat) : RegionCourse :=
  match s.cfg.image with
  | none => {}
  | some i => ((i.regions.find? fun x => x.1 = r).map (·.2)).getD {}

/-- Does the configuration in force hold a course for logical region `r`? -/
def State.inService (s : State) (r : Nat) : Bool :=
  match s.cfg.image with
  | none => false
  | some i => i.regions.any fun x => x.1 = r

/-- The logical regions in service, ascending. -/
def State.serviceRegions (s : State) : List Nat := (List.range 48).filter s.inService

/-- The sections of a region course that belong to one core. -/
def State.coreCourse (s : State) (r c : Nat) : CoreCourse :=
  ((s.course r).cores.find? fun x => x.core = c).getD { core := c }

def State.linkCourse (s : State) : LinkCourse := (s.cfg.image.bind (·.link)).getD {}
def State.pressCourse (s : State) : PressCourse := (s.cfg.image.bind (·.press)).getD {}
def State.stepCourse (s : State) : StepCourse := (s.cfg.image.bind (·.step)).getD {}
def State.modeCourse (s : State) : ModeCourse := (s.cfg.image.bind (·.mode)).getD {}

/-- Beat-stepping is in force (R406). -/
def State.beatStepping (s : State) : Bool := decide (s.modeCourse.diag = 2)

/-- A region's clock may be enabled: always, or under beat-stepping while a granted beat is pending (R406). -/
def State.beatsLeft (s : State) (p : Nat) : Bool := !s.beatStepping || decide (0 < (s.reg p).grant)

/-- This module's job module number (R84). -/
def State.ownMod (s : State) : Nat := s.linkCourse.mod

/-- Lines of a line list of a region's store map: bank and line, in order (R411). -/
def listLines (rc : RegionCourse) (l : Nat) : List (Nat × Nat) :=
  (rc.lists.getD l []).flatMap fun i =>
    match rc.runs[i]? with
    | none => []
    | some u => (List.range u.count).map fun k => (u.bank, u.first + k)

/-- Lines of store bank `b` (R85). -/
def bankLines (b : Nat) : Nat := if b % 7 < 3 then 14044 else 14043

/-! Memories. -/

/-- `n` bytes from `a`. -/
def readMem (m : Memory) (a n : Nat) : List Byte := (List.range n).map fun i => Tab.get (0 : Byte) m (a + i)

/-- Write bytes from `a` upward. -/
def writeMem (m : Memory) (a : Nat) : List Byte → Memory
  | [] => m
  | b :: t => writeMem (Tab.set (0 : Byte) m a b) (a + 1) t

/-- Host memory bytes (R188). -/
def State.readHost (s : State) (a n : Nat) : List Byte := readMem s.host a n
def State.writeHost (s : State) (a : Nat) (b : List Byte) : State := { s with host := writeMem s.host a b }

/-- Bytes of one core's SRAM (R81). -/
def sramSize : Nat := 1310720

/-- Key of SRAM byte 0 of a logical core: that of the physical core that holds it. -/
def State.sramBase (s : State) (r c : Nat) : Nat :=
  match s.phys r with
  | none => 48 * 924 * 2 ^ 21 + coreKey r c * 2 ^ 21
  | some p => (p * 924 + s.pcore p c) * 2 ^ 21

def State.readSram (s : State) (r c off n : Nat) : List Byte := readMem s.sram (s.sramBase r c + off) n
def State.writeSram (s : State) (r c off : Nat) (b : List Byte) : State := { s with sram := writeMem s.sram (s.sramBase r c + off) b }

/-- Key of a store line of a physical region's column (R85). -/
def lineKey (p bank line : Nat) : Nat := (p * 1024 + bank) * 16384 + line

/-- The physical column of logical region `r`'s store share; a region without a position keeps a key of its own. -/
def State.column (s : State) (r : Nat) : Nat := (s.phys r).getD (64 + r)

def State.readStore (s : State) (r bank off n : Nat) : List Byte :=
  readMem s.store.mem (lineKey (s.column r) bank 0 * 2048 + off) n
def State.writeStore (s : State) (r bank off : Nat) (b : List Byte) : State :=
  s.onStore fun t => { t with mem := writeMem t.mem (lineKey (s.column r) bank 0 * 2048 + off) b }

/-- A store line's 2,048 bytes. -/
def State.readLine (s : State) (r bank line : Nat) : List Byte := s.readStore r bank (line * 2048) 2048

/-- Stamp of a line (R136). -/
def State.stamp (s : State) (r bank line : Nat) : Byte := s.store.stamps.get 0 (lineKey (s.column r) bank line)
def State.setStamp (s : State) (r bank line : Nat) (v : Byte) : State :=
  s.onStore fun t => { t with stamps := t.stamps.set 0 (lineKey (s.column r) bank line) v }

/-! The health log (R301), events (R357) and reports. -/

/-- Append a health-log record; the ring keeps the newest 65,536 (R301). -/
def State.logHealth (s : State) (h : HealthRec) : State :=
  let n := if s.log.seq = 0xFFFFFFFF then 1 else s.log.seq + 1
  let rs := s.log.recs ++ [⟨s.time, s.run.step, h, n⟩]
  { s with log := { recs := if rs.length > 65536 then rs.drop 1 else rs, seq := n } }

/-- The completion queue that carries events (R356). -/
def eventQueue : Nat := 513

def State.hq (s : State) (q : Nat) : HostQ := s.brg.hq.get {} q
def State.onHq (s : State) (q : Nat) (f : HostQ → HostQ) : State := s.onBrg fun b => { b with hq := b.hq.upd {} q f }

/-- Set bits of the alert register (R320, R357). -/
def State.alert (s : State) (bit : Nat) : State := s.onPwr fun p => { p with alert := p.alert ||| (1#10 <<< bit) }

/-- Post an event: it becomes pending on completion queue 513, or joins the pending entry of its code (R356, R357). -/
def State.postEvent (s : State) (code : Nat) (res1 : U64) (res0 : U64) : State :=
  let e := s.run.events.get {} code
  let s := if code = 2 ∨ (6 ≤ code ∧ code ≤ 10) then s.alert 9 else s
  if e.pend then
    s.onRun fun r => { r with
      events := r.events.set {} code { pend := true, res0 := res0, res1 := res1, merged := e.merged + 1 }
      merged := BitVec.ofNat 16 (min (r.merged.toNat + 1) 0xFFFF) }
  else
    (s.onRun fun r => { r with events := r.events.set {} code { pend := true, res0 := res0, res1 := res1, merged := 1 } })
      |>.onHq eventQueue fun q => { q with items := q.items ++ [.event code] }

/-- An event with the present step counter in `RES0`. -/
def State.event (s : State) (code : Nat) (res1 : U64) : State := s.postEvent code res1 s.run.step

/-- Complete a command: its entry takes its place in the paired completion queue (R343, R344). -/
def State.complete (s : State) (h : CmdHdr) (status : Byte) (res0 res1 res2 : U64) : State :=
  s.onHq (513 + 2 * h.sq.val) fun q => { q with items := q.items ++ [.cmd h.cid status (BitVec.ofNat 16 h.sq.val) res0 res1 res2] }

/-- Complete a command with no results. -/
def State.done0 (s : State) (h : CmdHdr) (status : Byte) : State := s.complete h status 0 0 0

/-- The command at the head of the configuration lane still executes: an arm that is applied at once (R344, R349). -/
def State.laneBlocked (s : State) : Bool := s.run.armed.isSome

/-! Counts of the region blocks (R64). -/

/-- Add to an accumulating count of a physical region. -/
def State.count (s : State) (p off n : Nat) : State := s.onReg p fun g => { g with counts := g.counts.upd 0 off (· + n) }

/-- Add to a count of the physical region that holds logical region `r`. -/
def State.countL (s : State) (r off n : Nat) : State :=
  match s.phys r with
  | none => s
  | some p => s.count p off n

/-! Counters (R95 to R97). -/

def State.ctr (s : State) (r c k : Nat) : Nat := (s.core r c).ctrs.get 0 k
def State.siCtr (s : State) (r k : Nat) : Nat := (s.lreg r).ctrs.get 0 k

/-- A core faults as an illegal operation at record or counter `point`: it stops and reports to the control die (R24, R278). -/
def State.illegal (s : State) (r c point : Nat) : State :=
  (s.onCore r c fun x => { x with halted := true }).onBat fun b => { b with illegals := b.illegals ++ [⟨r, c, point⟩] }

/-- Mark a first saturation in `RGN_SYNC_STATUS` (R97, R105). -/
def State.syncOvf (s : State) (r core k : Nat) : State :=
  match s.phys r with
  | none => s
  | some p => s.onReg p fun g => if g.syncOvf then g else { g with syncOvf := true, syncCtr := k, syncCore := core }

/-- Number that stands for counter `k` in a report of an illegal operation: a saturation (R97, R278). -/
def ctrPoint (k : Nat) : Nat := 0x20000000 + k

/-- Increase a core's counter; above 65,535 it stays at 65,535 and the core faults (R97). -/
def State.addCtr (s : State) (r c k n : Nat) : State :=
  let v := s.ctr r c k + n
  if v ≤ 65535 then s.onCore r c fun x => { x with ctrs := x.ctrs.set 0 k v }
  else ((s.onCore r c fun x => { x with ctrs := x.ctrs.set 0 k 65535 }).syncOvf r c k).illegal r c (ctrPoint k)

/-- Increase a store-interface counter; saturation is an illegal operation of the store interface (R97). -/
def State.addSiCtr (s : State) (r k n : Nat) : State :=
  let v := s.siCtr r k + n
  if v ≤ 65535 then s.onLreg r fun x => { x with ctrs := x.ctrs.set 0 k v }
  else
    ((s.onLreg r fun x => { x with ctrs := x.ctrs.set 0 k 65535 }).syncOvf r 0x3FF k).onBat fun b =>
      { b with illegals := b.illegals ++ [⟨r, 0x3FF, ctrPoint k⟩] }

/-- Increase the counter that a 9-bit token field names, if it enables one (Table 5.3). -/
def tokOf (t : Nat) : Option Nat := if t / 256 % 2 = 1 then some (t % 256) else none

def State.addTok (s : State) (r c t n : Nat) : State :=
  match tokOf t with
  | none => s
  | some k => s.addCtr r c k n

/-- Are a core's waits met (R96)? -/
def State.waitsMet (s : State) (r c : Nat) (ws : List Wait) : Bool := ws.all fun w => w.thr ≤ s.ctr r c w.ctr

/-- Tokens of some runs of arrivals. -/
def runTotal (l : List (Nat × Nat)) : Nat := l.foldl (fun n x => n + x.2) 0

/-- Runs of arrivals without their `n` oldest tokens. -/
def dropRuns : Nat → List (Nat × Nat) → List (Nat × Nat)
  | _, [] => []
  | n, (t, m) :: l => if n < m then (t, m - n) :: l else dropRuns (n - m) l

/-- Arrivals of a counter at `v` after `n` of its tokens are taken: those it held from the start go first. -/
def takeRuns (v n : Nat) (l : List (Nat × Nat)) : List (Nat × Nat) := dropRuns (n - (v - runTotal l)) l

/-- A core fires: each named counter falls by its threshold, its oldest tokens going (R96). -/
def CoreSt.take (x : CoreSt) (ws : List Wait) : CoreSt :=
  { x with
    ctrs := ws.foldl (fun t w => t.upd 0 w.ctr (· - w.thr)) x.ctrs
    arrivals := ws.foldl (fun t w => t.set [] w.ctr (takeRuns (x.ctrs.get 0 w.ctr) w.thr (t.get [] w.ctr))) x.arrivals }

/-- Fire: each named counter falls by its threshold (R96). -/
def State.takeWaits (s : State) (r c : Nat) (ws : List Wait) : State := s.onCore r c fun x => x.take ws

/-- The same for waits of a store interface. -/
def State.siWaitsMet (s : State) (r : Nat) (ws : List Wait) : Bool := ws.all fun w => w.thr ≤ s.siCtr r w.ctr
def State.takeSiWaits (s : State) (r : Nat) (ws : List Wait) : State :=
  s.onLreg r fun x => { x with ctrs := ws.foldl (fun t w => t.upd 0 w.ctr (· - w.thr)) x.ctrs }

/-- Put emits on the batten network (R98). -/
def State.sendEmits (s : State) (es : List Emit) : State := s.onBat fun b => { b with emits := b.emits ++ es }

/-! Settings (R363). -/

/-- The value in force of the setting register at a staged-view address; its reset value where nothing has set it. -/
def State.setting (s : State) (addr : Nat) : U32 := (s.set.active.get none addr).getD ((regDesc addr).elim 0 (·.reset))

end Sys2Proof.Machine
end

