-- ==== Sys2Proof/Machine/Flags.lean ====
section
/-! DEFINITION. Numeric flags and records: Tables 2.4, 2.5 and 4.8, the sticky sets of R40 and the queueing of R40. -/

namespace Sys2Proof.Machine

/-- The four flags as `NFI`, `INV`, `OVF`, `NFO` in bits 0 to 3 (Table 2.4). -/
def flags4 (nfi inv ovf nfo : Bool) : BitVec 4 := BitVec.ofNat 4 (b2n nfi + 2 * b2n inv + 4 * b2n ovf + 8 * b2n nfo)

/-- Word 0 of a numeric record (Table 2.4). -/
def recWord0 (f : BitVec 4) (fmt outf grad : Bool) (pos cause nfcnt : Nat) : U32 :=
  BitVec.ofNat 32 (f.toNat + b2n fmt * 16 + b2n outf * 32 + b2n grad * 64 + pos % 512 * 2 ^ 8 + cause % 8 * 2 ^ 17 + nfcnt % 1024 * 2 ^ 20)

/-- Word 1 of a numeric record: `KIDX`, and `STAGE` of a chain's (Table 2.4, R79). -/
def recWord1 (kidx stage : Nat) : U32 := BitVec.ofNat 32 (kidx % 2 ^ 24 + stage % 8 * 2 ^ 24)

/-- The flags a record carries. -/
def recFlags (w0 : U32) : BitVec 4 := w0.setWidth 4

/-- `GRAD` of a record. -/
def recGrad (w0 : U32) : Bool := w0.getLsbD 6

/-- OR flags into the per-micro-batch sticky sets of a core (R40). -/
def State.sticky (s : State) (r c mb : Nat) (grad : Bool) (f : BitVec 4) : State :=
  s.onCore r c fun x => { x with sticky := x.sticky.upd {} mb fun m =>
    if grad then { m with grad := m.grad ||| f } else { m with other := m.other ||| f } }

/-- A fault report comes from a physical core: of itself (Table 6.7). -/
def ofCore (p pc : Nat) (f : FaultRep) : Bool := match f.kind with | .core q k _ => q.val = p && k.val = pc | _ => false

/-- Entries in a core's event queue: its numeric records and fault reports that await the batten network (R99 queue 3). -/
def State.queuedRecs (s : State) (r c : Nat) : Nat :=
  let p := (s.phys r).getD 63
  (s.bat.nums.filter fun n => n.lregion = r ∧ n.lcore = c ∧ !n.store).length + (s.bat.illegals.filter fun x => x.lregion = r ∧ x.core = c).length +
  (s.bat.faults.filter (ofCore p (s.pcore p c))).length

/-- The event queue has 8 entries (Table 5.5). -/
def eventEntries : Nat := 8

/-- A unit's batten sends may leave: it has none, or they overrun no event queue (R132). -/
def State.maySend (s : State) (r c : Nat) (sends : Bool) : Bool := !sends || decide (s.queuedRecs r c < eventEntries)

/-- A core sent the record, not a press (R178) or a store interface (R89): those have no word in `RGN_NUM_DROP` (R374). -/
def recFromCore (x : NumRec) : Bool := !x.store && decide (x.lcore ≠ 0x3FF)

/-- Count a dropped numeric record of a physical core (R40, R374). -/
def State.numDropped (s : State) (p pc : Nat) : State := s.onReg p fun g => { g with numDrop := g.numDrop.upd 0 pc (sat32 · 1) }

/-- Work of a micro-batch is a replay: a rewind of the step found that micro-batch begun in the region (R42, R47; log entry 122). -/
def State.replayed (s : State) (r mb : Nat) : Bool := decide (mb < (s.lreg r).replayTo)

/-- A numeric record leaves its source: none when its flags are zero; dropped and counted when the core's queue of 8 is full (R40). The sticky set of its micro-batch takes its flags. -/
def State.sendRecord (s : State) (r c mb : Nat) (tileId w0 w1 : U32) : State :=
  let f := recFlags w0
  let p := (s.phys r).getD 63
  let pc := s.pcore p c
  let s := s.sticky r c mb (recGrad w0) f
  if f = 0 then s
  else if eventEntries ≤ s.queuedRecs r c then s.numDropped p pc
  else s.onBat fun b => { b with nums := b.nums ++ [{ step := s.run.step, mbatch := mb, replay := s.replayed r mb, lregion := r, pregion := p,
                                                      lcore := c, pcore := pc, tileId := tileId, w0 := w0, w1 := w1 }] }

end Sys2Proof.Machine
end

