-- ==== Sys2Proof/Machine/Operands.lean ====
section
/-! DEFINITION. Operand forms: the place of a matrix element in the blocked layout (R48, R49, R70), the slots of a firing (R252, Table 12.6) and the fields of a global address (R84). -/

namespace Sys2Proof.Machine

/-- Byte of element (i, j) within a block image: word (i, q) lies in bank (e·q + i) mod 32 at word address i div e (R48, R49). -/
def elemOff (f32 : Bool) (i j : Nat) : Nat :=
  let e := if f32 then 2 else 4
  8 * (i / e * 32 + (e * (j / e) + i) % 32) + 8 / e * (j % e)

/-- Slots that a block of a format occupies (R70). -/
def blockSlots (f32 : Bool) : Nat := if f32 then 2 else 1

/-- First slot of block (br, bc) of a stored matrix (R70). -/
def blockSlot (f32 : Bool) (base pitch br bc : Nat) : Nat := base + (br * pitch + bc) * blockSlots f32

/-- SRAM offset of stored element (row, col) (R70, R81). -/
def matOff (f32 : Bool) (base pitch row col : Nat) : Nat :=
  blockSlot f32 base pitch (row / 32) (col / 32) * 2048 + elemOff f32 (row % 32) (col % 32)

/-- `BASE` in firing `i` (Tables 12.6 and 12.4). -/
def firingBase (base adv wrap i : Nat) : Nat := if wrap = 0 then base + i * adv else base + i * adv % wrap

/-- SRAM offset of element (row, col) of a tile operand in firing `i`. -/
def opOff (d : OpDesc) (f32 : Bool) (i row col : Nat) : Nat :=
  matOff f32 (firingBase d.base d.adv d.wrap i) d.pitch (d.roff + row) (d.coff + col)

/-- Every block of an operand of `rows` × `cols` elements lies within slots 0 to 639, and at an even slot in binary32 (R24). -/
def opFits (d : OpDesc) (f32 : Bool) (i rows cols : Nat) : Bool :=
  let b := firingBase d.base d.adv d.wrap i
  (List.range ((d.roff + rows - 1) / 32 + 1)).all fun br =>
    (List.range ((d.coff + cols - 1) / 32 + 1)).all fun bc =>
      let t := blockSlot f32 b d.pitch br bc
      decide (t + blockSlots f32 ≤ 640) && (!f32 || decide (t % 2 = 0))

/-- Bits of an element of a format at an SRAM offset. -/
def State.readElem (s : State) (r c : Nat) (f32 : Bool) (off : Nat) : Nat := leNat (s.readSram r c off (if f32 then 4 else 2))
def State.writeElem (s : State) (r c : Nat) (f32 : Bool) (off v : Nat) : State := s.writeSram r c off (leBytes (if f32 then 4 else 2) v)

/-! DMA descriptors (Table 9.4). -/

/-- First key of a bridge channel. -/
def bridgeBase : Nat := 48 * 128

/-- A field of a descriptor: byte offset, lowest bit, width. -/
def Desc.f (d : Desc) (byte lo w : Nat) : Nat := fld d.raw.toNat (8 * byte + lo) w

def Desc.src (d : Desc) : U64 := BitVec.ofNat 64 (d.f 0 0 64)
def Desc.dst (d : Desc) : U64 := BitVec.ofNat 64 (d.f 8 0 64)
def Desc.len (d : Desc) : Nat := d.f 0x10 0 32
def Desc.srcHost (d : Desc) : Bool := decide (d.f 0x14 0 2 = 1)
def Desc.dstHost (d : Desc) : Bool := decide (d.f 0x14 2 2 = 1)
def Desc.csum (d : Desc) : Nat := d.f 0x14 4 2
def Desc.cseed (d : Desc) : Bool := decide (d.f 0x14 6 1 = 1)
def Desc.bar (d : Desc) : Bool := decide (d.f 0x14 7 1 = 1)
def Desc.ttok (d : Desc) : Nat := d.f 0x18 0 9
def Desc.tag (d : Desc) : U32 := BitVec.ofNat 32 (d.f 0x3C 0 32)

/-- Wait `w`, when enabled. -/
def Desc.wait (d : Desc) (w : Nat) : Option Wait :=
  if d.f (0x1C + 4 * w) 3 1 = 1 then some { ctr := d.f (0x1C + 4 * w) 0 3, thr := d.f (0x1C + 4 * w) 16 16 } else none
def Desc.waits (d : Desc) : List Wait := (List.range 4).filterMap d.wait

/-- Emit `x`, when enabled. -/
def Desc.emit (d : Desc) (x : Nat) : Option Emit :=
  let b := 0x2C + 8 * x
  if d.f b 6 1 = 1 then some { region := d.f b 0 6, unit := d.f b 16 16, ctr := d.f b 32 8, count := d.f b 40 8 } else none
def Desc.emits (d : Desc) : List Emit := (List.range 2).filterMap d.emit

/-! Global addresses (Table 5.2). -/

def gMod (g : U64) : Nat := fld g.toNat 48 16
def gRegion (g : U64) : Nat := fld g.toNat 42 6
def gSpace (g : U64) : Bool := bitAt g.toNat 41
def gIndex (g : U64) : Nat := fld g.toNat 31 10
def gOffset (g : U64) : Nat := fld g.toNat 0 25

/-- The global address with its offset replaced. -/
def gWithOffset (g : U64) (off : Nat) : U64 := BitVec.ofNat 64 (putFld g.toNat 0 25 off)

/-- Bytes of the SRAM or store bank that a global address names. -/
def gSize (g : U64) : Nat := if gSpace g then 2048 * bankLines (gIndex g) else sramSize

/-- A global address within the ranges of R84: reserved bits zero, fields in range, offset a multiple of 8 within its SRAM or bank. A range that passes the end is rejected at the target (R92; log entry 15). -/
def gLegal (g : U64) : Bool :=
  decide (fld g.toNat 25 6 = 0) && decide (gRegion g < 48) && decide (gIndex g < 896) && decide (gOffset g % 8 = 0) &&
  decide (gOffset g < gSize g)

/-- Build a global address. -/
def mkGaddr (mod region : Nat) (space : Bool) (index off : Nat) : U64 :=
  BitVec.ofNat 64 (mod * 2 ^ 48 + region * 2 ^ 42 + b2n space * 2 ^ 41 + index * 2 ^ 31 + off)

/-- The named module is the issuing one (R84; log entry 24). -/
def State.isOwn (s : State) (m : Nat) : Bool := decide (m = 0xFFFF) || decide (m = s.ownMod)

/-- The layout epoch that the region's cores put in their reduces (R105). -/
def State.coreEpoch (s : State) (r : Nat) : U32 :=
  match s.phys r with
  | none => 0
  | some p => s.setting (rgnBase p + 0x2034)

end Sys2Proof.Machine
end

