-- ==== Sys2Proof/Machine/Ready.lean ====
section
/-! DEFINITION. When a unit may fire: region activity, counters, issue class and the choice among ready units (R60, R73, R93, R96), and the begin and end of micro-batches (R45, R46, R253, R279). -/

namespace Sys2Proof.Machine

/-- Units of a logical region may issue: the step has begun, the region has its commit token and has not reported its end, it is powered, clocked and locked, and no rewind holds it (R19, R281, R305). -/
def State.regionRuns (s : State) (r : Nat) : Bool :=
  s.run.inStep && (s.lreg r).active && !s.flt.quiet.contains r &&
  match s.phys r with
  | none => false
  | some p => (s.reg p).powered && (s.reg p).clockOn && (s.reg p).lock

/-- A core's units may issue: its region's do, its clock is enabled (R406), it is not fenced (R287), and no illegal operation has halted it. -/
def State.coreRuns (s : State) (r c : Nat) : Bool :=
  s.regionRuns r && !(s.core r c).halted && (match s.phys r with | none => false | some p => s.beatsLeft p && !s.flt.dead.contains (p * 924 + s.pcore p c))

/-- `RGN_MX_CFG.UNSPLIT` in force in the region (R63). -/
def State.unsplit (s : State) (r : Nat) : Bool :=
  match s.phys r with
  | none => false
  | some p => (s.setting (rgnBase p + 0x2000)).getLsbD 0

/-- Is this the region's micro-batch unit (R253)? For a context, `pos` names the instruction. -/
def State.isMbUnit (s : State) (r kind core index pos : Nat) : Bool :=
  (s.course r).mbUnits.any fun u => u.kind = kind && u.core = core && u.index = index && (kind ≠ 0 || u.pos = pos)

/-- Micro-batch n may begin in the region: no hold below it (R46), no commit point that the module has not passed (R279). -/
def State.mayBegin (s : State) (r n : Nat) : Bool :=
  (match (s.lreg r).holdTok with
   | none => true
   | some h => decide (n ≤ h)) &&
  (!(s.stepCourse.commits.contains n) ||
   match s.flt.snap with
   | none => false
   | some q => decide (q.step = s.run.step ∧ q.mb ≥ n))

/-- A unit that is not the micro-batch unit, or whose next micro-batch may begin. -/
def State.mbGate (s : State) (r kind core index pos : Nat) : Bool :=
  !s.isMbUnit r kind core index pos || s.mayBegin r (s.lreg r).mbBegun

/-- The micro-batch unit fires: micro-batch n begins and the hub reports it (R45). -/
def State.mbFire (s : State) (r : Nat) : State :=
  let n := (s.lreg r).mbBegun
  (s.onLreg r fun l => { l with mbBegun := n + 1 }).onBat fun b => { b with mbs := b.mbs ++ [{ lregion := r, n := n, ended := false }] }

/-- Fire as the micro-batch unit if the unit is it. -/
def State.mbNote (s : State) (r kind core index pos : Nat) : State := if s.isMbUnit r kind core index pos then s.mbFire r else s

/-- The micro-batch that work issued now belongs to (R45); before any has begun, 0 (log entry 121). -/
def State.mbNow (s : State) (r : Nat) : Nat := (s.lreg r).mbBegun - 1

/-- Among (class deferred, readiness stamp, index), the one R60 issues: critical first, then earliest ready, then lowest index. -/
def pickUnit (unsplit : Bool) : List (Bool × Nat × Nat) → Option Nat
  | [] => none
  | (d, t, i) :: l =>
    match pickUnit unsplit l with
    | none => some i
    | some j =>
      match l.find? fun x => x.2.2 = j with
      | none => some i
      | some (d', t', _) =>
        let a := if unsplit then false else d
        let b := if unsplit then false else d'
        if (b && !a) || (a == b && (t < t' || (t == t' && i < j))) then some i else some j

/-- Stamp of the `n`-th oldest token of some runs. -/
def runStamp : Nat → List (Nat × Nat) → Nat
  | _, [] => 0
  | n, (t, m) :: l => if n ≤ m then (if n = 0 then 0 else t) else runStamp (n - m) l

/-- When the last token or credit that a unit's next firing takes arrived; 0 for those held from the start (R60 rule 2; log entry 120). -/
def CoreSt.readyAt (x : CoreSt) (ws : List Wait) : Nat :=
  ws.foldl (fun m w => let l := x.arrivals.get [] w.ctr; max m (runStamp (w.thr - (x.ctrs.get 0 w.ctr - runTotal l)) l)) 0

/-! Tile operations. -/

/-- Operation `i` of a matrix list keeps to the chain rules of R24. -/
def chainOk (ops : List TileOp) (i : Nat) : Bool :=
  match ops[i]? with
  | none => false
  | some o =>
    (if o.init = 2 then
      (match i with
       | 0 => false
       | j + 1 =>
         match ops[j]? with
         | none => false
         | some p => !p.drain && p.fmt == o.fmt && p.m == o.m && p.n == o.n && p.tr.rep == o.tr.rep)
     else true) &&
    (o.drain ||
      match ops[i + 1]? with
      | none => false
      | some n => n.init == 2)

/-- A tile operation waits for nothing (R24, R61, R96): its count is not exhausted, its waits are met, and its accumulator set is there. -/
def State.tileReady (s : State) (r c i : Nat) (o : TileOp) : Bool :=
  let x := s.core r c
  let f := x.tileFired.get 0 i
  decide (f < o.tr.rep) && s.waitsMet r c o.tr.waits && s.mbGate r 1 c i 0 &&
  (if o.init = 2 then
    (i == 0 || decide (x.tileFired.get 0 (i - 1) > f)) &&
      (x.accs.any (fun a => a.op + 1 = i && a.firing = f && !a.draining) || !chainOk (s.coreCourse r c).tiles i)
   else decide (x.accs.length < 2))

/-- Ready tile operations with their class, stamp and index. -/
def State.readyTiles (s : State) (r c : Nat) : List (Bool × Nat × Nat) :=
  let ts := (s.coreCourse r c).tiles
  (List.range ts.length).filterMap fun i =>
    match ts[i]? with
    | none => none
    | some o => if s.tileReady r c i o then some (o.deferred, (s.core r c).readyAt o.tr.waits, i) else none

/-! Vector chains. -/

def State.chainReady (s : State) (r c i : Nat) (o : Chain) : Bool :=
  let x := s.core r c
  decide (x.chainFired.get 0 i < o.tr.rep) && s.waitsMet r c o.tr.waits && s.mbGate r 2 c i 0

/-- Ready chains with their class, stamp and index. -/
def State.readyChains (s : State) (r c : Nat) : List (Bool × Nat × Nat) :=
  let ts := (s.coreCourse r c).chains
  (List.range ts.length).filterMap fun i =>
    match ts[i]? with
    | none => none
    | some o => if s.chainReady r c i o then some (o.deferred, (s.core r c).readyAt o.tr.waits, i) else none

/-! Contexts. -/

def State.ctx (s : State) (r c j : Nat) : CtxSt := (s.core r c).ctxs.get {} j
def State.onCtx (s : State) (r c j : Nat) (f : CtxSt → CtxSt) : State := s.onCore r c fun x => { x with ctxs := x.ctxs.upd {} j f }

/-- The program of a context. -/
def State.prog (s : State) (r c j : Nat) : List CtxInstr :=
  (((s.coreCourse r c).progs.find? fun x => x.1 = j).map (·.2)).getD []

/-- The next instruction of a context, none once it has ended. -/
def State.nextInstr (s : State) (r c j : Nat) : Option CtxInstr :=
  let x := s.ctx r c j
  if x.ended then none else (s.prog r c j)[x.pc]?

/-- Is a context deferred (R93, R411 type 2)? -/
def State.ctxDeferred (s : State) (r c j : Nat) : Bool := (s.course r).classes.any fun x => x.1 = c && bitAt x.2 j

/-- Outstanding gets, puts and compare-and-swaps of a core (R94). -/
def State.outstanding (s : State) (r c : Nat) : Nat := (s.core r c).ctxs.foldl (fun n x => n + x.2.outst.length) 0

/-- An instruction sends on the batten network: it has emits, or is a launch (R98, R109). -/
def sendsBatten (i : CtxInstr) : Bool := !i.tr.emits.isEmpty || (match i.op with | .launch _ => true | _ => false)

/-- A context is below its outstanding limits, whatever its next instruction; a remote operation also finds room in the outbound queue, whose 64 entries hold the operations that await the bounded plane and those that await the vertical port (R93, R94, R99, R100). -/
def State.withinLimits (s : State) (r c j : Nat) (o : CtxOp) : Bool :=
  decide ((s.ctx r c j).outst.length < 16) && decide (s.outstanding r c < 512) &&
  match o with
  | .rmo _ => decide ((((s.core r c).outq ++ (s.core r c).port).filter fun p => p.last && decide (p.kind ≤ 5)).length < 64)
  | _ => true

/-- A context is ready (R93); one whose batten sends would overrun the event queue stalls (R132). -/
def State.ctxReady (s : State) (r c j : Nat) : Bool :=
  match s.nextInstr r c j with
  | none => false
  | some i => s.waitsMet r c i.tr.waits && s.withinLimits r c j i.op && s.maySend r c (sendsBatten i) && s.mbGate r 0 c j (s.ctx r c j).pc

/-- The ready context that issues next: critical before deferred, then the first after the one last issued (R93). -/
def State.pickCtx (s : State) (r c : Nat) : Option Nat :=
  let last := (s.core r c).lastCtx
  let order := (List.range 64).map fun k => (last + 1 + k) % 64
  let ready := order.filter (s.ctxReady r c)
  if s.unsplit r then ready.head?
  else
    match ready.find? fun j => !s.ctxDeferred r c j with
    | some j => some j
    | none => ready.head?

/-! Arrivals. -/

/-- Note an arrival of `n` tokens at a counter under a new stamp. -/
def State.noteArrival (s : State) (r c k n : Nat) : State :=
  s.onCore r c fun x => { x with clock := x.clock + 1, arrivals := x.arrivals.set [] k (x.arrivals.get [] k ++ [(x.clock + 1, n)]) }

/-- An arrival at a core's counter: the increase of R97, with the stamp that R60 orders by. -/
def State.arrive (s : State) (r c k n : Nat) : State := (s.addCtr r c k n).noteArrival r c k n

/-- An arrival at the counter that a 9-bit token field enables. -/
def State.arriveTok (s : State) (r c t n : Nat) : State :=
  match tokOf t with
  | none => s
  | some k => s.arrive r c k n

/-! End of work. -/

/-- Nothing of the core's work is in flight: accumulators, vector engine, outstanding operations, outbound packets. -/
def CoreSt.quiet (x : CoreSt) : Bool :=
  x.accs.all (fun a => !a.draining) && x.vec.isNone && x.ctxs.all (fun p => p.2.outst.isEmpty) && x.outq.isEmpty && x.port.isEmpty && x.ported.isEmpty

/-- Work of micro-batch n or earlier is still in flight in the core: a set that drains, a vector chain. A chain open between two operations issues its next one in a later micro-batch, or is ready now. -/
def CoreSt.busyUpto (x : CoreSt) (n : Nat) : Bool :=
  x.accs.any (fun a => a.draining && decide (a.mbatch ≤ n)) || (match x.vec with | none => false | some v => decide (v.mbatch ≤ n))

/-- The cores that a region course gives sections. -/
def State.courseCores (s : State) (r : Nat) : List Nat := (s.course r).cores.map (·.core)

/-- No unit of the core can issue now. -/
def State.coreIdle (s : State) (r c : Nat) : Bool :=
  (s.core r c).quiet && (s.readyTiles r c).isEmpty && ((s.core r c).vec.isSome || (s.readyChains r c).isEmpty) && (s.pickCtx r c).isNone

def State.regionIdle (s : State) (r : Nat) : Bool := (s.courseCores r).all (s.coreIdle r)

/-- Every unit of the core has made its firings of the step and every context has ended (R252). -/
def State.coreDone (s : State) (r c : Nat) : Bool :=
  let cc := s.coreCourse r c
  let x := s.core r c
  x.quiet && x.accs.isEmpty &&
  (List.range cc.tiles.length).all (fun i => decide ((cc.tiles.getD i {}).tr.rep ≤ x.tileFired.get 0 i)) &&
  (List.range cc.chains.length).all (fun i => decide ((cc.chains.getD i {}).tr.rep ≤ x.chainFired.get 0 i)) &&
  cc.progs.all fun p => (s.nextInstr r c p.1).isNone

def State.unitsDone (s : State) (r : Nat) : Bool := (s.courseCores r).all (s.coreDone r)

/-- A packet that no unit's work waits for: the acknowledgement of a delta, or what a store interface sends. -/
def idlePacket (p : Packet) : Bool := decide (p.kind = 9 ∨ p.skind = 1)

/-- A channel has work of its own to do: a descriptor begun, or one fetched or to be fetched whose waits are met; one that waits for counters waits for a unit's emits, and a stopped one for nobody (R197, R203). -/
def DmaSt.moves (d : DmaSt) (region : Bool) : Bool :=
  !d.stop && (d.cur.isSome || !d.buf.isEmpty ||
    match d.queue with
    | x :: _ => x.waits.all fun w => decide (w.thr ≤ d.ctrs.get 0 w.ctr)
    | [] => region && decide (1 ≤ d.ctrs.get 0 7) && decide (1 ≤ d.ctrs.get 0 6))

/-- A bridge channel has descriptors that its ring shows and that are not fetched (R197). -/
def State.ringShows (s : State) (c : Nat) : Bool := (s.hq c).en && decide ((s.hq c).host ≠ (s.chan (bridgeBase + c)).fetched) && !(s.chan (bridgeBase + c)).stop

/-- Some DMA channel moves. -/
def State.dmaMoves (s : State) : Bool := s.dma.any (fun x => x.2.moves (decide (x.1 < bridgeBase))) || (List.range 256).any s.ringShows

/-- An orchard row is being filled, or the rows of a micro-batch up to `n` are still to be announced (R156). -/
def State.rowsMove (s : State) (n : Nat) : Bool :=
  !s.orc.fills.isEmpty || s.pressCourse.tables.any fun t => t.owners.any fun o => decide ((s.lreg o.1).orcTold.get 0 t.table ≤ n)

/-- A packet of a partner has come and is not yet on the slab (R114, R240); one held for an epoch to come is not awaited by this step. -/
def EngineSt.brings (x : EngineSt) : Bool := !x.arrived.isEmpty || !x.toSlab.isEmpty || x.rx.any fun y => !y.2.waiting.isEmpty

/-- Nothing of any unit's work is on its way: no packet, no emit, no launch, no DMA transfer, no orchard row of micro-batch `n`, nothing of a partner's. -/
def State.nothingMoves (s : State) (n : Nat) : Bool :=
  s.cores.all (fun x => x.2.outq.isEmpty && x.2.inHi.isEmpty && x.2.inNo.isEmpty && x.2.port.isEmpty && x.2.ported.isEmpty && x.2.seqs.isEmpty) &&
  s.lregions.all (fun x => (x.2.outq ++ x.2.inHi ++ x.2.inNo).all idlePacket) &&
  s.net.routers.all (fun x => x.2.q.all fun y => idlePacket y.2) && s.bat.emits.all (fun e => decide (e.region = 63 ∨ 256 ≤ e.ctr)) && s.bat.launches.isEmpty &&
  !s.dmaMoves && !s.rowsMove n && s.eng.all (fun x => !x.2.brings)

/-- No unit of the module can issue, and nothing on its way could make one ready: a region that only waits for another's work is not done (R46; log entry 14). -/
def State.allIdle (s : State) (n : Nat) : Bool := s.nothingMoves n && s.serviceRegions.all s.regionIdle

/-- Firings of a unit that micro-batches up to `n` ask for: its even share of the step's. -/
def firingShare (rep n mb : Nat) : Nat := rep * (n + 1) / mb

/-- A unit of the region with firings of micro-batch `n` to make waits for a token that another module sends (R208, R412). -/
def State.awaitsPartner (s : State) (r n : Nat) : Bool :=
  let mb := s.stepCourse.mb
  let short (c : Nat) (tr : Trailer) (fired : Nat) : Bool :=
    decide (fired < firingShare tr.rep n mb) &&
    tr.waits.any fun w => decide (s.ctr r c w.ctr < w.thr) && s.linkCourse.xtoks.any fun x => x.1 = r && x.2.1 = c && x.2.2.1 = w.ctr
  (s.courseCores r).any fun c =>
    let cc := s.coreCourse r c
    (List.range cc.tiles.length).any (fun i => short c (cc.tiles.getD i {}).tr ((s.core r c).tileFired.get 0 i)) ||
    (List.range cc.chains.length).any (fun i => short c (cc.chains.getD i {}).tr ((s.core r c).chainFired.get 0 i))

/-- The region has completed micro-batch n (R46; log entry 14). -/
def State.mbComplete (s : State) (r n : Nat) : Bool :=
  let l := s.lreg r
  !((s.courseCores r).any fun c => (s.core r c).busyUpto n) &&
  (decide (n + 1 < l.mbBegun) ||
   (decide (n + 1 = l.mbBegun) &&
     (s.unitsDone r || (s.allIdle n && !s.awaitsPartner r n && (l.holdTok.isSome || s.stepCourse.commits.contains (n + 1))))))

/-- The sticky sets of all cores of the region for micro-batch n (R40). -/
def State.mbFlags (s : State) (r n : Nat) : MbFlags :=
  (s.courseCores r).foldl (fun m c => let k := (s.core r c).sticky.get {} n; { grad := m.grad ||| k.grad, other := m.other ||| k.other }) {}

/-- Report every micro-batch that has just completed, oldest first, at most `k` of them (R40, R46). -/
def State.mbProgress (s : State) (r : Nat) : Nat → State
  | 0 => s
  | k + 1 =>
    let n := (s.lreg r).mbEnded
    if s.mbComplete r n then
      let f := s.mbFlags r n
      let s := (s.onLreg r fun l => { l with mbEnded := n + 1 }).onBat fun b =>
        { b with mbs := b.mbs ++ [{ lregion := r, n := n, ended := true, grad := f.grad, other := f.other }] }
      s.mbProgress r k
    else s

/-- Report the micro-batches of the region that have completed. -/
def State.progress (s : State) (r : Nat) : State := s.mbProgress r s.stepCourse.mb

end Sys2Proof.Machine
end

