-- ==== Sys2Proof/Machine/Store.lean ====
section
/-! DEFINITION. The store tier: areas, sheaves and parity deltas, the reservoir, copies of a shard and their working lines, scrub, recovery and row repair (R134 to R152). -/

namespace Sys2Proof.Machine

/-! Queues. -/

/-- The first packet that passes a test, and the list without it. -/
def takeFirst (p : Packet → Bool) : List Packet → Option (Packet × List Packet)
  | [] => none
  | x :: t => if p x then some (x, t) else (takeFirst p t).map fun y => (y.1, x :: y.2)

/-- Take the first packet of a class from a store interface's inbound queues, high priority first (R100; log entry 30). -/
def State.takeStore (s : State) (r : Nat) (p : Packet → Bool) : Option (Packet × State) :=
  match takeFirst p (s.lreg r).inHi with
  | some (x, t) => some (x, s.onLreg r fun l => { l with inHi := t })
  | none =>
    match takeFirst p (s.lreg r).inNo with
    | some (x, t) => some (x, s.onLreg r fun l => { l with inNo := t })
    | none => none

/-- Puts, gets and compare-and-swaps of one context to one bank: applied in issue order (R91). -/
def sameOrder (a b : Packet) : Bool :=
  let o (p : Packet) : Bool := p.kind = 0 || p.kind = 1 || p.kind = 5
  o a && o b && a.smod = b.smod && a.slregion = b.slregion && a.skind = b.skind && a.sunit = b.sunit && a.sctx = b.sctx && gIndex a.gaddr = gIndex b.gaddr

/-- The first packet that passes a test and has no packet before it that its order puts first, and the list without it. -/
def takeInOrder (p : Packet → Bool) : List Packet → List Packet → Option (Packet × List Packet)
  | _, [] => none
  | l, x :: t => if p x && !l.any (sameOrder x) then some (x, t) else (takeInOrder p (x :: l) t).map fun y => (y.1, x :: y.2)

/-- The same for operations, those of one context to one bank in issue order (R91). -/
def State.takeOrdered (s : State) (r : Nat) (p : Packet → Bool) : Option (Packet × State) :=
  match takeInOrder p [] (s.lreg r).inHi with
  | some (x, t) => some (x, s.onLreg r fun l => { l with inHi := t })
  | none =>
    match takeInOrder p [] (s.lreg r).inNo with
    | some (x, t) => some (x, s.onLreg r fun l => { l with inNo := t })
    | none => none

/-- Take the next packet of a core's inbound queues if it is of a class: queue 0 is served before queue 1, each in arrival order (R100). -/
def State.takeQueued (s : State) (r c : Nat) (p : Packet → Bool) : Option (Packet × State) :=
  match (s.core r c).inHi, (s.core r c).inNo with
  | x :: t, _ => if p x then some (x, s.onCore r c fun l => { l with inHi := t }) else none
  | [], x :: t => if p x then some (x, s.onCore r c fun l => { l with inNo := t }) else none
  | [], [] => none

/-- The same with the vertical port's buffer, which is served before remote operations (Table 5.1). -/
def State.takeCore (s : State) (r c : Nat) (p : Packet → Bool) : Option (Packet × State) :=
  match (s.core r c).ported with
  | x :: t => if p x then some (x, s.onCore r c fun l => { l with ported := t }) else s.takeQueued r c p
  | [] => s.takeQueued r c p

/-- Packets leave a store interface for the bounded plane. -/
def State.sendStore (s : State) (r : Nat) (ps : List Packet) : State := s.onLreg r fun l => { l with outq := l.outq ++ ps }

/-! Areas (R140). -/

/-- A run of the store map covers a line. -/
def StoreRunHas (u : StoreRun) (bank line : Nat) : Bool := u.bank = bank && u.first ≤ line && line < u.first + u.count

/-- Area of a line; a line no run names is free. -/
def areaOf (rc : RegionCourse) (bank line : Nat) : Area :=
  match rc.runs.find? fun u => StoreRunHas u bank line with
  | none => .free
  | some u => u.area

/-- Areas whose lines are members of a sheaf (Table 7.1). -/
def sheafedData (a : Area) : Bool := a = .parameter || a = .exchange

/-- Run indices that a list of line lists names. -/
def listRuns (rc : RegionCourse) (ls : List Nat) : List Nat := ls.flatMap fun l => rc.lists.getD l []

/-- An enumerated run of exchange-area data lines (R337). -/
structure ExRun where
  lregion : Nat
  bank : Nat
  first : Nat
  count : Nat
  staging : Bool
  deriving DecidableEq, Repr

/-- Line lists of a region that the step and link courses keep out of the window (R337). -/
def hiddenLists (i : Image) (lr : Nat) : List Nat :=
  ((i.step.getD {}).store.filter fun x => x.1 = lr).flatMap (fun x => [x.2.1, x.2.2]) ++
  ((i.link.getD {}).inlogs.filter fun x => x.2.1 = lr).map (·.2.2)

/-- The exchange-area data lines of a configuration, enumerated in ascending logical region (R337). -/
def exRunsOf (i : Image) : List ExRun :=
  ((List.range 48).flatMap fun r => i.regions.filter fun x => x.1 = r).flatMap fun x =>
    let hidden := listRuns x.2 (hiddenLists i x.1)
    (List.range x.2.runs.length).filterMap fun k =>
      match x.2.runs[k]? with
      | none => none
      | some u => if u.area = .exchange && !hidden.contains k then some ⟨x.1, u.bank, u.first, u.count, u.staging⟩ else none

def State.exRuns (s : State) : List ExRun :=
  match s.cfg.image with
  | none => []
  | some i => exRunsOf i

/-- Lines of a list of runs. -/
def runLines (rs : List ExRun) : Nat := rs.foldl (fun n u => n + u.count) 0

/-- Line `k` of a list of runs. -/
def runLine : List ExRun → Nat → Option (Nat × Nat × Nat)
  | [], _ => none
  | u :: t, k => if k < u.count then some (u.lregion, u.bank, u.first + k) else runLine t (k - u.count)

/-- Position of a line in a list of runs, counted from `k`. -/
def runIndex : List ExRun → Nat → Nat → Nat → Nat → Option Nat
  | [], _, _, _, _ => none
  | u :: t, lr, b, l, k =>
    if u.lregion = lr ∧ u.bank = b ∧ u.first ≤ l ∧ l < u.first + u.count then some (k + (l - u.first))
    else runIndex t lr b l (k + u.count)

/-- Lines per GiB. -/
def gibLines : Nat := 524288

/-- Lines of the reservoir, of one slot, and the number of slots (R152, R337). -/
def State.resLines (s : State) : Nat := s.stepCourse.resGiB * gibLines
def State.slotLines (s : State) : Nat := s.resLines / s.stepCourse.s

/-- Place of a line among the exchange lines that are not staging. -/
def State.dataIndex (s : State) (lr bank line : Nat) : Option Nat := runIndex (s.exRuns.filter fun u => !u.staging) lr bank line 0

/-- Reservoir slot of a line: none outside the reservoir or past its last slot. -/
def State.slotOf (s : State) (lr bank line : Nat) : Option Nat :=
  match s.dataIndex lr bank line with
  | none => none
  | some k => if k < s.slotLines * s.stepCourse.s then some (k / s.slotLines) else none

/-- A line in the reservoir segment that belongs to no slot (R337). -/
def State.slotless (s : State) (lr bank line : Nat) : Bool :=
  match s.dataIndex lr bank line with
  | none => false
  | some k => decide (s.slotLines * s.stepCourse.s ≤ k ∧ k < s.resLines)

/-- A write to the line must be discarded: its slot is full or in use, or it lies past the last slot (R152, R337). -/
def State.resClosed (s : State) (lr bank line : Nat) : Bool :=
  s.slotless lr bank line ||
  match s.slotOf lr bank line with
  | none => false
  | some k => decide (s.store.slots.get 0 k ≠ 0)

/-- Count and log a discarded write into the reservoir (R152). -/
def State.resDiscard (s : State) (lr bank line : Nat) : State :=
  (s.onStore fun t => { t with resRej := sat32 t.resRej 1 }).logHealth
    { cls := 0x73, pregion := (s.phys lr).getD 63, lregion := lr, unit := 0x0401, sub := bank, detail := line }

/-- Window line of an exchange line (R336, R337): reservoir, output and staging segments of 2^27 lines. -/
def State.windowLine (s : State) (lr bank line : Nat) : Option Nat :=
  match s.dataIndex lr bank line with
  | some k => if k < s.resLines then some k else if k - s.resLines < 2 ^ 27 then some (2 ^ 27 + (k - s.resLines)) else none
  | none =>
    match runIndex (s.exRuns.filter fun u => u.staging) lr bank line 0 with
    | some k => if k < 2 ^ 27 then some (2 ^ 28 + k) else none
    | none => none

/-- Back-invalidate snoop before a window line changes (R339). -/
def State.snoop (s : State) (lr bank line : Nat) : State :=
  match s.windowLine lr bank line with
  | none => s
  | some w => (s.onStore fun t => { t with snoops := t.snoops + 1 }).emitOut (.snoop w)

/-! Sheaves and deltas (R141 to R147). -/

/-- Every sheaf of the configuration. -/
def State.sheaves (s : State) : List Sheaf :=
  match s.cfg.image with
  | none => []
  | some i => i.regions.flatMap fun x => x.2.sheaves

/-- Member of a sheaf that covers a line: its number and the line's index j. -/
def sheafPos (h : Sheaf) (lr bank line : Nat) : Option (Nat × Nat) :=
  match findIdx (fun m => m.1 = lr && m.2.1 = bank && m.2.2 ≤ line && line < m.2.2 + h.n) h.members 0 with
  | none => none
  | some k => some (k, line - (h.members.getD k (0, 0, 0)).2.2)

/-- The sheaf of a line, the member and the index. -/
def State.sheafOf (s : State) (lr bank line : Nat) : Option (Sheaf × Nat × Nat) :=
  s.sheaves.findSome? fun h => (sheafPos h lr bank line).map fun x => (h, x.1, x.2)

/-- Line j of member m. -/
def memberLine (h : Sheaf) (m j : Nat) : Nat × Nat × Nat :=
  let x := h.members.getD m (0, 0, 0)
  (x.1, x.2.1, x.2.2 + j)

/-- The four packets of a line-delta (R144). -/
def State.deltaPackets (s : State) (r : Nat) (d : DeltaOut) : List Packet :=
  (List.range 4).map fun k =>
    { vc := 2, kind := 4, org := clusterOf d.bank, skind := 1, smod := s.ownMod, slregion := r, pidx := k, last := decide (k = 3), tag := d.tag, glen := 256
      base := d.pline * 2048, gaddr := mkGaddr (d.omod.getD 0xFFFF) d.plregion true d.pbank (d.pline * 2048 + 512 * k)
      payload := (d.data.drop (512 * k)).take 512, stampD := d.stamp.toNat, layout := s.coreEpoch r }

/-- Queue a line-delta; it is sent at once unless one of its line is still unacknowledged (R144). -/
def State.queueDelta (s : State) (r bank line : Nat) (data : List Byte) (stamp : Byte) (m : Option Nat) (p : Nat × Nat × Nat) : State :=
  let open_ := (s.lreg r).outDeltas.any fun d => d.bank = bank && d.line = line && d.omod = m
  let d : DeltaOut := { tag := s.net.nextTag, bank := bank, line := line, data := data, stamp := stamp, omod := m, plregion := p.1, pbank := p.2.1, pline := p.2.2, sent := !open_ }
  let s := (s.onNet fun n => { n with nextTag := n.nextTag + 1 }).onLreg r fun l => { l with outDeltas := l.outDeltas ++ [d] }
  if open_ then s else s.sendStore r (s.deltaPackets r d)

/-- The outer parity holders of a line: the parity modules of the data segments of this module that hold it (R148). -/
def State.outerHolders (s : State) (r bank line : Nat) : List Nat :=
  if s.modeCourse.prot then
    (s.linkCourse.outer.filter fun o => decide (o.own < 7) && o.lregion == r && (listLines (s.course r) o.list).contains (bank, line)).map (·.parity)
  else []

/-- The delta of a parameter line a second time, over Hezin to each outer parity holder (R148; log entry 40). -/
def State.outerDeltas (s : State) (r bank line : Nat) (data : List Byte) (stamp : Byte) : State :=
  (s.outerHolders r bank line).foldl (fun s m => s.queueDelta r bank line data stamp (some m) (Config.outerPlace m r bank line)) s

/-- The orchard row of an owner's cache that holds a line: table and cache position (R154). -/
def State.orcPlace (s : State) (r bank line : Nat) : Option (Nat × Nat) :=
  s.pressCourse.tables.findSome? fun t =>
    (t.owners.find? fun o => o.1 = r).bind fun o =>
      (findIdx (fun x => x.1 = bank && x.2 = line) (listLines (s.course r) o.2.1) 0).map fun i => (t.table, i / t.lines)

/-- A row that a parameter write has changed is dirty; the press's write-back of its update in a running step unpins it, a write of the host's does not (R156). -/
def State.orcWritten (s : State) (r bank line : Nat) : State :=
  match s.orcPlace r bank line with
  | none => s
  | some (t, pos) =>
    let press := (s.lreg r).active && s.run.inStep && decide (s.run.st = .running)
    s.onOrc fun o => { o with cache := o.cache.upd [] (r * 64 + t) fun l => l.map fun x =>
      if x.pos = pos then { x with dirty := true, pinned := x.pinned && !press, done := x.done || press } else x }

/-- Write a line's content and stamp; a parameter or exchange line sends its delta, a parameter line with an outer sheaf a second one (R136, R144, R148). -/
def State.changeLine (s : State) (r bank line : Nat) (data : List Byte) (stamp : Byte) : State :=
  let old := s.readLine r bank line
  let d := xorBytes old data
  let dst := s.stamp r bank line ^^^ stamp
  let a := areaOf (s.course r) bank line
  let s := (s.writeStore r bank (line * 2048) data).setStamp r bank line stamp
  let s := if sheafedData a then
      (match s.sheafOf r bank line with
       | none => s
       | some (h, _, j) => s.queueDelta r bank line d dst none (memberLine h 7 j))
    else s
  if a = .parameter then (s.outerDeltas r bank line d dst).orcWritten r bank line else s

/-- The stamp of the current step (R136). -/
def State.stepStamp (s : State) : Byte := s.run.step.setWidth 8

/-- Write bytes into one line as the press, a host write or a DMA write does: the stamp takes the current step. -/
def State.writeLinePart (s : State) (r bank line off : Nat) (b : List Byte) : State :=
  s.changeLine r bank line (overlay (s.readLine r bank line) off b) s.stepStamp

/-- Writes of the host to one line of the window, gathered within a microsecond, are one line write (R144, R338). -/
def State.applyGather (s : State) (k : Nat) : State :=
  match s.brg.gather.get [] k with
  | [] => s
  | l =>
    let r := k / 16384 / 1024
    let bank := k / 16384 % 1024
    (s.onBrg fun b => { b with gather := b.gather.erase k }).changeLine r bank (k % 16384) (l.foldl (fun d x => overlay d x.1 x.2) (s.readLine r bank (k % 16384))) s.stepStamp

/-- All that is gathered is applied, line by line. -/
def State.applyGathered (s : State) : State := (s.brg.gather.map (·.1)).foldl (fun s k => s.applyGather k) s

/-- A host write to a line of the window waits to be gathered (R338). -/
def State.gatherWrite (s : State) (r bank line off : Nat) (b : List Byte) : State :=
  s.onBrg fun x => { x with gather := x.gather.upd [] (lineKey r bank line) (· ++ [(off, b)]) }

/-- The same with the window line snooped out of host caches first (R339). -/
def State.writeExchange (s : State) (r bank line off : Nat) (b : List Byte) : State := (s.snoop r bank line).writeLinePart r bank line off b

/-- An acknowledgement of a line-delta: it is settled, and the next delta of its line is sent (R144, R146). -/
def State.deltaAcked (s : State) (r tag : Nat) : State :=
  match (s.lreg r).outDeltas.find? fun d => d.tag = tag with
  | none => s
  | some d =>
    let rest := (s.lreg r).outDeltas.filter fun x => x.tag ≠ tag
    let s := s.onLreg r fun l => { l with outDeltas := rest }
    match rest.find? fun x => x.bank = d.bank && x.line = d.line && x.omod = d.omod && !x.sent with
    | none => s
    | some n =>
      (s.onLreg r fun l => { l with outDeltas := l.outDeltas.map fun x => if x.tag = n.tag then { x with sent := true } else x }).sendStore r
        (s.deltaPackets r n)

/-- No delta of a parity line is open or in flight (R146). -/
def State.settled (s : State) (p : Nat × Nat × Nat) : Bool :=
  s.lregions.all fun x => x.2.outDeltas.all fun d => !(d.omod = none && d.plregion = p.1 && d.pbank = p.2.1 && d.pline = p.2.2)

/-- A packet of a parity delta (R144, R148). -/
def isDelta (p : Packet) : Bool := p.kind = 4 && p.skind = 1

/-- First emit counter number that stands for parity acknowledgements (log entry 26). -/
def ackCounter : Nat := 256

/-- The acknowledgement of a line-delta leaves: on the batten network to a region of this module, as a put acknowledgement to a partner (R145, R148). -/
def State.ackDelta (s : State) (r : Nat) (e : DeltaEntry) : State :=
  if s.isOwn e.smod then s.sendEmits [{ region := e.sregion, unit := 0x0401, ctr := ackCounter + e.tag, count := 1 }]
  else s.sendStore r [{ vc := 1, kind := 9, org := clusterOf e.bank, smod := s.ownMod, slregion := r, skind := 1, tag := e.tag, gaddr := mkGaddr e.smod e.sregion true 0 0 }]

/-- The parts of an entry in order, once all four are there. -/
def DeltaEntry.whole (e : DeltaEntry) : Option (List Byte) :=
  match e.parts.find? (·.1 = 0), e.parts.find? (·.1 = 1), e.parts.find? (·.1 = 2), e.parts.find? (·.1 = 3) with
  | some a, some b, some c, some d => some (a.2 ++ b.2 ++ c.2 ++ d.2)
  | _, _, _, _ => none

/-- DELTA_APPLY (R145): a complete line-delta changes the parity line as one operation and is acknowledged. -/
def State.applyDelta (s : State) (r : Nat) (e : DeltaEntry) (d : List Byte) : State :=
  let s := (s.writeStore r e.bank (e.line * 2048) (xorBytes (s.readLine r e.bank e.line) d)).setStamp r e.bank e.line (s.stamp r e.bank e.line ^^^ e.stamp)
  s.ackDelta r e

/-- A delta packet into the assembly buffer: its entry is opened or completed (R145). -/
def State.takeDelta (s : State) (r : Nat) (p : Packet) : State :=
  let line := gOffset p.gaddr / 2048
  let l := s.lreg r
  let same (e : DeltaEntry) : Bool := e.tag = p.tag && e.smod = p.smod && e.sregion = p.slregion
  let e := (l.deltas.find? same).getD
    { tag := p.tag, bank := gIndex p.gaddr, line := line, smod := p.smod, sregion := p.slregion, stamp := BitVec.ofNat 8 p.stampD }
  let e := { e with parts := e.parts ++ [(gOffset p.gaddr % 2048 / 512, p.payload)] }
  let rest := l.deltas.filter fun x => !same x
  match e.whole with
  | none => s.onLreg r fun l => { l with deltas := rest ++ [e] }
  | some d => (s.onLreg r fun l => { l with deltas := rest }).applyDelta r e d

/-- A delta packet that the assembly buffer can take: of an open entry, or with one of its 256 entries free (R145). -/
def State.deltaRoom (s : State) (r : Nat) (p : Packet) : Bool :=
  isDelta p && (decide ((s.lreg r).deltas.length < 256) ||
    (s.lreg r).deltas.any fun e => e.tag = p.tag && e.smod = p.smod && e.sregion = p.slregion)

/-- The next delta packet of a store interface, or an outer holder's acknowledgement of one (R145, R148). -/
def State.deltaArrival (s : State) (r : Nat) : State :=
  match s.takeStore r (fun p => s.deltaRoom r p || (p.kind = 9 && p.skind = 1)) with
  | none => s
  | some (p, s) => if p.kind = 9 then s.deltaAcked r p.tag else s.takeDelta r p

/-! Copies of a shard (R149, R150). -/

/-- The copies of a shard, in the order of its copy runs (Table 8.3). -/
def copyMaster : Nat := 0
def copyM : Nat := 1
def copyV : Nat := 2
def copyRipe : Nat := 3
def copyWorking : Nat := 4
def copyBuffer : Nat := 5

/-- The shards of a logical region, in order (R412). -/
def State.shards (s : State) (r : Nat) : List Shard :=
  match (s.pressCourse.regions.find? fun x => x.lregion = r) with
  | none => []
  | some x => x.shards

def State.shard (s : State) (r k : Nat) : Option Shard := (s.shards r)[k]?

/-- Lines of one copy of a shard, bank and line, in order; none where the copy is not kept. -/
def State.copyLines (s : State) (r : Nat) (sh : Shard) (copy : Nat) : List (Nat × Nat) :=
  match (sh.runs[copy]?).join with
  | none => []
  | some l => listLines (s.course r) l

/-- The shard and copy that a line belongs to, with its place in the copy. -/
def State.copyOf (s : State) (r bank line copy : Nat) : Option (Nat × Nat) :=
  let shs := s.shards r
  (List.range shs.length).findSome? fun k =>
    (findIdx (fun x => x.1 = bank && x.2 = line) (s.copyLines r (shs.getD k {}) copy) 0).map fun j => (k, j)

/-- Place in a binary32 block image of the element that lies at element `x` of the binary16 block image: both hold one block (R48, R49, R85). -/
def blockSrc (x : Nat) : Nat :=
  let n := x / 4
  let i := n / 32 * 4 + n % 32 % 4
  elemOff true i ((n % 32 + 32 - i % 32) % 32 / 4 * 4 + x % 4)

/-- Binary16 conversion of element `p` of a master line: its bits, and whether it became infinite (R32, R150). -/
def workElem (m : List Byte) (p : Nat) : Nat × Bool := convert b32 b16 (leAt m (4 * p) 4)

/-- A working line with the elements of half `h` of its block regenerated from a master line (R85, R150). -/
def workingHalf (old : List Byte) (h : Nat) (m : List Byte) : List Byte :=
  (List.range 1024).flatMap fun x =>
    let o := blockSrc x
    if o / 2048 = h then leBytes 2 (workElem m (o % 2048 / 4)).1 else (old.drop (2 * x)).take 2

/-- Elements of a master line whose working element becomes infinite (R150, R178). -/
def workOvf (m : List Byte) : List Nat := (List.range 512).filter fun p => (workElem m p).2

/-- A numeric record of a store interface or press, dropped at a full queue of 8 (R40, R89, R178, Table 9.2 queue 4,085; log entry 138). -/
def State.sendUnitRecord (s : State) (r unit : Nat) (tileId w0 w1 : U32) : State :=
  if recFlags w0 = 0 ∨ eventEntries ≤ (s.bat.nums.filter fun n => n.store && decide (n.lregion = r)).length then s
  else
    let p := (s.phys r).getD 63
    s.onBat fun b => { b with nums := b.nums ++ [{ step := s.run.step, mbatch := (s.lreg r).mbBegun - 1, replay := s.replayed r ((s.lreg r).mbBegun - 1), lregion := r, pregion := p,
                                                   lcore := unit, pcore := s.pcore p unit, tileId := tileId, w0 := w0, w1 := w1, store := true }] }

/-- Write the working elements of master line j of a shard, in working line j div 2 (R150). -/
def State.writeWorking (s : State) (r : Nat) (sh : Shard) (j : Nat) (m : List Byte) : State :=
  match (s.copyLines r sh copyWorking)[j / 2]? with
  | none => s
  | some (b, l) => (s.writeStore r b (l * 2048) (workingHalf (s.readLine r b l) (j % 2) m)).setStamp r b l s.stepStamp

/-- Write master line j with its working elements (R150). -/
def State.writeMaster (s : State) (r : Nat) (sh : Shard) (j : Nat) (m : List Byte) : State :=
  match (s.copyLines r sh copyMaster)[j]? with
  | none => s
  | some (b, l) => (s.writeLinePart r b l 0 m).writeWorking r sh j m

/-! Wear of the flash (R157). -/

/-- Bytes of row write-back that the wear budget allows in 30 days: 512 GiB for each 24 hours (R157). -/
def wearBudget : Nat := 30 * 512 * 2 ^ 30

/-- The write-backs of the last 30 days, their bytes, and whether their average is above the budget now (R157). -/
def State.wearRecent (s : State) : List (Nat × Nat) := s.orc.wear.filter fun x => decide (s.time.toNat ≤ x.1 + 30 * 86400000000)
def State.wearSum (s : State) : Nat := s.wearRecent.foldl (fun n x => n + x.2) 0
def State.wearAbove (s : State) : Bool := decide (wearBudget < s.wearSum)

/-! Scrub, recovery and row repair (R136 to R139). -/

/-- The first corrected or uncorrectable event since both flags were clear (Table 7.3). -/
def StoreSt.eccEvent (t : StoreSt) (p bank : Nat) : StoreSt := if t.eccCor || t.eccUnc then t else { t with eccRegion := p, eccBank := bank }

/-- Key of the DRAM row of a line (R139). -/
def rowKey (p bank line : Nat) : Nat := (p * 1024 + bank) * 4096 + line / 4

/-- A corrected symbol: counted; a second correction of it in the row, at least 1 s and at most 24 h later, makes the row due (R137, R139). -/
def State.corrected (s : State) (p bank line sym : Nat) : State :=
  let now := s.time.toNat
  let k := rowKey p bank line
  let ts := (s.store.lastFix.get [] (k * 2 ^ 32 + sym)).filter fun t => decide (now ≤ t + 86400000000)
  let due := ts.any fun t => decide (t + 1000000 ≤ now)
  s.onStore fun x =>
    let x := x.eccEvent p bank
    { x with eccCor := true, corCount := sat32 x.corCount 1
             lastFix := x.lastFix.set [] (k * 2 ^ 32 + sym) (ts ++ [now])
             remapDue := if due && !x.remapDue.contains k then x.remapDue ++ [k] else x.remapDue
             dueSince := if due && !x.remapDue.contains k then x.dueSince.set 0 k now else x.dueSince }

/-- Since when a fault has been known, in µs: the overhead that its completion record gives (Table 13.9). -/
def State.overhead (s : State) (since : Nat) : Nat := min (s.time.toNat - since) 0xFFFFFFFF

/-- The detection record of a line found uncorrectable; that of a step-local line comes with its fault report (R137, Table 13.6). -/
def State.lineFound (s : State) (p bank line : Nat) : State :=
  let lr := s.logicalOf p
  if lr.elim false (fun l => decide (areaOf (s.course l) bank line = .stepLocal)) then s
  else s.logHealth { cls := 0x14, pregion := p, lregion := lr.getD 63, unit := 0x0401, sub := bank, detail := line }

/-- SCRUB (R138): a line of physical region `r` is read and checked; what the read found is the command's operand. -/
def execScrub (r : Region) (bank : Core) (line : Nat) (found : EccRead) (s : State) : Ans :=
  if line < bankLines bank then
    match found with
    | .clean => .next s
    | .corrected sym => .next (s.corrected r bank line sym)
    | .uncorrectable =>
      let k := lineKey r bank line
      if s.store.bad.contains k then .next s else .next ((s.onStore fun t => { t with bad := t.bad ++ [k], since := t.since.set 0 k s.time.toNat }).lineFound r bank line)
  else .fault .illFormed

/-- Exclusive-or of line j of the members of a sheaf other than `m`, and of their stamps (R147). -/
def State.sheafXor (s : State) (h : Sheaf) (m j : Nat) : List Byte × Byte :=
  ((List.range 8).filter (· ≠ m)).foldl (fun a k =>
    let (lr, b, l) := memberLine h k j
    (xorBytes a.1 (s.readLine lr b l), a.2 ^^^ s.stamp lr b l)) (List.replicate 2048 0, 0)

/-- A logical region whose physical region is lost with no standby to take its place (R291). -/
def State.regionDead (s : State) (r : Nat) : Bool := match s.phys r with | none => false | some p => (s.reg p).retired

/-- The regions with lost lines: those that a relocation has still to rebuild, and those lost with no standby (R288, R289, R291). -/
def State.openLosses (s : State) : List Nat := (s.flt.promos.filter fun x => !x.rebuilt).map (·.lregion) ++ s.serviceRegions.filter s.regionDead

/-- A line of a relocated region has been rebuilt. -/
def State.lineRebuilt (s : State) (r : Nat) (l : Nat × Nat) : Bool := s.flt.rebuilt.contains (lineKey (s.column r) l.1 l.2)

/-- A line that holds nothing to rebuild from: found uncorrectable and not recovered, or lost with its region and not yet rebuilt. -/
def State.lineGone (s : State) (r bank line : Nat) : Bool :=
  s.store.bad.contains (lineKey (s.column r) bank line) || (s.openLosses.contains r && !s.lineRebuilt r (bank, line))

/-- Another member of a sheaf is gone at line `j`: the loss lies beyond the inner sheaf (R147). -/
def State.othersGone (s : State) (h : Sheaf) (m j : Nat) : Bool :=
  (List.range 8).any fun k => decide (k ≠ m) && (let x := memberLine h k j; s.lineGone x.1 x.2.1 x.2.2)

/-- A line whose content is an open value here: it comes over Hezin, from the outer sheaf that covers it or from the partners' segments (R148, R294, Table 7.1; log entry 46), or its layout is not given (log entry 136). -/
def State.foreignLine (s : State) : List Byte × State := let (v, s) := s.fresh; (leBytes 2048 v, s)

/-- A line as its readers are served: one of a region lost with no standby is reconstructed from the survivors of its sheaf (R291). -/
def State.servedLine (s : State) (r bank line : Nat) : List Byte :=
  if s.regionDead r then
    match s.sheafOf r bank line with
    | none => s.readLine r bank line
    | some (h, m, j) => (s.sheafXor h m j).1
  else s.readLine r bank line

/-- Every delta of the line's sheaf is settled, so that a rebuild may read it (R146). -/
def State.maySettle (s : State) (r bank line : Nat) : Bool :=
  match s.sheafOf r bank line with
  | none => true
  | some (h, _, j) => s.settled (memberLine h 7 j)

/-- DRAM_ROW_REMAP (R139): a due row takes one of the bank's 32 spares, with a record of the row and one of the overhead since it was due (Table 13.9); the bank that uses its last is counted and logged. -/
def execDramRowRemap (r : Region) (bank : Core) (row : Nat) (s : State) : Ans :=
  let k := (r.val * 1024 + bank.val) * 4096 + row
  let bk := r.val * 1024 + bank.val
  if s.store.remapDue.contains k then
    let used := s.store.rowSpares.get 0 bk
    let s := s.onStore fun t => { t with remapDue := t.remapDue.filter (· ≠ k) }
    if used < 32 then
      let s := s.logHealth { cls := 0x15, pregion := r, lregion := (s.logicalOf r).getD 63, unit := 0x0401, sub := bank, detail := row }
      let s := s.onStore fun t => { t with rows := BitVec.ofNat 16 (min (t.rows.toNat + 1) 0xFFFF), rowSpares := t.rowSpares.set 0 bk (used + 1)
                                           exh := if used + 1 = 32 then BitVec.ofNat 8 (min (t.exh.toNat + 1) 255) else t.exh }
      let s := s.logHealth { cls := 0x15, action := 1, done := true, pregion := r, lregion := (s.logicalOf r).getD 63, unit := 0x0401, sub := bank, detail := s.overhead (s.store.dueSince.get 0 k) }
      .next (if used + 1 = 32 then s.logHealth { cls := 0x15, pregion := r, lregion := (s.logicalOf r).getD 63, unit := 0x0401, sub := bank } else s)
    else .next s
  else .next s

end Sys2Proof.Machine
end

