-- ==== Sys2Proof/Machine/Batten.lean ====
section
/-! DEFINITION. The batten network and the scheduled plane: emits, launches, beat tables, configuration words (R98, R107 to R112, R124, R130, R145). -/

namespace Sys2Proof.Machine

/-- An emit adds its count to the counter of the unit it names (R98, R130). Counters from 256 up of a store interface stand for parity acknowledgements (log entry 26); a DMA channel's counter that saturates is charged to its home core (log entry 152). -/
def State.deliverEmit (s : State) (e : Emit) : State :=
  if e.region = 63 then s.onRun fun r => { r with prog := r.prog.upd 0 (e.ctr % 256) (· + BitVec.ofNat 32 e.count) }
  else if e.unit < 896 then s.arrive e.region e.unit e.ctr e.count
  else if e.unit = 0x0400 ∨ e.unit = 0x0401 then
    if ackCounter ≤ e.ctr then s.deltaAcked e.region (e.ctr - ackCounter) else s.addSiCtr e.region e.ctr e.count
  else if e.unit = 0xFFFF then (s.courseCores e.region).foldl (fun s c => s.arrive e.region c e.ctr e.count) s
  else if 0x500 ≤ e.unit ∧ e.unit < 0x580 then
    let k := e.region * 128 + (e.unit - 0x500)
    let v := (s.chan k).ctrs.get 0 e.ctr + e.count
    let s := s.onChan k fun d => { d with ctrs := d.ctrs.set 0 e.ctr (min v 65535) }
    if v ≤ 65535 then s
    else
      match (s.course e.region).dma.find? fun d => d.engine * 16 + d.channel + 0x500 = e.unit with
      | none => s
      | some d => (s.syncOvf e.region d.core e.ctr).illegal e.region d.core (0x70000 + (e.unit - 0x500))
  else s

/-- Emit `i` of those on the network reaches its unit (R98). -/
def State.takeEmit (s : State) (i : Nat) : State :=
  match s.bat.emits[i]? with
  | none => s
  | some e => (s.onBat fun b => { b with emits := dropAt b.emits i }).deliverEmit e

/-! Launches (R109, R110). -/

/-- A fault report joins those on the network (Table 6.7). -/
def State.report (s : State) (f : FaultRep) : State := s.onBat fun b => { b with faults := b.faults ++ [f] }

/-- A physical core reports a fault of itself or is reported (Table 13.1). -/
def State.reportCore (s : State) (p pc cls : Nat) : State :=
  if h : p < 48 ∧ pc < 924 then s.report { kind := .core ⟨p, h.1⟩ ⟨pc, h.2⟩ cls } else s

/-- Beats from now to a beat, on a counter of 48 bits that wraps: the nearer way round (R109; log entry 124). -/
def beatDist (now : BitVec 48) (t : Nat) : Int := (BitVec.ofNat 48 t - now).toInt

/-- LAUNCH_ARRIVAL (R110): the core runs the sequence from its start beat, or, if that beat has come, counts the launch late and reports itself, once its event queue has room (R132); a core whose entry count for the sequence is 0 takes no part and drops the launch. -/
def execLaunchArrival (r : Region) (c : Core) (s : State) : Ans :=
  match s.bat.launches.find? fun l => l.lregion = r.val && l.core = c.val with
  | none => .next s
  | some l =>
    let late := decide (beatDist (s.reg ((s.phys r).getD 63)).beat l.start ≤ 0)
    if !s.maySend r c late then .next s
    else
    let s := s.onBat fun b => { b with launches := b.launches.erase l }
    match s.phys r with
    | none => .next s
    | some p =>
      if late then
        let s := (s.count p 0x2054 1).onReg p fun g => { g with late := true }
        .next (s.reportCore p (s.pcore p c) 0x08)
      else if ((s.coreCourse r c).seqs.getD l.seq {}).count = 0 then .next s
      else .next (s.onCore r c fun x => { x with seqs := x.seqs ++ [{ seq := l.seq, start := l.start }] })

/-! The scheduled plane (R107, R108, R112). -/

/-- The logical neighbour on a port: 0 north, 1 east, 2 south, 3 west; none at the region's edge. -/
def neighbour (c port : Nat) : Option Nat :=
  let row := c / 32
  let col := c % 32
  match port with
  | 0 => if row = 0 then none else some (c - 32)
  | 1 => if col = 31 then none else some (c + 1)
  | 2 => if row = 27 then none else some (c + 32)
  | _ => if col = 0 then none else some (c - 1)

/-- The port that faces a port across a link. -/
def facing (port : Nat) : Nat := (port + 2) % 4

/-- Key of a beat group on a wire. -/
def wireKey (port beat : Nat) : Nat := port * 2 ^ 48 + beat % 2 ^ 48

/-- A beat group sent in beat t reaches the neighbour's port in beat t + 1 (R107). -/
def State.sendGroup (s : State) (r c port t : Nat) (g : List Byte) : State :=
  match neighbour c port with
  | none => s
  | some n => s.onCore r n fun x => { x with wires := x.wires.set [] (wireKey (facing port) (t + 1)) g }

/-- The next entry of each sequence a core runs: absolute beat, place among the sequences, entry index. Entries run in table order, whatever their `BEAT` (log entry 155). -/
def State.nextBeats (s : State) (r c : Nat) : List (Nat × Nat × Nat) :=
  let cc := s.coreCourse r c
  let qs := (s.core r c).seqs
  (List.range qs.length).filterMap fun k =>
    match qs[k]? with
    | none => none
    | some q =>
      match cc.seqs[q.seq]? with
      | none => none
      | some e =>
        if q.next < e.count then
          (cc.beats[e.first + q.next]?).map fun b => (q.start + b.beat, k, e.first + q.next)
        else none

/-- The earliest of the next entries. -/
def earliestBeat (now : BitVec 48) : List (Nat × Nat × Nat) → Option (Nat × Nat × Nat)
  | [] => none
  | x :: t =>
    match earliestBeat now t with
    | none => some x
    | some y => if beatDist now x.1 ≤ beatDist now y.1 then some x else some y

/-- Move the sequence at place `k` past the entry it has run; a finished sequence ends. -/
def State.passEntry (s : State) (r c k : Nat) : State :=
  let cc := s.coreCourse r c
  s.onCore r c fun x => { x with seqs :=
    match x.seqs[k]? with
    | none => x.seqs
    | some q => if q.next + 1 < (cc.seqs.getD q.seq {}).count then setAt x.seqs k { q with next := q.next + 1 } else dropAt x.seqs k }

/-- A corrected flit or beat group, or a retransmission, in `RGN_NET_STATUS` with the place of the first (R124, R133). -/
def State.netEvent (s : State) (p cluster port : Nat) (rtx : Bool) : State :=
  s.onReg p fun g =>
    let g := if g.fcor || g.frtx then g else { g with cluster := cluster, port := port }
    if rtx then { g with frtx := true } else { g with fcor := true }

/-- The core at the west or north end of a core's link on a port (R112). -/
def linkEnd (c port : Nat) : Nat := if port = 0 ∨ port = 3 then (neighbour c port).getD c else c

/-- Run a beat-table entry at beat t: take the group from its port, write it, pass it on, and raise its token, which a forward without SRAM access raises as it forwards (R107, R108; log entry 154). -/
def State.runEntry (s : State) (r c : Nat) (b : BeatEntry) (t : Nat) (err : LinkErr) : State :=
  let p := (s.phys r).getD 63
  let key := wireKey b.pin t
  let g := (s.core r c).wires.get [] key
  if b.kind = 0 then
    (s.sendGroup r c b.pout t (s.readSram r c (b.soff * 64) 64)).arriveTok r c b.etok 1
  else
    let s := s.onCore r c fun x => { x with wires := x.wires.erase key }
    match err with
    | .uncorrectable =>
      s.reportCore p (s.pcore p (linkEnd c b.pin)) 0x07
    | _ =>
      let s := if err = .corrected then s.netEvent p (clusterOf c) b.pin false else s
      let s := if b.kind = 1 ∨ b.kind = 3 then s.writeSram r c (b.soff * 64) g else s
      let s := if b.kind = 2 ∨ b.kind = 3 then s.sendGroup r c b.pout t g else s
      s.arriveTok r c b.etok 1

/-- BEAT_TABLE_ENTRY (R108): the core's earliest due entry runs, or faults its core if a field is reserved; `err` is what the arriving group met (R124). -/
def execBeatTableEntry (r : Region) (c : Core) (err : LinkErr) (s : State) : Ans :=
  if s.coreRuns r c then
    let now := (s.reg ((s.phys r).getD 63)).beat
    match earliestBeat now (s.nextBeats r c) with
    | none => .next s
    | some (t, k, i) =>
      let b := (s.coreCourse r c).beats.getD i {}
      if 0 < beatDist now t then .next s
      else if 20479 < b.soff ∨ 3 < b.kind ∨ 3 < b.pin ∨ 3 < b.pout then .next (if s.maySend r c true then s.illegal r c (0x10000000 + i) else s)
      else if b.kind ≠ 0 ∧ ((s.core r c).wires.get [] (wireKey b.pin t)).isEmpty then .next s
      else .next ((s.passEntry r c k).runEntry r c b t err)
  else .next s

/-! Configuration words (R130; log entry 38). -/

/-- Key of a configuration word. -/
def cfgKey (unit : U16) (off : U32) : Nat := unit.toNat * 2 ^ 32 + off.toNat

/-- CONFIGURATION_WRITE (R130): a word is written into a unit of a powered physical region. -/
def execConfigurationWrite (r : Region) (unit : U16) (off data : U32) (s : State) : Ans :=
  if (s.reg r).powered then .next (s.onReg r fun g => { g with cfg := g.cfg.set 0 (cfgKey unit off) data }) else .next s

/-- CONFIGURATION_READ_REQUEST (R130): the unit answers with the word it holds. -/
def execConfigurationReadRequest (r : Region) (unit : U16) (off : U32) (s : State) : Ans :=
  if (s.reg r).powered then
    .next (s.onBat fun b => { b with cfgs := b.cfgs ++ [{ region := r, unit := unit, off := off, data := (s.reg r).cfg.get 0 (cfgKey unit off) }] })
  else .next s

/-- CONFIGURATION_READ_RESPONSE (R130): response `i` reaches the requester. -/
def execConfigurationReadResponse (i : Nat) (s : State) : Ans :=
  match s.bat.cfgs[i]? with
  | none => .next s
  | some x => .next (s.onBat fun b => { b with cfgs := dropAt b.cfgs i, cfgRead := some x })

end Sys2Proof.Machine
end

