-- ==== Sys2Proof/Machine/Funcs.lean ====
section
/-! DEFINITION. The functions of Table 4.5 and their derivatives (R76 to R78), and the binary64 cosine and power of the press (R171, R174): special operands as Table 4.7 gives them, exact values to 416 fraction bits, correctly rounded where the bound is half an ulp, elsewhere an open value within the bound the spec states. -/

namespace Sys2Proof.Machine

/-! Fixed-point arithmetic. -/

/-- Fraction bits of the fixed-point working values. -/
def fxP : Nat := 416
/-- 1 in fixed point. -/
def fxOne : Int := 2 ^ fxP
/-- ln 2. -/
def fxLn2 : Int := 117301524725576708313301745548707704136983957068606402434150714662129691570146351597476270464541937883482032647788777903664694
/-- Square root of 2 ÷ π. -/
def fxS2pi : Int := 135026265939025963853996852831622466164974158859787640061514520290069653060234783036677471378213232101965324521364558661046003
/-- Square root of ½. -/
def fxIsq2 : Int := 119663912518509441398495108314100521718716208974760987295251801610629669529489771173654075511772272259478779463626556764891230
/-- 2 ÷ √π. -/
def fxTspi : Int := 190955976567566814432474829112608950202287839972264808416238230634784989343610359935555434649253526103704796909750055832821213
/-- 1 ÷ √(2π). -/
def fxI2pi : Int := 67513132969512981926998426415811233082487079429893820030757260145034826530117391518338735689106616050982662260682279330523001
/-- π. -/
def fxPi : Int := 531652755241760931110077815278855423207745231269348324382552295841151772614589841325786618981699866815861016476210140036213176

/-- Product of two fixed-point values. -/
def fxMul (a b : Int) : Int := a * b / fxOne
/-- Quotient of two fixed-point values. -/
def fxDiv (a b : Int) : Int := a * fxOne / b

/-- The fixed-point value of ±m·2^e, cut at the last fraction bit. -/
def fxOf (s : Bool) (m : Nat) (e : Int) : Int :=
  let k := e + (fxP : Int)
  let v : Int := if k ≥ 0 then ((m * 2 ^ k.toNat : Nat) : Int) else ((m / 2 ^ (-k).toNat : Nat) : Int)
  if s then -v else v

/-- A fixed-point value as an exact dyadic. -/
def fxTo (v : Int) : Fp := .fin (decide (v < 0)) v.natAbs (-(fxP : Int))

/-- Sum of r^i/i! from term `t` of index `i` on, `n` terms. -/
def expTerms (r : Int) : Nat → Nat → Int → Int
  | 0, _, _ => 0
  | n + 1, i, t => t + expTerms r n (i + 1) (fxMul t r / ((i : Int) + 1))

/-- e^x for |x| at most 140 or so. -/
def fxExp (x : Int) : Int :=
  let k := x / fxLn2
  let v := expTerms (x - k * fxLn2) 90 0 fxOne
  if k ≥ 0 then v * 2 ^ k.toNat else v / 2 ^ (-k).toNat

/-- Sum of z^(2i+1)/(2i+1) from the power `t` on. -/
def atanhTerms (z2 : Int) : Nat → Nat → Int → Int
  | 0, _, _ => 0
  | n + 1, i, t => t / (2 * (i : Int) + 1) + atanhTerms z2 n (i + 1) (fxMul t z2)

/-- ln of a positive fixed-point value. -/
def fxLn (y : Int) : Int :=
  let k : Int := (Nat.log2 y.natAbs : Int) - (fxP : Int)
  let m : Int := if k ≥ 0 then y / 2 ^ k.toNat else y * 2 ^ (-k).toNat
  let z := fxDiv (m - fxOne) (m + fxOne)
  2 * atanhTerms (fxMul z z) 132 0 z + k * fxLn2

/-- Sum of (−1)^i z^(2i+1)/(i!(2i+1)) from the term `t` = (−1)^i z^(2i+1)/i! on. -/
def erfTerms (z2 : Int) : Nat → Nat → Int → Int
  | 0, _, _ => 0
  | n + 1, i, t => t / (2 * (i : Int) + 1) + erfTerms z2 n (i + 1) (-(fxMul t z2) / ((i : Int) + 1))

/-- Φ(x) for |x| at most 15. -/
def fxPhi (x : Int) : Int :=
  let z := fxMul x fxIsq2
  (fxOne + fxMul fxTspi (erfTerms (fxMul z z) 450 0 z)) / 2

/-- σ(x) for |x| at most 140. -/
def fxSig (x : Int) : Int := fxDiv fxOne (fxOne + fxExp (-x))

/-- Sum of (−1)^i θ^(2i)/(2i)! from the term `t` of index `i` on. -/
def cosTerms (th2 : Int) : Nat → Nat → Int → Int
  | 0, _, _ => 0
  | n + 1, i, t => t + cosTerms th2 n (i + 1) (-(fxMul t th2) / ((2 * (i : Int) + 1) * (2 * (i : Int) + 2)))

/-- cos(π·u ÷ d) for u at most d. -/
def fxCosPi (u d : Nat) : Int :=
  let half (u : Nat) : Int := let th := fxPi * (u : Int) / (d : Int); cosTerms (fxMul th th) 60 0 fxOne
  if 2 * u = d then 0 else if 2 * u < d then half u else -half (d - u)

/-- Values so far out that a bounded function has reached its limit, or x·σ(x) its asymptote, to every bit of binary32. -/
def far (x : Int) (n : Nat) : Bool := decide (x.natAbs ≥ n * 2 ^ fxP)

/-- A value of the sign given, too small for any binary32 result but zero. -/
def tiny (neg : Bool) : Fp := .fin neg 1 (-200)

/-- A value just below `x` in magnitude, `x` being ±m·2^e. -/
def justBelow (s : Bool) (m : Nat) (e : Int) : Fp := .fin s (m * 2 ^ 60 - 1) (e - 60)
/-- A value just above it. -/
def justAbove (s : Bool) (m : Nat) (e : Int) : Fp := .fin s (m * 2 ^ 60 + 1) (e - 60)

/-- u of the tanh form of GELU: √(2/π)(x + 0.044715x³) (Table 4.5). -/
def fxGeluU (x : Int) : Int := fxMul fxS2pi (x + fxMul (fxMul x x) (x * 44715 / 1000000))

/-- f of a finite non-zero operand, to far more bits than any format of the module has (Table 4.5). -/
def fnReal (fun_ : Nat) (s : Bool) (m : Nat) (e : Int) : Fp :=
  let x := fxOf s m e
  match fun_ with
  | 0 => if far x 60 then justBelow s 1 0 else fxTo (fxOne - fxDiv (2 * fxOne) (fxExp (2 * x) + fxOne))
  | 1 => if far x 110 then (if s then tiny false else justBelow false 1 0) else fxTo (fxSig x)
  | 2 => if far x 15 then (if s then tiny true else justBelow s m e) else fxTo (fxMul x (fxPhi x))
  | 3 =>
    if far x 12 then (if s then tiny true else justBelow s m e)
    else
      let u := fxGeluU x
      if far u 60 then (if s then tiny true else justBelow s m e) else fxTo (fxMul x (fxSig (2 * u)))
  | 4 => if far x 120 then (if s then tiny true else justBelow s m e) else fxTo (fxMul x (fxSig x))
  | 5 => if far x 110 then (if s then tiny false else justAbove s m e) else fxTo (fxLn (fxOne + fxExp x))
  | 6 => if far x 120 then (if s then tiny false else .fin false 1 180) else fxTo (fxExp x)
  | 7 => fxTo (fxLn x)
  | 8 => .fin s (quotient 1 0 m e).1 (quotient 1 0 m e).2
  | _ =>
    let q := quotient 1 0 (rootMag m e).1 (rootMag m e).2
    .fin false q.1 q.2

/-- f′ of a finite non-zero operand, likewise (Table 4.5). -/
def dfnReal (fun_ : Nat) (s : Bool) (m : Nat) (e : Int) : Fp :=
  let x := fxOf s m e
  let bell (n : Nat) (c : Int) (a : Int) : Fp :=   -- c·t ÷ (1 + t)², t = e^−a
    if far x n then tiny false
    else let t := fxExp (-a); fxTo (fxDiv (fxDiv (c * t) (fxOne + t)) (fxOne + t))
  let tail : Fp := if s then tiny true else justAbove false 1 0
  match fun_ with
  | 0 => bell 60 4 (2 * (x.natAbs : Int))
  | 1 => bell 110 1 (x.natAbs : Int)
  | 2 => if far x 15 then tail else fxTo (fxPhi x + fxMul x (fxMul fxI2pi (fxExp (-(fxMul x x / 2)))))
  | 3 =>
    if far x 12 then tail
    else
      let u := fxGeluU x
      if far u 60 then tail
      else
        let sg := fxSig (2 * u)
        let du := fxMul fxS2pi (fxOne + fxMul x x * 134145 / 1000000)
        fxTo (sg + fxMul (2 * fxMul x (fxMul sg (fxOne - sg))) du)
  | 4 => if far x 120 then tail else let sg := fxSig x; fxTo (fxMul sg (fxOne + fxMul x (fxOne - sg)))
  | 5 => fnReal 1 s m e
  | 6 => fnReal 6 s m e
  | 7 => fnReal 8 s m e
  | 8 => .fin true (quotient 1 0 (m * m) (2 * e)).1 (quotient 1 0 (m * m) (2 * e)).2
  | _ =>
    let r := rootMag (4 * m ^ 3) (3 * e)
    .fin true (quotient 1 0 r.1 r.2).1 (quotient 1 0 r.1 r.2).2

/-! Open values within a stated bound. -/

/-- m1·2^e1 ≤ m2·2^e2. -/
def dyLe (m1 : Nat) (e1 : Int) (m2 : Nat) (e2 : Int) : Bool :=
  let e := min e1 e2
  decide (m1 * 2 ^ (e1 - e).toNat ≤ m2 * 2 ^ (e2 - e).toNat)

/-- |m·2^e| < 2^t. -/
def dyBelow (m : Nat) (e t : Int) : Bool := decide (m = 0 ∨ e + (Nat.log2 m : Int) < t)

/-- An open value of the format within c·2^q of ±m·2^e: `cand` where it lies within the bound, else the exact value rounded; an exact value that rounds past the largest finite value is an infinity with overflow (R77, R78, R174; log entries 2, 3 and 4). -/
def pickNear (f : Fmt) (cand : Nat) (s : Bool) (m : Nat) (e : Int) (c : Nat) (q : Int) : Fr :=
  let rn := Fr.round f (.fin s m e)
  if rn.ovf then rn
  else
    match Fp.ofBits f (cand % 2 ^ f.width) with
    | .fin s' m' e' => let d := addExact s m e (!s') m' e'; if dyLe d.2.1 d.2.2 c q then { v := .fin s' m' e' } else rn
    | _ => rn

/-- Table 4.6: the bound in ulp, 0 for half an ulp. -/
def fnUlps (f : Fmt) (fun_ : Nat) (d : Bool) : Nat :=
  let col : List Nat :=
    if f.width = 16 then (if d then [1, 1, 1, 1, 1, 1, 0, 0, 1, 1] else [])
    else if d then [3, 3, 4, 4, 4, 2, 1, 0, 2, 2] else [2, 2, 3, 3, 2, 2, 1, 1, 0, 1]
  col.getD fun_ 0

/-- The bound of R77 on the result for an exact value ±m·2^e, as c·2^q: absolute near the zeros of GELU′ and SiLU′ and in the subnormal range, else in ulp. -/
def fnBound (f : Fmt) (fun_ : Nat) (d : Bool) (m : Nat) (e : Int) : Nat × Int :=
  let half := decide (f.width = 16)
  if d && decide (2 ≤ fun_ ∧ fun_ ≤ 4) && dyBelow m e (-10) then (1, if half then -24 else -34)
  else if dyBelow m e (1 - f.bias) then (1, if half then -25 else -150)
  else (fnUlps f fun_ d, e + (Nat.log2 m : Int) - f.mbits)

/-- cos(π·u ÷ d), u at most d, as a binary64 value within 1 ulp (R174, log entry 4). -/
def cosPi (u d : Nat) : Fp :=
  match fxTo (fxCosPi u d) with
  | .fin s m e => (pickNear b64 (Config.cosValue u d) s m e 1 (e + (Nat.log2 m : Int) - b64.mbits)).v
  | x => x

/-- Keep the leading 320 bits of m·2^e. -/
def dyCut (m : Nat) (e : Int) : Nat × Int :=
  let k := Nat.log2 m - 320
  (m >>> k, e + k)

/-- (m·2^e)^t by squaring, each product cut to 320 bits: `n` binary digits of `t` to go. -/
def dyPow (m : Nat) (e : Int) : Nat → Nat → Nat × Int
  | 0, _ => (1, 0)
  | n + 1, t =>
    let h := dyPow m e n (t / 2)
    let q := dyCut (h.1 * h.1) (h.2 + h.2)
    if t % 2 = 1 then dyCut (q.1 * m) (q.2 + e) else q

/-- B^t of a binary32 B in binary64, t at least 1: the exact power where binary64 holds it, else an open value within t ulp, which every order of rounded multiplications meets (R171, log entry 3). -/
def powPick (b : Nat) (t : Nat) : Fp :=
  match Fp.ofBits b32 b with
  | .fin s m e =>
    let y := dyPow m e (Nat.log2 t + 1) t
    let sg := s && decide (t % 2 = 1)
    let rn := (Fr.round b64 (.fin sg y.1 y.2)).v
    match rn with
    | .fin _ m' e' =>
      if dyLe y.1 y.2 m' e' && dyLe m' e' y.1 y.2 then rn
      else (pickNear b64 (Config.powValue b t) sg y.1 y.2 t (max (y.2 + (Nat.log2 y.1 : Int)) (1 - (b64.bias : Int)) - b64.mbits)).v
    | _ => rn
  | x => x

/-- Result of a function stage: value, invalid, overflow, pole. -/
structure FnRes where
  v : Fp
  inv : Bool := false
  ovf : Bool := false
  pole : Bool := false
  deriving DecidableEq, Repr

/-- Round a real value to the format; a result beyond the largest finite value is an infinity with overflow (R78). -/
def fnRound (f : Fmt) (x : Fp) : FnRes := let r := Fr.round f x; { v := r.v, ovf := r.ovf }

/-- A result of the bound of Table 4.6 for an exact value: correctly rounded where the bound is half an ulp, else an open value within it (R77, log entry 2). -/
def fnPick (f : Fmt) (fun_ : Nat) (d : Bool) (x y : Fp) : FnRes :=
  match y with
  | .fin s m e =>
    if fnUlps f fun_ d = 0 then fnRound f y
    else
      let b := fnBound f fun_ d m e
      let r := pickNear f (Config.fnValue f.width fun_ d (x.toBits f).1) s m e b.1 b.2
      { v := r.v, ovf := r.ovf }
  | _ => fnRound f y

/-- Infinite operands of Table 4.7. -/
def fnInf (fun_ : Nat) (d neg : Bool) : FnRes :=
  let z (s : Bool) : FnRes := { v := .fin s 0 0 }
  let one (s : Bool) : FnRes := { v := .fin s 1 0 }
  let bad : FnRes := { v := .nan, inv := true }
  match fun_, d, neg with
  | 0, false, s => one s
  | 0, true, _ => z false
  | 1, false, true => z false
  | 1, false, false => one false
  | 1, true, _ => z false
  | 5, false, true => z false
  | 5, false, false => { v := .inf false }
  | 5, true, true => z false
  | 5, true, false => one false
  | 6, _, true => z false
  | 6, _, false => { v := .inf false }
  | 7, _, true => bad
  | 7, false, false => { v := .inf false }
  | 7, true, false => z false
  | 8, false, s => z s
  | 8, true, _ => z true
  | 9, _, true => bad
  | 9, false, false => z false
  | 9, true, false => z true
  | _, false, true => z true        -- GELU, both forms, and SiLU
  | _, false, false => { v := .inf false }
  | _, true, true => z true
  | _, true, false => one false

/-- The exact f(0) and f′(0) of the codes without a pole at 0; a zero result keeps the operand's sign (log entry 2). -/
def fnAtZero (fun_ : Nat) (d s : Bool) : Fp :=
  match fun_, d with
  | 1, false => .fin false 1 (-1)
  | 5, false => fxTo (fxLn (2 * fxOne))
  | 6, _ => .fin false 1 0
  | 0, true => .fin false 1 0
  | 1, true => .fin false 1 (-2)
  | _, true => .fin false 1 (-1)
  | _, false => .fin s 0 0

/-- Zero operands: the poles of log, reciprocal and rsqrt (R78), the bounds of Table 4.6 elsewhere. -/
def fnZero (f : Fmt) (fun_ : Nat) (d s : Bool) : FnRes :=
  if fun_ ≤ 6 then fnPick f fun_ d (.fin s 0 0) (fnAtZero fun_ d s)
  else
    match fun_, d with
    | 7, false => { v := .inf true, pole := true }
    | 7, true => { v := .inf s, pole := true }
    | 8, false => { v := .inf s, pole := true }
    | 8, true => { v := .inf true, pole := true }
    | 9, false => { v := .inf s, pole := true }
    | _, _ => if s then { v := .nan, inv := true } else { v := .inf true, pole := true }

/-- `FN` and `DFN` in a format (Tables 4.5 to 4.7). -/
def fnEval (f : Fmt) (fun_ : Nat) (d : Bool) (x : Fp) : FnRes :=
  match x with
  | .nan => { v := .nan }
  | .inf neg => fnInf fun_ d neg
  | .fin s m e =>
    if m = 0 then fnZero f fun_ d s
    else if s ∧ (fun_ = 7 ∨ fun_ = 9) then { v := .nan, inv := true }
    else fnPick f fun_ d x (if d then dfnReal fun_ s m e else fnReal fun_ s m e)

end Sys2Proof.Machine
end

