-- ==== Sys2Proof/Machine/Matrix.lean ====
section
/-! DEFINITION. The matrix engine: issue of a tile operation with its exact arithmetic (R24 to R36, R51 to R54, R60, R61) and the drain of a chain (R38 to R40, R54 to R58). -/

namespace Sys2Proof.Machine

/-! Arithmetic of one accumulator. -/

/-- The exponent of a finite value's leading bit. -/
def leadExp (m : Nat) (e : Int) : Int := e + (Nat.log2 m : Int)

/-- Greatest leading exponent of the finite non-zero products, none if there is none (R29). -/
def chunkExp : List Fp → Option Int
  | [] => none
  | .fin _ m e :: t =>
    if m = 0 then chunkExp t
    else match chunkExp t with
      | none => some (leadExp m e)
      | some x => some (max (leadExp m e) x)
  | _ :: t => chunkExp t

/-- A magnitude cut towards zero to units of 2^q (R29). -/
def cutTo (m : Nat) (e q : Int) : Nat := if e ≥ q then m * 2 ^ (e - q).toNat else m / 2 ^ (q - e).toNat

/-- Signed sum of the aligned terms in units of 2^q (R30). -/
def alignedSum (q : Int) : List Fp → Int
  | [] => 0
  | .fin s m e :: t => (if s then -((cutTo m e q : Nat) : Int) else ((cutTo m e q : Nat) : Int)) + alignedSum q t
  | _ :: t => alignedSum q t

/-- The exact chunk sum of finite products (R29, R30). -/
def finiteChunk (ps : List Fp) : Fp :=
  match chunkExp ps with
  | none => .fin (ps.all Fp.neg && !ps.isEmpty) 0 0
  | some x =>
    let q := x - 26
    let v := alignedSum q ps
    if v = 0 then .fin false 0 0 else .fin (decide (v < 0)) v.natAbs q

/-- The chunk sum with its special cases, and whether infinities of both signs met in it (R34). -/
def chunkSum (ps : List Fp) : Fp × Bool :=
  let pos := ps.any fun p => p = .inf false
  let neg := ps.any fun p => p = .inf true
  if ps.any fun p => p = .nan then (.nan, pos && neg)
  else if pos && neg then (.nan, true)
  else if pos then (.inf false, false)
  else if neg then (.inf true, false)
  else (finiteChunk ps, false)

/-- The chunk sum added to the accumulator and rounded once to binary32: bits, invalid, overflow (R31, R34). -/
def accumulate (acc : U32) (chunk : Fp) : U32 × Bool × Bool :=
  let (v, inv) := chunk.add (Fp.ofBits b32 acc.toNat)
  let (w, ovf) := v.toBits b32
  (BitVec.ofNat 32 w, inv, ovf)

/-- What one product contributes to the first event of its accumulator (R39, Table 2.5); 0 for none. -/
def productCause (a b : Fp) : Nat :=
  match a, b with
  | .inf _, .fin _ 0 _ => 4
  | .fin _ 0 _, .inf _ => 4
  | _, _ => if a.nonFinite && b.nonFinite then 3 else if a.nonFinite then 1 else if b.nonFinite then 2 else 0

/-- One accumulator with what it has met. -/
structure Acc where
  v : U32
  ev : Event := {}
  nfi : Bool := false
  inv : Bool := false
  ovf : Bool := false
  deriving DecidableEq, Repr

/-- Keep the first event (R39). -/
def Acc.note (x : Acc) (cause kidx : Nat) : Acc :=
  if x.ev.cause = 0 ∧ cause ≠ 0 then { x with ev := { cause := cause, kidx := kidx } } else x

/-- The K index of a product, saturating (R25). -/
def kIndex (k : Nat) : Nat := min k 0xFFFFFE

/-- Note the products of a chunk in K order, from K index `k`. -/
def noteProducts (x : Acc) : List (Fp × Fp) → Nat → Acc
  | [], _ => x
  | (a, b) :: t, k =>
    let c := productCause a b
    let x := { x.note c (kIndex k) with nfi := x.nfi || a.nonFinite || b.nonFinite, inv := x.inv || c = 4 }
    noteProducts x t (k + 1)

/-- One chunk into one accumulator; `k` is the K index of its first product (R28 to R34). -/
def accChunk (x : Acc) (ps : List (Fp × Fp)) (k : Nat) : Acc :=
  let x := noteProducts x ps k
  let (c, i1) := chunkSum (ps.map fun p => (p.1.mul p.2).1)
  let (v, i2, o) := accumulate x.v c
  let x := { x with v := v, inv := x.inv || i1 || i2, ovf := x.ovf || o }
  if o then x.note 6 (kIndex k) else x

/-- All chunks of an operation into one accumulator: `n` chunks of `w` products (R25). -/
def accChunks (x : Acc) (w : Nat) : Nat → List (Fp × Fp) → Nat → Acc
  | 0, _, _ => x
  | n + 1, ps, k => accChunks (accChunk x (ps.take w) k) w n (ps.drop w) (k + w)

/-! Operands. -/

/-- Products per chunk (R25). -/
def chunkWidth (f32 : Bool) : Nat := if f32 then 8 else 32

/-- Row i of A as K values (R52). -/
def State.rowA (s : State) (r c : Nat) (o : TileOp) (f i : Nat) : List Fp :=
  (List.range o.k).map fun k => Fp.ofBits (fmtOf o.fmt) (s.readElem r c o.fmt (if o.ta then opOff o.a o.fmt f k i else opOff o.a o.fmt f i k))

/-- Column j of B as K values (R52). -/
def State.colB (s : State) (r c : Nat) (o : TileOp) (f j : Nat) : List Fp :=
  (List.range o.k).map fun k => Fp.ofBits (fmtOf o.fmt) (s.readElem r c o.fmt (if o.tb then opOff o.b o.fmt f j k else opOff o.b o.fmt f k j))

/-- Fields of a tile operation in range, and its chain rules kept (R24, R54). -/
def tileFields (o : TileOp) (ops : List TileOp) (i : Nat) : Bool :=
  decide (o.init ≠ 3) && chainOk ops i &&
  (!o.drain || (decide (o.dmode ≠ 3) && (decide (o.dmode = 0) || decide (o.dfun ≤ 5))))

/-- The operands of a tile operation, each with its format and extent (R24, Table 3.4). -/
def tileOperands (o : TileOp) : List (OpDesc × Bool × Nat × Nat) :=
  [if o.ta then (o.a, o.fmt, o.k, o.m) else (o.a, o.fmt, o.m, o.k), if o.tb then (o.b, o.fmt, o.n, o.k) else (o.b, o.fmt, o.k, o.n)] ++
  (if o.init = 1 then [(o.c0, true, o.m, o.n)] else []) ++
  (if o.drain then [(o.out, !o.outf, o.m, o.n)] else []) ++
  (if o.drain ∧ (o.dmode = 2 ∨ (o.dmode = 1 ∧ o.dstash)) then [(o.stash, !o.stf, o.m, o.n)] else [])

/-- A tile operation that may run: its fields, and every block of its operands within the slots in firing `f` (R24). -/
def tileLegal (o : TileOp) (ops : List TileOp) (i f : Nat) : Bool :=
  tileFields o ops i && (tileOperands o).all fun x => opFits x.1 x.2.1 f x.2.2.1 x.2.2.2

/-- The accumulators an operation starts from: +0, C₀, or those of the chain (R24, R31). -/
def State.startAccs (s : State) (r c : Nat) (o : TileOp) (f : Nat) : List Acc :=
  (List.range (o.m * o.n)).map fun e =>
    if o.init = 1 then
      let w := s.readElem r c true (opOff o.c0 true f (e / o.n) (e % o.n))
      let x : Acc := { v := BitVec.ofNat 32 w }
      if (Fp.ofBits b32 w).nonFinite then { x.note 5 0xFFFFFF with nfi := true } else x
    else { v := 0 }

/-- The accumulators of a set, as `Acc`s. -/
def AccSet.accs (a : AccSet) : List Acc := List.zipWith (fun v e => { v := v, ev := e }) a.vals a.evs

/-- Array-busy cycles of an operation (R26). -/
def tileCycles (o : TileOp) : Nat := ceilDiv o.k (chunkWidth o.fmt) * max o.n (if o.fmt then 4 else 8)

/-- Run the products of an operation on its accumulators. -/
def State.runTile (s : State) (r c : Nat) (o : TileOp) (f kbase : Nat) (start : List Acc) : List Acc :=
  let w := chunkWidth o.fmt
  let rows := (List.range o.m).map (s.rowA r c o f)
  let cols := (List.range o.n).map (s.colB r c o f)
  (List.range (o.m * o.n)).map fun e =>
    accChunks (start.getD e { v := 0 }) w (ceilDiv o.k w) (List.zip (rows.getD (e / o.n) []) (cols.getD (e % o.n) [])) kbase

/-- The accumulator set after an operation: it replaces the chain's set, or is a new one (R24, R61). -/
def mergeAcc (accs : List AccSet) (old : Option AccSet) (new : AccSet) : List AccSet :=
  match old with
  | none => accs ++ [new]
  | some a => accs.map fun b => if b.op = a.op ∧ b.firing = a.firing then new else b

/-- A deferred chain holds an accumulator set between two of its operations; with `UNSPLIT` none is deferred (R61, R63). -/
def State.heldSet (s : State) (r c : Nat) : Bool :=
  !s.unsplit r && (s.core r c).accs.any fun a => !a.draining && (match (s.coreCourse r c).tiles[a.op]? with | none => false | some t => t.deferred)

/-- Issue operation `i` of the matrix list in its firing `f` (R60); the micro-batch of a chain is that of the latest operation issued (R45; log entry 121). -/
def State.issueTile (s : State) (r c i : Nat) (o : TileOp) (f : Nat) : State :=
  let p := (s.phys r).getD 63
  let old := if o.init = 2 then (s.core r c).accs.find? (fun a => a.op + 1 = i ∧ a.firing = f) else none
  let hset := o.init ≠ 2 ∧ !o.deferred ∧ s.heldSet r c ∧ (s.core r c).lateStart
  let start := match old with | none => s.startAccs r c o f | some a => a.accs
  let kbase := match old with | none => 0 | some a => a.kbase
  let accs := s.runTile r c o f kbase start
  let s := (s.takeWaits r c o.tr.waits).mbNote r 1 c i 0
  let new : AccSet :=
    { op := i, firing := f, vals := accs.map (·.v), evs := accs.map (·.ev)
      nfi := (match old with | none => false | some a => a.nfi) || accs.any (·.nfi)
      inv := (match old with | none => false | some a => a.inv) || accs.any (·.inv)
      ovf := (match old with | none => false | some a => a.ovf) || accs.any (·.ovf)
      kbase := kbase + o.k, mbatch := s.mbNow r, draining := o.drain }
  let s := s.onCore r c fun x => { x with
    tileFired := x.tileFired.set 0 i (f + 1)
    lateStart := x.lateStart && decide (o.init = 2)
    accs := mergeAcc x.accs old new }
  let s := s.count p (if o.deferred then 0x2008 else 0x2004) (tileCycles o)
  let s := if hset then s.count p 0x200C 1 else s
  let s := if o.drain then s else s.sendEmits o.tr.emits
  s.progress r

/-- TILE_OPERATION_ISSUE (R60): the ready operation that R60 chooses issues, or faults its core as illegal before reading anything (R24); the engine stalls while what it would send overruns the event queue (R132). -/
def execTileOperationIssue (r : Region) (c : Core) (s : State) : Ans :=
  if s.coreRuns r c then
    match pickUnit (s.unsplit r) (s.readyTiles r c) with
    | none => .next s
    | some i =>
      match (s.coreCourse r c).tiles[i]? with
      | none => .next s
      | some o =>
        let f := (s.core r c).tileFired.get 0 i
        let ok := tileLegal o (s.coreCourse r c).tiles i f
        if !s.maySend r c (!ok || (!o.drain && !o.tr.emits.isEmpty)) then .next s
        else if ok then .next (s.issueTile r c i o f)
        else .next (s.illegal r c i)
  else .next s

/-! The drain. -/

/-- An element as it leaves the drain: output bits, stash bits, invalid, overflow. -/
structure Drained where
  out : Nat
  stash : Nat := 0
  inv : Bool := false
  ovf : Bool := false
  deriving DecidableEq, Repr

/-- Convert a value to the output format (R32). -/
def outBits (outf : Bool) (x : Fp) : Nat × Bool := x.toBits (if outf then b16 else b32)

/-- One element through the drain function: the accumulator and, in gradient mode, the stashed Z (R32, R55, R56). -/
def drainElem (o : TileOp) (acc : U32) (z : Nat) : Drained :=
  let x := Fp.ofBits b32 acc.toNat
  let zf := if o.stf then b16 else b32
  match o.dmode with
  | 1 =>
    let (zb, ov1) := x.toBits zf
    let g := fnEval b32 o.dfun false (Fp.ofBits zf zb)
    let (w, ov2) := outBits o.outf g.v
    { out := w, stash := zb, inv := g.inv, ovf := ov1 || g.ovf || ov2 }
  | 2 =>
    let zv := Fp.ofBits zf z
    if zv.nonFinite then { out := nanBits (if o.outf then b16 else b32) }
    else
      let g := fnEval b32 o.dfun true zv
      let m := fpMul b32 x g.v
      let (w, ov) := outBits o.outf m.v
      { out := w, inv := g.inv || m.inv, ovf := g.ovf || m.ovf || ov }
  | _ =>
    let (w, ov) := outBits o.outf x
    { out := w, ovf := ov }

/-- An output element is NaN or infinite. -/
def outNonFinite (outf : Bool) (w : Nat) : Bool := (Fp.ofBits (if outf then b16 else b32) w).nonFinite

/-- Write the elements of a drained tile, and its stash in activate mode with `DSTASH`. -/
def State.writeDrain (s : State) (r c : Nat) (o : TileOp) (f : Nat) (ds : List Drained) : State :=
  loopN (fun e s =>
    match ds[e]? with
    | none => s
    | some d =>
      let s := if o.dmode = 1 ∧ o.dstash then s.writeElem r c (!o.stf) (opOff o.stash (!o.stf) f (e / o.n) (e % o.n)) d.stash else s
      s.writeElem r c (!o.outf) (opOff o.out (!o.outf) f (e / o.n) (e % o.n)) d.out) (o.m * o.n) s

/-- The tile numeric record of a drained set (R38, R39, R57): words 0 and 1. -/
def drainRecord (o : TileOp) (a : AccSet) (ds : List Drained) : U32 × U32 :=
  let nf := ds.map fun d => outNonFinite o.outf d.out
  let cnt := (nf.filter id).length
  let pos := findIdx id nf 0
  let inv := a.inv || ds.any (·.inv)
  let ovf := a.ovf || ds.any (·.ovf)
  let (cause, kidx) :=
    match pos with
    | none => (0, 0xFFFFFF)
    | some e =>
      let ev := a.evs.getD e {}
      if (Fp.ofBits b32 (a.vals.getD e 0).toNat).nonFinite then (ev.cause, ev.kidx) else (7, 0xFFFFFF)
  let p := match pos with | none => 0 | some e => e / o.n * 32 + e % o.n
  (recWord0 (flags4 a.nfi inv ovf (decide (cnt ≠ 0))) o.fmt o.outf o.grad p cause cnt, recWord1 kidx 0)

/-- A critical chain could begin now. -/
def State.critReady (s : State) (r c : Nat) : Bool :=
  (s.readyTiles r c).any fun x => !x.1 && (match (s.coreCourse r c).tiles[x.2.2]? with | none => false | some o => decide (o.init ≠ 2))

/-- A set leaves the accumulators; a critical chain that waited for it, the other set being held, begins without drain overlap (R61). -/
def State.freeSet (s : State) (r c : Nat) (a : AccSet) : State :=
  let full := decide (2 ≤ (s.core r c).accs.length)
  let s := s.onCore r c fun x => { x with accs := x.accs.filter fun b => !(b.op = a.op && b.firing = a.firing) }
  let late := full && s.heldSet r c && s.critReady r c
  s.onCore r c fun x => { x with lateStart := late }

/-- Drain an accumulator set: C through the drain function to SRAM, the record, the emits (R24, R38, R54 to R58). -/
def State.drainSet (s : State) (r c : Nat) (a : AccSet) (o : TileOp) : State :=
  let ds := (List.range (o.m * o.n)).map fun e =>
    drainElem o (a.vals.getD e 0) (if o.dmode = 2 then s.readElem r c (!o.stf) (opOff o.stash (!o.stf) a.firing (e / o.n) (e % o.n)) else 0)
  let w := drainRecord o a ds
  let s := s.writeDrain r c o a.firing ds
  let s := s.freeSet r c a
  let s := s.sendRecord r c a.mbatch o.tileId w.1 w.2
  (s.sendEmits o.tr.emits).progress r

/-- TILE_DRAIN (R38): the oldest set whose chain has ended drains, once the event queue has room for its sends (R132). -/
def execTileDrain (r : Region) (c : Core) (s : State) : Ans :=
  match (s.core r c).accs.find? (·.draining) with
  | none => .next s
  | some a =>
    match (s.coreCourse r c).tiles[a.op]? with
    | none => .next s
    | some o => if s.maySend r c (!o.tr.emits.isEmpty) then .next (s.drainSet r c a o) else .next s

end Sys2Proof.Machine
end

