-- ==== Sys2Proof/Machine/Frame.lean ====
section
/-! DEFINITION. The bits of link frames as they are sent: control flit, packet headers, acknowledgements and beacons (R234, R239, R246, Tables 6.4, 11.4 to 11.7). -/

namespace Sys2Proof.Machine

/-- Payload flits of a frame (R234). -/
def frameLen : Nat := 19

/-- Bits 0 to 223 of a control flit whose first `n` payload flits hold packet data (Table 11.4). -/
def ctlBits (ftype : Nat) (fseq fack : U16) (nak : Bool) (n : Nat) (cred : List Nat) : Nat :=
  pack ([(ftype, 4), (0, 4), (fseq.toNat, 16), (fack.toNat, 16), (b2n nak, 1), (2 ^ n - 1, 19), (0, 4)] ++ (List.range 4).map fun c => (cred.getD c 0, 12))

/-- A frame with its `FCRC`, its payload filled up with zero flits (R200, R234). -/
def frameOf (ftype : Nat) (fseq fack : U16) (nak : Bool) (n : Nat) (cred : List Nat) (l : List (BitVec 256)) (names : List PktName) : Frame :=
  let c := ctlBits ftype fseq fack nak n cred
  let fl := l ++ List.replicate (frameLen - l.length) 0
  { ctl := BitVec.ofNat 256 (c + 2 ^ 224 * (crc32c (leBytes 28 c ++ fl.flatMap fun x => leBytes 32 x.toNat)).toNat), flits := fl, names := names }

/-- Bytes as flits, the last filled up with zeros. -/
def flitsOf (b : List Byte) : List (BitVec 256) := (List.range ((b.length + 31) / 32)).map fun i => BitVec.ofNat 256 (leNat ((b.drop (32 * i)).take 32))

/-- The header of a packet as Hezin carries it: the fields of Table 6.4 with those of Table 11.5. -/
def headerBits (p : Packet) : Nat :=
  pack [ (p.vc, 2), (b2n p.prio, 1), (b2n p.leg, 1), (p.kind, 4), ((p.payload.length + 31) / 32, 5), (p.pidx, 7), (b2n p.last, 1), (p.nflag, 3), (p.hops, 4), (p.hkind, 4),
    (p.gaddr.toNat, 64), (p.smod, 16), (p.slregion, 6), (p.skind, 2), (p.sunit, 10), (p.sctx, 6), (p.ltok, 9), (p.ttok, 9), (p.count, 16),
    (if p.kind = 1 then p.glen - 1 else 0, 13), (p.cetag, 8), (0, 1), (p.layout.toNat, 32), (p.tseq.toNat, 32) ]

/-- The flits of a packet, and what the model adds to them (log entry 142). -/
def packetFlits (p : Packet) : List (BitVec 256) := BitVec.ofNat 256 (headerBits p) :: flitsOf p.payload
def pktName (p : Packet) : PktName :=
  { tag := p.tag, base := p.base, glen := p.glen, stampD := p.stampD, parts := p.parts, seng := p.seng, sslot := p.sslot, bytes := p.payload.length }

/-- The flit of a transport acknowledgement (Table 11.6). -/
def tackFlit (a : TAck) : BitVec 256 :=
  BitVec.ofNat 256 (pack [(0, 24), (a.hops, 4), (1, 4), (a.dmod.toNat, 16), (a.amod.toNat, 16), (a.vc.val, 2), (a.slot.val, 8), (0, 22), (a.cum.toNat, 32), (a.sel.toNat, 128)])

/-- Flits 1 to 3 of a beacon (Table 11.7). -/
def beaconFlits (b : Beacon) : List (BitVec 256) :=
  [ BitVec.ofNat 256 (pack [(b.step.toNat, 64), (b.cepoch.toNat, 32), (b.lepoch.toNat, 32), (b.mod.toNat, 16), (b.eng.toNat, 8), (b.flags.toNat, 8), (0, 32), (b.sag.toNat, 64)]),
    BitVec.ofNat 256 (fld b.root.toNat 0 256), BitVec.ofNat 256 (fld b.root.toNat 256 256) ]

/-- The beacon that the flits of a frame hold (Table 11.7). -/
def beaconOfFlits (l : List (BitVec 256)) : Beacon :=
  let f := fld (l.getD 0 0).toNat
  { step := BitVec.ofNat 64 (f 0 64), cepoch := BitVec.ofNat 32 (f 64 32), lepoch := BitVec.ofNat 32 (f 96 32), mod := BitVec.ofNat 16 (f 128 16), eng := BitVec.ofNat 8 (f 144 8)
    flags := BitVec.ofNat 8 (f 152 8), sag := BitVec.ofNat 64 (f 192 64), root := BitVec.ofNat 512 ((l.getD 1 0).toNat + 2 ^ 256 * (l.getD 2 0).toNat) }

/-- Frames of a packet, a transport acknowledgement, a beacon, a lane change, and of an acknowledgement alone, which repeats the last number sent and may ask for replay (Table 11.4). -/
def packetFrame (fseq fack : U16) (cred : List Nat) (p : Packet) : Frame := frameOf 0 fseq fack false (packetFlits p).length cred (packetFlits p) [pktName p]
def tackFrame (fseq fack : U16) (cred : List Nat) (a : TAck) : Frame := frameOf 0 fseq fack false 1 cred [tackFlit a] [{ seng := a.eng.val }]
def beaconFrame (fseq fack : U16) (b : Beacon) : Frame := frameOf 4 fseq fack false 0 [] (beaconFlits b) []
def changeFrame (fseq fack : U16) : Frame := frameOf 3 fseq fack false 0 [] [] []
def ackOnly (next fack : U16) (nak : Bool) (cred : List Nat) : Frame := frameOf 2 (next - 1) fack nak 0 cred [] []

end Sys2Proof.Machine
end

