-- ==== Sys2Proof/Machine/Lane.lean ====
section
/-! DEFINITION. Hezin lanes: training, error windows, retirement, and what a lane's state does to its link (R224 to R230, R232, R233, R236). -/

namespace Sys2Proof.Machine

/-! Links of an engine, as far as lanes concern them. -/

/-- The declaration of link j of an engine, among those in force or last in force (R231, R329). -/
def State.linkDecl (s : State) (e j : Nat) : Option LinkDecl := s.cfg.links.find? fun d => d.engine = e && d.link = j

/-- The engine has declared links. -/
def State.engineDeclared (s : State) (e : Nat) : Bool := s.cfg.links.any fun d => d.engine = e

/-- Does a link of an engine hold fibre f? A lane pair goes by its receive fibre, the transmit fibres of the link being paired with them in order; on an engine with no declared link, link j is fibre j (R231; log entry 61). -/
def State.linkHasFibre (s : State) (e j f : Nat) : Bool :=
  match s.linkDecl e j with
  | some d => bitAt d.rx f
  | none => !s.engineDeclared e && decide (f = j)

/-- The fewest lane pairs that a link needs (R231; log entry 61). -/
def State.minLanes (s : State) (e j : Nat) : Nat := match s.linkDecl e j with | some d => d.minl | none => 1

def State.lane (s : State) (e l : Nat) : LaneSt := (s.engine e).lanes.get {} l
def State.onLane (s : State) (e l : Nat) (f : LaneSt → LaneSt) : State := s.onEng e fun x => { x with lanes := x.lanes.upd {} l f }
def State.link (s : State) (e j : Nat) : LinkSt := (s.engine e).links.get {} j
def State.onLink (s : State) (e j : Nat) (f : LinkSt → LinkSt) : State := s.onEng e fun x => { x with links := x.links.upd {} j f }

/-- Lane pairs of a link in service, ascending. -/
def State.serviceLanes (s : State) (e j : Nat) : List Nat :=
  (List.range 64).filter fun l => s.linkHasFibre e j (l / 8) && decide ((s.lane e l).st = .service)

/-- Module identity digest (R394). -/
def State.moduleDigest (s : State) : Digest := digest64 (leBytes 57 s.keys.pub)

/-- Packet buffers guaranteed to a link queue (R240), and granted to each class by an identity frame (R237; log entry 144). -/
def guaranteedSlots : Nat := 16

/-- The identity frame of a link (R232): this module's digest, number, engine and fibres, what it has in force, the credits it grants, and its own judgement of the partner's, if it has judged. -/
def State.identityFrame (s : State) (e : Engine) (j : Nat) (agrees : Option Bool) : IdFrame where
  midd := s.moduleDigest
  mod := BitVec.ofNat 16 s.cfg.linkMod
  engine := e
  fibres := BitVec.ofNat 8 (((s.linkDecl e j).map (·.tx)).getD 0)
  cepoch := s.cfg.epoch
  root := s.cfg.root
  lepoch := s.cfg.layout
  credits := List.replicate 4 guaranteedSlots
  agrees := agrees

/-- A frame takes the link's next sequence number and is kept until it is acknowledged (R235; log entry 64). -/
def State.keepFrame (s : State) (e j : Nat) (f : SentFrame) : State :=
  s.onLink e j fun x => { x with outst := x.outst ++ [{ f with seq := x.fseq }], fseq := x.fseq + 1 }

/-- The link that a lane belongs to. -/
def State.laneLink (s : State) (e l : Nat) : Option Nat := (List.range 8).find? fun j => s.linkHasFibre e j (l / 8)

/-- A link goes down: its outstanding frames are dropped, to be recovered by the transport, and a failure of a link that was up goes to the health log (R236). -/
def State.linkDown (s : State) (e j : Nat) : State :=
  let k := s.link e j
  let s := s.onLink e j fun x => { x with st := .down, lanes := [], outst := [], cred := [], freed := [], part := [], agreed := false, rxLast := 0xFFFF, nakSent := false, fseq := 0, beacon := none, cdiff := false, ldiff := false }
  if k.st = .up then s.logHealth { cls := 0x31, action := 7, sub := e * 8 + j } else s

/-- A link that waits for lanes and has enough of them starts to align (Table 11.3). -/
def State.linkWake (s : State) (e j : Nat) : State :=
  if (s.link e j).st = .down ∧ (s.engine e).ok ∧ 0 < (s.serviceLanes e j).length ∧ s.minLanes e j ≤ (s.serviceLanes e j).length then
    s.onLink e j fun x => { x with st := .align, lanes := s.serviceLanes e j }
  else s

/-- A link with fewer lanes in service than it needs goes down (R236). -/
def State.linkStarve (s : State) (e j : Nat) : State :=
  if (s.link e j).st ≠ .down ∧ (s.serviceLanes e j).length < s.minLanes e j then s.linkDown e j else s

/-- Data frames outstanding on an engine (R235). -/
def EngineSt.outstanding (x : EngineSt) : Nat := x.links.foldl (fun n k => n + k.2.outst.length) 0

/-- Frames that an engine may have outstanding (R235). -/
def maxOutstanding : Nat := 8192

/-- The frames a link may have outstanding: its share by lanes of the engine's 8,192 (R235). -/
def State.frameShare (s : State) (e j : Nat) : Nat :=
  let all := (s.engine e).links.foldl (fun n k => n + k.2.lanes.length) 0
  if all = 0 then 0 else maxOutstanding * (s.link e j).lanes.length / all

/-- A link may send a frame that is kept: its share and its engine's total have room (R235). -/
def State.hasRoom (s : State) (e j : Nat) : Bool := decide ((s.link e j).outst.length < s.frameShare e j) && decide ((s.engine e).outstanding < maxOutstanding)

/-- Lanes of a link that is up are to join or leave the striping: the change is agreed beforehand, by a frame of its own, sent once there is room for it (R233, R235). -/
def State.linkAnnounce (s : State) (e j : Nat) : State :=
  let k := s.link e j
  if k.st = .up ∧ !k.agreed ∧ s.hasRoom e j ∧ (k.lanes ≠ s.serviceLanes e j ∨ (s.serviceLanes e j).any fun l => (s.lane e l).mark) then
    ((s.keepFrame e j { seq := 0, change := true }).onLink e j fun x => { x with agreed := true }).emitOut (.frame e j (changeFrame k.fseq k.rxLast))
  else s

/-- A lane changes state, and its link with it. -/
def State.setLane (s : State) (e l : Nat) (f : LaneSt → LaneSt) : State :=
  let s := s.onLane e l f
  match s.laneLink e l with
  | none => s
  | some j => ((s.linkStarve e j).linkWake e j).linkAnnounce e j

/-! Training (R227, R228). -/

/-- The lane pair is retired: counted and logged with its module lane number and both error counts (R230; log entry 60). -/
def State.retireLane (s : State) (e l errs partnerErrs : Nat) : State :=
  let s := s.setLane e l fun x => { x with st := .retired, bad := 0, badPartner := 0, mark := false }
  (s.onEng e fun x => { x with retCount := x.retCount + 1 }).logHealth
    { cls := 0x30, action := 6, sub := e * 64 + l, detail := min errs 0xFFFF + 2 ^ 16 * min partnerErrs 0xFFFF }

/-- A failed attempt: the third since the pair left `DARK` retires it, another starts again from `EQUALISE` (R228; log entry 60). -/
def State.failAttempt (s : State) (e l errs partnerErrs : Nat) : State :=
  if (s.lane e l).fails + 1 < 3 then s.setLane e l fun x => { x with st := .equalise, fails := x.fails + 1 }
  else s.retireLane e l errs partnerErrs

/-- A lane goes dark and is to train again; its attempts are counted from when it leaves `DARK` (R228). -/
def State.darken (s : State) (e l : Nat) : State :=
  s.setLane e l fun x => { x with st := .dark, fails := 0, bad := 0, badPartner := 0, mark := false }

/-- LANE_POWER_IN_RANGE (R228): a dark lane of a working engine whose power has been in range for 1 ms trains. -/
def execLanePowerInRange (e : Engine) (l : Fin 64) (s : State) : Ans :=
  if (s.engine e).ok ∧ (s.lane e l).st = .dark then .next (s.setLane e l fun x => { x with st := .equalise, fails := 0 }) else .next s

/-- Receive power that a lane accepts, in thousandths of a dBm (R225). -/
def powerInRange (mdbm : Int) : Bool := decide (-10000 ≤ mdbm) && decide (mdbm ≤ 3000)

/-- RECEIVER_OVER_POWER (R225): a lane whose power is out of range is dark; above +5 dBm the receiver clamps, and the event is logged (log entry 145). -/
def execReceiverOverPower (e : Engine) (p : LanePower) (s : State) : Ans :=
  let l := p.lane
  if (s.engine e).ok ∧ !powerInRange p.mdbm then
    let s := if 5000 < p.mdbm then s.logHealth { cls := 0x79, sub := e.val * 64 + l.val } else s
    if (s.lane e l).st = .retired then .next s else .next (s.darken e l)
  else .next s

/-- One coefficient request: hold, increase, decrease; 3 is reserved and holds (R227). -/
def tapStep (req : Nat) (v : Int) : Int := if req = 1 then v + 1 else if req = 2 then v - 1 else v

/-- The 96 bits of a training word before its CRC, in order (R227). -/
def trainBits (w : TrainWord) : Nat := pack [(w.marker.toNat, 32), (w.lane.toNat, 10), (w.coef.toNat, 6), (b2n w.converged, 1), (w.rsv.toNat, 47)]

/-- The CRC of a training word holds (R200, R227). -/
def trainCrcOk (w : TrainWord) : Bool := w.crc = crc32c (leBytes 12 (trainBits w))

/-- The marker of a training word. -/
def trainMarker : U32 := 0x96E15A3C

/-- The training word of lane l of an engine: what it asks of the partner's transmitter, and whether its own equalisation has converged, are the receiver's own (R227; log entry 146). -/
def trainWordOf (e l v : Nat) : TrainWord :=
  let w : TrainWord := { marker := trainMarker, lane := BitVec.ofNat 10 (e * 64 + l), coef := BitVec.ofNat 6 v, converged := bitAt v 6 }
  { w with crc := crc32c (leBytes 12 (trainBits w)) }

/-- A lane that equalises sends its training word. -/
def State.train (s : State) (e l : Nat) : State := let (v, s) := s.fresh; s.emitOut (.training e l (trainWordOf e l v))

/-- TRAINING_WORD (R227): a word whose marker and CRC hold moves the transmitter's coefficients as it asks, and a partner's converged bit ends `EQUALISE`; the lane sends a word of its own. -/
def execTrainingWord (e : Engine) (l : Fin 64) (w : TrainWord) (s : State) : Ans :=
  if (s.engine e).ok ∧ (s.lane e l).st = .equalise ∧ w.marker = trainMarker ∧ trainCrcOk w then
    let s := s.train e l
    let c := w.coef.toNat
    let s := s.onLane e l fun x => { x with pre := tapStep (fld c 0 2) x.pre, main := tapStep (fld c 2 2) x.main, post := tapStep (fld c 4 2) x.post }
    if w.converged then .next (s.setLane e l fun x => { x with st := .locked }) else .next s
  else .next s

/-- LANE_STATE_TIMEOUT (R228): a training state that exceeds its limit is a failed attempt. -/
def execLaneStateTimeout (e : Engine) (l : Fin 64) (s : State) : Ans :=
  if (s.lane e l).st = .equalise ∨ (s.lane e l).st = .locked ∨ (s.lane e l).st = .measure then .next (s.failAttempt e l 0 0) else .next s

/-- Wavelength in a lane tag: the tag's bits [19:10] hold the transmitting module lane number (R224, R226). -/
def tagWave (t : BitVec 20) : Nat := t.toNat / 2 ^ 10 % 8

/-- CODEWORD_LOCK (R228): 64 good codewords in a row with the lane's wavelength in their tags. -/
def execCodewordLock (e : Engine) (x : LaneTags) (s : State) : Ans :=
  let l := x.lane
  if (s.lane e l).st = .locked ∧ x.tags.length = 64 ∧ x.tags.all fun t => tagWave t = l.val % 8 then .next (s.setLane e l fun x => { x with st := .measure }) else .next s

/-- The most errored bits of a measurement or window that passes (R229, R230). -/
def maxErrs : Nat := 22400

/-- Errored bits of a measurement or window: those corrected, and 160 for each uncorrectable codeword (R229). -/
def erroredBits (bits unc : Nat) : Nat := bits + 160 * unc

/-- Uncorrectable codewords of a lane are counted by its engine (R248). -/
def State.countUnc (s : State) (e unc : Nat) : State := s.onEng e fun x => { x with fecUnc := sat32 x.fecUnc unc }

/-- MEASURE_END (R229): a pair passes only if both directions do; the own result goes to the partner on the reverse lane. -/
def execMeasureEnd (e : Engine) (l : Fin 64) (own : LaneErrs) (partnerErrs : Nat) (s : State) : Ans :=
  if (s.lane e l).st = .measure then
    let errs := erroredBits own.bits own.unc
    let s := (s.countUnc e own.unc).emitOut (.measured e l errs)
    if errs ≤ maxErrs ∧ partnerErrs ≤ maxErrs then .next (s.setLane e l fun x => { x with st := .service, bad := 0, badPartner := 0, mark := false, recent := [] })
    else .next (s.failAttempt e l errs partnerErrs)
  else .next s

/-- Windows in a row over the limit that retire a pair (R230). -/
def maxBad : Nat := 100

/-- Windows of 1 ms in a second. -/
def secondWindows : Nat := 1000

/-- Errored bits of the preceding second (R328). -/
def LaneSt.second (x : LaneSt) : Nat := (x.recent.take secondWindows).sum

/-- The window of a lane in service, of its errored bits and those its partner counted: a lane over the limit for 100 windows in a row marks the pair (R230). -/
def LaneSt.window (x : LaneSt) (errs partnerErrs : Nat) : LaneSt :=
  let bad := if maxErrs < errs then x.bad + 1 else 0
  let badPartner := if maxErrs < partnerErrs then x.badPartner + 1 else 0
  { x with err := BitVec.ofNat 32 (min errs 0xFFFFFFFF), errPartner := partnerErrs, recent := (errs :: x.recent).take secondWindows, bad := bad, badPartner := badPartner,
           mark := x.mark || decide (maxBad ≤ bad) || decide (maxBad ≤ badPartner) }

/-- ERROR_WINDOW_END (R230): a 1 ms window of a lane in service closes, and its count goes to the partner; a pair that it marks is to leave the striping. -/
def execErrorWindowEnd (e : Engine) (l : Fin 64) (own : LaneErrs) (partnerErrs : Nat) (s : State) : Ans :=
  if (s.lane e l).st = .service then
    let errs := erroredBits own.bits own.unc
    .next (((s.countUnc e own.unc).emitOut (.measured e l errs)).setLane e l fun x => x.window errs partnerErrs)
  else .next s

/-- LOSS_OF_CODEWORD_LOCK (R228): a lane in service without codeword lock for 10 µs trains again. -/
def execLossOfCodewordLock (e : Engine) (l : Fin 64) (s : State) : Ans :=
  if (s.lane e l).st = .service then .next (s.darken e l) else .next s

end Sys2Proof.Machine
end

