-- ==== Sys2Proof/Machine/Link.lean ====
section
/-! DEFINITION. Hezin links: alignment, identity, frames, replay, lane changes and the choice of a next hop (R231 to R238, R247). -/

namespace Sys2Proof.Machine

/-! The transport memory and the credits it lets an engine report (R234, R237, R240, R268; log entry 144). -/

/-- Slots of an engine's transport memory: 64 MiB in slots of 544 bytes (R240). -/
def memSlots : Nat := 64 * 2 ^ 20 / 544

/-- The pool that link queues share beyond the slots guaranteed to each of an engine's 2,048 (R186, R240). -/
def poolSlots : Nat := memSlots - 2048 * guaranteedSlots

/-- Packets that a receive stream keeps in the transport memory. -/
def RxStream.kept (x : RxStream) : Nat := x.waiting.length + x.held.length

/-- Slots of the pool in use. -/
def EngineSt.poolUsed (x : EngineSt) : Nat :=
  x.tx.foldl (fun n k => n + (k.2.unacked.length - guaranteedSlots)) 0 + x.rx.foldl (fun n k => n + (k.2.kept - guaranteedSlots)) 0

/-- A link queue with n packets has a slot for another: a guaranteed one, or one of the pool (R240). -/
def EngineSt.hasSlot (x : EngineSt) (n : Nat) : Bool := decide (n < guaranteedSlots) || decide (x.poolUsed < poolSlots)

/-- Slots of the pool that a link queue's held packets may fill (R268). -/
def heldPool : Nat := 1024

/-- Credits of a class are withheld: the pool is empty, or a queue's held packets fill their bound (R240, R268). -/
def EngineSt.withholds (x : EngineSt) (vc : Nat) : Bool :=
  decide (poolSlots ≤ x.poolUsed) || x.rx.any fun k => decide (k.1 % 4 = vc) && decide (guaranteedSlots + heldPool ≤ k.2.held.length)

/-- The buffers a frame reports as freed, by class in 12 bits each; none until a configuration is applied (Table 11.4, R329). -/
def State.grants (s : State) (e j : Nat) : List Nat :=
  (List.range 4).map fun c => if s.run.st = .idle ∨ (s.engine e).withholds c then 0 else min 4095 ((s.link e j).freed.get 0 c)

/-- Buffers reported are no longer owed. -/
def LinkSt.report (x : LinkSt) (g : List Nat) : LinkSt :=
  { x with freed := (List.range 4).foldl (fun (t : Tab Nat) c => t.upd 0 c (· - g.getD c 0)) x.freed }

/-- A receive buffer of a link is free again; 8 names no link. -/
def State.freeBuf (s : State) (e j vc : Nat) : State := if j < 8 then s.onLink e j fun x => { x with freed := x.freed.upd 0 vc (· + 1) } else s

/-! Frames sent (R235). -/

/-- Send a frame on a link: it takes the next number, is kept, and carries `FACK` and the credits freed (R234, R235, R237). -/
def State.sendOn (s : State) (e j : Nat) (f : SentFrame) (out : U16 → U16 → List Nat → Frame) : State :=
  let k := s.link e j
  let g := s.grants e j
  ((s.keepFrame e j { f with cred := g }).onLink e j fun x => x.report g).emitOut (.frame e j (out k.fseq k.rxLast g))

/-- Send a packet in a frame of a link, for one credit of its class (R235, R237). -/
def State.sendFrame (s : State) (e j : Nat) (p : Packet) : State :=
  (s.onLink e j fun x => { x with cred := x.cred.upd 0 p.vc (· - 1) }).sendOn e j { seq := 0, pkts := [p] } fun seq fack g => packetFrame seq fack g p

/-- Send a transport acknowledgement in a frame of a link, for one credit of the response class (R237, R242). -/
def State.sendTAck (s : State) (e j : Nat) (a : TAck) : State :=
  (s.onLink e j fun x => { x with cred := x.cred.upd 0 1 (· - 1) }).sendOn e j { seq := 0, acks := [a] } fun seq fack g => tackFrame seq fack g a

/-- Acknowledge what has come in order, in a frame of acknowledgement alone (R235). -/
def State.ackFrame (s : State) (e j : Nat) : State :=
  let g := s.grants e j
  (s.onLink e j fun x => x.report g).emitOut (.frame e j (ackOnly (s.link e j).fseq (s.link e j).rxLast false g))

/-- What leaves again as a frame is replayed. -/
def SentFrame.frames (f : SentFrame) (fack : U16) : List Frame :=
  f.pkts.map (packetFrame f.seq fack f.cred) ++ f.acks.map (tackFrame f.seq fack f.cred) ++ f.beacon.toList.map (beaconFrame f.seq fack) ++
  if f.change then [changeFrame f.seq fack] else []

/-- Send frames again as they were sent (R235). -/
def State.resend (s : State) (e j : Nat) (fs : List SentFrame) : State :=
  fs.foldl (fun s f => (f.frames (s.link e j).rxLast).foldl (fun s x => s.emitOut (.frame e j x)) s) s

/-- Replays that a frame may have without being acknowledged (R236). -/
def maxReplays : Nat := 8

/-- Replay every outstanding frame in order; a frame that has been replayed 8 times takes the link down instead (R235, R236). -/
def State.replayLink (s : State) (e j : Nat) : State :=
  let k := s.link e j
  if k.outst.isEmpty then s
  else if k.outst.any fun f => maxReplays ≤ f.replays then (s.linkDown e j).linkWake e j
  else
    let s := s.onLink e j fun x => { x with outst := x.outst.map fun f => { f with replays := f.replays + 1 } }
    (s.onEng e fun x => { x with replay := sat32 x.replay 1 }).resend e j k.outst

/-- LINK_REPLAY_TIMEOUT (R235): no advance of `FACK` for 10 µs. -/
def execLinkReplayTimeout (e : Engine) (j : Fin 8) (s : State) : Ans :=
  if (s.link e j).st = .up then .next (s.replayLink e j) else .next s

/-! Alignment and lane changes (R233). -/

/-- The greatest skew between the lanes of a link, in codewords (R233). -/
def maxSkew : Nat := 32

/-- `n` lanes are aligned: all are heard, and none is more than the skew ahead of the last, counting modulo 1,024 (R226, R233). -/
def lanesAligned (x : LaneHeard) (n : Nat) : Bool := decide (x.counters.length = n) && x.counters.any fun c => x.counters.all fun d => decide ((d - c).toNat ≤ maxSkew)

/-- LINK_ALIGN (R233): the lanes align within the skew that a receiver absorbs and identity frames are exchanged, or the link goes down, counted. -/
def execLinkAlign (e : Engine) (j : Fin 8) (heard : LaneHeard) (s : State) : Ans :=
  if (s.link e j).st = .align then
    if lanesAligned heard (s.serviceLanes e j).length then .next ((s.onLink e j fun x => { x with st := .identify, lanes := s.serviceLanes e j }).emitOut (.identity e j (s.identityFrame e j none)))
    else .next (((s.linkDown e j).onLink e j fun x => { x with aligns := x.aligns + 1 }).linkWake e j)
  else .next s

/-- Retire the marked lanes of a link (R230). -/
def State.retireMarked (s : State) (e j : Nat) : State :=
  ((s.serviceLanes e j).filter fun l => (s.lane e l).mark).foldl
    (fun s l => s.retireLane e l (s.lane e l).err.toNat (s.lane e l).errPartner) s

/-- LANE_CHANGE_POINT (R233): at a codeword counter that is a multiple of 256, and as a lane-change frame has agreed at least 64 codewords before, marked lanes retire and lanes join or leave the striping; a failed alignment takes the link down (R236). A link that carries beacons only sends no such frame, and changes as it is. -/
def execLaneChangePoint (e : Engine) (j : Fin 8) (point : ChangePoint) (s : State) : Ans :=
  if point.counter.toNat % 256 = 0 ∧ (((s.link e j).st = .up ∧ (s.link e j).agreed ∧ 64 ≤ point.lead) ∨ (s.link e j).st = .mismatch) then
    let s := s.retireMarked e j
    if (s.link e j).st = .down ∨ (s.link e j).st = .align then .next s
    else if lanesAligned point.heard (s.serviceLanes e j).length then .next (s.onLink e j fun x => { x with lanes := s.serviceLanes e j, agreed := false })
    else .next ((s.linkDown e j).linkWake e j)
  else .next s

/-! Identity (R232, R325, R327, R354). -/

/-- The partner's identity tag is the one `PARTNER_SET` gave for its module, if it gave one (R354). -/
def State.tagOk (s : State) (f : IdFrame) : Bool :=
  s.cfg.partners.all fun p => decide (p.1 ≠ f.mod) || decide (p.2 = f.midd.setWidth 32)

/-- The module a declared partner number stands for: the loopback alias is this module (R407). -/
def State.realMod (s : State) (m : Nat) : Nat := if m = s.linkCourse.loopMod ∧ m ≠ 0xFFFF then s.ownMod else m

/-- The identity of a partner matches the link's declaration (R232; log entry 63). -/
def State.identityOk (s : State) (e j : Nat) (f : IdFrame) : Bool :=
  match s.linkDecl e j with
  | none => false
  | some d => decide (s.realMod d.pmod = f.mod.toNat) && decide (d.pengine = f.engine.val) && decide (d.rx = f.fibres.toNat) && s.tagOk f

/-- A link takes its partner's identity: it comes up, with the credits granted, once both ends match; it mismatches if either does not; it stays in `IDENTIFY` while the partner has not judged (R232, R237; log entry 143). -/
def State.identified (s : State) (e j : Nat) (f : IdFrame) : State :=
  if s.identityOk e j f ∧ f.agrees = some true then
    (s.onFlt fun x => { x with closed := x.closed.filter (· ≠ (f.mod.toNat, f.engine.val)) }).onLink e j fun x => { x with st := .up, peer := some f, cred := [0, 1, 2, 3].foldl (fun (t : Tab Nat) c => t.set 0 c (f.credits.getD c 0)) [], lanes := s.serviceLanes e j }
  else if s.identityOk e j f ∧ f.agrees = none then s.onLink e j fun x => { x with st := .identify, peer := some f }
  else (s.onLink e j fun x => { x with st := .mismatch, peer := some f }).onEng e fun x => { x with mism := true }

/-- IDENTITY_FRAME (R232): judged in `IDENTIFY`, and again in `MISMATCH` when the partner's has changed. -/
def execIdentityFrame (e : Engine) (j : Fin 8) (f : IdFrame) (s : State) : Ans :=
  let k := s.link e j
  if k.st = .identify ∨ (k.st = .mismatch ∧ k.peer ≠ some f) then
    .next ((s.identified e j f).emitOut (.identity e j (s.identityFrame e j (some (s.identityOk e j f)))))
  else .next s

/-- IDENTIFY_TIMEOUT (R232): no identity within 1 ms. -/
def execIdentifyTimeout (e : Engine) (j : Fin 8) (s : State) : Ans :=
  if (s.link e j).st = .identify then .next ((s.linkDown e j).linkWake e j) else .next s

/-- A link meets a new declaration: one up or mismatched is identified again when its own has changed (R232, R329). -/
def State.redeclareLink (s : State) (old : Option LinkDecl) (e : Engine) (j : Nat) : State :=
  let k := s.link e j
  if (k.st = .up ∨ k.st = .mismatch) ∧ s.linkDecl e j ≠ old then
    (s.onLink e j fun x => { x with st := .identify, outst := [], cred := [], freed := [], part := [], agreed := false, rxLast := 0xFFFF, fseq := 0, nakSent := false, lanes := s.serviceLanes e j }).emitOut (.identity e j (s.identityFrame e j none))
  else (s.linkStarve e j).linkWake e j

/-- New link declarations come into force. -/
def State.declareLinks (s : State) (c : LinkCourse) : State :=
  let old := s.cfg.links
  let s := s.onCfg fun x => { x with links := c.links, linkMod := c.mod }
  (List.range 128).foldl (fun s i => s.redeclareLink (old.find? fun d => d.engine = i / 8 && d.link = i % 8) (Fin.ofNat 16 (i / 8)) (i % 8)) s

/-! Next hops (R238, R247; log entry 65). -/

/-- Route tables held: those in force, those retained, those of an armed set (R220). -/
def State.routes (s : State) : List Route :=
  let armed := if s.stg.st = .armed then ((s.stg.image.bind (·.link)).map (·.routes)).getD [] else []
  s.linkCourse.routes ++ s.cfg.oldRoutes ++ armed

/-- The entry of a destination module in the tables of a layout epoch. -/
def State.routeEntry (s : State) (layout : U32) (m : Nat) : Option Route := s.routes.find? fun x => x.epoch = layout.toNat && x.dmod = m

/-- The link that serves a hop: the one named, or while that is down another of its engine toward the same module (R247). -/
def State.hopLink (s : State) (h : Nat × Nat) : Option Nat :=
  if (s.link h.1 h.2).st = .up then some h.2
  else
    match s.linkDecl h.1 h.2 with
    | none => none
    | some d => (List.range 8).find? fun j => decide ((s.link h.1 j).st = .up) && (match s.linkDecl h.1 j with | none => false | some x => x.pmod = d.pmod)

/-- The next hop of a packet from an issuer to a module: engine and link; none while no hop is in service. -/
def State.nextHop (s : State) (layout : U32) (m lregion unit : Nat) : Option (Nat × Nat) :=
  match s.routeEntry layout m with
  | none => none
  | some x =>
    let hops := x.hops.filterMap fun h => (s.hopLink h).map fun j => (h.1, j)
    if hops.isEmpty then none else hops[(lregion * 7 + unit) % hops.length]?

/-- The layout epoch whose tables route a packet: its own for a reduce, the current one for any other (R220). -/
def State.packetLayout (s : State) (p : Packet) : U32 := if p.vc = 2 then p.layout else s.cfg.layout

/-- The slot of an engine that names a module (R238). -/
def State.slotNaming (s : State) (e m : Nat) : Option Nat := (s.linkCourse.slots.find? fun x => x.1 = e && x.2.2 = m).map (·.2.1)

/-- A destination module that no route entry, or no partner slot of the entry's engines, serves (R238). -/
def State.unserved (s : State) (layout : U32) (m : Nat) : Bool :=
  match s.routeEntry layout m with
  | none => true
  | some x => !x.hops.any fun h => (s.slotNaming h.1 m).isSome

/-! Transport acknowledgements (R242, R243). -/

/-- A link can take a packet of a class now. -/
def State.linkTakes (s : State) (e j vc : Nat) : Bool :=
  let k := s.link e j
  decide (k.st = .up) && decide (1 ≤ k.cred.get 0 vc) && s.hasRoom e j

/-- A packet of a stream is acknowledged: below `CUM`, or selected. -/
def TAck.covers (a : TAck) (t : U32) : Bool :=
  decide (2 ^ 31 ≤ (t - a.cum).toNat) || (decide (1 ≤ (t - a.cum).toNat) && a.sel.getLsbD ((t - a.cum).toNat - 1))

/-- Key of a transmit stream. -/
def txKey (slot vc : Nat) : Nat := slot * 4 + vc

def State.onTx (s : State) (e k : Nat) (f : TxStream → TxStream) : State := s.onEng e fun x => { x with tx := x.tx.upd {} k f }

/-- The next hop of an acknowledgement, toward the source of its stream; this module's own streams return by the loopback alias (R238, R407; log entry 65). -/
def State.ackHop (s : State) (a : TAck) : Option (Nat × Nat) :=
  s.nextHop s.cfg.layout (if a.dmod.toNat = s.ownMod then s.linkCourse.loopMod else a.dmod.toNat) 0 0

/-- An acknowledgement leaves if its link has a credit for it. -/
def State.tryAck (s : State) (e : Nat) (a : TAck) : State :=
  match s.ackHop a with
  | none => s
  | some (e2, j) => if s.linkTakes e2 j 1 then (s.onEng e fun x => { x with acks := x.acks.erase a }).sendTAck e2 j a else s

/-- The acknowledgements an engine still has to send, in order. -/
def State.flushAcks (s : State) (e : Nat) : State := (s.engine e).acks.foldl (fun s a => s.tryAck e a) s

/-- Two acknowledgements of one stream. -/
def TAck.sameStream (a b : TAck) : Bool := a.dmod = b.dmod && a.amod = b.amod && a.vc = b.vc && a.slot = b.slot && a.eng = b.eng

/-- Send an acknowledgement; one of the same stream that still waits is merged into it (R242). -/
def State.putAck (s : State) (e : Nat) (a : TAck) : State :=
  (s.onEng e fun x => { x with acks := x.acks.filter (fun b => !TAck.sameStream a b) ++ [a] }).flushAcks e

/-- Most modules a packet may pass through. -/
def maxHops : Nat := 7

/-- An acknowledgement has come: the source keeps no packet that the destination has; one for another module is routed again, one hop further; a reserved hop count discards it (R239, R242, R243). -/
def State.takeAck (s : State) (e : Nat) (a : TAck) : State :=
  if maxHops < a.hops then s.logHealth { cls := 0x78, sub := a.amod.toNat, detail := 16 + a.hops * 2 ^ 8 }
  else if a.dmod.toNat = s.ownMod then
    s.onTx a.eng (txKey a.slot a.vc) fun x => { x with unacked := x.unacked.filter fun p => !TAck.covers a p.tseq }
  else if maxHops < a.hops + 1 then s.logHealth { cls := 0x78, sub := a.amod.toNat, detail := a.hops + 1 }
  else s.putAck e { a with hops := a.hops + 1 }

/-! The bits of a frame (Tables 6.4, 11.4, 11.5, 11.6). -/

/-- A field of a frame's control flit (Table 11.4). -/
def frameFld (f : Frame) (lo w : Nat) : Nat := fld f.ctl.toNat lo w

def frameType (f : Frame) : Nat := frameFld f 0 4
def frameSeq (f : Frame) : U16 := BitVec.ofNat 16 (frameFld f 8 16)
def frameAck (f : Frame) : U16 := BitVec.ofNat 16 (frameFld f 24 16)
def frameNak (f : Frame) : Bool := bitAt f.ctl.toNat 40
def frameCred (f : Frame) : List Nat := (List.range 4).map fun c => frameFld f (64 + 12 * c) 12

/-- `FCRC`: the CRC-32C over bytes 0x00 to 0x1B of the control flit and all 19 payload flits (R200, R234). -/
def frameCrcOk (f : Frame) : Bool :=
  frameFld f 224 32 = (crc32c (leBytes 28 f.ctl.toNat ++ f.flits.flatMap fun x => leBytes 32 x.toNat)).toNat

/-- Payload flits that hold packet data: `FVALID` bit i - 1 is for flit i (Table 11.4). -/
def frameFlits (f : Frame) : List (BitVec 256) :=
  ((List.range 19).filter fun i => bitAt f.ctl.toNat (41 + i)).filterMap fun i => f.flits[i]?

/-- `PLEN` of a header flit (Table 6.4). -/
def flitPlen (h : BitVec 256) : Nat := fld h.toNat 8 5

/-- Flits cut into packets, each a header with its payload flits, and the flits of one that a later frame ends (R234). -/
def cutFlits : Nat → List (BitVec 256) → List (List (BitVec 256)) × List (BitVec 256)
  | 0, l => ([], l)
  | _, [] => ([], [])
  | n + 1, h :: t =>
    if t.length < flitPlen h then ([], h :: t)
    else let r := cutFlits n (t.drop (flitPlen h)); ((h :: t.take (flitPlen h)) :: r.1, r.2)

/-- The packet that a header flit and its payload flits spell (Tables 6.4, 11.5), under its name. -/
def packetOfFlits (h : BitVec 256) (l : List (BitVec 256)) (x : PktName) : Packet :=
  let f := fld h.toNat
  { vc := f 0 2, prio := bitAt h.toNat 2, leg := bitAt h.toNat 3, kind := f 4 4, pidx := f 13 7, last := bitAt h.toNat 20, nflag := f 21 3
    hops := f 24 4, hkind := f 28 4, gaddr := BitVec.ofNat 64 (f 32 64), smod := f 96 16, slregion := f 112 6, skind := f 118 2, sunit := f 120 10, sctx := f 130 6
    ltok := f 136 9, ttok := f 145 9, count := f 154 16, cetag := f 183 8, layout := BitVec.ofNat 32 (f 192 32), tseq := BitVec.ofNat 32 (f 224 32)
    glen := if f 4 4 = 1 then f 170 13 + 1 else x.glen, payload := (l.flatMap fun y => leBytes 32 y.toNat).take x.bytes
    tag := x.tag, base := x.base, stampD := x.stampD, parts := x.parts, seng := x.seng, sslot := x.sslot }

/-- The transport acknowledgement that a flit spells (Table 11.6). -/
def tackOfFlit (h : BitVec 256) (x : PktName) : TAck :=
  let f := fld h.toNat
  { dmod := BitVec.ofNat 16 (f 32 16), amod := BitVec.ofNat 16 (f 48 16), vc := Fin.ofNat 4 (f 64 2), slot := Fin.ofNat 256 (f 66 8)
    cum := BitVec.ofNat 32 (f 96 32), sel := BitVec.ofNat 128 (f 128 128), hops := f 24 4, eng := Fin.ofNat 16 x.seng }

/-- `HKIND` of a header flit (Table 11.5). -/
def flitHkind (h : BitVec 256) : Nat := fld h.toNat 28 4

/-! Frames received (R234, R235). -/

/-- Ask for replay from the frame after the last good one, once until it comes (R235). -/
def State.askReplay (s : State) (e j : Nat) : State :=
  let k := s.link e j
  if k.nakSent then s else (s.onLink e j fun x => { x with nakSent := true }).emitOut (.frame e j (ackOnly k.fseq k.rxLast true []))

/-- Take the acknowledgement of a frame: what it covers is no longer kept (R235). -/
def LinkSt.ackTo (x : LinkSt) (fack : U16) : LinkSt :=
  match findIdx (fun f => f.seq = fack) x.outst 0 with
  | none => x
  | some i => { x with outst := x.outst.drop (i + 1) }

/-- Credits reported by a frame, one number a class (R237). -/
def LinkSt.credit (x : LinkSt) (c : List Nat) : LinkSt :=
  { x with cred := (List.range 4).foldl (fun (t : Tab Nat) i => t.upd 0 i (· + c.getD i 0)) x.cred }

/-- Frame types that take a new sequence number; idle and acknowledgement-only frames repeat the last (Table 11.4). -/
def sequenced (ftype : Nat) : Bool := ftype ≠ 1 && ftype ≠ 2

/-- One packet out of a frame: a transport acknowledgement is taken, any other packet waits to be judged (R239, R242). -/
def State.takeFlits (s : State) (e j : Nat) (l : List (BitVec 256)) (x : PktName) : State :=
  match l with
  | [] => s
  | h :: t =>
    if flitHkind h = 1 then (s.takeAck e (tackOfFlit h x)).freeBuf e j 1
    else s.onEng e fun y => { y with arrived := y.arrived ++ [(j, packetOfFlits h t x)] }

/-- The packets that a data frame completes, each under its name (R234). -/
def State.takeData (s : State) (e j : Nat) (f : Frame) : State :=
  let r := cutFlits 36 ((s.link e j).part ++ frameFlits f)
  (r.1.zipIdx).foldl (fun s y => s.takeFlits e j y.1 (f.names[y.2]?.getD { bytes := 32 * (y.1.length - 1) })) (s.onLink e j fun x => { x with part := r.2 })

/-- A frame in sequence gives up its credits and packets, and is acknowledged; any other is discarded and replay is asked for (R233, R235, R237). -/
def State.takeFrame (s : State) (e j : Nat) (f : Frame) : State :=
  let k := s.link e j
  if sequenced (frameType f) then
    if frameSeq f = k.rxLast + 1 then
      let s := s.onLink e j fun x => { (x.credit (frameCred f)) with rxLast := frameSeq f, nakSent := false, agreed := x.agreed || decide (frameType f = 3) }
      (if frameType f = 0 then s.takeData e j f else s).ackFrame e j
    else s.askReplay e j
  else if frameSeq f = k.rxLast then s.onLink e j fun x => x.credit (frameCred f)
  else s.askReplay e j

end Sys2Proof.Machine
end

