-- ==== Sys2Proof/Machine/Context.lean ====
section
/-! DEFINITION. The instructions of a context: the six remote operations, WAIT, EMIT, LAUNCH, LOOP and END (R84, R86 to R94, R98, R102, R109, R116, R252). -/

namespace Sys2Proof.Machine

/-- A remote operation as it issues: its fields after the strides of R252. -/
structure Issue where
  ctx : Nat
  pos : Nat
  q : Rmo
  gaddr : U64
  laddr : Nat
  deriving DecidableEq, Repr

/-- Iteration of the innermost enclosing loop, counted over the step; 0 outside every loop (R252). -/
def CtxSt.iter (x : CtxSt) : Nat :=
  match x.loops with
  | [] => 0
  | l :: _ => x.iters.get 0 l.head - 1

/-- Leave every loop whose body ends at the instruction counter: repeat it, or pop it and look at the next (R252). -/
def loopBack : List LoopFrame → CtxSt → CtxSt
  | [], x => { x with loops := [] }
  | l :: t, x =>
    if x.pc = l.head + l.body + 1 then
      if 1 < l.left then { x with pc := l.head + 1, loops := { l with left := l.left - 1 } :: t, iters := x.iters.upd 0 l.head (· + 1) }
      else loopBack t x
    else { x with loops := l :: t }

/-- Move past the instruction just issued. -/
def CtxSt.advance (x : CtxSt) : CtxSt := loopBack x.loops { x with pc := x.pc + 1 }

/-- What every issue of a context does: waits fall, the instruction counter moves, the emits leave, the round robin moves, and the micro-batch unit notes its firing (R93, R96, R252). -/
def State.issueCtx (s : State) (r c j : Nat) (i : CtxInstr) : State :=
  let pos := (s.ctx r c j).pc
  let s := s.takeWaits r c i.tr.waits
  let s := s.onCore r c fun x => { x with lastCtx := j }
  let s := s.mbNote r 0 c j pos
  let s := s.onCtx r c j CtxSt.advance
  s.sendEmits i.tr.emits

/-- Record number of an instruction for R278: context and position. -/
def ctxPoint (j pos : Nat) : Nat := 0x20000 + j * 4096 + pos

/-- The ready context of the core and its instruction, if the core may issue and the instruction is of the kind a command names. -/
def State.chosen (s : State) (r c : Nat) (kind : CtxOp → Bool) : Option (Nat × CtxInstr) :=
  if s.coreRuns r c then
    match s.pickCtx r c with
    | none => none
    | some j =>
      match s.nextInstr r c j with
      | none => none
      | some i => if kind i.op then some (j, i) else none
  else none

/-- Bytes of the local operand (Table 5.4). -/
def Issue.localBytes (x : Issue) : Nat := if x.q.op = 5 then 24 else 8 * x.q.len

/-- Bytes of the target range (Table 5.4): a binary16 source of a reduce-add or reduce-max covers twice its length. -/
def Issue.targetBytes (x : Issue) : Nat :=
  if x.q.op = 5 then 8
  else if (x.q.op = 2 ∨ x.q.op = 3) ∧ !x.q.sfmt then 16 * x.q.len else 8 * x.q.len

/-- The operation is within R84 and R86. -/
def Issue.legal (x : Issue) : Bool :=
  decide (x.q.op ≤ 5) && decide (1 ≤ x.q.len ∧ x.q.len ≤ 8192) && (decide (x.q.op ≠ 5) || decide (x.q.len = 1)) &&
  (!x.q.sfmt || decide (x.q.op = 2 ∨ x.q.op = 3)) && decide (x.laddr % 8 = 0) && decide (x.laddr + x.localBytes ≤ sramSize) && gLegal x.gaddr

/-- The operation with its strides applied; a stride that leaves the field wraps within it and is caught by R84 and R86. -/
def mkIssue (x : CtxSt) (j : Nat) (q : Rmo) : Issue :=
  let i : Int := x.iter
  { ctx := j, pos := x.pc, q := q
    gaddr := gWithOffset q.gaddr (((gOffset q.gaddr : Int) + i * q.gstr) % 2 ^ 25).toNat
    laddr := (((q.laddr : Int) + i * q.lstr) % 2 ^ 21).toNat }

/-- Direct operations travel through the vertical port (R102). -/
def State.isDirect (s : State) (r c : Nat) (x : Issue) : Bool :=
  decide (x.q.op ≤ 1) && s.isOwn (gMod x.gaddr) && decide (gRegion x.gaddr = r) && gSpace x.gaddr && decide (gIndex x.gaddr = c)

/-- Cut a payload into packets of up to 512 bytes, numbered from `k` (R116); `n` bounds their number. -/
def cutPackets (base : Packet) (off : Nat) : Nat → Nat → List Byte → List Packet
  | 0, _, _ => []
  | n + 1, k, b =>
    if b.length ≤ 512 then [{ base with pidx := k % 128, last := true, gaddr := gWithOffset base.gaddr (off + 512 * k), payload := b }]
    else { base with pidx := k % 128, last := false, gaddr := gWithOffset base.gaddr (off + 512 * k), payload := b.take 512 } ::
      cutPackets base off n (k + 1) (b.drop 512)

/-- Binary16 elements widened exactly to binary32 (R88, R116). -/
def widen16 : Nat → List Byte → List Byte
  | 0, _ => []
  | n + 1, b => leBytes 4 (convert b16 b32 (leNat (b.take 2))).1 ++ widen16 n (b.drop 2)

/-- Virtual channel of an operation (R116). -/
def opChannel (op : Nat) : Nat := if 2 ≤ op ∧ op ≤ 4 then 2 else 0

/-- The put of a declared relay: one word with its target token, into the consumer's word (R208). -/
def relayPut (y : Relay) (c : Nat) (x : Issue) : Bool :=
  y.core = c && y.ctx = x.ctx && x.q.op = 0 && x.q.len = 1 && decide (tokOf x.q.ttok = some y.dctr) && decide (x.gaddr = mkGaddr y.dmod y.dregion false y.dcore y.doff)

/-- An operation is that of a relay of the link course. -/
def State.isRelay (s : State) (r c : Nat) (x : Issue) : Bool := s.linkCourse.relays.any fun y => y.lregion = r && relayPut y c x

/-- The packets of an operation (R115, R116); a relay's put carries the step number (R208). -/
def State.packetsOf (s : State) (r c : Nat) (x : Issue) (tag : Nat) : List Packet :=
  let base : Packet :=
    { vc := opChannel x.q.op, prio := x.q.prio, kind := x.q.op, gaddr := x.gaddr, smod := s.ownMod, slregion := r, skind := 0, sunit := c, sctx := x.ctx
      ltok := x.q.ltok, ttok := x.q.ttok, glen := x.targetBytes / 8, tag := tag, base := gOffset x.gaddr
      layout := if opChannel x.q.op = 2 then s.coreEpoch r else 0, iter := (s.ctx r c x.ctx).iter }
  let local_ := if s.isRelay r c x then leBytes 8 s.run.step.toNat else s.readSram r c x.laddr (8 * x.q.len)
  match x.q.op with
  | 1 => [base]
  | 5 => [{ base with payload := s.readSram r c x.laddr 16 }]
  | 2 | 3 =>
    let b := if x.q.sfmt then local_ else widen16 (4 * x.q.len) local_
    cutPackets base (gOffset x.gaddr) 257 0 b
  | _ => cutPackets base (gOffset x.gaddr) 257 0 local_

/-- The unit that sent a packet, in the encoding of R130; a bridge channel has no code there. -/
def unitOf (p : Packet) : Nat := if p.skind = 0 then p.sunit else if p.skind = 1 then 0x0401 else if p.sunit < 128 then 0x0500 + p.sunit else 0xFFFF

/-- The rejecting region counts and logs an operation, and its issuer, if it is in this module, faults as illegal (R92). -/
def State.rejectOp (s : State) (rp : Nat) (p : Packet) : State :=
  let own := s.isOwn p.smod
  let s := s.count rp 0x2024 1
  let s := s.logHealth { cls := 0x72, pregion := rp, lregion := if own then p.slregion else 63, unit := if own then unitOf p else 0xFFFF,
                         sub := fld p.gaddr.toNat 32 16, detail := fld p.gaddr.toNat 0 32 }
  if own ∧ p.skind = 0 then s.illegal p.slregion p.sunit (ctxPoint p.sctx (p.tag % 4096)) else s

/-- Issue a legal operation: local words of a reduce are read at once, so it completes here; others stay outstanding (R91, R94). -/
def State.issueOp (s : State) (r c : Nat) (i : CtxInstr) (x : Issue) : State :=
  let tag := s.net.nextTag * 4096 + x.pos
  let ps := s.packetsOf r c x tag
  let direct := s.isDirect r c x
  let s := (s.issueCtx r c x.ctx i).onNet fun n => { n with nextTag := n.nextTag + 1 }
  if (if s.isOwn (gMod x.gaddr) then !s.inService (gRegion x.gaddr) else s.unserved (s.packetLayout (ps.headD {})) (gMod x.gaddr)) then
    s.rejectOp ((s.phys r).getD 63) (ps.headD {})
  else
    let s := s.onCore r c fun y => if direct then { y with port := y.port ++ ps } else { y with outq := y.outq ++ ps }
    if opChannel x.q.op = 2 then s.arriveTok r c x.q.ltok 1
    else
      let left := if x.q.op = 1 then ceilDiv (8 * x.q.len) 512 else 1
      s.onCtx r c x.ctx fun y => { y with outst := y.outst ++
        [{ tag := tag, kind := x.q.op, left := left, ltok := x.q.ltok, laddr := x.laddr, gaddr := x.gaddr }] }

/-- A remote-operation instruction of opcode `op` issues from the chosen context, or faults its core as illegal once the event queue has room for the report (R84, R86, R93, R132). -/
def State.execRmo (s : State) (r c op : Nat) : State :=
  match s.chosen r c (fun o => match o with | .rmo q => q.op = op | _ => false) with
  | some (j, i) =>
    match i.op with
    | .rmo q =>
      let x := mkIssue (s.ctx r c j) j q
      if x.legal then (s.issueOp r c i x).progress r
      else if s.maySend r c true then s.illegal r c (ctxPoint j x.pos)
      else s
    | _ => s
  | none => s

/-- A chosen instruction with a reserved opcode faults its core whichever remote operation is commanded (R86); its report waits for room in the event queue (R132). -/
def State.execRmoOrReserved (s : State) (r c op : Nat) : State :=
  match s.chosen r c (fun o => match o with | .rmo q => decide (5 < q.op) | _ => false) with
  | some (j, _) => if s.maySend r c true then s.illegal r c (ctxPoint j (s.ctx r c j).pc) else s
  | none => s.execRmo r c op

/-- PUT (R87). -/
def execPut (r : Region) (c : Core) (s : State) : Ans := .next (s.execRmoOrReserved r c 0)
/-- GET (R87). -/
def execGet (r : Region) (c : Core) (s : State) : Ans := .next (s.execRmoOrReserved r c 1)
/-- REDUCE_ADD (R88). -/
def execReduceAdd (r : Region) (c : Core) (s : State) : Ans := .next (s.execRmoOrReserved r c 2)
/-- REDUCE_MAX (R88). -/
def execReduceMax (r : Region) (c : Core) (s : State) : Ans := .next (s.execRmoOrReserved r c 3)
/-- REDUCE_XOR (R87). -/
def execReduceXor (r : Region) (c : Core) (s : State) : Ans := .next (s.execRmoOrReserved r c 4)
/-- COMPARE_AND_SWAP (R87). -/
def execCompareAndSwap (r : Region) (c : Core) (s : State) : Ans := .next (s.execRmoOrReserved r c 5)

/-- WAIT (R252): its waits are taken. -/
def execWait (r : Region) (c : Core) (s : State) : Ans :=
  match s.chosen r c (fun o => match o with | .wait => true | _ => false) with
  | some (j, i) => .next ((s.issueCtx r c j i).progress r)
  | none => .next s

/-- EMIT (R98): its emits leave on the batten network. -/
def execEmit (r : Region) (c : Core) (s : State) : Ans :=
  match s.chosen r c (fun o => match o with | .emit => true | _ => false) with
  | some (j, i) => .next ((s.issueCtx r c j i).progress r)
  | none => .next s

/-- The region's launch lead in beats (R109, Table 6.8). -/
def State.launchLead (s : State) (r : Nat) : Nat :=
  match s.phys r with
  | none => 512
  | some p => fld (s.setting (rgnBase p + 0x2040)).toNat 0 10

/-- LAUNCH (R109): the sequence starts `LEAD` beats from now; the launch goes to every core of the region. -/
def execLaunch (r : Region) (c : Core) (s : State) : Ans :=
  match s.chosen r c (fun o => match o with | .launch _ => true | _ => false) with
  | some (j, i) =>
    match i.op with
    | .launch q =>
      let start := ((s.reg ((s.phys r).getD 63)).beat.toNat + s.launchLead r) % 2 ^ 48
      let s := s.issueCtx r c j i
      .next ((s.onBat fun b => { b with launches := b.launches ++ (s.courseCores r).map fun k => ⟨r, k, q, start⟩ }).progress r)
    | _ => .next s
  | none => .next s

/-- Enter a loop: its body repeats `count` times; a fifth level is illegal (R252, log entry 25). -/
def CtxSt.enter (x : CtxSt) (head count body : Nat) : CtxSt :=
  { x with loops := { head := head, body := body, left := count } :: x.loops, iters := x.iters.upd 0 head (· + 1), pc := head + 1 }

/-- LOOP (R252). -/
def execLoop (r : Region) (c : Core) (s : State) : Ans :=
  match s.chosen r c (fun o => match o with | .loop _ _ => true | _ => false) with
  | some (j, i) =>
    match i.op with
    | .loop n b =>
      let x := s.ctx r c j
      if 4 ≤ x.loops.length then .next (if s.maySend r c true then s.illegal r c (ctxPoint j x.pc) else s)
      else
        let s := (s.takeWaits r c i.tr.waits).onCore r c fun y => { y with lastCtx := j }
        .next (((s.onCtx r c j fun y => y.enter x.pc n b).sendEmits i.tr.emits).progress r)
    | _ => .next s
  | none => .next s

/-- END (R252): the context has ended for the step. -/
def execEndProg (r : Region) (c : Core) (s : State) : Ans :=
  match s.chosen r c (fun o => match o with | .stop => true | _ => false) with
  | some (j, i) =>
    let s := s.issueCtx r c j i
    .next ((s.onCtx r c j fun x => { x with ended := true }).progress r)
  | none => .next s

end Sys2Proof.Machine
end

