-- ==== Sys2Proof/Machine/Vector.lean ====
section
/-! DEFINITION. The vector engine: lane groups, stages, streams, the reduction tree and the chain's record (R65 to R74, R76 to R80). -/

namespace Sys2Proof.Machine

/-- A value inside a chain with its first event: cause of Table 4.8 and stage, cause 0 for none. -/
structure VVal where
  v : Fp
  cause : Nat := 0
  stage : Nat := 0
  deriving DecidableEq, Repr

/-- Flags a chain gathers (R79). -/
structure VFlags where
  nfi : Bool := false
  inv : Bool := false
  ovf : Bool := false
  deriving DecidableEq, Repr

def VFlags.or (a b : VFlags) : VFlags := ⟨a.nfi || b.nfi, a.inv || b.inv, a.ovf || b.ovf⟩

/-! Legality (R67, R68, R70). -/

/-- Operands a stage operation reads: A, B, C (Table 4.2). -/
def stageReads (op : Nat) : Bool × Bool × Bool :=
  match op with
  | 1 | 2 | 3 | 5 | 6 => (true, true, false)
  | 4 | 9 => (true, true, true)
  | _ => (true, false, false)

/-- A selector that names an input stream below `NIN` or a stage below `s` (R68). -/
def selOk (nin s sel : Nat) : Bool := decide (sel < 8 ∧ sel < nin) || decide (8 ≤ sel ∧ sel < 15 ∧ sel - 8 < s)

/-- A stage without a reserved value: `OP` and `FUN` defined, every operand it reads named, every other selector 15 or one R68 allows (R67, R68, R76; the fault for a selector or an `OSRC` that breaks R68: log entry 130). -/
def stageOk (nin s : Nat) (g : Stage) : Bool :=
  let (a, b, c) := stageReads g.op
  let ok (reads : Bool) (sel : Nat) : Bool := selOk nin s sel || (!reads && decide (sel = 15))
  decide (g.op ≤ 11) && decide (g.fn ≤ 9) && ok a g.a && ok b g.b && ok c g.c

/-- Extent of the stored matrix a stream touches (R70). -/
def streamExtent (rows cols bc : Nat) (tr : Bool) : Nat × Nat :=
  let r := if bc = 2 ∨ bc = 3 then 1 else rows
  let c := if bc = 1 ∨ bc = 3 then 1 else cols
  if tr then (c, r) else (r, c)

/-- A stream's fields are in range (Table 4.3). -/
def streamFields (st : Stream) : Bool := decide (st.base ≤ 639) && decide (1 ≤ st.pitch ∧ st.pitch ≤ 640)

/-- A stream's blocks lie within the slots in firing `f`, a binary32 stream's at even ones (R67, R70). -/
def streamFits (st : Stream) (f rows cols : Nat) : Bool :=
  let b := firingBase st.base st.adv st.wrap f
  let (er, ec) := streamExtent rows cols st.bc st.tr
  (!st.sfmt || decide (b % 2 = 0)) && decide (blockSlot st.sfmt b st.pitch ((er - 1) / 32) ((ec - 1) / 32) + blockSlots st.sfmt ≤ 640)

/-- Slots the tree results need from `RDST` (R74). -/
def treeSlots (ch : Chain) : Nat := if ch.rscope = 2 then ceilDiv ch.rows 32 * 2 else 2

/-- No reserved value in a chain (R67, R68); a binary32 output stream of a binary16 chain is allowed, as R66 and Table 4.4 have it (log entry 128). -/
def chainFields (ch : Chain) : Bool :=
  decide (ch.nin ≤ 8) && decide (ch.nout ≤ 2) && decide (ch.rscope ≤ 2) && decide (ch.rdst % 2 = 0 ∧ ch.rdst ≤ 638) &&
  (List.range ch.nst).all (fun s => stageOk ch.nin s (ch.stages.getD s {})) &&
  (List.range ch.nin).all (fun i => streamFields (ch.ins.getD i {})) &&
  (List.range ch.nout).all (fun i =>
    let st := ch.outs.getD i {}
    streamFields st && decide (st.bc = 0) && decide (st.osrc < ch.nst))

/-- No stream past the last slot in firing `f` (R67), nor the tree results (R74; log entry 129). -/
def chainFits (ch : Chain) (f : Nat) : Bool :=
  (decide (ch.rscope = 0) || decide (ch.rdst + treeSlots ch ≤ 640)) &&
  (List.range ch.nin).all (fun i => streamFits (ch.ins.getD i {}) f ch.rows ch.cols) &&
  (List.range ch.nout).all (fun i => streamFits (ch.outs.getD i {}) f ch.rows ch.cols)

/-- A chain that may run (R67). -/
def chainLegal (ch : Chain) (f : Nat) : Bool := chainFields ch && chainFits ch f

/-! Streams. -/

/-- SRAM offset of view element (row, col) of a stream in firing `f` (R70). -/
def streamOff (st : Stream) (f row col : Nat) : Nat :=
  let r := if st.bc = 2 ∨ st.bc = 3 then 0 else row
  let c := if st.bc = 1 ∨ st.bc = 3 then 0 else col
  let b := firingBase st.base st.adv st.wrap f
  if st.tr then matOff st.sfmt b st.pitch c r else matOff st.sfmt b st.pitch r c

/-- Read an element: its value at the chain's issue, or, where the chain has overwritten it since, either (R71, log entry 20); a scalar stream was read once, before the first lane group (R72). -/
def State.readStream (s old : State) (r c : Nat) (f32 : Bool) (off : Nat) (scalar : Bool) : Nat × State :=
  let a := old.readElem r c f32 off
  let b := s.readElem r c f32 off
  if scalar ∨ a = b then (a, s) else (if Config.overlapNew s.free then b else a, { s with free := s.free + 1 })

/-- An input element in the chain's format (R66). -/
def inputVal (vfmt sfmt : Bool) (w : Nat) : VVal × VFlags :=
  let x := Fp.ofBits (fmtOf sfmt) w
  if x.nonFinite then ({ v := x, cause := 1 }, { nfi := true })
  else if sfmt && !vfmt then
    let (b, o) := x.toBits b16
    ({ v := Fp.ofBits b16 b, cause := if o then 6 else 0 }, { ovf := o })
  else ({ v := x }, {})

/-! Stages. -/

/-- `SEL` takes A: C is greater than +0 (R69). -/
def selTakesA (c : Fp) : Bool :=
  match c with
  | .fin false m _ => decide (m ≠ 0)
  | .inf false => true
  | _ => false

/-- Result of one stage operation on its operands: value, invalid, overflow, pole (R69, R76). -/
def stageFn (f : Fmt) (g : Stage) (a b c : Fp) : FnRes :=
  let fr (x : Fr) : FnRes := { v := x.v, inv := x.inv, ovf := x.ovf }
  match g.op with
  | 0 => { v := a }
  | 1 => fr (fpAdd f a b)
  | 2 => fr (fpSub f a b)
  | 3 => fr (fpMul f a b)
  | 4 => fr (fpFma f a b c)
  | 5 => { v := fpMax a b }
  | 6 => { v := fpMin a b }
  | 7 => { v := match a with | .fin _ m e => .fin false m e | .inf _ => .inf false | .nan => .nan }
  | 8 => { v := a.negate }
  | 9 => { v := if selTakesA c then a else b }
  | 10 => fnEval f g.fn false a
  | _ => fnEval f g.fn true a

/-- Where a value's event arose, earliest first: a stream, then the stages in order, then the tree. -/
def VVal.rank (x : VVal) : Nat := if x.cause = 1 ∨ x.cause = 6 then 0 else if x.cause = 5 then 9 else x.stage + 1

/-- The earliest event among the non-finite operands of a result, the first operand's where two rank alike (R79, log entry 21). -/
def earliest : List VVal → Option VVal
  | [] => none
  | x :: t =>
    if x.v.nonFinite ∧ x.cause ≠ 0 then
      match earliest t with
      | some y => if y.rank < x.rank then some y else some x
      | none => some x
    else earliest t

/-- The operands a result takes its value from: the chosen one of `SEL`, the one that `MAX` or `MIN` returns, every one of another operation (R69, R79). -/
def eventOps (op : Nat) (r : Fp) (a b c : VVal) : List VVal :=
  match op with
  | 5 | 6 => [a, b].filter (·.v = r)
  | 9 => [if selTakesA c.v then a else b]
  | _ => [a, b, c]

/-- The first event that a non-finite result carries: the earliest of the operands it comes from, else the stage's own (R79, log entry 21). -/
def stageVal (f : Fmt) (n : Nat) (g : Stage) (a b c : VVal) : VVal × VFlags :=
  let r := stageFn f g a.v b.v c.v
  let own := if r.inv then 2 else if r.ovf then 3 else if r.pole then 4 else 0
  let (cause, st) :=
    if !r.v.nonFinite then (0, 0)
    else match earliest (eventOps g.op r.v a b c) with
      | some x => (x.cause, x.stage)
      | none => (own, n)
  ({ v := r.v, cause := cause, stage := st }, { inv := r.inv, ovf := r.ovf })

/-- The operand that a selector names. -/
def selVal (ins stages : List VVal) (sel : Nat) : VVal :=
  if sel < 8 then ins.getD sel { v := .fin false 0 0 } else stages.getD (sel - 8) { v := .fin false 0 0 }

/-- Run the stages of one element: every stage's result, and the flags. -/
def runStages (f : Fmt) (ins : List VVal) : List Stage → List VVal → VFlags → List VVal × VFlags
  | [], done, fl => (done, fl)
  | g :: t, done, fl =>
    let (reads, readb, readc) := stageReads g.op
    let z : VVal := { v := .fin false 0 0 }
    let (v, x) := stageVal f done.length g (if reads then selVal ins done g.a else z) (if readb then selVal ins done g.b else z)
      (if readc then selVal ins done g.c else z)
    runStages f ins t (done ++ [v]) (fl.or x)

/-! The reduction tree (R74). -/

/-- Combine two tree values. -/
def treeOp (rop : Nat) (a b : VVal) : VVal × VFlags :=
  let r : FnRes :=
    match rop with
    | 2 => { v := fpMax a.v b.v }
    | 3 => { v := fpMin a.v b.v }
    | _ => let x := fpAdd b32 a.v b.v; { v := x.v, inv := x.inv, ovf := x.ovf }
  let (cause, st) :=
    if !r.v.nonFinite then (0, 0)
    else match earliest (eventOps (if rop = 2 ∨ rop = 3 then 5 else 1) r.v a b { v := .fin false 0 0 }) with
      | some x => (x.cause, x.stage)
      | none => (5, 0)
  ({ v := r.v, cause := cause, stage := if cause = 5 then 0 else st }, { inv := r.inv, ovf := r.ovf })

/-- A value as it enters the tree: squared for a sum of squares (R74). -/
def treeIn (rop : Nat) (a : VVal) : VVal × VFlags :=
  if rop = 1 then
    let x := fpMul b32 a.v a.v
    ({ v := x.v, cause := if a.v.nonFinite then a.cause else if x.v.nonFinite then 5 else 0, stage := a.stage }, { ovf := x.ovf })
  else (a, {})

/-- Combine two lanes; a masked lane passes its partner through. -/
def treePair (rop : Nat) (a b : Option VVal) : Option VVal × VFlags :=
  match a, b with
  | some x, some y => let (v, f) := treeOp rop x y; (some v, f)
  | some x, none => (some x, {})
  | none, y => (y, {})

/-- One level: neighbours 2m and 2m + 1. -/
def treeLevel (rop : Nat) : List (Option VVal) → List (Option VVal) × VFlags
  | a :: b :: t =>
    let (v, f) := treePair rop a b
    let (l, g) := treeLevel rop t
    (v :: l, f.or g)
  | l => (l, {})

/-- `n` levels over the lanes. -/
def treeLevels (rop : Nat) : Nat → List (Option VVal) → VFlags → Option VVal × VFlags
  | 0, l, f => ((l.head?).join, f)
  | n + 1, l, f => let (l', g) := treeLevel rop l; treeLevels rop n l' (f.or g)

/-! A whole chain. -/

/-- First non-finite written value so far: lane group, stream (2 for a tree result), lane, cause and stage. -/
structure VFirst where
  group : Nat
  stream : Nat
  lane : Nat
  cause : Nat
  stage : Nat
  deriving DecidableEq, Repr

/-- A chain in progress. -/
structure VProg where
  fl : VFlags := {}
  first : Option VFirst := none
  cnt : Nat := 0
  accs : Tab (Option VVal) := []          -- tree accumulators by result number
  last : Tab Nat := []                    -- lane group last combined into a result
  held : List (Nat × List Byte) := []     -- the last lane group's writes
  deriving DecidableEq, Repr

/-- A written value that is not finite is counted, and noted if it is the first in the order of R79. -/
def VProg.note (p : VProg) (x : VFirst) : VProg :=
  let before (a b : VFirst) : Bool :=
    a.group < b.group || (a.group == b.group && (a.stream < b.stream || (a.stream == b.stream && a.lane < b.lane)))
  { p with
    cnt := p.cnt + 1
    first := match p.first with
      | none => some x
      | some y => if before x y then some x else some y }

/-- Lanes of lane group (i, j): lane, row and column of each unmasked lane (R65). -/
def laneGroup (ch : Chain) (i j : Nat) : List (Option (Nat × Nat)) :=
  (List.range (if ch.vfmt then 32 else 64)).map fun l =>
    let row := if ch.vfmt then i else 2 * i + l / 32
    let col := 32 * j + l % 32
    if row < ch.rows ∧ col < ch.cols then some (row, col) else none

/-- Lane-group columns and rows of a chain's view (R65). -/
def groupCols (ch : Chain) : Nat := ceilDiv ch.cols 32
def groupRows (ch : Chain) : Nat := if ch.vfmt then ch.rows else ceilDiv ch.rows 2

/-- Read the input streams of one element. -/
def State.readInputs (old : State) (r c : Nat) (ch : Chain) (f row col : Nat) :
    List Stream → State → List VVal → VFlags → List VVal × VFlags × State
  | [], s, vs, fl => (vs, fl, s)
  | st :: t, s, vs, fl =>
    let (w, s) := s.readStream old r c st.sfmt (streamOff st f row col) (decide (st.bc = 3))
    let (v, x) := inputVal ch.vfmt st.sfmt w
    old.readInputs r c ch f row col t s (vs ++ [v]) (fl.or x)

/-- Read and compute the lanes of a group: per lane its place and every stage's result. -/
def State.runLanes (old : State) (r c : Nat) (ch : Chain) (f : Nat) :
    List (Option (Nat × Nat)) → State → VFlags → List (Option (Nat × Nat × List VVal)) × VFlags × State
  | [], s, fl => ([], fl, s)
  | none :: t, s, fl =>
    let (l, fl, s) := old.runLanes r c ch f t s fl
    (none :: l, fl, s)
  | some (row, col) :: t, s, fl =>
    let (ins, fl, s) := old.readInputs r c ch f row col (ch.ins.take ch.nin) s [] fl
    let (res, fl) := runStages (fmtOf ch.vfmt) ins (ch.stages.take ch.nst) [] fl
    let (l, fl, s) := old.runLanes r c ch f t s fl
    (some (row, col, res) :: l, fl, s)

/-- One output element: its bits, and whether the conversion overflowed (R66). -/
def outElem (st : Stream) (v : VVal) : Nat × VVal × Bool :=
  let (w, o) := v.v.toBits (fmtOf st.sfmt)
  let x := Fp.ofBits (fmtOf st.sfmt) w
  (w, { v := x, cause := if v.v.nonFinite then v.cause else if o then 7 else 0, stage := if v.v.nonFinite && v.cause ≠ 1 && v.cause ≠ 5 && v.cause ≠ 6 then v.stage else 0 }, o)

/-- Writes of output stream `k` for the lanes of a group, noting what is not finite. -/
def groupWrites (ch : Chain) (f g k : Nat) (st : Stream) :
    List (Option (Nat × Nat × List VVal)) → Nat → VProg → List (Nat × List Byte) × VProg
  | [], _, p => ([], p)
  | none :: t, l, p => groupWrites ch f g k st t (l + 1) p
  | some (row, col, res) :: t, l, p =>
    let (w, v, o) := outElem st (res.getD st.osrc { v := .fin false 0 0 })
    let p := { p with fl := p.fl.or { ovf := o } }
    let p := if v.v.nonFinite then p.note ⟨g, k, l, v.cause, v.stage⟩ else p
    let (ws, p) := groupWrites ch f g k st t (l + 1) p
    ((streamOff st f row col, leBytes (if st.sfmt then 4 else 2) w) :: ws, p)

/-- Combine a group's tree value into the accumulator of its result (R74). -/
def VProg.combine (p : VProg) (rop res g : Nat) (v : Option VVal) (fl : VFlags) : VProg :=
  match v with
  | none => p
  | some x =>
    let (y, fl2) := match p.accs.get none res with
      | none => (x, ({} : VFlags))
      | some a => treeOp rop a x
    { p with accs := p.accs.set none res (some y), last := p.last.set 0 res g, fl := (p.fl.or fl).or fl2 }

/-- The tree over one lane group (R74). -/
def groupTree (ch : Chain) (i g : Nat) (lanes : List (Option (Nat × Nat × List VVal))) (p : VProg) : VProg :=
  if ch.rscope = 0 then p
  else
    let ins := lanes.map fun x =>
      match x with
      | none => (none, ({} : VFlags))
      | some (_, _, res) => let (v, f) := treeIn ch.rop (res.getD (ch.nst - 1) { v := .fin false 0 0 }); (some v, f)
    let fl : VFlags := ins.foldl (fun (a : VFlags) x => a.or x.2) ({} : VFlags)
    let vs := ins.map (·.1)
    if ch.vfmt then
      let (v, f) := treeLevels ch.rop 5 vs fl
      p.combine ch.rop (if ch.rscope = 2 then i else 0) g v f
    else if ch.rscope = 1 then
      let (v, f) := treeLevels ch.rop 6 vs fl
      p.combine ch.rop 0 g v f
    else
      let (v, f) := treeLevels ch.rop 5 (vs.take 32) fl
      let (w, f2) := treeLevels ch.rop 5 (vs.drop 32) {}
      (p.combine ch.rop (2 * i) g v f).combine ch.rop (2 * i + 1) g w f2

/-- One lane group: read, compute, write (the last group's writes are held until the chain completes, log entry 19); where both outputs write one element, output 1's value stays (log entry 131). -/
def State.runGroup (old : State) (r c : Nat) (ch : Chain) (f g total : Nat) (sp : State × VProg) : State × VProg :=
  let (s, p) := sp
  let i := g / groupCols ch
  let j := g % groupCols ch
  let (lanes, fl, s) := old.runLanes r c ch f (laneGroup ch i j) s {}
  let p := { p with fl := p.fl.or fl }
  let (w0, p) := if 1 ≤ ch.nout then groupWrites ch f g 0 (ch.outs.getD 0 {}) lanes 0 p else ([], p)
  let (w1, p) := if 2 ≤ ch.nout then groupWrites ch f g 1 (ch.outs.getD 1 {}) lanes 0 p else ([], p)
  let p := groupTree ch i g lanes p
  if g + 1 = total then (s, { p with held := w0 ++ w1 })
  else ((w0 ++ w1).foldl (fun s w => s.writeSram r c w.1 w.2) s, p)

/-- Writes of the tree results, noting what is not finite (R74, R79); a result's lane-group index is that of the last group combined into it (log entry 127). -/
def treeWrites (ch : Chain) : Tab (Option VVal) → VProg → List (Nat × List Byte) × VProg
  | [], p => ([], p)
  | (res, v) :: t, p =>
    match v with
    | none => treeWrites ch t p
    | some x =>
      let off := matOff true ch.rdst 1 res 0
      let w := (x.v.toBits b32).1
      let p := if x.v.nonFinite then p.note ⟨p.last.get 0 res, 2, 0, x.cause, x.stage⟩ else p
      let (ws, p) := treeWrites ch t p
      ((off, leBytes 4 w) :: ws, p)

/-- The chain's record (R79); `OUTF` is 0 where there is no output stream 0 (log entry 126). -/
def chainRecord (ch : Chain) (p : VProg) : U32 × U32 :=
  let fl := flags4 p.fl.nfi p.fl.inv p.fl.ovf (decide (p.cnt ≠ 0))
  let outf := (ch.outs.getD 0 {}).sfmt
  match p.first with
  | none => (recWord0 fl ch.vfmt outf ch.grad 0 0 0, recWord1 0xFFFFFF 0)
  | some x =>
    let st := if x.cause = 2 ∨ x.cause = 3 ∨ x.cause = 4 then x.stage else 0
    (recWord0 fl ch.vfmt outf ch.grad (if x.stream = 2 then 0 else x.lane) x.cause (min p.cnt 1023), recWord1 (min x.group 0xFFFFFE) st)

/-- SRAM words per lane group of a stream (Table 4.4). -/
def streamWords (vfmt : Bool) (st : Stream) : Nat :=
  match st.bc with
  | 0 => if vfmt then (if st.sfmt then 16 else 8) else (if st.sfmt then 32 else 16)
  | 2 => if st.sfmt then 16 else 8
  | 1 => if vfmt then 1 else 2
  | _ => 0

/-- Issue chain `i` in firing `f` (R73). The tree's results are written after the streams: where their target overlaps an output stream and the chain runs, the tree's value stays, and an input stream that overlaps it reads what stood there before the firing (R71; log entry 151). -/
def State.issueChain (s : State) (r c i : Nat) (ch : Chain) (f : Nat) : State :=
  let pr := (s.phys r).getD 63
  let s := (s.takeWaits r c ch.tr.waits).mbNote r 2 c i 0
  let total := groupRows ch * groupCols ch
  let (s, p) := loopN (s.runGroup r c ch f · total) total (s, {})
  let (tw, p) := treeWrites ch p.accs p
  let w := chainRecord ch p
  let words := ((ch.ins.take ch.nin) ++ (ch.outs.take ch.nout)).foldl (fun n st => n + streamWords ch.vfmt st) 0
  let s := s.onCore r c fun x => { x with
    chainFired := x.chainFired.set 0 i (f + 1)
    vec := some { chain := i, writes := p.held ++ tw, w0 := w.1, w1 := w.2, mbatch := s.mbNow r } }
  (s.count pr 0x2010 total).count pr 0x2014 (ceilDiv (total * words) 32 - total)

/-- VECTOR_CHAIN_ISSUE (R73): when the vector engine is free, the ready chain that R60 chooses issues, or faults its core as illegal (R67). -/
def execVectorChainIssue (r : Region) (c : Core) (s : State) : Ans :=
  if s.coreRuns r c && (s.core r c).vec.isNone then
    match pickUnit (s.unsplit r) (s.readyChains r c) with
    | none => .next s
    | some i =>
      match (s.coreCourse r c).chains[i]? with
      | none => .next s
      | some ch =>
        let f := (s.core r c).chainFired.get 0 i
        if chainLegal ch f then .next (s.issueChain r c i ch f)
        else if s.maySend r c true then .next (s.illegal r c (0x10000 + i))
        else .next s
  else .next s

/-- VECTOR_CHAIN_COMPLETE (R79): the last writes reach SRAM, the record and the completion emits follow, and the engine is free (R73); it stalls while what it would send overruns the event queue (R132). -/
def execVectorChainComplete (r : Region) (c : Core) (s : State) : Ans :=
  match (s.core r c).vec with
  | none => .next s
  | some v =>
    match (s.coreCourse r c).chains[v.chain]? with
    | none => .next s
    | some ch =>
      if s.maySend r c (!ch.tr.emits.isEmpty) then
        let s := v.writes.foldl (fun s w => s.writeSram r c w.1 w.2) s
        let s := s.onCore r c fun x => { x with vec := none }
        let s := s.sendRecord r c v.mbatch ch.tileId v.w0 v.w1
        .next ((s.sendEmits ch.tr.emits).progress r)
      else .next s

end Sys2Proof.Machine
end

