-- ==== Sys2Proof/Machine/Wiring.lean ====
section
/-! DEFINITION. The wiring of an image executed on counts alone, for one step of every declared micro-batch (R266), and what withheld tokens hold back (R110, R162, R219). -/

namespace Sys2Proof.Machine

/-! Lookups in an image that is not in force. -/

/-- The course of a logical region in an image. -/
def imgCourse (i : Image) (r : Nat) : RegionCourse := ((i.regions.find? fun x => x.1 = r).map (·.2)).getD {}

/-- The shards of a logical region in an image. -/
def imgShards (i : Image) (r : Nat) : List Shard :=
  (((i.press.getD {}).regions.find? fun x => x.lregion = r).map (·.shards)).getD []

/-- The cores of a region course. -/
def courseOf (rc : RegionCourse) (c : Nat) : CoreCourse := (rc.cores.find? fun x => x.core = c).getD { core := c }

/-- A module number of an image names its own module (R84). -/
def imgOwn (i : Image) (m : Nat) : Bool := decide (m = 0xFFFF) || decide (m = (i.link.getD {}).mod)

/-- Micro-batches of the step course. -/
def imgMb (i : Image) : Nat := (i.step.getD {}).mb

/-- Runs of a line list, as bank, first line and count. -/
def lineRuns (rc : RegionCourse) (l : Nat) : List (Nat × Nat × Nat) :=
  (rc.lists.getD l []).filterMap fun k => (rc.runs[k]?).map fun u => (u.bank, u.first, u.count)

/-- A line is among runs. -/
def inRuns (l : List (Nat × Nat × Nat)) (bank line : Nat) : Bool := l.any fun x => decide (x.1 = bank ∧ x.2.1 ≤ line ∧ line < x.2.1 + x.2.2)

/-- Runs of a copy of a shard. -/
def copyRuns (rc : RegionCourse) (sh : Shard) (copy : Nat) : List (Nat × Nat × Nat) :=
  match (sh.runs[copy]?).join with
  | none => []
  | some l => lineRuns rc l

/-- The shard of a region whose copy holds a line. -/
def shardAt (i : Image) (r copy bank line : Nat) : Option Nat :=
  let rc := imgCourse i r
  findIdx (fun sh => inRuns (copyRuns rc sh copy) bank line) (imgShards i r) 0

/-! What a program issues. -/

/-- The remote operations that a program issues when every wait is met, in order; `n` bounds the instructions run. -/
def traceOps (prog : List CtxInstr) (j : Nat) : Nat → CtxSt → List Issue
  | 0, _ => []
  | n + 1, x =>
    match prog[x.pc]? with
    | none => []
    | some i =>
      match i.op with
      | .stop => []
      | .loop c b => if 4 ≤ x.loops.length then [] else traceOps prog j n (x.enter x.pc c b)
      | .rmo q => mkIssue x j q :: traceOps prog j n x.advance
      | _ => traceOps prog j n x.advance

/-- More instructions than any program can run in a step: four nested loops of 65,536 over 4,096 records. -/
def traceFuel : Nat := 2 ^ 77

/-- Every remote operation of a region course, with its core. -/
def courseIssues (rc : RegionCourse) : List (Nat × Issue) :=
  rc.cores.flatMap fun c => c.progs.flatMap fun p => (traceOps p.2 p.1 traceFuel {}).map fun x => (c.core, x)

/-- Every remote operation of an image, with its region and core. -/
def imgIssues (i : Image) : List (Nat × Nat × Issue) := i.regions.flatMap fun x => (courseIssues x.2).map fun y => (x.1, y.1, y.2)

/-- Lines of a store target range: bank, first line and count. -/
def Issue.lines (x : Issue) : Nat × Nat × Nat :=
  let o := gOffset x.gaddr
  (gIndex x.gaddr, o / 2048, (o + x.targetBytes - 1) / 2048 + 1 - o / 2048)

/-- The shard that an operation of this image contributes to: a reduce-add into master lines of its own module (R163). -/
def contribOf (i : Image) (x : Issue) : Option (Nat × Nat) :=
  if x.q.op = 2 ∧ imgOwn i (gMod x.gaddr) ∧ gSpace x.gaddr then
    (shardAt i (gRegion x.gaddr) copyMaster x.lines.1 x.lines.2.1).map fun k => (gRegion x.gaddr, k)
  else none

/-- Packets of an operation: a reduce counts once for each (R116). -/
def Issue.packets (x : Issue) : Nat := if 2 ≤ x.q.op ∧ x.q.op ≤ 4 then ceilDiv x.targetBytes 512 else 1

/-! The run. -/

/-- What a run may withhold: an earlier shard's free emits, a shard's ready emits, the tokens of a sequence, or every micro-batch from one on. -/
inductive Withheld where
  | nothing
  | frees (r k : Nat)
  | ready (r k : Nat)
  | sequence (r q : Nat)
  | microBatch (c : Nat)
  deriving DecidableEq, Repr

/-- Counts of a run: counters by unit, firings, contexts, contributions issued by shard, updates, firings of micro-batch units; what has been sent to, read or launched; and the number of firings so far. -/
structure Wiring where
  ctrs : Tab Nat := []
  tiles : Tab Nat := []
  chains : Tab Nat := []
  ctxs : Tab CtxSt := []
  contrib : Tab Nat := []
  updated : Tab Bool := []
  mbs : Tab Nat := []
  read : List (Nat × Nat) := []
  launched : List (Nat × Nat) := []
  n : Nat := 0
  deriving DecidableEq, Repr

/-- Key of a counter of a unit. -/
def wireCtr (r unit k : Nat) : Nat := (r * 65536 + unit) * 1024 + k
/-- Key of a shard. -/
def wireShard (r k : Nat) : Nat := r * 4096 + k

/-- The store interface and the press share their counters (R161). -/
def wireUnit (unit : Nat) : Nat := if unit = 0x0400 then 0x0401 else unit

/-- What a run is of: the image, what is withheld, the counters fed from outside, and the contributions that each shard gets from this module. -/
structure WireEnv where
  img : Image
  held : Withheld
  outside : List Nat
  expect : Tab Nat

/-- The course core reached by an emit; a counter fed from outside is not counted. -/
def Wiring.add (w : Wiring) (e : WireEnv) (r unit k n : Nat) : Wiring :=
  let key := wireCtr r (wireUnit unit) k
  if e.outside.contains key then w else { w with ctrs := w.ctrs.upd 0 key (· + n) }

def Wiring.emit (w : Wiring) (e : WireEnv) (x : Emit) : Wiring :=
  if x.region = 63 then w
  else if x.unit = 0xFFFF then (imgCourse e.img x.region).cores.foldl (fun w c => w.add e x.region c.core x.ctr x.count) w
  else if x.unit < 896 ∨ x.unit = 0x0400 ∨ x.unit = 0x0401 then w.add e x.region x.unit x.ctr x.count
  else w

def Wiring.emits (w : Wiring) (e : WireEnv) (l : List Emit) : Wiring := l.foldl (fun w x => w.emit e x) w

def Wiring.met (w : Wiring) (e : WireEnv) (r unit : Nat) (ws : List Wait) : Bool :=
  ws.all fun x => let key := wireCtr r (wireUnit unit) x.ctr; e.outside.contains key || decide (x.thr ≤ w.ctrs.get 0 key)

def Wiring.take (w : Wiring) (e : WireEnv) (r unit : Nat) (ws : List Wait) : Wiring :=
  ws.foldl (fun w x => let key := wireCtr r (wireUnit unit) x.ctr; if e.outside.contains key then w else { w with ctrs := w.ctrs.upd 0 key (· - x.thr) }) w

def Wiring.tok (w : Wiring) (e : WireEnv) (r unit t n : Nat) : Wiring :=
  match tokOf t with
  | none => w
  | some k => w.add e r unit k n

/-- The region's micro-batch unit (R253). -/
def isMbOf (e : WireEnv) (r kind core index pos : Nat) : Bool :=
  (imgCourse e.img r).mbUnits.any fun u => u.kind = kind && u.core = core && u.index = index && (kind ≠ 0 || u.pos = pos)

/-- A micro-batch unit fires. -/
def Wiring.note (w : Wiring) (e : WireEnv) (r kind core index pos : Nat) : Wiring :=
  if isMbOf e r kind core index pos then { w with mbs := w.mbs.upd 0 r (· + 1) } else w

/-- A micro-batch unit whose next micro-batch is withheld. -/
def Wiring.gated (w : Wiring) (e : WireEnv) (r kind core index pos : Nat) : Bool :=
  match e.held with
  | .microBatch c => isMbOf e r kind core index pos && decide (c ≤ w.mbs.get 0 r)
  | _ => false

/-- A tile operation fires if it can. -/
def Wiring.tile (w : Wiring) (e : WireEnv) (r c i : Nat) (o : TileOp) : Wiring :=
  let key := coreKey r c * 4096 + i
  let f := w.tiles.get 0 key
  if f < o.tr.rep ∧ w.met e r c o.tr.waits ∧ !w.gated e r 1 c i 0 ∧ (o.init ≠ 2 ∨ i = 0 ∨ f < w.tiles.get 0 (key - 1)) then
    { ((w.take e r c o.tr.waits).emits e o.tr.emits).note e r 1 c i 0 with tiles := w.tiles.set 0 key (f + 1), n := w.n + 1 }
  else w

/-- A chain fires if it can. -/
def Wiring.chain (w : Wiring) (e : WireEnv) (r c i : Nat) (o : Chain) : Wiring :=
  let key := coreKey r c * 4096 + i
  let f := w.chains.get 0 key
  if f < o.tr.rep ∧ w.met e r c o.tr.waits ∧ !w.gated e r 2 c i 0 then
    { ((w.take e r c o.tr.waits).emits e o.tr.emits).note e r 2 c i 0 with chains := w.chains.set 0 key (f + 1), n := w.n + 1 }
  else w

/-- The entries of a sequence raise their tokens in every core that takes part (R108, R109). -/
def Wiring.runSeq (w : Wiring) (e : WireEnv) (r q : Nat) : Wiring :=
  let w := { w with launched := if w.launched.contains (r, q) then w.launched else w.launched ++ [(r, q)] }
  if e.held = .sequence r q then w
  else
    (imgCourse e.img r).cores.foldl (fun w c =>
      match c.seqs[q]? with
      | none => w
      | some s => ((c.beats.drop s.first).take s.count).foldl (fun w b => w.tok e r c.core b.etok 1) w) w

/-- A remote operation issues: its tokens, and what it sends to a press or reads of a working copy. -/
def Wiring.op (w : Wiring) (e : WireEnv) (r c : Nat) (x : Issue) : Wiring :=
  let w := w.tok e r c x.q.ltok 1
  if imgOwn e.img (gMod x.gaddr) then
    let t := gRegion x.gaddr
    let w := w.tok e t (if gSpace x.gaddr then 0x0401 else gIndex x.gaddr) x.q.ttok x.packets
    match contribOf e.img x with
    | some (t, k) => { w with contrib := w.contrib.upd 0 (wireShard t k) (· + 1) }
    | none =>
      if x.q.op = 1 ∧ gSpace x.gaddr then
        match shardAt e.img t copyWorking x.lines.1 x.lines.2.1 with
        | some k => { w with read := if w.read.contains (t, k) then w.read else w.read ++ [(t, k)] }
        | none => w
      else w
  else w

/-- A context issues its next instruction if it can. -/
def Wiring.ctx (w : Wiring) (e : WireEnv) (r c j : Nat) (prog : List CtxInstr) : Wiring :=
  let key := coreKey r c * 64 + j
  let x := w.ctxs.get {} key
  match if x.ended then none else prog[x.pc]? with
  | none => w
  | some i =>
    if w.met e r c i.tr.waits && !w.gated e r 0 c j x.pc then
      let w := { (w.take e r c i.tr.waits).emits e i.tr.emits with n := w.n + 1 }
      let put (w : Wiring) (y : CtxSt) : Wiring := { w with ctxs := w.ctxs.set {} key y }
      match i.op with
      | .stop => put w { x.advance with ended := true }
      | .loop n b => if 4 ≤ x.loops.length then w else put w (x.enter x.pc n b)
      | .rmo q => (put (w.op e r c (mkIssue x j q)) x.advance).note e r 0 c j x.pc
      | .launch q => (put (w.runSeq e r q) x.advance).note e r 0 c j x.pc
      | _ => (put w x.advance).note e r 0 c j x.pc
    else w

/-- A press, which under held timing sends no free emit (R170), updates a shard once every contribution of this module is in and its release tokens are (R21, R166). -/
def Wiring.shard (w : Wiring) (e : WireEnv) (r k : Nat) (sh : Shard) : Wiring :=
  let key := wireShard r k
  if !w.updated.get false key && decide (e.expect.get 0 key ≤ w.contrib.get 0 key) && w.met e r 0x0401 sh.release then
    let w := w.take e r 0x0401 sh.release
    let w := if e.held = .ready r k then w else w.emits e sh.ready
    let w := if e.held = .frees r k ∨ (e.img.mode.getD {}).updt then w else w.emits e sh.frees
    { w with updated := w.updated.set false key true, n := w.n + 1 }
  else w

/-- Numbered elements of a list. -/
def numbered {α : Type} (l : List α) : List (α × Nat) := l.zip (List.range l.length)

/-- Every unit of the image tries once. -/
def Wiring.pass (w : Wiring) (e : WireEnv) : Wiring :=
  let w := e.img.regions.foldl (fun w x => x.2.cores.foldl (fun w c =>
    let w := (numbered c.tiles).foldl (fun w y => w.tile e x.1 c.core y.2 y.1) w
    let w := (numbered c.chains).foldl (fun w y => w.chain e x.1 c.core y.2 y.1) w
    c.progs.foldl (fun w p => w.ctx e x.1 c.core p.1 p.2) w) w) w
  e.img.regions.foldl (fun w x => (numbered (imgShards e.img x.1)).foldl (fun w y => w.shard e x.1 y.2 y.1) w) w

/-- Passes until nothing more fires. -/
def Wiring.settle (e : WireEnv) : Nat → Wiring → Wiring
  | 0, w => w
  | k + 1, w => let v := w.pass e; if v.n = w.n then w else Wiring.settle e k v

/-! What feeds and what waits. -/

/-- The row-ready tokens of the tables of an image, one set for each micro-batch (R156; log entry 57). -/
def imgRowReady (i : Image) (t : OrcTable) : List Emit :=
  let cons := i.regions.flatMap fun x => (x.2.orcCons.filter fun c => c.table = t.table).map fun c => ({ region := x.1, unit := c.core, ctr := c.ctr, count := 1 } : Emit)
  t.emits ++ cons.filter fun e => !(t.emits.any fun f => f.region = e.region && f.unit = e.unit && f.ctr = e.ctr)

/-- Trailers of a core's units. -/
def coreTrailers (c : CoreCourse) : List Trailer := c.tiles.map (·.tr) ++ c.chains.map (·.tr) ++ c.progs.flatMap fun p => p.2.map (·.tr)

/-- Every emit that the image's wiring sends. -/
def imgEmits (i : Image) : List Emit :=
  let p := i.press.getD {}
  (i.regions.flatMap fun x => x.2.cores.flatMap fun c => (coreTrailers c).flatMap (·.emits)) ++
    p.regions.flatMap (fun x => x.scaleReady ++ x.shards.flatMap fun s => s.ready ++ (if (i.mode.getD {}).updt then [] else s.frees)) ++ p.tables.flatMap (imgRowReady i)

/-- Counters that the image's wiring feeds. -/
def fedCtrs (i : Image) : List Nat :=
  let tok (r unit t : Nat) : List Nat := match tokOf t with | none => [] | some k => [wireCtr r (wireUnit unit) k]
  (imgEmits i).flatMap (fun x =>
    if x.unit = 0xFFFF then (imgCourse i x.region).cores.map fun c => wireCtr x.region c.core x.ctr else [wireCtr x.region (wireUnit x.unit) x.ctr]) ++
  (i.regions.flatMap fun x => x.2.cores.flatMap fun c =>
    c.beats.flatMap (fun b => tok x.1 c.core b.etok) ++
    c.progs.flatMap fun p => p.2.flatMap fun y =>
      match y.op with
      | .rmo q => tok x.1 c.core q.ltok ++ (if imgOwn i (gMod q.gaddr) then tok (gRegion q.gaddr) (if gSpace q.gaddr then 0x0401 else gIndex q.gaddr) q.ttok else [])
      | _ => [])

/-- Counters on which some unit waits, one entry for each waiting unit. -/
def waitCtrs (i : Image) : List Nat :=
  let keys (r unit : Nat) (ws : List Wait) : List Nat := (ws.map fun w => wireCtr r (wireUnit unit) w.ctr).eraseDups
  (i.regions.flatMap fun x => x.2.cores.flatMap fun c =>
    c.tiles.flatMap (fun o => keys x.1 c.core o.tr.waits) ++ c.chains.flatMap (fun o => keys x.1 c.core o.tr.waits) ++
    c.progs.flatMap fun p => keys x.1 c.core (p.2.flatMap fun y => y.tr.waits)) ++
  i.regions.flatMap fun x => (imgShards i x.1).flatMap fun s => keys x.1 0x0401 s.release

/-- Counters fed from outside the wiring: by a declared cross-module token, or, where the image declares a DMA channel, by descriptors, which no course holds (R208, R266; log entry 73). -/
def outsideCtrs (i : Image) : List Nat :=
  let x := ((i.link.getD {}).xtoks.map fun t => wireCtr t.1 (wireUnit t.2.1) t.2.2.1)
  let fed := fedCtrs i
  if i.regions.any fun r => !r.2.dma.isEmpty then x ++ (waitCtrs i).filter fun k => !fed.contains k else x

/-- Contributions that the image's own units issue to each shard. -/
def ownContribs (i : Image) : Tab Nat :=
  (imgIssues i).foldl (fun (t : Tab Nat) x => match contribOf i x.2.2 with | none => t | some y => t.upd 0 (wireShard y.1 y.2) (· + 1)) []

/-- Declared initial values of every counter. -/
def initCtrs (i : Image) : Tab Nat :=
  i.regions.foldl (fun (t : Tab Nat) x =>
    let t := x.2.cores.foldl (fun (t : Tab Nat) c => (numbered c.counters).foldl (fun (t : Tab Nat) y => t.set 0 (wireCtr x.1 c.core y.2) y.1.1) t) t
    x.2.siCtrs.foldl (fun (t : Tab Nat) y => t.set 0 (wireCtr x.1 0x0401 y.1) y.2.2) t) []

/-- The environment of a run. -/
def wireEnv (i : Image) (held : Withheld) : WireEnv := { img := i, held := held, outside := outsideCtrs i, expect := ownContribs i }

/-- Counts that a step starts and ends with: the declared values, and in the first step of a layout epoch the ready tokens of the shards that its moves bring, none being left of the step before (R95, R218, R219). -/
def wireBase (i : Image) (e : WireEnv) : Wiring :=
  i.moved.foldl (fun w m => if e.held = .ready m.1 m.2 then w else w.emits e ((imgShards i m.1).getD m.2 {}).ready) { ctrs := (initCtrs i).filter fun x => !e.outside.contains x.1 }

/-- Counts at the start of a step, with the scale-ready tokens of the commit token, and every row-ready token (R156, R177). -/
def wireStart (i : Image) (e : WireEnv) : Wiring :=
  let w := wireBase i e
  let w := (i.press.getD {}).regions.foldl (fun w x => w.emits e x.scaleReady) w
  (i.press.getD {}).tables.foldl (fun w t => (imgRowReady i t).foldl (fun w x => w.emit e { x with count := x.count * imgMb i }) w) w

/-- One step of every declared micro-batch on counts alone. -/
def runWiring (i : Image) (held : Withheld) : Wiring :=
  let e := wireEnv i held
  Wiring.settle e traceFuel (wireStart i e)

/-- Every unit has made its declared firings and every counter is back at its starting value (R266). -/
def balanced (i : Image) : Bool :=
  let e := wireEnv i .nothing
  let w := Wiring.settle e traceFuel (wireStart i e)
  i.regions.all (fun x =>
    x.2.cores.all (fun c =>
      (numbered c.tiles).all (fun y => w.tiles.get 0 (coreKey x.1 c.core * 4096 + y.2) = y.1.tr.rep) &&
      (numbered c.chains).all (fun y => w.chains.get 0 (coreKey x.1 c.core * 4096 + y.2) = y.1.tr.rep) &&
      c.progs.all fun p => p.2.isEmpty || (w.ctxs.get {} (coreKey x.1 c.core * 64 + p.1)).ended) &&
    decide (x.2.mbUnits.length = 1) && decide (w.mbs.get 0 x.1 = imgMb i) &&
    (numbered (imgShards i x.1)).all fun y => w.updated.get false (wireShard x.1 y.2)) &&
  decide (w.ctrs = (wireBase i e).ctrs)

/-! What withheld tokens hold back. -/

/-- A deferred operation has some of the tokens that its next firing takes, but not all: its group of micro-batches is begun and not complete (R62). -/
def Wiring.halfFed (w : Wiring) (e : WireEnv) (r c : Nat) (o : TileOp) : Bool :=
  let start := (wireBase e.img e).ctrs
  o.deferred && o.tr.waits.any fun x =>
    let key := wireCtr r c x.ctr
    !e.outside.contains key && decide (start.get 0 key < w.ctrs.get 0 key ∧ w.ctrs.get 0 key < x.thr)

/-- A deferred chain stands open between two of its operations. -/
def Wiring.halfRun (w : Wiring) (r c i : Nat) (o : TileOp) : Bool :=
  let key := coreKey r c * 4096 + i
  o.deferred && decide (o.init = 2) && decide (0 < i) && decide (w.tiles.get 0 key < w.tiles.get 0 (key - 1))

/-- With every micro-batch before `c` run and none from `c` on, no W-pass group stands half done: none spans the commit point (R62, R279; log entry 140). -/
def groupsApart (i : Image) (c : Nat) : Bool :=
  let e := wireEnv i (.microBatch c)
  let w := Wiring.settle e traceFuel (wireStart i e)
  i.regions.all fun x => x.2.cores.all fun k => (numbered k.tiles).all fun o => !w.halfFed e x.1 k.core o.1 && !w.halfRun x.1 k.core o.2 o.1

/-- With these tokens withheld no contribution to a shard can be issued. -/
def holdsContribs (i : Image) (held : Withheld) (r k : Nat) : Bool := decide ((runWiring i held).contrib.get 0 (wireShard r k) = 0)

/-- With these tokens withheld no get can read a shard's working copy. -/
def holdsReads (i : Image) (held : Withheld) (r k : Nat) : Bool := !((runWiring i held).read.contains (r, k))

/-- Tokens order two sequences of a region: with those of one withheld, the other is not launched. -/
def seqsOrdered (i : Image) (r a b : Nat) : Bool :=
  !((runWiring i (.sequence r a)).launched.contains (r, b)) || !((runWiring i (.sequence r b)).launched.contains (r, a))

end Sys2Proof.Machine
end

