-- ==== Sys2Proof/Machine/Carry.lean ====
section
/-! DEFINITION. The slots that operands, streams and operations cover, and the carry sets of commit snapshots: the slots that firings still to come read (R70, R280). -/

namespace Sys2Proof.Machine

/-- Slots of every block that an operand touches in firing `f`. -/
def operandSlots (d : OpDesc) (f32 : Bool) (f rows cols : Nat) : List Nat :=
  let b := firingBase d.base d.adv d.wrap f
  (List.range ((d.roff + rows - 1) / 32 + 1)).flatMap fun br =>
    (List.range ((d.coff + cols - 1) / 32 + 1)).flatMap fun bc =>
      let t := blockSlot f32 b d.pitch br bc
      (List.range (blockSlots f32)).map (t + ·)

/-- Slots of a stream in firing `f`. -/
def streamSlots (st : Stream) (f rows cols : Nat) : List Nat :=
  let (er, ec) := streamExtent rows cols st.bc st.tr
  operandSlots ⟨st.base, st.pitch, 0, 0, st.adv, st.wrap⟩ st.sfmt f er ec

/-- Slots from a byte range. -/
def byteSlots (off n : Nat) : List Nat := (List.range ((off + n - 1) / 2048 + 1 - off / 2048)).map (off / 2048 + ·)

/-- Entries of a core for a sequence. -/
def seqBeats (c : CoreCourse) (q : Nat) : List BeatEntry := match c.seqs[q]? with | none => [] | some s => (c.beats.drop s.first).take s.count

/-! Carry sets (R280; log entry 44). -/

/-- Firings of a record from firing `f` on. -/
def firingsFrom (rep f : Nat) : List Nat := (List.range (rep - f)).map (f + ·)

/-- The operands that a tile operation reads: sources, C₀, and the stash in gradient mode (R24, R56). -/
def tileReads (o : TileOp) : List (OpDesc × Bool × Nat × Nat) :=
  let x := tileOperands o
  x.take (if o.init = 1 then 3 else 2) ++ (if o.drain ∧ o.dmode = 2 then x.drop (x.length - 1) else [])

/-- Operations that read their local range: puts, reduces and compare-and-swaps. -/
def readsLocal (op : Nat) : Bool := decide (op ≠ 1)

/-- Operations that read their target range: gets, reduces and compare-and-swaps. -/
def readsTarget (op : Nat) : Bool := decide (op ≠ 0)

/-- Slots of a core that its own firings from a point on read: tile operands, chain inputs, local ranges, beat groups sent, and descriptor rings. -/
def ownReads (rc : RegionCourse) (c : CoreCourse) (x : CoreSt) : List Nat :=
  ((numbered c.tiles).flatMap fun o => (firingsFrom o.1.tr.rep (x.tileFired.get 0 o.2)).flatMap fun f => (tileReads o.1).flatMap fun y => operandSlots y.1 y.2.1 f y.2.2.1 y.2.2.2) ++
  ((numbered c.chains).flatMap fun o => (firingsFrom o.1.tr.rep (x.chainFired.get 0 o.2)).flatMap fun f => o.1.ins.flatMap fun st => streamSlots st f o.1.rows o.1.cols) ++
  (c.progs.flatMap fun p => ((if (x.ctxs.get {} p.1).ended then [] else traceOps p.2 p.1 traceFuel (x.ctxs.get {} p.1)).filter fun i => readsLocal i.q.op).flatMap fun i => byteSlots i.laddr i.localBytes) ++
  ((c.beats.filter fun b => b.kind = 0).flatMap fun b => byteSlots (b.soff * 64) 64) ++
  ((rc.dma.filter fun d => d.core = c.core).flatMap fun d => byteSlots (d.dring * 64) (64 * 2 ^ d.y))

/-- What a context of any core of the module still reads in core SRAM by global address: key of the core and slot. -/
def State.farReads (s : State) (cores : Tab CoreSt) : List (Nat × Nat) :=
  s.serviceRegions.flatMap fun r => (s.course r).cores.flatMap fun c =>
    c.progs.flatMap fun p =>
      let x := (cores.get {} (coreKey r c.core)).ctxs.get {} p.1
      ((if x.ended then [] else traceOps p.2 p.1 traceFuel x).filter fun i => readsTarget i.q.op && s.isOwn (gMod i.gaddr) && !gSpace i.gaddr).flatMap fun i =>
        (byteSlots (gOffset i.gaddr) i.targetBytes).map fun t => (coreKey (gRegion i.gaddr) (gIndex i.gaddr), t)

/-- The carry set of every core in service, from the firings that `cores` has made: key of the core and slot (R280). -/
def State.carrySlots (s : State) (cores : Tab CoreSt) : List (Nat × Nat) :=
  (s.serviceRegions.flatMap fun r => (s.course r).cores.flatMap fun c =>
    (ownReads (s.course r) c (cores.get {} (coreKey r c.core))).map fun t => (coreKey r c.core, t)) ++ s.farReads cores

end Sys2Proof.Machine
end

