-- ==== Sys2Proof/Machine/Settings.lean ====
section
/-! DEFINITION. Settings: discarded writes, staged and active values, and the boundaries at which staged values take effect (R258, R361 to R366). -/

namespace Sys2Proof.Machine

/-- Drop a register write whole: count it, and record the first address and cause (R362). -/
def State.discardWrite (s : State) (addr cause : Nat) (mbus : Bool) : State :=
  s.onSet fun t => { t with
    discCount := sat32 t.discCount 1
    daddr := if t.disc then t.daddr else BitVec.ofNat 32 (addr % 2 ^ 26 + cause * 2 ^ 26 + b2n mbus * 2 ^ 30)
    disc := true }

/-- Staged view: the value staged, in the settings or in the staged set, or the value in force (R261, R363). -/
def State.stagedView (s : State) (addr : Nat) : U32 :=
  match (s.set.staged ++ s.stg.writes).find? fun p => p.addr = addr with
  | some p => p.value
  | none => s.setting addr

/-- Stage a value; it replaces one already staged (R258). -/
def State.stageWrite (s : State) (addr : Nat) (v : U32) (mbus : Bool) : State :=
  s.onSet fun t => { t with staged := (t.staged.filter fun p => p.addr ≠ addr) ++ [{ addr := addr, value := v, mbus := mbus }] }

/-- Put a value in force. -/
def State.putActive (s : State) (addr : Nat) (v : U32) : State := s.onSet fun t => { t with active := t.active.set none addr (some v) }

/-- Put the staged values that pass a test in force, and unstage them (R364). -/
def State.applyStaged (s : State) (p : Nat → Bool) : State :=
  s.set.staged.foldl (fun s x =>
    if p x.addr then (s.putActive x.addr x.value).onSet fun t => { t with staged := t.staged.filter fun y => y.addr ≠ x.addr } else s) s

/-- Does the register at an address have a class? -/
def hasClass (addr : Nat) (c : Swap) : Bool :=
  match regDesc addr with
  | none => false
  | some d => d.swap = c

/-- `MICRO` boundary of the control die (Table 12.9). -/
def State.microBoundary (s : State) : State := s.applyStaged fun a => hasClass a .micro && (rgnOf a).isNone

/-- `FLOW` of the logical region that a physical region holds (R304, Table 19.5 e; log entry 110). -/
def State.flowOf (s : State) (p : Nat) : Nat := s.modeCourse.flow.getD ((s.logicalOf p).getD p) 0

/-- Clock axes (Table 12.8). -/
def axisUniform : Nat := 0
def axisHalf : Nat := 1
def axisCaps : Nat := 2

/-- A region that is in service: the map gives it a logical region of the configuration in force and it is not dark (R366). -/
def State.servesPhys (s : State) (p : Nat) : Bool := s.cfg.image.isSome && (s.logicalOf p).isSome && (s.reg p).powered && !(s.reg p).retired

/-- The k that `CTL_CLK` names for a physical region (Table 14.2). -/
def State.namedClock (s : State) (p : Nat) : Nat :=
  let v := (s.setting 0x9008).toNat
  if s.modeCourse.clock = axisUniform then fld v 0 5 else if halfOf p = 0 then fld v 8 5 else fld v 16 5

/-- A region's clock is to change at its next step boundary: to the greater of a k and the region's `FLOW`. -/
def State.askClock (s : State) (p k flow : Nat) : State := s.onReg p fun g => { g with kNext := some (max k flow, decide (k < flow)) }

/-- `CTL_CLK` takes effect at the control die: every region in service, in its scope, is to take what it names (R304, R364). -/
def State.askClocks (s : State) : State := ((List.range 48).filter s.servesPhys).foldl (fun s p => s.askClock p (s.namedClock p) (s.flowOf p)) s

/-- A clock that was asked for takes hold: its PLL relocks, and a region raised to its `FLOW` is logged (R304, R305). -/
def State.clockFrom (s : State) (p : Nat) : State :=
  match (s.reg p).kNext with
  | none => s
  | some (k, raised) =>
    let old := (s.reg p).k
    let s := s.onReg p fun g => { g with k := k, kNext := none, lock := g.lock && decide (k = old) }
    if raised then s.logHealth { cls := 0x7C, pregion := p, lregion := (s.logicalOf p).getD 63, detail := k } else s

/-- `STEP` boundary of a region: its staged `STEP` values take effect, its own clock among them (R304, R364). -/
def State.stepBoundaryRegion (s : State) (p : Nat) : State :=
  let s := match s.set.staged.find? fun x => x.addr = rgnBase p + 0x20C0 with
    | none => s
    | some x => s.askClock p (fld x.value.toNat 0 5) (s.flowOf p)
  (s.applyStaged fun a => hasClass a .step && (match rgnOf a with | some (q, _) => q == p | none => false)).clockFrom p

/-- `STEP` boundary of the control die: every staged `STEP` value outside the region blocks takes effect, a `CTL_CLK` among them on every region that is then in service (R304, R364). -/
def State.stepBoundaryModule (s : State) : State :=
  let clocks := s.set.staged.any fun x => x.addr = 0x9008
  let s := s.applyStaged fun a => hasClass a .step && (rgnOf a).isNone
  if clocks then s.askClocks else s

/-- At a configuration-epoch boundary every staged `MICRO` or `STEP` write is discarded and counted with cause 0x9 (R365). -/
def State.dropStaged (s : State) : State :=
  let gone := s.set.staged.filter fun x => hasClass x.addr .micro || hasClass x.addr .step
  let s := gone.foldl (fun s x => s.discardWrite x.addr 0x9 x.mbus) s
  let s := (List.range 48).foldl (fun s p => s.onReg p fun g => { g with kNext := none }) s
  s.onSet fun t => { t with staged := t.staged.filter fun x => !(hasClass x.addr .micro || hasClass x.addr .step) }

/-- The k of a physical half: the lowest of its powered regions in service (Table 19.5 e; log entry 110). -/
def State.halfClock (s : State) (half : Nat) : Nat :=
  let ks := ((List.range 48).filter fun p => decide (halfOf p = half) && (s.logicalOf p).isSome && (s.reg p).powered).map fun p => (s.reg p).k
  match ks with
  | [] => 0
  | k :: t => t.foldl min k

/-- The k of a promoted region: the lost region's, but with one half clocked down the greater of its own half's k and the `FLOW` of the logical region it takes (R366, Table 19.5 e). -/
def State.promotedClock (s : State) (lost promoted : Nat) : Nat :=
  if s.modeCourse.clock = axisHalf then max (s.halfClock (halfOf promoted)) (s.flowOf lost) else (s.reg lost).k

/-- What a promoted region is still to take of a `CTL_CLK` that has taken effect: what it names for the promoted region's own half, or the `FLOW` of the logical region it takes (R304, R364). -/
def State.promotedAsk (s : State) (lost promoted : Nat) : Option (Nat × Bool) :=
  if (s.reg lost).kNext.isNone || decide (s.modeCourse.clock = axisCaps) then none
  else some (max (s.namedClock promoted) (s.flowOf lost), decide (s.namedClock promoted < s.flowOf lost))

/-- The staged writes of a region lost to relocation are discarded with cause 0xA, and the promoted region takes the lost one's values (R366). -/
def State.moveSettings (s : State) (lost promoted : Nat) : State :=
  let mine (a : Nat) : Bool := match rgnOf a with | some (q, _) => q == lost | none => false
  let gone := s.set.staged.filter fun x => mine x.addr
  let s := gone.foldl (fun s x => s.discardWrite x.addr 0xA x.mbus) s
  let s := s.onSet fun t => { t with staged := t.staged.filter fun x => !mine x.addr }
  let ask := s.promotedAsk lost promoted
  let s := s.onReg lost fun g => { g with kNext := none }
  ([0x2000, 0x2020, 0x2034, 0x2040, 0x20C0].foldl (fun s off => s.putActive (rgnBase promoted + off) (s.setting (rgnBase lost + off))) s).onReg promoted fun g => { g with k := s.promotedClock lost promoted, kNext := ask }

end Sys2Proof.Machine
end

