-- ==== Sys2Proof/Machine/Numeric.lean ====
section
/-! DEFINITION. The numeric status ring, the step gradient summary and the numeric hold (R41 to R47, R132). -/

namespace Sys2Proof.Machine

/-- Entries in the ring: producer minus consumer, modulo 8,192 (R43). -/
def NumSt.fill (n : NumSt) : Nat := (n.prod - n.cons).toNat

/-- Insert a record, or drop and count it at a full ring (R42, R43). -/
def State.ringInsert (s : State) (x : NumRec) : State :=
  if s.num.fill = 4096 then s.onNum fun n => { n with drop := sat32 n.drop 1, ovfl := true }
  else s.onNum fun n => { n with ring := n.ring.set {} (n.prod.toNat % 4096) { item := x, seq := n.seq }, prod := n.prod + 1, seq := n.seq + 1 }

/-- Flags of `GRAD` = 1 work join the step gradient summary; its first `NFO` sends the gradient-non-finite token to every press (R41). -/
def State.gradSummary (s : State) (f : BitVec 4) : State :=
  let first := f.getLsbD 3 && !s.num.summary.getLsbD 3
  let s := s.onNum fun n => { n with summary := n.summary ||| f, gnf := n.gnf || first }
  if first then s.serviceRegions.foldl (fun s r => s.onLreg r fun l => { l with gnf := true }) s else s

/-- The fields of `CTL_NUM_CFG` in force (Table 2.8). -/
def State.numCfg (s : State) : U32 := s.setting 0x4000
def State.trapOn (s : State) : Bool := s.numCfg.getLsbD 0
def State.trapMask (s : State) : BitVec 4 := BitVec.ofNat 4 (fld s.numCfg.toNat 1 4)
def State.gradOnly (s : State) : Bool := s.numCfg.getLsbD 5

/-- HOLD_TRIGGER (R45): H is the greater of the micro-batch and the highest reported begun; no second hold (R47). -/
def State.triggerHold (s : State) (mb : Nat) (numeric : Bool) : State :=
  match s.num.hold with
  | some _ => if numeric ∧ !s.num.held then s.onNum fun n => { n with holdNumeric := true } else s
  | none =>
    if s.num.held then s
    else s.onNum fun n => { n with hold := some (max mb (n.top - 1)), holdNumeric := numeric, heard := [] }

/-- Trigger a hold if the mode is hold-at-boundary and the flags intersect `TMASK` (R45). -/
def State.maybeHold (s : State) (f : BitVec 4) (grad : Bool) (mb : Nat) : State :=
  if s.trapOn && (f &&& s.trapMask) != 0 && (grad || !s.gradOnly) then s.triggerHold mb true else s

/-- NUMERIC_RECORD (R42): record `i` reaches the control die. -/
def execNumericRecord (i : Nat) (s : State) : Ans :=
  match s.bat.nums[i]? with
  | none => .next s
  | some x =>
    let s := s.onBat fun b => { b with nums := dropAt b.nums i }
    let f := recFlags x.w0
    let s := s.ringInsert x
    let s := if recGrad x.w0 ∧ x.step = s.run.step then s.gradSummary f else s
    .next (s.maybeHold f (recGrad x.w0) x.mbatch)

/-- NUMERIC_RECORD_EXPIRY (R132): record `i` could not arrive within 2 µs of its drain; it is discarded and, where a core sent it, counted as a drop of that core (R374; log entry 138). -/
def execNumericRecordExpiry (i : Nat) (s : State) : Ans :=
  match s.bat.nums[i]? with
  | none => .next s
  | some x =>
    let s := s.onBat fun b => { b with nums := dropAt b.nums i }
    if recFromCore x then .next (s.numDropped x.pregion x.pcore) else .next s

/-- Highest number per region, kept in a list. -/
def noteMax (l : List (Nat × Nat)) (r n : Nat) : List (Nat × Nat) :=
  match l.find? fun x => x.1 = r with
  | none => l ++ [(r, n)]
  | some _ => l.map fun x => if x.1 = r then (r, max x.2 n) else x

/-- MICRO_BATCH_REPORT (R46): a begun report raises the highest micro-batch begun, a `MICRO` boundary of the control die, and past those begun before a rewind ends the replay; an ended one brings the flag summaries of R40. -/
def execMicroBatchReport (i : Nat) (s : State) : Ans :=
  match s.bat.mbs[i]? with
  | none => .next s
  | some m =>
    let s := s.onBat fun b => { b with mbs := dropAt b.mbs i }
    if m.ended then
      let s := s.onNum fun n => { n with done := noteMax n.done m.lregion (m.n + 1) }
      let s := s.gradSummary m.grad
      .next ((s.maybeHold m.grad true m.n).maybeHold m.other false m.n)
    else
      let s := if s.flt.replayTo ≤ m.n then s.onFlt fun f => { f with replaying := false } else s
      if s.num.top ≤ m.n then .next (s.microBoundary.onNum fun n => { n with top := m.n + 1 }) else .next s

/-- HOLD_TOKEN (R46): the region begins no micro-batch beyond the greater of H and the highest it has begun, and reports that number, which may raise H. -/
def execHoldToken (r : Region) (s : State) : Ans :=
  match s.num.hold with
  | none => .next s
  | some h =>
    if s.inService r && !s.num.held then
      let t := max h ((s.lreg r).mbBegun - 1)
      let s := s.onLreg r fun l => { l with holdTok := some t }
      .next ((s.onNum fun n => { n with hold := some t, heard := noteMax n.heard r t }).progress r)
    else .next s

/-- Every region in service has received H and completed every micro-batch up to it (R46). -/
def State.holdComplete (s : State) (h : Nat) : Bool :=
  s.serviceRegions.all fun r =>
    decide ((s.lreg r).holdTok = some h) && s.num.done.any fun x => x.1 = r && decide (h + 1 ≤ x.2)

/-- The micro-batches of a step (Table 12.14, kind 0x40). -/
def State.lastMb (s : State) : Nat := s.stepCourse.mb - 1

/-- Complete the STEP_HOLD commands that wait for a micro-batch hold (R350); `all_` takes those that wait for a step boundary too. -/
def State.finishHolds (s : State) (all_ : Bool) (res0 res1 : U64) : State :=
  let go := s.run.holds.filter fun x => all_ || x.2 = 0
  let s := s.onRun fun r => { r with holds := r.holds.filter fun x => !(all_ || x.2 = 0) }
  go.foldl (fun s x => s.complete x.1 0 res0 res1 0) s

/-- HOLD_REACHED (R46): the module is held at the boundary after micro-batch H; a hold after the last micro-batch that only STEP_HOLD asked for is settled when the step commits (R350). -/
def execHoldReached (s : State) : Ans :=
  match s.num.hold with
  | none => .next s
  | some h =>
    if s.holdComplete h && !s.num.held && decide (s.run.st = .running) then
      if s.num.holdNumeric then
        let s := s.onNum fun n => { n with held := true, trig := true, hmb := BitVec.ofNat 12 h }
        let s := s.onRun fun r => { r with st := .held, hcause := 1, atStep := !r.inStep }
        let s := s.event 2 (BitVec.ofNat 64 h)
        .next (s.finishHolds (!s.run.inStep) (if s.run.inStep then s.run.step else s.run.step - 1) (BitVec.ofNat 64 h))
      else if h = s.lastMb then .next s
      else
        let s := s.onNum fun n => { n with held := true, hmb := BitVec.ofNat 12 h }
        let s := s.onRun fun r => { r with st := .held, hcause := 2, atStep := false }
        .next (s.finishHolds false s.run.step (BitVec.ofNat 64 h))
    else .next s

/-- Write the ring's consumer index; a difference above 4,096 is discarded, counted and logged (R43). -/
def State.writeCons (s : State) (v : U32) (mbus : Bool) : State :=
  if v.toNat / 2 ^ 13 ≠ 0 then s.discardWrite 0x400C 0x0 mbus
  else if (s.num.prod - v.setWidth 13).toNat ≤ 4096 then s.onNum fun n => { n with cons := v.setWidth 13 }
  else (s.discardWrite 0x400C 0x1 mbus).logHealth { cls := 0x71, detail := v.toNat }

/-- CONSUMER_INDEX_WRITE (R43). -/
def execConsumerIndexWrite (v : U32) (s : State) : Ans := s.overLink (.consumerIndexWrite v) fun s => .next (s.writeCons v false)

end Sys2Proof.Machine
end

