-- ==== Sys2Proof/Machine/Faults.lean ====
section
/-! DEFINITION. Rewind, commit snapshots and holds: the operations that every fault shares (R277 to R285, R298). -/

namespace Sys2Proof.Machine

/-! Commit snapshots (R279, R280; log entry 44). -/

/-- The logical place of an SRAM byte: core key x 2^21 + offset; none for a core in no logical position. -/
def State.logicalByte (s : State) (k : Nat) : Option Nat :=
  match s.logicalOf (k / 2 ^ 21 / 924) with
  | none => none
  | some r => (s.lcore (k / 2 ^ 21 / 924) (k / 2 ^ 21 % 924)).map fun c => coreKey r c * 2 ^ 21 + k % 2 ^ 21

/-- A byte, by logical place, lies in a slot of a carry set. -/
def inCarry (l : List (Nat × Nat)) (k : Nat) : Bool := l.contains (k / 2 ^ 21, k % 2 ^ 21 / 2048)

/-- SRAM of the carry sets, by logical core (R280). -/
def State.carrySram (s : State) : Memory :=
  let l := s.carrySlots s.cores
  s.sram.foldl (fun (m : Memory) x => match s.logicalByte x.1 with | none => m | some k => if inCarry l k then Tab.set 0 m k x.2 else m) []

/-- SRAM with the carry sets of a snapshot read back; every other slot stands as it is (R20, R280). -/
def State.restoreSram (s : State) (q : Snapshot) : Memory :=
  let l := s.carrySlots q.cores
  let rest := s.sram.foldl (fun (t : Memory) x =>
    match s.logicalByte x.1 with
    | none => Tab.set 0 t x.1 x.2
    | some k => if inCarry l k then t else Tab.set 0 t x.1 x.2) []
  q.sram.foldl (fun t x => Tab.set 0 t (s.sramBase (x.1 / 2 ^ 21 / 896) (x.1 / 2 ^ 21 % 896) + x.1 % 2 ^ 21) x.2) rest

/-- Is a key of the channel table that of a region channel? -/
def isRegionChan (k : Nat) : Bool := decide (k < 48 * 128)

/-- What a snapshot holds of a core: its counters, its contexts' positions and loops, and its firing indices (R280). -/
def CoreSt.carried (x : CoreSt) : CoreSt :=
  { ctrs := x.ctrs, ctxs := mapTab {} (fun c => { c with outst := [] }) x.ctxs, tileFired := x.tileFired, chainFired := x.chainFired }

/-- What it holds of a region channel: the ring indices, with descriptors begun or fetched to be fetched again, what they took given back, and the checksum as it stood before (R204, R280). -/
def DmaSt.carried (d : DmaSt) : DmaSt :=
  let b := d.cur.isSome
  { fetched := d.completed, completed := d.completed, prevCsum := if b then d.prev0 else d.prevCsum, crc := if b then d.crc0 else d.crc, sum := if b then d.sum0 else d.sum, epoch := d.epoch
    ctrs := (d.took.foldl (fun (t : Tab Nat) w => t.upd 0 w.ctr (· + w.thr)) d.ctrs).upd 0 7 (· + (d.fetched - d.completed).toNat) }

/-- The commit snapshot of every region in service before micro-batch `mb`; it goes to the run that does not hold the last valid one. -/
def State.takeSnap (s : State) (mb : Nat) : Snapshot where
  step := s.run.step
  mb := mb
  runB := match s.flt.snap with | none => false | some q => !q.runB
  cores := mapTab {} CoreSt.carried s.cores
  sram := s.carrySram
  ctrs := s.serviceRegions.map fun r => (r, (s.lreg r).ctrs)
  told := s.serviceRegions.map fun r => (r, (s.lreg r).orcTold)
  dma := mapTab {} DmaSt.carried (s.dma.filter fun x => isRegionChan x.1)
  begun := s.serviceRegions.map fun r => (r, (s.lreg r).mbBegun)
  ready := s.cfg.readySent

/-- Lines of a region's commit store that one of its two alternate runs names (R280, Table 12.14 kind 0x42). -/
def State.snapLines (s : State) (runB : Bool) (r : Nat) : List (Nat × Nat) :=
  (s.stepCourse.store.filter fun x => x.1 = r).flatMap fun x => listLines (s.course r) (if runB then x.2.2 else x.2.1)

/-- The store interfaces write a snapshot into one run of the commit store: exchange lines with their deltas, of a content whose layout the manual leaves open (R20, R280; log entry 136). -/
def State.writeSnap (s : State) (runB : Bool) : State :=
  s.serviceRegions.foldl (fun s r => (s.snapLines runB r).foldl (fun s l => let (d, s) := s.foreignLine; s.writeLinePart r l.1 l.2 0 d) s) s

/-- No delta of a snapshot's lines is open or in flight (R146, R279). -/
def State.snapIsSettled (s : State) (q : Snapshot) : Bool :=
  s.serviceRegions.all fun r => let ls := s.snapLines q.runB r; (s.lreg r).outDeltas.all fun d => !ls.contains (d.bank, d.line)

/-! Rewind (R281). -/

/-- Start a rewind, or join the one in hand: the rewind report goes to every powered region in service (R281, R293). A module held for exhausted spares or lost state absorbs nothing (R294, R298). -/
def State.startRewind (s : State) : State :=
  if s.flt.phase ≠ .none ∨ 5 ≤ s.run.hcause then s
  else
    (s.onFlt fun f => { f with
      phase := .draining, quiet := [], drainedOut := false, replays := sat32 f.replays 1
      awaiting := s.serviceRegions.filter fun r => match s.phys r with | none => false | some p => (s.reg p).powered
      replaying := s.run.inStep, replayTo := if f.replaying then max f.replayTo s.num.top else s.num.top }).onRun fun r => { r with absorbed := true }

/-- A fault met while the last one's repairs wait to resume: the re-entry is done again (R293). -/
def State.rejoin (s : State) : State := if s.flt.phase = .rebuilding ∨ s.flt.phase = .restored then s.onFlt fun f => { f with phase := .draining } else s

/-- A packet of a bridge channel, or an answer to one: bridge channels are tied to no step (R198, R204). -/
def isBridge (p : Packet) : Bool := (12 ≤ p.kind && p.kind ≤ 13 && 512 ≤ p.sunit) || (14 ≤ p.kind && 512 ≤ gIndex p.gaddr)

/-- A packet that no rewind drops: a parity delta or its acknowledgement, and a bridge channel's (R204, R281; log entry 43). -/
def outlasts (p : Packet) : Bool := isDelta p || (p.kind = 9 && p.skind = 1) || isBridge p

/-- A queue between units that holds only such packets. -/
def quietQueue (q : List Packet) : Bool := q.all outlasts

/-- The inbound log holds an accepted packet that the replay will release again, so that it may be dropped on its way into the slab: get requests it does not (R285). -/
def State.relogged (s : State) (p : Packet) : Bool := p.kind ≠ 1 && p.kind ≠ 13 && s.flt.inlog.any fun x => !x.sent && decide (x.p = p)

/-- No packet of unit work is in flight on the slab, or at a link port on its way to it (R281). -/
def State.slabQuiet (s : State) : Bool :=
  s.cores.all (fun x => quietQueue x.2.outq && quietQueue x.2.inHi && quietQueue x.2.inNo && x.2.port.isEmpty && x.2.ported.isEmpty && x.2.vec.isNone && x.2.accs.all fun a => !a.draining) &&
  s.lregions.all (fun x => quietQueue x.2.outq && quietQueue x.2.inHi && quietQueue x.2.inNo) &&
  s.net.routers.all (fun x => quietQueue (x.2.q.map (·.2))) && s.eng.all (fun x => !x.2.toSlab.any s.relogged) &&
  s.bat.emits.all (fun e => decide (e.region = 63) || decide (ackCounter ≤ e.ctr))

/-- Drop every packet but those that outlast a rewind (R281). -/
def dropPackets (q : List Packet) : List Packet := q.filter outlasts

/-- A micro-batch lies before the last valid commit point: its reports are never dropped, while those of the micro-batches that the replay repeats are sent again (R40, R47, R281). -/
def State.beforeSnap (s : State) (n : Nat) : Bool := match s.flt.snap with | none => false | some q => decide (n < q.mb)

/-- A router drops its packets; what an output keeps to send again goes with its packet (R124, R281). -/
def RouterSt.discard (x : RouterSt) : RouterSt :=
  let q := x.q.filter fun y => outlasts y.2
  let keeps (o : Option (Nat × Packet)) : Bool := match o with | none => false | some z => q.contains z
  { x with q := q, resend := x.resend.filter (fun y => keeps y.2), retries := x.retries.filter fun y => keeps (x.resend.get none y.1) }

/-- Discard what is left in flight on the slab (R281). -/
def State.discardSlab (s : State) : State :=
  let s := s.onCores fun x => { x with outq := dropPackets x.outq, inHi := dropPackets x.inHi, inNo := dropPackets x.inNo, port := [], ported := [], vec := none, accs := [] }
  let s := s.onLregs fun x => { x with outq := dropPackets x.outq, inHi := dropPackets x.inHi, inNo := dropPackets x.inNo }
  let s := s.onRouters RouterSt.discard
  let s : State := { s with eng := s.eng.map fun x => (x.1, { x.2 with toSlab := x.2.toSlab.filter fun p => !s.relogged p }) }
  s.onBat fun b => { b with emits := b.emits.filter fun e => decide (e.region = 63) || decide (ackCounter ≤ e.ctr), launches := [], mbs := b.mbs.filter fun m => s.beforeSnap m.n }

/-- The queues of a core alone, which a restore leaves as they are. -/
def CoreSt.queues (x : CoreSt) : CoreSt := { outq := x.outq, inHi := x.inHi, inNo := x.inNo }

/-- A core of a snapshot over the queues that stand. -/
def CoreSt.under (q x : CoreSt) : CoreSt := { q with outq := x.outq, inHi := x.inHi, inNo := x.inNo }

/-- A press at re-entry: every shard waits again, gathered gradients and counts are cleared; an update already made is recognised by its header; the region is at work again if its step had begun (R283). -/
def LRegionSt.reenter (l : LRegionSt) (ctrs told : Tab Nat) (begun : Nat) (keepReport active : Bool) : LRegionSt :=
  { l with active := active, ctrs := ctrs, orcTold := told, mbBegun := begun, mbEnded := begun, replayTo := if active then max l.replayTo (max 1 l.mbBegun) else l.replayTo, endSent := false, cpReported := false, counts := [], parts := [], asm := [], occ := [],
           rflags := [], phases := [], sums := [], reentered := l.reentered || active, report := if keepReport then l.report else none }

/-- The module stands at a step boundary whose commit token has not left. -/
def State.atBoundary (s : State) : Bool := !s.run.inStep && !s.run.crossed

/-- The snapshot that a re-entry restores: the last valid one; at a boundary that of the boundary itself, though it is still being written (R279, R280; log entry 136). -/
def State.reentrySnap (s : State) : Option Snapshot := if s.atBoundary && s.flt.pendSnap.isSome then s.flt.pendSnap else s.flt.snap

/-- Restore every core and press in service from the last valid snapshot (R280 to R283). -/
def State.restore (s : State) : State :=
  match s.reentrySnap with
  | none => s
  | some q =>
    let d : Tab DmaSt := s.dma.filter fun x => !isRegionChan x.1
    let cores := q.cores.foldl (fun (t : Tab CoreSt) x => t.upd {} x.1 x.2.under) (mapTab {} CoreSt.queues s.cores)
    let s : State := { s with cores := cores, sram := s.restoreSram q, dma := q.dma.foldl (fun (t : Tab DmaSt) x => Tab.set {} t x.1 x.2) d }
    let s := s.serviceRegions.foldl (fun s r =>
      let c := ((q.ctrs.find? fun x => x.1 = r).map (·.2)).getD []
      let b := ((q.begun.find? fun x => x.1 = r).map (·.2)).getD 0
      let o := ((q.told.find? fun x => x.1 = r).map (·.2)).getD []
      s.onLreg r fun l => l.reenter c o b s.prs.sent ((s.run.inStep || s.run.crossed) && !s.run.tokens.contains r)) s
    let s := s.onRun fun x => { x with ended := [] }
    (s.onNum fun n => { n with top := q.mb, done := n.done.map fun x => (x.1, min x.2 q.mb) }).onFlt fun f => { f with relog := f.inlog, aliases := [], pendSnap := if s.atBoundary then f.pendSnap else none }

/-! Holds (R277, R298). -/

/-- The module is held for a cause of Table 15.10, where it stands. -/
def State.holdFor (s : State) (cause : Nat) : State := s.onRun fun r => { r with st := .held, hcause := if cause < 5 ∧ 5 ≤ r.hcause then r.hcause else cause, atStep := !r.inStep }

/-- Partner loss (R277): the module holds at its last commit point, logs it and posts event 0x06. -/
def State.partnerLoss (s : State) (m : Nat) : State :=
  let s := s.logHealth { cls := 0x38, action := 10, detail := m }
  let s := s.event 6 (BitVec.ofNat 64 m)
  let s := s.onFlt fun f => { f with partner := true, partnerMod := m }
  (s.holdFor 3).startRewind.rejoin

/-- The sparing budget is exceeded (R298): complete press updates finish, nothing else begins, and the module holds. -/
def State.sparesExhausted (s : State) : State :=
  let s := s.logHealth { cls := 0x50, action := 10 }
  let s := s.event 8 0
  (s.onFlt fun f => { f with exh := true, quiet := s.serviceRegions, awaiting := [], phase := .none }).holdFor 5

/-- Parameter or exchange state is lost (R294): the module holds and host software restores it. -/
def State.stateLost (s : State) (shards : List (Nat × Nat)) : State :=
  let s := shards.foldl (fun s x => s.logHealth { cls := 0x50, action := 10, pregion := (s.phys x.1).getD 63, lregion := x.1, sub := x.2 }) s
  let s := s.event 9 (BitVec.ofNat 64 shards.length)
  (s.onFlt fun f => { f with quiet := s.serviceRegions, awaiting := [], phase := .none }).holdFor 6

end Sys2Proof.Machine
end

