-- ==== Sys2Proof/Machine/Recipe.lean ====
section
/-! DEFINITION. The arithmetic of the press: schedules, per-step constants, the recipes, the ripe copy and the clip factor (R170 to R175). -/

namespace Sys2Proof.Machine

/-- A binary32 field as a value. -/
def v32 (w : Nat) : Fp := Fp.ofBits b32 w
/-- A binary64 word as a value. -/
def v64 (w : U64) : Fp := Fp.ofBits b64 w.toNat
/-- A value as a binary64 word. -/
def w64 (x : Fp) : U64 := BitVec.ofNat 64 (x.toBits b64).1
/-- A value rounded once to binary32 (R171). -/
def to32 (x : Fp) : Fp := v32 (x.toBits b32).1

/-- One. -/
def fpOne : Fp := .ofNat 1
/-- Zero. -/
def fpZero : Fp := .ofNat 0
/-- 2^e exactly. -/
def fpPow2 (e : Int) : Fp := .fin false 1 e

/-! Binary64 arithmetic. -/

def add64 (a b : Fp) : Fp := (fpAdd b64 a b).v
def sub64 (a b : Fp) : Fp := (fpSub b64 a b).v
def mul64 (a b : Fp) : Fp := (fpMul b64 a b).v
def div64 (a b : Fp) : Fp := (fpDiv b64 a b).v
def sqrt64 (a : Fp) : Fp := (fpSqrt b64 a).v
/-- An integer rounded to binary64. -/
def nat64 (n : Nat) : Fp := (Fr.round b64 (.ofNat n)).v

/-- A sum of squares takes one more exact square, rounded once (R168). -/
def addSquare (acc : Fp) (x : Fp) : Fp := (fpFma b64 x x acc).v

/-! Schedules (R174; log entry 41 for the order of operations). -/

/-- Steps since the schedule began: the difference as a signed 64-bit quantity, not below zero. -/
def schedSteps (s0 : Nat) (step : U64) : Nat := (step - BitVec.ofNat 64 s0).toInt.toNat

/-- The value of a schedule at a step, in binary64. -/
def schedValue (c : Sched) (step : U64) : Fp :=
  let n := schedSteps c.s0 step
  let peak := v32 c.peak
  let floor := v32 c.floor
  if c.form = 4 then
    match (c.pts.filter fun p => p.1 ≤ n).getLast? with
    | none => fpZero
    | some p => v32 p.2
  else if n < c.warm then div64 (mul64 peak (nat64 (n + 1))) (nat64 c.warm)
  else
    let u := n - c.warm
    let m := min u c.dsteps
    match c.form with
    | 0 => peak
    | 1 => add64 floor (mul64 (sub64 peak floor) (mul64 (fpPow2 (-1)) (add64 fpOne (cosPi m c.dsteps))))
    | 2 => add64 floor (mul64 (sub64 peak floor) (sub64 fpOne (div64 (nat64 m) (nat64 c.dsteps))))
    | _ => mul64 peak (sqrt64 (div64 (nat64 c.rsq) (nat64 (u + c.rsq))))

/-! Constants of a shard's update (R171, R175). -/

/-- B^t in binary64: exact where binary64 holds it, as at t = 1 and 2, else an open value within t ulp (R171; log entry 3). -/
def powB (b : Nat) (t : Nat) : Fp := powPick b t

/-- Bias correction 1 ÷ (1 − B^t), rounded once to binary32; 1 without it (R171). -/
def biasK (g : Group) (b : Nat) (t : Nat) : Fp :=
  if g.biasc ∧ (g.recipe = 2 ∨ g.recipe = 4) then to32 (div64 fpOne (sub64 fpOne (powB b t))) else fpOne

/-- Constants of one shard in one step, all binary32. -/
structure PressConst where
  unscale : Fp
  phi : Fp
  lr : Fp
  c1 : Fp
  c2 : Fp
  k1 : Fp
  k2 : Fp
  beta : Fp
  deriving DecidableEq, Repr

/-- The decay of the ripe copy in binary64 (R175). -/
def ripeBeta (g : Group) (t : Nat) : Fp :=
  if g.ripe = 2 then fpMin (v32 g.rbeta) (div64 (nat64 (1 + t)) (nat64 (10 + t))) else v32 g.rbeta

def pressConst (g : Group) (lr : Fp) (t : Nat) (e : Int) (phi : Fp) : PressConst where
  unscale := fpPow2 (-e)
  phi := phi
  lr := to32 (mul64 lr (v32 g.lrmul))
  c1 := to32 (sub64 fpOne (v32 g.b1))
  c2 := to32 (sub64 fpOne (v32 g.b2))
  k1 := biasK g g.b1 t
  k2 := biasK g g.b2 t
  beta := to32 (ripeBeta g t)

/-! One parameter (R172). -/

/-- Flags gathered through a computation. -/
structure PFlags where
  inv : Bool := false
  ovf : Bool := false
  deriving DecidableEq, Repr

/-- A value with the flags of the operations that made it. -/
structure PVal where
  v : Fp
  f : PFlags := {}
  deriving DecidableEq, Repr

/-- An operation joins the flags of its operands with its own. -/
def PVal.of (fs : PFlags) (x : Fr) : PVal := ⟨x.v, ⟨fs.inv || x.inv, fs.ovf || x.ovf⟩⟩

def PFlags.or (a b : PFlags) : PFlags := ⟨a.inv || b.inv, a.ovf || b.ovf⟩

def pMul (a b : PVal) : PVal := .of (a.f.or b.f) (fpMul b32 a.v b.v)
def pAdd (a b : PVal) : PVal := .of (a.f.or b.f) (fpAdd b32 a.v b.v)
def pSub (a b : PVal) : PVal := .of (a.f.or b.f) (fpSub b32 a.v b.v)
def pDiv (a b : PVal) : PVal := .of (a.f.or b.f) (fpDiv b32 a.v b.v)
def pSqrt (a : PVal) : PVal := .of a.f (fpSqrt b32 a.v)
def pFma (a b c : PVal) : PVal := .of ((a.f.or b.f).or c.f) (fpFma b32 a.v b.v c.v)

/-- A constant. -/
def pC (x : Fp) : PVal := ⟨x, {}⟩

/-- Sign of a value: ±1, or the zero itself; a NaN stays the NaN (R172). -/
def fpSign (x : Fp) : Fp :=
  match x with
  | .nan => .nan
  | .inf s => .fin s 1 0
  | .fin s m e => if m = 0 then .fin s m e else .fin s 1 0

/-- What R172 reads of one parameter. -/
structure Param where
  w : Fp
  m : Fp
  v : Fp
  r : Fp
  g : Fp
  deriving DecidableEq, Repr

/-- Gradient after unscaling, clip factor, value clipping and coupled decay (R172). -/
def gradIn (g : Group) (k : PressConst) (p : Param) : PVal :=
  let x := pMul (pMul (pC p.g) (pC k.unscale)) (pC k.phi)
  let x := if g.clip = 1 then { x with v := fpMin (fpMax x.v (v32 g.clipc).negate) (v32 g.clipc) } else x
  if g.decay = 1 then pFma (pC (v32 g.lambda)) (pC p.w) x else x

/-- Moments and direction d of a recipe (R172). -/
def recipeStep (g : Group) (k : PressConst) (p : Param) (x : PVal) : PVal × PVal × PVal :=
  let b1 := pC (v32 g.b1)
  let b2 := pC (v32 g.b2)
  match g.recipe with
  | 0 => let m := pFma b1 (pC p.m) x; (m, pC p.v, m)
  | 1 => let m := pFma b1 (pC p.m) x; (m, pC p.v, pFma b1 m x)
  | 3 =>
    let y := pFma b1 (pC p.m) (pMul (pC k.c1) x)
    (pFma b2 (pC p.m) (pMul (pC k.c2) x), pC p.v, { y with v := fpSign y.v })
  | _ =>
    let m := pFma b1 (pC p.m) (pMul (pC k.c1) x)
    let v := pFma b2 (pC p.v) (pMul (pC k.c2) (pMul x x))
    (m, v, pDiv (pMul m (pC k.k1)) (pAdd (pSqrt (pMul v (pC k.k2))) (pC (v32 g.eps))))

/-- u of a parameter before the trust factor, with its moments (R172). -/
def paramU (g : Group) (k : PressConst) (p : Param) : PVal × PVal × PVal :=
  let (m, v, d) := recipeStep g k p (gradIn g k p)
  (m, v, if g.decay = 2 then pFma (pC (v32 g.lambda)) (pC p.w) d else d)

/-- A parameter after its update, and what happened to it (R172, R175, R178). -/
structure ParamOut where
  w : Nat
  m : Nat
  v : Nat
  r : Nat
  inv : Bool
  ovf : Bool
  wovf : Bool
  gnf : Bool
  nfo : Bool
  deriving DecidableEq, Repr

/-- Bits of a value in binary32. -/
def bits32 (x : Fp) : Nat := (x.toBits b32).1

/-- Update one parameter (R172, R175); `trust` is 1 but for LAMB, `ripe` whether the ripe copy is kept. -/
def updateParam (g : Group) (k : PressConst) (trust : Fp) (p : Param) : ParamOut :=
  let (m, v, u) := paramU g k p
  let u := if g.recipe = 4 then pMul u (pC trust) else u
  let w := pFma (pC k.lr.negate) u (pC p.w)
  let r := if g.ripe = 0 then pC p.r else pFma (pC k.beta) (pSub (pC p.r) { w with f := {} }) { w with f := {} }
  let fl := (w.f.or r.f).or (m.f.or v.f)
  let h := convert b32 b16 (bits32 w.v)
  { w := bits32 w.v, m := bits32 m.v, v := bits32 v.v, r := bits32 r.v
    inv := fl.inv, ovf := fl.ovf, wovf := h.2, gnf := p.g.nonFinite
    nfo := w.v.nonFinite || (Fp.ofBits b16 h.1).nonFinite || m.v.nonFinite || (decide (g.recipe = 2 ∨ g.recipe = 4) && v.v.nonFinite) ||
           (decide (g.ripe ≠ 0) && r.v.nonFinite) }

/-- Clip factor: CLIPC ÷ √S in binary64, rounded to binary32, or 1 when √S is at most CLIPC (R170). -/
def clipFactor (clipc : Nat) (sum : U64) : Fp :=
  let q := sqrt64 (v64 sum)
  if (v32 clipc).lt q then to32 (div64 (v32 clipc) q) else fpOne

/-- LAMB's trust ratio from the two sums (R173). -/
def trustRatio (g : Group) (sw su : Fp) : Fp :=
  if sw.isZero || su.isZero then fpOne else fpMin (to32 (div64 (sqrt64 sw) (sqrt64 su))) (v32 g.trmax)

end Sys2Proof.Machine
end

