-- ==== Sys2Proof/Machine/Remote.lean ====
section
/-! DEFINITION. Remote operations at their target and their completion at the issuer (R87 to R92, R102, R140, R152). -/

namespace Sys2Proof.Machine

/-! Element arithmetic of reduces (R88). -/

/-- One binary32 element of a reduce: result, invalid, overflow. -/
def reduceElem (kind : Nat) (d x : Nat) : Nat × Bool × Bool :=
  let a := Fp.ofBits b32 d
  let b := Fp.ofBits b32 x
  if kind = 2 then let f := fpAdd b32 a b; ((f.v.toBits b32).1, f.inv, f.ovf) else (((fpMax a b).toBits b32).1, false, false)

/-- Flags a reduce raises (R89): invalid, overflow, non-finite written. -/
structure RFlags where
  inv : Bool := false
  ovf : Bool := false
  nfo : Bool := false
  deriving DecidableEq, Repr

/-- `n` binary32 elements of a reduce-add or reduce-max, with their flags. -/
def reduceElems (kind : Nat) : Nat → List Byte → List Byte → RFlags → List Byte × RFlags
  | 0, _, _, f => ([], f)
  | n + 1, d, x, f =>
    let (w, i, o) := reduceElem kind (leNat (d.take 4)) (leNat (x.take 4))
    let (t, g) := reduceElems kind n (d.drop 4) (x.drop 4)
      { inv := f.inv || i, ovf := f.ovf || o, nfo := f.nfo || (Fp.ofBits b32 w).nonFinite }
    (leBytes 4 w ++ t, g)

/-- Target bytes after a reduce packet (R87, R88). -/
def reduceBytes (kind : Nat) (d x : List Byte) : List Byte × RFlags :=
  if kind = 4 then (xorBytes d x, {}) else reduceElems kind (x.length / 4) d x {}

/-- The flags of an application together with those that combining raised (R89, R126). -/
def withNflag (f : RFlags) (nflag : Nat) : RFlags := ⟨f.inv || bitAt nflag 0, f.ovf || bitAt nflag 1, f.nfo || bitAt nflag 2⟩

/-- The flags as a number, and back. -/
def RFlags.code (f : RFlags) : Nat := b2n f.inv + 2 * b2n f.ovf + 4 * b2n f.nfo

/-- Key of an operation: its tag and its module. -/
def opKey (p : Packet) : Nat := p.tag * 65536 + p.smod

/-- Packets of a reduce: 512 bytes of its target range each (R116). -/
def opPackets (p : Packet) : Nat := ceilDiv (8 * p.glen) 512

/-- One more packet of an operation has been applied with these flags: the tally kept, 8 x packets seen + flags so far, and the operation's flags once all its packets have been (R89). -/
def noteOp (t : Tab Nat) (key total flags : Nat) : Tab Nat × Option Nat :=
  let v := t.get 0 key
  let f := v % 8 ||| flags
  let n := v / 8 + 1
  if total ≤ n then (t.set 0 key 0, some f) else (t.set 0 key (8 * n + f), none)

/-- The operations that a packet carries, its own first, each with its packet count and the flags of this application: those of a merged packet count for the operation whose place it keeps (R89, R126; log entry 117). -/
def packetOps (p : Packet) (f : RFlags) : List (Nat × Nat × Nat) :=
  (opKey p, opPackets p, (withNflag f p.nflag).code) :: p.parts.map fun x => (x.1, x.2, 0)

/-- Note every operation of a packet: the tallies, and the flags of each operation that is now whole. -/
def noteOps (t : Tab Nat) : List (Nat × Nat × Nat) → Tab Nat × List Nat
  | [] => (t, [])
  | x :: l =>
    let (t, o) := noteOp t x.1 x.2.1 x.2.2
    let (t, fs) := noteOps t l
    (t, o.toList ++ fs)

/-- The flags as raised: bit 0 invalid, bit 1 overflow, bit 2 non-finite. -/
def RFlags.ofCode (n : Nat) : RFlags := ⟨bitAt n 0, bitAt n 1, bitAt n 2⟩

/-- Word 0 of the record of a reduce; R89 gives no `FMT`, `OUTF` or `NFCNT`, which are 0 here (R89; log entry 118). -/
def reduceRecord (f : RFlags) : U32 := recWord0 (flags4 false f.inv f.ovf f.nfo) false false true 0 0 0

/-- `TILEID` of the records that reduces send (R89). -/
def reduceTileId : U32 := 0xFFFFFFFF

/-! Responses. -/

/-- Where a response to a packet goes, and what it carries over: the issuer's SRAM, its tag, its priority (R115, R116). -/
def responseBase (s : State) (r unit skind : Nat) (p : Packet) (kind : Nat) : Packet :=
  { vc := 1, prio := p.prio, org := clusterOf (gIndex p.gaddr), kind := kind, gaddr := mkGaddr p.smod p.slregion false p.sunit 0, smod := s.ownMod, slregion := r, skind := skind
    sunit := unit, sctx := p.sctx, ltok := p.ltok, tag := p.tag }

/-- Get data in packets of up to 512 bytes; a request carries no local address, so packet k names offset 512k and the issuer adds its own `LADDR` (R91, R116; log entry 157). -/
def getData (base : Packet) (b : List Byte) : List Packet := cutPackets base 0 129 0 b

/-- Prior word of a compare-and-swap and the word written: the new one if the target equals the expected one (Table 5.4). -/
def casWords (target payload : List Byte) : List Byte × List Byte :=
  (target, if target = payload.take 8 then (payload.drop 8).take 8 else target)

/-! Core targets. -/

/-- The packet is a remote operation (Table 6.4). -/
def isOp (p : Packet) : Bool := decide (p.kind ≤ 5) && !isDelta p

/-- The whole target range lies within its SRAM or bank (R87, R92). -/
def rangeOk (p : Packet) : Bool := decide (p.base + 8 * p.glen ≤ gSize p.gaddr)

/-- The whole target range lies within the core's SRAM (R87, R92). -/
def coreRangeOk (p : Packet) : Bool := decide (p.base + 8 * p.glen ≤ sramSize)

/-- Packets of a core's answer join its outbound queue. -/
def State.sendCore (s : State) (r c : Nat) (ps : List Packet) : State := s.onCore r c fun x => { x with outq := x.outq ++ ps }

/-- Apply an operation packet at a core (R87 to R91); a reduce's record carries the target region's current micro-batch (log entry 119). -/
def State.applyCore (s : State) (r c : Nat) (p : Packet) : State :=
  let off := gOffset p.gaddr
  match p.kind with
  | 0 =>
    let s := s.writeSram r c off p.payload
    if p.last then (s.arriveTok r c p.ttok 1).sendCore r c [responseBase s r c 0 p 9] else s
  | 1 => (s.arriveTok r c p.ttok 1).sendCore r c (getData (responseBase s r c 0 p 8) (s.readSram r c off (8 * p.glen)))
  | 5 =>
    let (old, new) := casWords (s.readSram r c off 8) p.payload
    ((s.writeSram r c off new).arriveTok r c p.ttok 1).sendCore r c [{ responseBase s r c 0 p 10 with payload := old }]
  | _ =>
    let (b, f) := reduceBytes p.kind (s.readSram r c off p.payload.length) p.payload
    let s := (s.writeSram r c off b).arriveTok r c p.ttok p.count
    if p.kind = 4 then s
    else
      let n := noteOps (s.core r c).rflags (packetOps p f)
      let s := s.onCore r c fun x => { x with rflags := n.1 }
      n.2.foldl (fun s k => s.sendRecord r c (s.mbNow r) reduceTileId (reduceRecord (.ofCode k)) (recWord1 0xFFFFFF 0)) s

/-- The target's region rejects an operation once, at its first packet; its other packets are dropped (log entry 34). -/
def State.rejectFirst (s : State) (r : Nat) (p : Packet) : State :=
  if gOffset p.gaddr = p.base then s.rejectOp ((s.phys r).getD 63) p else s

/-- An operation at a core, or its rejection by the target's region (R92). -/
def State.opAtCore (s : State) (r c : Nat) (p : Packet) : State :=
  if coreRangeOk p then s.applyCore r c p else s.rejectFirst r p

/-! Store targets. -/

/-- What the store interface does with an operation (R92, R140, R152, R163). -/
inductive StoreClass where
  | ok | reject | discard | contribution
  deriving DecidableEq, Repr

/-- Lines of the operation's whole target range. -/
def opLines (p : Packet) : List Nat := (List.range ((p.base % 2048 + 8 * p.glen + 2047) / 2048)).map (p.base / 2048 + ·)

/-- Judge an operation against the store map; a contribution's lines are all master lines of one shard, and a put is discarded whole if any line of its range is closed (Table 7.1, R92, R140, R152, R163; log entry 134). -/
def State.storeClass (s : State) (r : Nat) (direct : Bool) (p : Packet) : StoreClass :=
  let bank := gIndex p.gaddr
  let rc := s.course r
  let lines := opLines p
  let shard (l : Nat) : Option Nat := (s.copyOf r bank l copyMaster).map (·.1)
  let master (l : Nat) : Bool := (shard l).isSome
  if 2048 * bankLines bank < p.base + 8 * p.glen then .reject
  else if lines.any fun l => areaOf rc bank l = .free then .reject
  else if p.kind = 1 then .ok
  else if lines.any master then
    (if p.kind = 2 ∧ !direct ∧ lines.all (fun l => shard l == shard (p.base / 2048)) ∧ p.base % 2048 = 0 ∧ 8 * p.glen % 2048 = 0 then .contribution else .reject)
  else if direct ∨ p.kind ≠ 0 ∨ lines.any (fun l => areaOf rc bank l ≠ .exchange) then .reject
  else if lines.any (s.resClosed r bank) then .discard
  else .ok

/-- A line the operation touches is waiting for its recovery (R137; log entry 28). -/
def State.lineWaits (s : State) (r : Nat) (p : Packet) : Bool :=
  (opLines p).any fun l => s.store.bad.contains (lineKey (s.column r) (gIndex p.gaddr) l)

/-- A plain operation at the head of a store interface's queues: no delta, no contribution, no line awaiting recovery. -/
def State.storeOp (s : State) (r : Nat) (p : Packet) : Bool := isOp p && !s.lineWaits r p && decide (s.storeClass r false p ≠ .contribution)

/-- Apply an operation packet at a store bank; `answer` takes the response (R87, R91, R102, R152). -/
def State.applyStore (s : State) (r : Nat) (direct : Bool) (p : Packet) (answer : List Packet → State → State) (unit : Nat) : State :=
  let bank := gIndex p.gaddr
  let off := gOffset p.gaddr
  match s.storeClass r direct p with
  | .reject => s.rejectFirst r p
  | .contribution => s
  | .discard =>
    let s := if off = p.base then s.resDiscard r bank (off / 2048) else s
    if p.last then answer [responseBase s r unit 1 p 9] s else s
  | .ok =>
    if p.kind = 1 then
      let s := match tokOf p.ttok with | none => s | some k => s.addSiCtr r k 1
      answer (getData (responseBase s r unit 1 p 8) (s.readStore r bank off (8 * p.glen))) s
    else
      let s := s.writeExchange r bank (off / 2048) (off % 2048) (p.payload.take (2048 - off % 2048))
      let s := if 2048 < off % 2048 + p.payload.length then s.writeExchange r bank (off / 2048 + 1) 0 (p.payload.drop (2048 - off % 2048)) else s
      if p.last then
        let s := match tokOf p.ttok with | none => s | some k => s.addSiCtr r k 1
        answer [responseBase s r unit 1 p 9] s
      else s

/-- Responses to direct operations wait in the vertical port's own buffer (R102, Table 5.1). -/
def portAnswer (r c : Nat) (ps : List Packet) (s : State) : State := s.onCore r c fun x => { x with ported := x.ported ++ ps }

/-- Bytes in the port's buffer on the core's side, of 8 KiB (Table 5.1). -/
def State.portHeld (s : State) (r c : Nat) : Nat := (s.core r c).ported.foldl (fun n p => n + p.payload.length) 0

/-- The buffer has room for what a direct operation is answered with next. -/
def State.portRoom (s : State) (r c : Nat) (p : Packet) : Bool := p.kind ≠ 1 || decide (s.portHeld r c + min 512 (8 * p.glen) ≤ 8192)

/-- The part of a direct get that its port serves at once, up to 512 bytes, and the part that is left: each part is one data packet (R102, R116). -/
def portPart (p : Packet) : Packet := if p.kind = 1 then { p with glen := min 64 p.glen } else p
def portRest (p : Packet) : List Packet :=
  if p.kind = 1 ∧ 64 < p.glen then
    [{ p with pidx := p.pidx + 1, gaddr := gWithOffset p.gaddr (gOffset p.gaddr + 512), base := p.base + 512, glen := p.glen - 64 }]
  else []

/-- The answer of a served part carries the place of its 512 bytes in the operation. -/
def portAnswers (p : Packet) (ps : List Packet) : List Packet := if p.kind = 1 then ps.map fun q => { q with pidx := p.pidx, gaddr := gWithOffset q.gaddr (512 * p.pidx), last := decide (p.glen ≤ 64) } else ps

/-- Vertical-port traffic in store cycles: whole lines or 64-byte parts, 2 cycles a part and so 64 a line (R103, R105). -/
def portCycles (p : Packet) : Nat :=
  let n := if p.kind = 1 then 8 * p.glen else p.payload.length
  if n = 0 then 0 else 2 * ((gOffset p.gaddr + n - 1) / 64 + 1 - gOffset p.gaddr / 64)

/-- REMOTE_OPERATION_APPLY (R91): at a core, at a store interface, or at the bank beneath a core through its vertical port. -/
def execRemoteOperationApply (t : Target) (s : State) : Ans :=
  match t with
  | .core r c =>
    match s.takeCore r c isOp with
    | none => .next s
    | some (p, s) => .next (s.opAtCore r c p)
  | .store r =>
    match s.takeOrdered r (s.storeOp r) with
    | none => .next s
    | some (p, s) => .next (s.applyStore r false p (fun ps s => s.sendStore r ps) 0)
  | .port r c =>
    match (s.core r c).port with
    | [] => .next s
    | p :: t =>
      if s.lineWaits r p || !s.portRoom r c p then .next s
      else if s.storeClass r true p = .ok then
        let s := s.onCore r c fun x => { x with port := portRest p ++ t }
        let s := if p.pidx = 0 ∨ p.kind ≠ 1 then s.countL r 0x2028 (portCycles p) else s
        let q := if (portRest p).isEmpty then portPart p else { portPart p with ttok := 0 }
        .next ((s.applyStore r true q (fun ps => portAnswer r c (portAnswers p ps)) c).progress r)
      else .next (((s.onCore r c fun x => { x with port := t }).applyStore r true p (portAnswer r c) c).progress r)

/-! Completion at the issuer (R91). -/

/-- The context of a core that has an operation of this tag outstanding, with the entry. -/
def State.findOutst (s : State) (r c : Nat) (tag kind : Nat) : Option (Nat × Outst) :=
  (s.core r c).ctxs.findSome? fun x => (x.2.outst.find? fun o => o.tag = tag && o.kind = kind).map fun o => (x.1, o)

/-- An operation completes at its issuer: it is no longer outstanding and its local token rises. -/
def State.finishOp (s : State) (r c j : Nat) (o : Outst) : State :=
  let s := s.onCtx r c j fun x => { x with outst := x.outst.filter fun y => y.tag ≠ o.tag }
  (s.arriveTok r c o.ltok 1).progress r

/-- GET_DATA_ARRIVAL (R91): data packet k is written at the local address plus 512k; the last one completes the get. -/
def execGetDataArrival (r : Region) (c : Core) (s : State) : Ans :=
  match s.takeCore r c (fun p => p.kind = 8) with
  | none => .next s
  | some (p, s) =>
    match s.findOutst r c p.tag 1 with
    | none => .next s
    | some (j, o) =>
      let s := s.writeSram r c (o.laddr + 512 * p.pidx) p.payload
      if o.left ≤ 1 then .next (s.finishOp r c j o)
      else .next (s.onCtx r c j fun x => { x with outst := x.outst.map fun y => if y.tag = o.tag then { y with left := y.left - 1 } else y })

/-- PUT_ACKNOWLEDGEMENT (R91). -/
def execPutAcknowledgement (r : Region) (c : Core) (s : State) : Ans :=
  match s.takeCore r c (fun p => p.kind = 9) with
  | none => .next s
  | some (p, s) =>
    match s.findOutst r c p.tag 0 with
    | none => .next s
    | some (j, o) => .next (s.finishOp r c j o)

/-- COMPARE_AND_SWAP_RESULT (R87): the prior target word is written to the third word of the local operand. -/
def execCompareAndSwapResult (r : Region) (c : Core) (s : State) : Ans :=
  match s.takeCore r c (fun p => p.kind = 10) with
  | none => .next s
  | some (p, s) =>
    match s.findOutst r c p.tag 5 with
    | none => .next s
    | some (j, o) => .next ((s.writeSram r c (o.laddr + 16) (p.payload.take 8)).finishOp r c j o)

end Sys2Proof.Machine
end

