-- ==== Sys2Proof/Machine/Press.lean ====
section
/-! DEFINITION. The press: contributions, updates on arrival and held, the norm exchange, fingerprints and stamp refresh (R163 to R182, R283, R284, R297). -/

namespace Sys2Proof.Machine

/-- Update timing of the mode course: held for clip (Table 19.1). -/
def State.heldTiming (s : State) : Bool := s.modeCourse.updt

/-- The press of a logical region works: its step has begun, it has a powered position, and no rewind has stopped it (R159, R281). Complete updates finish in a hold for exhausted spares (R298). -/
def State.pressRuns (s : State) (r : Nat) : Bool :=
  (s.lreg r).active && (!s.flt.quiet.contains r || s.flt.exh) &&
  match s.phys r with
  | none => false
  | some p => (s.reg p).powered

/-! Contributions (R163 to R166, R168). -/

/-- Key of a shard's line. -/
def countKey (k j : Nat) : Nat := k * 2 ^ 24 + j

/-- Contribution count of line j of shard k. -/
def State.lineCount (s : State) (r k j : Nat) : Nat := (s.lreg r).counts.get 0 (countKey k j)

/-- Every line of the shard is complete (R164). -/
def State.shardMet (s : State) (r k : Nat) (sh : Shard) : Bool := (List.range sh.nlines).all fun j => decide (s.lineCount r k j = 4 * sh.ncont)

/-- Phase of a shard in the step. -/
def State.phase (s : State) (r k : Nat) : ShardPhase := (s.lreg r).phases.get .waiting k
def State.setPhase (s : State) (r k : Nat) (p : ShardPhase) : State := s.onLreg r fun l => { l with phases := l.phases.set .waiting k p }

/-- A shard's header line (R179). -/
def State.header (s : State) (r : Nat) (sh : Shard) : List Byte := s.readLine r sh.hbank sh.hline
/-- Applied-update counter and step of the last update (Table 8.6). -/
def hdrT (h : List Byte) : Nat := leAt h 0 8
def hdrLstep (h : List Byte) : Nat := leAt h 8 8

/-- In a re-entered step, a shard already updated, or refreshed, in it (R283, R284). -/
def State.alreadyDone (s : State) (r : Nat) (sh : Shard) : Bool :=
  (s.lreg r).reentered && ((s.lreg r).stamped || decide (hdrLstep (s.header r sh) = s.run.step.toNat))

/-- The shard and line of a contribution packet. -/
def State.contribPlace (s : State) (r : Nat) (p : Packet) : Option (Nat × Nat) := s.copyOf r (gIndex p.gaddr) (gOffset p.gaddr / 2048) copyMaster

/-- A contribution whose assembly slot another shard still occupies waits for credit (R166). -/
def State.slotBlocked (s : State) (r : Nat) (p : Packet) : Bool :=
  !s.heldTiming &&
  match s.contribPlace r p with
  | none => false
  | some (k, j) =>
    match s.shard r k with
    | none => false
    | some sh => let o := (s.lreg r).occ.get 0 (sh.abase + j); decide (o ≠ 0 ∧ o ≠ k + 1)

/-- A contribution packet that the press can take now. -/
def State.contribNow (s : State) (r : Nat) (p : Packet) : Bool :=
  isOp p && decide (s.storeClass r false p = .contribution) && !s.lineWaits r p && !s.slotBlocked r p

/-- The source fields of a packet in a health-log record: its region and unit, its module as `SUB` and its context as `DETAIL` (R164, R221; log entry 141). -/
def srcRec (cls pregion : Nat) (p : Packet) : HealthRec :=
  { cls := cls, pregion := pregion, lregion := p.slregion, unit := unitOf p, sub := p.smod, detail := p.sctx }

/-- Elements of a line part written first are copied; later ones are added (R88, R164). -/
def joinPart (first : Bool) (old new : List Byte) : List Byte × RFlags :=
  if first then (new, { nfo := (List.range (new.length / 4)).any fun i => (v32 (leAt new (4 * i) 4)).nonFinite }) else reduceBytes 2 old new

/-- Where line j of shard k gathers its gradient: bytes of a part, read and written (R166, R168). -/
def State.readPart (s : State) (r : Nat) (sh : Shard) (j part : Nat) : List Byte :=
  if s.heldTiming then
    match (s.copyLines r sh copyBuffer)[j]? with
    | none => List.replicate 512 0
    | some (b, l) => s.readStore r b (l * 2048 + 512 * part) 512
  else readMem (s.lreg r).asm ((sh.abase + j) * 2048 + 512 * part) 512

def State.writePart (s : State) (r : Nat) (sh : Shard) (k j part : Nat) (b : List Byte) : State :=
  if s.heldTiming then
    match (s.copyLines r sh copyBuffer)[j]? with
    | none => s
    | some (bk, l) => s.writeLinePart r bk l (512 * part) b
  else
    s.onLreg r fun x =>
      let occ := x.occ.set 0 (sh.abase + j) (k + 1)
      { x with asm := writeMem x.asm ((sh.abase + j) * 2048 + 512 * part) b, occ := occ, hiwat := max x.hiwat occ.length }

/-- The record of R89 for a reduce at a store bank, once its last packet has been applied or, in excess, discarded. -/
def State.contribRecord (s : State) (r : Nat) (p : Packet) (f : RFlags) : State :=
  let n := noteOps (s.lreg r).rflags (packetOps p f)
  let s := s.onLreg r fun x => { x with rflags := n.1 }
  n.2.foldl (fun s k => s.sendUnitRecord r (gIndex p.gaddr) reduceTileId (reduceRecord (.ofCode k)) (recWord1 0xFFFFFF 0)) s

/-- The target token of a contribution, which names a counter of the store interface (R161). -/
def State.contribTok (s : State) (r : Nat) (p : Packet) : State :=
  match tokOf p.ttok with
  | none => s
  | some c => s.addSiCtr r c p.count

/-- Take a contribution packet for line j of shard k: discarded when of another layout epoch or in excess, consumed unapplied for a shard already updated, else gathered and counted (R164, R165, R221, R283). -/
def State.contribute (s : State) (r k j : Nat) (sh : Shard) (p : Packet) : State :=
  let part := gOffset p.gaddr % 2048 / 512
  let pr := (s.phys r).getD 63
  if p.layout.toNat ≠ sh.epoch then
    (s.onCfg fun c => { c with miss := sat32 c.miss 1 }).logHealth (srcRec 0x7B pr p)
  else if 4 * sh.ncont < s.lineCount r k j + p.count then
    ((s.onPrs fun x => { x with excess := true, excessCount := sat32 x.excessCount 1 }).logHealth (srcRec 0x74 pr p)).contribRecord r { p with nflag := 0 } {}
  else
    let counted (s : State) : State := (s.onLreg r fun x => { x with counts := x.counts.upd 0 (countKey k j) (· + p.count) }).contribTok r p
    if s.alreadyDone r sh then counted s
    else
      let pk := countKey k j * 4 + part
      let (b, f) := joinPart (!((s.lreg r).parts.get false pk)) (s.readPart r sh j part) p.payload
      let s := (s.writePart r sh k j part b).onLreg r fun x => { x with parts := x.parts.set false pk true }
      (counted s).contribRecord r p f

/-- CONTRIBUTION_ARRIVAL (R164): the press takes its first contribution that no occupied slot holds back. -/
def execContributionArrival (r : Region) (s : State) : Ans :=
  if s.pressRuns r && !s.flt.exh then
    match s.takeStore r (s.contribNow r) with
    | none => .next s
    | some (p, s') =>
      match s.contribPlace r p with
      | none => .next s
      | some (k, j) =>
        match s.shard r k with
        | none => .next s
        | some sh => .next (s'.contribute r k j sh p)
  else .next s

/-! The update of one shard (R171 to R180). -/

/-- Bytes of line j of a copy; zeros where the copy is not kept. -/
def State.copyLine (s : State) (r : Nat) (sh : Shard) (copy j : Nat) : List Byte :=
  match (s.copyLines r sh copy)[j]? with
  | none => List.replicate 2048 0
  | some (b, l) => s.readLine r b l

/-- Gathered gradient of line j. -/
def State.gradLine (s : State) (r : Nat) (sh : Shard) (j : Nat) : List Byte := (List.range 4).flatMap (s.readPart r sh j)

/-- The parameters of a line from its five byte lists. -/
def lineParams : Nat → List Byte → List Byte → List Byte → List Byte → List Byte → List Param
  | 0, _, _, _, _, _ => []
  | n + 1, w, m, v, r, g =>
    ⟨v32 (leNat (w.take 4)), v32 (leNat (m.take 4)), v32 (leNat (v.take 4)), v32 (leNat (r.take 4)), v32 (leNat (g.take 4))⟩ ::
      lineParams n (w.drop 4) (m.drop 4) (v.drop 4) (r.drop 4) (g.drop 4)

def State.params (s : State) (r : Nat) (sh : Shard) (j : Nat) : List Param :=
  lineParams 512 (s.copyLine r sh copyMaster j) (s.copyLine r sh copyM j) (s.copyLine r sh copyV j) (s.copyLine r sh copyRipe j) (s.gradLine r sh j)

/-- The copies besides the master that the press writes for a group (Table 7.2). -/
def writtenCopies (g : Group) : List Nat := [copyM] ++ (if g.recipe = 2 ∨ g.recipe = 4 then [copyV] else []) ++ (if g.ripe ≠ 0 then [copyRipe] else [])

/-- Write line j of a kept copy as a parameter write (R144). -/
def State.writeCopy (s : State) (r : Nat) (sh : Shard) (copy j : Nat) (b : List Byte) : State :=
  match (s.copyLines r sh copy)[j]? with
  | none => s
  | some (bk, l) => s.writeLinePart r bk l 0 b

/-- Bytes of one output field of a line. -/
def outBytes (f : ParamOut → Nat) (os : List ParamOut) : List Byte := os.flatMap fun o => leBytes 4 (f o)

/-- Write what an update made of line j (R172). -/
def State.writeOuts (s : State) (r : Nat) (sh : Shard) (g : Group) (j : Nat) (os : List ParamOut) : State :=
  let s := s.writeMaster r sh j (outBytes (·.w) os)
  (writtenCopies g).foldl (fun s c => s.writeCopy r sh c j (outBytes (if c = copyM then (·.m) else if c = copyV then (·.v) else (·.r)) os)) s

/-- What an update's numeric record gathers (R178). -/
structure Tally where
  nfi : Bool := false
  inv : Bool := false
  ovf : Bool := false
  nfo : Bool := false
  cnt : Nat := 0
  first : Option (Nat × Nat × Nat) := none   -- element, cause, line
  deriving DecidableEq, Repr

/-- Cause code of a parameter's first event (R178). -/
def outCause (o : ParamOut) : Nat := if o.gnf then 1 else if o.inv then 2 else if o.ovf then 3 else if o.wovf then 7 else 0

/-- One parameter joins the tally. -/
def Tally.add (t : Tally) (line pos : Nat) (o : ParamOut) : Tally :=
  { nfi := t.nfi || o.gnf, inv := t.inv || o.inv, ovf := t.ovf || o.ovf || o.wovf, nfo := t.nfo || o.nfo
    cnt := t.cnt + b2n (o.gnf || o.nfo)
    first := match t.first with
      | some x => some x
      | none => if o.gnf || o.inv || o.ovf || o.wovf || o.nfo then some (pos, outCause o, line) else none }

def Tally.addLine (t : Tally) (line : Nat) (os : List ParamOut) : Tally := (os.zip (List.range 512)).foldl (fun t x => t.add line x.2 x.1) t

/-- Records in the press event queue of a region (Table 9.2 queue 4,085). -/
def State.pressRecs (s : State) (r : Nat) : Nat := (s.bat.nums.filter fun n => n.lregion = r ∧ n.lcore = 0x3FF).length

/-- Send a shard's numeric record when a non-finite value was seen or written; dropped at a full queue of 8 (R40, R178, Table 9.2; log entry 138); with `MBATCH` 0 it is of a replay as the work of that micro-batch is (R42; log entry 122). -/
def State.sendShardRecord (s : State) (r k : Nat) (t : Tally) : State :=
  if (t.nfi || t.nfo) && decide (s.pressRecs r < eventEntries) then
    let (pos, cause, line) := t.first.getD (0, 0, 0)
    s.onBat fun b => { b with nums := b.nums ++ [{ step := s.run.step, mbatch := 0, replay := s.replayed r 0, lregion := r, pregion := (s.phys r).getD 63,
                                                   lcore := 0x3FF, pcore := 0x3FF, tileId := BitVec.ofNat 32 (0xFFFE0000 + k)
                                                   w0 := recWord0 (flags4 t.nfi t.inv t.ovf t.nfo) true false false pos cause (min t.cnt 1023)
                                                   w1 := recWord1 (min line 0xFFFFFE) 0 }] }
  else s

/-- The tally of working elements that a store interface's master writes made infinite (R150, R178). -/
def ovfTally (t : Tally) (line : Nat) (m : List Byte) : Tally :=
  let o := workOvf m
  { t with ovf := t.ovf || !o.isEmpty, nfo := t.nfo || !o.isEmpty, cnt := t.cnt + o.length
           first := match t.first with
             | some x => some x
             | none => o.head?.map fun p => (p, 7, line) }

/-- The tally of a shard's whole master copy. -/
def State.masterTally (s : State) (r : Nat) (sh : Shard) : Tally := (List.range sh.nlines).foldl (fun t i => ovfTally t i (s.copyLine r sh copyMaster i)) {}

/-- Does the press write line j of a shard: not one it wrote before the rewind, whose stamp is the step's (R283). -/
def State.lineDue (s : State) (r : Nat) (sh : Shard) (j : Nat) : Bool :=
  !(s.lreg r).reentered ||
  match (s.copyLines r sh copyMaster)[j]? with
  | none => true
  | some (b, l) => decide (s.stamp r b l ≠ s.stepStamp)

/-- Update the lines of a shard in ascending order (R166, R172). -/
def State.updateLines (s : State) (r : Nat) (sh : Shard) (g : Group) (k : PressConst) (trust : Fp) : Nat → Nat → Tally → State × Tally
  | 0, _, t => (s, t)
  | n + 1, j, t =>
    if s.lineDue r sh j then
      let os := (s.params r sh j).map (updateParam g k trust)
      (s.writeOuts r sh g j os).updateLines r sh g k trust n (j + 1) (t.addLine j os)
    else s.updateLines r sh g k trust n (j + 1) t

/-- First-pass sums of LAMB: squared masters and squared u, in ascending order (R173). -/
def State.trustSums (s : State) (r : Nat) (sh : Shard) (g : Group) (k : PressConst) : Fp × Fp :=
  (List.range sh.nlines).foldl (fun a j =>
    (s.params r sh j).foldl (fun a p => (addSquare a.1 p.w, addSquare a.2 (paramU g k p).2.2.v)) a) (fpZero, fpZero)

/-- Replica check on (R404). -/
def State.replicaCheck (s : State) : Bool := (s.setting 0x02200000).getLsbD 0

/-- Modules of a list of the link course other than this one (R412): 2 the replica group, 3 the clip group. -/
def State.partnersIn (s : State) (kind : Nat) : List Nat :=
  (((s.linkCourse.lists.find? fun x => x.1 = kind).map (·.2)).getD []).filter fun m => decide (m ≠ s.ownMod)

/-- Fingerprint of a shard of step `n` from the lines it holds (R180). -/
def State.fingerprintAt (s : State) (r k : Nat) (sh : Shard) (g : Group) (n : U64) : BitVec 128 :=
  let line (j : Nat) : List Byte :=
    shake256 (leBytes 4 j ++ ([copyMaster] ++ writtenCopies g).flatMap fun c =>
      match (s.copyLines r sh c)[j]? with
      | none => []
      | some (b, l) => s.readLine r b l) 16
  let x := (List.range sh.nlines).foldl (fun a j => xorBytes a (line j)) (List.replicate 16 0)
  BitVec.ofNat 128 (leNat (shake256 (leBytes 8 n.toNat ++ leBytes 4 s.cfg.layout.toNat ++ leBytes 4 k ++ x) 16))

/-- That of the current step. -/
def State.fingerprint (s : State) (r k : Nat) (sh : Shard) (g : Group) : BitVec 128 := s.fingerprintAt r k sh g s.run.step

/-- Write a shard's header (R179). -/
def State.writeHeader (s : State) (r : Nat) (sh : Shard) (t : Nat) (fp : Option (BitVec 128)) : State :=
  let h := leBytes 8 t ++ leBytes 8 s.run.step.toNat ++ leBytes 4 s.cfg.layout.toNat ++ leBytes 4 (b2n fp.isSome) ++ leBytes 16 (fp.getD 0).toNat
  s.writeLinePart r sh.hbank sh.hline 0 (h ++ List.replicate 2008 0)

/-- Module number that stands for this module among fingerprints. -/
def ownFp : Nat := 0x10000

/-- A shard's fingerprint of step `n` goes to the control die, which sends it to every replica (R180); comparison is then awaited. -/
def State.sendFpAt (s : State) (r k : Nat) (n : U64) (fp : BitVec 128) : State :=
  let others := s.partnersIn 2
  let s := others.foldl (fun s m => s.emitOut (.fingerprint m r k n fp)) s
  s.onPrs fun p => { p with
    fps := (p.fps.filter fun x => !(x.1 = ownFp && x.2.1 = r && x.2.2.1 = k)) ++ [(ownFp, r, k, n, fp)]
    waitFp := if others.isEmpty then p.waitFp else p.waitFp ++ [(r, k)] }

/-- That of the current step. -/
def State.sendFp (s : State) (r k : Nat) (fp : BitVec 128) : State := s.sendFpAt r k s.run.step fp

/-- Counts, parts and slots of a consumed shard return to zero and free (R164, R166). -/
def State.consume (s : State) (r k : Nat) (sh : Shard) : State :=
  s.onLreg r fun l => { l with
    counts := l.counts.filter fun x => !decide (x.1 / 2 ^ 24 = k)
    parts := l.parts.filter fun x => !decide (x.1 / 4 / 2 ^ 24 = k)
    occ := l.occ.filter fun x => !(decide (x.2 = k + 1) && decide (sh.abase ≤ x.1) && decide (x.1 < sh.abase + sh.nlines)) }

/-- End a shard's turn of the step: gathered state consumed, free emits (on arrival only) and ready emits sent (R166, R170). -/
def State.endShard (s : State) (r k : Nat) (sh : Shard) (p : ShardPhase) (ready : Bool) : State :=
  let s := ((s.consume r k sh).setPhase r k p)
  let s := if s.heldTiming then s else s.sendEmits sh.frees
  if ready then s.sendEmits sh.ready else s

/-- Update a shard under its group's constants: lines, free emits, header with fingerprint, record, and ready emits unless replicas are still to be compared (R166, R170, R178 to R180, R297; log entry 45). -/
def State.updateShard (s : State) (r k : Nat) (sh : Shard) (phi : Fp) (groupTrust : Option Fp) : State :=
  let g := s.pressCourse.groups.getD sh.group {}
  let t := hdrT (s.header r sh) + 1
  let c := pressConst g (v64 ((s.lreg r).lrs.getD g.sched 0)) t (if s.heldTiming then s.prs.exp else 0) phi
  let trust := match groupTrust with
    | some x => x
    | none => if g.recipe = 4 then (let (a, b) := s.trustSums r sh g c; trustRatio g a b) else fpOne
  let (s, ta) := s.updateLines r sh g c trust sh.nlines 0 {}
  let s := s.onPrs fun p => { p with upd := p.upd + 512 * sh.nlines }
  let fp := if s.replicaCheck then some (s.fingerprint r k sh g) else none
  let s := s.writeHeader r sh t fp
  let s := s.sendShardRecord r k ta
  match fp with
  | none => s.endShard r k sh .updated true
  | some f => (s.sendFp r k f).endShard r k sh .updated (s.partnersIn 2).isEmpty

/-- Sheafed lines of a shard, its header included. -/
def State.shardLines (s : State) (r : Nat) (sh : Shard) : List (Nat × Nat) :=
  [copyMaster, copyM, copyV, copyRipe].flatMap (s.copyLines r sh) ++ [(sh.hbank, sh.hline)]

/-! Replica fingerprints (R297; log entries 45 and 46). -/

/-- The step-`n` fingerprints of a shard held: module and value. -/
def State.fpsOf (s : State) (r k : Nat) (n : U64) : List (Nat × BitVec 128) :=
  s.prs.fps.filterMap fun x => if x.2.1 = r ∧ x.2.2.1 = k ∧ x.2.2.2.1 = n then some (x.1, x.2.2.2.2) else none

/-- Real module number of a fingerprint's sender. -/
def State.fpMod (s : State) (m : Nat) : Nat := if m = ownFp then s.ownMod else m

/-- The value that more than half of the modules hold. -/
def majorityFp (l : List (Nat × BitVec 128)) : Option (BitVec 128) :=
  (l.find? fun x => decide (l.length < 2 * (l.filter fun y => y.2 = x.2).length)).map (·.2)

/-- The comparison of a shard is over: the fingerprints of its step leave, and its ready emits go out, unless the step is being replayed and the shard's turn, still to come, gives them (R283, R297). -/
def State.resolveFp (s : State) (r k : Nat) (n : U64) (sh : Shard) : State :=
  let again := decide (n = s.run.step) && !decide (s.phase r k = .updated ∨ s.phase r k = .unchanged)
  let s := s.onPrs fun p => { p with
    fps := p.fps.filter fun x => !(x.2.1 = r && x.2.2.1 = k && x.2.2.2.1 = n), waitFp := p.waitFp.filter (· ≠ (r, k)), round2 := p.round2.filter (· ≠ (r, k))
    mism := p.mism.filter fun x => !(x.1 = r && x.2.1 = k) }
  if again then s else s.sendEmits sh.ready

/-- Replace a shard's master, moments, ripe copy and header by the lines of another module, as parameter writes that regenerate the working copy (R297). -/
def State.fetchShard (s : State) (r k : Nat) (sh : Shard) : State :=
  let s := (List.range sh.nlines).foldl (fun s j =>
    let (b, s) := s.foreignLine
    [copyM, copyV, copyRipe].foldl (fun s c => if (s.copyLines r sh c).isEmpty then s else let (b, s) := s.foreignLine; s.writeCopy r sh c j b) (s.writeMaster r sh j b)) s
  let (h, s) := s.foreignLine
  (s.writeLinePart r sh.hbank sh.hline 0 h).sendShardRecord r k (s.masterTally r sh)

/-- Rebuild a line of a shard from its inner sheaf where they do not agree and no other member is gone; a master line's working elements follow, and the tally takes those that become infinite (R147, R150). -/
def State.checkSheaf (s : State) (r : Nat) (t : Tally) (x : Nat × Nat) : State × Tally :=
  match s.sheafOf r x.1 x.2 with
  | none => (s, t)
  | some (h, m, j) =>
    let (d, st) := s.sheafXor h m j
    if s.othersGone h m j ∨ d = s.readLine r x.1 x.2 then (s, t)
    else
      let s := ((s.writeStore r x.1 (x.2 * 2048) d).setStamp r x.1 x.2 st).onStore fun q => { q with rebuild := sat32 q.rebuild 1 }
      match s.copyOf r x.1 x.2 copyMaster with
      | none => (s, t)
      | some (k, i) => (s.writeWorking r ((s.shards r).getD k {}) i d, ovfTally t i d)

/-- Rebuild every line of a shard that its inner sheaf does not agree with (R147, R297), with the record of R178. -/
def State.checkSheafs (s : State) (r k : Nat) (sh : Shard) : State :=
  let x := (s.shardLines r sh).foldl (fun a l => a.1.checkSheaf r a.2 l) (s, ({} : Tally))
  x.1.sendShardRecord r k x.2

/-- A fingerprint in shortened form: its leading 32 bits (R297; log entry 164). -/
def shortFp (fp : BitVec 128) : Nat := (fp >>> 96).toNat

/-- A replica mismatch is met: counted once, and logged with the shard and the fingerprint of every replica (R297, R301). -/
def State.noteMismatch (s : State) (r k : Nat) (l : List (Nat × BitVec 128)) : State :=
  if s.prs.mism.any fun x => x.1 = r && x.2.1 = k then s
  else
    let s := (s.onFlt fun f => { f with rmis := sat32 f.rmis 1 }).onPrs fun p => { p with mism := p.mism ++ [(r, k, s.time.toNat)] }
    l.foldl (fun s x => s.logHealth { cls := 0x40, pregion := (s.phys r).getD 63, lregion := r, unit := 0x0401, sub := k, detail := shortFp x.2 }) s

/-- A mismatch is over: its completion record gives the overhead (Table 13.9). -/
def State.endMismatch (s : State) (r k : Nat) : State :=
  match s.prs.mism.find? fun x => x.1 = r && x.2.1 = k with
  | none => s
  | some x => s.logHealth { cls := 0x40, action := 8, done := true, pregion := (s.phys r).getD 63, lregion := r, unit := 0x0401, sub := k, detail := s.overhead x.2.2 }

/-- The lines of a shard that a check against their sheaf reads are settled (R146). -/
def State.shardSettled (s : State) (r : Nat) (sh : Shard) : Bool := (s.shardLines r sh).all fun l => s.maySettle r l.1 l.2

/-- Resolve a mismatch (R297): by the majority of three or more; otherwise, the first time, every line is checked against its sheaf, once that is settled, and the shard compared again; the second time the lowest-numbered module supplies it. -/
def State.resolveMismatch (s : State) (r k : Nat) (n : U64) (sh : Shard) (own : BitVec 128) (l : List (Nat × BitVec 128)) : State :=
  let keep (s : State) : State := (s.endMismatch r k).resolveFp r k n sh
  let fetch (s : State) : State := keep (s.fetchShard r k sh)
  if s.prs.round2.contains (r, k) then (if (s.partnersIn 2).all (fun m => decide (s.ownMod ≤ m)) then keep s else fetch s)
  else
    match if l.length < 3 then none else majorityFp l with
    | some v => if v = own then keep s else fetch s
    | none =>
      if s.shardSettled r sh then
        let s := s.checkSheafs r k sh
        let s := s.onPrs fun p => { p with fps := p.fps.filter fun x => !(x.2.1 = r && x.2.2.1 = k && x.2.2.2.1 = n), waitFp := p.waitFp.filter (· ≠ (r, k)), round2 := p.round2 ++ [(r, k)] }
        s.sendFpAt r k n (s.fingerprintAt r k sh (s.pressCourse.groups.getD sh.group {}) n)
      else s

/-- Compare the fingerprints of a shard once those of every replica are there (R297). -/
def State.compareFps (s : State) (r k : Nat) (n : U64) (sh : Shard) : State :=
  let l := s.fpsOf r k n
  if !s.prs.waitFp.contains (r, k) || !(s.partnersIn 2).all (fun m => l.any fun x => decide (x.1 = m)) then s
  else
    match l.find? fun x => decide (x.1 = ownFp) with
    | none => s
    | some (_, own) =>
      if l.all fun x => decide (x.2 = own) then (s.endMismatch r k).resolveFp r k n sh
      else (s.noteMismatch r k l).resolveMismatch r k n sh own l

/-- Compare what waits to be: the own fingerprint may be the last to come, and a check may have waited for its sheafs to settle (R146, R297). -/
def State.compareWaiting (s : State) : State :=
  s.prs.waitFp.foldl (fun s x =>
    match s.shard x.1 x.2, s.prs.fps.find? fun y => y.1 = ownFp && y.2.1 = x.1 && y.2.2.1 = x.2 with
    | some sh, some y => s.compareFps x.1 x.2 y.2.2.2.1 sh
    | _, _ => s) s

/-! Update on arrival (R166, R167). -/

/-- Positions of non-finite gathered gradient elements of a shard, as a tally (R167, R178). -/
def State.gradTally (s : State) (r : Nat) (sh : Shard) : Tally :=
  (List.range sh.nlines).foldl (fun t j =>
    let b := s.gradLine r sh j
    (List.range 512).foldl (fun t p =>
      if (v32 (leAt b (4 * p) 4)).nonFinite then
        { t with nfi := true, cnt := t.cnt + 1, first := match t.first with | some x => some x | none => some (p, 1, j) }
      else t) t) {}

/-- A shard may be taken: its press runs, its count is met, its releases are in, its last fingerprint has been compared, and no move is left to its press (R166, R21, R218, R297). -/
def State.shardReady (s : State) (r k : Nat) (sh : Shard) : Bool :=
  s.pressRuns r && s.shardMet r k sh && s.siWaitsMet r sh.release && !s.prs.waitFp.contains (r, k) && !(s.cfg.moves.any fun m => m.1 = r)

/-- SHARD_UPDATE (R166): under update on arrival, a ready shard is updated, left unchanged for a non-finite gradient (R167), or passed over in a replay (R283); its fingerprint may be the last that its comparison waits for (R297). -/
def execShardUpdate (r : Region) (k : Fin 4096) (s : State) : Ans :=
  match s.shard r k with
  | none => .next s
  | some sh =>
    if !s.heldTiming && decide (s.phase r k = .waiting) && s.shardReady r k sh then
      let s := s.takeSiWaits r sh.release
      if s.alreadyDone r sh then .next (s.endShard r k sh .updated true)
      else
        let t := s.gradTally r sh
        if t.nfi then
          .next (((s.onPrs fun p => { p with nfShard := true }).sendShardRecord r k t).endShard r k sh .unchanged true)
        else .next ((s.updateShard r k sh fpOne none).compareFps r k s.run.step sh)
    else .next s

/-! Held updates and the norm exchange (R168 to R170). -/

/-- Sum of squares of the unscaled gradient elements and the number of non-finite ones (R168). -/
def State.shardSums (s : State) (r : Nat) (sh : Shard) : Fp × Nat :=
  (List.range sh.nlines).foldl (fun a j =>
    let b := s.gradLine r sh j
    (List.range 512).foldl (fun a p =>
      let g := v32 (leAt b (4 * p) 4)
      (addSquare a.1 (g.mul (fpPow2 (-s.prs.exp))).1, a.2 + b2n g.nonFinite)) a) (fpZero, 0)

/-- Groups whose trust ratio is taken over the group, in order (R173; log entry 42). -/
def State.trustGroups (s : State) : List Nat :=
  (List.range s.pressCourse.groups.length).filter fun i => let g := s.pressCourse.groups.getD i {}; g.recipe = 4 && g.trscope

/-- Group entry of the norm record that holds W of a TRSCOPE group; U follows it (R173; log entry 42). -/
def State.trustEntry (s : State) (g : Nat) : Nat := s.pressCourse.groups.length + 2 * (findIdx (· = g) s.trustGroups 0).getD 0

/-- Add a binary64 sum to an entry of a list of group sums. -/
def addEntry (l : List (Nat × U64)) (g : Nat) (x : Fp) : List (Nat × U64) :=
  match l.find? fun y => y.1 = g with
  | none => l ++ [(g, w64 x)]
  | some _ => l.map fun y => if y.1 = g then (g, w64 (add64 (v64 y.2) x)) else y

/-- The press's report over its summed shards, those with NORMC, in shard-number order (R168). -/
def State.buildReport (s : State) (r : Nat) : PressReport :=
  (List.range (s.shards r).length).foldl (fun a k =>
    let sh := (s.shards r).getD k {}
    match (s.lreg r).sums.find? fun x => x.1 = k with
    | none => a
    | some (_, sum, nf, sw, su) =>
      let a := { a with nf := a.nf + nf }
      if sh.normc then
        let grps := addEntry a.grps sh.group (v64 sum)
        let grps := if s.trustGroups.contains sh.group then addEntry (addEntry grps (s.trustEntry sh.group) (v64 sw)) (s.trustEntry sh.group + 1) (v64 su) else grps
        { a with glob := w64 (add64 (v64 a.glob) (v64 sum)), grps := grps }
      else a) {}

/-- SHARD_SUM (R168): under held timing, a shard whose count is met is summed, and its record sent if the press sees a non-finite element (R178); the press reports once all are, unless this step's norm record has gone out (R283). -/
def execShardSum (r : Region) (k : Fin 4096) (s : State) : Ans :=
  match s.shard r k with
  | none => .next s
  | some sh =>
    if s.heldTiming && s.pressRuns r && decide (s.phase r k = .waiting) && s.shardMet r k sh then
      let g := s.pressCourse.groups.getD sh.group {}
      let (sum, nf) := s.shardSums r sh
      let (sw, su) := if g.recipe = 4 ∧ g.trscope then
          s.trustSums r sh g (pressConst g (v64 ((s.lreg r).lrs.getD g.sched 0)) (hdrT (s.header r sh) + 1) s.prs.exp fpOne)
        else (fpZero, fpZero)
      let s := ((s.setPhase r k .summed).onLreg r fun l => { l with sums := l.sums ++ [(k.val, w64 sum, nf, w64 sw, w64 su)] }).sendShardRecord r k (s.gradTally r sh)
      if (List.range (s.shards r).length).all (fun i => decide (s.phase r i ≠ .waiting)) ∧ !s.prs.sent then
        .next (s.onLreg r fun l => { l with report := some (s.buildReport r) })
      else .next s
    else .next s

/-- A region's press has reported; one with no shards has nothing to report (R169). -/
def State.reported (s : State) (r : Nat) : Bool := (s.shards r).isEmpty || (s.lreg r).report.isSome

/-- The last micro-batch report of the step has come from every region (R169). -/
def State.allMbs (s : State) : Bool := s.serviceRegions.all fun r => s.num.done.any fun x => x.1 = r && decide (s.stepCourse.mb ≤ x.2)

/-- Entries of the norm record: the groups, and two for each TRSCOPE group (R173; log entry 42). -/
def State.normEntries (s : State) : Nat := max 1 (s.pressCourse.groups.length + 2 * s.trustGroups.length)

/-- This module's norm record of the step (R169, Table 8.5). -/
def State.buildNorm (s : State) : NormRec :=
  let reps := s.serviceRegions.filterMap fun r => (s.lreg r).report
  { step := s.run.step, cepoch := s.cfg.epoch, lepoch := s.cfg.layout, mod := BitVec.ofNat 16 s.ownMod
    flags := BitVec.ofNat 16 (b2n (reps.any fun p => decide (p.nf ≠ 0)) + 2 * b2n (s.num.summary.getLsbD 3))
    sglob := reps.foldl (fun a p => w64 (add64 (v64 a) (v64 p.glob))) 0
    sgrp := (List.range s.normEntries).map fun g =>
      reps.foldl (fun a p => match p.grps.find? fun x => x.1 = g with | none => a | some x => w64 (add64 (v64 a) (v64 x.2))) 0 }

/-- NORM_RECORD_SEND (R169): with every press report and last micro-batch report in, the module's record joins its own exchange and goes to the rest of the clip group. -/
def execNormRecordSend (s : State) : Ans :=
  if s.heldTiming && s.run.inStep && !s.prs.sent && s.serviceRegions.all s.reported && s.allMbs then
    let n := s.buildNorm
    let s := s.onPrs fun p => { p with sent := true, recs := p.recs ++ [n] }
    .next ((s.partnersIn 3).foldl (fun s m => s.emitOut (.norm m n)) s)
  else .next s

/-- NORM_RECORD_ARRIVAL (R169): a clip-group record of the current or the next step is kept, another is discarded and logged. -/
def execNormRecordArrival (n : NormRec) (s : State) : Ans :=
  let known (l : List NormRec) : Bool := l.any fun x => x.mod = n.mod
  let ok := s.heldTiming && (s.partnersIn 3).contains n.mod.toNat && decide (n.cepoch = s.cfg.epoch)
  if ok ∧ n.step = s.run.step then (if known s.prs.recs then .next s else .next (s.onPrs fun p => { p with recs := p.recs ++ [n] }))
  else if ok ∧ n.step = s.run.step + 1 then (if known s.prs.nextRecs then .next s else .next (s.onPrs fun p => { p with nextRecs := p.nextRecs ++ [n] }))
  else .next (s.logHealth { cls := 0x75, sub := n.mod.toNat, detail := n.step.toNat })

/-- The records of an exchange in ascending module number. -/
def insertNorm (n : NormRec) : List NormRec → List NormRec
  | [] => [n]
  | x :: t => if n.mod.toNat ≤ x.mod.toNat then n :: x :: t else x :: insertNorm n t

def sortNorms (l : List NormRec) : List NormRec := l.foldr insertNorm []

/-- NORM_EXCHANGE_COMPLETE (R170): with all records in, the sums are combined in ascending module number and the step is skipped or not. -/
def execNormExchangeComplete (s : State) : Ans :=
  if s.prs.sent && !s.prs.decided && (s.partnersIn 3).all (fun m => s.prs.recs.any fun x => decide (x.mod.toNat = m)) then
    let rs := sortNorms s.prs.recs
    let glob := rs.foldl (fun a x => add64 a (v64 x.sglob)) fpZero
    let grps := (List.range s.normEntries).map fun g => w64 (rs.foldl (fun a x => add64 a (v64 (x.sgrp.getD g 0))) fpZero)
    let skip := rs.any (fun x => x.flags.getLsbD 0 || x.flags.getLsbD 1) || glob.nonFinite
    .next (s.onPrs fun p => { p with decided := true, skipStep := skip, glob := w64 glob, grps := grps, skip := p.skip || skip,
                                     skips := if skip then sat32 p.skips 1 else p.skips })
  else .next s

/-- NORM_EXCHANGE_TIMEOUT (R169): a record the module expects has not come in time: a partner loss. -/
def execNormExchangeTimeout (m : U16) (s : State) : Ans :=
  if s.prs.sent && !s.prs.decided && !s.flt.partner && !s.beatStepping && (s.partnersIn 3).contains m.toNat && !(s.prs.recs.any fun x => x.mod = m) then
    .next ((s.onPrs fun p => { p with normTo := true }).partnerLoss m.toNat)
  else .next s

/-- Clip factor of a group (R170). -/
def State.groupPhi (s : State) (i : Nat) : Fp :=
  let g := s.pressCourse.groups.getD i {}
  if g.clip = 3 then clipFactor g.clipc s.prs.glob else if g.clip = 2 then clipFactor g.clipc (s.prs.grps.getD i 0) else fpOne

/-- Trust ratio of a group over the whole clip group (R173). -/
def State.groupTrust (s : State) (i : Nat) : Option Fp :=
  if s.trustGroups.contains i then
    some (trustRatio (s.pressCourse.groups.getD i {}) (v64 (s.prs.grps.getD (s.trustEntry i) 0)) (v64 (s.prs.grps.getD (s.trustEntry i + 1) 0)))
  else none

/-- HELD_SHARD_UPDATE (R170): after the exchange, the next shard in number order is updated with its clip factor, or, in a skipped step or a replay that finds it updated, only its ready emits are sent. -/
def execHeldShardUpdate (r : Region) (k : Fin 4096) (s : State) : Ans :=
  match s.shard r k with
  | none => .next s
  | some sh =>
    if s.heldTiming && s.prs.decided && decide (s.phase r k = .summed) && s.shardReady r k sh &&
        (List.range k.val).all (fun i => decide (s.phase r i = .updated ∨ s.phase r i = .unchanged)) then
      let s := s.takeSiWaits r sh.release
      if s.prs.skipStep then .next (s.endShard r k sh .unchanged true)
      else if s.alreadyDone r sh then .next (s.endShard r k sh .updated true)
      else .next ((s.updateShard r k sh (s.groupPhi sh.group) (s.groupTrust sh.group)).compareFps r k s.run.step sh)
    else .next s

/-! Stamp refresh (R284). -/

/-- Age of a line in the step. -/
def State.lineAge (s : State) (r bank line : Nat) : Nat := (s.stepStamp - s.stamp r bank line).toNat

/-- STAMP_REFRESH (R284): once every shard has had its turn, lines of age 192 or more of the shards not updated are rewritten unchanged. -/
def execStampRefresh (r : Region) (s : State) : Ans :=
  let shs := s.shards r
  if s.pressRuns r && !(s.lreg r).stamped && (List.range shs.length).all (fun k => decide (s.phase r k = .updated ∨ s.phase r k = .unchanged)) then
    let s := (List.range shs.length).foldl (fun s k =>
      if s.phase r k = .updated then s
      else (s.shardLines r (shs.getD k {})).foldl (fun s x =>
        if 192 ≤ s.lineAge r x.1 x.2 then s.writeLinePart r x.1 x.2 0 (s.readLine r x.1 x.2) else s) s) s
    .next (s.onLreg r fun l => { l with stamped := true })
  else .next s

/-! Arrivals of fingerprints (R297). -/

/-- FINGERPRINT_ARRIVAL (R297): a replica's fingerprint of a shard arrives and is compared once all are in. -/
def execFingerprintArrival (m : U16) (r : Region) (k : Fin 4096) (stepNo : U64) (fp : BitVec 128) (s : State) : Ans :=
  match s.shard r k with
  | none => .next s
  | some sh =>
    if (s.partnersIn 2).contains m.toNat then
      let s := s.onPrs fun p => { p with
        fps := (p.fps.filter fun x => !(x.1 = m.toNat && x.2.1 = r.val && x.2.2.1 = k.val && x.2.2.2.1 = stepNo)) ++ [(m.toNat, r.val, k.val, stepNo, fp)] }
      .next (s.compareFps r k stepNo sh)
    else .next s

/-- FINGERPRINT_TIMEOUT (R297): a replica's fingerprint has not come in time: a partner loss. -/
def execFingerprintTimeout (m : U16) (r : Region) (k : Fin 4096) (s : State) : Ans :=
  let n := ((s.prs.fps.find? fun x => x.1 = ownFp && x.2.1 = r.val && x.2.2.1 = k.val).map fun x => x.2.2.2.1).getD 0
  if s.prs.waitFp.contains (r.val, k.val) && !s.flt.partner && !s.beatStepping && (s.partnersIn 2).contains m.toNat && !((s.fpsOf r k n).any fun x => decide (x.1 = m.toNat)) then
    .next (s.partnerLoss m.toNat)
  else .next s

end Sys2Proof.Machine
end

