-- ==== Sys2Proof/Machine/Orchard.lean ====
section
/-! DEFINITION. The orchard: touch lists, row preparation, fills, row-ready tokens, write-back and the loss of flash dies (R153 to R157). -/

namespace Sys2Proof.Machine

/-! Tables and touch lists (R154, R155). -/

def State.orcTable (s : State) (t : Nat) : Option OrcTable := s.pressCourse.tables.find? fun x => x.table = t

/-- The owner region of a row: entry row mod k of the owner list (R154). -/
def ownerOf (t : OrcTable) (row : Nat) : Option (Nat × Nat × Nat × Nat) := t.owners[row % t.owners.length]?

/-- Bytes of a reservoir slot's line. -/
def State.slotBytes (s : State) (slot line : Nat) : List Byte :=
  match runLine (s.exRuns.filter fun u => !u.staging) (slot * s.slotLines + line) with
  | none => List.replicate 2048 0
  | some (lr, b, l) => s.servedLine lr b l

/-- Row count and row numbers of the touch list of micro-batch n in a slot (Table 12.14, kind 0x43). -/
def State.touchList (s : State) (slot table n : Nat) : Nat × List Nat :=
  match s.stepCourse.touch.find? fun x => x.1 = table with
  | none => (0, [])
  | some (_, first, lpm) =>
    let b := (List.range lpm).flatMap fun i => s.slotBytes slot (first + n * lpm + i)
    let c := leAt b 0 4
    (c, (List.range (min c (lpm * 512 - 1))).map fun i => leAt b (4 + 4 * i) 4)

/-- Numbers without repeats. -/
def distinct (l : List Nat) : List Nat := l.foldl (fun a x => if a.contains x then a else a ++ [x]) []

/-- The touch lists of a table over a step pass the checks of R155. -/
def State.touchOk (s : State) (slot : Nat) (t : OrcTable) : Bool :=
  let ls := (List.range s.stepCourse.mb).map (s.touchList slot t.table)
  let rows := distinct (ls.flatMap (·.2))
  ls.all (fun x => decide (x.1 ≤ t.maxList) && decide (x.1 = x.2.length)) && rows.all (fun r => decide (r < t.rows)) &&
  (List.range t.owners.length).all fun i =>
    decide ((rows.filter fun r => r % t.owners.length = i).length ≤ (t.owners.getD i (0, 0, 0, 0)).2.2.2)

/-- Every table's touch lists pass (R155). -/
def State.slotPasses (s : State) (slot : Nat) : Bool := s.pressCourse.tables.all (s.touchOk slot)

/-! Rows (R156). -/

/-- Key of an owner's cache of a table. -/
def cacheKey (r t : Nat) : Nat := r * 64 + t

def State.orcCache (s : State) (r t : Nat) : List OrcRow := s.orc.cache.get [] (cacheKey r t)

/-- Flash key of byte 0 of a row. -/
def flashKey (t row : Nat) : Nat := (t * 2 ^ 32 + row) * 2 ^ 17

/-- The lines of a cached row. -/
def State.rowLines (s : State) (r : Nat) (t : OrcTable) (o : Nat × Nat × Nat × Nat) (pos : Nat) : List (Nat × Nat) :=
  ((listLines (s.course r) o.2.1).drop (pos * t.lines)).take t.lines

/-- Lines of a row's working run (R154). -/
def workRun (t : OrcTable) : Nat := ceilDiv (2 * t.width) 2048

/-- The working lines of a cache position. -/
def State.rowWork (s : State) (r : Nat) (t : OrcTable) (o : Nat × Nat × Nat × Nat) (pos : Nat) : List (Nat × Nat) :=
  ((listLines (s.course r) o.2.2.1).drop (pos * workRun t)).take (workRun t)

/-- Masters of a cached row, at the head of its record, up to whole working lines (R154; log entry 161). -/
def State.rowMasters (s : State) (r : Nat) (t : OrcTable) (o : Nat × Nat × Nat × Nat) (pos : Nat) : List Byte :=
  let b := (s.rowLines r t o pos).flatMap fun l => s.readLine r l.1 l.2
  b.take (4 * t.width) ++ List.replicate (ceilDiv (4 * t.width) 4096 * 4096 - 4 * t.width) 0

/-- The record of a row whose masters make working elements infinite, with the table's number in place of a shard's (R150, R178; log entry 162). -/
def State.rowRecord (s : State) (r : Nat) (t : OrcTable) (o : Nat × Nat × Nat × Nat) (pos : Nat) : State :=
  let ms := s.rowMasters r t o pos
  s.sendShardRecord r t.table ((List.range (ms.length / 2048)).foldl (fun y i => ovfTally y i ((ms.drop (2048 * i)).take 2048)) {})

/-- Write the working lines of a cached row from the masters at the head of its record, in the order of R85, zeros after the last (R150, R154, R156; log entry 161). -/
def State.rowWorking (s : State) (r : Nat) (t : OrcTable) (o : Nat × Nat × Nat × Nat) (pos : Nat) : State :=
  let ms := s.rowMasters r t o pos
  let ws := s.rowWork r t o pos
  (List.range ws.length).foldl (fun s i =>
    let w := ws.getD i (0, 0)
    let half (h : Nat) (old : List Byte) : List Byte := workingHalf old h ((ms.drop (4096 * i + 2048 * h)).take 2048)
    (s.writeStore r w.1 (w.2 * 2048) (half 1 (half 0 (s.readLine r w.1 w.2)))).setStamp r w.1 w.2 s.stepStamp) s

/-- Wear (R157): write-backs of the last 30 days against the budget; an average above it is marked, and logged once until the mark is cleared (log entry 58). -/
def State.noteWear (s : State) : State :=
  let above := s.wearAbove
  let s1 := if above && !s.orc.worn then s.logHealth { cls := 0x22, detail := s.wearSum / 30 / 2 ^ 30 } else s
  s1.onOrc fun o => { o with wear := s.wearRecent, worn := o.worn || above, life := min (o.written * 16 * 1000 / (3000 * 2 ^ 40)) 0x3FFF }

/-- Put a row back to flash (R156): its cache lines become its flash content, and its wear is counted (R157). -/
def State.writeBack (s : State) (r : Nat) (t : OrcTable) (o : Nat × Nat × Nat × Nat) (x : OrcRow) : State :=
  let b := (s.rowLines r t o x.pos).flatMap fun l => s.readLine r l.1 l.2
  (s.onOrc fun q => { q with
    flash := writeMem q.flash (flashKey t.table x.row) b, written := q.written + b.length, wear := q.wear ++ [(s.time.toNat, b.length)]
    cache := q.cache.upd [] (cacheKey r t.table) fun l => l.map fun y => if y.pos = x.pos then { y with dirty := false } else y }).noteWear

/-- The oldest unpinned row of a cache, a clean one if there is any. -/
def victim (l : List OrcRow) : Option OrcRow :=
  match l.find? fun x => !x.pinned && !x.dirty with
  | some x => some x
  | none => l.find? fun x => !x.pinned

/-- A cache position for a new row: a free one, else a victim's (R156). -/
def State.makeRoom (s : State) (r : Nat) (t : OrcTable) (o : Nat × Nat × Nat × Nat) : Option (Nat × State) :=
  let l := s.orcCache r t.table
  let used := l.map (·.pos) ++ s.orc.fills.filterMap fun f => if f.1 = r ∧ f.2.1 = t.table then some f.2.2.2 else none
  match (List.range o.2.2.2).find? fun p => !used.contains p with
  | some p => some (p, s)
  | none =>
    match victim l with
    | none => none
    | some x =>
      let s := if x.dirty then s.writeBack r t o x else s
      some (x.pos, s.onOrc fun q => { q with cache := q.cache.upd [] (cacheKey r t.table) fun l => l.filter fun y => y.pos ≠ x.pos })

/-- The rows of an owner in the touch list of micro-batch n, with their places in the list. -/
def State.ownRows (s : State) (r : Nat) (t : OrcTable) (n : Nat) : List (Nat × Nat) :=
  let l := (s.touchList (s.run.step.toNat % s.stepCourse.s) t.table n).2
  (l.zip (List.range l.length)).filter fun x => match ownerOf t x.1 with | some o => o.1 = r | none => false

/-- A cached row. -/
def State.rowCached (s : State) (r t row : Nat) : Option OrcRow := (s.orcCache r t).find? fun x => x.row = row

/-- Micro-batches that an owner may work through: up to D ahead of the one begun (R156). -/
def State.orcReach (s : State) (r : Nat) (t : OrcTable) : Nat := min s.stepCourse.mb ((s.lreg r).mbBegun + t.lookahead)

/-- Rows still to be prepared, in the order of the touch lists: neither pinned, nor updated in this step already, nor being filled. -/
def State.rowsDue (s : State) (r : Nat) (t : OrcTable) : List Nat :=
  let told := (s.lreg r).orcTold.get 0 t.table
  ((List.range (s.orcReach r t)).drop told).flatMap fun n => (s.ownRows r t n).filterMap fun x =>
    match s.rowCached r t.table x.1 with
    | some c => if c.pinned || c.done then none else some x.1
    | none => if s.orc.fills.any (fun f => f.1 = r && f.2.1 = t.table && f.2.2.1 = x.1) then none else some x.1

/-- The row-ready tokens of a table: its emits, and one for each declared consumer that they do not name (R156; log entry 57). -/
def State.rowReady (s : State) (t : OrcTable) : List Emit :=
  let cons := s.serviceRegions.flatMap fun r => ((s.course r).orcCons.filter fun c => c.table = t.table).map fun c =>
    ({ region := r, unit := c.core, ctr := c.ctr, count := 1 } : Emit)
  t.emits ++ cons.filter fun e => !(t.emits.any fun f => f.region = e.region && f.unit = e.unit && f.ctr = e.ctr)

/-- Write the addresses of a row's working lines into every consumer's row vector, at its place in the list (R156). -/
def State.writeVectors (s : State) (r : Nat) (t : OrcTable) (o : Nat × Nat × Nat × Nat) (row place : Nat) : State :=
  match s.rowCached r t.table row with
  | none => s
  | some c =>
    match (s.rowWork r t o c.pos).head? with
    | none => s
    | some (b, l) =>
      let a := leBytes 8 (mkGaddr 0xFFFF r true b (l * 2048)).toNat
      s.serviceRegions.foldl (fun s q => ((s.course q).orcCons.filter fun x => x.table = t.table).foldl (fun s x => s.writeSram q x.core (x.soff + 8 * place) a) s) s

/-- When every listed row of the next micro-batch is ready, its vectors are written and its tokens sent; `k` bounds the micro-batches looked at (R156). -/
def State.orcProgress (s : State) (r : Nat) (t : OrcTable) (o : Nat × Nat × Nat × Nat) : Nat → State
  | 0 => s
  | k + 1 =>
    let n := (s.lreg r).orcTold.get 0 t.table
    let rows := s.ownRows r t n
    if n < s.orcReach r t ∧ rows.all (fun x => match s.rowCached r t.table x.1 with | some c => c.pinned || c.done | none => false) then
      let s := rows.foldl (fun s x => s.writeVectors r t o x.1 x.2) s
      let s := (s.sendEmits (s.rowReady t)).onLreg r fun l => { l with orcTold := l.orcTold.set 0 t.table (n + 1) }
      s.orcProgress r t o k
    else s

/-- Rows of the orchard fill request queue (Table 9.2, queue 4,086). -/
def fillEntries : Nat := 64

/-- ORCHARD_ROW_PREPARE (R156): the owner takes the first row due: it pins a cached one, or frees a position and starts a fill; with no row due it announces the micro-batches that list none of its rows. -/
def execOrchardRowPrepare (r : Region) (table : Fin 64) (row : U32) (s : State) : Ans :=
  match s.orcTable table with
  | none => .next s
  | some t =>
    match t.owners.find? fun o => o.1 = r.val with
    | none => .next s
    | some o =>
      if !(s.lreg r).active || !s.run.inStep || s.flt.quiet.contains r.val then .next s
      else if (s.rowsDue r t).isEmpty then .next (s.orcProgress r t o s.stepCourse.mb)
      else if (s.rowsDue r t).head? = some row.toNat then
        match s.rowCached r table row.toNat with
        | some c =>
          let s := s.onOrc fun q => { q with cache := q.cache.upd [] (cacheKey r table) fun l => l.map fun x => if x.pos = c.pos then { x with pinned := true } else x }
          .next (s.orcProgress r t o s.stepCourse.mb)
        | none =>
          if fillEntries ≤ (s.orc.fills.filter fun f => f.1 = r.val).length then .next s
          else
          match s.makeRoom r t o with
          | none => .next s
          | some (p, s) => .next ((s.onOrc fun q => { q with fills := q.fills ++ [(r.val, table.val, row.toNat, p)] }).noteWear)
      else .next s

/-- ORCHARD_FILL_COMPLETE (R156): the row's lines and working lines are written, the row is pinned, and complete micro-batches are announced. -/
def execOrchardFillComplete (r : Region) (table : Fin 64) (row : U32) (s : State) : Ans :=
  match s.orcTable table, s.orc.fills.find? (fun f => f.1 = r.val && f.2.1 = table.val && f.2.2.1 = row.toNat) with
  | some t, some f =>
    match ownerOf t row.toNat with
    | none => .next s
    | some o =>
      let b := readMem s.orc.flash (flashKey table row.toNat) (t.lines * 2048)
      let ls := s.rowLines r t o f.2.2.2
      let s := (List.range ls.length).foldl (fun s i => let l := ls.getD i (0, 0); s.writeLinePart r l.1 l.2 0 ((b.drop (2048 * i)).take 2048)) s
      let s := (s.rowWorking r t o f.2.2.2).rowRecord r t o f.2.2.2
      let s := s.onOrc fun q => { q with
        fills := q.fills.filter (· ≠ f), fillCount := sat32 q.fillCount 1
        cache := q.cache.upd [] (cacheKey r table) fun l => l ++ [{ table := table, row := row.toNat, pos := f.2.2.2, pinned := true }] }
      .next (s.orcProgress r t o s.stepCourse.mb)
  | _, _ => .next s

/-! Flash dies (R153, Table 13.6). -/

/-- A die is lost: rows stay readable at half rate; a second loss exceeds the budget (R153, R298). -/
def State.loseDie (s : State) (die cls : Nat) : State :=
  if s.orc.lostDies.contains die then s
  else
    let second := !s.orc.lostDies.isEmpty
    let s := (s.onOrc fun o => { o with die := true, lostDies := o.lostDies ++ [die] }).logHealth { cls := cls, action := 6, done := true, sub := die }
    if second then s.sparesExhausted else s

/-- ORCHARD_FILL_TIMEOUT (R156): a fill that takes more than 5 ms is a flash fault; which die failed the manual does not say, and the fill stays to be made from the redundancy. -/
def execOrchardFillTimeout (r : Region) (table : Fin 64) (row : U32) (s : State) : Ans :=
  if s.orc.fills.any fun f => f.1 = r.val && f.2.1 = table.val && f.2.2.1 = row.toNat then
    let s := s.logHealth { cls := 0x21, lregion := r, pregion := (s.phys r).getD 63, unit := 0x0401, sub := table, detail := row.toNat }
    let (v, s) := s.fresh
    .next (s.loseDie (v % 4) 0x20)
  else .next s

/-- FLASH_DIE_LOST (R153). -/
def execFlashDieLost (die : Fin 4) (s : State) : Ans := .next (s.loseDie die 0x20)

end Sys2Proof.Machine
end

