-- ==== Sys2Proof/Machine/ImageParse.lean ====
section
/-! DEFINITION. A Ranile image read from its bytes: header, course table, trust course, records and sections (R249 to R253, R411, R412). What the bytes do not spell is no image: `none` fails check 1 of Table 12.11. -/

namespace Sys2Proof.Machine

/-! Bytes in one pass over a sparse memory. -/

/-- `n` bytes from `a` of a memory whose cells below `a` are gone. -/
def fillFrom : Memory → Nat → Nat → List Byte
  | _, _, 0 => []
  | [], a, n + 1 => 0 :: fillFrom [] (a + 1) n
  | (k, v) :: t, a, n + 1 => if k = a then v :: fillFrom t (a + 1) n else 0 :: fillFrom ((k, v) :: t) (a + 1) n

/-- `n` bytes from `a`. -/
def sliceMem (m : Memory) (a n : Nat) : List Byte := fillFrom (m.dropWhile fun x => decide (x.1 < a)) a n

/-- The cells that bytes from `a` upward list: those that are not zero. -/
def cellsOf : Nat → List Byte → Memory
  | _, [] => []
  | a, b :: t => if b = 0 then cellsOf (a + 1) t else (a, b) :: cellsOf (a + 1) t

/-- A memory with bytes written from `a` upward. -/
def spliceMem (m : Memory) (a : Nat) (b : List Byte) : Memory :=
  m.takeWhile (fun x => decide (x.1 < a)) ++ cellsOf a b ++ m.dropWhile (fun x => decide (x.1 < a + b.length))

/-- No byte but zero from `a` up to `z`. -/
def zeroIn (m : Memory) (a z : Nat) : Bool := m.all fun x => decide (x.1 < a) || decide (z ≤ x.1)

/-! Fields. -/

/-- Fields of the widths given, from bit 0 upward, and what lies above the last. -/
def takeF : List Nat → Nat → List Nat × Nat
  | [], v => ([], v)
  | w :: t, v => let (r, z) := takeF t (v / 2 ^ w); (v % 2 ^ w :: r, z)

/-- The fields of a body that holds nothing above them (R251). -/
def bodyF (ws : List Nat) (v : Nat) : Option (List Nat) := match takeF ws v with | (l, z) => if z = 0 then some l else none

/-- Field i of a list. -/
def fi (l : List Nat) (i : Nat) : Nat := l.getD i 0

/-- A record: its kind and its bytes. -/
abbrev Rec := Nat × List Byte

/-- The records of bytes, as long as a kind other than zero stands there; what follows is padding of zeros (R251, R412). -/
def recsOf : Nat → List Byte → Option (List Rec)
  | 0, b => if b.all (· = 0) then some [] else none
  | n + 1, b =>
    match b with
    | [] => some []
    | k :: _ =>
      if k = 0 then (if b.all (· = 0) then some [] else none)
      else
        let len := (b.getD 1 0).toNat * 64
        if len = 0 ∨ b.length < len then none else (recsOf n (b.drop len)).map ((k.toNat, b.take len) :: ·)

/-- Every record has one of the kinds given, each with its length (Tables 12.4 and 12.14). -/
def kindsAre (ks : List (Nat × Nat)) (rs : List Rec) : Bool := rs.all fun r => ks.any fun k => k.1 = r.1 && r.2.length = k.2

/-- Body of a record without trailer. -/
def bodyOf (r : Rec) : Nat := leNat (r.2.drop 2)

/-- Body of a region-course record: its trailer follows it (R251). -/
def bodyTr (r : Rec) : Nat := leNat ((r.2.drop 2).take (r.2.length - 28))

/-- A wait of 24 bits, used when its threshold is not 0 (Table 12.5). -/
def waitOf (v : Nat) : Option Wait := if fld v 8 16 = 0 then none else some ⟨fld v 0 8, fld v 8 16⟩

/-- An emit of 48 bits, used when its count is not 0 (Table 12.5). -/
def emitOf (v : Nat) : Option Emit := if fld v 30 8 = 0 then none else some ⟨fld v 0 6, fld v 6 16, fld v 22 8, fld v 30 8⟩

/-- The reserved bits of an emit are zero. -/
def emitPlain (v : Nat) : Bool := decide (fld v 38 10 = 0)

/-- The trailer of a record (Table 12.5). -/
def trailerOf (r : Rec) : Option Trailer :=
  let v := leNat (r.2.drop (r.2.length - 26))
  let es := [fld v 96 48, fld v 144 48]
  if fld v 204 4 = 0 ∧ es.all emitPlain then
    some { waits := ([0, 24, 48, 72].map fun i => fld v i 24).filterMap waitOf, emits := es.filterMap emitOf, rep := fld v 192 12 + 1 }
  else none

/-! Region-course records (Table 12.4). -/

/-- Widths of an operand descriptor (Table 12.6). -/
def descW : List Nat := [10, 10, 5, 5, 10, 10]
def descF (l : List Nat) (i : Nat) : OpDesc := ⟨fi l i, fi l (i + 1), fi l (i + 2), fi l (i + 3), fi l (i + 4), fi l (i + 5)⟩

/-- A tile operation (Tables 2.1, 3.4, 12.6). -/
def tileOf (r : Rec) : Option TileOp :=
  match bodyF ([1, 1, 2, 1, 1, 1, 1, 4, 5, 16, 32, 2, 3, 1, 1, 1] ++ descW ++ descW ++ descW ++ descW ++ descW) (bodyTr r), trailerOf r with
  | some l, some t =>
    some { fmt := fi l 0 == 1, outf := fi l 1 == 1, init := fi l 2, drain := fi l 3 == 1, ta := fi l 4 == 1, tb := fi l 5 == 1, grad := fi l 6 == 1
           m := fi l 7 + 1, n := fi l 8 + 1, k := fi l 9 + 1, tileId := BitVec.ofNat 32 (fi l 10), dmode := fi l 11, dfun := fi l 12, stf := fi l 13 == 1
           dstash := fi l 14 == 1, deferred := fi l 15 == 1, a := descF l 16, b := descF l 22, c0 := descF l 28, out := descF l 34, stash := descF l 40, tr := t }
  | _, _ => none

/-- Widths of a stream entry (Table 4.3, `ADV`, `WRAP`). -/
def streamW : List Nat := [10, 10, 1, 1, 2, 3, 10, 10]
def streamF (l : List Nat) (i : Nat) : Stream := ⟨fi l i, fi l (i + 1), fi l (i + 2) == 1, fi l (i + 3) == 1, fi l (i + 4), fi l (i + 5), fi l (i + 6), fi l (i + 7)⟩
def stageF (l : List Nat) (i : Nat) : Stage := ⟨fi l i, fi l (i + 1), fi l (i + 2), fi l (i + 3), fi l (i + 4)⟩

/-- A vector chain (Tables 4.1, 4.3). -/
def chainOf (r : Rec) : Option Chain :=
  let ws := [1, 3, 16, 16, 4, 2, 2, 2, 10, 1, 1, 32] ++ (List.replicate 8 [4, 4, 4, 4, 4]).flatten ++ (List.replicate 10 streamW).flatten
  match bodyF ws (bodyTr r), trailerOf r with
  | some l, some t =>
    some { vfmt := fi l 0 == 1, nst := fi l 1 + 1, rows := fi l 2 + 1, cols := fi l 3 + 1, nin := fi l 4, nout := fi l 5, rop := fi l 6, rscope := fi l 7
           rdst := fi l 8, grad := fi l 9 == 1, deferred := fi l 10 == 1, tileId := BitVec.ofNat 32 (fi l 11)
           stages := (List.range (fi l 1 + 1)).map fun i => stageF l (12 + 5 * i)
           ins := (List.range (min (fi l 4) 8)).map fun i => streamF l (52 + 8 * i)
           outs := (List.range (min (fi l 5) 2)).map fun i => streamF l (116 + 8 * i), tr := t }
  | _, _ => none

/-- An instruction record (kinds 0x10 to 0x15). -/
def instrOf (r : Rec) : Option CtxInstr :=
  match trailerOf r with
  | none => none
  | some t =>
    let v := bodyTr r
    match r.1 with
    | 0x10 => (bodyF [3, 13, 1, 64, 21, 1, 9, 9, 1, 32, 22] v).map fun l =>
        { op := .rmo { op := fi l 0, len := fi l 1 + 1, sfmt := fi l 2 == 1, gaddr := BitVec.ofNat 64 (fi l 3), laddr := fi l 4, prio := fi l 5 == 1, ttok := fi l 6
                       ltok := fi l 7, deferred := fi l 8 == 1, gstr := sext (fi l 9) 32, lstr := sext (fi l 10) 22 }, tr := t }
    | 0x11 => (bodyF [] v).map fun _ => { op := .wait, tr := t }
    | 0x12 => (bodyF [] v).map fun _ => { op := .emit, tr := t }
    | 0x13 => (bodyF [6] v).map fun l => { op := .launch (fi l 0), tr := t }
    | 0x14 => (bodyF [16, 8] v).map fun l => { op := .loop (fi l 0 + 1) (fi l 1), tr := t }
    | 0x15 => (bodyF [] v).map fun _ => { op := .stop, tr := t }
    | _ => none

/-- All of a list, or none. -/
def allOf {α β : Type} (f : α → Option β) : List α → Option (List β)
  | [] => some []
  | a :: t =>
    match f a, allOf f t with
    | some x, some l => some (x :: l)
    | _, _ => none

/-! Region courses (R253, R411). -/

/-- A directory entry: kind, core, sub, offset, length. -/
structure DirEntry where
  kind : Nat
  core : Nat
  sub : Nat
  off : Nat
  len : Nat
  deriving DecidableEq, Repr

/-- The directory of a region course, up to its terminating entry. -/
def dirOf : Nat → List Byte → Option (List DirEntry)
  | 0, _ => none
  | n + 1, b =>
    let e := b.take 16
    if e.length < 16 then none
    else if e.all (· = 0) then some []
    else if leAt e 5 3 ≠ 0 then none
    else (dirOf n (b.drop 16)).map ({ kind := leAt e 0 2, core := leAt e 2 2, sub := leAt e 4 1, off := leAt e 8 4, len := leAt e 12 4 } :: ·)

/-- Kinds that Table 12.7 gives per core. -/
def perCore (k : Nat) : Bool := decide (1 ≤ k) && decide (k ≤ 6)

/-- A directory entry stands as Table 12.7 says: its kind, its core, its sub, multiples of 64, within the course and past the directory. -/
def DirEntry.ok (clen dirEnd : Nat) (e : DirEntry) : Bool :=
  decide (1 ≤ e.kind ∧ e.kind ≤ 11) && (if perCore e.kind then decide (e.core < 896) else e.core = 0xFFFF) &&
  (if e.kind = 4 then decide (e.sub < 64) else e.sub = 0) && decide (e.off % 64 = 0 ∧ e.len % 64 = 0 ∧ e.off + e.len ≤ clen ∧ dirEnd ≤ e.off)

/-- Two sections share no byte and no name. -/
def DirEntry.apart (a b : DirEntry) : Bool :=
  !(a.kind = b.kind && a.core = b.core && a.sub = b.sub) && (decide (a.off + a.len ≤ b.off) || decide (b.off + b.len ≤ a.off) || a.len = 0 || b.len = 0)

/-- Every pair of a list passes. -/
def pairwise {α : Type} (p : α → α → Bool) : List α → Bool
  | [] => true
  | a :: t => t.all (p a) && pairwise p t

/-- A byte list cut into entries of n bytes. -/
def entriesOf (n : Nat) (b : List Byte) : List (List Byte) := (List.range (b.length / n)).map fun i => (b.drop (n * i)).take n

/-- A beat-table entry (Table 6.2). -/
def beatOf (b : List Byte) : Option BeatEntry := (bodyF [16, 2, 2, 2, 15, 9] (leNat b)).map fun l => ⟨fi l 0, fi l 1, fi l 2, fi l 3, fi l 4, fi l 5⟩
/-- A sequence entry (Table 12.13). -/
def seqOf (b : List Byte) : Option SeqEntry := (bodyF [12, 13, 10] (leNat b)).map fun l => ⟨fi l 0, fi l 1, fi l 2⟩
/-- A counter entry: initial value, and true for a credit (Table 12.13). -/
def counterOf (b : List Byte) : Option (Nat × Bool) := (bodyF [16, 1] (leNat b)).map fun l => (fi l 0, fi l 1 == 1)
/-- A program-slot entry. -/
def slotEntry (b : List Byte) : Option Nat := (bodyF [10] (leNat b)).map fun l => fi l 0
/-- A flow entry. -/
def flowOf (b : List Byte) : Option Flow :=
  (bodyF [16, 16, 6, 1, 10, 1, 2, 12, 32, 16] (leNat b)).bind fun l =>
    if fi l 7 = 0 then some ⟨fi l 0, fi l 1, fi l 2, fi l 3 == 1, fi l 4, fi l 5 == 1, fi l 6, fi l 8, fi l 9⟩ else none
/-- An area code (Table 12.13). -/
def areaCode : Nat → Option Area
  | 0 => some .free
  | 1 => some .parameter
  | 2 => some .exchange
  | 3 => some .innerParity
  | 4 => some .outerParity
  | 5 => some .working
  | 6 => some .stepLocal
  | _ => none
/-- A run entry of the store map. -/
def runOf (b : List Byte) : Option StoreRun :=
  (bodyF [10, 14, 14, 3, 1] (leNat b)).bind fun l => (areaCode (fi l 3)).map fun a => ⟨fi l 0, fi l 1, fi l 2, a, fi l 4 == 1⟩
/-- A sheaf entry. -/
def sheafEntry (b : List Byte) : Option Sheaf :=
  let v := leNat b
  if v / 2 ^ 254 = 0 then some ⟨(List.range 8).map fun m => (fld v (30 * m) 6, fld v (30 * m + 6) 10, fld v (30 * m + 16) 14), fld v 240 14⟩ else none
/-- A channel entry. -/
def dmaOf (b : List Byte) : Option DmaDecl :=
  (bodyF [3, 4, 2, 1, 10, 4, 15, 15] (leNat b)).map fun l => ⟨fi l 0, fi l 1, fi l 2, fi l 3 == 1, fi l 4, fi l 5, fi l 6, fi l 7⟩

/-- Line lists: each a count and its run indices, and nothing but padding after the last (R249, R411). -/
def listsOf : Nat → List Byte → Option (List (List Nat))
  | 0, b => if b.all (· = 0) then some [] else none
  | n + 1, b =>
    let k := leAt b 0 4
    if b.length < 4 + 4 * k then none
    else (listsOf n (b.drop (4 + 4 * k))).map ((List.range k).map (fun i => leAt b (4 + 4 * i) 4) :: ·)

/-- The store map: runs and line lists. -/
def storeMapOf (b : List Byte) : Option (List StoreRun × List (List Nat)) :=
  if b.isEmpty then some ([], [])
  else
    let r := leAt b 0 4
    if b.length < 8 + 8 * r then none
    else
      match allOf runOf (entriesOf 8 ((b.drop 8).take (8 * r))), listsOf (leAt b 4 4) (b.drop (8 + 8 * r)) with
      | some rs, some ls => some (rs, ls)
      | _, _ => none

/-- The declarations of section 0x0B, each folded into the course; bytes that Table 12.13 does not name are zero, and a position stands for contexts only (R411). -/
def declare (rc : RegionCourse) (b : List Byte) : Option RegionCourse :=
  let zero (i n : Nat) : Bool := decide (leAt b i n = 0)
  match leAt b 0 1 with
  | 1 => if leAt b 1 1 ≤ 2 ∧ zero 8 8 ∧ (leAt b 1 1 = 0 ∨ zero 6 2) then some { rc with mbUnits := rc.mbUnits ++ [⟨leAt b 1 1, leAt b 2 2, leAt b 4 2, leAt b 6 2⟩] } else none
  | 2 => if zero 1 1 ∧ zero 4 4 then some { rc with classes := rc.classes ++ [(leAt b 2 2, leAt b 8 8)] } else none
  | 3 => if zero 9 7 then some { rc with orcCons := rc.orcCons ++ [⟨leAt b 1 1, leAt b 2 2, leAt b 4 4, leAt b 8 1⟩] } else none
  | 4 => if leAt b 2 1 ≤ 1 ∧ zero 3 1 ∧ zero 6 10 then some { rc with siCtrs := rc.siCtrs ++ [(leAt b 1 1, leAt b 2 1 == 1, leAt b 4 2)] } else none
  | _ => none

/-- Entries of a section of n-byte entries: those of zeros that fill its last 64 bytes are padding, since `LEN` is a multiple of 64 (R249, R253; log entry 133). -/
def paddedEntries (n : Nat) (b : List Byte) : List (List Byte) :=
  let es := entriesOf n b
  let whole := es.take (64 * ((b.length - 1) / 64) / n)
  whole ++ ((es.drop whole.length).reverse.dropWhile fun x => x.all (· = 0)).reverse

def declareAll : RegionCourse → List (List Byte) → Option RegionCourse
  | rc, [] => some rc
  | rc, b :: t => (declare rc b).bind fun x => declareAll x t

/-- The beats and sequences of section 0x05. -/
def beatTableOf (b : List Byte) : Option (List BeatEntry × List SeqEntry) :=
  if b.isEmpty then some ([], [])
  else
    let es := entriesOf 8 b
    if es.length < 64 then none
    else
      match allOf beatOf (es.take (es.length - 64)), allOf seqOf (es.drop (es.length - 64)) with
      | some x, some y => some (x, y)
      | _, _ => none

/-- The records of bytes of which every one belongs to a record; `n` bounds their number. -/
def exactRecs : Nat → List Byte → Option (List Rec)
  | _, [] => some []
  | 0, _ => none
  | n + 1, k :: t =>
    let b := k :: t
    let len := (b.getD 1 0).toNat * 64
    if len = 0 ∨ b.length < len then none else (exactRecs n (b.drop len)).map ((k.toNat, b.take len) :: ·)

/-- Records of a section, whose length is exact, of the kinds given (R411). -/
def sectionRecs (ks : List (Nat × Nat)) (b : List Byte) : Option (List Rec) :=
  (exactRecs (b.length / 64) b).bind fun rs => if kindsAre ks rs then some rs else none

/-- The sections of one core. -/
def coreOf (sec : Nat → Nat → Nat → List Byte) (progs : List Nat) (c : Nat) : Option CoreCourse :=
  match allOf slotEntry (entriesOf 2 (sec 1 c 0)), (sectionRecs [(1, 128)] (sec 2 c 0)).bind (allOf tileOf), (sectionRecs [(2, 128)] (sec 3 c 0)).bind (allOf chainOf),
        beatTableOf (sec 5 c 0), allOf counterOf (entriesOf 4 (sec 6 c 0)),
        allOf (fun j => ((sectionRecs ((List.range 6).map fun i => (0x10 + i, 64)) (sec 4 c j)).bind (allOf instrOf)).map fun p => (j, p)) progs with
  | some sl, some ts, some cs, some bt, some ct, some ps =>
    some { core := c, slots := sl, tiles := ts, chains := cs, progs := ps, beats := bt.1, seqs := bt.2, counters := ct }
  | _, _, _, _, _, _ => none

/-- Distinct numbers, in order of first mention. -/
def distinctNat (l : List Nat) : List Nat := l.foldl (fun a x => if a.contains x then a else a ++ [x]) []

/-- Bytes of a course that lie in no section and behind its directory are zero (R249). -/
def gapsZero (dirEnd : Nat) (d : List DirEntry) (b : List Byte) : Bool :=
  (b.zip (List.range b.length)).all fun x => decide (x.1 = 0 ∨ x.2 < dirEnd) || d.any fun e => decide (e.off ≤ x.2 ∧ x.2 < e.off + e.len)

/-- A region course from its bytes. -/
def regionOf (b : List Byte) : Option RegionCourse :=
  match dirOf (b.length / 16 + 1) b with
  | none => none
  | some d =>
    let sec (k c j : Nat) : List Byte := match d.find? fun e => e.kind = k && e.core = c && e.sub = j with | none => [] | some e => (b.drop e.off).take e.len
    let cores := distinctNat ((d.filter fun e => perCore e.kind).map (·.core))
    let progs (c : Nat) : List Nat := (d.filter fun e => e.kind = 4 && e.core = c).map (·.sub)
    if d.all (DirEntry.ok b.length (16 * (d.length + 1))) && pairwise DirEntry.apart d && gapsZero (16 * (d.length + 1)) d b then
      match allOf (fun c => coreOf sec (progs c) c) cores, allOf flowOf (paddedEntries 16 (sec 7 0xFFFF 0)), storeMapOf (sec 8 0xFFFF 0),
            allOf sheafEntry (paddedEntries 32 (sec 9 0xFFFF 0)), allOf dmaOf (paddedEntries 16 (sec 10 0xFFFF 0)) with
      | some cs, some fs, some sm, some sh, some dm =>
        declareAll { cores := cs, flows := fs, runs := sm.1, lists := sm.2, sheaves := sh, dma := dm } (paddedEntries 16 (sec 11 0xFFFF 0))
      | _, _, _, _, _ => none
    else none

/-! Press, link and step courses (R412, Table 12.14). -/

/-- Records of one kind at the front, and the rest. -/
def spanKind (k : Nat) (rs : List Rec) : List Rec × List Rec := (rs.takeWhile fun r => r.1 = k, rs.dropWhile fun r => r.1 = k)

/-- A list index, none for 0xFFFFFFFF. -/
def listIdx (v : Nat) : Option Nat := if v = 0xFFFFFFFF then none else some v

/-- A parameter group (Table 8.1). -/
def groupOf (r : Rec) : Option Group :=
  (bodyF [3, 2, 2, 1, 1, 2, 4, 32, 32, 32, 32, 32, 32, 32, 32] (bodyOf r)).map fun l =>
    { recipe := fi l 0, decay := fi l 1, clip := fi l 2, biasc := fi l 3 == 1, trscope := fi l 4 == 1, ripe := fi l 5, sched := fi l 6, b1 := fi l 7, b2 := fi l 8
      eps := fi l 9, lambda := fi l 10, clipc := fi l 11, lrmul := fi l 12, rbeta := fi l 13, trmax := fi l 14 }

/-- The points of a 0x26 record. -/
def pointsOf (r : Rec) : Option (List (Nat × Nat)) :=
  let n := bodyOf r % 8
  if n = 0 ∨ 5 < n then none
  else (bodyF (3 :: (List.replicate n [64, 32]).flatten) (bodyOf r)).map fun l => (List.range n).map fun i => (fi l (1 + 2 * i), fi l (2 + 2 * i))

/-- Schedules with their points, `NPT` of them (Table 8.2, R412); `n` bounds their number. -/
def schedsOf : Nat → List Rec → Option (List Sched × List Rec)
  | 0, rs => some ([], rs)
  | n + 1, rs =>
    match rs with
    | [] => some ([], [])
    | r :: t =>
      if r.1 = 0x21 then
        match bodyF [3, 64, 32, 32, 32, 32, 32, 7] (bodyOf r) with
        | none => none
        | some l =>
          let k := ceilDiv (fi l 7) 5
          match allOf pointsOf (t.take k) with
          | none => none
          | some ps =>
            if (t.take k).length = k ∧ (t.take k).all (fun x => x.1 = 0x26) ∧ ps.flatten.length = fi l 7 then
              (schedsOf n (t.drop k)).map fun y =>
                ({ form := fi l 0, s0 := fi l 1, warm := fi l 2, dsteps := fi l 3, peak := fi l 4, floor := fi l 5, rsq := fi l 6, pts := ps.flatten } :: y.1, y.2)
            else none
      else some ([], rs)

/-- Emits of 48 bits from a list of fields. -/
def emitsOf (l : List Nat) : List Emit := l.filterMap emitOf

/-- An owner record. -/
def ownerRec (table i : Nat) (r : Rec) : Option (Nat × Nat × Nat × Nat) :=
  (bodyF [6, 6, 6, 32, 32, 24] (bodyOf r)).bind fun l => if r.1 = 0x28 ∧ fi l 0 = table ∧ fi l 1 = i then some (fi l 2, fi l 3, fi l 4, fi l 5) else none

/-- Orchard tables with their owners (Table 12.14). -/
def tablesOf : Nat → List Rec → Option (List OrcTable × List Rec)
  | 0, rs => some ([], rs)
  | n + 1, rs =>
    match rs with
    | [] => some ([], [])
    | r :: t =>
      if r.1 = 0x24 then
        match bodyF [6, 32, 16, 6, 8, 6, 32, 4, 48, 48, 48, 48] (bodyOf r) with
        | none => none
        | some l =>
          let k := fi l 5
          match allOf (fun x => ownerRec (fi l 0) x.2 x.1) ((t.take k).zip (List.range k)) with
          | none => none
          | some os =>
            if os.length = k ∧ (l.drop 8).all emitPlain then
              (tablesOf n (t.drop k)).map fun y =>
                ({ table := fi l 0, rows := fi l 1, width := fi l 2, lines := fi l 3 + 1, group := fi l 4, k := k, maxList := fi l 6, lookahead := fi l 7 + 1
                   emits := emitsOf (l.drop 8), owners := os } :: y.1, y.2)
            else none
      else some ([], rs)

/-- A shard (Table 8.3). -/
def shardOf (r : Rec) : Option Shard :=
  let ws := [8, 24] ++ List.replicate 6 32 ++ [10, 14, 16, 18, 1, 32] ++ List.replicate 4 24 ++ List.replicate 16 48 ++ List.replicate 4 48
  (bodyF ws (bodyOf r)).bind fun l =>
    if (l.drop 18).all emitPlain then
      some { group := fi l 0, nlines := fi l 1, runs := ((l.drop 2).take 6).map listIdx, hbank := fi l 8, hline := fi l 9, ncont := fi l 10, abase := fi l 11
             normc := fi l 12 == 1, epoch := fi l 13, release := ((l.drop 14).take 4).filterMap waitOf, ready := emitsOf ((l.drop 18).take 16), frees := emitsOf (l.drop 34) }
    else none

/-- The regions of a press course with their shards. -/
def pressRegionsOf : Nat → List Rec → Option (List PressRegion)
  | 0, rs => if rs.isEmpty then some [] else none
  | n + 1, rs =>
    match rs with
    | [] => some []
    | r :: t =>
      if r.1 = 0x25 then
        let (sh, rest) := spanKind 0x22 t
        match bodyF [6, 48, 48, 48, 48] (bodyOf r), allOf shardOf sh, pressRegionsOf n rest with
        | some l, some ss, some ps => if (l.drop 1).all emitPlain then some ({ lregion := fi l 0, scaleReady := emitsOf (l.drop 1), shards := ss } :: ps) else none
        | _, _, _ => none
      else none

/-- The cells of a 0x27 record. -/
def cellsRec (r : Rec) : Option (List (Nat × Nat × Nat)) :=
  let n := fld (bodyOf r) 6 4
  (bodyF ([6, 4] ++ (List.replicate n [10, 18, 4]).flatten) (bodyOf r)).bind fun l =>
    if n = 0 ∨ (List.range n).any (fun i => decide (fi l (4 + 3 * i) ≠ 0)) then none
    else some ((List.range n).map fun i => (fi l 0, fi l (2 + 3 * i), fi l (3 + 3 * i) * 8))

/-- Kinds and lengths of press-course records. -/
def pressKinds : List (Nat × Nat) := [(0x20, 64), (0x21, 64), (0x22, 256), (0x23, 64), (0x24, 64), (0x25, 64), (0x26, 64), (0x27, 64), (0x28, 64)]

/-- The press course, its records in the order of R412. -/
def pressOf (b : List Byte) : Option PressCourse :=
  match (recsOf (b.length / 64 + 1) b).bind fun rs => if kindsAre pressKinds rs then some rs else none with
  | some (r :: t) =>
    if r.1 = 0x23 then
      let (cs, t) := spanKind 0x27 t
      let (gs, t) := spanKind 0x20 t
      match bodyF [1, 8, 8, 8, 4, 16] (bodyOf r), allOf cellsRec cs, allOf groupOf gs, schedsOf t.length t with
      | some l, some cells, some groups, some (scheds, t) =>
        match tablesOf t.length t with
        | none => none
        | some (tables, t) =>
          (pressRegionsOf t.length t).map fun regs =>
            { ls := { lsen := fi l 0 == 1, e0 := sext (fi l 1) 8, emin := sext (fi l 2) 8, emax := sext (fi l 3) 8, down := fi l 4, grow := fi l 5 }
              cells := cells.flatten, groups := groups, scheds := scheds, tables := tables, regions := regs }
      | _, _, _, _ => none
    else none
  | _ => none

/-- A module list record: its list and modules. -/
def modList (r : Rec) : Option (Nat × List Nat) :=
  let n := fld (bodyOf r) 3 5
  if n = 0 ∨ 28 < n then none else (bodyF ([3, 5] ++ List.replicate n 16) (bodyOf r)).map fun l => (fi l 0, l.drop 2)

/-- The modules of one list, in record order. -/
def joinLists (l : List (Nat × List Nat)) : List (Nat × List Nat) :=
  (distinctNat (l.map (·.1))).map fun k => (k, (l.filter fun x => x.1 = k).flatMap (·.2))

def linkRec (r : Rec) : Option LinkDecl :=
  (bodyF [4, 3, 8, 8, 16, 4, 6] (bodyOf r)).map fun l => ⟨fi l 0, fi l 1, fi l 2, fi l 3, fi l 4, fi l 5, fi l 6 + 1⟩
def slotRec (r : Rec) : Option (Nat × Nat × Nat) := (bodyF [4, 8, 16] (bodyOf r)).map fun l => (fi l 0, fi l 1, fi l 2)
/-- A route; unused hops are zero. -/
def routeRec (r : Rec) : Option Route :=
  (bodyF ([32, 16, 4] ++ (List.replicate 16 [4, 3]).flatten) (bodyOf r)).bind fun l =>
    if (l.drop (5 + 2 * fi l 2)).all (· = 0) then some ⟨fi l 0, fi l 1, (List.range (fi l 2 + 1)).map fun i => (fi l (3 + 2 * i), fi l (4 + 2 * i))⟩ else none
/-- An outer sheaf; unused data-segment modules are zero. -/
def outerRec (r : Rec) : Option OuterSheaf :=
  (bodyF ([3] ++ List.replicate 7 16 ++ [16, 3, 6, 32, 24]) (bodyOf r)).bind fun l =>
    if fi l 0 ≤ 6 ∧ ((l.take 8).drop (2 + fi l 0)).all (· = 0) then some ⟨fi l 0 + 1, (l.drop 1).take (fi l 0 + 1), fi l 8, fi l 9, fi l 10, fi l 11, fi l 12⟩ else none
def relayRec (r : Rec) : Option Relay :=
  (bodyF [6, 10, 6, 8, 16, 6, 10, 18, 8] (bodyOf r)).map fun l => ⟨fi l 0, fi l 1, fi l 2, fi l 3, fi l 4, fi l 5, fi l 6, fi l 7 * 8, fi l 8⟩
def xtokRec (r : Rec) : Option (Nat × Nat × Nat × Nat) := (bodyF [6, 16, 8, 16] (bodyOf r)).map fun l => (fi l 0, fi l 1, fi l 2, fi l 3)
def inlogRec (r : Rec) : Option (Nat × Nat × Nat) := (bodyF [16, 6, 32] (bodyOf r)).map fun l => (fi l 0, fi l 1, fi l 2)

/-- The link course: its header, then its records, the kinds in ascending order. -/
def linkOf (b : List Byte) : Option LinkCourse :=
  match (recsOf (b.length / 64 + 1) b).bind fun rs => if kindsAre ((List.range 9).map fun i => (0x30 + i, 64)) rs then some rs else none with
  | some (r :: t) =>
    let of (k : Nat) : List Rec := t.filter fun x => x.1 = k
    if r.1 = 0x30 ∧ pairwise (fun a b => decide (a.1 ≤ b.1)) t ∧ (of 0x30).isEmpty then
      match bodyF [16, 16, 2] (bodyOf r), allOf modList (of 0x31), allOf linkRec (of 0x32), allOf slotRec (of 0x33), allOf routeRec (of 0x34), allOf outerRec (of 0x35),
            allOf relayRec (of 0x36), allOf xtokRec (of 0x37), allOf inlogRec (of 0x38) with
      | some l, some ls, some ks, some ss, some rs, some os, some ry, some xt, some il =>
        some { mod := fi l 0, loopMod := fi l 1, held := fi l 2, lists := joinLists ls, links := ks, slots := ss, routes := rs, outer := os, relays := ry, xtoks := xt, inlogs := il }
      | _, _, _, _, _, _, _, _, _ => none
    else none
  | _ => none

def commitRec (r : Rec) : Option (List Nat) :=
  let n := bodyOf r % 128
  if 64 < n then none else (bodyF (7 :: List.replicate n 12) (bodyOf r)).map (·.drop 1)
def storeRec (r : Rec) : Option (Nat × Nat × Nat) := (bodyF [6, 32, 32] (bodyOf r)).map fun l => (fi l 0, fi l 1, fi l 2)
def touchRec (r : Rec) : Option (Nat × Nat × Nat) := (bodyF [6, 32, 24] (bodyOf r)).map fun l => (fi l 0, fi l 1, fi l 2)

/-- The step course. -/
def stepOf (b : List Byte) : Option StepCourse :=
  match (recsOf (b.length / 64 + 1) b).bind fun rs => if kindsAre [(0x40, 64), (0x41, 128), (0x42, 64), (0x43, 64)] rs then some rs else none with
  | some (r :: c :: t) =>
    let (st, t) := spanKind 0x42 t
    let (touch, t) := spanKind 0x43 t
    if r.1 = 0x40 ∧ c.1 = 0x41 ∧ t.isEmpty then
      match bodyF [12, 7, 5] (bodyOf r), commitRec c, allOf storeRec st, allOf touchRec touch with
      | some l, some cs, some ss, some ts => some { mb := fi l 0 + 1, resGiB := fi l 1, s := fi l 2, commits := cs, store := ss, touch := ts }
      | _, _, _, _ => none
    else none
  | _ => none

/-- Length of the mode course's fields (Table 12.8). -/
def modeLen : Nat := 0x6E

/-- The mode course; bits that its table does not name are zero. -/
def modeOf (b : List Byte) : Option ModeCourse :=
  if b.length < modeLen ∨ (b.drop modeLen).any (· ≠ 0) then none
  else
    let v := leAt b 0 2
    let w := leAt b 2 2
    let t := leAt b 4 2
    if v / 2 ^ 13 ≠ 0 ∨ fld w 6 2 ≠ 0 ∨ fld w 14 2 ≠ 0 ∨ t / 2 ^ 5 ≠ 0 ∨ leAt b 6 2 ≠ 0 then none
    else some
      { prec := bitAt v 0, updt := bitAt v 1, spare := bitAt v 2, prot := bitAt v 3, clock := fld v 4 2, store := bitAt v 6, trap := bitAt v 7, back := bitAt v 8
        rchk := bitAt v 9, hwin := bitAt v 10, diag := fld v 11 2, sbw := fld w 0 6, sbe := fld w 8 6, tmask := fld t 0 4, gradOnly := bitAt t 4
        frun := (List.range 48).map fun i => leAt b (8 + i) 1, flow := (List.range 48).map fun i => leAt b (0x38 + i) 1, outm := leAt b 0x68 6 }

/-- The settings record: pairs of address and value, and zeros after the last whole one. -/
def settingsOf (b : List Byte) : Option (List (Nat × U32)) :=
  if (b.drop (b.length / 8 * 8)).all (· = 0) then some ((entriesOf 8 b).map fun e => (leAt e 0 4, BitVec.ofNat 32 (leAt e 4 4))) else none

/-! The image. -/

/-- The header course (Table 12.1). -/
structure Header where
  ncourse : Nat
  flags : Nat
  size : Nat
  imageId : Nat
  step0 : Nat
  lepoch0 : Nat
  nreg : Nat
  table : List (Nat × Nat × Nat × Nat)
  deriving DecidableEq, Repr

/-- `MAGIC`: ASCII `RANILEIM`. -/
def magic : List Byte := [0x52, 0x41, 0x4E, 0x49, 0x4C, 0x45, 0x49, 0x4D]

/-- A course-table entry (Table 12.2): type, index, offset, length. -/
def courseEntry (b : List Byte) : Option (Nat × Nat × Nat × Nat) :=
  if leAt b 4 4 = 0 ∧ leAt b 0x18 8 = 0 then some (leAt b 0 2, leAt b 2 2, leAt b 8 8, leAt b 0x10 8) else none

/-- The header of a staged image. -/
def headerOf (m : Memory) : Option Header :=
  let b := sliceMem m 0 0x100
  let n := leAt b 0xA 2
  if b.take 8 = magic ∧ leAt b 8 2 = 1 ∧ leAt b 0xC 4 < 4 ∧ (b.drop 0x35).all (· = 0) ∧ n ≤ 64 then
    (allOf courseEntry (entriesOf 32 (sliceMem m 0x100 (32 * n)))).map fun t =>
      { ncourse := n, flags := leAt b 0xC 4, size := leAt b 0x10 8, imageId := leAt b 0x18 16, step0 := leAt b 0x28 8, lepoch0 := leAt b 0x30 4, nreg := leAt b 0x34 1, table := t }
  else none

/-- Bytes of a course. -/
def courseBytes (m : Memory) (e : Nat × Nat × Nat × Nat) : List Byte := sliceMem m e.2.2.1 e.2.2.2



/-- The course of a type that an image has at most once. -/
def Header.course (h : Header) (ct : Nat) : Option (Nat × Nat × Nat × Nat) := h.table.find? fun e => e.1 = ct

/-- Read a course of a type, absent courses as none; none at all where it cannot be read. -/
def readCourse {α : Type} (m : Memory) (h : Header) (ct : Nat) (f : List Byte → Option α) : Option (Option α) :=
  match h.course ct with
  | none => some none
  | some e => (f (courseBytes m e)).map some

/-- `KEYID` of the trust course (Table 12.3). -/
def keyIdOf (m : Memory) (h : Header) : U64 :=
  match h.course 1 with
  | none => 0
  | some e => BitVec.ofNat 64 (leAt (courseBytes m e) (0x48 + 64 * h.ncourse) 8)

/-- The image that staged bytes spell. -/
def parseImage (m : Memory) : Option Image :=
  match headerOf m with
  | none => none
  | some h =>
    let regs := h.table.filter fun e => e.1 = 2
    match allOf (fun e => (regionOf (courseBytes m e)).map fun r => (e.2.1, r)) regs, readCourse m h 3 linkOf, readCourse m h 4 pressOf, readCourse m h 5 stepOf, readCourse m h 6 modeOf, readCourse m h 7 settingsOf with
    | some rs, some l, some p, some st, some mo, some se =>
      some { reshard := bitAt h.flags 0, cold := bitAt h.flags 1, imageId := h.imageId, step0 := h.step0, lepoch0 := h.lepoch0, nreg := h.nreg, keyId := keyIdOf m h, table := h.table
             digests := h.table.map fun e => digest64 (courseBytes m e), regions := rs, link := l, press := p, step := st, mode := mo
             settings := se.getD [] }
    | _, _, _, _, _, _ => none

end Sys2Proof.Machine
end

