-- ==== Sys2Proof/Machine/Boundary.lean ====
section
/-! DEFINITION. Step boundaries: the end of a step in each region, its commit, and the commit token that begins the next (R19, R22, R64, R152, R174 to R177, R279, R296, R350). -/

namespace Sys2Proof.Machine

/-! End of step. -/

/-- The press of a region has had every update and refresh of the step, and every delta is acknowledged (R19, R146, R148, R284). -/
def State.pressDone (s : State) (r : Nat) : Bool :=
  (List.range (s.shards r).length).all (fun k => decide (s.phase r k = .updated ∨ s.phase r k = .unchanged)) &&
  ((s.lreg r).stamped || (s.shards r).isEmpty) && (s.lreg r).outDeltas.isEmpty

/-- The region's work of the step is complete (R19). -/
def State.stepDone (s : State) (r : Nat) : Bool :=
  let l := s.lreg r
  s.unitsDone r && decide (s.stepCourse.mb ≤ l.mbEnded) && !(s.bat.mbs.any fun m => m.lregion = r) && s.pressDone r

/-- END_OF_STEP_REPORT (R19). -/
def execEndOfStepReport (r : Region) (s : State) : Ans :=
  if s.regionRuns r && !(s.lreg r).endSent && s.stepDone r then
    .next ((s.onLreg r fun l => { l with active := false, endSent := true }).onRun fun x => { x with ended := x.ended ++ [r.val] })
  else .next s

/-! Beginning a step. -/

/-- A core at the start of a step: contexts at their first instruction, no firing counted, nothing in the engines (R252); counters and memory stay, and the flags of reduces that are still arriving (R89). -/
def CoreSt.newStep (x : CoreSt) : CoreSt :=
  { x with ctxs := [], tileFired := [], chainFired := [], lateStart := false, accs := [], vec := none, sticky := [], seqs := [], halted := false }

/-- A logical region at the start of a step. -/
def LRegionSt.newStep (l : LRegionSt) : LRegionSt :=
  { l with phases := [], stamped := false, reentered := false, sums := [], report := none, gnf := false, mbBegun := 0, mbEnded := 0, replayTo := 0, endSent := false,
           cpReported := false, remembered := [], orcTold := [], counts := [], parts := [], asm := [], occ := [] }

/-- The control die's exchange and summaries at the start of a step (R41, R169). -/
def PressSt.newStep (p : PressSt) : PressSt :=
  { p with sent := false, recs := p.nextRecs, nextRecs := [], decided := false, skipStep := false, glob := 0, grps := [] }

/-- Pinned rows that were not updated are released when the step commits (R156). -/
def OrchardSt.newStep (o : OrchardSt) : OrchardSt := { o with cache := mapTab [] (fun l => l.map fun x => { x with pinned := false, done := false }) o.cache }

/-- Clear what belongs to the step that has ended. -/
def State.clearStep (s : State) : State :=
  let s := ((((s.onOrc (·.newStep)).onCores (·.newStep)).onLregs (·.newStep)).onPrs (·.newStep))
  (s.onNum fun n => { n with top := 0, done := [] }).onFlt fun f =>
    { f with replaying := false, inlog := [], relog := [], aliases := [], pendSnap := none, logFull := false }

/-- Nothing of a re-entered step is left (R270). -/
def State.endRerun (s : State) : State := s.onRun fun r => { r with rerun := false }

/-- Reservoir slot of a step (R152). -/
def State.slotFor (s : State) (step : U64) : Nat := step.toNat % s.stepCourse.s

/-- A snapshot whose lines are settled becomes the last valid one (R279, R280). -/
def State.settleSnap (s : State) : State :=
  match s.flt.pendSnap with
  | none => s
  | some q => if s.snapIsSettled q then s.onFlt fun f => { f with snap := some q, pendSnap := none } else s

/-- Abandon all work of the step in hand and stand at the boundary before it, its slot full again; SRAM returns to the last commit point (R270, R281). -/
def State.abandonStep (s : State) : State :=
  let q := s.reentrySnap
  let s := s.discardSlab
  let s := if s.run.inStep then s.onStore fun t => { t with slots := t.slots.set 0 (s.slotFor s.run.step) 1 } else s
  let s := s.serviceRegions.foldl (fun s r => match s.phys r with | none => s | some p => s.onReg p fun g => { g with counts := [] }) s
  let s := s.onCores (·.newStep)
  let s := s.onLregs fun l => { l.newStep with report := if s.prs.sent then l.report else none, active := false, replayTo := max l.replayTo l.mbBegun }
  let s : State := match q with
    | none => s
    | some q => { s with sram := s.restoreSram q }
  let s := s.onFlt fun f => { f with replaying := true, replayTo := s.num.top, relog := f.inlog, aliases := [], pendSnap := none }
  let s := s.onNum fun n => { n with top := 0, done := [] }
  s.onRun fun r => { r with inStep := false, crossed := false, tokens := [], ended := [], rerun := true }

/-- Exchange lines are lost beyond their sheaf while outer sheaves keep the parameters: the module stands at its last step boundary, and needs a warm load before it runs on (R294; log entry 163). -/
def State.exchangeGone (s : State) : State :=
  if s.flt.needLoad || decide (5 ≤ s.run.hcause) then s
  else
    let s := (s.logHealth { cls := 0x50, action := 10 }).abandonStep
    (s.onRun fun r => { r with st := .stopped, hcause := 0, atStep := true, stopAsked := false }).onFlt fun f => { f with needLoad := true }

/-- The commit point at the step boundary: its snapshot is written beside the last valid one, which it follows once it is settled (R279, R280; log entry 136). -/
def State.boundarySnap (s : State) : State :=
  let q := s.takeSnap 0
  ((s.writeSnap q.runB).onFlt fun f => { f with pendSnap := some q }).settleSnap

/-- The last valid snapshot is of the boundary as it stands: nothing that it holds has changed since. -/
def State.snapStands (s : State) : Bool := match s.flt.snap with | none => false | some q => decide ({ s.takeSnap 0 with runB := q.runB } = q)

/-- The commit token leaves for every region: settings of class `STEP` held in the control die take effect, and the step's summaries are cleared; the next step's slot need not be full (R19, R22, R41, R279, R364). -/
def State.sendTokens (s : State) : State :=
  let s := s.stepBoundaryModule.onNum fun n => { n with summary := 0, gnf := false }
  s.onRun fun r => { r with crossed := true, tokens := s.serviceRegions, ended := [], atStep := false }

/-- Begin the next step: its slot is in use, and every region that has its commit token may fire (R19, R152). -/
def State.beginStep (s : State) : State :=
  let s := s.onStore fun t => { t with slots := t.slots.set 0 (s.slotFor s.run.step) 2 }
  s.onRun fun r => { r with crossed := false, inStep := true, absorbed := false }

/-- Begin the next step if its slot is full (R152). -/
def State.tryBegin (s : State) : State := if s.store.slots.get 0 (s.slotFor s.run.step) = 1 then s.beginStep else s

/-- Begin the application of the staged set: the apply token leaves for every region of the new configuration (R263). -/
def State.startApply (s : State) : State :=
  s.onStg fun t => { t with
    applying := true, applyAt := s.time, loading := []
    applyToks := match t.image with
      | none => s.serviceRegions
      | some i => if i.reshard then s.serviceRegions else i.regions.map (·.1) }

/-- A change is armed for the boundary the module stands at (R263). -/
def State.applyDue (s : State) : Bool :=
  decide (s.stg.st = .armed) && decide (s.stg.b + 1 = s.run.step) && !s.run.crossed && decide (s.run.st ≠ .held) && decide (s.run.st ≠ .idle)

/-- The module stops at the boundary it stands at, the commit token withheld; one that only waits for a slot takes its token back (R349, R350; log entry 112). -/
def State.stopHere (s : State) : State := s.onRun fun r => { r with st := .stopped, atStep := true, stopAsked := false, crossed := false, tokens := [] }

/-- The module reaches its step limit and stops (R350). -/
def State.stopAtLimit (s : State) : State := s.stopHere.event 4 s.run.limit

/-- A stop that `STEP_HOLD` asked for at a step boundary: the module stops, and every hold completes (R350). -/
def State.settleStop (s : State) : State :=
  if s.run.st = .running ∧ s.run.stopAsked then
    s.stopHere.finishHolds true (s.run.step - 1) (BitVec.ofNat 64 s.lastMb)
  else s

/-- The commit token leaves once the boundary's snapshot is settled, one that no longer tells what stands being taken again first (R279, R280, R281). -/
def State.crossBoundary (s : State) : State :=
  let s := if s.flt.pendSnap.isSome || s.snapStands then s else s.boundarySnap
  if s.flt.pendSnap.isSome then s else s.sendTokens.tryBegin

/-- What the module does at a boundary where nothing stops it: apply an armed change once no move of the last re-shard is pending (R222); else, while running, stop past the step limit, send the commit token once the topology check has passed and the commit point is taken, and begin the next step once its slot is full (R19, R152, R327, R350). -/
def State.goOn (s : State) : State :=
  if s.applyDue then (if s.stg.reshard && !s.cfg.moves.isEmpty then s else s.startApply)
  else if s.run.st = .running then
    (if s.run.limit.toNat < s.run.step.toNat then s.stopAtLimit
     else if s.run.crossed then s.tryBegin
     else if s.cfg.topoWait then s
     else s.crossBoundary)
  else s

/-- At a boundary: stop where a stop is asked for, else go on. -/
def State.advance (s : State) : State :=
  if s.run.inStep || s.stg.applying || decide (s.flt.phase ≠ .none) then s else s.settleStop.goOn

/-! Commit. -/

/-- A partner that is lost holds a segment of an outer sheaf of this module (R296). -/
def State.outerPartnerLost (s : State) : Bool :=
  s.modeCourse.prot && s.flt.partner && s.linkCourse.outer.any fun o => (o.parity :: o.data).contains s.flt.partnerMod

/-- Protection level in force, 0 before a configuration is (R296, Tables 13.5 and 13.11). -/
def State.protLevel (s : State) : Nat :=
  if s.cfg.image.isNone then 0
  else if s.flt.corr then 3
  else if s.store.degr || !s.flt.outerDue.isEmpty || s.outerPartnerLost then 2
  else if s.modeCourse.prot then 0 else 1

/-- `RES1` of a step-completion event (Table 15.9). -/
def State.stepRes1 (s : State) : U64 :=
  BitVec.ofNat 64 (pack [(s.protLevel, 2), (b2n s.prs.skipStep, 1), (b2n s.run.absorbed, 1), ((BitVec.ofInt 8 s.prs.exp).toNat, 8), (s.num.summary.toNat, 4)])

/-- Loss-scale update at the end of a step (R176). -/
def State.updateScale (s : State) : State :=
  let c := s.pressCourse.ls
  if c.lsen then
    s.onPrs fun p =>
      if p.skipStep then { p with exp := max c.emin (p.exp - c.down), clean := 0 }
      else if c.grow ≤ p.clean + 1 then { p with exp := min c.emax (p.exp + 1), clean := 0 }
      else { p with clean := p.clean + 1 }
  else s

/-- The most assembly slots any press held in the step (Table 8.7). -/
def State.asmHigh (s : State) : Nat := s.lregions.foldl (fun m x => max m x.2.hiwat) 0

/-- A hold that `STEP_HOLD` alone asked for and that falls on the last micro-batch (R350). -/
def State.endHold (s : State) : Bool := s.num.hold = some s.lastMb && !s.num.held && !s.num.holdNumeric

/-- The step may commit: every region has reported its end, every delta sent since is acknowledged too, no hold is still being reached, and under held timing the norm exchange is complete (R19, R46, R146, R169). -/
def State.mayCommit (s : State) : Bool :=
  s.run.inStep && s.serviceRegions.all (fun r => s.run.ended.contains r) && decide (s.flt.phase = .none) &&
  (s.num.hold.isNone || s.num.held || s.endHold) && s.serviceRegions.all (fun r => (s.lreg r).outDeltas.isEmpty) && decide (s.run.hcause ≤ 2) && (!s.heldTiming || s.prs.decided)

/-- A hold is released: no region is bound by it any more (R47). -/
def State.clearHold (s : State) : State :=
  let s := s.onLregs fun x => { x with holdTok := none }
  s.onNum fun n => { n with held := false, hold := none, holdNumeric := false, heard := [] }

/-- Where the module goes from the boundary just reached (R350): held with the token withheld, every hold complete; stopped by `STEP_HOLD` or the limit; or on. -/
def State.afterCommit (s : State) : State :=
  let last := s.run.step - 1
  if s.run.st = .held then (s.onRun fun r => { r with atStep := true, stopAsked := false }).finishHolds true last (BitVec.ofNat 64 s.lastMb)
  else
    let s := if s.endHold then s.clearHold.onRun fun r => { r with stopAsked := true } else s
    let s := if last = s.run.limit then (s.onRun fun r => { r with stopAsked := true }).event 4 s.run.limit else s
    s.advance

/-- STEP_COMMIT (R22): the slot is released, the step counter rises, completion is posted, and the commit token leaves unless the module stops here. -/
def execStepCommit (s : State) : Ans :=
  if s.mayCommit then
    let n := s.run.step
    let s := s.onStore fun t => { t with slots := t.slots.set 0 (s.slotFor n) 0 }
    let res1 := s.stepRes1
    let s := s.updateScale.onPrs fun p => { p with asmHi := s.asmHigh }
    let s := s.onLregs fun x => { x with hiwat := 0 }
    let s := s.postEvent 1 res1 n
    let s := s.onRun fun r => { r with step := n + 1, inStep := false, ended := [] }
    .next s.clearStep.endRerun.boundarySnap.afterCommit
  else .next s

/-! The commit token. -/

/-- Units in which a count of a region block is kept (Tables 3.7, 4.9, 5.7, 6.8, 9.9). -/
def countUnit (off : Nat) : Nat :=
  if off = 0x2004 ∨ off = 0x2008 ∨ off = 0x2010 ∨ off = 0x2014 ∨ off = 0x2028 ∨ off = 0x202C ∨ off = 0x2048 ∨ off = 0x204C then 1024
  else if off = 0x2064 then 2 ^ 20 else 1

/-- Counts of cycles in which a unit waited, each with whether more than what the commands show could wait: a lane group beside another user of its banks (the matrix engine, the vertical port, the networks, beat tables), vertical-port traffic, packets (R72, R80, R105, R133). -/
def openWaits (beats : Bool) (counts : Tab Nat) : List (Nat × Bool) :=
  let ran (off : Nat) : Bool := decide (counts.get 0 off ≠ 0)
  [(0x2014, ran 0x2010 && (beats || [0x2004, 0x2008, 0x2028, 0x2048].any ran)), (0x202C, ran 0x2028), (0x204C, ran 0x2048 || ran 0x204C)]

/-- The counts of a step as they are latched, in their units. Timing decides how long a unit waited, so a count of waiting cycles holds the cycles that the rules give and, where more could wait, an open number more (log entry 116). -/
def latchedOf (p : Nat) (epoch : U32) (step : U64) (beats : Bool) (counts : Tab Nat) : Tab U32 :=
  (openWaits beats counts).foldl (fun (t : Tab U32) x => if x.2 then t.upd 0 x.1 (sat32 · (Config.waitCount p x.1 epoch step).toNat) else t)
    (counts.foldl (fun (t : Tab U32) x => t.set 0 x.1 (sat32 0 (x.2 / countUnit x.1))) [])

/-- Beat tables of a physical region's cores use SRAM banks (R82). -/
def State.beatUse (s : State) (p : Nat) : Bool := match s.logicalOf p with | none => false | some r => (s.course r).cores.any fun c => !c.beats.isEmpty

/-- Latch the counts of the step that has ended (R64). -/
def State.latchCounts (s : State) (p : Nat) : State :=
  s.onReg p fun g => { g with counts := [], latched := latchedOf p s.cfg.epoch s.run.step (s.beatUse p) g.counts }

/-- Write 2^e into the region's scale cells and emit the scale-ready token (R177; log entry 48). -/
def State.writeScale (s : State) (r : Nat) : State :=
  let v := leBytes 4 ((fpPow2 s.prs.exp).toBits b32).1
  let s := (s.pressCourse.cells.filter fun c => c.1 = r).foldl (fun s c => s.writeSram r c.2.1 c.2.2 v) s
  match s.pressCourse.regions.find? fun x => x.lregion = r with
  | none => s
  | some x => s.sendEmits x.scaleReady

/-- The press evaluates every schedule for the coming step (R174). -/
def State.evalSchedules (s : State) (r : Nat) : State :=
  s.onLreg r fun l => { l with lrs := s.pressCourse.scheds.map fun c => w64 (schedValue c s.run.step) }

/-- Latch the counts of a region, once for each boundary (R64). -/
def State.latchOnce (s : State) (r p : Nat) : State :=
  (if (s.lreg r).counted then s else s.latchCounts p).onLreg r fun l => { l with counted := false }

/-- What the receipt of the commit token does in a region: staged settings take effect, the counts are latched, the press evaluates its schedules and writes the scale cells (R19, R64, R174, R177, R364). A region that already has the token takes the settings alone (log entry 112). -/
def State.takeToken (s : State) (r : Nat) : State :=
  let s := match s.phys r with
    | none => s
    | some p => s.stepBoundaryRegion p
  if (s.lreg r).active then s
  else
    let s := match s.phys r with
      | none => s
      | some p => s.latchOnce r p
    ((s.evalSchedules r).onLreg r fun l => { l with active := true, reentered := l.reentered || s.run.rerun }).writeScale r

/-- COMMIT_TOKEN (R19). -/
def execCommitToken (r : Region) (s : State) : Ans :=
  if s.run.tokens.contains r.val then .next ((s.onRun fun x => { x with tokens := x.tokens.filter (· ≠ r.val) }).takeToken r)
  else .next s

end Sys2Proof.Machine
end

