-- ==== Sys2Proof/Machine/Move.lean ====
section
/-! DEFINITION. Moves of a re-shard: which they are, when one begins, and its completion (R216 to R218, R222). -/

namespace Sys2Proof.Machine

/-! The moves of a re-shard (R216; log entry 59). -/

/-- The shards of a press course, with their regions and numbers. -/
def allShards (p : PressCourse) : List (Nat × Nat × Shard) :=
  p.regions.flatMap fun x => (x.shards.zip (List.range x.shards.length)).map fun y => (x.lregion, y.2, y.1)

/-- Lines of every kept copy, the working copy aside, and of the header of a shard. -/
def shardPlace (cs : List (Nat × RegionCourse)) (r : Nat) (sh : Shard) : List (List (Nat × Nat)) × Nat × Nat :=
  let rc := ((cs.find? fun x => x.1 = r).map (·.2)).getD {}
  ([copyMaster, copyM, copyV, copyRipe].map fun c => match (sh.runs[c]?).join with | none => [] | some l => listLines rc l, sh.hbank, sh.hline)

/-- The region that stands for another module among a move's sources. -/
def foreignRegion : Nat := 64

/-- Pair each new shard whose owner or lines are new with an old shard that is no longer where it was, in order, of the same length and group; one left over comes from another module. -/
def pairMoves : List (Nat × Nat × Shard) → List (Nat × Nat × Shard) → List (Nat × Nat × Nat × Nat × Nat)
  | [], _ => []
  | (r, k, sh) :: t, olds =>
    match olds.find? fun o => o.2.2.nlines = sh.nlines && o.2.2.group = sh.group with
    | none => (r, k, foreignRegion, 0, 0) :: pairMoves t olds
    | some o => (r, k, o.1, o.2.1, 0) :: pairMoves t (olds.filter fun x => !(x.1 = o.1 && x.2.1 = o.2.1))

/-- The moves from an old press course and its region courses to new ones. -/
def movesOf (old : PressCourse) (oldCs : List (Nat × RegionCourse)) (new_ : PressCourse) (newCs : List (Nat × RegionCourse)) : List (Nat × Nat × Nat × Nat × Nat) :=
  let o := allShards old
  let n := allShards new_
  let stays (x : Nat × Nat × Shard) (l : List (Nat × Nat × Shard)) (a b : List (Nat × RegionCourse)) : Bool :=
    l.any fun y => y.1 = x.1 && shardPlace b y.1 y.2.2 = shardPlace a x.1 x.2.2
  pairMoves (n.filter fun x => !stays x o newCs oldCs) (o.filter fun x => !stays x n oldCs newCs)

/-! Moving. -/

/-- The old shard of a move. -/
def State.oldShard (s : State) (r k : Nat) : Option Shard :=
  ((s.cfg.oldPress.bind fun p => p.regions.find? fun x => x.lregion = r).bind fun x => x.shards[k]?)

/-- Lines of a copy of an old shard, and of all its copies with the header. -/
def State.oldLines (s : State) (r : Nat) (sh : Shard) (copy : Nat) : List (Nat × Nat) :=
  match (sh.runs[copy]?).join with
  | none => []
  | some l => listLines (((s.cfg.oldRegions.find? fun x => x.1 = r).map (·.2)).getD {}) l

def State.oldShardLines (s : State) (r : Nat) (sh : Shard) : List (Nat × Nat) :=
  [copyMaster, copyM, copyV, copyRipe].flatMap (s.oldLines r sh) ++ [(sh.hbank, sh.hline)]

/-- The drain counter of an old shard is zero: no delta of its lines is unacknowledged, no operation to them waits. Its contribution counts and release waits ended with the last step of its layout epoch, whose commit opens the move (R19, R166, R217). -/
def State.drained (s : State) (r k : Nat) : Bool :=
  match s.oldShard r k with
  | none => true
  | some sh =>
    let ls := s.oldShardLines r sh
    let l := s.lreg r
    l.outDeltas.all (fun d => !ls.contains (d.bank, d.line)) &&
    (l.inHi ++ l.inNo).all fun p => !((p.vc ≠ 2 || decide (p.layout.toNat = sh.epoch)) && gSpace p.gaddr && ls.contains (gIndex p.gaddr, gOffset p.gaddr / 2048))

/-- The lines that a move reads are there: of a lost old owner they are rebuilt, or reconstructed where no standby takes its place, and settled (R146, R222, R291). -/
def State.sourceThere (s : State) (r k : Nat) : Bool :=
  match s.oldShard r k with
  | none => true
  | some sh => (s.oldShardLines r sh).all fun l => (s.regionDead r || !s.lineGone r l.1 l.2) && (!s.openLosses.contains r || s.maySettle r l.1 l.2)

/-- The pending move that a region's press serves next: that of its lowest shard (R218). -/
def State.nextMove (s : State) (r : Nat) : Option (Nat × Nat × Nat × Nat × Nat) := s.cfg.moves.find? fun m => m.1 = r

/-- Copy line j of one copy of a moved shard (R218). -/
def State.moveLine (s : State) (r : Nat) (sh : Shard) (or_ : Nat) (old : Option Shard) (copy j : Nat) : State :=
  let (b, s) := match old with
    | none => s.foreignLine
    | some o =>
      match (s.oldLines or_ o copy)[j]? with
      | none => (List.replicate 2048 0, s)
      | some (bk, l) => (s.servedLine or_ bk l, s)
  let s := s.onCfg fun c => { c with moved := c.moved + 1 }
  if copy = copyMaster then s.writeMaster r sh j b else s.writeCopy r sh copy j b

/-- Copy every line of a shard, in ascending order. -/
def State.moveLines (s : State) (r : Nat) (sh : Shard) (or_ : Nat) (old : Option Shard) : State :=
  (List.range sh.nlines).foldl (fun s j =>
    [copyMaster, copyM, copyV, copyRipe].foldl (fun s c => if (s.copyLines r sh c).isEmpty then s else s.moveLine r sh or_ old c j) s) s

/-- Mark of a move whose lines have been written. -/
def movedMark : Nat := 1

/-- MOVE_BEGIN (R217): once the old shard has no open work and its lines are there, the new owner reads its lines and writes them into its own, with their deltas and working elements. -/
def execMoveBegin (r : Region) (k : Fin 4096) (s : State) : Ans :=
  match s.nextMove r, s.shard r k with
  | some m, some sh =>
    if m.2.1 = k.val ∧ m.2.2.2.2 = 0 ∧ s.drained m.2.2.1 m.2.2.2.1 ∧ s.sourceThere m.2.2.1 m.2.2.2.1 ∧ !s.flt.quiet.contains r.val then
      let s := s.moveLines r sh m.2.2.1 (s.oldShard m.2.2.1 m.2.2.2.1)
      .next (s.onCfg fun c => { c with moves := c.moves.map fun x => if x = m then (m.1, m.2.1, m.2.2.1, m.2.2.2.1, movedMark) else x })
    else .next s
  | _, _ => .next s

/-- MOVE_COMPLETE (R218): the header, once it is there to be read, is written last and unchanged, a master that makes a working element infinite is reported, the ready emits leave, and the old lines are vacant; the last move ends the re-shard (R150, R178, R222). -/
def execMoveComplete (r : Region) (k : Fin 4096) (s : State) : Ans :=
  match s.nextMove r, s.shard r k with
  | some m, some sh =>
    if m.2.1 = k.val ∧ m.2.2.2.2 = movedMark ∧ s.sourceThere m.2.2.1 m.2.2.2.1 then
      let (h, s) := match s.oldShard m.2.2.1 m.2.2.2.1 with
        | none => s.foreignLine
        | some o => (s.servedLine m.2.2.1 o.hbank o.hline, s)
      let s := ((s.writeLinePart r sh.hbank sh.hline 0 h).sendShardRecord r k (s.masterTally r sh)).sendEmits sh.ready
      let s := s.onCfg fun c => { c with moves := c.moves.filter (· ≠ m), moved := c.moved + 1, readySent := c.readySent ++ [(r.val, k.val)] }
      if s.cfg.moves.isEmpty then .next ((s.onCfg fun c => { c with rsDone := true }).event 5 (BitVec.ofNat 64 s.cfg.layout.toNat)).advance
      else .next s
    else .next s
  | _, _ => .next s

end Sys2Proof.Machine
end

