-- ==== Sys2Proof/Machine/Dma.lean ====
section
/-! DEFINITION. The DMA channels: descriptors, their data, checksums, completion and stops (R193 to R204). -/

namespace Sys2Proof.Machine

/-! Channels. -/

/-- Key of a channel; a region channel belongs to its logical region, so that relocation moves it with its course (R194, R204). -/
def chanKey : Chan → Nat
  | .region r n => r.val * 128 + n.val
  | .bridge c => bridgeBase + c.val

/-- `SUNIT` of a channel (R198). -/
def chanUnit (k : Nat) : Nat := if isRegionChan k then k % 128 else 512 + (k - bridgeBase)

/-- Logical region of a region channel; 0 for a bridge channel (R198). -/
def chanRegion (k : Nat) : Nat := if isRegionChan k then k / 128 else 0

/-- The region course's declaration of a region channel (R194). -/
def State.chanDecl (s : State) (k : Nat) : Option DmaDecl :=
  (s.course (k / 128)).dma.find? fun d => d.engine * 16 + d.channel = k % 128

/-- `CPRI` and `CMODE` of a channel (R194, Table 9.6). -/
def State.chanPri (s : State) (k : Nat) : Nat :=
  if isRegionChan k then (match s.chanDecl k with | none => 0 | some d => d.cpri) else fld (s.hq (k - bridgeBase)).stg.toNat 116 2
def State.chanMode (s : State) (k : Nat) : Bool :=
  if isRegionChan k then (match s.chanDecl k with | none => false | some d => d.cmode) else bitAt (s.hq (k - bridgeBase)).stg.toNat 118

/-- log₂ of a ring's entries and its base address (Table 9.6). -/
def HostQ.z (q : HostQ) : Nat := fld q.stg.toNat 64 5
def HostQ.base (q : HostQ) : Nat := fld q.stg.toNat 12 52 * 4096

/-- A ring without room for another entry (R192). -/
def HostQ.full (q : HostQ) : Bool := decide ((q.dev - q.host).toNat = 2 ^ q.z)

/-- A channel works: it exists, it is not stopped, and its region runs no rewind and is powered and clocked, or the host link is up (R203, R204, R335). -/
def State.chanRuns (s : State) (k : Nat) : Bool :=
  !(s.chan k).stop &&
  if isRegionChan k then
    match s.chanDecl k, s.phys (k / 128) with
    | some d, some p => !s.flt.quiet.contains (k / 128) && (s.reg p).powered && (s.reg p).clockOn && (s.reg p).lock && s.beatsLeft p && !(s.core (k / 128) d.core).halted
    | _, _ => false
  else (s.hq (k - bridgeBase)).en && !s.brg.linkDown

/-! Descriptors (Table 9.4). -/

/-- Reserved bits of a descriptor are zero. -/
def Desc.reservedZero (d : Desc) : Bool :=
  decide (d.f 0x14 8 24 = 0) && decide (d.f 0x18 9 23 = 0) && (List.range 4).all (fun w => decide (d.f (0x1C + 4 * w) 4 12 = 0)) &&
  (List.range 2).all fun x => decide (d.f (0x2C + 8 * x) 7 9 = 0) && decide (d.f (0x2C + 8 * x) 48 16 = 0)

/-- A unit that an emit of a descriptor may name (Table 9.4). -/
def emitUnitOk (e : Emit) : Bool :=
  decide (e.region < 48) && decide (1 ≤ e.count) &&
  (decide (e.unit < 896) || decide (e.unit = 0x0400) || decide (e.unit = 0x0401) || decide (0x0500 ≤ e.unit ∧ e.unit ≤ 0x057F))

/-- An address of either kind (R196). -/
def Desc.addrOk (host : Bool) (a : U64) (len : Nat) : Bool :=
  if host then decide (a.toNat % 8 = 0) && decide (a.toNat + len + 8 ≤ 2 ^ 64) else gLegal a

/-- The ranges, kinds and alignments of R195 and R196, and the checksum rule of R200. -/
def Desc.valid (d : Desc) (region : Bool) (prevCsum : Nat) : Bool :=
  d.reservedZero && decide (8 ≤ d.len ∧ d.len ≤ 16777216) && decide (d.len % 8 = 0) && decide (d.f 0x14 0 2 ≤ 1) && decide (d.f 0x14 2 2 ≤ 1) &&
  !(region && (d.srcHost || d.dstHost)) && !(d.srcHost && d.dstHost) && decide (d.csum ≤ 2) &&
  d.waits.all (fun w => decide (w.ctr ≤ 5) && decide (1 ≤ w.thr)) && (region || d.waits.isEmpty) && d.emits.all emitUnitOk &&
  Desc.addrOk d.srcHost d.src d.len && Desc.addrOk d.dstHost d.dst d.len &&
  (!d.cseed || (decide (d.csum = prevCsum) && decide (prevCsum ≠ 0)))

/-- Mark a channel's descriptor with the status it ends with, unless one is set. -/
def State.endChan (s : State) (k : Nat) (status : Byte) : State := s.onChan k fun d => if d.status = 0 ∨ d.status = 3 then { d with status := status } else d

/-- Descriptor words of 64 bytes. -/
def descOf (b : List Byte) : Desc := { raw := BitVec.ofNat 512 (leNat b) }

/-- DESCRIPTOR_FETCH (R197): a region channel takes one descriptor for each count of its descriptor counter, while its completion-space counter is not zero; a bridge channel fetches up to 4 ahead of those its ring shows. -/
def execDescriptorFetch (ch : Chan) (s : State) : Ans :=
  let k := chanKey ch
  let d := s.chan k
  if !s.chanRuns k then .next s
  else
    match ch with
    | .region r _ =>
      match s.chanDecl k with
      | none => .next s
      | some c =>
        if d.cur.isNone ∧ d.queue.isEmpty ∧ 1 ≤ d.ctrs.get 0 7 ∧ 1 ≤ d.ctrs.get 0 6 then
          let x := descOf (s.readSram r c.core (c.dring * 64 + d.fetched.toNat % 2 ^ c.y * 64) 64)
          .next (s.onChan k fun d => { d with queue := [x], fetched := d.fetched + 1, ctrs := d.ctrs.upd 0 7 (· - 1) })
        else .next s
    | .bridge c =>
      let q := s.hq c
      if q.host ≠ d.fetched ∧ d.queue.length < 4 then
        let x := descOf (s.readHost (q.base + 64 + d.fetched.toNat % 2 ^ q.z * 64) 64)
        .next (s.onChan k fun d => { d with queue := d.queue ++ [x], fetched := d.fetched + 1 })
      else .next s

/-! Data. -/

/-- Name of a channel's descriptor in its packets. -/
def DmaSt.tag (d : DmaSt) : Nat := d.epoch * 2 ^ 32 + d.completed.toNat

/-- Packet fields that every packet of a channel carries (R198). -/
def State.chanPacket (s : State) (k kind : Nat) (a : U64) (off n : Nat) : Packet :=
  { vc := 3, kind := kind, gaddr := gWithOffset a (gOffset a + off), smod := s.ownMod, slregion := chanRegion k, skind := 2, sunit := chanUnit k
    glen := n / 8, tag := (s.chan k).tag, base := gOffset a + off }

/-- A packet of a channel joins those waiting to leave its engine. -/
def State.chanSend (s : State) (k : Nat) (p : Packet) : State := s.onChan k fun d => { d with buf := d.buf ++ [p] }

/-- Where a descriptor's source begins: a host address, or an offset in its target. -/
def DmaSt.srcOff (_ : DmaSt) (x : Desc) : Nat := if x.srcHost then x.src.toNat else gOffset x.src

/-- One more read request of up to 512 bytes, if the channel buffer of 8 KiB has room for it; what it asks of the host is in the buffer with the request (R198; log entry 137). -/
def State.askOne (s : State) (k : Nat) : State :=
  let d := s.chan k
  match d.cur with
  | none => s
  | some x =>
    if d.status = 0 ∧ d.asked < x.len ∧ d.asked + 512 ≤ d.moved + 8192 then
      let n := min 512 (x.len - d.asked)
      if x.srcHost then
        s.onChan k fun d => { d with asked := d.asked + n, reads := d.reads ++ [{ kind := 14, tag := d.tag, base := d.srcOff x + d.asked, payload := s.readHost (x.src.toNat + d.asked) n }] }
      else
      (s.chanSend k { s.chanPacket k 13 x.src d.asked n with ltok := 0, pidx := d.asked / 512 % 128 }).onChan k fun d => { d with asked := d.asked + n }
    else s

/-- Read requests for all the room there is. -/
def State.askMore (s : State) (k : Nat) : State := loopN (fun _ s => s.askOne k) 16 s

/-- An address of this module whose logical region has no course, or of a module without a route entry (R92, R238). -/
def State.noTarget (s : State) (host : Bool) (a : U64) : Bool :=
  !host && (if s.isOwn (gMod a) then !s.inService (gRegion a) else s.unserved s.cfg.layout (gMod a))

/-- The issuing region of a channel rejects a descriptor whose target region has no course (R92). -/
def State.rejectChan (s : State) (k : Nat) (a : U64) (kind : Nat) : State :=
  (s.rejectOp ((if isRegionChan k then s.phys (k / 128) else none).getD 63) (s.chanPacket k kind a 0 8)).endChan k 2

/-- DESCRIPTOR_RUN (R197): the descriptor is checked, its waits are met and taken, and its reads begin; one lost to a partial reset ends with status 0x06 (R329). -/
def execDescriptorRun (ch : Chan) (s : State) : Ans :=
  let k := chanKey ch
  let d := s.chan k
  if !s.chanRuns k || d.cur.isSome then .next s
  else
    match d.queue with
    | [] => .next s
    | x :: rest =>
      let begun : State := s.onChan k fun d => { d with cur := some x, queue := rest, asked := 0, moved := 0, reads := [], hold := [], status := 0, refused := 0, took := [], crc0 := d.crc, sum0 := d.sum, prev0 := d.prevCsum }
      if x.lost then .next (begun.endChan k 6)
      else if !x.valid (isRegionChan k) d.prevCsum then .next (begun.endChan k 1)
      else if !(x.waits.all fun w => decide (w.thr ≤ d.ctrs.get 0 w.ctr)) then .next s
      else
        let s := begun.onChan k fun d => { d with
          took := x.waits, ctrs := x.waits.foldl (fun (t : Tab Nat) w => t.upd 0 w.ctr (· - w.thr)) d.ctrs
          crc := if x.cseed then d.crc else 0xFFFFFFFF, sum := if x.cseed then d.sum else 0, prevCsum := x.csum }
        if s.noTarget x.srcHost x.src then .next (s.rejectChan k x.src 13)
        else if s.noTarget x.dstHost x.dst then .next (s.rejectChan k x.dst 12)
        else .next (s.askMore k)

/-- A target's answer to a channel: to the engine that `SUNIT` names (R198). -/
def chanReply (s : State) (r unit skind : Nat) (p : Packet) (kind : Nat) : Packet :=
  { vc := if kind = 14 then 3 else 1, kind := kind, gaddr := mkGaddr p.smod p.slregion true p.sunit 0, smod := s.ownMod, slregion := r, skind := skind
    sunit := unit, org := clusterOf (gIndex p.gaddr), tag := p.tag, base := p.base, pidx := p.pidx, glen := p.glen }

/-- Bytes of the data of descriptor `x` that a write not applied at its target leaves unwritten: those of its checksum are no data (R200). -/
def DmaSt.lose (d : DmaSt) (x : Desc) (p : Packet) : DmaSt := if p.base < gOffset x.dst + x.len then { d with refused := d.refused + 8 * p.glen } else d

/-- A rejected request or write of the descriptor in hand ends it with status 0x02; one of an earlier descriptor, or from before an abort, ends none (R92, R203). -/
def DmaSt.reject (d : DmaSt) (p : Packet) : DmaSt :=
  let d := { d with acked := if p.kind = 12 ∧ p.tag / 2 ^ 32 = d.epoch then d.acked + 1 else d.acked }
  match d.cur with
  | none => d
  | some x =>
    if p.tag ≠ d.tag then d
    else
      let d := if p.kind = 12 then d.lose x p else d
      { d with status := if d.status = 0 ∨ d.status = 3 then 2 else d.status }

/-- A target outside its SRAM or bank, or in an area that DMA may not touch, is rejected: the channel learns of it with status 0x02, and a write counts as answered (R92, R196). -/
def State.rejectDma (s : State) (r : Nat) (p : Packet) : State :=
  let s := s.rejectOp ((s.phys r).getD 63) p
  if s.isOwn p.smod then
    let k := if p.sunit < 512 then p.slregion * 128 + p.sunit else bridgeBase + (p.sunit - 512)
    s.onChan k fun d => d.reject p
  else s

/-- A range within its core's SRAM. -/
def dmaInSram (p : Packet) : Bool := decide (gOffset p.gaddr + 8 * p.glen ≤ sramSize)

/-- A range within its bank whose lines all lie in areas that pass a test. -/
def State.dmaInBank (s : State) (r : Nat) (p : Packet) (ok : Area → Bool) : Bool :=
  decide (gOffset p.gaddr + 8 * p.glen ≤ 2048 * bankLines (gIndex p.gaddr)) &&
  (List.range ((gOffset p.gaddr % 2048 + 8 * p.glen + 2047) / 2048)).all fun i => ok (areaOf (s.course r) (gIndex p.gaddr) (gOffset p.gaddr / 2048 + i))

/-- DMA_READ_REQUEST (R198): the target answers with up to 512 bytes of read data. -/
def execDmaReadRequest (t : Target) (s : State) : Ans :=
  match t with
  | .core r c =>
    match s.takeCore r c (fun p => p.kind = 13) with
    | none => .next s
    | some (p, s) =>
      if dmaInSram p then .next (s.sendCore r c [{ chanReply s r c 0 p 14 with payload := s.readSram r c (gOffset p.gaddr) (8 * p.glen) }])
      else .next (s.rejectDma r p)
  | .store r =>
    match s.takeStore r (fun p => p.kind = 13 && !s.lineWaits r p) with
    | none => .next s
    | some (p, s) =>
      if s.dmaInBank r p (fun a => a ≠ .free) then
        .next (s.sendStore r [{ chanReply s r 0 1 p 14 with payload := s.readStore r (gIndex p.gaddr) (gOffset p.gaddr) (8 * p.glen) }])
      else .next (s.rejectDma r p)
  | .port _ _ => .next s

/-- Bytes into a checksum (R200). -/
def DmaSt.check (d : DmaSt) (b : List Byte) : DmaSt := { d with crc := crcRun d.crc b, sum := onesRun (b.length / 8) d.sum b }

/-- The value of a descriptor's checksum. -/
def DmaSt.csumValue (d : DmaSt) (x : Desc) : Nat :=
  if x.csum = 1 then (d.crc ^^^ 0xFFFFFFFF#32).toNat else if x.csum = 2 then d.sum else 0

/-- Write bytes at an offset of a channel's destination: to host memory, or in a write packet (R198). -/
def State.chanWrite (s : State) (k : Nat) (x : Desc) (off : Nat) (b : List Byte) (last : Bool) : State :=
  if x.dstHost then (s.writeHost (x.dst.toNat + off) b).onChan k fun d => { d with sentPk := d.sentPk + 1, hostAcks := d.hostAcks + 1 }
  else
    (s.chanSend k { s.chanPacket k 12 x.dst off b.length with payload := b, last := last, ttok := x.ttok, pidx := off / 512 % 128 }).onChan k fun d =>
      { d with sentPk := d.sentPk + 1 }

/-- Bytes that an engine moves in a cycle (R193). -/
def beatBytes : Nat := 64

/-- The next beat of a channel's source, if its data is in the buffer (R193, R198). -/
def State.nextData (s : State) (k : Nat) : Option (List Byte) :=
  let d := s.chan k
  match d.cur with
  | none => none
  | some x =>
    let n := min beatBytes (x.len - d.moved)
    let at_ := d.srcOff x + d.moved
    if d.status ≠ 0 ∧ d.status ≠ 3 then none
    else if x.len ≤ d.moved then none
    else (d.reads.find? fun p => p.tag = d.tag && decide (p.base ≤ at_ ∧ at_ < p.base + p.payload.length)).map fun p => (p.payload.drop (at_ - p.base)).take n

/-- Room beyond the engine for another packet. -/
def State.chanCredit (s : State) (k : Nat) : Bool := decide (((s.chan k).buf.filter fun p => p.kind = 12).length < 16)

/-- A channel with a beat in its buffer and credit for it (R199). -/
def State.chanReady (s : State) (k : Nat) : Bool := s.chanRuns k && s.chanCredit k && (s.nextData k).isSome

/-- The channels of an engine. -/
def engineChans (k : Nat) : List Nat := (List.range 16).map (k / 16 * 16 + ·)

/-- Steps from channel `j` to channel `k` in the round robin of their engine. -/
def chanAfter (j k : Nat) : Nat := (k + 15 - j % 16) % 16

/-- May the engine move data of channel `k` now: it is ready, none ready has a higher priority, and among equals the one with the turn keeps it for 4 KiB, after which, or when it has nothing to move, the next in order takes it (R199). -/
def State.chanTurn (s : State) (k : Nat) : Bool :=
  let peers := (engineChans k).filter s.chanReady
  let same := peers.filter fun j => decide (s.chanPri j = s.chanPri k)
  peers.contains k && peers.all (fun j => decide (s.chanPri j ≤ s.chanPri k)) &&
  match (engineChans k).find? fun j => (s.chan j).moving && decide (s.chanPri j = s.chanPri k) with
  | none => true
  | some j =>
    if same.contains j && decide ((s.chan j).turn < 4096) then decide (k = j)
    else same.all fun i => decide (chanAfter j k ≤ chanAfter j i)

/-- A pre-emption: the engine's last beat was for another channel, still ready, of a lower priority (R199). -/
def State.preempts (s : State) (k : Nat) : Bool :=
  (engineChans k).any fun j => decide (j ≠ k) && (s.chan j).mover && s.chanReady j && decide (s.chanPri j < s.chanPri k)

/-- Note which channel of an engine moves: it has the turn among its equals, a pre-empted channel of a lower priority keeps its own (R199). -/
def State.noteMover (s : State) (k n : Nat) : State :=
  let s := if s.preempts k && isRegionChan k then s.countL (k / 128) 0x2068 1 else s
  let s := ((engineChans k).filter (· ≠ k)).foldl (fun s j =>
    let y := s.chan j
    if y.mover || (y.moving && decide (s.chanPri j = s.chanPri k)) then
      s.onChan j fun d => { d with mover := false, moving := d.moving && decide (s.chanPri j ≠ s.chanPri k), turn := if s.chanPri j = s.chanPri k then 0 else d.turn }
    else s) s
  s.onChan k fun d => { d with mover := true, moving := true, turn := (if d.moving ∧ d.turn < 4096 then d.turn else 0) + n }

/-- Bytes moved leave in write packets of up to 512 bytes (R198). -/
def State.flushHold (s : State) (k : Nat) (x : Desc) (last : Bool) : State :=
  let d := s.chan k
  (s.chanWrite k x (d.moved - d.hold.length) d.hold last).onChan k fun d => { d with hold := [] }

/-- Read data that a channel has moved past leaves its buffer. -/
def DmaSt.drop (d : DmaSt) (x : Desc) : DmaSt :=
  { d with reads := d.reads.filter fun p => !(p.tag = d.tag && decide (p.base + p.payload.length ≤ d.srcOff x + d.moved)) }

/-- DMA_READ_DATA (R198): a beat of a channel's source passes through its buffer into the checksum and on toward the destination; after the last of them the checksum is written. -/
def execDmaReadData (ch : Chan) (s : State) : Ans :=
  let k := chanKey ch
  match (s.chan k).cur, s.nextData k with
  | some x, some b =>
    if s.chanRuns k && s.chanCredit k && s.chanTurn k then
      let off := (s.chan k).moved
      let fin := decide (x.len ≤ off + b.length)
      let s := s.noteMover k b.length
      let s := s.onChan k fun d => ({ d.check b with moved := off + b.length, hold := d.hold ++ b } : DmaSt).drop x
      let s := if fin ∨ (off + b.length) % 512 = 0 then s.flushHold k x (fin && decide (x.csum = 0)) else s
      let s := if fin ∧ x.csum ≠ 0 then s.chanWrite k x x.len (leBytes 8 ((s.chan k).csumValue x)) true else s
      .next (s.askMore k)
    else .next s
  | _, _ => .next s

/-- DMA_WRITE_ARRIVAL (R198): a write packet is applied at its target, rejected, or discarded at a closed reservoir slot, and acknowledged; the last one raises the target token (R152, R196, R201). -/
def execDmaWriteArrival (t : Target) (s : State) : Ans :=
  match t with
  | .core r c =>
    match s.takeCore r c (fun p => p.kind = 12) with
    | none => .next s
    | some (p, s) =>
      if dmaInSram p then
        let s := s.writeSram r c (gOffset p.gaddr) p.payload
        let s := if p.last then s.arriveTok r c p.ttok 1 else s
        .next (s.sendCore r c [chanReply s r c 0 p 15])
      else .next (s.rejectDma r p)
  | .store r =>
    match s.takeStore r (fun p => p.kind = 12 && !s.lineWaits r p) with
    | none => .next s
    | some (p, s) =>
      let bank := gIndex p.gaddr
      let off := gOffset p.gaddr
      let line := off / 2048
      if s.dmaInBank r p (fun a => a = .exchange) then
        if s.resClosed r bank line || (decide (2048 < off % 2048 + p.payload.length) && s.resClosed r bank (line + 1)) then .next ((s.resDiscard r bank line).sendStore r [{ chanReply s r 0 1 p 15 with nflag := 1 }])
        else
          let s := s.writeExchange r bank line (off % 2048) (p.payload.take (2048 - off % 2048))
          let s := if 2048 < off % 2048 + p.payload.length then s.writeExchange r bank (line + 1) 0 (p.payload.drop (2048 - off % 2048)) else s
          let s := match p.last, tokOf p.ttok with | true, some n => s.addSiCtr r n 1 | _, _ => s
          .next (s.sendStore r [chanReply s r 0 1 p 15])
      else .next (s.rejectDma r p)
  | .port _ _ => .next s

/-- A write acknowledgement of a channel; one that tells of a discarded write of the descriptor in hand sets status 0x03. -/
def DmaSt.ack (d : DmaSt) (p : Packet) : DmaSt :=
  if p.tag / 2 ^ 32 = d.epoch then
    let d := { d with acked := d.acked + 1 }
    match d.cur with
    | none => d
    | some x => if p.nflag = 1 ∧ p.tag = d.tag then { d.lose x p with status := if d.status = 0 then 3 else d.status } else d
  else d

/-- A region channel's acknowledged write counts its bytes, those of a checksum too; a discarded one wrote none (Table 9.9). -/
def State.countWritten (s : State) (k : Nat) (p : Packet) : State :=
  if isRegionChan k ∧ p.nflag = 0 then s.countL (k / 128) 0x2064 (8 * p.glen) else s

/-- DMA_WRITE_ACKNOWLEDGEMENT (R201): a write acknowledgement returns to its channel, from the slab or from the host. -/
def execDmaWriteAcknowledgement (ch : Chan) (s : State) : Ans :=
  let k := chanKey ch
  match (s.chan k).acks with
  | p :: t => .next ((s.onChan k fun d => { d with acks := t }.ack p).countWritten k p)
  | [] =>
    if (s.chan k).hostAcks = 0 ∨ s.brg.linkDown then .next s
    else .next (s.onChan k fun d => { d with hostAcks := d.hostAcks - 1, acked := d.acked + 1 })

/-! Completion and stops (R201 to R203). -/

/-- The running descriptor has ended under its channel's mode (R201). -/
def State.descEnded (s : State) (k : Nat) (x : Desc) : Bool :=
  let d := s.chan k
  (d.status ≠ 0 && d.status ≠ 3) ||
  (decide (x.len ≤ d.moved) &&
   if s.chanMode k && !x.bar then d.buf.all fun p => p.kind ≠ 12
   else decide (d.acked = d.sentPk))

/-- Bytes of the descriptor in hand that have been written: those moved, but for what still awaits a whole packet and what its target turned away (Table 9.8). -/
def DmaSt.done (d : DmaSt) : Nat := d.moved - d.hold.length - d.refused

/-- Completion entry of a channel's descriptor with index `i` (Table 9.8). -/
def DmaSt.entry (d : DmaSt) (k : Nat) (x : Desc) (status : Byte) (done : Nat) (i : U32) (emits : List Emit) (slot : Bool) : CqItem :=
  .dma x.tag status (BitVec.ofNat 10 (chanUnit k)) (BitVec.ofNat 64 (if status = 0 ∨ status = 3 then d.csumValue x else 0)) (BitVec.ofNat 32 done) i emits slot

/-- Words of a completion entry (Tables 9.8 and 15.4) with its phase bit; `RES2` of an event counts the occurrences it merges. -/
def dmaEntryBytes (tag : U32) (status : Byte) (chan : BitVec 10) (csum : U64) (done index : U32) (phase : Bool) : List Byte :=
  leBytes 4 tag.toNat ++ leBytes 4 (pack [(status.toNat, 8), (b2n phase, 1), (chan.toNat, 10)]) ++ leBytes 8 csum.toNat ++ leBytes 4 done.toNat ++
    leBytes 4 index.toNat ++ List.replicate 8 0

/-- Phase bit of entry i in a ring of 2^z (R192). -/
def phaseOf (i z : Nat) : Bool := decide (i / 2 ^ z % 2 = 0)

/-- Record the first stopped channel of a physical region (Table 9.9). -/
def RegionSt.dmaStopped (g : RegionSt) (n : Nat) (status : Byte) : RegionSt :=
  if g.dmaStop then g else { g with dmaStop := true, dmaChan := n, dmaCode := status.toNat }

/-- Number that stands for DMA channel n in a report of an illegal operation. -/
def chanPoint (n : Nat) : Nat := 0x70000 + n

/-- The channel is free for its next descriptor. -/
def DmaSt.endDesc (d : DmaSt) (stop : Bool) : DmaSt := { d with cur := none, completed := d.completed + 1, stop := stop, status := 0, took := [] }

/-- DESCRIPTOR_COMPLETE (R201, R202): a region channel writes its completion entry, sends the emits and frees the slot; a bridge channel's entry goes to its completion ring, its emits and slot following when it is written, and the channel stalls while that ring is full, which `FULLW` shows (R192). A status other than 0x00 and 0x03 stops the channel, which sends no emits (R203). -/
def execDescriptorComplete (ch : Chan) (s : State) : Ans :=
  let k := chanKey ch
  let d := s.chan k
  match d.cur with
  | none => .next s
  | some x =>
    if !s.chanRuns k || !s.descEnded k x then .next s
    else
      let bad : Bool := d.status ≠ 0 && d.status ≠ 3
      match ch with
      | .region r n =>
        match s.chanDecl k with
        | none => .next s
        | some c =>
          if d.ctrs.get 0 6 = 0 then .next s
          else
            let i := d.completed.toNat
            let b := match d.entry k x d.status d.done d.completed [] false with
              | .dma t st u cs dn ix _ _ => dmaEntryBytes t st u cs dn ix (phaseOf i c.y)
              | _ => []
            let s := s.writeSram r c.core (c.cring * 64 + i % 2 ^ c.y * 32) b
            let s := s.onChan k fun d => { d.endDesc bad with ctrs := d.ctrs.upd 0 6 (· - 1) }
            if bad then
              let s := match s.phys r with | none => s | some p => s.onReg p fun g => g.dmaStopped n d.status
              .next (s.illegal r c.core (chanPoint n))
            else .next (s.sendEmits x.emits)
      | .bridge c =>
        if (s.hq (c.val + 256)).full then .next s
        else
          let s := s.onHq (c.val + 256) fun q => { q with items := q.items ++ [d.entry k x d.status d.done d.completed (if bad then [] else x.emits) true] }
          .next (s.onChan k fun d => d.endDesc bad)

/-- A DMA completion that still holds its descriptor slot, and one that holds none. -/
def CqItem.holdsSlot (x : CqItem) : Bool := match x with | .dma _ _ _ _ _ _ _ sl => sl | _ => false
def CqItem.freed (x : CqItem) : CqItem := match x with | .dma t st u cs dn ix es _ => .dma t st u cs dn ix es false | x => x

/-- Abort a bridge channel (R203): what is begun or fetched is abandoned with status 0x06, and the channel is idle at the ring's consumer index. -/
def State.abortChan (s : State) (c : Nat) : State :=
  let k := bridgeBase + c
  let d := s.chan k
  let gone := (match d.cur with | none => [] | some x => [(x, d.done)]) ++ d.queue.map fun x => (x, 0)
  let items := (gone.zip (List.range gone.length)).map fun x => d.entry k x.1.1 6 x.1.2 (d.completed + BitVec.ofNat 32 x.2) [] false
  let n := BitVec.ofNat 32 gone.length
  let held := BitVec.ofNat 32 ((s.hq (c + 256)).items.filter CqItem.holdsSlot).length
  let s := s.onHq (c + 256) fun q => { q with items := q.items.map CqItem.freed ++ items }
  let s := s.onHq c fun q => { q with dev := q.dev + held + n }
  s.onChan k fun d => { fetched := d.completed + n, completed := d.completed + n, epoch := d.epoch + 1 }

/-- Resume a stopped bridge channel: it fetches from its next descriptor, but those that a partial reset has lost are still to end (R203, R329). -/
def State.resumeChan (s : State) (c : Nat) : State :=
  let k := bridgeBase + c
  if !(s.chan k).stop then s
  else s.onChan k fun d => if d.queue.any (·.lost) then { d with stop := false } else { d with stop := false, queue := [], fetched := d.completed }

/-- BRIDGE_DMA_RESUME (R203). -/
def execBridgeDmaResume (c : Fin 256) (s : State) : Ans := s.overLink (.bridgeDmaResume c) fun s => .next (s.resumeChan c)

/-- BRIDGE_DMA_ABORT (R203). -/
def execBridgeDmaAbort (c : Fin 256) (s : State) : Ans := s.overLink (.bridgeDmaAbort c) fun s => .next (if (s.hq c).en then s.abortChan c else s)

/-- HOST_COMPLETION_TIMEOUT (R334): a host read or write of a bridge channel, or of a command in hand, was not completed: the descriptor ends with status 0x04 or 0x05, the command with 0x06, at once where it heads the lane and is in execution, else as it makes its request. -/
def execHostCompletionTimeout (w : HostWait) (s : State) : Ans :=
  match w with
  | .chan c true =>
    let k := bridgeBase + c.val
    if (s.chan k).hostAcks = 0 then .next s
    else .next ((s.onChan k fun d => { d with acked := d.acked + d.hostAcks, hostAcks := 0 }).endChan k 5)
  | .chan c false =>
    let k := bridgeBase + c.val
    match (s.chan k).cur with
    | none => .next s
    | some x => if x.srcHost ∧ (s.chan k).moved < x.len then .next (s.endChan k 4) else .next s
  | .command h =>
    let later := s.onRun fun r => { r with hostFails := r.hostFails ++ [h] }
    match s.run.laneQ with
    | x :: rest => if x.h = h ∧ !s.laneBlocked ∧ x.asksHost then .next ((s.onRun fun r => { r with laneQ := rest }).done0 h 6) else .next later
    | [] => .next later

end Sys2Proof.Machine
end

