-- ==== Sys2Proof/Machine/Transport.lean ====
section
/-! DEFINITION. The Hezin transport: streams, epoch tags, acknowledgements, forwarding, the inbound log, and the loss of an engine (R219, R220, R238 to R244, R268, R285). -/

namespace Sys2Proof.Machine

/-! Engines on the slab (R17, R114). -/

/-- The three regions that an engine serves (R17). -/
def engineRegions (e : Nat) : List Nat := (List.range 3).map fun k => 24 * (e / 8) + e % 8 + 8 * k

/-- Row distance plus column distance of two regions (R118). -/
def regionDist (a b : Nat) : Nat := (a / 8 - b / 8) + (b / 8 - a / 8) + (a % 8 - b % 8) + (b % 8 - a % 8)

/-- The nearer of two regions to a third; the lower number on a tie. -/
def nearer (p a b : Nat) : Nat := if regionDist b p < regionDist a p then b else a

/-- Router row and column of a router number: region x 28 + cluster (R113). -/
def routerRow (n : Nat) : Nat := n / 28 / 8 * 7 + n % 28 / 4
def routerCol (n : Nat) : Nat := n / 28 % 8 * 4 + n % 28 % 4

/-- Row distance plus column distance of two routers (R118, R238; log entry 36). -/
def routerDist (a b : Nat) : Nat :=
  (routerRow a - routerRow b) + (routerRow b - routerRow a) + (routerCol a - routerCol b) + (routerCol b - routerCol a)

/-- The nearer of two routers to a third; the lower number on a tie (R238). -/
def nearerRouter (n a b : Nat) : Nat := if routerDist b n < routerDist a n ∨ (routerDist b n = routerDist a n ∧ b < a) then b else a

/-- The clusters of a region with a link port: columns 1 and 2 of rows 1, 2, 4 and 5 (R114). -/
def linkClusters : List Nat := [5, 6, 9, 10, 17, 18, 21, 22]

/-- An engine's link-port routers outside some dark regions: 8 in each (R114). -/
def linkPorts (dark : Nat → Bool) (e : Nat) : List Nat := ((engineRegions e).filter fun r => !dark r).flatMap fun r => linkClusters.map (r * 28 + ·)

/-- The nearest of some routers to router n. -/
def nearestTo (n : Nat) : List Nat → Option Nat
  | [] => none
  | a :: t => some (t.foldl (nearerRouter n) a)

/-- The engine's link-port router nearest to router n, in a powered region (R17, R114, R238). -/
def State.linkRouter (s : State) (e n : Nat) : Option Nat := nearestTo n (linkPorts (fun r => !(s.reg r).powered) e)

/-- The powered region of an engine nearest to region p (R114). -/
def State.linkRegion (s : State) (e p : Nat) : Option Nat :=
  match (engineRegions e).filter fun r => (s.reg r).powered with
  | [] => none
  | r :: t => some (t.foldl (nearer p) r)

/-! The inbound log (R285). -/

/-- The lines the link course declares for a partner's log, in bytes; none where it declares none. -/
def State.logBytes (s : State) (m : Nat) : Option Nat :=
  match s.linkCourse.inlogs.filter fun x => x.1 = m with
  | [] => none
  | l => some (l.foldl (fun n x => n + 2048 * (listLines (s.course x.2.1) x.2.2).length) 0)

/-- Bytes an entry takes: a header and payload for a packet, an identity for one sent (log entry 66). -/
def LogItem.size (x : LogItem) : Nat := if x.sent then 16 else 32 + x.p.payload.length

/-- Bytes a partner's log holds. -/
def State.logUsed (s : State) (m : Nat) : Nat := (s.flt.inlog.filter fun x => x.m = m).foldl (fun n x => n + x.size) 0

/-- The lines that hold bytes `a` up to `a + n` of a partner's log: region, bank, line (R285, Table 12.14 kind 0x38). -/
def State.logLines (s : State) (m a n : Nat) : List (Nat × Nat × Nat) :=
  let l := (s.linkCourse.inlogs.filter fun x => x.1 = m).flatMap fun x => (listLines (s.course x.2.1) x.2.2).map fun y => (x.2.1, y)
  (l.drop (a / 2048)).take ((a + n - 1) / 2048 + 1 - a / 2048)

/-- The store interfaces write what a log takes into its exchange lines, with their deltas; its layout there is open (R144, R285; log entry 66). -/
def State.writeLog (s : State) (m a n : Nat) : State :=
  (s.logLines m a n).foldl (fun s x => let (d, s) := s.foreignLine; s.writeLinePart x.1 x.2.1 x.2.2 0 d) s

/-- Log an item; a log that fills is recorded once (R286). -/
def State.logItem (s : State) (x : LogItem) : State :=
  match s.logBytes x.m with
  | none => s
  | some n =>
    if s.logUsed x.m + x.size ≤ n then (s.writeLog x.m (s.logUsed x.m) x.size).onFlt fun f => { f with inlog := f.inlog ++ [x] }
    else if s.flt.logFull then s
    else (s.onFlt fun f => { f with logOvf := true, logFull := true }).logHealth { cls := 0x51, detail := x.m }

/-- The replay has not yet passed the end of a partner's log. -/
def State.replayingLog (s : State) (m : Nat) : Bool := s.flt.relog.any fun x => x.m = m

/-- A packet is a gradient contribution to a press of this module (R163). -/
def State.isContribution (s : State) (p : Packet) : Bool :=
  p.kind = 2 && gSpace p.gaddr && s.inService (gRegion p.gaddr) && decide (s.storeClass (gRegion p.gaddr) false p = .contribution)

/-! Into the slab. -/

/-- A packet enters the slab at an engine's link port. -/
def State.enterSlab (s : State) (e : Nat) (p : Packet) : State := s.onEng e fun x => { x with toSlab := x.toSlab ++ [p] }

/-- A response to an operation that a replay suppressed answers the operation that took its place (R285). -/
def State.aliased (s : State) (p : Packet) : Packet :=
  if 8 ≤ p.kind ∧ p.kind ≤ 10 then
    match s.flt.aliases.find? fun x => x.1 = p.tag with
    | none => p
    | some x => { p with tag := x.2 }
  else p

/-- The bits that the transport borrowed are zeroed, and the module number becomes the own one (R239, R407). -/
def State.strip (s : State) (p : Packet) : Packet :=
  { p with hops := 0, hkind := 0, cetag := 0, tseq := 0
           gaddr := mkGaddr s.ownMod (gRegion p.gaddr) (gSpace p.gaddr) (gIndex p.gaddr) (gOffset p.gaddr) }

/-- Kinds that ask something of the region addressed: operations, DMA reads and writes (Table 6.4, R92). -/
def isRequest (p : Packet) : Bool := p.kind ≤ 5 || p.kind = 12 || p.kind = 13

/-- A reduce under a newer layout epoch than this module's, epochs counting modulo 2³² (R214, R219). -/
def State.layoutNewer (s : State) (p : Packet) : Bool := p.vc = 2 && decide (p.layout ≠ s.cfg.layout) && decide ((p.layout - s.cfg.layout).toNat < 2 ^ 31)

/-- A reduce of this module's to core SRAM, an exchange line or a parity line, applied whatever its layout epoch (R221). -/
def State.layoutFree (s : State) (p : Packet) : Bool :=
  !gSpace p.gaddr || (let a := areaOf (s.course (gRegion p.gaddr)) (gIndex p.gaddr) (gOffset p.gaddr / 2048); a = .exchange || a = .innerParity || a = .outerParity)

/-- A packet discarded by its layout epoch (R219, R220). -/
def State.layoutStale (s : State) (p : Packet) : State :=
  (s.onCfg fun c => { c with stale := sat32 c.stale 1 }).logHealth
    { cls := 0x7B, lregion := 63, unit := unitOf p, sub := p.smod, detail := p.layout.toNat }

/-- An accepted packet passes to the slab: rejected where its region has no course, an operation once, at its first packet (R92), discarded if its layout is newer (R219), else logged, and released at once unless the replay is still behind it in the log (R285). -/
def State.passIn (s : State) (e : Nat) (p : Packet) : State :=
  if s.layoutNewer p && !s.layoutFree p then s.layoutStale p
  else
    let q := s.strip p
    if isRequest q && !s.inService (gRegion q.gaddr) then
      (if gOffset q.gaddr = q.base ∨ 5 < q.kind then s.rejectOp ((s.linkRegion e (gRegion q.gaddr)).getD 63) q else s)
    else
      let x : LogItem := { m := p.smod, sent := false, e := e, p := q }
      let behind := s.replayingLog p.smod
      let s := s.logItem x
      if behind then s.onFlt fun f => { f with relog := f.relog ++ [x] } else s.enterSlab e (s.aliased q)

/-! Streams (R240 to R242). -/

/-- Key of a receive stream: source module, source engine, partner slot there and class (R240; log entry 142). -/
def rxKey (m eng slot vc : Nat) : Nat := ((m * 16 + eng) * 256 + slot) * 4 + vc

/-- The receive stream of a packet. -/
def rxKeyOf (p : Packet) : Nat := rxKey p.smod p.seng p.sslot p.vc

/-- The engine that holds a receive stream: the one it began on, whichever its packets come by now, so that none is taken twice (R240, R242; log entry 142). -/
def State.rxHome (s : State) (e k : Nat) : Nat :=
  if (s.engine e).rx.any fun x => x.1 = k then e else (s.eng.find? fun x => x.2.ok && x.2.rx.any fun y => y.1 = k).elim e (·.1)

/-- The slot under which an engine receives from a module: the one that names it, or the loopback alias for this module's own packets (R238, R407; log entry 65). -/
def State.rxSlot (s : State) (e m : Nat) : Option Nat :=
  match s.slotNaming e m with
  | some k => some k
  | none => if m = s.ownMod then s.slotNaming e s.linkCourse.loopMod else none

/-- How far a sequence number lies past the lowest not yet received. -/
def RxStream.ahead (x : RxStream) (t : U32) : Nat := (t - x.cum).toNat

/-- Window of sequence numbers that a receiver records. -/
def rxWindow : Nat := 4096

/-- Already received: below `CUM`, or recorded above it. -/
def RxStream.has (x : RxStream) (t : U32) : Bool := decide (2 ^ 31 ≤ x.ahead t) || x.got.contains t.toNat

/-- Beyond the window. -/
def RxStream.beyond (x : RxStream) (t : U32) : Bool := decide (rxWindow ≤ x.ahead t)

/-- Move `CUM` past what has been received. -/
def RxStream.advance (x : RxStream) : Nat → RxStream
  | 0 => x
  | n + 1 => if x.got.contains x.cum.toNat then { x with cum := x.cum + 1, got := x.got.filter (· ≠ x.cum.toNat) }.advance n else x

/-- Record a sequence number as received. -/
def RxStream.note (x : RxStream) (t : U32) : RxStream := { x with got := x.got ++ [t.toNat] }.advance (x.got.length + 1)

/-- The acknowledgement of a packet's stream as it stands (Table 11.6). -/
def RxStream.ackOf (x : RxStream) (own : Nat) (p : Packet) : TAck where
  dmod := BitVec.ofNat 16 p.smod
  amod := BitVec.ofNat 16 own
  vc := Fin.ofNat 4 p.vc
  slot := Fin.ofNat 256 p.sslot
  eng := Fin.ofNat 16 p.seng
  cum := x.cum
  sel := BitVec.ofNat 128 (x.got.foldl (fun n t => let i := (BitVec.ofNat 32 t - x.cum).toNat; if 1 ≤ i ∧ i ≤ 128 then n + 2 ^ (i - 1) else n) 0)

def State.rxOf (s : State) (e k : Nat) : RxStream := (s.engine e).rx.get {} k
def State.onRx (s : State) (e k : Nat) (f : RxStream → RxStream) : State := s.onEng e fun x => { x with rx := x.rx.upd {} k f }

/-- Acknowledge a packet's stream, on the response class (R242). -/
def State.sendAck (s : State) (e : Nat) (p : Packet) : State := s.putAck e ((s.rxOf e (rxKeyOf p)).ackOf s.ownMod p)

/-- Request and bulk are ordered (R241). -/
def ordered (vc : Nat) : Bool := vc = 0 || vc = 3

/-- Pass to the slab every waiting packet of an ordered stream that no gap precedes, in order. -/
def State.drainRx (s : State) (e k : Nat) : Nat → State
  | 0 => s
  | n + 1 =>
    let x := s.rxOf e k
    let ready := x.waiting.filter fun p => decide (2 ^ 31 ≤ x.ahead p.tseq)
    match ready.find? fun p => ready.all fun q => decide ((q.tseq - p.tseq).toNat < 2 ^ 31) with
    | none => s
    | some p => (((s.onRx e k fun x => { x with waiting := x.waiting.erase p }).passIn e p)).drainRx e k n

/-- A packet of the own epoch meets its stream (R240, R241). -/
def State.streamPacket (s : State) (e : Nat) (p : Packet) : State :=
  let k := rxKeyOf p
  let x := s.rxOf e k
  if x.has p.tseq then (s.onEng e fun y => { y with tdup := sat32 y.tdup 1 }).sendAck e p
  else if x.beyond p.tseq then s
  else
    let s := s.onRx e k fun x => x.note p.tseq
    let s := if ordered p.vc then (s.onRx e k fun x => { x with waiting := x.waiting ++ [p] }).drainRx e k (x.waiting.length + 1) else s.passIn e p
    s.sendAck e p

/-- Count a packet discarded by its epoch tag (R268). -/
def State.countXep (s : State) : State := s.onCfg fun c => { c with xep := sat32 c.xep 1 }

/-- A packet of an older epoch is discarded and acknowledged: its number counts as received where the window holds it (R268). -/
def State.olderPacket (s : State) (e : Nat) (p : Packet) : State :=
  let k := rxKeyOf p
  let x := s.rxOf e k
  let s := s.countXep
  if x.has p.tseq ∨ x.beyond p.tseq then s.sendAck e p
  else ((s.onRx e k fun x => x.note p.tseq).drainRx e k (x.waiting.length + 1)).sendAck e p

/-- The module is armed for an epoch with this tag (R268). -/
def State.armedTag (s : State) (tag : Nat) : Bool := decide (s.stg.st = .armed) && decide (s.stg.e.toNat % 256 = tag)

/-- A packet for this module: of a closed stream it is not delivered; another is judged by its epoch tag, then by its stream (R240, R244, R268). -/
def State.ownPacket (s : State) (e : Nat) (p : Packet) : State :=
  if s.flt.closed.contains (p.smod, p.seng) then s
  else if (s.rxSlot e p.smod).isNone then s.logHealth { cls := 0x78, sub := p.smod, detail := 0x100 }
  else
    let h := s.rxHome e (rxKeyOf p)
    let d := (p.cetag + 256 - s.cfg.epoch.toNat % 256) % 256
    if d = 0 then s.streamPacket h p
    else if d < 128 then
      if s.armedTag p.cetag then s.onRx h (rxKeyOf p) fun x => { x with held := x.held ++ [p] } else s.countXep
    else s.olderPacket h p

/-! Forwarding (R220, R243). -/

/-- Retained route tables: those of the layout epoch before the current one (R214, R220). -/
def State.retained (s : State) (l : U32) : Bool := l + 1 = s.cfg.layout && s.routes.any fun x => x.epoch = l.toNat

/-- Armed route tables: those of the layout epoch that an armed re-shard starts (R214, R220). -/
def State.armedLayout (s : State) (l : U32) : Bool := s.stg.st = .armed && s.stg.reshard && decide (l = s.cfg.layout + 1)

/-- A packet for another module is routed again by the tables of its layout, one hop further (R243). -/
def State.forwardPacket (s : State) (e : Nat) (p : Packet) : State :=
  if maxHops < p.hops + 1 then s.logHealth { cls := 0x78, sub := p.smod, detail := p.hops + 1 }
  else
    let q := { p with hops := p.hops + 1 }
    if (s.routeEntry (s.packetLayout p) (gMod p.gaddr)).isNone ∧ (p.vc ≠ 2 ∨ p.layout = s.cfg.layout) then s.logHealth { cls := 0x78, sub := p.smod, detail := 0x200 }
    else if p.vc ≠ 2 ∨ p.layout = s.cfg.layout ∨ s.armedLayout p.layout then s.enterSlab e q
    else if s.retained p.layout then (s.onCfg fun c => { c with fwd := sat32 c.fwd 1 }).enterSlab e q
    else s.layoutStale p

/-- Kinds that Table 6.4 defines. -/
def kindDefined (k : Nat) : Bool := k ≤ 5 || (8 ≤ k && k ≤ 10) || (12 ≤ k && k ≤ 15)

/-- A packet has arrived for this module: its number, or the loopback alias (R407). -/
def State.isHere (s : State) (p : Packet) : Bool := gMod p.gaddr = s.ownMod || (s.linkCourse.loopMod ≠ 0xFFFF && gMod p.gaddr = s.linkCourse.loopMod)

/-- TRANSPORT_PACKET_ACCEPT (R240): a packet out of a whole frame frees its link's buffer; it is discarded if its header is not one of Hezin's (R239), forwarded, or taken. -/
def execTransportPacketAccept (e : Engine) (p : Packet) (s : State) : Ans :=
  match (s.engine e).arrived.find? fun x => x.2 = p with
  | none => .next s
  | some x =>
    let s := (s.onEng e fun y => { y with arrived := y.arrived.erase x }).freeBuf e x.1 p.vc
    if p.hkind ≠ 0 ∨ maxHops < p.hops ∨ !kindDefined p.kind then .next (s.logHealth { cls := 0x78, sub := p.smod, detail := p.hkind * 16 + p.kind })
    else if s.isHere p then .next (s.ownPacket e p)
    else .next (s.forwardPacket e p)

/-- Packets held for the epoch just begun are judged again (R268). -/
def State.releaseHeld (s : State) : State :=
  (List.range 16).foldl (fun s e =>
    let ps := (s.engine e).rx.flatMap fun x => x.2.held
    s.onEng e fun x => { x with rx := mapTab {} (fun y => { y with held := [] }) x.rx, arrived := ps.map (8, ·) ++ x.arrived }) s

/-! Acknowledgements and retransmission (R242). -/

/-- TRANSPORT_ACKNOWLEDGEMENT (R242): the source keeps no packet that the destination has; one for another module goes on (R243). -/
def execTransportAcknowledgement (e : Engine) (a : TAck) (s : State) : Ans :=
  if (s.engine e).ok then .next (s.takeAck e a) else .next s

/-- Send one packet of a stream again, by its stream's next hop as it now is (R242). -/
def State.retransmit (s : State) (e : Nat) (p : Packet) : State :=
  match s.nextHop (s.packetLayout p) (gMod p.gaddr) p.slregion p.sunit with
  | none => s
  | some (e2, j) => if s.linkTakes e2 j p.vc then (s.onEng e fun x => { x with tretx := sat32 x.tretx 1 }).sendFrame e2 j p else s

/-- TRANSPORT_RETRANSMISSION (R242): a packet not acknowledged within `RTO` of its last sending is sent again. -/
def execTransportRetransmission (e : Engine) (slot : Fin 256) (x : TxRef) (s : State) : Ans :=
  if (s.engine e).ok then
    match ((s.engine e).tx.get {} (txKey slot x.cls)).unacked.find? fun p => p.tseq = x.tseq with
    | none => .next s
    | some p => .next (s.retransmit e p)
  else .next s

/-! Loss of an engine (R244). -/

/-- Keep the entries of a table whose key a test passes. -/
def keepKeys {α : Type} (f : Nat → Bool) (t : Tab α) : Tab α := t.filter fun x => f x.1

/-- A receive stream comes from engine e of module m. -/
def rxFrom (m e k : Nat) : Bool := k / 4 / 256 = m * 16 + e

/-- A partner has lost an engine (R244): the receive state of the streams it sent is discarded and none of their packets is delivered any more, by whatever link it comes; the streams whose other end it held begin anew (log entry 147). -/
def State.partnerEngineLost (s : State) (m e : Nat) : State :=
  { s.onFlt (fun f => { f with closed := if f.closed.contains (m, e) then f.closed else f.closed ++ [(m, e)] }) with
    eng := s.eng.map fun x => (x.1, { x.2 with
      rx := keepKeys (fun k => !rxFrom m e k) x.2.rx
      arrived := x.2.arrived.filter fun p => !(p.2.smod = m && p.2.seng = e)
      tx := x.2.tx.filter fun k => decide (k.2.holder ≠ some (m, e)) }) }

/-- ENGINE_LOSS (R244): lanes and links go dark, its streams are closed, and the loss is reported; of a partner's engine, the streams it held are closed here. -/
def execEngineLoss (x : LostEngine) (s : State) : Ans :=
  let e := x.engine
  match x.partner with
  | some m => .next (s.partnerEngineLost m.toNat e)
  | none =>
    if (s.engine e).ok then
      let s := s.onEng e fun x => { x with
        ok := false, lost := true, tx := [], rx := [], acks := [], arrived := [], toSlab := []
        lanes := mapTab {} (fun l => if l.st = .retired then l else {}) x.lanes
        links := mapTab {} (fun k => { aligns := k.aligns }) x.links }
      .next (s.report { kind := .engine e })
    else .next s

end Sys2Proof.Machine
end

