-- ==== Sys2Proof/Machine/Network.lean ====
section
/-! DEFINITION. The bounded plane: routers, routes, arbitration, credits, combining and the link and host ports (R113 to R128, R238, R285). -/

namespace Sys2Proof.Machine

/-! Routers (R113). -/

/-- The router at a row and column. -/
def routerAt (row col : Nat) : Nat := (row / 7 * 8 + col / 4) * 28 + (row % 7 * 4 + col % 4)

/-- Ports: mesh 0 to 3, local, store, link or host (Table 6.8). -/
def localPort : Nat := 4
def storePort : Nat := 5
def linkPort : Nat := 6

/-- The neighbouring router on a mesh port; none at the edge of the tier. -/
def meshNext (n port : Nat) : Option Nat :=
  let r := routerRow n
  let c := routerCol n
  match port with
  | 0 => if r = 0 then none else some (routerAt (r - 1) c)
  | 1 => if c = 31 then none else some (routerAt r (c + 1))
  | 2 => if r = 41 then none else some (routerAt (r + 1) c)
  | 3 => if c = 0 then none else some (routerAt r (c - 1))
  | _ => none

/-- Physical region 40, whose west-edge routers the host bridge enters by (R8). -/
def hostRegion : Nat := 40

/-- The region that host traffic counts as its own: region 32 while region 40 is dark (R119). -/
def State.hostEntry (s : State) : Nat := if (s.reg hostRegion).powered then hostRegion else 32

/-- A router runs: its region's clock does, or it is one of the seven host routers of a dark region 40 (R8, R119). -/
def State.routerRuns (s : State) (n : Nat) : Bool :=
  let g := s.reg (n / 28)
  if g.powered then g.clockOn && g.lock && s.beatsLeft (n / 28) else decide (n / 28 = hostRegion) && decide (n % 4 = 0)

/-! Route tables (R118). -/

/-- Regions of the row of a between the columns of a and b, and of the column of b between the rows of a and b. -/
def legRegions (a b : Nat) : List Nat :=
  let lo (x y : Nat) := min x y
  let hi (x y : Nat) := max x y
  ((List.range (hi (a % 8) (b % 8) - lo (a % 8) (b % 8) + 1)).map fun i => a / 8 * 8 + lo (a % 8) (b % 8) + i) ++
  ((List.range (hi (a / 8) (b / 8) - lo (a / 8) (b / 8) + 1)).map fun i => (lo (a / 8) (b / 8) + i) * 8 + b % 8)

/-- A leg crosses powered regions alone. -/
def legClear (dark : List Nat) (a b : Nat) : Bool := (legRegions a b).all fun x => !dark.contains x

/-- The intermediate region of two regions that are not clear: the powered one of least distance, the lowest on a tie (R118). -/
def findInter (dark : List Nat) (a b : Nat) : Option Nat :=
  ((List.range 48).filter fun i => !dark.contains i && legClear dark a i && legClear dark i b).foldl
    (fun (m : Option Nat) i =>
      match m with
      | none => some i
      | some j => if regionDist a i + regionDist i b < regionDist a j + regionDist j b then some i else m) none

/-- Regions without power. -/
def State.darkRegions (s : State) : List Nat := (List.range 48).filter fun p => !(s.reg p).powered

/-- The region pairs that have packets to route, both powered. -/
def powerPairs (dark : List Nat) : List (Nat × Nat) :=
  let on := (List.range 48).filter fun p => !dark.contains p
  on.flatMap fun a => (on.filter fun b => decide (a ≠ b)).map fun b => (a, b)

/-- Region pairs without a route under a set of dark regions; the host's entry among them when its path is dark (R118, R119). -/
def unroutablePairs (dark : List Nat) : List (Nat × Nat) :=
  ((powerPairs dark).filter fun x => !legClear dark x.1 x.2 && (findInter dark x.1 x.2).isNone) ++
  (if dark.contains hostRegion && dark.contains 32 then [(32, hostRegion)] else [])

/-- Regions that routes avoid: the dark ones, but for a promoted standby whose power is coming (R288; log entry 113). -/
def State.routeDark (s : State) : List Nat := s.darkRegions.filter fun p => !(s.flt.promos.any fun x => x.standby = p && !x.on)

/-- ROUTE_TABLE_RECOMPUTE (R118): the intermediate region of every pair, and the pairs that have none. -/
def State.recomputeRoutes (s : State) : State :=
  let dark := s.routeDark
  s.onNet fun n => { n with
    gen := n.gen + 1
    ndark := dark.length
    unroutable := unroutablePairs dark
    inter := (powerPairs dark).foldl (fun (t : Tab (Option Nat)) x => if legClear dark x.1 x.2 then t else t.set none (x.1 * 64 + x.2) (findInter dark x.1 x.2)) [] }

/-! Where a packet goes. -/

/-- Where a packet leaves the plane: a router and an output port. -/
structure Dest where
  router : Nat
  port : Nat
  deriving DecidableEq, Repr

/-- Cluster by which a unit's packets reach the plane: a core's, a store segment's, a DMA engine's (R113, R193). -/
def entryCluster (p : Packet) : Nat := if p.skind = 0 then clusterOf p.sunit else if p.skind = 1 then p.org else 3 * (p.sunit / 16) + 1

/-- Router where a packet entered the plane: its unit's, the bridge's (R8, R119), or, for one that only passes through the module, the link port it came by. -/
def State.entryRouter (s : State) (p : Packet) : Nat :=
  if p.smod = s.ownMod then
    (if p.skind = 2 ∧ 512 ≤ p.sunit then
      (if (s.reg hostRegion).powered then hostRegion * 28 + (p.sunit - 512) % 7 * 4 else s.hostEntry * 28 + 24)
     else (s.phys p.slregion).getD hostRegion * 28 + entryCluster p)
  else p.org

/-- The packet leaves for another module, or by the loopback alias (R238, R407). -/
def State.leavesModule (s : State) (p : Packet) : Bool := !s.isOwn (gMod p.gaddr)

/-- Link port of a packet for another module: the next hop's engine, at its router nearest to the one where the packet entered (R114, R238; log entry 36). -/
def State.linkDest (s : State) (p : Packet) : Option Dest :=
  match s.nextHop (s.packetLayout p) (gMod p.gaddr) p.slregion p.sunit with
  | none => none
  | some (e, _) => (s.linkRouter e (s.entryRouter p)).map fun n => ⟨n, linkPort⟩

/-- Destination of a packet (R113, R114, R198); an answer to bridge channel c leaves at cluster row (512 + c) mod 7 of region 40's west edge (log entry 156). -/
def State.destOf (s : State) (p : Packet) : Option Dest :=
  if s.leavesModule p then s.linkDest p
  else if (p.kind = 14 ∨ p.kind = 15) ∧ 512 ≤ gIndex p.gaddr then some ⟨hostRegion * 28 + gIndex p.gaddr % 7 * 4, linkPort⟩
  else
    match s.phys (gRegion p.gaddr) with
    | none => none
    | some r =>
      if p.kind = 14 ∨ p.kind = 15 then some ⟨r * 28 + 3 * (gIndex p.gaddr / 16) + 1, storePort⟩
      else some ⟨r * 28 + clusterOf (gIndex p.gaddr), if gSpace p.gaddr then storePort else localPort⟩

/-- The region that the route tables know a destination by (R119). -/
def State.tableRegion (s : State) (d : Dest) : Nat := if d.router / 28 = hostRegion then s.hostEntry else d.router / 28

/-- The leg a packet is on as it leaves a router: the second from its intermediate point on (R118). -/
def legAt (n : Nat) (d : Dest) (p : Packet) : Bool :=
  p.leg || (match p.iregion with | none => true | some i => decide (n = i * 28 + d.router % 28))

/-- The router that a leg heads for. -/
def legTarget (leg : Bool) (d : Dest) (p : Packet) : Nat :=
  if leg then d.router else match p.iregion with | none => d.router | some i => i * 28 + d.router % 28

/-- First along the router row, then along the column (R118). -/
def meshTo (n t : Nat) : Nat :=
  if routerCol n < routerCol t then 1 else if routerCol t < routerCol n then 3 else if routerRow n < routerRow t then 2 else 0

/-- Output port of a packet at a router; host traffic in a dark region 40 goes north (R119). -/
def State.outputOf (s : State) (n : Nat) (p : Packet) : Option Nat :=
  match s.destOf p with
  | none => none
  | some d =>
    if n = d.router then some d.port
    else if n / 28 = hostRegion ∧ !(s.reg hostRegion).powered ∧ d.router / 28 ≠ hostRegion then some 0
    else some (meshTo n (legTarget (legAt n d p) d p))

/-! Buffers (R121). -/

/-- Flits of a packet (R115); a compare-and-swap is header-only, and its two operand words, which the model keeps in `payload`, take none (R116; log entry 123). -/
def flits (p : Packet) : Nat := if p.kind = 5 then 1 else 1 + ceilDiv p.payload.length 32

/-- Input buffer of a router. -/
def bufKey (port vc : Nat) (prio leg : Bool) : Nat := ((port * 4 + vc) * 2 + b2n prio) * 2 + b2n leg

def State.router (s : State) (n : Nat) : RouterSt := s.net.routers.get {} n
def State.onRouter (s : State) (n : Nat) (f : RouterSt → RouterSt) : State := s.onNet fun x => { x with routers := x.routers.upd {} n f }

/-- A buffer of 32 flits has room for a whole packet. -/
def RouterSt.room (x : RouterSt) (key : Nat) (p : Packet) : Bool :=
  decide ((x.q.filter fun y => y.1 = key).foldl (fun n y => n + flits y.2) 0 + flits p ≤ 32)

/-! Combining (R125, R126). -/

/-- An output keeps a packet that it has sent and must send again (R124). -/
def RouterSt.kept (x : RouterSt) (p : Packet) : Bool := x.resend.any fun y => match y.2 with | none => false | some z => decide (z.2 = p)

/-- Two reduce packets agree in all that combining asks for; parity deltas never combine, nor do packets of an operation that its target will reject, so that it is rejected as a whole (R92, R125, R144; log entry 117). -/
def combines (p q : Packet) : Bool :=
  !isDelta p && !isDelta q && rangeOk p && rangeOk q && p.kind = q.kind && p.gaddr = q.gaddr && p.payload.length = q.payload.length && p.ttok = q.ttok && p.layout = q.layout && p.prio = q.prio && p.leg = q.leg &&
  decide (p.count + q.count ≤ 65535)

/-- The merged packet: p's place and source, the sum of the counts, merged elements and flags, and the operations of both (R126). -/
def merge (p q : Packet) : Packet :=
  let (b, f) := reduceBytes p.kind p.payload q.payload
  { p with parts := p.parts ++ (opKey q, opPackets q) :: q.parts, count := p.count + q.count, payload := b, nflag := p.nflag ||| q.nflag ||| (if p.kind = 2 then f.code else if p.kind = 3 then b2n f.nfo * 4 else 0) }

/-- Kinds that combine. -/
def isReduce (p : Packet) : Bool := decide (2 ≤ p.kind) && decide (p.kind ≤ 4)

/-- The waiting packet that a reduce joins at an output: the first that agrees among the last 8 reduces of its priority that have not started (R125). -/
def State.joins (s : State) (n out : Nat) (q : Packet) : Option Packet :=
  let l := ((s.router n).q.map (·.2)).filter fun p => isReduce p && p.prio = q.prio && decide (s.outputOf n p = some out) && !(s.router n).kept p
  (l.drop (l.length - 8)).find? fun p => combines p q

/-- Combining is on in the region's routers. -/
def State.combining (s : State) (n : Nat) : Bool := bitAt (s.setting (rgnBase (n / 28) + 0x2040)).toNat 10

/-- A packet reaches a router: it waits in its buffer, or merges into one already waiting. -/
def State.reach (s : State) (n key : Nat) (p : Packet) : State :=
  let wait := s.onRouter n fun x => { x with q := x.q ++ [(key, p)] }
  match s.outputOf n p with
  | none => wait
  | some out =>
    if isReduce p && s.combining n then
      match s.joins n out p with
      | none => wait
      | some w => (s.onRouter n fun x => { x with q := x.q.map fun y => if y.2 = w then (y.1, merge w p) else y }).count (n / 28) 0x2050 1
    else wait

/-! Onto the plane. -/

/-- The first router of a packet sets its intermediate region; one for an unroutable pair is discarded, and the pair logged once (R118). -/
def State.letIn (s : State) (n port : Nat) (p : Packet) : State :=
  match s.destOf p with
  | none => s
  | some d =>
    let a := if n / 28 = hostRegion then s.hostEntry else n / 28
    let b := s.tableRegion d
    if s.net.unroutable.contains (a, b) then
      if s.net.told.contains (a, b) then s
      else (s.onNet fun x => { x with told := x.told ++ [(a, b)] }).logHealth { cls := 0x11, pregion := a, sub := b }
    else
      let i := if a = b then none else s.net.inter.get none (a * 64 + b)
      let q := { p with leg := false, iregion := i }
      s.reach n (bufKey port q.vc q.prio false) q

/-- A packet may enter by a port now: it has a way to go, or none ever, and its buffer has room. -/
def State.mayAdmit (s : State) (n port : Nat) (p : Packet) : Bool :=
  (s.destOf p).isSome && (s.router n).room (bufKey port p.vc p.prio false) p

/-- A packet for a module that no route serves is rejected at its issuer (R238). -/
def State.unservedPacket (s : State) (p : Packet) : Bool := s.leavesModule p && p.smod = s.ownMod && s.unserved (s.packetLayout p) (gMod p.gaddr)

/-- Offer a waiting packet to a port: `take` removes it from where it waits. -/
def State.offer (s : State) (n port : Nat) (p : Packet) (take : State → State) : State :=
  if s.unservedPacket p then (take s).rejectOp (n / 28) p
  else if s.mayAdmit n port p then (take s).letIn n port p else s

/-- The cores of a cluster offer their oldest outbound packet (R113); work that waited only for that may complete its micro-batch (R46). -/
def State.injectCores (s : State) (n r : Nat) : State :=
  ((List.range 896).filter fun c => decide (clusterOf c = n % 28)).foldl (fun s c =>
    match (s.core r c).outq with
    | [] => s
    | p :: _ => s.offer n localPort p fun s => (s.onCore r c fun x => { x with outq := x.outq.tail }).progress r) s

/-- The store interface's segment offers its oldest packet (R113). -/
def State.injectStore (s : State) (n r : Nat) : State :=
  match (s.lreg r).outq.find? fun p => p.org = n % 28 with
  | none => s
  | some p => s.offer n storePort p fun s => s.onLreg r fun x => { x with outq := x.outq.erase p }

/-- The channels of a DMA engine offer theirs, at the router of segment 3k + 1 (R193). -/
def State.injectDma (s : State) (n r : Nat) : State :=
  if n % 28 % 3 = 1 ∧ n % 28 / 3 < 8 then
    (List.range 16).foldl (fun s i =>
      let k := r * 128 + n % 28 / 3 * 16 + i
      match (s.chan k).buf with
      | [] => s
      | p :: _ => s.offer n storePort p fun s => s.onChan k fun d => { d with buf := d.buf.tail }) s
  else s

/-- The engine of a region: (r mod 8) + 8 x ((r div 8) div 3) (R17). -/
def engineOf (p : Nat) : Nat := p % 8 + 8 * (p / 8 / 3)

/-- Where a packet from an engine enters now: its link port nearest to the packet's target, among the regions that are powered; one that only passes through enters at the first (R17, R114; log entry 36). -/
def State.entryOf (s : State) (e : Nat) (p : Packet) : Option Nat :=
  let ports := linkPorts (fun r => !(s.reg r).powered) e
  if p.smod ≠ s.ownMod && s.leavesModule p then ports.head?
  else match s.destOf p with
    | none => ports.head?
    | some d => nearestTo d.router ports

/-- A packet that only passes through takes the router it enters by as its origin. -/
def State.entered (s : State) (n : Nat) (p : Packet) : Packet := if p.smod ≠ s.ownMod && s.leavesModule p then { p with org := n } else p

/-- The engine offers what it has accepted (R114). -/
def State.injectLink (s : State) (n : Nat) : State :=
  let e := engineOf (n / 28)
  if linkClusters.contains (n % 28) then
    match (s.engine e).toSlab.find? fun p => s.entryOf e p = some n with
    | none => s
    | some p => s.offer n linkPort (s.entered n p) fun s => s.onEng e fun x => { x with toSlab := x.toSlab.erase p }
  else s

/-- The bridge's channels offer theirs at region 40's west edge, channel c at cluster row c mod 7 (R8; log entry 68). -/
def State.injectHost (s : State) (n : Nat) : State :=
  if n / 28 = hostRegion ∧ n % 4 = 0 then
    ((List.range 256).filter fun c => decide (c % 7 = n % 28 / 4)).foldl (fun s c =>
      match (s.chan (bridgeBase + c)).buf with
      | [] => s
      | p :: _ => s.offer n linkPort p fun s => s.onChan (bridgeBase + c) fun d => { d with buf := d.buf.tail }) s
  else s

/-- Everything that waits to enter at a router is offered once. -/
def State.inject (s : State) (n : Nat) : State :=
  let s := (s.injectLink n).injectHost n
  match (if (s.reg (n / 28)).powered then s.logicalOf (n / 28) else none) with
  | none => s
  | some r => ((s.injectCores n r).injectStore n r).injectDma n r

/-! Arbitration (R120). -/

/-- The heads of a router's buffers, with their buffer numbers. -/
def heads (q : List (Nat × Packet)) : List (Nat × Packet) :=
  q.foldl (fun a x => if a.any fun y => y.1 = x.1 then a else a ++ [x]) []

/-- (Input port, virtual channel, leg) of a buffer, as one number of 56. -/
def pairOfBuf (key : Nat) : Nat := key / 4 * 2 + key % 2

/-- The next of some heads in round-robin order after the pair last served. -/
def nextRobin (last : Nat) (l : List (Nat × Packet)) : Option (Nat × Packet) :=
  l.foldl (fun (m : Option (Nat × Packet)) x =>
    match m with
    | none => some x
    | some y => if (pairOfBuf x.1 + 56 - last) % 56 < (pairOfBuf y.1 + 56 - last) % 56 then some x else m) none

/-- The press contribution queue of a packet's priority, of 32 or 128 packets, has room (Table 9.2 queues 4,080 and 4,081). -/
def State.pressRoom (s : State) (r : Nat) (p : Packet) : Bool :=
  if p.prio then decide (((s.lreg r).inHi.filter s.isContribution).length < 32) else decide (((s.lreg r).inNo.filter s.isContribution).length < 128)

/-- Is a packet of a core, store interface or channel welcome at its inbound queue (R100, R121; log entry 35)? -/
def State.welcome (s : State) (r : Nat) (d : Dest) (p : Packet) : Bool :=
  if d.port = localPort then
    let x := s.core r (gIndex p.gaddr)
    if p.prio then decide (x.inHi.length < 16) else decide (x.inNo.length < 64)
  else if p.kind = 14 ∨ p.kind = 15 then true
  else if s.isContribution p && !s.pressRoom r p then false
  else if p.prio then decide ((s.lreg r).inHi.length < 448) else decide ((s.lreg r).inNo.length < 1792)

/-- Key of the channel that a DMA answer is for. -/
def answerChan (p : Packet) : Nat := if gIndex p.gaddr < 512 then gRegion p.gaddr * 128 + gIndex p.gaddr else bridgeBase + (gIndex p.gaddr - 512)

/-- A packet may start on an output: downstream has room for the whole of it (R121). -/
def State.mayStart (s : State) (n out : Nat) (p : Packet) : Bool :=
  match s.destOf p with
  | none => false
  | some d =>
    if out < 4 then
      match meshNext n out with
      | none => false
      | some m => s.routerRuns m && (s.router m).room (bufKey ((out + 2) % 4) p.vc p.prio (legAt n d p)) p
    else if s.leavesModule p then
      match s.nextHop (s.packetLayout p) (gMod p.gaddr) p.slregion p.sunit with
      | none => false
      | some (e, j) =>
        s.linkTakes e j p.vc &&
        (decide (p.smod ≠ s.ownMod) ||
          match s.slotNaming e (gMod p.gaddr) with
          | none => true
          | some k => let n := ((s.engine e).tx.get {} (txKey k p.vc)).unacked.length; decide (n < 4096) && (s.engine e).hasSlot n)
    else if out = linkPort then true
    else s.welcome ((s.logicalOf (n / 28)).getD 64) d p

/-- The head packets that want an output and may start on it. -/
def State.candidates (s : State) (n out : Nat) : List (Nat × Packet) :=
  (heads (s.router n).q).filter fun x => decide (s.outputOf n x.2 = some out) && s.mayStart n out x.2

/-- The packet that an output keeps and sends again before any other (R124). -/
def State.resendOf (s : State) (n out : Nat) : Option (Nat × Packet) :=
  match (s.router n).resend.get none out with
  | none => none
  | some x => if (s.router n).q.contains x then some x else none

/-- The packet an output sends next of those that wait (R120): high priority, unless a normal one waits and 12 of the last 16 flit cycles were high. -/
def State.chooseNew (s : State) (n out : Nat) : Option (Nat × Packet) :=
  let l := s.candidates n out
  let hi := l.filter fun x => x.2.prio
  let lo := l.filter fun x => !x.2.prio
  let x := s.router n
  let busy := decide (12 ≤ ((x.high.get [] out).filter id).length)
  if !hi.isEmpty && !(busy && !lo.isEmpty) then nextRobin (x.last.get 0 (out * 2 + 1)) hi else nextRobin (x.last.get 0 (out * 2)) lo

/-- The packet an output sends next: the one it must send again, else one that waits (R120, R124). -/
def State.choose (s : State) (n out : Nat) : Option (Nat × Packet) :=
  match s.resendOf n out with
  | some x => if s.mayStart n out x.2 then some x else none
  | none => s.chooseNew n out

/-! Leaving the plane. -/

/-- What identifies a sent packet in a log: unit, context, position, loop iteration and index, and the operation's kind (R285; log entry 66). -/
def sameIdentity (a b : Packet) : Bool :=
  a.slregion = b.slregion && a.skind = b.skind && a.sunit = b.sunit && a.sctx = b.sctx && a.tag % 4096 = b.tag % 4096 && a.iter = b.iter && a.pidx = b.pidx && a.kind = b.kind

/-- Release what the log of a partner holds before its next sent identity; get requests and contributions are not released here (R285). -/
def State.releaseLog (s : State) (m : Nat) : Nat → State
  | 0 => s
  | n + 1 =>
    match s.flt.relog.find? fun x => x.m = m with
    | none => s
    | some x =>
      if x.sent then s
      else
        let s := s.onFlt fun f => { f with relog := f.relog.erase x }
        let s := if x.p.kind = 1 ∨ x.p.kind = 13 ∨ s.isContribution x.p then s else s.enterSlab x.e (s.aliased x.p)
        s.releaseLog m n

/-- A replayed packet whose identity the log holds is suppressed; the responses to the packet sent before, in the log or still to come, answer the new operation (R285). -/
def State.suppress (s : State) (m : Nat) (p : Packet) (x : LogItem) : State :=
  let s := s.onFlt fun f => { f with relog := f.relog.erase x, aliases := (x.p.tag, p.tag) :: f.aliases }
  s.releaseLog m (s.flt.relog.length + 1)

/-- Send a packet of this module on its stream (R239, R240, R268). -/
def State.sendStream (s : State) (e j slot : Nat) (p : Packet) : State :=
  let k := txKey slot p.vc
  let q := { p with hops := 0, hkind := 0, cetag := s.cfg.epoch.toNat % 256, tseq := ((s.engine e).tx.get {} k).next, leg := false, iregion := none, seng := e, sslot := slot }
  let straight := match s.linkDecl e j with | none => none | some d => if d.pmod = gMod p.gaddr then some (d.pmod, d.pengine) else none
  let s := s.onTx e k fun x => { next := x.next + 1, unacked := x.unacked ++ [q], holder := if x.next = 0 ∧ x.unacked = [] then straight else x.holder }
  (s.sendFrame e j q).logItem { m := gMod p.gaddr, sent := true, e := e, p := { p with payload := [] } }

/-- A packet leaves by a link port: forwarded as it stands, suppressed by the log, or sent on its stream. -/
def State.leave (s : State) (n : Nat) (p : Packet) : State :=
  let m := gMod p.gaddr
  match s.nextHop (s.packetLayout p) m p.slregion p.sunit with
  | none => s
  | some (e, j) =>
    if p.smod ≠ s.ownMod then s.sendFrame e j p
    else
      match s.flt.relog.find? fun x => x.m = m && x.sent && sameIdentity x.p p with
      | some x => s.suppress m p x
      | none =>
        match s.slotNaming e m with
        | none => s.rejectOp (n / 28) p
        | some k => s.sendStream e j k p

/-- Deliver a packet at a local, store or host port. -/
def State.deliver (s : State) (n out : Nat) (p : Packet) : State :=
  if p.kind = 14 then s.onChan (answerChan p) fun d => { d with reads := d.reads ++ [p] }
  else if p.kind = 15 then s.onChan (answerChan p) fun d => { d with acks := d.acks ++ [p] }
  else
    match s.logicalOf (n / 28) with
    | none => s
    | some r =>
      if out = localPort then s.onCore r (gIndex p.gaddr) fun x => if p.prio then { x with inHi := x.inHi ++ [p] } else { x with inNo := x.inNo ++ [p] }
      else if p.kind = 9 ∧ p.skind = 1 ∧ gSpace p.gaddr then s.deltaAcked r p.tag
      else s.onLreg r fun x => if p.prio then { x with inHi := x.inHi ++ [p] } else { x with inNo := x.inNo ++ [p] }

/-- Move a packet across an output. -/
def State.cross (s : State) (n out : Nat) (p : Packet) : State :=
  if out < 4 then
    match meshNext n out, s.destOf p with
    | some m, some d => let q := { p with leg := legAt n d p }; s.reach m (bufKey ((out + 2) % 4) q.vc q.prio q.leg) q
    | _, _ => s
  else if s.leavesModule p then s.leave n p
  else s.deliver n out p

/-- Note the flits that an output has sent: its last 16 flit cycles, and their count (R120, R133). -/
def State.noteFlits (s : State) (n out : Nat) (p : Packet) : State :=
  (s.onRouter n fun x => { x with high := x.high.set [] out (let h := x.high.get [] out ++ List.replicate (flits p) p.prio; h.drop (h.length - 16)) }).count (n / 28) 0x2048 (flits p)

/-- Note what an output has sent and its receiver confirmed: its round robin, its flits (R120, R133). -/
def State.noteSent (s : State) (n out key : Nat) (p : Packet) : State :=
  let s := s.onRouter n fun x => { x with
    q := x.q.erase (key, p)
    last := x.last.set 0 (out * 2 + b2n p.prio) ((pairOfBuf key + 1) % 56)
    retries := x.retries.set 0 out 0
    resend := x.resend.set none out none }
  s.noteFlits n out p

/-- Retransmissions that mark a link as failed (R124). -/
def maxRetries : Nat := 3

/-- An uncorrectable transfer has sent its flits and is sent again, by an output that keeps the packet; the third time the link has failed, a fault of its region (R124). -/
def State.retryOutput (s : State) (n out key : Nat) (p : Packet) : State :=
  let t := (s.router n).retries.get 0 out + 1
  let s := (s.onRouter n fun x => { x with retries := x.retries.set 0 out t, resend := x.resend.set none out (some (key, p)) }).noteFlits n out p |>.netEvent (n / 28) (n % 28) out true
  if h : t = maxRetries ∧ n / 28 < 48 then s.report { kind := .region ⟨n / 28, h.2⟩ 0x11 } else s

/-- PACKET_FORWARD (R120): an output chooses a waiting head packet with downstream space and sends it whole; a cycle in which heads wait without space is counted (R133). -/
def execPacketForward (router : Fin 1344) (out : Fin 7) (err : LinkErr) (s : State) : Ans :=
  let n := router.val
  if s.routerRuns n then
    let s := s.inject n
    match s.choose n out with
    | none =>
      if (heads (s.router n).q).any fun x => decide (s.outputOf n x.2 = some out.val) then .next (s.count (n / 28) 0x204C 1) else .next s
    | some (key, p) =>
      match err with
      | .uncorrectable => .next (s.retryOutput n out key p)
      | .corrected => .next (((s.noteSent n out key p).cross n out p).netEvent (n / 28) (n % 28) out false)
      | .clean => .next ((s.noteSent n out key p).cross n out p)
  else .next s

end Sys2Proof.Machine
end

