-- ==== Sys2Proof/Machine/ImageCheck.lean ====
section
/-! DEFINITION. Image checking: the merged configuration, the sixteen checks of Table 12.11, the region digests and the configuration root (R249 to R255, R261, R264 to R267). -/

namespace Sys2Proof.Machine

/-! What will be in force (R215, R267). -/

/-- Digest of a course of an image, by type and index. -/
def courseDigest (i : Image) (ct ix : Nat) : Option Digest :=
  (findIdx (fun (e : Nat × Nat × Nat × Nat) => e.1 = ct && e.2.1 = ix) i.table 0).bind fun k => i.digests[k]?

/-- Where the courses of a re-shard are laid, behind those in force. -/
def mergeBase (old : Image) : Nat := ((old.table.foldl (fun n e => max n (e.2.2.1 + e.2.2.2)) 0) / 2 ^ 34 + 1) * 2 ^ 34

/-- Course-table entries and digests of a re-shard laid over those in force. -/
def mergeTable (old new_ : Image) : List (Nat × Nat × Nat × Nat) × List Digest :=
  let es := old.table.map fun e => match new_.table.find? fun x => x.1 = e.1 && x.2.1 = e.2.1 with
    | none => e
    | some x => (x.1, x.2.1, mergeBase old + x.2.2.1, x.2.2.2)
  let ds := old.table.map fun e => ((courseDigest new_ e.1 e.2.1).orElse fun _ => courseDigest old e.1 e.2.1).getD 0
  (es, ds)

/-- Bytes of a re-shard laid behind those in force. -/
def mergeBytes (old : Image) (b new_ : Memory) : Memory := (b.filter fun x => decide (x.1 < mergeBase old)) ++ new_.map fun x => (mergeBase old + x.1, x.2)

/-- The configuration in force with the courses that a re-shard replaces (R215). -/
def mergeImage (old new_ : Image) : Image :=
  let t := mergeTable old new_
  { old with
    reshard := true, cold := new_.cold, imageId := new_.imageId, keyId := new_.keyId, lepoch0 := new_.lepoch0, table := t.1, digests := t.2
    moved := (movesOf (old.press.getD {}) old.regions ((new_.press.orElse fun _ => old.press).getD {}) (old.regions.map fun x => (x.1, ((new_.regions.find? fun y => y.1 = x.1).map (·.2)).getD x.2))).map fun m => (m.1, m.2.1)
    regions := old.regions.map fun x => (x.1, ((new_.regions.find? fun y => y.1 = x.1).map (·.2)).getD x.2)
    link := new_.link.orElse fun _ => old.link
    press := new_.press.orElse fun _ => old.press
    settings := old.settings }

/-- The image that the staged bytes spell; none where a settings-only set holds no bytes, or where they spell none. -/
def State.stagedImage (s : State) : Option Image := if s.stg.size.isNone then none else parseImage s.stg.bytes

/-- What will be in force once the staged set is applied; one of settings alone keeps the image and is no cold load (R264). -/
def State.mergedImage (s : State) : Option Image :=
  if s.stg.have_.isEmpty then s.cfg.image.map fun i => { i with settings := [], reshard := false, cold := false, moved := [] }
  else
    match s.stagedImage with
    | none => none
    | some i => if i.reshard then s.cfg.image.map fun o => mergeImage o i else some i

/-- The digest that the link, press, step and mode courses and the settings record share (R267). -/
def sharedDigest (i : Image) : Digest :=
  digest64 ((numbered i.table).flatMap fun x => if 3 ≤ x.1.1 ∧ x.1.1 ≤ 7 then leBytes 64 (i.digests.getD x.2 0).toNat else [])

/-- Digest of a logical region; none without a course (R267). -/
def regionDigest (i : Image) (n : Nat) : Option Digest :=
  (courseDigest i 2 n).map fun d => digest64 (leBytes 1 n ++ leBytes 64 d.toNat ++ leBytes 64 (sharedDigest i).toNat)

/-- The configuration root (R267). -/
def configRoot (i : Image) : Digest :=
  digest64 (leBytes 16 i.imageId ++ (List.range 48).flatMap fun n => leBytes 64 ((regionDigest i n).getD 0).toNat)

/-! Check 1: format and trust. -/

/-- Bytes staged up to `n` without a hole. -/
def stagedWhole (have_ : List (Nat × Nat)) (n : Nat) : Bool :=
  decide ((have_.foldl (fun m _ => have_.foldl (fun m x => if x.1 ≤ m then max m (x.1 + x.2) else m) m) 0) ≥ n)

/-- Header length. -/
def headerLen (h : Header) : Nat := 0x100 + 32 * h.ncourse

/-- The places of all courses, the header among them. -/
def spansOf (h : Header) : List (Nat × Nat) := (0, headerLen h) :: h.table.map fun e => (e.2.2.1, e.2.2.2)

/-- Every byte outside all courses is zero. -/
def outsideZero (m : Memory) (h : Header) : Bool :=
  m.all fun x => (spansOf h).any fun p => decide (p.1 ≤ x.1 ∧ x.1 < p.1 + p.2)

/-- Course places: aligned, within the image, disjoint, region courses of at most 256 MiB (R249, R253). -/
def placesOk (h : Header) : Bool :=
  h.table.all (fun e => decide (e.2.2.1 % 4096 = 0) && decide (e.2.2.1 + e.2.2.2 ≤ h.size) && (decide (e.1 ≠ 2) || decide (e.2.2.2 ≤ 2 ^ 28))) &&
  pairwise (fun (a b : Nat × Nat) => decide (a.1 + a.2 ≤ b.1) || decide (b.1 + b.2 ≤ a.1)) (spansOf h)

/-- Courses of the types and numbers of R249: in a full image one of each type but region and settings; in a re-shard the trust course and those that R215 lets it replace. -/
def coursesOk (h : Header) : Bool :=
  let n (ct : Nat) : Nat := (h.table.filter fun e => e.1 = ct).length
  let regs := (h.table.filter fun e => e.1 = 2).map (·.2.1)
  h.table.all (fun e => decide (1 ≤ e.1 ∧ e.1 ≤ 7) && (if e.1 = 2 then decide (e.2.1 < 48) else decide (e.2.1 = 0))) &&
  decide (regs.eraseDups.length = regs.length) && decide (regs.length = h.nreg ∨ bitAt h.flags 0) && decide (n 1 = 1) &&
  (if bitAt h.flags 0 then
    decide (2 ≤ h.ncourse) && decide (1 ≤ h.nreg ∧ h.nreg ≤ 48) && decide (n 3 ≤ 1) && decide (n 4 ≤ 1) && decide (n 5 = 0) && decide (n 6 = 0) && decide (n 7 = 0)
   else
    decide (6 ≤ h.ncourse) && decide (1 ≤ n 2) && decide (n 3 = 1) && decide (n 4 = 1) && decide (n 5 = 1) && decide (n 6 = 1) && decide (n 7 ≤ 1))

/-- The context string of an image signature: ASCII `LX-SKZ-IMAGE`. -/
def imageContext : List Byte := [0x4C, 0x58, 0x2D, 0x53, 0x4B, 0x5A, 0x2D, 0x49, 0x4D, 0x41, 0x47, 0x45]

/-- Public keys whose signature an image may carry: the enrolled owner keys, and the vendor root while `VIMG` is 1 (R250, R398). -/
def State.imageKeys (s : State) : List Nat := s.keys.owners.filterMap (·.2) ++ (if s.keys.vimg then [Config.vendorRoot] else [])

/-- The trust course: digests of the header and of every course, and a signature over them by a key that may sign (R250, R398). -/
def State.trustOk (s : State) (m : Memory) (h : Header) : Bool :=
  match h.course 1 with
  | none => false
  | some e =>
    let b := courseBytes m e
    let z := 0x48 + 64 * h.ncourse
    let kid := leAt b z 8
    let sig := (b.drop (z + 8)).take 114
    decide (z + 122 ≤ b.length) && (b.drop (z + 122)).all (· = 0) && decide (leAt b 0 8 = 0) &&
    decide (leAt b 8 64 = (digest64 (sliceMem m 0 (headerLen h))).toNat) &&
    (numbered h.table).all (fun x => decide (leAt b (0x48 + 64 * x.2) 64 = if x.1.1 = 1 then 0 else (digest64 (courseBytes m x.1)).toNat)) &&
    s.imageKeys.any fun pub => decide ((keyId pub).toNat = kid) && ed448Verify (leBytes 57 pub) imageContext (b.take z) sig

/-- Settings record: registers of class `EPOCH`, each with a value in its ranges (R253). -/
def settingsOk (i : Image) : Bool :=
  i.settings.all fun x => match regDesc x.1 with
    | none => false
    | some d => decide (d.swap = .epoch) && d.fields.all (fun f => decide (f.min ≤ fld x.2.toNat f.lo f.w ∧ fld x.2.toNat f.lo f.w ≤ f.max)) &&
        decide ((d.fields.foldl (fun v f => putFld v f.lo f.w 0) x.2.toNat) = 0)

/-- Limits of Table 12.7 and the sections of R253. -/
def sectionsOk (i : Image) : Bool :=
  i.regions.all fun x => x.2.cores.all fun c =>
    decide (c.slots.length ≤ 96) && decide (c.tiles.length ≤ 4096) && decide (c.chains.length ≤ 2048) && c.progs.all (fun p => decide (p.2.length ≤ 4096)) &&
    decide (c.beats.length ≤ 4096) && decide (c.counters.length = 256 ∨ c.counters.length = 0)

/-- Logical regions in service, in ascending order. -/
def inService (i : Image) : List Nat := (List.range 48).filter fun r => i.regions.any fun x => x.1 = r

/-- Line lists that the records of the link, press and step courses name, by region; the shards' are checked with their fields. -/
def namedLists (i : Image) : List (Nat × Nat) :=
  let l := i.link.getD {}
  ((i.press.getD {}).tables.flatMap fun t => t.owners.flatMap fun o => [(o.1, o.2.1), (o.1, o.2.2.1)]) ++ l.outer.map (fun o => (o.lregion, o.list)) ++
    l.inlogs.map (fun x => (x.2.1, x.2.2)) ++ (i.step.getD {}).store.flatMap fun x => [(x.1, x.2.1), (x.1, x.2.2)]

/-- The records that stand once for each region in service, in ascending order, and once for each orchard table, in table order; tables are numbered by position, and every line list named is one of the store map of its region (R412). -/
def recordsOk (i : Image) : Bool :=
  let p := i.press.getD {}
  let t := i.step.getD {}
  (namedLists i).all (fun x => decide (x.2 < (imgCourse i x.1).lists.length)) &&
  decide (p.regions.map (·.lregion) = inService i) && decide (t.store.map (·.1) = inService i) &&
  decide (p.tables.map (·.table) = List.range p.tables.length) && decide (t.touch.map (·.1) = List.range p.tables.length)

def State.check1 (s : State) : Bool :=
  if s.stg.have_.isEmpty then s.cfg.image.isSome
  else
    match headerOf s.stg.bytes, s.stagedImage, s.mergedImage with
    | some h, some i, some j =>
      let m := s.stg.bytes
      decide (s.stg.size = some h.size) && stagedWhole s.stg.have_ h.size && decide (h.size % 4096 = 0 ∧ h.size ≤ 2 ^ 34) && decide (headerLen h ≤ h.size) &&
      placesOk h && coursesOk h && outsideZero m h && s.trustOk m h && sectionsOk i && recordsOk j
    | _, _, _ => false

/-! Check 2: field ranges. -/

/-- Products of the chain that an operation of a matrix list begins (R25). -/
def chainProducts : List TileOp → Nat
  | [] => 0
  | o :: t => if o.drain then o.k else o.k + chainProducts t

/-- Every operation that begins a chain keeps within 16,777,215 products (R25). -/
def productsOk : List TileOp → Bool
  | [] => true
  | o :: t => (decide (o.init = 2) || decide (chainProducts (o :: t) ≤ 16777215)) && productsOk t

/-- Sequence entries name beats that stand in the table, and a core (R109). -/
def seqsOk (c : CoreCourse) : Bool :=
  c.seqs.all fun q => decide (q.count = 0) || (decide (q.first + q.count ≤ c.beats.length) && decide (q.lead < 896))

/-- A beat-table entry without a reserved value (R108). -/
def beatOk (b : BeatEntry) : Bool := decide (b.soff ≤ 20479)

/-- Emits and waits of a trailer name units that exist (Table 12.5, R130). -/
def emitOk (e : Emit) : Bool :=
  decide (e.region = 63) || (decide (e.region < 48) && (decide (e.unit < 896) || decide (e.unit = 0x400 ∨ e.unit = 0x401 ∨ e.unit = 0xFFFF) || decide (0x500 ≤ e.unit ∧ e.unit < 0x580)))

/-- Instructions of a program: `RMO` fields of R84 and R86 with the class of their context, sequence numbers, loop bodies (R93, R252). -/
def progOk (rc : RegionCourse) (c j : Nat) (prog : List CtxInstr) : Bool :=
  let deferred := rc.classes.any fun x => x.1 = c && bitAt x.2 j
  prog.all fun i => i.tr.emits.all emitOk && match i.op with
    | .rmo q => (({ ctx := j, pos := 0, q := q, gaddr := q.gaddr, laddr := q.laddr } : Issue).legal) && (q.deferred == deferred)
    | .loop _ b => decide (1 ≤ b)
    | _ => true

def coreFieldsOk (rc : RegionCourse) (c : CoreCourse) : Bool :=
  decide (c.core < 896) && c.slots.all (fun x => decide (x < 640)) &&
  (List.range c.tiles.length).all (fun k => tileFields (c.tiles.getD k {}) c.tiles k) && productsOk c.tiles && c.chains.all chainFields &&
  (coreTrailers c).all (fun t => t.emits.all emitOk) && c.progs.all (fun p => progOk rc c.core p.1 p.2) && c.beats.all beatOk && seqsOk c

/-- A binary32 field as a value. -/
def f32Pos (v : Nat) : Bool := match Fp.ofBits b32 v with | .fin s m _ => !s && decide (0 < m) | _ => false
def f32NonNeg (v : Nat) : Bool := match Fp.ofBits b32 v with | .fin s m _ => !s || decide (m = 0) | _ => false
def f32Unit (v : Nat) : Bool := f32NonNeg v && decide (v % 2 ^ 31 < 0x3F800000)

/-- Table 8.1. -/
def groupFieldsOk (n : Nat) (g : Group) : Bool :=
  decide (g.recipe ≤ 4 ∧ g.decay ≤ 2 ∧ g.ripe ≤ 2 ∧ g.sched < n) && f32Unit g.b1 && f32Unit g.b2 && f32Pos g.eps && f32NonNeg g.lambda && f32Pos g.clipc &&
  f32NonNeg g.lrmul && f32Unit g.rbeta && (f32Pos g.trmax || decide (g.trmax = 0x7F800000))

/-- Table 8.2. -/
def schedFieldsOk (c : Sched) : Bool :=
  decide (c.form ≤ 4 ∧ 1 ≤ c.dsteps ∧ 1 ≤ c.rsq) && f32NonNeg c.peak && f32NonNeg c.floor &&
  (decide (c.form ≠ 4) || (decide (1 ≤ c.pts.length ∧ c.pts.length ≤ 64) && decide ((c.pts.getD 0 (1, 0)).1 = 0))) &&
  ((List.range (c.pts.length - 1)).all fun k => decide ((c.pts.getD k (0, 0)).1 < (c.pts.getD (k + 1) (0, 0)).1))

/-- Table 8.3; under held timing `ABASE` is ignored (R170). -/
def shardFieldsOk (rc : RegionCourse) (ngroups : Nat) (held : Bool) (sh : Shard) : Bool :=
  decide (sh.group < ngroups) && decide (2 ≤ sh.nlines ∧ sh.nlines ≤ 12582910 ∧ sh.nlines % 2 = 0) && decide (1 ≤ sh.ncont) && (held || decide (sh.abase + sh.nlines ≤ 196608)) &&
  decide (sh.hbank < 896) && decide (sh.hline < bankLines sh.hbank) && decide (areaOf rc sh.hbank sh.hline = .parameter) && sh.runs.all (fun x => match x with | none => true | some l => decide (l < rc.lists.length)) &&
  (sh.ready ++ sh.frees).all emitOk

/-- Tables 8.1 to 8.4 and the orchard tables (R154, R161); a table's record and lists are held to their ranges, not to each other (log entry 160). -/
def pressFieldsOk (i : Image) : Bool :=
  let p := i.press.getD {}
  decide (p.groups.length ≤ 256 ∧ p.scheds.length ≤ 16 ∧ p.tables.length ≤ 64) && p.groups.all (groupFieldsOk p.scheds.length) && p.scheds.all schedFieldsOk &&
  p.regions.all (fun x => decide (x.shards.length ≤ 4096) && x.shards.all (shardFieldsOk (imgCourse i x.lregion) p.groups.length (i.mode.getD {}).updt) && x.scaleReady.all emitOk) &&
  p.tables.all (fun t => decide (t.group < p.groups.length) && decide (1 ≤ t.k ∧ t.k ≤ 46) && decide (t.lines ≤ 64)) &&
  decide (-64 ≤ p.ls.emin ∧ p.ls.emin ≤ p.ls.e0 ∧ p.ls.e0 ≤ p.ls.emax ∧ p.ls.emax ≤ 64) && decide (1 ≤ p.ls.down ∧ p.ls.down ≤ 8 ∧ 1 ≤ p.ls.grow) && p.cells.all (fun c => decide (c.1 < 48 ∧ c.2.1 < 896 ∧ c.2.2 + 4 ≤ sramSize) && decide (p.cells.countP (fun d => d.1 = c.1) ≤ 64))

/-- Ranges of the link and step courses (Table 12.14, R231, R238); of an outer sheaf its count of data segments alone is held to a bound (log entry 158). -/
def linkFieldsOk (i : Image) : Bool :=
  let l := i.link.getD {}
  decide (1 ≤ l.held) && decide (l.mod < 65535) && l.lists.all (fun x => decide (x.1 ≤ 3)) &&
  l.links.all (fun k => decide (0 < k.tx) && decide ((List.range 8).countP (bitAt k.tx) = (List.range 8).countP (bitAt k.rx)) && decide (k.minl ≤ 8 * (List.range 8).countP (bitAt k.tx))) &&
  l.relays.all (fun y => decide (y.lregion < 48 ∧ y.core < 896 ∧ y.dregion < 48 ∧ y.dcore < 896 ∧ y.doff + 8 ≤ sramSize)) && l.outer.all (fun o => decide (o.d ≤ 7))

def stepFieldsOk (i : Image) : Bool :=
  let t := i.step.getD {}
  decide (4 ≤ t.resGiB ∧ t.resGiB ≤ 64) && decide (2 ≤ t.s ∧ t.s ≤ 16) && decide (t.commits.length ≤ 64) && t.commits.all (fun c => decide (c < t.mb)) &&
  ((List.range (t.commits.length - 1)).all fun k => decide (t.commits.getD k 0 < t.commits.getD (k + 1) 0))

/-- Table 12.8. -/
def modeFieldsOk (i : Image) : Bool :=
  let m := i.mode.getD {}
  decide (m.clock ≤ 2 ∧ m.diag ≤ 2) && m.frun.all (fun k => decide (k ≤ 24)) && m.flow.all (fun k => decide (k ≤ 24))

/-- Channel entries (R194). -/
def dmaFieldsOk (d : DmaDecl) : Bool := decide (d.core < 896 ∧ 2 ≤ d.y ∧ d.y ≤ 8)

/-- A micro-batch unit that stands in its core: a tile operation, a chain, or an instruction of a context other than `LOOP` and `END` (R253). -/
def mbUnitOk (rc : RegionCourse) (u : MbUnit) : Bool :=
  let c := courseOf rc u.core
  match u.kind with
  | 0 => match (c.progs.find? fun p => p.1 = u.index).bind fun p => p.2[u.pos]? with
    | none => false
    | some i => match i.op with | .loop _ _ => false | .stop => false | _ => true
  | 1 => decide (u.index < c.tiles.length)
  | _ => decide (u.index < c.chains.length)

/-- A unit in the encoding of R130 with logical numbers. -/
def unitNumOk (u : Nat) : Bool := decide (u < 896) || decide (u = 0x400 ∨ u = 0x401) || decide (0x500 ≤ u ∧ u < 0x580)

def check2 (i : Image) : Bool :=
  i.regions.all (fun x => x.2.cores.all (coreFieldsOk x.2) && x.2.dma.all dmaFieldsOk && x.2.flows.all (fun f => decide (f.dregion < 48 ∧ f.index < 896) && unitNumOk f.src) &&
    x.2.mbUnits.all (mbUnitOk x.2) && x.2.classes.all (fun c => decide (c.1 < 896)) &&
    x.2.orcCons.all (fun c => decide (c.core < 896 ∧ c.soff + 8 ≤ sramSize) && decide (c.table < (i.press.getD {}).tables.length))) &&
  (i.link.getD {}).xtoks.all (fun t => decide (t.1 < 48) && unitNumOk t.2.1) &&
  pressFieldsOk i && linkFieldsOk i && stepFieldsOk i && modeFieldsOk i && settingsOk i

/-! Check 3: SRAM use. -/

/-- Slots of the tree destination. -/
def treeDest (ch : Chain) : List Nat := if ch.rscope = 0 then [] else (List.range (treeSlots ch)).map (ch.rdst + ·)

/-- Two lists of slots share none. -/
def apartSlots (a b : List Nat) : Bool := a.all fun x => !b.contains x

/-- The 16-bit units that an element at an SRAM offset covers. -/
def elemUnits (f32 : Bool) (off : Nat) : List Nat := if f32 then [off / 2, off / 2 + 1] else [off / 2]

/-- The 16-bit units of a stream's stored elements in firing `f` (R70). -/
def streamUnits (st : Stream) (f rows cols : Nat) : List Nat :=
  (List.range (if st.bc = 2 ∨ st.bc = 3 then 1 else rows)).flatMap fun i =>
    (List.range (if st.bc = 1 ∨ st.bc = 3 then 1 else cols)).flatMap fun j => elemUnits st.sfmt (streamOff st f i j)

/-- The 16-bit units of a chain's tree results (R74). -/
def treeUnits (ch : Chain) : List Nat :=
  (List.range (if ch.rscope = 0 then 0 else if ch.rscope = 1 then 1 else ch.rows)).flatMap fun k => elemUnits true (matOff true ch.rdst 1 k 0)

/-- Two streams share no stored element. -/
def streamsApart (a b : Stream) (f rows cols : Nat) : Bool :=
  apartSlots (streamSlots a f rows cols) (streamSlots b f rows cols) || apartSlots (streamUnits a f rows cols) (streamUnits b f rows cols)

/-- Streams of a chain share stored elements only as R71 allows: an output has an input's place and form, or shares none of its elements, nor another output's, nor the tree destination's. -/
def overlapOk (ch : Chain) (f : Nat) : Bool :=
  let outs := numbered ch.outs
  let base (st : Stream) : Nat := firingBase st.base st.adv st.wrap f
  outs.all fun o =>
    ch.ins.all (fun n => (base n = base o.1 && n.pitch = o.1.pitch && n.sfmt == o.1.sfmt && n.tr == o.1.tr && n.bc = 0) ||
      streamsApart o.1 n f ch.rows ch.cols) &&
    (apartSlots (streamSlots o.1 f ch.rows ch.cols) (treeDest ch) || apartSlots (streamUnits o.1 f ch.rows ch.cols) (treeUnits ch)) &&
    outs.all fun p => decide (p.2 ≤ o.2) || streamsApart o.1 p.1 f ch.rows ch.cols

/-- A core's operands lie within the slots, obey R71, and keep off its program slots (R24, R49, R67, R71, R81). -/
def coreSramOk (rc : RegionCourse) (c : CoreCourse) : Bool :=
  let keep (l : List Nat) : Bool := apartSlots l c.slots
  c.tiles.all (fun o => (List.range o.tr.rep).all fun f => (tileOperands o).all fun x =>
    opFits x.1 x.2.1 f x.2.2.1 x.2.2.2 && keep (operandSlots x.1 x.2.1 f x.2.2.1 x.2.2.2)) &&
  c.chains.all (fun ch => (List.range ch.tr.rep).all fun f =>
    chainFits ch f && overlapOk ch f && keep (treeDest ch) && (ch.ins ++ ch.outs).all fun st => keep (streamSlots st f ch.rows ch.cols)) &&
  c.beats.all (fun b => keep (byteSlots (b.soff * 64) 64)) &&
  c.progs.all (fun p => (traceOps p.2 p.1 traceFuel {}).all fun x => x.legal && keep (byteSlots x.laddr x.localBytes)) &&
  rc.dma.all fun d => decide (d.core ≠ c.core) || (keep (byteSlots (d.dring * 64) (64 * 2 ^ d.y)) && keep (byteSlots (d.cring * 64) (32 * 2 ^ d.y)))

def check3 (i : Image) : Bool := i.regions.all fun x => x.2.cores.all (coreSramOk x.2)

/-! Checks 4 and 5: counters and token balance. -/

/-- A counter of a core or a store interface is declared; progress counters of the control die need no declaration (R98). -/
def declaredCtr (i : Image) (r unit k : Nat) : Bool :=
  let rc := imgCourse i r
  if r = 63 then true
  else if unit < 896 then decide (k < (courseOf rc unit).counters.length)
  else if unit = 0x400 ∨ unit = 0x401 then rc.siCtrs.any fun x => x.1 = k
  else true

/-- Each counter is the wait of one unit, token counters start at 0, and declarations cover every counter named (R95, R96). -/
def check4 (i : Image) : Bool :=
  let ws := waitCtrs i
  decide (ws.eraseDups.length = ws.length) &&
  i.regions.all (fun x => x.2.cores.all (fun c => c.counters.all fun y => y.2 || decide (y.1 = 0)) && x.2.siCtrs.all fun y => y.2.1 || decide (y.2.2 = 0)) &&
  (ws ++ fedCtrs i).all fun k => declaredCtr i (k / 1024 / 65536) (k / 1024 % 65536) (k % 1024)

def check5 (i : Image) : Bool := balanced i && ((i.step.getD {}).commits.filter (0 < ·)).all (groupsApart i)

/-! Check 6: the scheduled plane. -/

/-- Entries that use the SRAM in their beat, and the eighth of the banks they use (R82, R107). -/
def beatBanks (l : List BeatEntry) (t : Nat) : List Nat := (l.filter fun b => b.beat = t && b.kind ≠ 2).map fun b => b.soff % 4

/-- In every beat of a sequence no bank is used twice and no port twice in one direction, so that no arriving group has two entries (R82, R107; log entry 153). -/
def beatsOk (l : List BeatEntry) : Bool :=
  l.all fun b =>
    let bk := beatBanks l b.beat
    let out := (l.filter fun x => x.beat = b.beat && x.kind ≠ 1).map (·.pout)
    let inn := (l.filter fun x => x.beat = b.beat && x.kind ≠ 0).map (·.pin)
    decide (bk.eraseDups.length = bk.length ∧ out.eraseDups.length = out.length ∧ inn.eraseDups.length = inn.length)

/-- Ports of a sequence in a core, and banks. -/
def seqPorts (l : List BeatEntry) : List Nat := l.flatMap fun b => (if b.kind = 0 then [] else [b.pin]) ++ (if b.kind = 1 then [] else [4 + b.pout])
def seqBanks (l : List BeatEntry) : List Nat := (l.filter fun b => b.kind ≠ 2).map fun b => b.soff % 4

/-- Two sequences of a region use disjoint ports and banks in every core (R110). -/
def seqsDisjoint (rc : RegionCourse) (a b : Nat) : Bool :=
  rc.cores.all fun c => apartSlots (seqPorts (seqBeats c a)) (seqPorts (seqBeats c b)) && apartSlots (seqBanks (seqBeats c a)) (seqBanks (seqBeats c b))

/-- Sequences that a region course uses. -/
def usedSeqs (rc : RegionCourse) : List Nat := (List.range 64).filter fun q => rc.cores.any fun c => !(seqBeats c q).isEmpty

/-- Launch bound in beats at k: four hops of 2 ns and 18 flits at 21/32 of the link each, 7 flits of serialisation, two clock crossings (R130, R131; log entry 75). -/
def launchBeats (k : Nat) : Nat := ceilDiv ((900 + 50 * k) * (8 * 21 + 4 * 18 * 32 + 6 * 21 + 4 * 21)) (21 * 1000) + 4

/-- Physical position of a logical region under the map that will be in force: identity after a cold load, else the map in force (R13). -/
def State.imgPos (s : State) (r : Nat) : Nat := if s.run.st = .idle then r else (s.phys r).getD r

/-- The logical region at a physical position under that map. -/
def State.imgAt (s : State) (p : Nat) : Nat := if s.run.st = .idle then p else (s.logicalOf p).getD p

/-- `RGN_NET_CFG.LEAD` that will be in force in a logical region: that of the physical region it will stand in (R109, R110). -/
def State.leadOf (s : State) (r : Nat) : Nat := fld (s.setting (rgnBase (s.imgPos r) + 0x2040)).toNat 0 10

/-- A sequence is launched by its lead core alone, which every core's table names alike (R109). -/
def leadsOk (rc : RegionCourse) : Bool :=
  rc.cores.all fun c =>
    c.progs.all (fun p => p.2.all fun i => match i.op with | .launch q => (c.seqs[q]?).any fun e => decide (e.lead = c.core) | _ => true) &&
    (List.range 64).all fun q => (seqBeats c q).isEmpty || rc.cores.all fun d => (seqBeats d q).isEmpty || decide ((d.seqs.getD q {}).lead = (c.seqs.getD q {}).lead)

def State.check6 (s : State) (i : Image) : Bool :=
  i.regions.all fun x =>
    let qs := usedSeqs x.2
    leadsOk x.2 &&
    x.2.cores.all (fun c => (List.range 64).all fun q => beatsOk (seqBeats c q)) &&
    qs.all (fun a => qs.all fun b => decide (b ≤ a) || seqsDisjoint x.2 a b || seqsOrdered i x.1 a b) &&
    (qs.isEmpty || decide (launchBeats ((i.mode.getD {}).flow.getD x.1 0) ≤ s.leadOf x.1))

/-! Check 7: flows. -/

/-- Regions that a mode course leaves dark: standbys and those out of service. -/
def imgDark (m : ModeCourse) : List Nat := (List.range 48).filter fun p => bitAt m.outm p || (!m.spare && (decide (p = m.sbw) || decide (p = m.sbe)))

/-- Regions that will be dark: those the image's mode course names, or, for a set without a mode course of its own, those that the map in force gives no logical region (R13, R215). -/
def State.willBeDark (s : State) (i : Image) : List Nat :=
  if s.stg.full then imgDark (i.mode.getD {}) else (List.range 48).filter fun p => (s.logicalOf p).isNone

/-- Outputs of one leg, from a router to a router; `n` bounds their number. -/
def legOutputs : Nat → Nat → Nat → List (Nat × Nat)
  | 0, _, _ => []
  | k + 1, n, t => if n = t then [] else let p := meshTo n t; (n, p) :: match meshNext n p with | none => [] | some m => legOutputs k m t

/-- Router by which a source unit's traffic enters: a core's cluster, a channel's engine, and for the store interface and the press the cluster of the destination's index (R113; log entry 76). -/
def flowSource (r : Nat) (f : Flow) : Nat :=
  r * 28 + (if f.src < 896 then clusterOf f.src else if 0x500 ≤ f.src then 3 * ((f.src - 0x500) / 16) + 1 else clusterOf f.index)

/-- The number by which a source unit takes its hop: a core's, a channel's, and 0 for the store interface and the press (R84, R238; log entry 76). -/
def flowUnit (src : Nat) : Nat := if src < 896 then src else if 0x500 ≤ src then src - 0x500 else 0

/-- Where a flow leaves: its target's router and port, or the link port of its next hop (R114, R238). -/
def State.flowTarget (s : State) (i : Image) (dark : List Nat) (r : Nat) (f : Flow) : Option (Nat × Nat) :=
  if imgOwn i f.dmod then some (s.imgPos f.dregion * 28 + clusterOf f.index, if f.space then storePort else localPort)
  else
    let l := i.link.getD {}
    match l.routes.find? fun x => x.epoch = i.lepoch0 && x.dmod = f.dmod with
    | none => none
    | some t =>
      match t.hops[(r * 7 + flowUnit f.src) % t.hops.length]? with
      | none => none
      | some h => (nearestTo (flowSource (s.imgPos r) f) (linkPorts dark.contains h.1)).map fun n => (n, linkPort)

/-- Outputs that a flow crosses under the map that will be in force. -/
def State.flowOutputs (s : State) (i : Image) (dark : List Nat) (r : Nat) (f : Flow) : Option (List (Nat × Nat)) :=
  match s.flowTarget i dark r f with
  | none => none
  | some (t, port) =>
    let n := flowSource (s.imgPos r) f
    if n / 28 = t / 28 ∨ legClear dark (n / 28) (t / 28) then some (legOutputs 80 n t ++ [(t, port)])
    else (findInter dark (n / 28) (t / 28)).map fun x => legOutputs 80 n (x * 28 + t % 28) ++ legOutputs 80 (x * 28 + t % 28) t ++ [(t, port)]

/-- Capacity of an output in MB/s at the lowest clocks: 32 bytes a cycle at the slower end (R122). -/
def outCapacity (flow : List Nat) (o : Nat × Nat) : Nat :=
  let f (n : Nat) : Nat := 32 * (900 + 50 * flow.getD (n / 28) 0)
  match meshNext o.1 o.2 with
  | none => f o.1
  | some m => min (f o.1) (f m)

/-- The declared rates through every output keep to its shares (R123, R211). -/
def State.flowsOk (s : State) (i : Image) (dark : List Nat) : Bool :=
  let flow := (List.range 48).map fun p => (i.mode.getD {}).flow.getD (s.imgAt p) 0
  let fs := i.regions.flatMap fun x => x.2.flows.map fun f => (f, s.flowOutputs i dark x.1 f)
  let rate (o : Nat × Nat) (hi : Bool) : Nat := fs.foldl (fun n x => if x.1.prio == hi && (x.2.getD []).contains o then n + x.1.rate else n) 0
  fs.all (fun x => x.2.isSome) &&
  (fs.flatMap fun x => x.2.getD []).eraseDups.all fun o =>
    let c := outCapacity flow o
    decide (16 * rate o true ≤ 12 * c) && (decide (4 * rate o false ≤ c) || decide (rate o false + rate o true ≤ c))

/-- Rate in MB/s at which a destination's inbound queue drains at the lowest clocks: a core's at 32 bytes a region cycle, a store bank's at the half of its 51.2 GB/s that the vertical port leaves it (R100, R103; log entry 125). -/
def drainRate (flow : List Nat) (p : Nat) (store : Bool) : Nat := if store then 25600 else 32 * (900 + 50 * flow.getD p 0)

/-- Every inbound queue of this module drains at least at its declared arrival rate (R123). -/
def State.drainsOk (s : State) (i : Image) : Bool :=
  let flow := (List.range 48).map fun p => (i.mode.getD {}).flow.getD (s.imgAt p) 0
  let fs := (i.regions.flatMap (·.2.flows)).filter fun f => imgOwn i f.dmod
  fs.all fun f => decide ((fs.filter fun g => g.dregion = f.dregion && g.space == f.space && g.index = f.index).foldl (fun n g => n + g.rate) 0 ≤
    drainRate flow (s.imgPos f.dregion) f.space)

def State.check7 (s : State) (i : Image) : Bool :=
  let dark := s.willBeDark i
  let on := i.regions.map fun x => s.imgPos x.1
  let host := if dark.contains hostRegion then 32 else hostRegion
  on.all (fun a => (host :: on).all fun b => decide (a = b) || legClear dark a b || (findInter dark a b).isSome) && !dark.contains host && s.flowsOk i dark && s.drainsOk i

/-! Check 8: store areas. -/

/-- Two runs share no line. -/
def runsApart (a b : Nat × Nat × Nat) : Bool := decide (a.1 ≠ b.1) || decide (a.2.1 + a.2.2 ≤ b.2.1) || decide (b.2.1 + b.2.2 ≤ a.2.1)

/-- A run of the store map as bank, first line and count. -/
def runSpan (u : StoreRun) : Nat × Nat × Nat := (u.bank, u.first, u.count)

/-- Keeper of a region's resident copy (R255). -/
def keeperOf (i : Image) (n : Nat) : Nat := if i.regions.any fun x => x.1 = (n + 16) % 48 then (n + 16) % 48 else (n + 32) % 48

/-- Length of a course of an image. -/
def courseLen (i : Image) (ct ix : Nat) : Nat := ((i.table.find? fun e => e.1 = ct && e.2.1 = ix).map (·.2.2.2)).getD 0

/-- Lines of resident copies that a region holds (R255). -/
def residentLines (i : Image) (r : Nat) : Nat :=
  (i.regions.foldl (fun n x => if keeperOf i x.1 = r then n + ceilDiv (courseLen i 2 x.1) 2048 else n) 0) +
  (i.table.foldl (fun n e => if e.1 ≠ 2 then n + ceilDiv e.2.2.2 2048 else n) 0)

/-- Checkpoint-staging lines of a region. -/
def stagingLines (rc : RegionCourse) : Nat := rc.runs.foldl (fun n u => if u.staging then n + u.count else n) 0

/-- Every region's checkpoint staging holds its load copy and resident copies, beside those in force on a warm load (R255). -/
def stagingFits (i : Image) (old : Option Image) : Bool :=
  i.regions.all fun x =>
    let rc := match old with | none => x.2 | some o => imgCourse o x.1
    decide (ceilDiv (courseLen i 2 x.1) 2048 + residentLines i x.1 + (old.map fun o => residentLines o x.1).getD 0 ≤ stagingLines rc)

/-- The course copies of an image that region `r` holds: the resident copies of the courses that it keeps and of those that every region does, and, with `load`, the load copy of its own course (R255). -/
def copiesOf (i : Image) (r : Nat) (load : Bool) : List (Nat × Nat × Nat × Nat) :=
  (i.table.filter fun e => if e.1 = 2 then decide (keeperOf i e.2.1 = r) else true) ++ if load then i.table.filter fun e => e.1 = 2 && e.2.1 = r else []

/-- Lines of a copy. -/
def copySpan (e : Nat × Nat × Nat × Nat) : Nat := ceilDiv e.2.2.2 2048

/-- An image as far as its header tells: its courses and regions. -/
def headerImage (h : Header) : Image := { table := h.table, regions := (h.table.filter fun e => e.1 = 2).map fun e => (e.2.1, {}) }

/-- The course copies that stand in region `r`, each with the bytes it is of: the resident copies in force with, until a set is staged in its place, the load copy; then those of the staged set (R255; log entry 139). -/
def State.copiesAt (s : State) (r : Nat) : List (Bool × Nat × Nat × Nat × Nat) :=
  (match s.cfg.image with | none => [] | some i => (copiesOf i r (decide (s.stg.st = .empty))).map fun e => (false, e)) ++
  (if s.stg.st = .empty then [] else match headerOf s.stg.bytes with | none => [] | some h => (copiesOf (headerImage h) r true).map fun e => (true, e))

/-- Staging lines of region `r`'s column in their order in the segment (R337). -/
def State.stagingOf (s : State) (r : Nat) : List (Nat × Nat) :=
  (s.exRuns.filter fun u => u.staging && u.lregion = r).flatMap fun u => (List.range u.count).map fun k => (u.bank, u.first + k)

/-- `CTL_HWIN_STG.CLINE`: the first staging line that holds a course copy, copies filling each region's staging lines from the top downwards (R255, R338; log entry 81). -/
def State.cline (s : State) : Nat :=
  let rs := s.exRuns.filter (·.staging)
  let x := (List.range 48).foldl (fun (a : Nat × Option Nat) r =>
    let n := runLines (rs.filter fun u => u.lregion = r)
    let held := min n ((s.copiesAt r).foldl (fun n e => n + copySpan e.2) 0)
    (a.1 + n, if a.2.isSome then a.2 else if held = 0 then none else some (a.1 + n - held))) (0, none)
  min (x.2.getD x.1) (2 ^ 27)

/-- The lines of a copy, as they stand from the top of its region's staging lines downwards. -/
def State.copyPlace (s : State) (r k : Nat) : List (Nat × Nat) :=
  let l := s.copiesAt r
  let before := (l.take k).foldl (fun n e => n + copySpan e.2) 0
  (((s.stagingOf r).reverse.drop before).take (((l[k]?).map fun e => copySpan e.2).getD 0)).reverse

/-- The bytes that a copy of a course holds in region `r`; none where no copy stands there. -/
def State.readCopy (s : State) (r : Nat) (staged : Bool) (ct ix : Nat) : Option (List Byte) :=
  match findIdx (fun (e : Bool × Nat × Nat × Nat × Nat) => e.1 == staged && e.2.1 = ct && e.2.2.1 = ix) (s.copiesAt r) 0 with
  | none => none
  | some k => some (((s.copyPlace r k).flatMap fun x => s.readLine r x.1 x.2).take ((((s.copiesAt r)[k]?).map fun e => e.2.2.2.2).getD 0))

/-- Every region's staging lines hold its share of a staged image beside the resident copies in force; from `IDLE`, the lines are those that the staged image declares, once its courses are all there to be read (R255). -/
def State.shareFits (s : State) (m : Memory) : Bool :=
  if s.run.st = .idle then
    match parseImage m with
    | none => true
    | some i => stagingFits i none
  else
    match s.cfg.image, headerOf m with
    | some o, some h => stagingFits (headerImage h) (some o)
    | _, _ => true

/-- A line is written unless it holds the bytes already. -/
def State.putExchange (s : State) (r bank line : Nat) (d : List Byte) : State := if s.readLine r bank line = d then s else s.writeExchange r bank line 0 d

/-- Every course copy is written into its lines: each region's load copy in its own column, the resident copies in their keepers', exchange lines with their deltas (R255, R338; log entry 139). -/
def State.writeCopies (s : State) : State :=
  (List.range 48).foldl (fun t r =>
    (List.range (s.copiesAt r).length).foldl (fun t k =>
      match (s.copiesAt r)[k]? with
      | none => t
      | some e =>
        let b := courseBytes (if e.1 then s.stg.bytes else s.cfg.bytes) e.2
        ((s.copyPlace r k).zip (List.range (copySpan e.2))).foldl (fun t x =>
          let d := (b.drop (2048 * x.2)).take 2048
          t.putExchange r x.1.1 x.1.2 (d ++ List.replicate (2048 - d.length) 0)) t) t) s

def State.check8 (s : State) (i : Image) : Bool :=
  i.regions.all (fun x =>
    x.2.runs.all (fun u => decide (u.bank < 896) && decide (u.first + u.count ≤ bankLines u.bank) && (!u.staging || decide (u.area = .exchange))) &&
    pairwise runsApart (x.2.runs.map runSpan) && x.2.lists.all fun l => l.all fun k => decide (k < x.2.runs.length)) &&
  decide ((i.step.getD {}).resGiB * gibLines ≤ runLines ((exRunsOf i).filter fun u => !u.staging)) && stagingFits i (if i.cold then none else s.cfg.image)

/-! Check 9: sheaves. -/

/-- Lines of a run that lie in runs of an area. -/
def linesWithin (rc : RegionCourse) (ok : Area → Bool) (m : Nat × Nat × Nat) : Nat :=
  rc.runs.foldl (fun n u => if ok u.area && u.bank = m.1 then n + (min (u.first + u.count) (m.2.1 + m.2.2) - max u.first m.2.1) else n) 0

/-- Members of every sheaf as region and run; the last flag marks the parity member. -/
def sheafMembers (i : Image) : List (Nat × (Nat × Nat × Nat) × Bool) :=
  i.regions.flatMap fun x => x.2.sheaves.flatMap fun h => (numbered h.members).map fun m => (m.1.1, (m.1.2.1, m.1.2.2, h.n), decide (m.2 = 7))

/-- Half-row of a region (R142). -/
def halfRow (r : Nat) : Nat := r / 8 * 2 + halfOf r

/-- A sheaf stands as R141 and R142 say. -/
def sheafOk (i : Image) (r : Nat) (h : Sheaf) : Bool :=
  let rs := h.members.map (·.1)
  let hr := rs.map halfRow
  let on := i.regions.map (·.1)
  decide (h.members.length = 8) && decide (1 ≤ h.n ∧ h.n ≤ 14043) && decide (rs.eraseDups.length = 8 ∧ hr.eraseDups.length = 8) && rs.all (fun x => on.contains x) &&
  decide ((rs.filter fun x => halfOf x = 0).length = 4) && decide ((h.members.getD 7 (99, 0, 0)).1 = r) &&
  (numbered h.members).all fun m =>
    decide (linesWithin (imgCourse i m.1.1) (if m.2 = 7 then (fun a => decide (a = .innerParity)) else sheafedData) (m.1.2.1, m.1.2.2, h.n) = h.n)

def check9 (i : Image) : Bool :=
  let ms := sheafMembers i
  let data : Nat := (ms.filter fun m => !m.2.2).foldl (fun (n : Nat) m => n + m.2.1.2.2) 0
  let lines : Nat := i.regions.foldl (fun (n : Nat) x => x.2.runs.foldl (fun n u => if sheafedData u.area then n + u.count else n) n) 0
  i.regions.all (fun x => x.2.sheaves.all (sheafOk i x.1)) && decide ((i.regions.foldl (fun n x => n + x.2.sheaves.length) 0) ≤ 1048576) &&
  pairwise (fun (a b : Nat × (Nat × Nat × Nat) × Bool) => decide (a.1 ≠ b.1) || runsApart a.2.1 b.2.1) ms && decide (data = lines)

/-! Checks 10 and 11: feed domains and queue ownership. -/

/-- Partners of the outer sheaves of an image. -/
def outerPartners (i : Image) : List Nat :=
  let l := i.link.getD {}
  (l.outer.flatMap fun o => o.parity :: o.data).filter fun m => !imgOwn i m

/-- Every partner's domain, of the outer sheaves and of the pairing that will be in force, is declared and is not the module's own (R295, R354). -/
def State.check10 (s : State) (i : Image) : Bool :=
  (outerPartners i ++ ((s.stg.partners.getD s.cfg.partners).map fun p => p.1.toNat)).all fun m => match s.cfg.domains.find? fun d => d.1.toNat = m with
    | none => false
    | some d => decide (d.2 ≠ 0) && decide (d.2 ≠ s.cfg.domain)

/-- No channel is declared in a standby region or twice, and no partner slot twice (R187). -/
def State.check11 (s : State) (i : Image) : Bool :=
  let m := i.mode.getD {}
  i.regions.all (fun x => x.2.dma.isEmpty || m.spare || (decide (s.imgPos x.1 ≠ m.sbw) && decide (s.imgPos x.1 ≠ m.sbe))) &&
  i.regions.all (fun x => let k := x.2.dma.map fun d => d.engine * 16 + d.channel; decide (k.eraseDups.length = k.length)) &&
  let sl := (i.link.getD {}).slots.map fun x => (x.1, x.2.1)
  decide (sl.eraseDups.length = sl.length)

/-! Check 12: the press. -/

/-- Lines of a copy: as many as the shard's, half for the working copy, each in the copy's area; a shard may name no run for any copy but the master (R140, Table 8.3; log entry 159). -/
def copyOk (rc : RegionCourse) (sh : Shard) (copy : Nat) : Bool :=
  match (sh.runs[copy]?).join with
  | none => decide (copy ≠ copyMaster)
  | some l =>
    let rs := lineRuns rc l
    decide (rs.foldl (fun n x => n + x.2.2) 0 = if copy = copyWorking then sh.nlines / 2 else sh.nlines) &&
    rs.all fun x => decide (linesWithin rc (fun a => decide (a = if copy = copyWorking then .working else if copy = copyBuffer then .stepLocal else .parameter)) x = x.2.2)

/-- Every line run of a shard, its header among them. -/
def shardRuns (rc : RegionCourse) (sh : Shard) : List (Nat × Nat × Nat) := (List.range 6).flatMap (copyRuns rc sh) ++ [(sh.hbank, sh.hline, 1)]

/-- Two lists of runs share no line. -/
def spansApart (a b : List (Nat × Nat × Nat)) : Bool := a.all fun x => b.all (runsApart x)

/-- Assembly windows of two shards overlap. -/
def windowsMeet (a b : Shard) : Bool := decide (a.abase < b.abase + b.nlines ∧ b.abase < a.abase + a.nlines)

/-- An operation that targets a master line is a whole-line reduce-add (R163). -/
def contribOk (i : Image) (x : Issue) : Bool :=
  if imgOwn i (gMod x.gaddr) && gSpace x.gaddr && x.q.op ≠ 1 then
    let l := x.lines
    let hit := (List.range l.2.2).any fun k => (shardAt i (gRegion x.gaddr) copyMaster l.1 (l.2.1 + k)).isSome
    !hit || (decide (x.q.op = 2) && decide (gOffset x.gaddr % 2048 = 0 ∧ x.targetBytes % 2048 = 0) &&
      (List.range l.2.2).all fun k => shardAt i (gRegion x.gaddr) copyMaster l.1 (l.2.1 + k) = shardAt i (gRegion x.gaddr) copyMaster l.1 l.2.1)
  else true

/-- Contributions of this module to each line of each shard: region, bank and line, each time one is sent. -/
def lineContribs (i : Image) (r bank line : Nat) : Nat :=
  (imgIssues i).foldl (fun n x =>
    let y := x.2.2
    let l := y.lines
    if (contribOf i y).isSome ∧ gRegion y.gaddr = r ∧ l.1 = bank ∧ l.2.1 ≤ line ∧ line < l.2.1 + l.2.2 then n + 1 else n) 0

/-- Other modules send contributions to this one: it has partner slots (log entry 77). -/
def hasSenders (i : Image) : Bool := !(i.link.getD {}).slots.isEmpty

/-- `NCONT` is the number of contributions to every line, or no less than this module's where other modules send some too (R162). -/
def ncontOk (i : Image) (r : Nat) (sh : Shard) : Bool :=
  (copyRuns (imgCourse i r) sh copyMaster).all fun x => (List.range x.2.2).all fun k =>
    let n := lineContribs i r x.1 (x.2.1 + k)
    if hasSenders i then decide (n ≤ sh.ncont) else decide (n = sh.ncont)

/-- Overlapping assembly windows are ordered by the earlier shard's free emits (R162). -/
def windowsOk (i : Image) (r : Nat) : Bool :=
  let l := numbered (imgShards i r)
  l.all fun a => l.all fun b => decide (b.2 ≤ a.2) || !windowsMeet a.1 b.1 || holdsContribs i (.frees r a.2) r b.2

def check12 (i : Image) : Bool :=
  let p := i.press.getD {}
  let arrival := !(i.mode.getD {}).updt
  (!arrival || (p.groups.all (fun g => decide (g.clip < 2) && !g.trscope) && !p.ls.lsen && p.regions.all fun x => windowsOk i x.lregion)) &&
  p.regions.all (fun x =>
    let rc := imgCourse i x.lregion
    x.shards.all (fun sh => (List.range 6).all (copyOk rc sh) && ncontOk i x.lregion sh) && pairwise (fun a b => spansApart (shardRuns rc a) (shardRuns rc b)) x.shards) &&
  (imgIssues i).all fun x => contribOk i x.2.2

/-! Check 13: DMA. -/

def check13 (i : Image) : Bool :=
  i.regions.all fun x => x.2.dma.all fun d => decide (d.dring * 64 + 64 * 2 ^ d.y ≤ sramSize) && decide (d.cring * 64 + 32 * 2 ^ d.y ≤ sramSize)

/-! Check 14: groups and links. -/

/-- The layout epoch that the configuration will have. -/
def State.newLayout (s : State) (i : Image) : Nat := if s.stg.full ∨ i.reshard then i.lepoch0 else s.cfg.layout.toNat

/-- Modules that the image's operations and flows address (R238). -/
def addressed (i : Image) : List Nat :=
  (((imgIssues i).map fun x => gMod x.2.2.gaddr) ++ (i.regions.flatMap fun x => x.2.flows.map (·.dmod)) ++ ((i.link.getD {}).relays.map (·.dmod))).eraseDups.filter fun m => !imgOwn i m

/-- Two reduces of different issuers bound for one line of another module carry different tokens (R286). -/
def reducesApart (i : Image) : Bool :=
  let rs := (imgIssues i).filter fun x => decide (2 ≤ x.2.2.q.op ∧ x.2.2.q.op ≤ 4) && !imgOwn i (gMod x.2.2.gaddr)
  rs.all fun a => rs.all fun b =>
    (decide (a.1 = b.1) && decide (a.2.1 = b.2.1) && decide (a.2.2.ctx = b.2.2.ctx)) || decide (a.2.2.q.ttok ≠ b.2.2.q.ttok) ||
    decide (gMod a.2.2.gaddr ≠ gMod b.2.2.gaddr ∨ gRegion a.2.2.gaddr ≠ gRegion b.2.2.gaddr ∨ gSpace a.2.2.gaddr ≠ gSpace b.2.2.gaddr) || runsApart a.2.2.lines b.2.2.lines

/-- A declared relay is a context that waits on its token and then puts one word with the target token (R208). -/
def relayOk (i : Image) (y : Relay) : Bool :=
  (courseOf (imgCourse i y.lregion) y.core).progs.any fun p => p.1 = y.ctx && p.2.any (fun x => x.tr.waits.any fun w => w.ctr = y.ctr) &&
    (traceOps p.2 p.1 traceFuel {}).any (relayPut y y.core)

def State.check14 (s : State) (i : Image) : Bool :=
  let l := i.link.getD {}
  let tensor := ((((l.lists.find? fun x => x.1 = 0).map (·.2)).getD []).filter fun m => !imgOwn i m).eraseDups
  let ep := s.newLayout i
  let eps := (l.routes.map (·.epoch)).eraseDups
  let known (h : Nat × Nat) : Bool := l.links.any fun k => k.engine = h.1 && k.link = h.2
  let names := l.routes.map fun x => (x.epoch, x.dmod)
  decide (tensor.length ≤ 3) && tensor.all (fun m => l.links.any (fun k => k.pmod = m)) &&
  tensor.all (fun m => l.routes.all fun t => decide (t.dmod ≠ m) || t.hops.all fun h => l.links.any fun k => k.engine = h.1 && k.link = h.2 && k.pmod = m) &&
  pairwise (fun (a b : LinkDecl) => decide (a.engine ≠ b.engine) || (decide (a.link ≠ b.link) && decide (a.tx &&& b.tx = 0) && decide (a.rx &&& b.rx = 0))) l.links &&
  l.routes.all (fun t => decide (1 ≤ t.hops.length) && t.hops.all known) && decide (names.eraseDups.length = names.length) && decide (eps.length ≤ l.held) &&
  eps.all (fun e => decide (e = ep ∨ (e + 1) % 2 ^ 32 = ep ∨ e = (ep + 1) % 2 ^ 32) && decide ((l.routes.filter fun t => t.epoch = e).length ≤ 4096)) &&
  (addressed i).all (fun m => l.routes.any (fun t => t.epoch = ep && t.dmod = m) && l.slots.any fun x => x.2.2 = m) && l.relays.all (relayOk i) && reducesApart i

/-! Check 15: layout-epoch continuity. -/

/-- A trailer without its wiring. -/
def plainTr (t : Trailer) : Trailer := { rep := t.rep }

/-- An instruction that is wiring alone. -/
def wiringOnly (i : CtxInstr) : Bool := match i.op with | .wait => true | .emit => true | _ => false

/-- A program without its wiring: positions and loop bodies count the instructions that are left. -/
def plainProg (l : List CtxInstr) : List CtxInstr :=
  (l.zip (List.range l.length)).filterMap fun x => match x.1.op with
    | .rmo q => some { op := .rmo { q with gaddr := 0, ttok := 0, ltok := 0, gstr := 0 } }
    | .wait => none
    | .emit => none
    | .loop n b => some { op := .loop n (((l.drop (x.2 + 1)).take b).countP fun i => !wiringOnly i) }
    | o => some { op := o }

/-- The micro-batch unit's position among the instructions left, and whether it is one of the wiring. -/
def plainUnit (rc : RegionCourse) (u : MbUnit) : MbUnit :=
  if u.kind = 0 then
    let l := (((courseOf rc u.core).progs.find? fun p => p.1 = u.index).map (·.2)).getD []
    { u with pos := 2 * ((l.take u.pos).countP fun i => !wiringOnly i) + b2n ((l[u.pos]?).any wiringOnly) }
  else u

/-- A region course without what a re-shard may replace in it: token wiring and global addresses (R215). -/
def plainCourse (rc : RegionCourse) : RegionCourse :=
  { rc with
    flows := rc.flows.map (fun f => { f with dmod := 0, dregion := 0, space := false, index := 0 }), orcCons := rc.orcCons.map (fun x => { x with ctr := 0 }), siCtrs := []
    mbUnits := rc.mbUnits.map (plainUnit rc)
    cores := rc.cores.map fun c => { c with
      counters := [], beats := c.beats.map (fun b => { b with etok := 0 })
      tiles := c.tiles.map (fun o => { o with tr := plainTr o.tr }), chains := c.chains.map (fun o => { o with tr := plainTr o.tr })
      progs := c.progs.map fun p => (p.1, plainProg p.2) } }

/-- A press course without its shard table, and a link course without its routes (R215). -/
def plainPress (p : PressCourse) : PressCourse := { p with regions := p.regions.map fun x => { x with shards := [] } }
def plainLink (l : LinkCourse) : LinkCourse := { l with routes := [] }

/-- A re-shard replaces only what R215 lets it. -/
def reshardOnly (old new_ : Image) : Bool :=
  decide (old.regions.map (·.1) = new_.regions.map (·.1)) && new_.regions.all (fun x => decide (plainCourse x.2 = plainCourse (imgCourse old x.1))) &&
  decide (plainPress (new_.press.getD {}) = plainPress (old.press.getD {})) && decide (plainLink (new_.link.getD {}) = plainLink (old.link.getD {}))

/-- Every destination line of a move is a parameter line that holds no shard of the old layout (R216). -/
def vacantOk (old new_ : Image) : Bool :=
  (movesOf (old.press.getD {}) old.regions (new_.press.getD {}) new_.regions).all fun m =>
    let rc := imgCourse new_ m.1
    match (imgShards new_ m.1)[m.2.1]? with
    | none => false
    | some sh =>
      let dst := [copyMaster, copyM, copyV, copyRipe].flatMap (copyRuns rc sh) ++ [(sh.hbank, sh.hline, 1)]
      dst.all (fun x => decide (linesWithin rc (fun a => decide (a = .parameter)) x = x.2.2)) &&
      (imgShards old m.1).all fun o => spansApart dst ([copyMaster, copyM, copyV, copyRipe].flatMap (copyRuns (imgCourse old m.1) o) ++ [(o.hbank, o.hline, 1)])

/-- Consumers of a moved shard's working copy and contributions to it wait on its ready token (R219). -/
def readyWired (old new_ : Image) : Bool :=
  (movesOf (old.press.getD {}) old.regions (new_.press.getD {}) new_.regions).all fun m =>
    holdsContribs new_ (.ready m.1 m.2.1) m.1 m.2.1 && holdsReads new_ (.ready m.1 m.2.1) m.1 m.2.1

/-- Shard tables of an image. -/
def shardTables (i : Image) : List (Nat × List Shard) := (i.press.getD {}).regions.map fun x => (x.lregion, x.shards)

def State.check15 (s : State) (i : Image) : Bool :=
  match s.cfg.image with
  | none => !i.reshard
  | some o =>
    if i.reshard then decide (i.lepoch0 = (s.cfg.layout.toNat + 1) % 2 ^ 32) && reshardOnly o i && vacantOk o i && readyWired o i
    else if i.cold then true
    else decide (i.lepoch0 = s.cfg.layout.toNat ∨ !s.stg.full) && decide (shardTables i = shardTables o)

/-! Check 16: mode compatibility. -/

/-- The standby of a half has been promoted under the map in force (R13). -/
def State.promoted (s : State) (half : Nat) : Bool := if half = 0 then s.flt.stbyW else s.flt.stbyE

/-- A standby name stands in its half, or is the retired region that the half's promoted standby replaced, in whichever half that stands; region 40 only if it is retired (R11, R13). -/
def State.standbyOk (s : State) (half b : Nat) : Bool :=
  decide (b < 48) && (decide (halfOf b = half) || (s.promoted half && (s.reg b).retired)) && (decide (b ≠ hostRegion) || (s.reg b).retired)

/-- The standby names of a mode course (R11). -/
def State.standbysOk (s : State) (m : ModeCourse) : Bool :=
  m.spare || (s.standbyOk 0 m.sbw && s.standbyOk 1 m.sbe && decide (m.sbw ≠ m.sbe))

/-- Regions in service agree with the mode course: every region that is not dark is held by a course, and none of them is retired (R13, R254, R292). -/
def State.regionsOk (s : State) (i : Image) (dark : List Nat) : Bool :=
  (List.range 48).all fun p => (i.regions.any fun x => decide (s.imgPos x.1 = p)) == !dark.contains p && (dark.contains p || !(s.reg p).retired)

/-- `OUTM` names retired regions alone, none of them a standby (R254). -/
def State.outOk (s : State) (m : ModeCourse) : Bool :=
  (List.range 48).all fun p => !bitAt m.outm p || ((s.reg p).retired && (m.spare || (decide (p ≠ m.sbw) && decide (p ≠ m.sbe))))

/-- The axes that a cold load alone may change (R403). -/
def coldAxes (a b : ModeCourse) : Bool := a.spare == b.spare && a.prot == b.prot && a.store == b.store && decide (a.diag = b.diag)

/-- A cold load from `IDLE` alone, a warm one elsewhere, store maps, `OUTM` and the cold-load-only axes unchanged (R254, R264, R403). -/
def State.coldOk (s : State) (i : Image) : Bool :=
  if s.run.st = .idle then i.cold && !i.reshard
  else
    !i.cold &&
    match s.cfg.image with
    | none => false
    | some o => i.regions.all (fun x => let c := imgCourse o x.1; decide (x.2.runs = c.runs) && decide (x.2.lists = c.lists) && decide (x.2.sheaves = c.sheaves)) &&
        decide ((i.mode.getD {}).outm = (o.mode.getD {}).outm) && coldAxes (i.mode.getD {}) (o.mode.getD {})

def State.check16 (s : State) (i : Image) : Bool :=
  let m := i.mode.getD {}
  let l := i.link.getD {}
  let dark := s.willBeDark i
  i.regions.all (fun x => x.2.cores.all fun c => c.tiles.all fun o => o.fmt == m.prec) &&
  s.standbysOk m && s.outOk m && s.regionsOk i dark &&
  decide (i.nreg + (List.range 48).countP (bitAt m.outm) = if m.spare then 48 else 46) &&
  (m.store == !(i.press.getD {}).tables.isEmpty) && (m.prot == !l.outer.isEmpty) && !(m.prot && decide (m.diag = 1)) && s.coldOk i &&
  decide (m.flow.length = 48) && (List.range 48).all fun p => decide (m.flow.getD p 0 ≤ m.frun.getD p 0)

/-! All checks. -/

/-- The first check that fails, 0 when all pass (R265). -/
def State.checkCode (s : State) : Nat :=
  if !s.check1 then 1
  else
    match s.mergedImage with
    | none => 1
    | some i =>
      if !check2 i then 2
      else if !check3 i then 3
      else if !check4 i then 4
      else if !check5 i then 5
      else if !s.check6 i then 6
      else if !s.check7 i then 7
      else if !s.check8 i then 8
      else if !check9 i then 9
      else if !s.check10 i then 10
      else if !s.check11 i then 11
      else if !check12 i then 12
      else if !check13 i then 13
      else if !s.check14 i then 14
      else if !s.check15 i then 15
      else if !s.check16 i then 16
      else 0

/-- What a passed check computes: the configuration to be in force, its region digests and its root (R267). -/
def State.stageChecked (s : State) (i : Image) : State :=
  s.onStg fun t => { t with
    st := .checked, code := 0, image := some i, imageBytes := if t.have_.isEmpty then s.cfg.bytes else match s.cfg.image with
      | some o => if i.reshard then mergeBytes o s.cfg.bytes t.bytes else t.bytes
      | none => t.bytes
    digests := (List.range 48).filterMap (fun n => (regionDigest i n).map fun d => (n, d)), root := configRoot i }

/-- IMAGE_CHECK_END (R261, R265): the check in hand ends, with the number of the first failure or the staged root. -/
def execImageCheckEnd (s : State) : Ans :=
  if s.stg.st = .checking then
    let code := s.checkCode
    let s := match s.mergedImage with
      | some i => if code = 0 then s.stageChecked i else s.onStg fun t => { t with st := .failed, code := code }
      | none => s.onStg fun t => { t with st := .failed, code := code }
    match s.run.check with
    | none => .next s
    | some h =>
      let s := s.onRun fun r => { r with check := none }
      if code = 0 then .next (s.complete h 0 0 (s.stg.root.setWidth 64) ((s.stg.root >>> 64).setWidth 64))
      else .next (s.complete h 0x07 (BitVec.ofNat 64 code) 0 0)
  else .next s

end Sys2Proof.Machine
end

