-- ==== Sys2Proof/Machine/HostQueue.lean ====
section
/-! DEFINITION. Host rings: creation and deletion, doorbells, header lines, completion entries and their interrupts (R185 to R192, R342, R343, R356, R357). -/

namespace Sys2Proof.Machine

/-- Completion queues by number (Table 9.3). -/
def isCq (h : Nat) : Bool := (decide (256 ≤ h) && decide (h < 512)) || (decide (512 ≤ h) && decide (h % 2 = 1))

/-- The queue that a queue is paired with (Table 9.3). -/
def pairOf (h : Nat) : Nat := if h < 256 then h + 256 else if h < 512 then h - 256 else if h % 2 = 0 then h + 1 else h - 1

/-- Fields of a queue's staging words (Table 9.6). -/
def HostQ.esz (q : HostQ) : Bool := bitAt q.stg.toNat 69
def HostQ.kind (q : HostQ) : Bool := bitAt q.stg.toNat 70
def HostQ.poll (q : HostQ) : Bool := bitAt q.stg.toNat 71
def HostQ.vec (q : HostQ) : Nat := fld q.stg.toNat 96 11
def HostQ.ien (q : HostQ) : Bool := bitAt q.stg.toNat 107
def HostQ.icoal (q : HostQ) : Nat := fld q.stg.toNat 108 8

/-- The staging words, 128 bits (Table 9.6). -/
def State.stagingWords (s : State) : BitVec 128 :=
  BitVec.ofNat 128 ((s.setting 0x5000).toNat + (s.setting 0x5004).toNat * 2 ^ 32 + (s.setting 0x5008).toNat * 2 ^ 64 + (s.setting 0x500C).toNat * 2 ^ 96)

/-- A reserved bit of the staging words is set, or a field that applies only to other queues (R189). -/
def stgReserved (h : Nat) (w : Nat) : Bool :=
  decide (fld w 72 24 ≠ 0) || decide (fld w 119 9 ≠ 0) || (decide (256 ≤ h) && decide (fld w 116 3 ≠ 0)) ||
  (if isCq h then bitAt w 71 else decide (fld w 96 20 ≠ 0))

/-- Result code of a create (Table 9.7, R189; log entry 54). -/
def State.createCode (s : State) (h : Nat) : Nat :=
  let w := s.stagingWords.toNat
  if (s.hq h).en then 1
  else if bitAt w 70 ≠ isCq h ∨ bitAt w 69 = isCq h then 2
  else if fld w 64 5 < 4 ∨ 16 < fld w 64 5 ∨ fld w 0 12 ≠ 0 then 3
  else if !isCq h && !(s.hq (pairOf h)).en then 4
  else if stgReserved h w then 5
  else 0

/-- What survives in a queue that is created or deleted: events that wait for queue 513 (R357). -/
def keepEvents (items : List CqItem) : List CqItem := items.filter fun x => match x with | .event _ => true | _ => false

/-- Create a queue from the staging words (R189). -/
def State.createQueue (s : State) (q : Nat) : State :=
  let code := s.createCode q
  let s := s.onBrg fun b => { b with hqCode := code }
  if code ≠ 0 then s
  else
    let w := s.stagingWords
    let s := s.onHq q fun x => { en := true, stg := w, items := keepEvents x.items }
    if q < 256 then s.onChan (bridgeBase + q) fun d => { epoch := d.epoch + 1 } else s

/-- HOST_QUEUE_CREATE (R189). -/
def execHostQueueCreate (q : Fin 32768) (s : State) : Ans := s.overLink (.hostQueueCreate q) fun s => .next (s.createQueue q)

/-- Delete a queue: a submission queue stops fetching at once; a bridge descriptor queue aborts its channel (R189). -/
def State.deleteQueue (s : State) (q : Nat) : State :=
  let code := if !(s.hq q).en then 1 else if isCq q && (s.hq (pairOf q)).en then 4 else 0
  let s := s.onBrg fun b => { b with hqCode := code }
  if code ≠ 0 then s
  else
    let s := if q < 256 then s.abortChan q else s
    s.onHq q fun x => { items := keepEvents x.items }

/-- HOST_QUEUE_DELETE (R189). -/
def execHostQueueDelete (q : Fin 32768) (s : State) : Ans := s.overLink (.hostQueueDelete q) fun s => .next (s.deleteQueue q)

/-! Doorbells (R190, R191). -/

/-- A refused doorbell write or header-line value (R190, R191). -/
def State.refuseIndex (s : State) (q : Nat) (v : U32) : State :=
  ((s.onHq q fun x => { x with derr := true }).onBrg fun b => { b with hqDerr := sat32 b.hqDerr 1 }).logHealth { cls := 0x76, sub := q % 65536, detail := v.toNat }

/-- A producer index in range: not backwards, and no more than 2^z entries (R190). -/
def HostQ.prodOk (q : HostQ) (v : U32) : Bool := decide ((v - q.host).toNat < 2 ^ 31) && decide ((v - q.dev).toNat ≤ 2 ^ q.z)

/-- A consumer index in range: not backwards, and not past the device's producer (R190). -/
def HostQ.consOk (q : HostQ) (v : U32) : Bool := decide ((v - q.host).toNat < 2 ^ 31) && decide ((v - q.host).toNat ≤ (q.dev - q.host).toNat)

/-- A producer doorbell: a submission queue in doorbell mode takes an index in range (R190). -/
def State.prodBell (s : State) (q : Nat) (v : U32) : State :=
  let x := s.hq q
  if x.en && !isCq q && !x.poll && x.prodOk v then s.onHq q fun x => { x with host := v } else s.refuseIndex q v

/-- A consumer doorbell: a completion queue takes an index in range (R190). -/
def State.consBell (s : State) (q : Nat) (v : U32) : State :=
  let x := s.hq q
  if x.en && isCq q && x.consOk v then s.onHq q fun x => { x with host := v } else s.refuseIndex q v

/-- DB_PROD (R190). -/
def execDbProd (q : Fin 32768) (v : U32) (s : State) : Ans := s.overLink (.dbProd q v) fun s => .next (s.prodBell q v)

/-- DB_CONS (R190). -/
def execDbCons (q : Fin 32768) (v : U32) (s : State) : Ans := s.overLink (.dbCons q v) fun s => .next (s.consBell q v)

/-- HEADER_LINE_REREAD (R191): in poll mode the producer index comes from bytes 0 to 3 of the header line; a value out of range is refused. -/
def execHeaderLineReread (q : Fin 32768) (s : State) : Ans :=
  let x := s.hq q
  if x.en && !isCq q && x.poll && !s.brg.linkDown then
    let v : U32 := BitVec.ofNat 32 (leNat (s.readHost x.base 4))
    if x.prodOk v then .next (s.onHq q fun x => { x with host := v }) else .next (s.refuseIndex q v)
  else .next s

/-! Completion entries (R192). -/

/-- `DB_STATE.FULLW`: the completion ring is full and its producer stalls: an entry waits, the bridge channel's descriptor has ended, or the command queue has an entry to be fetched (R192, Table 9.5). -/
def State.fullw (s : State) (q : Nat) : Bool :=
  let x := s.hq q
  let y := s.hq (pairOf q)
  x.en && isCq q && x.full &&
  (!x.items.isEmpty ||
   if q < 512 then (match (s.chan (bridgeBase + pairOf q)).cur with | none => false | some d => s.descEnded (bridgeBase + pairOf q) d)
   else y.en && decide (y.host ≠ y.dev))

/-- Words of a command's or an event's completion entry (Table 15.4). -/
def cqBytes (cid : U16) (status : Byte) (phase evt : Bool) (sqid : U16) (res0 res1 res2 : Nat) : List Byte :=
  leBytes 2 cid.toNat ++ leBytes 1 status.toNat ++ leBytes 1 (b2n phase + 2 * b2n evt) ++ leBytes 2 sqid.toNat ++ leBytes 2 0 ++
    leBytes 8 res0 ++ leBytes 8 res1 ++ leBytes 8 res2

/-- Bytes of an item as an entry with a phase bit; an event's fields are those pending (R356, R357). -/
def State.itemBytes (s : State) (x : CqItem) (phase : Bool) : List Byte :=
  match x with
  | .cmd cid st sq a b c => cqBytes cid st phase false sq a.toNat b.toNat c.toNat
  | .event code =>
    let e := s.run.events.get {} code
    cqBytes 0xFFFF (BitVec.ofNat 8 code) phase true 0 e.res0.toNat e.res1.toNat (e.merged % 2 ^ 32)
  | .dma t st u cs dn ix _ _ => dmaEntryBytes t st u cs dn ix phase

/-- An entry of queue `q` has been written: an event is pending no more; a DMA completion's emits are sent, and then its descriptor slot is free (R201, R357). -/
def State.itemWritten (s : State) (q : Nat) (x : CqItem) : State :=
  match x with
  | .event code => s.onRun fun r => { r with events := r.events.erase code }
  | .dma _ _ _ _ _ _ es slot => if slot then (s.sendEmits es).onHq (pairOf q) fun y => { y with dev := y.dev + 1 } else s.sendEmits es
  | .cmd _ _ _ _ _ _ => s

/-- Send the interrupt that a completion queue owes (R192). -/
def State.sendMsix (s : State) (q : Nat) : State := (s.emitOut (.msix (s.hq q).vec)).onHq q fun x => { x with unsig := 0 }

/-- COMPLETION_ENTRY_WRITE (R192): the oldest waiting entry is written with its phase bit, unless the ring is full; an interrupt follows every `ICOAL` + 1 entries. -/
def execCompletionEntryWrite (q : Fin 32768) (s : State) : Ans :=
  let x := s.hq q
  if !x.en || !isCq q || s.brg.linkDown then .next s
  else
    match x.items with
    | [] => .next s
    | i :: rest =>
      if x.full then .next s
      else
        let n := x.dev.toNat
        let s := s.writeHost (x.base + 64 + n % 2 ^ x.z * 32) (s.itemBytes i (phaseOf n x.z))
        let s := (s.onHq q fun x => { x with dev := x.dev + 1, items := rest, unsig := x.unsig + 1 }).itemWritten q i
        .next (if x.ien && decide (x.icoal + 1 ≤ x.unsig + 1) then s.sendMsix q else s)

/-- MSI_X_COALESCE_TIMEOUT (R192): 10 µs after the oldest completion without a message, the message is sent. -/
def execMsiXCoalesceTimeout (q : Fin 32768) (s : State) : Ans :=
  let x := s.hq q
  if x.en && isCq q && x.ien && decide (0 < x.unsig) then .next (s.sendMsix q) else .next s

end Sys2Proof.Machine
end

