-- ==== Sys2Proof/Machine/Reset.lean ====
section
/-! DEFINITION. Resets: the partial reset of the compute tier, and the loss of everything but non-volatile state (R43, R189, R292, R312, R321, R326, R329, R346, R369, R390, R394). -/

namespace Sys2Proof.Machine

/-! Partial reset (R329, Table 14.10). -/

/-- An address of a bridge descriptor outlasts the reset: host memory, or an exchange line of this module (Table 14.10; log entry 97). -/
def State.addrKept (s : State) (host : Bool) (a : U64) : Bool :=
  host || (gSpace a && s.isOwn (gMod a) && decide (areaOf (s.course (gRegion a)) (gIndex a) (gOffset a / 2048) = .exchange))

/-- A bridge descriptor is addressed to a global address that the reset loses. -/
def State.descLost (s : State) (x : Desc) : Bool := !(s.addrKept x.srcHost x.src && s.addrKept x.dstHost x.dst)

/-- The descriptor in hand starts over with the checksum it began with, its packets on the slab being gone (log entry 97). -/
def DmaSt.restart (d : DmaSt) (x : Desc) : DmaSt :=
  { d with asked := 0, moved := 0, acked := 0, sentPk := 0, buf := [], reads := [], acks := [], hostAcks := 0, epoch := d.epoch + 1, hold := [], moving := false, turn := 0, mover := false
           refused := 0, crc := if x.cseed then d.crc0 else 0xFFFFFFFF, sum := if x.cseed then d.sum0 else 0 }

/-- Bridge channels: a descriptor in hand that is lost ends with status 0x06, as each fetched one will in its turn; another starts over. -/
def State.resetBridge (s : State) : State :=
  (List.range 256).foldl (fun s c =>
    let k := bridgeBase + c
    let q := (s.chan k).queue.map fun x => { x with lost := x.lost || s.descLost x }
    let s := if q = (s.chan k).queue then s else s.onChan k fun d => { d with queue := q }
    match (s.chan k).cur with
    | some x => if s.descLost x then (s.onChan k fun d => { d with buf := [], reads := [], acks := [], acked := d.sentPk, hostAcks := 0 }).endChan k 6 else s.onChan k fun d => d.restart x
    | none => s) s

/-- The map is not the identity over the logical regions it holds (R13). -/
def State.mapMoved (s : State) : Bool := s.cfg.map.any fun x => decide (x.2 ≠ none) && decide (x.2 ≠ some x.1)

/-- A region after the reset: powered unless retired, its clock stopped, its beat counter zero, no beat granted, no count of an abandoned step (R64, R109, R326, R329). -/
def RegionSt.idle (g : RegionSt) : RegionSt :=
  { g with powered := !g.retired, clockOn := false, lock := false, kNext := none, beat := 0, grant := 0, cfg := [], counts := [] }

/-- Transport streams close; engines hold no packet (R244, R329). -/
def EngineSt.closeStreams (x : EngineSt) : EngineSt := { x with tx := [], rx := [], acks := [], arrived := [], toSlab := [] }

/-- What a reset leaves of fault absorption: fences, counts, meter-time offsets and feed correlation (R295, R296, R329). -/
def FaultSt.idle (f : FaultSt) : FaultSt :=
  { logOvf := f.logOvf, replays := f.replays, rmis := f.rmis, coinc := f.coinc, corr := f.corr, offsets := f.offsets, echoes := f.echoes
    partnerSags := f.partnerSags, lastSag := f.lastSag, fences := f.fences, dead := f.dead, mgmtOk := f.mgmtOk, closed := f.closed }

/-- A pending guard pair is discarded with `CODE` 3 (R369). -/
def GuardSt.drop (g : GuardSt) : GuardSt :=
  match g.pending with
  | none => g
  | some (w, _) => { pending := none, code := 3, guard := match w with | .fence => 0 | .rpwr => 1 | .promo => 2, fresh := true }

/-- No configuration is in force: epochs, partners, domains and link declarations stay, and the map is the identity (R13, R329). -/
def ConfigSt.idle (c : ConfigSt) : ConfigSt :=
  { map := c.map.map fun x => (x.1, x.2.map fun _ => x.1)
    epoch := c.epoch, xep := c.xep, load := c.load, layout := c.layout, fwd := c.fwd, stale := c.stale, miss := c.miss, moved := c.moved
    links := c.links, linkMod := c.linkMod, partners := c.partners, domain := c.domain, domains := c.domains }

/-- The run state after the reset: the step counter and the completion state stay. -/
def RunSt.idle (r : RunSt) : RunSt :=
  { limit := r.limit, step := r.step, events := r.events, merged := r.merged, skipped := r.skipped, prog := r.prog, laneQ := r.laneQ, rr := r.rr
    lastRead := r.lastRead, readOk := r.readOk, lastWindow := r.lastWindow }

/-- The press state of the control die: its counts stay. -/
def PressSt.idle (p : PressSt) : PressSt :=
  { skip := p.skip, nfShard := p.nfShard, excess := p.excess, normTo := p.normTo, skips := p.skips, upd := p.upd, excessCount := p.excessCount, asmHi := p.asmHi }

/-- The numeric ring stays; holds and summaries end (R43). -/
def NumSt.idle (n : NumSt) : NumSt :=
  { n with held := false, hold := none, holdNumeric := false, summary := 0, gnf := false, top := 0, heard := [], done := [] }

/-- The commands in hand that a `COMPUTE_RESET` ends: all but an arm whose application has begun (R346). -/
def State.commandsInHand (s : State) : List CmdHdr :=
  s.run.laneQ.map (·.h) ++ s.run.holds.map (·.1) ++ s.run.feeds.map (·.1) ++ s.run.check.toList ++ s.run.resetCmd.toList

/-- `COMPUTE_RESET` ends every command in execution or in the lane with status 0x05 (R346). -/
def State.endCommands (s : State) : State :=
  let go := s.commandsInHand
  let s := s.onRun fun r => { r with laneQ := [], holds := [], feeds := [], check := none, resetCmd := none }
  go.foldl (fun s h => s.done0 h 5) s

/-- What a reset clears of the cores, the presses, the batten network, the configuration and the streams (Table 14.10). -/
def State.clearCompute (s : State) : State :=
  { s with
    cores := [], lregions := [], bat := {}, stg := { decl := s.stg.decl }
    dma := s.dma.filter fun x => !isRegionChan x.1
    eng := mapTab {} (·.closeStreams) s.eng
    flt := s.flt.idle, grd := s.grd.drop, cfg := s.cfg.idle, run := s.run.idle, prs := s.prs.idle, num := s.num.idle }

/-- Every region idles: its clock stopped, powered unless retired. -/
def State.idleRegions (s : State) : State := (List.range 48).foldl (fun s p => s.onReg p (·.idle)) s

/-- Router buffers, reservoir slots and fills in hand are emptied, and routes recomputed. -/
def State.clearTraffic (s : State) : State :=
  (((s.onOrc fun o => { o with fills := [] }).onStore fun t => { t with slots := [], degr := false }).onNet fun n => { n with routers := [], told := [] }).recomputeRoutes

/-- The partial reset of the compute tier; a map that returns to the identity is logged (R13, R329). -/
def State.computeReset (s : State) : State :=
  let t := s.applyGathered.resetBridge.clearCompute.idleRegions.clearTraffic
  if s.mapMoved then t.logHealth { cls := 0x70 } else t

/-! Loss of everything but non-volatile state. -/

/-- What survives a reset through `MOD_RST_N` and a power loss: the health log, flash and its wear, keys, the meter and its mirror, the fuse map, the outside world, and what waits to happen (R153, R301, R321, R390, R394). A relocated map goes with the rest and writes no class 0x70 record: R13 logs a move and does not say whether this loss is one (log entry 132). -/
def State.volatileLost (s : State) : State :=
  { State.reset with
    pending := s.pending, free := s.free, host := s.host, out := s.out, log := s.log, meter := s.meter
    orc := { flash := s.orc.flash, life := s.orc.life, worn := s.orc.worn, die := s.orc.die, lostDies := s.orc.lostDies, written := s.orc.written, wear := s.orc.wear.map fun x => (0, x.2) }
    keys := { s.keys with vimg := false, used := false }
    mir := { recs := s.mir.recs, newest := s.mir.newest, stopFull := s.mir.stopFull, frames := s.mir.frames }
    grd := if s.grd.pending.isSome then s.grd.drop else {}
    pwr := { pwrEn := s.pwr.pwrEn, inletOk := s.pwr.inletOk, mv := s.pwr.mv, watts := s.pwr.watts, fuse := s.pwr.fuse, standby := s.pwr.standby } }

/-- Bring-up starts at its first stage once `PWR_EN` is high, the inlet in range and `MOD_RST_N` high; control-die time starts with it (R320, R321, R324). -/
def State.startBringUp (s : State) : State :=
  if s.pwr.pwrEn && s.pwr.inletOk && !s.pwr.rstLow && decide (s.pwr.stage = 0) then { s.onPwr fun p => { p with stage := 1 } with time := 0 } else s

/-- The class of a health record that Table 13.10 gives no code: an open value (log entry 95). -/
def State.openClass (s : State) (detail : Nat) : State :=
  let (v, s) := s.fresh
  s.logHealth { cls := v % 256, detail := detail }

/-- ORDERLY_QUIESCE (R312, Table 14.5): the alert is raised, the final health record is written, and every rail goes off; dirty cached orchard rows are not written. -/
def State.quiesceNow (s : State) : State := ((s.emitOut .quiesceAlert).openClass s.pwr.mv.toNat).volatileLost

end Sys2Proof.Machine
end

