-- ==== Sys2Proof/Machine/Apply.lean ====
section
/-! DEFINITION. Applying the staged set: the apply token, the load of each region and the go token (R11, R13, R44, R63, R95, R143, R176, R214, R256, R263, R304, R326, R349, R354, R365, R389). -/

namespace Sys2Proof.Machine

/-- The apply token is the commit token of its step: it latches the counts of the step that has ended, unless they are latched already: by an earlier application at this boundary, by its commit token, or, where a re-entry arm has abandoned the step in hand, at the boundary before it (R64, R263, R270). -/
def State.applyLatch (s : State) (r : Nat) : State :=
  match s.phys r with
  | none => s
  | some p => if s.run.st = .idle then s else (if s.run.rerun || (s.lreg r).counted || (s.lreg r).active then s else s.latchCounts p).onLreg r fun l => { l with counted := true }

/-- APPLY_TOKEN (R263): the region takes the new courses from its load copy. -/
def execApplyToken (r : Region) (s : State) : Ans :=
  if s.stg.applying ∧ s.stg.applyToks.contains r.val then
    .next ((s.applyLatch r).onStg fun t => { t with applyToks := t.applyToks.filter (· ≠ r.val), loading := t.loading ++ [r.val] })
  else .next s

/-- The region course that an application loads into region `r`: what its load copy holds, or, from `IDLE`, whose staging lines the image itself declares, the staged course (R255, R256). -/
def State.loadedCourse (s : State) (r : Nat) : Option (List Byte) :=
  if s.run.st = .idle then (headerOf s.stg.bytes).bind fun h => (h.table.find? fun e => e.1 = 2 && e.2.1 = r).map (courseBytes s.stg.bytes)
  else s.readCopy r (!s.stg.have_.isEmpty) 2 r

/-- What region `r` has loaded matches the digest of its course: as it arrived, and as its copy holds it (R256, R257). -/
def State.digestMatches (s : State) (r : Nat) (i : Option Image) (b : Option (List Byte)) (arrived : Bool) : Bool :=
  arrived && (match b, i.bind fun i => courseDigest i 2 r with
    | some b, some d => decide (digest64 b = d)
    | _, _ => true)

/-- A core's program slots are filled by its load, with a content whose layout the manual leaves open (R256; log entry 139). -/
def State.loadSlots (s : State) (r : Nat) (c : CoreCourse) : State :=
  c.slots.foldl (fun s k => let (d, s) := s.foreignLine; s.writeSram r c.core (k * 2048) d) s

/-- A region's digest does not match what it loaded: a region fault (R256). -/
def State.loadFault (s : State) (r : Nat) : State :=
  match if s.run.st = .idle then some r else s.phys r with
  | none => s
  | some p => if h : p < 48 then s.report { kind := .region ⟨p, h⟩ 0x12 } else s

/-- REGION_LOAD_COMPLETE (R256): the region reports done, for an application with what it loaded from its load copy, in a promoted standby from its keeper's resident copy (R257); a digest mismatch is a region fault. The operand says whether the course arrived as its copy holds it. -/
def execRegionLoadComplete (r : Region) (digestOk : Bool) (s : State) : Ans :=
  if s.stg.applying ∧ s.stg.loading.contains r.val then
    if s.digestMatches r s.stg.image (s.loadedCourse r) digestOk then .next (s.onStg fun t => { t with loading := t.loading.filter (· ≠ r.val) }) else .next (s.loadFault r)
  else if s.flt.promos.any fun x => x.lregion = r.val && x.on && !x.courseOk then
    if s.digestMatches r s.cfg.image (s.cfg.image.bind fun i => s.readCopy (keeperOf i r) false 2 r) digestOk then
      let s := (s.course r).cores.foldl (fun s c => s.loadSlots r c) s
      .next (s.onFlt fun f => { f with promos := f.promos.map fun x => if x.lregion = r.val ∧ x.on then { x with courseOk := true } else x })
    else .next (s.loadFault r)
  else .next s

/-! What a new epoch sets. -/

/-- Program slots, counters, contexts and firings of one core at the start of an epoch (R95, R256). -/
def State.startCore (s : State) (r : Nat) (c : CoreCourse) : State :=
  (s.loadSlots r c).onCore r c.core fun x => { x.newStep with
    ctrs := (c.counters.zip (List.range c.counters.length)).foldl (fun (t : Tab Nat) y => t.set 0 y.2 y.1.1) [], arrivals := [] }

/-- Store-interface counters and channels of a region at the start of an epoch (R95, R194; log entry 69). -/
def State.startRegion (s : State) (r : Nat) (rc : RegionCourse) : State :=
  let s := rc.cores.foldl (fun s c => s.startCore r c) s
  let s := s.onLreg r fun l => { l.newStep with
    active := false
    replayTo := if s.run.rerun then l.replayTo else 0
    ctrs := rc.siCtrs.foldl (fun (t : Tab Nat) x => t.set 0 x.1 x.2.2) []
    report := if s.run.rerun && s.prs.sent then l.report else none }
  let s := (List.range 128).foldl (fun s i => s.onChan (r * 128 + i) fun _ => {}) s
  rc.dma.foldl (fun s d => s.onChan (r * 128 + d.engine * 16 + d.channel) fun x => { x with ctrs := x.ctrs.set 0 6 (2 ^ d.y) }) s

/-- Clocks of the regions in service at their `FRUN`; one whose clock starts or changes relocks (R304, R305, R326). -/
def State.startClocks (s : State) (mc : ModeCourse) : State :=
  s.serviceRegions.foldl (fun s r =>
    match s.phys r with
    | none => s
    | some p =>
      let k := mc.frun.getD r 0
      (s.onReg p fun g => { g with k := k, kNext := none, clockOn := true, lock := g.lock && g.clockOn && decide (g.k = k) }).putActive (rgnBase p + 0x20C0) (BitVec.ofNat 32 k)) s

/-- Registers that the mode course and the layout epoch set at the start of an epoch (R44, R63, R105, R365, R404). -/
def State.modeSettings (s : State) (mc : ModeCourse) : State :=
  let s := s.putActive 0x4000 (BitVec.ofNat 32 (b2n mc.trap + mc.tmask * 2 + b2n mc.gradOnly * 32))
  let s := s.putActive 0x02200000 (if mc.rchk then 1 else 0)
  s.serviceRegions.foldl (fun s r =>
    match s.phys r with
    | none => s
    | some p => (s.putActive (rgnBase p + 0x2000) (if mc.back then 1 else 0)).putActive (rgnBase p + 0x2034) s.cfg.layout) s

/-- The registers that the settings record and the staged `EPOCH` writes set (R365; log entry 70). -/
def State.epochSettings (s : State) (l : List (Nat × U32)) (w : List Pending) : State :=
  let s := l.foldl (fun s x => s.putActive x.1 x.2) s
  w.foldl (fun s x => s.putActive x.addr x.value) s

/-- The region map of a cold load: identity over the regions in service; a change is logged (R13). -/
def State.identityMap (s : State) : State :=
  let old := s.cfg.map
  let moved := old.any fun x => decide (x.2 ≠ none) && decide (x.2 ≠ some x.1)
  let s := s.onCfg fun c => { c with map := s.serviceRegions.foldl (fun (t : Tab (Option Nat)) r => t.set none r (some r)) [] }
  if moved then s.logHealth { cls := 0x70 } else s

/-- A region is switched off. -/
def State.switchOff (s : State) (p : Nat) : State := s.onReg p fun g => { g with powered := false, clockOn := false, lock := false }

/-- Standby and out-of-service regions are dark from the application on (R11, R254, R326). -/
def State.darkenSpares (s : State) (mc : ModeCourse) : State :=
  let s := if mc.spare then s else (s.switchOff mc.sbw).switchOff mc.sbe
  (List.range 48).foldl (fun s p => if bitAt mc.outm p then s.switchOff p else s) s

/-- Half's standby, if the mode has one and it is working: named, not retired, not promoted (R11, R292). -/
def State.standbyOf (s : State) (half : Nat) : Option Nat :=
  let mc := s.modeCourse
  let b := if half = 0 then mc.sbw else mc.sbe
  if mc.spare || (s.reg b).retired || (if half = 0 then s.flt.stbyW else s.flt.stbyE) then none else some b

/-- The standby that takes over a lost region: the named half's for a guarded promotion, else the own half's, else the other's (R288, R370). -/
def State.pickStandby (s : State) (p : Nat) (half : Option Nat) : Option Nat :=
  match half with
  | some h => s.standbyOf h
  | none =>
    match s.standbyOf (halfOf p) with
    | some b => some b
    | none => s.standbyOf (1 - halfOf p)

/-- The promoted standby shares a half-row with another member of a sheaf of the region, or its half then holds five (R142, R143). -/
def State.weakened (s : State) (r b : Nat) : Bool :=
  s.sheaves.any fun h => h.members.any (fun m => m.1 = r) &&
    (let others := (h.members.filter fun m => m.1 ≠ r).map fun m => (s.phys m.1).getD m.1
     others.any (fun p => p / 4 = b / 4) || decide (4 < 1 + (others.filter fun p => halfOf p = halfOf b).length))

/-- A region in service that was lost in phase 1 of a cold load is relocated: a standby, powered, takes its logical number (R263; log entry 173). -/
def State.coldRelocate (s : State) : State :=
  s.serviceRegions.foldl (fun s r =>
    if (s.reg r).retired then
      match s.pickStandby r none with
      | none => s
      | some b =>
        let s := (s.onReg b fun g => { g with powered := true }).onCfg fun c => { c with map := c.map.set none r (some b) }
        let s := (s.onFlt fun f => { f with stbyW := f.stbyW || decide (halfOf b = 0), stbyE := f.stbyE || decide (halfOf b = 1) }).logHealth { cls := 0x70, pregion := b, lregion := r, detail := r }
        if s.weakened r b then (s.onStore fun t => { t with place := true }).logHealth { cls := 0x16, pregion := b, lregion := r } else s
    else s) s

/-- A region in service is still mapped to a retired one: no standby was left for it (R263, R298). -/
def State.unmapped (s : State) : Bool := s.serviceRegions.any fun r => match s.phys r with | none => false | some p => (s.reg p).retired

/-- What a cold load begins with: no reservoir slot in use, no orchard row cached, no spare promoted but for a region lost while the load was under way (R264, R263, R297, R143). -/
def State.coldStart (s : State) (i : Image) : State :=
  let s := s.identityMap.darkenSpares (i.mode.getD {})
  let s := s.onStore fun t => { t with slots := [], place := false, degr := false }
  let s := s.onOrc fun o => { o with cache := [], fills := [] }
  let s := s.onPrs fun p => { p with fps := [], waitFp := [], round2 := [], mism := [], recs := [], nextRecs := [] }
  let s := s.onFlt fun f => { f with promos := [], chains := [], rebuilt := [], exh := false, image := false, partner := false, stbyW := false, stbyE := false, outerDue := [] }
  let s := s.coldRelocate
  s.onRun fun r => { r with st := .stopped, hcause := 0, atStep := true, step := BitVec.ofNat 64 i.step0 }

/-- Partners staged by `PARTNER_SET` come into force; the correlated level is cleared (R354). -/
def State.takePartners (s : State) : State :=
  match s.stg.partners with
  | none => s
  | some l => (s.onCfg fun c => { c with partners := l }).onFlt fun f => { f with corr := false, coinc := [], offsets := [], partnerSags := [] }

/-- The new image, epoch, root, digests and layout come into force; the old tables of a re-shard are retained and its moves begin, pending moves of an earlier one abandoned (R214, R216, R220, R222, R263). -/
def State.takeConfig (s : State) (i : Image) : State :=
  let t := s.stg
  let old := s.cfg
  let oi := old.image.getD {}
  let moves := if t.reshard then movesOf (oi.press.getD {}) oi.regions (i.press.getD {}) i.regions else if t.full then [] else old.moves
  s.onCfg fun c => { c with
    image := some i, bytes := t.imageBytes, epoch := t.e, root := t.root, digests := t.digests
    load := (s.time - t.applyAt).toNat
    layout := if t.reshard then c.layout + 1 else if t.full then BitVec.ofNat 32 i.lepoch0 else c.layout
    moves := moves, readySent := []
    oldPress := if t.reshard then oi.press else if t.full then none else c.oldPress
    oldRegions := if t.reshard then oi.regions else if t.full then [] else c.oldRegions
    oldRoutes := if t.reshard then (oi.link.getD {}).routes else if t.full then [] else c.oldRoutes }

/-- The scale exponent of an image load (R176). -/
def State.loadScale (s : State) (i : Image) : State :=
  let c := (i.press.getD {}).ls
  s.onPrs fun p => { p with exp := if c.lsen then c.e0 else 0, clean := 0 }

/-- The marker of an epoch, sent to the meter three times (R389). -/
def State.sendMarker (s : State) : State :=
  let m : Marker := { epoch := s.cfg.epoch, root := s.cfg.root.setWidth 192, step := s.run.step }
  s.onMir fun x => { x with markers := x.markers ++ [m, m, m] }

/-- The arm that is applied at once completes after the go token (R349). -/
def State.completeArm (s : State) : State :=
  match s.run.armed with
  | none => s
  | some h =>
    let s := s.onRun fun r => { r with armed := none }
    s.done0 h 0

/-- Contributions that the inbound logs hold enter the slab again at re-entry (R285). -/
def State.releaseContributions (s : State) : State :=
  let go := s.flt.relog.filter fun x => !x.sent && s.isContribution x.p
  let s := s.onFlt fun f => { f with relog := f.relog.filter fun x => !go.contains x }
  go.foldl (fun s x => s.enterSlab x.e x.p) s

/-- Every partner's log is released as far as its first sent identity (R285). -/
def State.releaseLogs (s : State) : State := (s.flt.relog.map (·.m)).eraseDups.foldl (fun s m => s.releaseLog m (s.flt.relog.length + 1)) s

/-- The reset that waited is performed, and its command completes unless it has timed out (R345, R346). -/
def State.resetNow (s : State) : State :=
  let h := s.run.resetCmd
  let s := ((s.onRun fun r => { r with resetAsked := false, resetCmd := none }).endCommands).computeReset
  match h with
  | none => s
  | some h => s.done0 h 0

/-- Go on from the boundary; a step that a re-entry arm abandoned and that begins again releases its inbound logs (R270, R285). -/
def State.advanceAgain (s : State) : State :=
  let s := s.advance
  if s.run.rerun && s.run.inStep then s.releaseContributions.releaseLogs else s

/-- A `COMPUTE_RESET` that waited for the application to complete is performed now (R346); else the module goes on from the commit point of the boundary as it now is (R279). -/
def State.afterApply (s : State) : State :=
  if s.run.resetAsked then s.resetNow
  else (if s.snapStands then s else s.boundarySnap).advanceAgain

/-- The staged set is empty again; its disagreement and an unread declined arm stay (Table 12.10, R367). -/
def State.emptyStage (s : State) : State := s.onStg fun t => { disag := t.disag, decl := t.decl }

/-- What applying an image does at the go token. -/
def State.applyImage (s : State) (i : Image) (cold : Bool) : State :=
  let s := s.dropStaged
  let s := s.takeConfig i
  let s := if cold then s.coldStart i else s
  let s := i.regions.foldl (fun s x => s.startRegion x.1 x.2) s
  let mc := i.mode.getD {}
  let s := ((s.startClocks mc).modeSettings mc).epochSettings i.settings s.stg.writes
  let s := s.takePartners.onRun fun r => { r with prog := [] }
  let s := if s.stg.full then s.loadScale i else s
  let s := (s.declareLinks (i.link.getD {})).recomputeRoutes
  let wait := (cold || mc.diag = 1) && !(i.link.getD {}).links.isEmpty
  s.onCfg fun c => { c with topoWait := wait, topoOk := !wait && (c.topoOk || cold || mc.diag = 1) }

/-- GO_TOKEN (R263): with every region loaded, the new epoch begins; held packets are released, the marker leaves, event 0x03 is posted, and the module goes on from the boundary. -/
def execGoToken (s : State) : Ans :=
  if s.stg.applying ∧ s.stg.applyToks.isEmpty ∧ s.stg.loading.isEmpty ∧ s.flt.phase = .none then
    match s.stg.image with
    | none => .next s.emptyStage
    | some i =>
      let cold := decide (s.run.st = .idle)
      let moved := s.stg.reshard
      let s := (s.applyImage i cold).emptyStage.writeCopies
      let s := (s.releaseHeld.sendMarker).event 3 (BitVec.ofNat 64 s.cfg.epoch.toNat)
      let s := if moved && s.cfg.moves.isEmpty then (s.onCfg fun c => { c with rsDone := true }).event 5 (BitVec.ofNat 64 s.cfg.layout.toNat) else s
      let s := (if s.net.unroutable.isEmpty && !(cold && s.unmapped) then s else s.sparesExhausted).onFlt fun f => { f with needLoad := false }
      .next s.completeArm.afterApply
  else .next s

end Sys2Proof.Machine
end

