-- ==== Sys2Proof/Machine/Beacon.lean ====
section
/-! DEFINITION. Beacons of Hezin links: sent, compared and missed, and the disagreement of configuration epochs they show (R246, R269). -/

namespace Sys2Proof.Machine

/-- A link that carries beacons (Table 11.3). -/
def State.beaconing (s : State) (e j : Nat) : Bool := (s.link e j).st = .up || (s.link e j).st = .mismatch

/-- `FLAGS` of a beacon: held by a numeric trap, absorbing a fault, correlated (Table 11.7, R281). -/
def State.beaconFlags (s : State) : Byte :=
  BitVec.ofNat 8 (b2n (s.num.held && s.num.holdNumeric) + 2 * b2n (decide (s.flt.phase ≠ .none) || s.flt.replaying) + 4 * b2n s.flt.corr)

/-- The beacon of an engine (Table 11.7). -/
def State.beaconOf (s : State) (e : Nat) : Beacon where
  step := s.run.step
  cepoch := s.cfg.epoch
  lepoch := s.cfg.layout
  mod := BitVec.ofNat 16 s.cfg.linkMod
  eng := BitVec.ofNat 8 e
  flags := s.beaconFlags
  sag := s.flt.lastSag
  root := s.cfg.root

/-- BEACON_SEND (R246): a beacon frame leaves, on a link that is up once there is room to keep it (R235). -/
def execBeaconSend (e : Engine) (j : Fin 8) (s : State) : Ans :=
  let k := s.link e j
  let f := beaconFrame k.fseq k.rxLast (s.beaconOf e)
  if k.st = .up ∧ s.hasRoom e j then .next ((s.keepFrame e j { seq := 0, beacon := some (s.beaconOf e) }).emitOut (.frame e j f))
  else if k.st = .mismatch then .next (s.emitOut (.frame e j f))
  else .next s

/-! Disagreement (R269). -/

/-- A wait on counter k that is not met. -/
def unmet (ws : List Wait) (k v : Nat) : Bool := ws.any fun w => w.ctr = k && decide (v < w.thr)

/-- A core waits on counter k: an unfired unit or the next instruction of a context does. -/
def State.coreWaitsOn (s : State) (r c k : Nat) : Bool :=
  let x := s.core r c
  let cc := s.coreCourse r c
  let v := x.ctrs.get 0 k
  (List.range cc.tiles.length).any (fun i => let o := cc.tiles.getD i {}; decide (x.tileFired.get 0 i < o.tr.rep) && unmet o.tr.waits k v) ||
  (List.range cc.chains.length).any (fun i => let o := cc.chains.getD i {}; decide (x.chainFired.get 0 i < o.tr.rep) && unmet o.tr.waits k v) ||
  cc.progs.any fun p => match s.nextInstr r c p.1 with | none => false | some i => unmet i.tr.waits k v

/-- A DMA channel waits on counter k: for a descriptor, for its `WAIT` pairs, or for room in its completion ring (R197, R202). -/
def DmaSt.waitsOn (d : DmaSt) (k : Nat) : Bool :=
  match d.cur, d.queue with
  | some _, _ => decide (k = 6) && decide (d.ctrs.get 0 6 = 0)
  | none, x :: _ => unmet x.waits k (d.ctrs.get 0 k)
  | none, [] => decide (k = 7 ∨ k = 6) && decide (d.ctrs.get 0 k = 0)

/-- A unit waits on counter k: a core, the store interface's shards, or a DMA channel. -/
def State.unitWaitsOn (s : State) (r unit k : Nat) : Bool :=
  if unit < 896 then s.coreWaitsOn r unit k
  else if unit = 0x0400 ∨ unit = 0x0401 then
    (List.range (s.shards r).length).any fun i => decide (s.phase r i ≠ .updated) && (match s.shard r i with | none => false | some h => unmet h.release k (s.siCtr r k))
  else (s.chan (r * 128 + (unit - 0x0500))).waitsOn k

/-- The beacons of a module show another configuration epoch. -/
def State.epochDiffers (s : State) (m : Nat) : Bool :=
  s.eng.any fun x => x.2.links.any fun k =>
    match k.2.beacon with
    | none => false
    | some b => decide (b.mod.toNat = m) && decide (b.cepoch ≠ s.cfg.epoch)

/-- The beacons of a module arrive and show the own configuration epoch (R277). -/
def State.beaconsAgree (s : State) (m : Nat) : Bool :=
  s.eng.any fun x => x.2.links.any fun k =>
    match k.2.beacon with
    | none => false
    | some b => decide (b.mod.toNat = m) && decide (b.cepoch = s.cfg.epoch) && !k.2.missed && (k.2.st = .up || k.2.st = .mismatch)

/-- Cross-module tokens whose source is in another epoch. -/
def State.foreignToks (s : State) : List (Nat × Nat × Nat × Nat) := s.linkCourse.xtoks.filter fun x => s.epochDiffers x.2.2.2

/-- Disagreement begins with a unit waiting on such a token, and ends once the beacons agree (R269). -/
def State.judgeDisagreement (s : State) : State :=
  let l := s.foreignToks
  if s.stg.disag then
    (if l.isEmpty then (s.onStg fun t => { t with disag := false }).event 0x0B 0 else s)
  else if l.any fun x => s.unitWaitsOn x.1 x.2.1 x.2.2.1 then (s.onStg fun t => { t with disag := true }).event 0x0B 1
  else s

/-- A difference or a missed beacon in the health log: link, partner, and which of them (R246; log entry 67). -/
def State.logBeacon (s : State) (e j what : Nat) (m : U16) : State :=
  s.logHealth { cls := 0x7A, sub := e * 8 + j, detail := what * 2 ^ 16 + m.toNat }

/-- A beacon has come on a link: compared with the own epoch, root and layout epoch; each difference is logged once per change (R246). -/
def State.takeBeacon (s : State) (e j : Nat) (b : Beacon) : State :=
  let old := (s.link e j).beacon
  let cd := decide (b.cepoch ≠ s.cfg.epoch) || decide (b.root ≠ s.cfg.root)
  let ld := decide (b.lepoch ≠ s.cfg.layout)
  let newC := cd && (!(s.link e j).cdiff || old.any fun o => decide (o.cepoch ≠ b.cepoch ∨ o.root ≠ b.root))
  let newL := ld && (!(s.link e j).ldiff || old.any fun o => decide (o.lepoch ≠ b.lepoch))
  let s := s.onLink e j fun x => { x with beacon := some b, missed := false, cdiff := cd, ldiff := ld }
  let s := if newC then s.logBeacon e j 0 b.mod else s
  (if newL then s.logBeacon e j 1 b.mod else s).judgeDisagreement

/-- BEACON_RECEIPT (R246): what a whole beacon frame holds is taken on a link that carries beacons. -/
def execBeaconReceipt (e : Engine) (j : Fin 8) (f : Frame) (s : State) : Ans :=
  if s.beaconing e j && frameCrcOk f && decide (frameType f = 4) then .next (s.takeBeacon e j (beaconOfFlits f.flits)) else .next s

/-- FRAME_RECEIPT (R235): a whole frame gives up its acknowledgement, credits and packets, or in its turn its beacon; a reserved type or a failed check loses the frame. -/
def execFrameReceipt (e : Engine) (j : Fin 8) (f : Frame) (s : State) : Ans :=
  if (s.link e j).st ≠ .up then .next s
  else if !frameCrcOk f || 5 < frameType f then .next (s.askReplay e j)
  else
    let s := (s.onLink e j fun x => x.ackTo (frameAck f)).linkAnnounce e j
    let s := if frameNak f then s.replayLink e j else s
    if (s.link e j).st = .up then
      let shows := decide (frameType f = 4) && decide (frameSeq f = (s.link e j).rxLast + 1)
      let s := (s.takeFrame e j f).flushAcks e
      .next (if shows then s.takeBeacon e j (beaconOfFlits f.flits) else s)
    else .next s

/-- BEACON_MISS (R246): no beacon for 3 ms on a link that is up. -/
def execBeaconMiss (e : Engine) (j : Fin 8) (s : State) : Ans :=
  if (s.link e j).st = .up then
    .next (((s.onEng e fun x => { x with bmiss := true }).onLink e j fun x => { x with missed := true }).logBeacon e j 2 ((s.link e j).peer.elim 0 (·.mod)))
  else .next s

end Sys2Proof.Machine
end

