-- ==== Sys2Proof/Machine/FaultReports.lean ====
section
/-! DEFINITION. Detection of faults and what the control die does when a report reaches it: blame, fencing, relocation, exhausted spares and image faults (R13, R143, R272 to R278, R281, R287 to R294, R298, R340, R366). -/

namespace Sys2Proof.Machine

/-! Detection. -/

/-- A core's live signal has failed: it is fenced, or its death has been reported (R274). -/
def State.liveFailed (s : State) (p pc : Nat) : Bool :=
  s.flt.dead.contains (p * 924 + pc) ||
  s.bat.faults.any fun f => match f.kind with | .core q c 1 => decide (q.val = p) && decide (c.val = pc) | _ => false

/-- LIVE_SIGNAL_TIMEOUT (R274): the node of a clocked core, whose region's clock is locked (R305), that has not toggled for 4 µs declares it dead; the limit is suspended under beat-stepping (R406). -/
def execLiveSignalTimeout (r : Region) (c : PCore) (s : State) : Ans :=
  if (s.reg r).powered && (s.reg r).clockOn && (s.reg r).lock && !s.beatStepping && !s.liveFailed r c then .next (s.reportCore r c 0x01) else .next s

/-- From a to b, one step at a time. -/
def stepTo (a b : Nat) : List Nat := if a ≤ b then (List.range (b - a + 1)).map (a + ·) else (List.range (a - b + 1)).map (a - ·)

/-- Regions of one leg in order of travel: along the row, then along the column (R118). -/
def legOrder (a b : Nat) : List Nat := (stepTo (a % 8) (b % 8)).map (fun c => a / 8 * 8 + c) ++ (stepTo (a / 8) (b / 8)).map fun r => r * 8 + b % 8

/-- Regions of the route between two regions in order of travel. -/
def State.routeOrder (s : State) (a b : Nat) : List Nat :=
  match s.net.inter.get none (a * 64 + b) with
  | none => legOrder a b
  | some i => legOrder a i ++ legOrder i b

/-- A router of the region reports a failed link (R124). -/
def State.linkFailed (s : State) (p : Nat) : Bool :=
  s.bat.faults.any fun f => match f.kind with | .region q 0x11 => decide (q.val = p) | _ => false

/-- A fault report of a region (Table 13.1). -/
def State.reportRegion (s : State) (p cls : Nat) : State :=
  if h : p < 48 then s.report { kind := .region ⟨p, h⟩ cls } else s

/-- Outstanding operations of a core, context by context (R94). -/
def State.outstList (s : State) (r c : Nat) : List Outst := (s.core r c).ctxs.flatMap fun x => x.2.outst

/-- OPERATION_DEADLINE (R275): operation `i` of those a core has outstanding misses its deadline; the dead target, else the region of the first failed link on the route, else the target is blamed. Operations to other modules have no deadline. -/
def execOperationDeadline (r : Region) (c : Core) (i : Nat) (s : State) : Ans :=
  match (s.outstList r c)[i]?, s.phys r with
  | some o, some p =>
    if !s.isOwn (gMod o.gaddr) || s.beatStepping then .next s
    else
      match s.phys (gRegion o.gaddr) with
      | none => .next s
      | some q =>
        let pc := s.pcore q (gIndex o.gaddr)
        if s.liveFailed q pc then .next (s.reportCore q pc 0x04)
        else
          match (s.routeOrder p q).find? s.linkFailed with
          | some x => .next (s.reportRegion x 0x04)
          | none => .next (s.reportCore q pc 0x04)
  | _, _ => .next s

/-! The quiescence watchdog (R276). -/

/-- A unit that increments counters, as the producer table names it: whose it is, and whether it has finished the step or waits. -/
structure Producer where
  region : Nat
  core : Nat            -- logical core; 0x3FF the press
  done : Bool
  waiting : Bool
  deriving DecidableEq, Repr

/-- An emit reaches counter k of a unit. -/
def Emit.hits (e : Emit) (r unit k : Nat) : Bool := e.region = r && e.ctr = k && (e.unit = unit || (e.unit = 0xFFFF && decide (unit < 896)))

/-- A remote operation of core c of region r0 raises counter k of a unit: at its target in this module, or at its issuer (R87). -/
def State.rmoHits (s : State) (r0 c : Nat) (o : Rmo) (r unit k : Nat) : Bool :=
  (decide (tokOf o.ttok = some k) && s.isOwn (gMod o.gaddr) && decide (gRegion o.gaddr = r) && decide ((if gSpace o.gaddr then 0x0401 else gIndex o.gaddr) = unit)) ||
  (decide (tokOf o.ltok = some k) && decide (r0 = r) && decide (c = unit))

/-- An instruction raises the counter. -/
def State.instrHits (s : State) (i : CtxInstr) (r0 c r unit k : Nat) : Bool :=
  i.tr.emits.any (fun e => Emit.hits e r unit k) || (match i.op with | .rmo o => s.rmoHits r0 c o r unit k | _ => false)

/-- A sequence of a region raises counter k of a core (R108). -/
def State.seqHits (s : State) (r0 q r unit k : Nat) : Bool :=
  decide (r0 = r) && (seqBeats (s.coreCourse r unit) q).any fun b => decide (tokOf b.etok = some k)

/-- An instruction launches a sequence that raises the counter. -/
def State.launchHits (s : State) (i : CtxInstr) (r0 r unit k : Nat) : Bool :=
  match i.op with
  | .launch q => s.seqHits r0 q r unit k
  | _ => false

/-- The producers of a counter among the units of one core (R276). -/
def State.coreProducers (s : State) (r0 c r unit k : Nat) : List Producer :=
  let cc := s.coreCourse r0 c
  let x := s.core r0 c
  ((List.range cc.tiles.length).filterMap fun i =>
    let o := cc.tiles.getD i {}
    if o.tr.emits.any fun e => Emit.hits e r unit k then some ⟨r0, c, decide (o.tr.rep ≤ x.tileFired.get 0 i), !s.waitsMet r0 c o.tr.waits⟩ else none) ++
  ((List.range cc.chains.length).filterMap fun i =>
    let o := cc.chains.getD i {}
    if o.tr.emits.any fun e => Emit.hits e r unit k then some ⟨r0, c, decide (o.tr.rep ≤ x.chainFired.get 0 i), !s.waitsMet r0 c o.tr.waits⟩ else none) ++
  cc.progs.filterMap fun p =>
    if p.2.any fun i => s.instrHits i r0 c r unit k || s.launchHits i r0 r unit k then
      some ⟨r0, c, (s.nextInstr r0 c p.1).isNone, match s.nextInstr r0 c p.1 with | none => false | some i => !s.waitsMet r0 c i.tr.waits⟩
    else none

/-- A core whose beat table still runs a sequence that raises the counter. -/
def State.beatProducers (s : State) (r0 c r unit k : Nat) : List Producer :=
  if c = unit && (s.core r0 c).seqs.any (fun x => s.seqHits r0 x.seq r unit k) then [⟨r0, c, false, false⟩] else []

/-- The press as the emitter of a region's scale-ready tokens, given at the start of the step (R177). -/
def State.scaleProducers (s : State) (r0 r unit k : Nat) : List Producer :=
  if s.pressCourse.regions.any fun x => x.lregion = r0 && x.scaleReady.any fun e => Emit.hits e r unit k then [⟨r0, 0x3FF, true, false⟩] else []

/-- DMA channels as the producers of a counter that the image's own wiring does not feed: their descriptors are in no course (R195, R266). A channel counts as its home core. -/
def State.chanProducers (s : State) (r0 r unit k : Nat) : List Producer :=
  if (match s.cfg.image with | none => true | some i => (fedCtrs i).contains (wireCtr r (wireUnit unit) k)) then []
  else (s.course r0).dma.map fun d =>
    let x := s.chan (r0 * 128 + (d.engine * 16 + d.channel))
    ⟨r0, d.core, x.cur.isNone && x.queue.isEmpty && decide (x.ctrs.get 0 7 = 0), (List.range 7).any x.waitsOn⟩

/-- The producers of a counter among the shards of a press. -/
def State.pressProducers (s : State) (r0 r unit k : Nat) : List Producer :=
  (List.range (s.shards r0).length).filterMap fun i =>
    let sh := (s.shards r0).getD i {}
    if (sh.ready ++ sh.frees).any fun e => Emit.hits e r unit k then
      some ⟨r0, 0x3FF, decide (s.phase r0 i = .updated ∨ s.phase r0 i = .unchanged), !(s.shardMet r0 i sh && s.siWaitsMet r0 sh.release)⟩
    else none

/-- The producers of a counter, in order of region and core. -/
def State.producers (s : State) (r unit k : Nat) : List Producer :=
  s.serviceRegions.flatMap fun r0 => (s.courseCores r0).flatMap (fun c => s.coreProducers r0 c r unit k ++ s.beatProducers r0 c r unit k) ++
    s.pressProducers r0 r unit k ++ s.scaleProducers r0 r unit k ++ s.chanProducers r0 r unit k

/-- Counters of waits that are not met. -/
def unmetCtrs (ws : List Wait) (v : Nat → Nat) : List Nat := (ws.filter fun w => decide (v w.ctr < w.thr)).map (·.ctr)

/-- The unmet counters that a core's units wait on. -/
def State.coreUnmet (s : State) (r c : Nat) : List Nat :=
  let cc := s.coreCourse r c
  let x := s.core r c
  let v := s.ctr r c
  ((List.range cc.tiles.length).flatMap fun i => let o := cc.tiles.getD i {}; if x.tileFired.get 0 i < o.tr.rep then unmetCtrs o.tr.waits v else []) ++
  ((List.range cc.chains.length).flatMap fun i => let o := cc.chains.getD i {}; if x.chainFired.get 0 i < o.tr.rep then unmetCtrs o.tr.waits v else []) ++
  cc.progs.flatMap fun p => match s.nextInstr r c p.1 with | none => [] | some i => unmetCtrs i.tr.waits v

/-- The unmet counters that a region's DMA channels wait on: a channel with no descriptor has finished. -/
def State.chanUnmet (s : State) (r : Nat) : List (Nat × Nat × Nat) :=
  (s.course r).dma.flatMap fun d =>
    let n := d.engine * 16 + d.channel
    let x := s.chan (r * 128 + n)
    ((List.range 8).filter fun k => x.waitsOn k && !(x.cur.isNone && x.queue.isEmpty && decide (x.ctrs.get 0 7 = 0))).map fun k => (r, 0x0500 + n, k)

/-- The unmet counters of the module: region, unit and counter. -/
def State.unmetAll (s : State) : List (Nat × Nat × Nat) :=
  s.serviceRegions.flatMap fun r =>
    s.chanUnmet r ++
    (s.courseCores r).flatMap (fun c => (s.coreUnmet r c).map fun k => (r, c, k)) ++
    (List.range (s.shards r).length).flatMap fun i =>
      if s.phase r i = .updated ∨ s.phase r i = .unchanged then [] else (unmetCtrs ((s.shards r).getD i {}).release (s.siCtr r)).map fun k => (r, 0x0401, k)

/-- Blame for one unmet counter: the first producer that neither waits nor has finished; if all have finished, the first of them (R276). A counter fed from another module does not count while that module's beacons agree (R277). -/
def State.blameFor (s : State) (x : Nat × Nat × Nat) : Option Producer :=
  if s.linkCourse.xtoks.any fun t => t.1 = x.1 && t.2.1 = x.2.1 && t.2.2.1 = x.2.2 && s.beaconsAgree t.2.2.2 then none
  else
    let ps := s.producers x.1 x.2.1 x.2.2
    match ps.find? fun p => !p.done && !p.waiting with
    | some p => some p
    | none => if ps.all (·.done) then ps.head? else none

/-- A unit waits on an orchard row-ready token: of a table's emits or of a declared consumer (R156, R276). -/
def State.orcWaiting (s : State) : Bool :=
  s.pressCourse.tables.any fun t => (s.rowReady t).any fun e =>
    if e.unit = 0xFFFF then (s.courseCores e.region).any fun c => s.coreWaitsOn e.region c e.ctr else s.unitWaitsOn e.region e.unit e.ctr

/-- QUIESCENCE_WATCHDOG (R276): nothing has fired for `QUIET` µs of a step; the first producer of an unmet counter is blamed. -/
def execQuiescenceWatchdog (s : State) : Ans :=
  if s.run.inStep && decide (s.run.st = .running) && !s.stg.disag && !s.orcWaiting && decide (s.flt.phase = .none) && !s.beatStepping then
    match s.unmetAll.findSome? s.blameFor with
    | none => .next s
    | some b =>
      match s.phys b.region with
      | none => .next s
      | some p => if b.core = 0x3FF then .next (s.reportRegion p 0x05) else .next (s.reportCore p (s.pcore p b.core) 0x05)
  else .next s

/-- PARTNER_LOSS (R277): a wait on a token of module `m` has lasted longer than `XMOD`; the watchdog is suspended while the module is held and while the two are in disagreement (R47, R269). -/
def execPartnerLoss (m : U16) (s : State) : Ans :=
  if s.run.inStep && decide (s.run.st = .running) && !s.epochDiffers m.toNat && !s.flt.partner && !s.beatStepping && s.linkCourse.xtoks.any fun x => x.2.2.2 = m.toNat && s.unitWaitsOn x.1 x.2.1 x.2.2.1 then
    .next (s.partnerLoss m.toNat)
  else .next s

/-- REGION_SUPPLY_TRIP (R288): the regulator crowbars a powered region, which goes dark at once, and reports. -/
def execRegionSupplyTrip (r : Region) (s : State) : Ans :=
  if (s.reg r).powered then
    .next ((s.onReg r fun g => { g with powered := false, clockOn := false, lock := false }).reportRegion r 0x10)
  else .next s

/-- LOCKSTEP_DIVERGENCE (R340): the other pair of management cores resumes from the last checkpointed state; a second divergence exceeds the sparing budget (Table 13.7). -/
def execLockstepDivergence (s : State) : Ans :=
  let ok := s.flt.mgmtOk
  let s := (s.onFlt fun f => { f with mgmtOk := false }).logHealth { cls := 0x48, action := 9, done := ok }
  if ok then .next s else .next s.sparesExhausted

/-! The health record of a report (Table 13.9). -/

/-- Bit of `DETAIL` that marks a guarded action (R370). -/
def guardBit : Nat := 2 ^ 30

def State.faultRec (s : State) (f : FaultRep) : HealthRec :=
  let d := if f.guarded then guardBit else 0
  let lr (p : Nat) : Nat := (s.logicalOf p).getD 63
  match f.kind with
  | .core p c cls => { cls := cls, pregion := p, lregion := lr p, unit := c, detail := d }
  | .region p cls => { cls := cls, pregion := p, lregion := lr p, detail := d }
  | .storeLine p b l => { cls := 0x14, pregion := p, lregion := lr p, unit := 0x0401, sub := b, detail := l }
  | .engine e => { cls := 0x32, sub := e, detail := d }

/-! Relocation (R288, R291, R292). -/

/-- Sheafs that have lost two members: one in logical region `r`, another in a region not yet rebuilt (R294). -/
def State.doubleLost (s : State) (r : Nat) : List Sheaf :=
  s.sheaves.filter fun h => h.members.any (fun m => m.1 = r) && h.members.any fun m => m.1 ≠ r && s.openLosses.contains m.1

/-- Members of a sheaf that are lost. -/
def lostMembers (h : Sheaf) (lost : List Nat) : List (Nat × Nat × Nat) := h.members.filter fun m => lost.contains m.1

/-- An affected member lies in the exchange area, which no outer sheaf covers (R294). -/
def State.exchangeLost (s : State) (hs : List Sheaf) (lost : List Nat) : Bool :=
  hs.any fun h => (lostMembers h lost).any fun m => areaOf (s.course m.1) m.2.1 m.2.2 = .exchange

/-- Shards with a line in a lost member of an affected sheaf. -/
def State.shardsLost (s : State) (hs : List Sheaf) (lost : List Nat) : List (Nat × Nat) :=
  lost.flatMap fun r => (List.range (s.shards r).length).filterMap fun k =>
    let ls := s.shardLines r ((s.shards r).getD k {})
    if hs.any fun h => (lostMembers h lost).any fun m => m.1 = r && ls.any fun l => l.1 = m.2.1 && m.2.2 ≤ l.2 && l.2 < m.2.2 + h.n then some (r, k) else none

/-- A second member of an inner sheaf lost before the first is rebuilt: outer sheaves restore parameter lines, lost exchange lines take the module back to its last step boundary, where it waits for a warm load, and without outer sheaves state is lost (R294). -/
def State.secondMember (s : State) (r : Nat) : State :=
  let hs := s.doubleLost r
  let lost := (r :: s.openLosses).eraseDups
  if hs.isEmpty then s
  else if s.modeCourse.prot then (if s.exchangeLost hs lost then s.exchangeGone else s)
  else s.stateLost (s.shardsLost hs lost)

/-- The line-deltas that a lost region had begun to send are discarded: its open entries, its packets on the slab, and what it still had to be told of (R145). -/
def State.dropDeltasOf (s : State) (r : Nat) : State :=
  let stays (p : Packet) : Bool := !(isDelta p && s.isOwn p.smod && p.slregion == r)
  let s := s.onLregs fun l => { l with
    deltas := l.deltas.filter (fun e => !(s.isOwn e.smod && e.sregion == r)), inHi := l.inHi.filter stays, inNo := l.inNo.filter stays, outq := l.outq.filter stays }
  (s.onRouters fun x => { x with q := x.q.filter fun y => stays y.2 }).onLreg r fun l => { l with outDeltas := [] }

/-- The outer parity lines that a region holds for partners (R148, R290). -/
def State.outerParityLines (s : State) (r : Nat) : List (Nat × Nat × Nat) :=
  ((s.course r).runs.filter fun u => u.area = .outerParity).flatMap fun u => (List.range u.count).map fun i => (r, u.bank, u.first + i)

/-- The standby of a lost region serves in its place (R288): the map, the promotion, the outer parity lines to be computed again, and the deltas under way of the lost region dropped (R145, R290). -/
def State.promote (s : State) (p r b : Nat) : State :=
  let s := (s.onCfg fun c => { c with map := c.map.set none r (some b), moves := c.moves.map fun m => if m.1 = r then (m.1, m.2.1, m.2.2.1, m.2.2.2.1, 0) else m }).logHealth
    { cls := 0x70, pregion := b, lregion := r, detail := p }
  let s := s.onFlt fun f => { f with
    stbyW := f.stbyW || decide (halfOf b = 0), stbyE := f.stbyE || decide (halfOf b = 1)
    promos := (f.promos.filter fun x => x.lregion ≠ r) ++ [{ lregion := r, lost := p, standby := b }]
    chains := f.chains.filter fun x => x.lregion ≠ r
    outerDue := f.outerDue ++ s.outerParityLines r }
  let s := s.dropDeltasOf r
  if s.weakened r b then (s.onStore fun t => { t with place := true }).logHealth { cls := 0x16, pregion := b, lregion := r } else s

/-- REGION_RELOCATION (R288): the lost region is retired and dark; a standby takes its logical number, its settings and its clock, and routes are recomputed; line-deltas that the lost region had begun to send are discarded (R145). With none left the budget is exceeded (R291, R298). -/
def State.loseRegion (s : State) (p : Nat) (half : Option Nat) : State :=
  let s := s.onReg p fun g => { g with powered := false, clockOn := false, lock := false, retired := true }
  match (if s.run.st = .idle then none else s.logicalOf p) with
  | none => let s := s.recomputeRoutes; if s.net.unroutable.isEmpty then s else s.sparesExhausted
  | some r =>
    let s := s.onStore fun t => { t with degr := true }
    match s.pickStandby p half with
    | none => s.recomputeRoutes.sparesExhausted.secondMember r
    | some b =>
      let s := (((s.secondMember r).moveSettings p b).promote p r b).recomputeRoutes
      if s.net.unroutable.isEmpty then s else s.sparesExhausted

/-! Taking a report (R281, R287, R288, R293). -/

/-- The row's spare is free: no core of the row is fenced, and none is about to be (R287). -/
def State.spareFree (s : State) (p pc : Nat) : Bool :=
  (s.flt.fences.get none (p * 28 + pc / 33)).isNone &&
  !(s.flt.repairs.any fun f => match f.kind with | .core q c _ => decide (q.val = p) && decide (c.val / 33 = pc / 33) | _ => false)

/-- Start the rewind that absorbs a fault, or join the one in hand, whose re-entry is done again (R281, R293); with an inbound log overfull, the fault is beyond the budget (R286). -/
def State.absorb (s : State) (f : FaultRep) : State :=
  let s := (s.onFlt fun x => { x with repairs := x.repairs ++ [f], since := if x.phase = .none then s.time else x.since }).startRewind.rejoin
  if s.flt.logFull then s.sparesExhausted else s

/-- A core of a region is lost: fenced where its row's spare is free, else its region is lost (R287). -/
def State.loseCore (s : State) (f : FaultRep) (p pc : Nat) : State :=
  let free := s.spareFree p pc
  let s := s.onFlt fun x => { x with dead := x.dead ++ [p * 924 + pc] }
  let s := if free then s else s.loseRegion p none
  s.absorb f

/-- `ACTION` of the records of a fault (Table 13.9): a core is fenced, or replaced with its region where its row's spare is used; a region is relocated; else the step is replayed (log entry 114). -/
def State.faultAction (s : State) : FaultKind → Nat
  | .core p c _ => if s.spareFree p c || (s.flt.dead.contains (p.val * 924 + c.val) && !(s.reg p).retired) then 2 else 3
  | .region _ _ => 3
  | .storeLine _ _ _ => 5
  | .engine _ => 5

/-- The record that a report writes when it reaches the control die. -/
def State.detectionRec (s : State) (f : FaultRep) : HealthRec := { s.faultRec f with action := s.faultAction f.kind }

/-- What a report starts. -/
def State.takeReport (s : State) (f : FaultRep) : State :=
  match f.kind with
  | .core p c _ =>
    if s.flt.dead.contains (p.val * 924 + c.val) || (s.reg p).retired then s else (s.logHealth (s.detectionRec f)).loseCore f p c
  | .region p _ => if (s.reg p).retired then s else ((s.logHealth (s.detectionRec f)).loseRegion p f.half).absorb f
  | .storeLine _ _ _ => (s.logHealth (s.detectionRec f)).absorb f
  | .engine _ => (s.logHealth (s.detectionRec f)).absorb f

/-- FAULT_REPORT (R281): a report reaches the control die, one of those on the batten network or one that a unit raises. -/
def execFaultReport (src : FaultSource) (s : State) : Ans :=
  match src with
  | .raised k => .next (s.takeReport { kind := k })
  | .queued i =>
    match s.bat.faults[i]? with
    | none => .next s
    | some f => .next ((s.onBat fun b => { b with faults := dropAt b.faults i }).takeReport f)

/-! Illegal operations (R278). -/

/-- The image fault: the module holds at its commit point and names the unit and the record. -/
def State.imageFault (s : State) (x : IllegalRep) : State :=
  let s := s.logHealth { cls := 0x06, action := 10, pregion := (s.phys x.lregion).getD 63, lregion := x.lregion, unit := x.core, detail := x.point % 2 ^ 30 + 2 ^ 31 }
  let s := s.event 7 (BitVec.ofNat 64 (x.lregion % 64 + x.core % 1024 * 64 + x.point % 65536 * 65536))
  ((s.onFlt fun f => { f with image := true, since := s.time }).holdFor 4).startRewind.rejoin

/-- The core's program slots are reloaded from the load copy; of a store interface the region-wide sections, which the region holds as its course. A digest mismatch makes an illegal operation a fault of its core, or of its region; else the rewind alone absorbs it (R256, R278). -/
def State.possibleFault (s : State) (x : IllegalRep) (digestOk : Bool) : State :=
  match s.phys x.lregion with
  | none => s
  | some p =>
    if digestOk then
      let s := if x.core < 896 then s.loadSlots x.lregion (s.coreCourse x.lregion x.core) else s
      let s := s.logHealth { cls := 0x06, action := 5, pregion := p, lregion := x.lregion, unit := x.core, detail := x.point % 2 ^ 30 }
      (s.onFlt fun f => { f with since := if f.phase = .none then s.time else f.since }).startRewind.rejoin
    else if h : p < 48 then
      (if g : s.pcore p x.core < 924 ∧ x.core < 896 then s.takeReport { kind := .core ⟨p, h⟩ ⟨s.pcore p x.core, g.1⟩ 0x06 }
       else s.takeReport { kind := .region ⟨p, h⟩ 0x06 })
    else s

/-- ILLEGAL_OPERATION_REPORT (R278): report `i` reaches the control die, which reloads and compares the unit's program; an operation at a remembered point is an image fault. -/
def execIllegalOperationReport (i : Nat) (digestOk : Bool) (s : State) : Ans :=
  match s.bat.illegals[i]? with
  | none => .next s
  | some x =>
    let s := s.onBat fun b => { b with illegals := dropAt b.illegals i }
    if (s.lreg x.lregion).remembered.contains (x.core, x.point) then .next (s.imageFault x)
    else .next ((s.onLreg x.lregion fun l => { l with remembered := l.remembered ++ [(x.core, x.point)] }).possibleFault x digestOk)

end Sys2Proof.Machine
end

