-- ==== Sys2Proof/Machine/Recovery.lean ====
section
/-! DEFINITION. Recovery: rewind, repair, rebuild, resume, and the commit points of a step (R15, R150, R178, R279 to R290, R315). -/

namespace Sys2Proof.Machine

/-! Rewinding (R281). -/

/-- REWIND (R281): the rewind report reaches a region, which issues nothing more. -/
def execRewind (r : Region) (s : State) : Ans :=
  if s.flt.phase = .draining ∧ s.flt.awaiting.contains r.val then
    .next (s.onFlt fun f => { f with awaiting := f.awaiting.filter (· ≠ r.val), quiet := f.quiet ++ [r.val] })
  else .next s

/-- DRAIN_TIMEOUT (R281): the drain limit has passed; what is left in flight on the slab is discarded. -/
def execDrainTimeout (s : State) : Ans :=
  if s.flt.phase = .draining then .next (s.discardSlab.onFlt fun f => { f with awaiting := [], quiet := s.serviceRegions, drainedOut := true })
  else .next s

/-- The repair of a fault at re-entry: the shift of a row past its lost core, and the load again of the cores that change physical position (R15, R287). -/
def State.repair (s : State) (f : FaultRep) : State :=
  match f.kind with
  | .core p c _ =>
    if (s.reg p).retired then s
    else
      let s := s.onFlt fun x => { x with fences := x.fences.set none (p.val * 28 + c.val / 33) (some (c.val % 33)) }
      match s.logicalOf p with
      | none => s
      | some r => ((s.course r).cores.filter fun x => x.core / 32 = c.val / 33 && decide (c.val % 33 ≤ x.core % 32)).foldl (fun s x => s.loadSlots r x) s
  | _ => s

/-- Lines of a logical region that a sheaf covers, by sheaf (R141). -/
def State.sheafedLines (s : State) (r : Nat) : List (Nat × Nat) :=
  s.sheaves.flatMap fun h => (h.members.filter fun m => m.1 = r).flatMap fun m => (List.range h.n).map fun j => (m.2.1, m.2.2 + j)

/-- Lines of a relocated region in the order of their rebuild: exchange lines, parameter lines in shard order, inner parity lines (R289). -/
def State.rebuildOrder (s : State) (r : Nat) : List (Nat × Nat) :=
  let mine := s.sheafedLines r
  let area (a : Area) := mine.filter fun l => decide (areaOf (s.course r) l.1 l.2 = a)
  let ps := ((s.shards r).flatMap (s.shardLines r)).filter fun l => mine.contains l
  area .exchange ++ ps ++ (area .parameter).filter (fun l => !ps.contains l) ++ area .innerParity

/-- Every line but inner parity lines has been rebuilt (R290). -/
def State.paramsRebuilt (s : State) (r : Nat) : Bool :=
  (s.rebuildOrder r).all fun l => s.lineRebuilt r l || decide (areaOf (s.course r) l.1 l.2 = .innerParity)

/-- A relocation is far enough for the replay to begin: standby on, course loaded, parameter lines rebuilt (R290). -/
def State.promoReady (s : State) (x : Promo) : Bool := x.rebuilt || (x.on && x.courseOk && s.paramsRebuilt x.lregion)

def State.promosReady (s : State) : Bool := s.flt.promos.all s.promoReady

/-- REWIND_QUIESCENT (R281): every region is quiet; the repairs are applied and every core and press in service is restored. A module held for a partner loss or an image fault stays at its commit point (R277, R278). -/
def execRewindQuiescent (s : State) : Ans :=
  if s.flt.phase = .draining && s.flt.awaiting.isEmpty && (s.flt.drainedOut || s.slabQuiet) then
    let s := s.discardSlab
    let s := s.flt.repairs.foldl State.repair s
    let s := s.restore
    let held := decide (3 ≤ s.run.hcause)
    .next (s.onFlt fun f => { f with quiet := s.serviceRegions, phase := if held then .none else if s.promosReady then .restored else .rebuilding })
  else .next s

/-! Resuming (R281, R285, R290). -/

/-- Completion records of the repairs, with the overhead in µs (Table 13.9). -/
def State.logRepairs (s : State) : State :=
  let d := (s.time - s.flt.since).toNat
  s.flt.repairs.foldl (fun s f => s.logHealth { s.detectionRec f with done := true, detail := min d 0xFFFFFFFF }) s

/-- A micro-batch hold asked for during the recovery takes effect at the first micro-batch boundary after it (R350). -/
def State.askHold (s : State) : State :=
  if s.run.holdAsked then
    let s := s.onRun fun r => { r with holdAsked := false }
    if s.run.inStep then s.triggerHold 0 false else s.onRun fun r => { r with stopAsked := true }
  else s

/-- The ready emits of moves completed since the commit point re-entered are given again: a move is never repeated, and replayed units wait on them (R222). -/
def State.readyAgain (s : State) : State :=
  let old := match s.reentrySnap with | none => [] | some q => q.ready
  (s.cfg.readySent.filter fun x => !old.contains x).foldl (fun s x => match s.shard x.1 x.2 with | none => s | some sh => s.sendEmits sh.ready) s

/-- The resume token: a re-entry at the start of the step writes the scale cells again, contributions and logs are released, and the replay begins (R281, R285). -/
def State.resume (s : State) : State :=
  let s := s.logRepairs.onFlt fun f => { f with phase := .none, quiet := [], repairs := [], drainedOut := false }
  let s := if (s.run.inStep || s.run.crossed) && (match s.flt.snap with | none => false | some q => decide (q.mb = 0)) then
      (s.serviceRegions.filter fun r => (s.lreg r).active).foldl (fun s r => s.writeScale r) s
    else s
  s.readyAgain.releaseContributions.releaseLogs.askHold.advance

/-- RESUME_TOKEN (R281): without a rebuild in hand. -/
def execResumeToken (s : State) : Ans := if s.flt.phase = .restored then .next s.resume else .next s

/-- REPLAY_START (R290): parameter lines rebuilt and courses loaded, the replay begins; inner parity lines may still be rebuilding. -/
def execReplayStart (s : State) : Ans := if s.flt.phase = .rebuilding ∧ s.promosReady then .next s.resume else .next s

/-! Promotion and rebuild (R288, R289). -/

/-- STANDBY_POWERED (R289): the promoted standby's compute is powered; its routers carry traffic, its course load and the rebuild begin. -/
def execStandbyPowered (s : State) : Ans :=
  match s.flt.promos.find? fun x => !x.on with
  | none => .next s
  | some x =>
    let s := s.onFlt fun f => { f with promos := f.promos.map fun y => if y = x then { y with on := true } else y }
    let s := (s.onReg x.standby fun g => { g with powered := true, clockOn := true, lock := false, beat := 0 }).recomputeRoutes
    .next (if s.net.unroutable.isEmpty then s else s.sparesExhausted)

/-- The relocated member of a sheaf whose lines are being rebuilt. -/
def State.rebuildTarget (s : State) (h : Sheaf) (line : Nat) : Option (Nat × Nat) :=
  (List.range 8).findSome? fun m =>
    let x := memberLine h m line
    if (s.flt.promos.any fun p => p.lregion = x.1 && p.on && !p.rebuilt) && !s.lineRebuilt x.1 (x.2.1, x.2.2) then some (m, x.1) else none

/-- The line that a rebuild takes up next: the first neither rebuilt nor in a chain. -/
def State.nextRebuild (s : State) (r : Nat) : Option (Nat × Nat) :=
  (s.rebuildOrder r).find? fun l => !s.lineRebuilt r l && !(s.flt.chains.any fun c => c.lregion = r && c.bank = l.1 && c.line = l.2)

/-- Lines rebuilt from sheaves or regenerated from masters (Table 7.3). -/
def State.countRebuilt (s : State) (n : Nat) : State := s.onStore fun t => { t with rebuild := sat32 t.rebuild n }

/-- The working lines of the orchard row that a cache line belongs to, if the line is one; with its record's last line they are counted, and reported if an element became infinite (R150, R156, R158, R178). -/
def State.regenerateRow (s : State) (r bank line : Nat) : State :=
  match s.orcPlace r bank line with
  | none => s
  | some (t, pos) =>
    match s.orcTable t with
    | none => s
    | some x =>
      match x.owners.find? fun o => o.1 = r with
      | none => s
      | some o =>
        if (s.orcCache r t).any fun y => y.pos = pos then
          let s := s.rowWorking r x o pos
          if (s.rowLines r x o pos).getLast? = some (bank, line) then (s.countRebuilt (s.rowWork r x o pos).length).rowRecord r x o pos else s
        else s

/-- Working lines of a rebuilt master line, counted as each is whole, and the shard's record once its last master line is rebuilt; of a cached orchard row's line, the row's working lines (R150, R158, R178, R290). -/
def State.regenerate (s : State) (r bank line : Nat) (d : List Byte) : State :=
  match s.copyOf r bank line copyMaster with
  | none => s.regenerateRow r bank line
  | some (k, j) =>
    let sh := (s.shards r).getD k {}
    let s := s.writeWorking r sh j d
    let s := if j % 2 = 1 ∨ j + 1 = sh.nlines then s.countRebuilt 1 else s
    if j + 1 = sh.nlines then s.sendShardRecord r k (s.masterTally r sh) else s

/-- When a relocated region's last line is written, it is whole; with none open, the sheafs are no longer degraded (R289). -/
def State.closeRebuild (s : State) (r : Nat) : State :=
  if (s.rebuildOrder r).all (s.lineRebuilt r) then
    let s := s.onFlt fun f => { f with promos := f.promos.map fun y => if y.lregion = r then { y with rebuilt := true } else y }
    if s.openLosses.isEmpty then s.onStore fun t => { t with degr := false } else s
  else s

/-- The last survivor's result is written into the target line. -/
def State.writeRebuilt (s : State) (c : RebuildChain) : State :=
  let s := (s.writeStore c.lregion c.bank (c.line * 2048) c.data).setStamp c.lregion c.bank c.line c.stamp
  let s := s.onFlt fun f => { f with
    chains := f.chains.filter fun x => !(x.lregion = c.lregion && x.bank = c.bank && x.line = c.line)
    rebuilt := f.rebuilt ++ [lineKey (s.column c.lregion) c.bank c.line] }
  (s.countRebuilt 1 |>.regenerate c.lregion c.bank c.line c.data).closeRebuild c.lregion

/-- The shards with a line among those at index `j` of a sheaf that are gone. -/
def State.shardsAt (s : State) (h : Sheaf) (j : Nat) : List (Nat × Nat) :=
  ((List.range 8).flatMap fun m =>
    let x := memberLine h m j
    if s.lineGone x.1 x.2.1 x.2.2 then
      (List.range (s.shards x.1).length).filterMap fun k => if (s.shardLines x.1 ((s.shards x.1).getD k {})).contains (x.2.1, x.2.2) then some (x.1, k) else none
    else []).eraseDups

/-- A second loss in one sheaf that no outer sheaf restores: exchange lines under outer sheaves take the module back to its last step boundary with the parameters intact, to wait for a warm load, and without outer sheaves state is lost (R147, R294). -/
def State.beyondSheaf (s : State) (h : Sheaf) (j : Nat) : State :=
  if 5 ≤ s.run.hcause then s else if s.modeCourse.prot then s.exchangeGone else s.stateLost (s.shardsAt h j)

/-- A line that its outer sheaf restores when its inner sheaf cannot: a parameter line under outer sheaves (R294). -/
def State.outerCovered (s : State) (r bank line : Nat) : Bool := s.modeCourse.prot && decide (areaOf (s.course r) bank line = .parameter)

/-- Move a chain past one survivor; where a second member is gone too, the line comes over Hezin from its outer sheaf, or the loss is beyond the sheaf, and an exchange line of it under outer sheaves starts again with an open content (R147, R289, R294; log entries 46 and 163). -/
def State.chainStep (s : State) (h : Sheaf) (m line : Nat) (c : RebuildChain) : State :=
  if s.othersGone h m line then
    if s.modeCourse.prot then
      let s := if s.outerCovered c.lregion c.bank c.line then s else s.beyondSheaf h line
      let (d, s) := s.foreignLine
      let (st, s) := s.fresh
      s.writeRebuilt { c with data := d, stamp := BitVec.ofNat 8 st }
    else s.beyondSheaf h line
  else
    match ((List.range 8).filter (· ≠ m))[c.passed]? with
    | none => s
    | some k =>
      let x := memberLine h k line
      let d : RebuildChain := { c with passed := c.passed + 1, data := xorBytes c.data (s.readLine x.1 x.2.1 x.2.2), stamp := c.stamp ^^^ s.stamp x.1 x.2.1 x.2.2 }
      if d.passed = 7 then s.writeRebuilt d
      else s.onFlt fun f => { f with chains := (f.chains.filter fun y => !(y.lregion = c.lregion && y.bank = c.bank && y.line = c.line)) ++ [d] }

/-- REBUILD_CHAIN_STEP (R289): for line j of sheaf `sheaf` of logical region `g`'s course, the next survivor adds its own line and passes the result on, or the last writes the target; a chain starts only at the line next in order, and lines are read only when settled. -/
def execRebuildChainStep (g : Region) (sheaf line : Nat) (s : State) : Ans :=
  match (s.course g).sheaves[sheaf]? with
  | none => .next s
  | some h =>
    if h.n ≤ line ∨ !s.settled (memberLine h 7 line) then .next s
    else
      match s.rebuildTarget h line with
      | none => .next s
      | some (m, r) =>
        let x := memberLine h m line
        match s.flt.chains.find? fun c => c.lregion = r && c.bank = x.2.1 && c.line = x.2.2 with
        | some c => .next (s.chainStep h m line c)
        | none =>
          if s.nextRebuild r = some (x.2.1, x.2.2) then
            .next (s.chainStep h m line { lregion := r, bank := x.2.1, line := x.2.2, data := List.replicate 2048 0 })
          else .next s

/-! Recovery of a line (R137, R147, R150). -/

/-- How the recovery of a line ends: the line is rewritten, counted as rebuilt or not; a parity line waits for the lost members it is made of; or the loss is beyond its sheaf. -/
inductive Mend where
  | done (rebuilt : Bool)
  | waits
  | beyond (h : Sheaf) (j : Nat)
  deriving DecidableEq, Repr

/-- Rewrite a line, with its working lines and their record if it holds masters (R150, R178). -/
def State.mendLine (s : State) (r bank line : Nat) (d : List Byte) (st : Byte) : State :=
  let s := (s.writeStore r bank (line * 2048) d).setStamp r bank line st
  match s.copyOf r bank line copyMaster with
  | none => s.regenerateRow r bank line
  | some (k, j) => (s.writeWorking r ((s.shards r).getD k {}) j d).sendShardRecord r k (ovfTally {} j d)

/-- A working line again from its masters: a shard's by its master lines, a cached orchard row's by its record (R150, Table 7.1). -/
def State.mendWorking (s : State) (r bank line : Nat) : Option State :=
  match s.copyOf r bank line copyWorking with
  | some (k, w) =>
    let ms := s.copyLines r ((s.shards r).getD k {}) copyMaster
    let half (j : Nat) (old : List Byte) : List Byte :=
      match ms[j]? with
      | none => old
      | some (b, l) => workingHalf old (j % 2) (s.readLine r b l)
    some (s.writeStore r bank (line * 2048) (half (2 * w + 1) (half (2 * w) (s.readLine r bank line))))
  | none =>
    (s.pressCourse.tables.findSome? fun t => (t.owners.find? fun o => o.1 = r).bind fun o =>
      (findIdx (fun x => x.1 = bank && x.2 = line) (listLines (s.course r) o.2.2.1) 0).map fun i => (t, o, i / workRun t)).map fun x =>
        s.rowWorking r x.1 x.2.1 x.2.2

/-- Recover the content of a line by its area's means (Table 7.1, R137, R147): from its sheaf, from its outer sheaf where the inner one has lost a second member, from the partners' segments, or from its masters. -/
def State.recoverLine (s : State) (r bank line : Nat) : State × Mend :=
  let foreign (s : State) : State := let (d, s) := s.foreignLine; let (st, s) := s.fresh; s.mendLine r bank line d (BitVec.ofNat 8 st)
  match s.sheafOf r bank line with
  | some (h, m, j) =>
    if s.othersGone h m j then
      if m = 7 then (s, .waits)
      else if s.outerCovered r bank line then (foreign s, .done true)
      else (s.beyondSheaf h j, .beyond h j)
    else let (d, st) := s.sheafXor h m j; (s.mendLine r bank line d st, .done true)
  | none =>
    match s.mendWorking r bank line with
    | some t => (t, .done true)
    | none => if areaOf (s.course r) bank line = .outerParity then (foreign s, .done true) else (s, .done false)

/-- LINE_RECOVERED (R137): a line found uncorrectable is rewritten by its area's means, counted and logged with its overhead, and its row becomes due for repair; a step-local line needs the step's replay, whose own records tell of it (Table 13.9). -/
def execLineRecovered (r : Region) (bank : Core) (line : Nat) (s : State) : Ans :=
  let k := lineKey r bank line
  if s.store.bad.contains k then
    let lr := s.logicalOf r
    if (match lr with | none => true | some l => s.maySettle l bank line) then
      let x := match lr with
        | none => (s, Mend.done false)
        | some l => s.recoverLine l bank line
      match x.2 with
      | .done again =>
        let s := x.1
        let local_ := match lr with | none => false | some l => decide (areaOf (s.course l) bank line = Area.stepLocal)
        let rk := rowKey r bank line
        let s := s.onStore fun t =>
          let t := t.eccEvent r bank
          { t with bad := t.bad.filter (· ≠ k), eccUnc := true, rebuild := if again then sat32 t.rebuild 1 else t.rebuild
                   remapDue := if t.remapDue.contains rk then t.remapDue else t.remapDue ++ [rk]
                   dueSince := if t.remapDue.contains rk then t.dueSince else t.dueSince.set 0 rk s.time.toNat }
        let s := if local_ then s else s.logHealth { cls := 0x14, action := 4, done := true, pregion := r, lregion := lr.getD 63, unit := 0x0401, sub := bank, detail := s.overhead (s.store.since.get 0 k) }
        .next (if local_ then s.onBat fun b => { b with faults := b.faults ++ [({ kind := FaultKind.storeLine r bank line } : FaultRep)] } else s)
      | _ => .next x.1
    else .next s
  else .next s

/-- While no rewind is in hand, the next outer parity line that a lost region held for partners is recomputed from their segments, which come over Hezin (R290; log entry 46). -/
def State.recomputeOuter (s : State) : State :=
  match s.flt.outerDue with
  | [] => s
  | (r, b, l) :: rest =>
    if s.flt.phase = .none && s.promosReady then
      let (d, t) := (s.onFlt fun f => { f with outerDue := rest }).foreignLine
      let (st, t) := t.fresh
      (t.writeStore r b (l * 2048) d).setStamp r b l (BitVec.ofNat 8 st)
    else s

/-! Commit points (R279, R280; log entry 44). -/

/-- The commit point that a region waits at: its next micro-batch, with all earlier work complete. -/
def State.waitsAtCommit (s : State) (r : Nat) : Bool :=
  let l := s.lreg r
  decide (0 < l.mbBegun) && s.stepCourse.commits.contains l.mbBegun && decide (l.mbEnded = l.mbBegun) && !l.cpReported &&
  match s.flt.snap with
  | none => true
  | some q => decide (q.step ≠ s.run.step ∨ q.mb < l.mbBegun)

/-- COMMIT_POINT_REPORT (R279): a region reports; once all have, the control die orders the snapshot. -/
def execCommitPointReport (r : Region) (s : State) : Ans :=
  if s.regionRuns r && decide (s.flt.phase = .none) && s.waitsAtCommit r then
    let s := s.onLreg r fun l => { l with cpReported := true }
    if s.serviceRegions.all fun q => (s.lreg q).cpReported then
      let q := s.takeSnap (s.lreg r).mbBegun
      .next ((s.writeSnap q.runB).onFlt fun f => { f with pendSnap := some q })
    else .next s
  else .next s

/-- SNAPSHOT_SETTLED (R279): once no delta of its lines is open, the snapshot becomes the last valid one, the inbound logs keep the step's contributions alone, and the resume token lets the micro-batch begin; one of a step boundary lets the commit token leave (R281). -/
def execSnapshotSettled (s : State) : Ans :=
  match s.flt.pendSnap with
  | none => .next s
  | some q =>
    if !s.snapIsSettled q then .next s
    else if !s.run.inStep then .next s.settleSnap.advanceAgain
    else
    let s := s.onLregs fun l => { l with cpReported := false }
    .next (s.onFlt fun f => { f with snap := some q, pendSnap := none, logFull := false, inlog := f.inlog.filter fun x => !x.sent && s.isContribution x.p })

end Sys2Proof.Machine
end

