-- ==== Sys2Proof/Machine/Feed.lean ====
section
/-! DEFINITION. Feeding the reservoir: `BATCH_FEED`, and the arrivals that can settle the writes it waits for (R98, R145, R146, R152, R155, R351). -/

namespace Sys2Proof.Machine

/-- The next step not yet begun (R351). -/
def State.nextStep (s : State) : Nat := s.run.step.toNat + b2n s.run.inStep

/-- Every write into a reservoir slot is settled: no delta of one of its lines is unacknowledged (R146). -/
def State.slotSettled (s : State) (k : Nat) : Bool :=
  s.lregions.all fun x => x.2.outDeltas.all fun d => decide (s.slotOf x.1 d.bank d.line ≠ some k)

/-- The slot's writes are settled: its touch lists are checked and the slot becomes full, or the command is refused (R155, R351). -/
def State.endFeed (s : State) (h : CmdHdr) (n : U64) : State :=
  let k := s.slotFor n
  if s.store.slots.get 0 k ≠ 0 then s.done0 h 3
  else if !s.slotPasses k then s.done0 h 0x0A
  else ((s.onStore fun t => { t with slots := t.slots.set 0 k 1 }).complete h 0 (BitVec.ofNat 64 k) 0 0).advance

/-- Judge one waiting `BATCH_FEED`. -/
def State.settleFeed (s : State) (x : CmdHdr × U64) : State :=
  if s.run.feeds.contains x && s.slotSettled (s.slotFor x.2) then
    (s.onRun fun r => { r with feeds := r.feeds.erase x }).endFeed x.1 x.2
  else s

/-- Judge every waiting `BATCH_FEED`, oldest first. -/
def State.settleFeeds (s : State) : State := s.run.feeds.foldl State.settleFeed s

/-- What a `BATCH_FEED` needs of the run state, the step number and the slot (R347, R351). -/
def State.feedOk (s : State) (n : U64) : Bool :=
  decide (s.run.st ≠ .idle) && decide (s.nextStep ≤ n.toNat) && decide (n.toNat < s.nextStep + s.stepCourse.s) && decide (s.store.slots.get 0 (s.slotFor n) = 0)

/-- The command identifier 0xFFFF is no command's (Table 15.3). -/
def badHdr (h : CmdHdr) : Bool := decide (h.cid = 0xFFFF)

/-- `BATCH_FEED` (R351): it waits until every write into the slot is settled. -/
def State.runBatchFeed (s : State) (h : CmdHdr) (n : U64) : State :=
  if badHdr h then s.done0 h 2
  else if !s.feedOk n then s.done0 h 3
  else if s.slotSettled (s.slotFor n) then s.endFeed h n
  else s.onRun fun r => { r with feeds := r.feeds ++ [(h, n)] }

/-- BATCH_FEED (R351). -/
def execBatchFeed (h : CmdHdr) (stepNo : U64) (s : State) : Ans := .next (s.runBatchFeed h stepNo)

/-- DELTA_PACKET_ARRIVAL (R145): a delta packet, or an outer holder's acknowledgement of one (R148). -/
def execDeltaPacketArrival (r : Region) (s : State) : Ans := .next (s.deltaArrival r).settleFeeds.compareWaiting

/-- EMIT_ARRIVAL (R98): emit `i` of those on the network reaches its unit; an acknowledged delta may settle a slot, or the sheaf that a comparison of fingerprints waits to check (R146, R297). -/
def execEmitArrival (i : Nat) (s : State) : Ans := .next (s.takeEmit i).settleFeeds.compareWaiting

end Sys2Proof.Machine
end

