-- ==== Sys2Proof/Machine/Meter.lean ====
section
/-! DEFINITION. The Clailo meter: records, seal events, sags, its display, the export link and the marker input (R376 to R389, R392). -/

namespace Sys2Proof.Machine

/-! Records (R383 to R386, Table 17.3). -/

/-- Units of energy in a milliwatt-hour: halves of a microwatt-microsecond, which millivolts times the sum of two currents in milliamperes give. -/
def perMwh : Nat := 7200000000000

/-- Where the energy registers roll over: 10^13 mWh. -/
def meterRoll : Nat := 10 ^ 13 * perMwh

/-- `MAGIC` of a record, ASCII `CLMR`, and the context of its signature, ASCII `LX-SKZ-METER`. -/
def meterMagic : List Byte := [0x43, 0x4C, 0x4D, 0x52]
def meterContext : List Byte := [0x4C, 0x58, 0x2D, 0x53, 0x4B, 0x5A, 0x2D, 0x4D, 0x45, 0x54, 0x45, 0x52]

/-- Records that the meter's own store keeps (R386). -/
def meterDepth : Nat := 262144

/-- `FLAGS` of a record and of a status frame (Table 17.3). -/
def MeterSt.flags (m : MeterSt) (merges : Nat) : Nat :=
  pack [(b2n m.tamper, 1), (b2n m.unseated, 1), (b2n (m.disagree || m.disInt), 1), (b2n m.vOut, 1), (b2n m.iOver, 1), (b2n m.adjusted, 1), (b2n (decide (0 < merges)), 1)]

/-- The digest of the record before, zeros where there is none (R383, Table 17.3). -/
def MeterSt.prevDigest (m : MeterSt) : List Byte :=
  match m.recs.getLast? with
  | none => List.replicate 32 0
  | some r => shake256 (leBytes 256 r.2.toNat) 32

/-- Bytes 0x00 to 0x8D of a record. -/
def MeterSt.body (m : MeterSt) (kind evt merges : Nat) (seq mtime : U64) : List Byte :=
  [ meterMagic, leBytes 1 kind, leBytes 1 1, leBytes 2 (m.flags merges), leBytes 8 seq.toNat, leBytes 8 mtime.toNat, leBytes 8 (m.eimp / perMwh),
    leBytes 8 (m.erev / perMwh), leBytes 4 ((m.eimp + meterRoll - m.istart) % meterRoll / perMwh), leBytes 2 m.vmin.toNat, leBytes 2 m.vmax.toNat,
    leBytes 4 m.pmax.toNat, leBytes 4 m.nsag.toNat, leBytes 8 m.sagFirst.toNat, leBytes 8 m.sagLast.toNat, leBytes 4 m.cepoch.toNat, leBytes 2 merges,
    leBytes 2 m.nseal.toNat, leBytes 24 m.roott.toNat, m.prevDigest, leBytes 4 evt, leBytes 2 0 ].flatten

/-- A record with its signature. -/
def MeterSt.record (m : MeterSt) (kind evt merges : Nat) (seq mtime : U64) : MeterRec :=
  let b := m.body kind evt merges seq mtime
  BitVec.ofNat 2048 (leNat b + 2 ^ (8 * 0x8E) * (ed448Sign m.seed meterContext b % 2 ^ 912))

/-- The span of `EINT` begins anew after an interval record; a disagreement that lasts is one of the new interval too (R380). -/
def MeterSt.newInterval (m : MeterSt) : MeterSt :=
  { m with istart := m.eimp, vmin := 0xFFFF, vmax := 0, pmax := 0, nsag := 0, sagFirst := 0, sagLast := 0, disInt := m.disagree, vOut := false, iOver := false }

/-- Put frames on the export link. -/
def State.export_ (s : State) (f : ExportFrame) : State := s.onMir fun x => { x with frames := x.frames ++ [f] }

/-- Write a record: it takes the next sequence number, joins the store and leaves on the export link (R383, R386, R388). -/
def State.writeRecord (s : State) (kind evt merges : Nat) (mtime : U64) : State :=
  let m := s.meter
  let seq := m.seq + 1
  let r := m.record kind evt merges seq mtime
  let rs := m.recs ++ [(seq.toNat, r)]
  (s.onMeter fun x => { x with seq := seq, recs := if meterDepth < rs.length then rs.drop 1 else rs, unseated := false, adjusted := false }).export_ (.record r)

/-! The display's screens (R382, Table 17.2). -/

/-- Firmware version 1.2 (Table 17.2). -/
def meterVersion : U16 := 0x0102

/-- Days of a year, and of its months. -/
def leapYear (y : Nat) : Bool := decide (y % 4 = 0) && (decide (y % 100 ≠ 0) || decide (y % 400 = 0))
def yearDays (y : Nat) : Nat := if leapYear y then 366 else 365
def monthDays (y m : Nat) : Nat := if m = 2 then (if leapYear y then 29 else 28) else if m = 4 ∨ m = 6 ∨ m = 9 ∨ m = 11 then 30 else 31

/-- Month and day, from 1, of day `d` of a year, from 0. -/
def monthOf (y : Nat) : Nat → Nat → Nat → Nat × Nat
  | 0, m, d => (m, d + 1)
  | n + 1, m, d => if d < monthDays y m then (m, d + 1) else monthOf y n (m + 1) (d - monthDays y m)

/-- Year, and day of it, of day `d` from the start of a year. -/
def yearOf : Nat → Nat → Nat → Nat × Nat
  | 0, y, d => (y, d)
  | n + 1, y, d => if d < yearDays y then (y, d) else yearOf n (y + 1) (d - yearDays y)

/-- Year, month and day of a count of days since 2000-01-01: whole spans of 400 years first (R381). -/
def dateOf (days : Nat) : Nat × Nat × Nat :=
  let x := yearOf 400 (2000 + 400 * (days / 146097)) (days % 146097)
  (x.1, monthOf x.1 11 1 x.2)

/-- Meter time as a date and time, UTC. -/
def clockOf (t : U64) : Shown :=
  let s := t.toNat / 1000000
  let d := dateOf (s / 86400)
  .clock d.1 d.2.1 d.2.2 (s % 86400 / 3600) (s % 3600 / 60) (s % 60)

/-- An energy in watt-hours, the last decimal of a kWh that the display shows. -/
def whOf (e : Nat) : Nat := e / perMwh / 1000

/-- The content of a screen (Table 17.2). -/
def MeterSt.screenContent (m : MeterSt) (n : Nat) : Shown :=
  match n with
  | 1 => .imported (whOf m.eimp)
  | 2 => .firmware meterVersion m.checksum
  | 3 => .serial m.serial
  | 4 => clockOf m.time
  | 5 => .seal m.tamper m.nseal
  | 6 => .reverse (whOf m.erev)
  | _ => .allOn

/-- The inlet voltage above which display and button work, in millivolts (R382). -/
def displayMv : Nat := 20000

/-- What the display shows: the screen chosen, or without power the image kept (R382). -/
def MeterSt.display (m : MeterSt) : Shown := if displayMv < m.mv then m.screenContent m.screen else m.image

/-- Turn the display to a screen. -/
def MeterSt.toScreen (m : MeterSt) (n : Nat) : MeterSt := { m with screen := n, image := m.screenContent n }

/-! Occasions (R383, R384). -/

/-- Place of an occasion's record among those of its microsecond (R384). -/
def OccasionKind.rank : OccasionKind → Nat
  | .interval => 0
  | .lost _ => 1
  | .restored => 2
  | .seal _ => 3
  | .epoch _ _ _ => 4

/-- Note an occasion of the present microsecond. -/
def MeterSt.note (m : MeterSt) (k : OccasionKind) : MeterSt := { m with occ := m.occ ++ [⟨k, m.time⟩] }

/-- The record of an occasion: an interval's ends the interval, a lost inlet's leaves its register on the display, and an accepted marker's epoch and root stand from its own record on (R382, R383, R389). -/
def State.writeOccasion (s : State) (x : Occasion) : State :=
  match x.what with
  | .interval => (s.writeRecord 1 0 0 x.at_).onMeter (·.newInterval)
  | .lost mv => (s.writeRecord 3 mv 0 x.at_).onMeter fun m => { m with image := m.screenContent 1 }
  | .restored => s.writeRecord 4 0 0 x.at_
  | .seal evt => s.writeRecord 5 evt 0 x.at_
  | .epoch e r n => (s.onMeter fun m => { m with cepoch := e, roott := r }).writeRecord 2 0 n x.at_

/-- The records of a microsecond are written in the order interval, power lost, power restored, seal event, configuration epoch, those of one kind in the order they came (R384). -/
def State.writeOccasions (s : State) : State :=
  let due := (List.range 5).flatMap fun k => s.meter.occ.filter fun x => decide (x.what.rank = k)
  due.foldl (fun s x => s.writeOccasion x) (s.onMeter fun m => { m with occ := [] })

/-- A seal event: counted, and recorded with the others of its microsecond or, with the inlet dead, at the next power-up (R383). -/
def MeterSt.sealEvent (m : MeterSt) (evt : Nat) : MeterSt :=
  let m := { m with nseal := if m.nseal = 0xFFFF then m.nseal else m.nseal + 1 }
  if m.lost then { m with seals := m.seals ++ [(evt, m.time)] } else m.note (.seal evt)

/-- Microseconds between interval records: 900 s (R383). -/
def intervalUs : Nat := 900000000

/-- INTERVAL_RECORD (R383): meter time has reached a multiple of 900 s, with the inlet live or dead; once in its microsecond (log entry 166). -/
def execIntervalRecord (s : State) : Ans :=
  if s.meter.time.toNat % intervalUs ≠ 0 || s.meter.occ.any (fun x => decide (x.what = .interval)) then .next s
  else .next (s.onMeter fun m => m.note .interval)

/-- The inlet voltage below which power is lost, and the most that a sag's threshold can be, in millivolts (R383, R387). -/
def meterLow : Nat := 44000

/-- Power is lost at a voltage: the display goes to screen 1, and the record is due (R382, R383). -/
def MeterSt.lose (m : MeterSt) (mv : Nat) : MeterSt := { (m.note (.lost mv)) with lost := true, screen := 1 }

/-- METER_POWER_LOST (R382, R383): the inlet below 44 V gives a power-lost record with its voltage; at 44 V or more nothing is lost. -/
def execMeterPowerLost (mv : U16) (s : State) : Ans :=
  if s.meter.lost || decide (meterLow ≤ mv.toNat) then .next s else .next (s.onMeter fun m => { m with mv := mv.toNat }.lose mv.toNat)

/-- METER_POWER_RESTORED (R383): the power-restored record, then the seal events of the time without power, each with its own meter time. -/
def execMeterPowerRestored (s : State) : Ans :=
  if !s.meter.lost then .next s
  else .next (s.onMeter fun m => { (m.note .restored) with lost := false, seals := [], occ := (m.note .restored).occ ++ m.seals.map fun x => ⟨.seal x.1, x.2⟩ })

/-- METER_START (R383): the meter die starts and writes its record; it then sends its newest 64 records again (R388). -/
def execMeterStart (s : State) : Ans :=
  let s := (s.onMeter fun m => { m with live := true }).writeRecord 6 0 0 s.meter.time
  .next ((s.meter.recs.drop (s.meter.recs.length - 64)).foldl (fun s r => s.export_ (.record r.2)) s)

/-! Seal and service interface (R377, R392). -/

/-- COVER_OPENED (R392): tamper is latched and a seal record written. -/
def execCoverOpened (s : State) : Ans :=
  if s.meter.coverOpen then .next s else .next (s.onMeter fun m => { m with coverOpen := true, tamper := true }.sealEvent 0)

/-- COVER_CLOSED (R383). -/
def execCoverClosed (s : State) : Ans :=
  if !s.meter.coverOpen then .next s else .next (s.onMeter fun m => { m with coverOpen := false }.sealEvent 1)

/-- SERVICE_SESSION_BEGIN (R392): accepted only while the cover is open. -/
def execServiceSessionBegin (s : State) : Ans :=
  if s.meter.coverOpen && !s.meter.session then .next (s.onMeter fun m => { m with session := true }.sealEvent 4) else .next s

/-- SERVICE_SESSION_END (R392). -/
def execServiceSessionEnd (s : State) : Ans :=
  if s.meter.session then .next (s.onMeter fun m => { m with session := false }.sealEvent 5) else .next s

/-- METER_TIME_ADJUST (R381): through the service interface alone, and a seal event. -/
def execMeterTimeAdjust (t : U64) (s : State) : Ans :=
  if s.meter.session then .next (s.onMeter fun m => { m with time := t, adjusted := true }.sealEvent 6) else .next s

/-- TAMPER_CLEAR (R392): through the service interface alone. -/
def execTamperClear (s : State) : Ans :=
  if s.meter.session then .next (s.onMeter fun m => { m with tamper := false }) else .next s

/-- BUTTON_PRESS (R382): the next of the seven screens, while the meter's inlet is above 20 V. -/
def execButtonPress (s : State) : Ans :=
  if displayMv < s.meter.mv then .next (s.onMeter fun m => m.toScreen (m.screen % 7 + 1)) else .next s

/-- DISPLAY_TIMEOUT (R382): back to screen 1, while the inlet is above 20 V. -/
def execDisplayTimeout (s : State) : Ans :=
  if displayMv < s.meter.mv then .next (s.onMeter fun m => m.toScreen 1) else .next s

/-! Measurement (R379, R380; log entry 82). -/

/-- Two channels differ by more than 0.3 % of their mean (R380). -/
def chansApart (a b : Int) : Bool := decide (3 * (a + b).natAbs < 2000 * (a - b).natAbs)

/-- New samples of voltage and currents; as the inlet falls to 20 V the display keeps what it shows (R379, R382). -/
def MeterSt.sample (m : MeterSt) (mv : Nat) (a b : Int) : MeterSt :=
  { m with mv := mv, ia := a, ib := b, apartAll := m.apartAll && chansApart a b, alikeAll := m.alikeAll && !chansApart a b
           image := if mv ≤ displayMv then m.display else m.image }

/-- CHANNEL_COMPARISON (R380): 60 s end with the channels at these currents, in milliamperes; the flag is set if they were apart throughout, cleared if they were never apart, and else stays. -/
def execChannelComparison (a b : U32) (s : State) : Ans :=
  let apart := chansApart a.toInt b.toInt
  .next (s.onMeter fun m =>
    let d := if apart then m.disagree || m.apartAll else m.disagree && !m.alikeAll
    { m with disagree := d, disInt := m.disInt || d, apartAll := true, alikeAll := true })

/-- Energy of a microsecond, positive into the module: voltage times the mean of the channel currents (R379). -/
def MeterSt.power (m : MeterSt) : Int := m.mv * (m.ia + m.ib)

/-- Energy of a test pulse: 10,000 to the kWh (Table 17.1). -/
def pulseEnergy : Nat := 100 * perMwh

/-- Microseconds of a second. -/
def secondUs : Nat := 1000000

/-- The newest `n` microseconds of a record of runs. -/
def trimRuns : Nat → List (Nat × Nat) → List (Nat × Nat)
  | _, [] => []
  | n, x :: t => if n ≤ x.2 then (if n = 0 then [] else [(x.1, n)]) else x :: trimRuns (n - x.2) t

/-- A microsecond at a voltage joins the record of the last second. -/
def pushRun (rs : List (Nat × Nat)) (v : Nat) : List (Nat × Nat) :=
  trimRuns secondUs (match rs with
    | [] => [(v, 1)]
    | x :: t => if x.1 = v then (v, x.2 + 1) :: t else (v, 1) :: rs)

/-- A whole second of meter time: its averages enter the extremes of the interval (Table 17.3). -/
def MeterSt.second (m : MeterSt) : MeterSt :=
  let v : U16 := BitVec.ofNat 16 (m.sumV / m.sumN / 10)
  let w := (m.sumP / (m.sumN * 2000000)).toNat
  { m with
    vmin := if v < m.vmin then v else m.vmin
    vmax := if m.vmax < v then v else m.vmax
    pmax := if m.pmax.toNat < w then BitVec.ofNat 32 w else m.pmax
    sumV := 0, sumP := 0, sumN := 0 }

/-- One microsecond of meter time: energy is registered by its direction, and what the samples show enters the interval's flags and averages (R379 to R381). -/
def MeterSt.tick (m : MeterSt) : MeterSt :=
  let e := m.eimp + m.power.toNat
  let m := { m with
    time := m.time + 1
    eimp := e % meterRoll
    erev := (m.erev + (-m.power).toNat) % meterRoll
    pulses := m.pulses + (e / pulseEnergy - m.eimp / pulseEnergy)
    runs := pushRun m.runs m.mv
    sumV := m.sumV + m.mv, sumP := m.sumP + m.power, sumN := m.sumN + 1
    vOut := m.vOut || decide (m.mv < 40000) || decide (60000 < m.mv)
    iOver := m.iOver || decide (2200000 < (m.ia + m.ib).natAbs) }
  if m.time.toNat % secondUs = 0 then m.second else m

/-! Sags (R387). -/

/-- Shortest sag, in microseconds (R387). -/
def sagMin : Nat := 20

/-- The threshold of a sag: a voltage in millivolts is below it just where it is below 44 V and below 90 % of the mean of the last second (R387). -/
def MeterSt.sagLimit (m : MeterSt) : Nat :=
  let n := (m.runs.map (·.2)).sum
  if n = 0 then meterLow else min meterLow ((9 * (m.runs.map fun x => x.1 * x.2).sum + 10 * n - 1) / (10 * n))

/-- The voltage has been at a level or above it for the last `n` microseconds. -/
def steadyFor (level : Nat) : Nat → List (Nat × Nat) → Bool
  | 0, _ => true
  | _ + 1, [] => false
  | n + 1, x :: t => (decide (x.2 = 0) || decide (level ≤ x.1)) && steadyFor level (n + 1 - x.2) t

/-- SAG_BEGIN (R387): the voltage falls below the threshold; the sag is counted and exported, and none begins before the last has ended (log entry 135). -/
def execSagBegin (mv : U16) (s : State) : Ans :=
  if s.meter.sag.isSome || decide (s.meter.sagLimit ≤ mv.toNat) then .next s
  else
    let t := s.meter.time
    .next ((s.onMeter fun m => { m with
      mv := mv.toNat, sag := some t, nsag := sat32 m.nsag 1, sagFirst := if m.nsag = 0 then t else m.sagFirst, sagLast := t }).export_ (.sag t (BitVec.ofNat 32 sagMin) (BitVec.ofNat 16 (mv.toNat / 10))))

/-- SAG_END (R387): the sag ends once the voltage has been 1 V above the threshold for 100 µs; `dur` and `low` are what the meter measured of the sag. -/
def execSagEnd (_dur : U32) (_low : U16) (s : State) : Ans :=
  if steadyFor (s.meter.sagLimit + 1000) 100 s.meter.runs then .next (s.onMeter fun m => { m with sag := none }) else .next s

/-! The export link (R388). -/

/-- STATUS_FRAME (R388). -/
def execStatusFrame (s : State) : Ans :=
  let m := s.meter
  .next (s.export_ (.status m.time (BitVec.ofNat 64 (m.eimp / perMwh)) (BitVec.ofNat 64 (m.erev / perMwh)) (BitVec.ofNat 16 (m.flags 0)) m.seq))

/-- IDENTITY_FRAME_EXPORT (R388). -/
def execIdentityFrameExport (s : State) : Ans :=
  let m := s.meter
  .next (s.export_ (.identity (BitVec.ofNat 456 m.pub) m.serial m.checksum meterVersion))

/-- Records that backfill cycles through (R388). -/
def backfillDepth : Nat := 4096

/-- The newest records held, those that a reader can ask for again. -/
def MeterSt.newestRecs (m : MeterSt) : List (Nat × MeterRec) := m.recs.drop (m.recs.length - backfillDepth)

/-- Send one of the newest records again, the next one in turn. -/
def State.sendAgain (s : State) (n : Nat) (r : MeterRec) : State := (s.onMeter fun m => { m with backfill := (m.backfill + 1) % n }).export_ (.record r)

/-- The record to send again: the one in turn among the newest. -/
def MeterSt.due (m : MeterSt) : Option MeterRec := ((m.newestRecs.drop (m.backfill % m.newestRecs.length)).head?).map (·.2)

/-- BACKFILL (R388): the next of the newest 4,096 records is sent again. -/
def execBackfill (s : State) : Ans :=
  match s.meter.due with
  | none => .next s
  | some r => .next (s.sendAgain s.meter.newestRecs.length r)

/-! The marker input (R389). -/

/-- A marker is accepted: its record is due, from which on records name its epoch and root, and 100 ms open in which no other is accepted. -/
def MeterSt.acceptMarker (m : MeterSt) (k : Marker) (merges : Nat) : MeterSt :=
  { (m.note (.epoch k.epoch k.root merges)) with accepted := some (k.epoch, k.root), window := true, heldM := none, merges := 0 }

/-- MARKER_RECEIPT (R389): marker `i` of those on their way reaches the meter; a broken one is discarded, a repeat of the last accepted ignored, and one within 100 ms held. -/
def execMarkerReceipt (i : Nat) (intact : Bool) (s : State) : Ans :=
  match s.mir.markers[i]? with
  | none => .next s
  | some k =>
    let s := s.onMir fun x => { x with markers := dropAt x.markers i }
    if !intact || decide (s.meter.accepted = some (k.epoch, k.root)) then .next s
    else if s.meter.window then
      .next (s.onMeter fun m => { m with heldM := some k, merges := if m.heldM.isSome then m.merges + 1 else m.merges })
    else .next (s.onMeter fun m => m.acceptMarker k 0)

/-- MARKER_HOLD_END (R389): the 100 ms end; a held marker is accepted. -/
def execMarkerHoldEnd (s : State) : Ans :=
  match s.meter.heldM with
  | some k => .next (s.onMeter fun m => m.acceptMarker k m.merges)
  | none => .next (s.onMeter fun m => { m with window := false })

end Sys2Proof.Machine
end

