-- ==== Sys2Proof/Machine/ClockPower.lean ====
section
/-! DEFINITION. Clocks, inlet, governor, thermal duty and coolant (R304, R305, R311 to R319). -/

namespace Sys2Proof.Machine

/-! Region clocks (R305). -/

/-- PLL_LOCKED (R305): a clocked region's PLL has locked. -/
def execPllLocked (r : Region) (s : State) : Ans :=
  if (s.reg r).powered && (s.reg r).clockOn then .next (s.onReg r fun g => { g with lock := true }) else .next s

/-- PLL_LOCK_TIMEOUT (R305): not locked within 100 µs, a region configuration fault. -/
def execPllLockTimeout (r : Region) (s : State) : Ans :=
  if (s.reg r).powered && (s.reg r).clockOn && !(s.reg r).lock then .next (s.reportRegion r 0x13) else .next s

/-! The inlet (R311). -/

/-- The module is on: bring-up has begun. -/
def State.isOn (s : State) : Bool := decide (s.pwr.stage ≠ 0)

/-- The inlet leaves its range: a module that is on quiesces, and the management bus goes on showing the alert (R312, R323, Table 14.11; log entry 167). -/
def State.inletLost (s : State) (mv : U16) : State :=
  let s := s.onPwr fun p => { p with inletOk := false, mv := mv, standby := 0 }
  (if s.isOn then s.quiesceNow else s).alert 0

/-- POWER_FAIL (R311): the filtered inlet is below 44 V. -/
def execPowerFail (mv : U16) (s : State) : Ans := if mv.toNat < 44000 then .next (s.inletLost mv) else .next s

/-- OVER_VOLTAGE (R311): the filtered inlet is above 56 V. -/
def execOverVoltage (mv : U16) (s : State) : Ans := if 56000 < mv.toNat then .next (s.inletLost mv) else .next s

/-- ABSOLUTE_OVER_VOLTAGE (R311): above 60 V the protection opens the regulator inputs, whatever the filter shows, and the module quiesces on its storage. -/
def execAbsoluteOverVoltage (mv : U16) (s : State) : Ans := if 60000 < mv.toNat then .next (s.inletLost mv) else .next s

/-- INLET_RESTORED (R311): 45 V to 56 V for 100 ms; with `PWR_EN` high, bring-up starts. The module has no power without its meter cartridge (R377). -/
def execInletRestored (mv : U16) (s : State) : Ans :=
  if s.meter.seated = true ∧ 45000 ≤ mv.toNat ∧ mv.toNat ≤ 56000 then .next (s.onPwr fun p => { p with inletOk := true, mv := mv }).startBringUp else .next s

/-! The meter cartridge on its carrier (R377, R392). -/

/-- UNSEATED (R392): the cartridge leaves its carrier. With the inlet live the meter also records a loss of power, at the voltage it last measured, and the module quiesces (log entry 168). -/
def execUnseated (s : State) : Ans :=
  let live := !s.meter.lost
  let s := s.onMeter fun m =>
    let m := { m with seated := false, unseated := true }.sealEvent 2
    if live then m.lose m.mv else m
  .next (if s.pwr.inletOk then s.inletLost 0 else s)

/-- SEATED (R392). -/
def execSeated (s : State) : Ans := .next (s.onMeter fun m => { m with seated := true }.sealEvent 3)

/-! Duty (R314, R318, R319). -/

/-- Every region runs at the lesser of the module's and its own duty fraction; one below 16/16 has been gated (R314, R319). -/
def State.setDuties (s : State) : State :=
  (List.range 48).foldl (fun s p => s.onReg p fun g =>
    let d := min s.pwr.mduty g.tduty
    { g with duty := d, gate := g.gate || (decide (d < 16) && g.powered && g.clockOn) }) s

/-- P_allow in hundredths of a watt: the least of 44 kW, `PCAP` and the coolant allowance (R314). -/
def State.allowance (s : State) : Nat := min 4400000 (min (fld (s.setting 0x900C).toNat 0 6 * 100000) s.pwr.allowC)

/-- Least duty fraction, in sixteenths. -/
def minDuty : Nat := 4

/-- One step of a fraction that falls every tick and rises every tenth: its new value and its count of rising ticks (R314, R318). -/
def dutyStep (down up : Bool) (d n : Nat) : Nat × Nat :=
  if down then (max minDuty (d - 1), 0)
  else if up then (if 10 ≤ n + 1 then (min 16 (d + 1), 0) else (d, n + 1))
  else (d, 0)

/-- A millisecond's readings: `CTL_VIN` and `CTL_PIN` take the carrier's, which has no power without the cartridge, and the meter takes its own (R311, R376, R377, R379). -/
def State.takeReading (s : State) (x : InletReading) : State :=
  let s := s.onPwr fun p => { p with mv := if s.meter.seated then x.mv else 0, watts := if s.meter.seated then x.watts else 0 }
  if s.meter.live then s.onMeter fun m => m.sample x.meterMv.toNat x.chanA x.chanB else s

/-- GOVERNOR_TICK (R314): the power of the last millisecond moves the module duty fraction; 100 ms of excess at 4/16 ends in a quiesce. -/
def execGovernorTick (reading : InletReading) (s : State) : Ans :=
  let s := s.takeReading reading
  let watts := s.pwr.watts
  if s.isOn then
    let above := decide (s.allowance < 100 * watts.toNat)
    let under := decide (100 * watts.toNat * 100 < 95 * s.allowance)
    let stuck := above && decide (s.pwr.mduty = minDuty)
    let x := dutyStep above under s.pwr.mduty s.pwr.riseMs
    let s := s.onPwr fun p => { p with mduty := x.1, riseMs := x.2, gateMs := if stuck then p.gateMs + 1 else 0 }
    let s := if s.pwr.mduty < 16 then s.alert 2 else s
    if 100 ≤ s.pwr.gateMs then .next s.quiesceNow else .next s.setDuties
  else .next s

/-- THERMAL_DUTY_TICK (R318): a region's junction temperature moves its thermal duty fraction. -/
def execThermalDutyTick (r : Region) (tj : Byte) (s : State) : Ans :=
  let x := dutyStep (decide (92 < tj.toNat)) (decide (tj.toNat < 90)) (s.reg r).tduty (s.pwr.tempRise.get 0 r)
  let s := (s.onReg r fun g => { g with tj := tj, tduty := x.1 }).onPwr fun p => { p with tempRise := p.tempRise.set 0 r x.2 }
  let s := if (s.reg r).tduty < 16 then s.alert 3 else s
  .next s.setDuties

/-- JUNCTION_TRIP (R318): at 105 °C the region's regulator trips, a region supply fault. -/
def execJunctionTrip (r : Region) (s : State) : Ans := execRegionSupplyTrip r (if (s.reg r).powered then s.alert 4 else s)

/-! Coolant (R316, R317). -/

/-- Samples of 100 ms in 1 s. -/
def silentLimit : Nat := 10

/-- Two readings of a pair differ by more than 10 % of the greater (log entry 96). -/
def disagrees (a b : Nat) : Bool := decide (max a b < 10 * (max a b - min a b))

/-- The value of a sensor pair: the pick of two readings that agree, one of two that do not, the one that reports, the last value while both are silent for less than 1 s, none after (R316; which of two sensors that disagree works is open, log entry 96). -/
def pairValue (pick : Nat → Nat → Nat) (first : Bool) (a b : Option (BitVec 10)) (last : Nat) (na nb : Nat) : Option Nat :=
  match a, b with
  | some x, some y => some (if disagrees x.toNat y.toNat then (if first then x.toNat else y.toNat) else pick x.toNat y.toNat)
  | some x, none => some x.toNat
  | none, some y => some y.toNat
  | none, none => if silentLimit ≤ na ∧ silentLimit ≤ nb then none else some last

/-- Consecutive silent samples. -/
def silentNext (a : Option (BitVec 10)) (n : Nat) : Nat := if a.isNone then n + 1 else 0

/-- A pair disagrees, or one of it has been silent for 1 s. -/
def pairFaulty (a b : Option (BitVec 10)) (na nb : Nat) : Bool :=
  decide (silentLimit ≤ na) || decide (silentLimit ≤ nb) || match a, b with | some x, some y => disagrees x.toNat y.toNat | _, _ => false

/-- A fault of a sensor pair that was not there before goes to the health log (R316; its class is open, log entry 95). -/
def State.logSensor (s : State) (was now : Bool) (pair : Nat) : State := if now && !was then s.openClass pair else s

/-- COOLANT_SAMPLE (R316): 100 ms averages of the sensors; the lower flow and the higher temperature count, of a pair that disagrees one sensor alone, and the allowance is 0.6875 kW per L/min. -/
def execCoolantSample (flowA flowB tinA tinB : Option (BitVec 10)) (tout : BitVec 10) (s : State) : Ans :=
  let na := silentNext flowA s.pwr.silentA
  let nb := silentNext flowB s.pwr.silentB
  let ta := silentNext tinA s.pwr.silentTA
  let tb := silentNext tinB s.pwr.silentTB
  let (v, s) := s.fresh
  let flow := (pairValue min (bitAt v 0) flowA flowB s.pwr.flow na nb).getD 0
  let tin := (pairValue max (bitAt v 1) tinA tinB s.pwr.tin ta tb).getD s.pwr.tin
  let badFlow := pairFaulty flowA flowB na nb
  let badTin := pairFaulty tinA tinB ta tb
  let wasFlow := s.pwr.badFlow
  let wasTin := s.pwr.badTin
  let s := s.onPwr fun p => { p with flow := flow, tin := tin, tout := tout.toNat, silentA := na, silentB := nb, silentTA := ta, silentTB := tb,
                                     badFlow := badFlow, badTin := badTin, sens := p.sens || badFlow || badTin, allowC := flow * 6875 }
  let s := (s.logSensor wasFlow badFlow 0).logSensor wasTin badTin 1
  .next (if flow < 640 ∨ tin < 200 ∨ 400 < tin then s.alert 1 else s)

/-- COOLANT_LIMIT (R317): in service, inlet above 45 °C or flow below 16 L/min for 1 s starts the quiesce. -/
def execCoolantLimit (s : State) : Ans :=
  if s.pwr.ready && (decide (450 < s.pwr.tin) || decide (s.pwr.flow < 160)) then .next s.quiesceNow else .next s

end Sys2Proof.Machine
end

