-- ==== Sys2Proof/Machine/BringUp.lean ====
section
/-! DEFINITION. Sideband pins, bring-up, the topology and link-error checks, and the host link's controllers (R15, R292, R320 to R328, R331, R335). -/

namespace Sys2Proof.Machine

/-! Pins (R320, R321). -/

/-- `ALERT_N` is asserted: a cause is set whose enable is set (R322). -/
def State.alertN (s : State) : Bool := decide (s.pwr.alert &&& (s.setting 0x9024).setWidth 10 ≠ 0)

/-- PWR_EN_HIGH (R320): accepted high; with the inlet in range, bring-up starts. -/
def execPwrEnHigh (s : State) : Ans := .next (s.onPwr fun p => { p with pwrEn := true }).startBringUp

/-- PWR_EN_LOW (R320): accepted low; a module that is on quiesces, and its rails stay off. -/
def execPwrEnLow (s : State) : Ans :=
  let s := s.onPwr fun p => { p with pwrEn := false }
  if s.isOn then .next s.quiesceNow else .next s

/-- MOD_RST_N (R321): a level low for 100 µs resets every unit but the meter; the module stays at stage 0 until the level rises, with the next microsecond, and the control die boots again (log entry 169). -/
def execModRstN (s : State) : Ans := .next (s.volatileLost.onPwr fun p => { p with rstLow := true })

/-- RSTGL (R321): a pulse of 1 µs to 100 µs is ignored and counted. -/
def execRstgl (s : State) : Ans := .next (s.onPwr fun p => { p with rstgl := BitVec.ofNat 8 (min (p.rstgl.toNat + 1) 255) })

/-! Bring-up (R324, R325). -/

/-- Retire a region at bring-up: its zone is switched off (R325). -/
def State.retireRegion (s : State) (p : Nat) : State := s.onReg p fun g => { g with powered := false, clockOn := false, lock := false, retired := true }

/-- A core fails self-test: its row shifts around it, or the region is retired when the row's spare is used (R15, R325). -/
def State.badCore (s : State) (p pc : Nat) : State :=
  let row := p * 28 + pc / 33
  match s.flt.fences.get none row with
  | none => s.onFlt fun f => { f with fences := f.fences.set none row (some (pc % 33)), dead := f.dead ++ [p * 924 + pc] }
  | some c => if c = pc % 33 then s else s.retireRegion p

/-- Every region is powered, tested and shifted by its fuse map (R325). -/
def State.powerRegions (s : State) : State :=
  let s := (List.range 48).foldl (fun s p => s.onReg p fun g => { g with powered := true, tested := true }) s
  s.onFlt fun f => { f with fences := s.pwr.fuse, dead := s.pwr.fuse.filterMap fun x => x.2.map fun c => x.1 / 28 * 924 + x.1 % 28 * 33 + c }

/-- Photonic engines power up, and their lanes begin to train (R325). -/
def State.powerEngines (s : State) : State := (List.range 16).foldl (fun s e => s.onEng e fun x => { x with ok := true }) s

/-- The carrier's coolant lies in its bring-up range (R317). -/
def State.coolantReady (s : State) : Bool := decide (320 ≤ s.pwr.flow) && decide (200 ≤ s.pwr.tin) && decide (s.pwr.tin ≤ 400)

def State.toStage (s : State) (n : Nat) : State := s.onPwr fun p => { p with stage := n }

/-- BRING_UP_STAGE_END (R324): the stage in hand meets its end condition; the next begins, and stage 7 is ready and idle. -/
def execBringUpStageEnd (failed : List Region) (cores : List (Region × PCore)) (s : State) : Ans :=
  if s.pwr.fail ≠ 0 then .next s
  else
    match s.pwr.stage with
    | 1 => .next (s.toStage 2)
    | 2 => if s.mir.live then .next ((s.toStage 3).powerEngines) else .next s
    | 3 => if s.coolantReady then .next (s.toStage 4) else .next s
    | 4 => .next (s.toStage 5)
    | 5 =>
      let s := cores.foldl (fun s x => s.badCore x.1 x.2) s.powerRegions
      .next ((failed.foldl (fun s p => s.retireRegion p) s).toStage 6)
    | 6 =>
      let s := failed.foldl (fun s p => s.retireRegion p) s
      .next ((s.recomputeRoutes.toStage 7).onPwr fun p => { p with ready := true })
    | _ => .next s

/-- BRING_UP_STAGE_TIMEOUT (R324): a stage up to 4 exceeds its limit or fails its check; bring-up stops with its failure code. Stages 5 and 6 do not stop it (R325). -/
def execBringUpStageTimeout (coolant : Bool) (s : State) : Ans :=
  let n := s.pwr.stage
  if 1 ≤ n ∧ n ≤ 4 ∧ s.pwr.fail = 0 then
    .next ((s.onPwr fun p => { p with fail := if n = 4 then 5 else if n = 3 ∧ coolant then 4 else n }).alert 5)
  else .next s

/-! Readiness of a configuration (R327, R328). -/

/-- A declared link is `UP` with its declared partner module and engine; its fibre set is that of its identity frame (R232, R327). -/
def State.linkMatches (s : State) (d : LinkDecl) : Bool :=
  let k := s.link d.engine d.link
  decide (k.st = .up) && match k.peer with
  | none => false
  | some f => decide (s.realMod f.mod.toNat = s.realMod d.pmod) && decide (f.engine.val = d.pengine) && decide (f.fibres.toNat = d.rx)

/-- A lane of an engine with declared links is in service outside the declared fibre sets. -/
def State.strayLane (s : State) (e : Nat) : Bool :=
  s.engineDeclared e && (List.range 64).any fun l =>
    decide ((s.lane e l).st = .service) && !(s.cfg.links.any fun d => d.engine = e && (bitAt d.tx (l / 8) || bitAt d.rx (l / 8)))

/-- The topology check passes (R327). -/
def State.topologyOk (s : State) : Bool := s.cfg.links.all s.linkMatches && !((List.range 16).any s.strayLane)

/-- TOPOLOGY_CHECK_PASS (R327): the first step may begin. -/
def execTopologyCheckPass (s : State) : Ans :=
  if s.cfg.topoWait && s.topologyOk then .next (s.onCfg fun c => { c with topoWait := false, topoOk := true }).advance else .next s

/-- TOPOLOGY_TIMEOUT (R327): the limit has passed; the module says so and goes on waiting. -/
def execTopologyTimeout (s : State) : Ans :=
  if s.cfg.topoWait then
    .next (((s.onPwr fun p => { p with topoTo := true }).alert 6).event 0x0A (BitVec.ofNat 64 (s.cfg.links.filter fun d => !s.linkMatches d).length))
  else .next s

/-- Errored bits in a second of 2.24 × 10¹¹ that exceed a ratio of 10⁻⁵ (R226, R328). -/
def marginalErrs : Nat := 2240000

/-- Marginal links, as engine × 8 + link, ascending (R328). -/
def State.marginalLinks (s : State) : List Nat :=
  (List.range 128).filter fun n => (s.serviceLanes (n / 8) (n % 8)).any fun l => decide (marginalErrs < (s.lane (n / 8) l).second)

/-- LINK_ERROR_CHECK (R328): each lane's errors over the preceding second are judged by link. -/
def execLinkErrorCheck (s : State) : Ans :=
  let ms := s.marginalLinks
  let s := s.onPwr fun p => { p with
    nmarg := min ms.length 255
    margLink := if p.marg then p.margLink else ms.headD p.margLink
    marg := p.marg || !ms.isEmpty }
  let s := if ms.isEmpty then s else s.alert 7
  .next { s with eng := mapTab {} (fun x => { x with links := mapTab {} (fun k => { k with marginal := false }) x.links }) s.eng
                          |> fun t => ms.foldl (fun t n => t.upd {} (n / 8) fun x => { x with links := x.links.upd {} (n % 8) fun k => { k with marginal := true } }) t }

/-! The host link (R331, R335). -/

/-- BRIDGE_CONTROLLER_FAILOVER (R335): the link recovers onto the second controller; a second fault leaves it down and exceeds the sparing budget. -/
def execBridgeControllerFailover (s : State) : Ans :=
  if s.brg.spareOk then
    let s := s.onBrg fun b => { b with act := !b.act, spareOk := false, linkDown := true, downSince := s.time.toNat, failover := BitVec.ofNat 16 (min (b.failover.toNat + 1) 0xFFFF) }
    .next ((s.logHealth { cls := 0x49, action := 9, detail := b2n s.brg.act }).event 0x0E (BitVec.ofNat 64 (b2n s.brg.act)))
  else .next (s.onBrg fun b => { b with linkDown := true, dead := true }).sparesExhausted

/-- IDE_KM_OVER_DOE (R331): IDE keys are set up, or torn down. -/
def execIdeKmOverDoe (established : Bool) (s : State) : Ans := .next (s.onBrg fun b => { b with ide := established })

end Sys2Proof.Machine
end

