-- ==== Sys2Proof/Machine/Sag.lean ====
section
/-! DEFINITION. Sag exchange records, meter-time offsets and feed correlation (R295). -/

namespace Sys2Proof.Machine

/-- The outer-sheaf partners of this module: those that `PARTNER_SET` put in force and those the link course names (R148, R354). -/
def State.outerPartners (s : State) : List Nat :=
  ((s.cfg.partners.map fun x => x.1.toNat) ++ s.linkCourse.outer.flatMap fun o => o.data ++ [o.parity]).eraseDups.filter fun m => decide (m ≠ s.ownMod)

/-- The sag exchange record for a partner: meter times as the control die knows them (R295). -/
def State.sagRecord (s : State) (m : Nat) : SagRec :=
  let e := (s.flt.echoes.find? fun x => x.1 = m).map (·.2)
  { mod := BitVec.ofNat 16 s.ownMod, step := s.run.step, cepoch := s.cfg.epoch, sag := s.flt.lastSag, sent := s.meter.time
    echoSent := (e.map (·.1)).getD 0, echoAt := (e.map (·.2)).getD 0 }

/-- SAG_EXCHANGE_SEND (R295): a record leaves for every outer-sheaf partner. -/
def execSagExchangeSend (s : State) : Ans := .next (s.outerPartners.foldl (fun t m => t.emitOut (.sag m (s.sagRecord m))) s)

/-- Offset of a partner's meter time from the local one, from the four times of an exchange (R295; log entry 86). -/
def offsetOf (x : SagRec) (now : U64) : Int :=
  (((x.echoAt.toNat : Int) - x.echoSent.toNat) + ((x.sent.toNat : Int) - now.toNat)) / 2

/-- A sag of a partner, in local meter time. -/
def State.partnerSag (s : State) (m : Nat) (t : U64) : Int := (t.toNat : Int) - ((s.flt.offsets.find? fun x => x.1 = m).map (·.2)).getD 0

/-- A local and a partner sag lie within 100 µs of each other (R295). -/
def State.coincides (s : State) (x : Nat × U64) : Bool :=
  decide (s.flt.lastSag ≠ 0) && decide (x.2 ≠ 0) && (s.flt.offsets.any fun y => y.1 = x.1) &&
  decide ((s.partnerSag x.1 x.2 - s.flt.lastSag.toNat).natAbs ≤ 100) && !s.flt.coinc.contains (x.1, x.2.toNat, s.flt.lastSag.toNat)

/-- A coincidence is logged; the third within 24 hours of meter time raises feed correlation (R295). -/
def State.noteCoincidence (s : State) (x : Nat × U64) : State :=
  if s.coincides x then
    let t := s.flt.lastSag.toNat
    let l := (s.flt.coinc.filter fun y => decide (t ≤ y.2.2 + 86400000000)) ++ [(x.1, x.2.toNat, t)]
    let s := (s.onFlt fun f => { f with coinc := l }).logHealth { cls := 0x3A, sub := x.1 }
    if 3 ≤ l.length ∧ !s.flt.corr then ((s.onFlt fun f => { f with corr := true }).logHealth { cls := 0x39, sub := x.1 }).event 0x0C 0 else s
  else s

/-- Compare the local sag with every partner's last one. -/
def State.judgeSags (s : State) : State := s.flt.partnerSags.foldl (fun s x => s.noteCoincidence x) s

/-- The last entry of a list by its module. -/
def putMod {α : Type} (l : List (Nat × α)) (m : Nat) (v : α) : List (Nat × α) := (l.filter fun x => decide (x.1 ≠ m)) ++ [(m, v)]

/-- SAG_EXCHANGE_RECORD (R295): a partner's record updates its offset, and coincidences are counted. -/
def execSagExchangeRecord (x : SagRec) (s : State) : Ans :=
  let m := x.mod.toNat
  if s.outerPartners.contains m then
    let s := s.onFlt fun f => { f with
      echoes := putMod f.echoes m (x.sent, s.meter.time)
      offsets := if x.echoSent = 0 then f.offsets else putMod f.offsets m (offsetOf x s.meter.time)
      partnerSags := putMod f.partnerSags m x.sag }
    .next (s.noteCoincidence (m, x.sag))
  else .next s

end Sys2Proof.Machine
end

