-- ==== Sys2Proof/Machine/Mirror.lean ====
section
/-! DEFINITION. The control die's mirror of the meter: export frames received, the mirrored records and their policy (R388, R390, R391, R393). -/

namespace Sys2Proof.Machine

/-- Slots of the mirror (R390). -/
def mirrorSlots : Nat := 32768

/-- Fields of a record as a number (Table 17.3). -/
def recSeq (r : MeterRec) : Nat := fld r.toNat 64 64
def recPrev (r : MeterRec) : Nat := fld r.toNat (8 * 0x68) 256

/-- First 32 bytes of SHAKE256 over a record. -/
def recDigest (r : MeterRec) : Nat := leNat (shake256 (leBytes 256 r.toNat) 32)

/-- The mirrored record of a sequence number. -/
def MirrorSt.held (m : MirrorSt) (seq : Nat) : Option MeterRec :=
  match m.recs.get none (seq % mirrorSlots) with
  | none => none
  | some (n, r) => if n = seq then some r else none

/-- Sequence numbers mirrored. -/
def MirrorSt.seqs (m : MirrorSt) : List Nat := m.recs.filterMap fun x => x.2.map (·.1)

/-- The oldest mirrored sequence number; the newest where none is held. -/
def MirrorSt.oldest (m : MirrorSt) : Nat := m.seqs.foldl min m.newest.toNat

/-- `MTR_STATUS.GAP`: a number between the oldest and the newest is not held. -/
def MirrorSt.gap (m : MirrorSt) : Bool := !m.seqs.isEmpty && decide (m.seqs.length ≠ m.newest.toNat - m.oldest + 1)

/-- A record's signature holds under the key of the identity frames, and it joins the chain of its mirrored neighbours (R385, R388). -/
def MirrorSt.verifies (m : MirrorSt) (r : MeterRec) : Bool :=
  let b := leBytes 256 r.toNat
  (match m.pub with
   | none => false
   | some k => ed448Verify (leBytes 57 k) meterContext (b.take 0x8E) (b.drop 0x8E)) &&
  (match m.held (recSeq r - 1) with | none => true | some p => decide (recSeq r = 0) || decide (recPrev r = recDigest p)) &&
  (match m.held (recSeq r + 1) with | none => true | some n => decide (recPrev n = recDigest r))

/-- Stop at full keeps a record whose slot is not free yet out of the mirror (R390). -/
def MirrorSt.blocked (m : MirrorSt) (seq : Nat) : Bool :=
  m.stopFull && match m.recs.get none (seq % mirrorSlots) with
    | none => false
    | some (n, _) => decide (m.newest.toNat ≤ n + mirrorSlots)

/-- A record reaches the mirror (R388, R390). -/
def MirrorSt.take (m : MirrorSt) (r : MeterRec) : MirrorSt :=
  let q := recSeq r
  if m.held q = some r then m
  else if !m.verifies r then { m with badsig := sat32 m.badsig 1 }
  else if m.blocked q then { m with full := true }
  else { m with recs := m.recs.set none (q % mirrorSlots) (some (q, r)), newest := BitVec.ofNat 64 (max m.newest.toNat q) }

/-- Bring-up stage 2 waits for the first valid status or identity frame (Table 14.8); the frame is noted as export live. -/
def MirrorSt.alive (m : MirrorSt) : MirrorSt := { m with live := true }

/-- EXPORT_FRAME_RECEIPT (R388): frame `i` of those on the link reaches the control die; one that is broken is discarded and counted. -/
def execExportFrameReceipt (i : Nat) (intact : Bool) (s : State) : Ans :=
  match s.mir.frames[i]? with
  | none => .next s
  | some f =>
    let s := s.onMir fun m => { m with frames := dropAt m.frames i }
    let bad := s.onMir fun m => { m with badf := sat32 m.badf 1 }
    if !intact then .next bad
    else
      match f with
      | .bad => .next bad
      | .status t e _ fl _ =>
        .next (s.onMir fun m => { m.alive with mtime := t, eimp := e, tamper := fl.getLsbD 0, disagr := fl.getLsbD 2 })
      | .record r => .next (s.onMir fun m => (m.take r).alive)
      | .sag t _ _ => .next ((s.onMir (·.alive)).onFlt fun x => { x with lastSag := t }).judgeSags
      | .identity pub serial sum ver =>
        .next (s.onMir fun m => { m.alive with
          pub := some pub.toNat, ident := BitVec.ofNat 640 (pub.toNat + 2 ^ 456 * serial.toNat + 2 ^ 520 * sum.toNat + 2 ^ 552 * ver.toNat) })

/-- EXPORT_LOST (R388): no valid frame for 100 ms. -/
def execExportLost (s : State) : Ans :=
  if s.mir.live then .next (((s.onMir fun m => { m with live := false, lost := true }).alert 8).event 0x0D 0) else .next s

/-- Forbidden by `CTL_LOCK.MTRMIR` (R371, R390): discarded and counted with cause 0x4 by the register write. -/
def State.mirrorLocked (s : State) : Bool := s.set.lock.getLsbD 2

/-- The policies of `CTL_MTR_CFG.OP` (R390). -/
def MirrorSt.setPolicy (m : MirrorSt) (stop : Bool) : MirrorSt := { m with stopFull := stop, full := m.full && stop }

/-- A clear empties the mirror (R390). -/
def MirrorSt.clear (m : MirrorSt) : MirrorSt := { m with recs := [], newest := 0, full := false }

end Sys2Proof.Machine
end

