-- ==== Sys2Proof/Machine/RegRead.lean ====
section
/-! DEFINITION. What a read of each register of the window returns, and the bits a read clears (R359, R363, R366, R367, R371 to R375 and the register tables of the other chapters). -/

namespace Sys2Proof.Machine

/-- Word `i` of a value that several registers hold. -/
def wordOf (v i : Nat) : U32 := BitVec.ofNat 32 (v / 2 ^ (32 * i))

/-- Fields packed into a register, least significant first. -/
def regOf (l : List (Nat × Nat)) : U32 := BitVec.ofNat 32 (pack l)

/-- The block of a physical region answers: the region is not dark, retired or a standby; in `IDLE`, where no region is in service, every powered region's block does (R366; log entry 111). -/
def State.blockAnswers (s : State) (p : Nat) : Bool :=
  (s.reg p).powered && !(s.reg p).retired && (decide (s.run.st = .idle) || (s.logicalOf p).isSome)

/-! Pages of the `CTL_` block. -/

/-- Identity and register conventions (Table 16.5). -/
def State.readConv (s : State) (a : Nat) : Option U32 :=
  if a = 0x0 then some 0x32B00048
  else if a = 0x4 then some (regOf [(b2n s.set.disc, 1), (b2n s.set.slost, 1), (b2n s.set.par, 1), (b2n s.grd.pending.isSome, 1)])
  else if a = 0x8 then some s.set.discCount
  else if a = 0xC then some s.set.daddr
  else if a = 0x10 then some s.set.parCount
  else none

/-- Guards and locks (Table 16.6). -/
def State.readGuard (s : State) (a : Nat) : Option U32 :=
  if a = 0x1000 ∨ a = 0x1004 ∨ a = 0x1008 ∨ a = 0x100C ∨ a = 0x1010 ∨ a = 0x1014 then some 0
  else if a = 0x1018 then some (regOf [(s.grd.code, 3), (s.grd.guard, 2), (b2n s.grd.fresh, 1)])
  else if a = 0x1020 then some (s.set.lock.setWidth 32)
  else none

/-- Numeric ring (Table 2.8). -/
def State.readNum (s : State) (a : Nat) : Option U32 :=
  if a = 0x4004 then some (regOf [(b2n (s.num.held && s.num.holdNumeric), 1), (b2n s.num.trig, 1), (b2n s.num.ovfl, 1)])
  else if a = 0x4008 then some (s.num.prod.setWidth 32)
  else if a = 0x400C then some (s.num.cons.setWidth 32)
  else if a = 0x4010 then some s.num.drop
  else if a = 0x4014 then some (s.num.hmb.setWidth 32)
  else none

/-- Host queues and bridge DMA (Tables 9.6, 9.9); an operation is applied at once, so `BUSY` reads 0 (log entry 99). -/
def State.readQueues (s : State) (a : Nat) : Option U32 :=
  if a = 0x5010 ∨ a = 0x501C then some 0
  else if a = 0x5014 then some (regOf [(0, 4), (s.brg.hqCode, 4)])
  else if a = 0x5018 then some s.brg.hqDerr
  else if 0x5020 ≤ a ∧ a ≤ 0x503C then
    some (regOf ((List.range 32).map fun i => (b2n (s.chan (bridgeBase + (a - 0x5020) / 4 * 32 + i)).stop, 1)))
  else none

/-- Layout epochs (Table 10.4). -/
def State.readLayout (s : State) (a : Nat) : Option U32 :=
  if a = 0x6000 then some s.cfg.layout
  else if a = 0x6004 then
    let armed := decide (s.stg.st = .armed) && s.stg.reshard
    let moving := !s.cfg.moves.isEmpty
    let waits := armed && moving && !s.run.inStep && s.applyDue
    some (regOf [(b2n armed, 1), (b2n moving, 1), (b2n waits, 1), (b2n s.cfg.rsDone, 1), (0, 10), (s.cfg.moves.length, 18)])
  else if a = 0x6008 then some s.cfg.fwd
  else if a = 0x600C then some s.cfg.stale
  else if a = 0x6010 then some s.cfg.miss
  else if a = 0x6014 then some (sat32 0 (s.cfg.moved / 1024))
  else none

/-- Codes of the staged-set states (Table 12.10). -/
def stageCode : StageState → Nat
  | .empty => 0
  | .loading => 1
  | .checking => 2
  | .checked => 3
  | .armed => 4
  | .failed => 5

/-- Staging and configuration (R271). -/
def State.readStage (s : State) (a : Nat) : Option U32 :=
  if a = 0x7000 then
    some (regOf [(stageCode s.stg.st, 3), (b2n s.cfg.image.isNone, 1), (b2n s.stg.decl, 1), (b2n s.stg.disag, 1), (0, 2), (s.stg.code, 5)])
  else if a = 0x7004 then some (wordOf s.stg.b.toNat 0)
  else if a = 0x7008 then some (wordOf s.stg.b.toNat 1)
  else if a = 0x700C then some s.stg.e
  else if a = 0x7010 then some s.cfg.epoch
  else if a = 0x7014 then some s.cfg.xep
  else if a = 0x7018 then some (BitVec.ofNat 32 (min s.cfg.load 0xFFFFF))
  else if 0x7040 ≤ a ∧ a < 0x7080 then some (wordOf s.stg.root.toNat ((a - 0x7040) / 4))
  else if 0x7080 ≤ a ∧ a < 0x70C0 then some (wordOf s.cfg.root.toNat ((a - 0x7080) / 4))
  else none

/-- Coincidences of the last 24 hours of meter time (Table 13.11). -/
def State.coincCount (s : State) : Nat := (s.flt.coinc.filter fun x => decide (s.meter.time.toNat ≤ x.2.2 + 86400000000)).length

/-- Retired regions as a bitmap (R292). -/
def State.retiredMap (s : State) : Nat := pack ((List.range 48).map fun p => (b2n (s.reg p).retired, 1))

/-- `SEQ` of the oldest health-log record held (Table 16.7). -/
def State.oldestLog (s : State) : U32 := (s.log.recs.head?.map (·.seq)).getD 0

/-- Faults and the health log (Table 13.11). -/
def State.readFault (s : State) (a : Nat) : Option U32 :=
  if a = 0x8004 then
    some (regOf [(b2n (decide (s.flt.phase ≠ .none)), 1), (b2n s.flt.exh, 1), (b2n s.flt.partner, 1), (b2n s.flt.image, 1), (b2n s.flt.logOvf, 1),
      (b2n s.flt.stbyW, 1), (b2n s.flt.stbyE, 1)])
  else if a = 0x8008 then some (wordOf s.retiredMap 0)
  else if a = 0x800C then some (wordOf s.retiredMap 1)
  else if a = 0x8010 then some (regOf [(s.protLevel, 2), (b2n s.flt.corr, 1), (min s.coincCount 3, 2), (0, 11), (s.cfg.domain.toNat, 16)])
  else if a = 0x8014 then some s.flt.replays
  else if a = 0x8018 then some s.flt.rmis
  else if a = 0x801C then some s.log.seq
  else if a = 0x8020 then some s.oldestLog
  else none

/-- Hottest junction sensor of the slab, the spread between regions, and the region (Table 14.11; log entry 100). -/
def State.thermWord (s : State) : U32 :=
  let ts := (List.range 48).map fun p => (s.reg p).tj.toNat
  let hi := ts.foldl max 0
  let lo := ts.foldl min hi
  regOf [(hi, 8), (min ((hi - lo) * 10) 255, 8), ((findIdx (fun t => t = hi) ts 0).getD 0, 6)]

/-- Boot, clocks, power, cooling (Table 14.11). -/
def State.readPower (s : State) (a : Nat) : Option U32 :=
  if a = 0x9000 then
    some (regOf [(s.pwr.stage, 4), (b2n s.pwr.ready, 1), (0, 3), (s.pwr.fail, 4), (b2n s.cfg.topoOk, 1), (b2n s.pwr.topoTo, 1), (0, 2), (s.pwr.rstgl.toNat, 8)])
  else if a = 0x9010 then some (s.pwr.mv.setWidth 32)
  else if a = 0x9014 then some (regOf [(s.pwr.watts.toNat, 16), (s.pwr.mduty, 5)])
  else if a = 0x9018 then some (regOf [(s.pwr.flow, 10), (s.pwr.tin, 10), (s.pwr.tout, 10), (b2n s.pwr.sens, 1)])
  else if a = 0x901C then some s.thermWord
  else if a = 0x9020 then some (s.pwr.alert.setWidth 32)
  else if a = 0x9028 then some (regOf [(b2n s.pwr.xOvr, 1), (s.pwr.xRegion, 6), (s.pwr.xKind, 4), (min s.pwr.xCount (2 ^ 21 - 1), 21)])
  else if a = 0x902C then some (regOf [(b2n s.pwr.marg, 1), (s.pwr.margLink, 7), (s.pwr.nmarg, 8)])
  else none

/-- Codes of the run states (Table 15.2). -/
def runCode : RunState → Nat
  | .idle => 0
  | .stopped => 1
  | .running => 2
  | .held => 3

/-- The host window is open under a configuration in force (R338). -/
def State.windowOpen (s : State) : Bool := s.cfg.image.isSome && !s.modeCourse.hwin

/-- Lines of the output and staging segments as mapped (R337). -/
def State.outLines (s : State) : Nat := min (runLines (s.exRuns.filter fun u => !u.staging) - s.resLines) (2 ^ 27)
def State.stgLines (s : State) : Nat := min (runLines (s.exRuns.filter fun u => u.staging)) (2 ^ 27)

/-- Commands executing outside the lane, and in it (Table 15.10). -/
def State.execCount (s : State) : Nat := s.run.holds.length + s.run.feeds.length + s.run.check.toList.length + s.run.resetCmd.toList.length
def State.laneCount (s : State) : Nat := s.run.laneQ.length + b2n s.laneBlocked

/-- Pending events, bit c - 1 for code c (Table 15.10). -/
def State.eventMap (s : State) : Nat := pack ((List.range 16).map fun c => (b2n (s.run.events.get {} (c + 1)).pend, 1))

/-- Run state, host window, bridge, commands and events (Table 15.10). -/
def State.readRun (s : State) (a : Nat) : Option U32 :=
  if a = 0xA000 then some (regOf [(runCode s.run.st, 3), (s.run.hcause, 4), (b2n s.run.atStep, 1)])
  else if a = 0xA004 then some (wordOf s.run.limit.toNat 0)
  else if a = 0xA008 then some (wordOf s.run.limit.toNat 1)
  else if a = 0xA00C then
    let have_ := s.cfg.image.isSome
    some (regOf [(b2n s.windowOpen, 1), (if have_ then s.stepCourse.resGiB else 0, 7), (s.outLines / gibLines, 9), (s.stgLines / gibLines, 9)])
  else if a = 0xA010 then some (BitVec.ofNat 32 s.cline)
  else if a = 0xA014 then some s.brg.hwinRej
  else if a = 0xA018 then some (regOf [(b2n s.brg.act, 1), (b2n s.brg.spareOk, 1), (b2n s.brg.ide, 1), (0, 13), (s.brg.failover.toNat, 16)])
  else if a = 0xA01C then some (regOf [(s.execCount, 6), (s.laneCount, 7)])
  else if a = 0xA020 then some (regOf [(s.eventMap, 16), (s.run.merged.toNat, 16)])
  else if 0xA100 ≤ a ∧ a < 0xA500 then some (s.run.prog.get 0 ((a - 0xA100) / 4))
  else none

/-- Occupied key slots, and the `KEYID` of each (Table 18.5). -/
def State.keyOcc (s : State) : Nat := pack ((List.range 4).map fun i => (b2n (s.keys.owners.get none i).isSome, 1))
def State.slotKeyId (s : State) (i : Nat) : U64 := match s.keys.owners.get none i with | none => 0 | some k => keyId k

/-- Key store and debug (Table 18.5); `CTL_DBG` reads as zero once locked (R371). -/
def State.readKeys (s : State) (a : Nat) : Option U32 :=
  if a = 0xC000 then some (BitVec.ofNat 32 s.keyOcc)
  else if a = 0xC004 then some (wordOf s.keys.count.toNat 0)
  else if a = 0xC008 then some (wordOf s.keys.count.toNat 1)
  else if 0xC010 ≤ a ∧ a < 0xC030 then some (wordOf (s.slotKeyId ((a - 0xC010) / 8)).toNat ((a - 0xC010) / 4 % 2))
  else if a = 0xC030 ∨ a = 0xC034 then some (wordOf (keyId Config.vendorRoot).toNat ((a - 0xC030) / 4))
  else if 0xC040 ≤ a ∧ a < 0xC080 then some (wordOf s.moduleDigest.toNat ((a - 0xC040) / 4))
  else if a = 0xC100 then some (if s.set.lock.getLsbD 1 then 0 else regOf [(b2n s.keys.vimg, 1), (b2n s.keys.used, 1)])
  else none

/-! Arrays of the `CTL_` block. -/

/-- A numeric-ring entry (Table 2.6). -/
def numEntryBytes (e : NumEntry) : List Byte :=
  let x := e.item
  leBytes 8 x.step.toNat ++ leBytes 4 (pack [(x.mbatch, 12), (b2n x.replay, 1), (0, 3), (x.lregion, 6), (0, 2), (x.pregion, 6)]) ++
    leBytes 4 (pack [(x.lcore, 10), (0, 6), (x.pcore, 10)]) ++ leBytes 4 x.tileId.toNat ++ leBytes 4 x.w0.toNat ++ leBytes 4 x.w1.toNat ++ leBytes 4 e.seq.toNat

/-- A health-log record (Table 13.9). -/
def healthBytes (r : LogRec) : List Byte :=
  let h := r.item
  leBytes 8 r.time.toNat ++ leBytes 8 r.step.toNat ++
    leBytes 4 (pack [(h.cls, 8), (h.action, 4), (b2n h.done, 1), (h.pregion, 6), (h.lregion, 6)]) ++ leBytes 4 (pack [(h.unit, 16), (h.sub, 16)]) ++
    leBytes 4 h.detail ++ leBytes 4 r.seq.toNat

/-- Records that the health-log mirror holds (R301). -/
def mirrorLen : Nat := 2048

/-- The record in slot `n` of the mirror: the newest held whose number is `n` modulo 2,048. -/
def State.logSlot (s : State) (n : Nat) : Option LogRec :=
  (s.log.recs.drop (s.log.recs.length - mirrorLen)).find? fun r => decide (r.seq.toNat % mirrorLen = n)

/-- Word `i` of a byte list. -/
def wordAt (l : List Byte) (i : Nat) : U32 := BitVec.ofNat 32 (leAt l (4 * i) 4)

/-- The `CTL_` block beyond its pages: ring entries, the health-log mirror, host queue contexts, doorbells. -/
def State.readArrays (s : State) (a : Nat) : Option U32 :=
  if 0x10000 ≤ a ∧ a < 0x30000 then
    let n := (a - 0x10000) / 32
    some (wordAt (numEntryBytes (s.num.ring.get {} n)) (a % 32 / 4))
  else if 0x30000 ≤ a ∧ a < 0x40000 then
    some (match s.logSlot ((a - 0x30000) / 32) with | none => 0 | some r => wordAt (healthBytes r) (a % 32 / 4))
  else if 0x80000 ≤ a ∧ a < 0x100000 then
    let q := s.hq ((a - 0x80000) / 16)
    some (if q.en then wordOf q.stg.toNat (a % 16 / 4) else 0)
  else if 0x100000 ≤ a ∧ a < 0x200000 then
    let q := s.hq ((a - 0x100000) / 32)
    if a % 32 < 8 then some 0
    else if a % 32 = 8 then some q.dev
    else if a % 32 = 12 then some (regOf [(b2n q.derr, 1), (b2n (s.fullw ((a - 0x100000) / 32)), 1), (b2n q.en, 1)])
    else none
  else none

/-! Region, link, store, press and meter blocks. -/

/-- Counts of a region block that a read returns as last latched (R64). -/
def isCount (off : Nat) : Bool :=
  [0x2004, 0x2008, 0x200C, 0x2010, 0x2014, 0x2024, 0x2028, 0x202C, 0x2048, 0x204C, 0x2050, 0x2054, 0x2064, 0x2068].contains off

/-- A count of a region block as last latched (R64). -/
def State.latchedCount (s : State) (p off : Nat) : U32 := (s.reg p).latched.get 0 off

/-- Registers of a region block that are neither settings nor counts (Tables 5.7, 6.8, 9.9, 12.15, 14.11, 19.3). -/
def State.rgnStatus (s : State) (p off : Nat) : Option U32 :=
  let g := s.reg p
  if off = 0x2030 then some (regOf [(b2n g.syncOvf, 1), (g.syncCtr, 8), (g.syncCore, 10)])
  else if off = 0x2044 then some (regOf [(b2n g.fcor, 1), (b2n g.frtx, 1), (b2n g.late, 1), (g.cluster, 5), (g.port, 3)])
  else if off = 0x2058 then some (regOf [(s.net.gen.toNat, 12), (s.net.ndark, 6)])
  else if off = 0x2060 then some (regOf [(b2n g.dmaStop, 1), (g.dmaChan, 7), (g.dmaCode, 8)])
  else if 0x2080 ≤ off ∧ off < 0x20C0 then
    let d := (s.logicalOf p).bind fun r => (s.cfg.digests.find? fun x => x.1 = r).map (·.2)
    some (wordOf (d.getD 0).toNat ((off - 0x2080) / 4))
  else if off = 0x20C4 then some (regOf [(g.duty, 5), (g.tduty, 5), (g.tj.toNat, 8), (b2n g.gate, 1)])
  else if off = 0x20C8 then some (regOf [(0, 16), (g.grant, 16)])
  else if off = 0x20CC then some (g.beat.setWidth 32)
  else none

/-- Read-only fields that share a register with settings (Table 14.11). -/
def State.withLive (s : State) (a : Nat) (v : U32) : U32 :=
  match rgnOf a with
  | some (p, off) => if off = 0x20C0 then BitVec.ofNat 32 (v.toNat % 32 + (s.reg p).k * 256 + b2n (s.reg p).lock * 8192) else v
  | none => if a = 0x02200000 then BitVec.ofNat 32 (v.toNat % 2 + b2n s.modeCourse.updt * 2) else v

/-- A register of a region block (R366, R374): of a standby, retired or dark region only the counts and `RGN_DUTY.TJ` are returned. -/
def State.readRgn (s : State) (p off : Nat) : Option U32 :=
  let live := s.blockAnswers p
  if isCount off then some (s.latchedCount p off)
  else if 0x3000 ≤ off ∧ off < 0x3000 + 924 * 4 then some ((s.reg p).numDrop.get 0 ((off - 0x3000) / 4))
  else
    match rgnDesc off with
    | some _ => some (if live then s.withLive (rgnBase p + off) (s.stagedView (rgnBase p + off)) else 0)
    | none =>
      match s.rgnStatus p off with
      | none => none
      | some v => some (if live then v else if off = 0x20C4 then v &&& 0x3FC00 else 0)

/-- Lanes of an engine in a state, as a bitmap. -/
def State.laneMap (s : State) (e : Nat) (f : LaneState → Bool) : Nat := pack ((List.range 64).map fun l => (b2n (f (s.lane e l).st), 1))

/-- A register of a link block (Table 11.8). -/
def State.readLnk (s : State) (e off : Nat) : Option U32 :=
  let x := s.engine e
  if off = 0x0 ∨ off = 0x18 then some (s.stagedView (lnkBase e + off))
  else if off = 0x4 then
    some (regOf [(b2n (x.ok && !x.lost), 1), (pack ((List.range 8).map fun j => (b2n (decide ((s.link e j).st = .up)), 1)), 8), (b2n x.mism, 1),
      (b2n (x.links.any fun k => k.2.cdiff), 1), (b2n (x.links.any fun k => k.2.ldiff), 1), (b2n x.bmiss, 1)])
  else if off = 0x8 ∨ off = 0xC then some (wordOf (s.laneMap e fun t => t = .service) ((off - 8) / 4))
  else if off = 0x10 ∨ off = 0x14 then some (wordOf (s.laneMap e fun t => t = .retired) ((off - 0x10) / 4))
  else if off = 0x1C then some (s.lane e ((s.setting (lnkBase e + 0x18)).toNat % 64)).err
  else if off = 0x20 then some x.fecUnc
  else if off = 0x24 then some x.replay
  else if off = 0x28 then some x.tretx
  else if off = 0x2C then some x.tdup
  else none

/-- Reservoir slots full or in use (Table 7.13). -/
def State.slotMap (s : State) : Nat := pack ((List.range 16).map fun i => (b2n (decide (s.store.slots.get 0 i ≠ 0)), 1))

/-- The store and orchard block (Table 7.13). -/
def State.readStr (s : State) (a : Nat) : Option U32 :=
  let t := s.store
  if a = 0x02100000 then some (regOf [(b2n t.eccCor, 1), (b2n t.eccUnc, 1), (t.eccRegion, 6), (t.eccBank, 10)])
  else if a = 0x02100004 then some t.corCount
  else if a = 0x02100008 then some t.rebuild
  else if a = 0x0210000C then some (regOf [(t.rows.toNat, 16), (t.exh.toNat, 8)])
  else if a = 0x02100010 then some (regOf [(b2n t.degr, 1), (b2n t.place, 1), (b2n s.modeCourse.prot, 1)])
  else if a = 0x02100018 then some (regOf [(s.slotMap, 16), (if s.cfg.image.isSome then s.stepCourse.s else 0, 5)])
  else if a = 0x0210001C then some t.resRej
  else if a = 0x02100020 then some (regOf [(s.orc.life, 14), (b2n (s.orc.worn || s.wearAbove), 1), (b2n s.orc.die, 1), (min (s.wearSum / 30 / 2 ^ 30) 0xFFFF, 16)])
  else if a = 0x02100024 then some s.orc.fillCount
  else none

/-- The press block (Table 8.12). -/
def State.readPrs (s : State) (a : Nat) : Option U32 :=
  let p := s.prs
  if a = 0x02200004 then some (regOf [(b2n p.skip, 1), (b2n p.nfShard, 1), (b2n p.excess, 1), (b2n p.normTo, 1)])
  else if a = 0x02200008 then some (regOf [((BitVec.ofInt 8 p.exp).toNat, 8), (min p.clean 65535, 16), (b2n s.pressCourse.ls.lsen, 1)])
  else if a = 0x0220000C then some p.skips
  else if a = 0x02200010 then some (sat32 0 (p.upd / 2 ^ 20))
  else if a = 0x02200014 then some p.excessCount
  else if a = 0x02200018 then some (BitVec.ofNat 32 (min p.asmHi (2 ^ 18 - 1)))
  else none

/-- The meter block (R390, R393). -/
def State.readMtr (s : State) (a : Nat) : Option U32 :=
  let m := s.mir
  if a = 0x03000000 then
    some (regOf [(b2n m.live, 1), (b2n m.lost, 1), (b2n m.tamper, 1), (b2n m.disagr, 1), (b2n m.gap, 1), (b2n m.full, 1), (b2n m.stopFull, 1)])
  else if a = 0x03000004 then some m.badf
  else if a = 0x03000008 then some m.badsig
  else if a = 0x03000010 ∨ a = 0x03000014 then some (wordOf m.newest.toNat ((a - 0x03000010) / 4))
  else if a = 0x03000018 ∨ a = 0x0300001C then some (wordOf m.oldest ((a - 0x03000018) / 4))
  else if a = 0x03000020 ∨ a = 0x03000024 then some (wordOf m.eimp.toNat ((a - 0x03000020) / 4))
  else if a = 0x03000028 ∨ a = 0x0300002C then some (wordOf m.mtime.toNat ((a - 0x03000028) / 4))
  else if 0x03000040 ≤ a ∧ a < 0x03000090 then some (wordOf m.ident.toNat ((a - 0x03000040) / 4))
  else if 0x03400000 ≤ a ∧ a < 0x03C00000 then
    some (match m.recs.get none ((a - 0x03400000) / 256) with | none => 0 | some x => wordOf x.2.toNat (a % 256 / 4))
  else none

/-! The window as a whole. -/

/-- A page register that is not a setting. -/
def State.readPage (s : State) (a : Nat) : Option U32 :=
  if a < 0x1000 then s.readConv a
  else if a < 0x2000 then s.readGuard a
  else if a < 0x5000 then s.readNum a
  else if a < 0x6000 then s.readQueues a
  else if a < 0x7000 then s.readLayout a
  else if a < 0x8000 then s.readStage a
  else if a < 0x9000 then s.readFault a
  else if a < 0xA000 then s.readPower a
  else if a < 0xB000 then s.readRun a
  else if a < 0xC000 then (if a = 0xB000 then some 0 else none)
  else s.readKeys a

/-- A setting register outside the region and link blocks. -/
def State.readMod (s : State) (a : Nat) : Option U32 :=
  match modDesc a with
  | some _ => some (s.withLive a (s.stagedView a))
  | none =>
    if a < 0x10000 then s.readPage a
    else if a < 0x01000000 then s.readArrays a
    else if a < 0x02200000 then s.readStr a
    else if a < 0x02300000 then s.readPrs a
    else s.readMtr a

/-- Live test controls among the reserved bits of the setting register at an address (R361; log entry 172). -/
def State.testBits (s : State) (a : Nat) : U32 :=
  match regDesc a with
  | none => 0
  | some d => s.set.test.get 0 a &&& reservedBits d a

/-- The fields of the register at a window address, none where no register stands (R372). -/
def State.readFields (s : State) (a : Nat) : Option U32 :=
  match rgnOf a with
  | some (p, off) => s.readRgn p off
  | none =>
    match lnkOf a with
    | some (e, off) => s.readLnk e off
    | none => s.readMod a

/-- The register at a window address: what a read returns, its live test controls included (R361, R372). -/
def State.readOwn (s : State) (a : Nat) : Option U32 := (s.readFields a).map (· ||| s.testBits a)

/-- The staged-view address whose active view lies at an address: 0x800 below, for a register with a staged class (R363). -/
def activeOf (a : Nat) : Option Nat :=
  if a < 0x800 then none
  else
    match regDesc (a - 0x800) with
    | none => none
    | some d => if d.swap = .immediate then none else some (a - 0x800)

/-- Value in force of a register with two views, its read-only fields as they are. -/
def State.activeView (s : State) (a : Nat) : U32 :=
  match rgnOf a with
  | some (p, _) => if s.blockAnswers p then s.withLive a (s.setting a) else 0
  | none => s.withLive a (s.setting a)

/-- What a 4-byte read of the window returns, none where no register stands (R333, R363). -/
def State.readReg (s : State) (a : Nat) : Option U32 :=
  match activeOf a with
  | some b => some (s.activeView b)
  | none => s.readOwn a

/-! Clear on read (R367). -/

/-- Clear the clear-on-read bits of a region register. -/
def RegionSt.clearRc (g : RegionSt) (off : Nat) : RegionSt :=
  if off = 0x2030 then { g with syncOvf := false }
  else if off = 0x2044 then { g with fcor := false, frtx := false, late := false }
  else if off = 0x2060 then { g with dmaStop := false }
  else if off = 0x20C4 then { g with gate := false }
  else g

/-- Clear the clear-on-read bits of a register outside the region and link blocks. -/
def State.clearMod (s : State) (a : Nat) : State :=
  if a = 0x4 then s.onSet fun t => { t with disc := false, slost := false, par := false }
  else if a = 0x1018 then s.onGrd fun g => { g with fresh := false }
  else if a = 0x4004 then s.onNum fun n => { n with trig := false, ovfl := false }
  else if a = 0x6004 then s.onCfg fun c => { c with rsDone := false }
  else if a = 0x7000 then s.onStg fun t => { t with decl := false }
  else if a = 0x8004 then s.onFlt fun f => { f with logOvf := false }
  else if a = 0x9000 then s.onPwr fun p => { p with topoTo := false }
  else if a = 0x9018 then s.onPwr fun p => { p with sens := false }
  else if a = 0x9020 then s.onPwr fun p => { p with alert := 0 }
  else if a = 0x9028 then s.onPwr fun p => { p with xOvr := false }
  else if a = 0x902C then s.onPwr fun p => { p with marg := false }
  else if a = 0x02100000 then s.onStore fun t => { t with eccCor := false, eccUnc := false }
  else if a = 0x02100020 then s.onOrc fun o => { o with worn := false }
  else if a = 0x02200004 then s.onPrs fun p => { p with skip := false, nfShard := false, excess := false, normTo := false }
  else if a = 0x03000000 then s.onMir fun m => { m with lost := false }
  else if 0x100000 ≤ a ∧ a < 0x200000 ∧ a % 32 = 12 then s.onHq ((a - 0x100000) / 32) fun q => { q with derr := false }
  else s

/-- Clear the clear-on-read bits that a read of the register at an address returned as 1; an active view clears none (R367). -/
def State.clearRc (s : State) (a : Nat) : State :=
  match rgnOf a with
  | some (p, off) => if s.blockAnswers p then s.onReg p (·.clearRc off) else s
  | none =>
    match lnkOf a with
    | some (e, off) => if off = 0x4 then s.onEng e fun x => { x with mism := false, bmiss := false } else s
    | none => s.clearMod a

/-- A 4-byte host read: the value, and the state after the clear. -/
def State.hostRead (s : State) (a : Nat) : U32 × State := ((s.readReg a).getD 0, s.clearRc a)

/-- Access sizes and alignment of the window (R333). -/
def accessOk (addr size : Nat) : Bool := (decide (size = 4) && decide (addr % 4 = 0)) || (decide (size = 8) && decide (addr % 8 = 0))

/-- A host read of a register: an access of another width or alignment is counted and reads all ones (R333), an 8-byte one is two of 4 (R360). -/
def State.hostReadAt (s : State) (a : Nat) (size : BitVec 4) : State :=
  if !accessOk a size.toNat then
    (s.onBrg fun b => { b with hwinRej := sat32 b.hwinRej 1 }).onRun fun r => { r with lastRead := if size = 4 then 0xFFFFFFFF else 0xFFFFFFFFFFFFFFFF, readOk := false }
  else
    let (lo, s) := s.hostRead a
    if size = 4 then s.onRun fun r => { r with lastRead := lo.setWidth 64, readOk := true }
    else
      let (hi, s) := s.hostRead (a + 4)
      s.onRun fun r => { r with lastRead := BitVec.ofNat 64 (lo.toNat + hi.toNat * 2 ^ 32), readOk := true }

/-- CLEAR_ON_READ (R367). -/
def execClearOnRead (addr : BitVec 26) (size : BitVec 4) (s : State) : Ans := s.overLink (.clearOnRead addr size) fun s => .next (s.hostReadAt addr.toNat size)

end Sys2Proof.Machine
end

