-- ==== Sys2Proof/Machine/Guard.lean ====
section
/-! DEFINITION. Guarded actions: complement pairs, their checks and what an accepted pair does (R369, R370). -/

namespace Sys2Proof.Machine

/-- `GUARD` of a result (Table 16.6). -/
def guardNo : Guard → Nat
  | .fence => 0
  | .rpwr => 1
  | .promo => 2

/-- Address of a guard's value register; its confirm register is 4 bytes above (R369). -/
def guardAddr (g : Guard) : Nat := 0x1000 + 8 * guardNo g

/-- Bits of a guard's value that are not reserved (Table 16.6). -/
def guardBits : Guard → Nat
  | .fence => 16
  | .rpwr => 6
  | .promo => 7

/-- Fields of a guard's value in their stated ranges: a region of 48, a core of 924. -/
def guardInRange (g : Guard) (v : U32) : Bool :=
  decide (fld v.toNat 0 6 < 48) && (match g with | .fence => decide (fld v.toNat 6 10 < 924) | _ => true)

/-- Write a result (R369). -/
def State.guardResult (s : State) (g : Guard) (code : Nat) : State :=
  s.onGrd fun _ => { pending := none, code := code, guard := guardNo g, fresh := true }

/-- Write a value register: a pair pending on any guard is discarded with `CODE` 1, and the new write is the pending pair (R369). -/
def State.guardWrite (s : State) (g : Guard) (v : U32) : State :=
  if v.toNat / 2 ^ guardBits g ≠ 0 then s.discardWrite (guardAddr g) 0x0 false
  else if !guardInRange g v then s.discardWrite (guardAddr g) 0x1 false
  else
    let s := match s.grd.pending with | none => s | some (w, _) => s.guardResult w 1
    s.onGrd fun x => { x with pending := some (g, v) }

/-- GUARD_VALUE_WRITE (R369). -/
def execGuardValueWrite (g : Guard) (v : U32) (s : State) : Ans := s.overLink (.guardValueWrite g v) fun s => .next (s.guardWrite g v)

/-- States in which every guarded action is refused (R370). -/
def State.guardRefused (s : State) : Bool :=
  decide (s.run.st = .idle) || decide (s.flt.phase ≠ .none) || (decide (s.run.st = .held) && decide (4 ≤ s.run.hcause))

/-- The fault that an accepted pair imitates; none where the target is invalid: not in service, fenced, retired or a standby (R370). -/
def State.guardFault (s : State) (g : Guard) (v : U32) : Option FaultRep :=
  let p := fld v.toNat 0 6
  match g with
  | .fence =>
    let c := fld v.toNat 6 10
    if h : p < 48 then
      if k : c < 924 then
        if s.servesPhys p && (s.lcore p c).isSome && !s.flt.dead.contains (p * 924 + c) then some { kind := .core ⟨p, h⟩ ⟨c, k⟩ 0x01, guarded := true } else none
      else none
    else none
  | .rpwr =>
    if h : p < 48 then
      if s.servesPhys p then some { kind := .region ⟨p, h⟩ 0x10, guarded := true } else none
    else none
  | .promo =>
    match s.phys p with
    | none => none
    | some q =>
      if h : q < 48 then
        if s.servesPhys q then some { kind := .region ⟨q, h⟩ 0x10, guarded := true, half := some (fld v.toNat 6 1) } else none
      else none

/-- The action would exceed the sparing budget of Table 13.7: absorbing the fault would exhaust the spares or lose state. -/
def State.beyondBudget (s : State) (f : FaultRep) : Bool :=
  let t := s.takeReport f
  t.flt.exh || (decide (t.run.st = .held) && decide (5 ≤ t.run.hcause))

/-- A confirmed pair: refused, or the fault it imitates is absorbed at once (R370). -/
def State.guardAct (s : State) (g : Guard) (v : U32) : State :=
  if s.guardRefused then s.guardResult g 3
  else
    match s.guardFault g v with
    | none => s.guardResult g 4
    | some f => if s.beyondBudget f then s.guardResult g 5 else (s.guardResult g 0).takeReport f

/-- Write a confirm register: the complement of the pending value in its own confirm register takes the action; any other confirm discards the pair with `CODE` 2; with no pair pending the write is discarded and counted (R369). -/
def State.guardConfirm (s : State) (g : Guard) (comp : U32) : State :=
  match s.grd.pending with
  | none => s.discardWrite (guardAddr g + 4) 0x8 false
  | some (w, v) => if w = g ∧ comp = ~~~v then s.guardAct w v else s.guardResult w 2

/-- CTL_GRD_FENCE (R370): the confirm of a fence. -/
def execCtlGrdFence (comp : U32) (s : State) : Ans := s.overLink (.ctlGrdFence comp) fun s => .next (s.guardConfirm .fence comp)

/-- CTL_GRD_RPWR (R370): the confirm of a region's switching off. -/
def execCtlGrdRpwr (comp : U32) (s : State) : Ans := s.overLink (.ctlGrdRpwr comp) fun s => .next (s.guardConfirm .rpwr comp)

/-- CTL_GRD_PROMO (R370): the confirm of a promotion. -/
def execCtlGrdPromo (comp : U32) (s : State) : Ans := s.overLink (.ctlGrdPromo comp) fun s => .next (s.guardConfirm .promo comp)

/-- GUARD_CONFIRM_TIMEOUT (R369): no confirm within 1 µs of the value. -/
def execGuardConfirmTimeout (s : State) : Ans :=
  match s.grd.pending with
  | none => .next s
  | some (g, _) => .next (s.guardResult g 1)

end Sys2Proof.Machine
end

