-- ==== Sys2Proof/Machine/Registers.lean ====
section
/-! DEFINITION. Writes to the register window: the checks of every write, settings, action registers, locks, clocks, the meter mirror's policy, the management bus and configuration parity (R258 to R261, R304, R323, R333, R359 to R371, R390, R399, R402, R408). -/

namespace Sys2Proof.Machine

/-! Settings (R361 to R364). -/

/-- A write changes a reserved bit (R361). -/
def State.reservedDiffers (s : State) (d : RegDesc) (a : Nat) (v : U32) : Bool :=
  decide ((v ^^^ (s.readOwn a).getD 0) &&& reservedBits d a ≠ 0)

/-- The region of a region-block register is standby, retired or dark (R366). -/
def State.notServed (s : State) (a : Nat) : Bool :=
  match rgnOf a with
  | some (p, _) => !s.blockAnswers p
  | none => false

/-- Staged-set states that accept an `EPOCH` write (Table 12.10). -/
def StagingSt.accepts (t : StagingSt) : Bool := decide (t.st = .empty ∨ t.st = .loading ∨ t.st = .checked)

/-- Staging more voids the check: the set is `LOADING` without a staged root (Table 12.10). -/
def StagingSt.void (t : StagingSt) : StagingSt := { t with st := .loading, root := 0, digests := [], image := none, imageBytes := [] }

/-- An accepted `EPOCH` write joins the staged set, whose check it voids (R261). -/
def State.stageEpoch (s : State) (a : Nat) (v : U32) (mbus : Bool) : State :=
  s.onStg fun t => { t.void with writes := (t.writes.filter fun p => p.addr ≠ a) ++ [{ addr := a, value := v, mbus := mbus }] }

/-- Write a setting register: checks in the order region, reserved bits, ranges, staged set; then staged, or in force at once for class `IMMEDIATE` (R360 to R366; log entry 101). -/
def State.writeSetting (s : State) (d : RegDesc) (a : Nat) (v : U32) (mbus : Bool) : State :=
  if s.notServed a then s.discardWrite a 0x6 mbus
  else if s.reservedDiffers d a v then s.discardWrite a 0x0 mbus
  else if !d.inRange v then s.discardWrite a 0x1 mbus
  else
    match d.swap with
    | .immediate => s.putActive a (v &&& d.mask)
    | .epoch => if s.stg.accepts then s.stageEpoch a (v &&& d.mask) mbus else s.discardWrite a 0x3 mbus
    | _ => s.stageWrite a (v &&& d.mask) mbus

/-! Clocks (R304). -/

/-- Write `CTL_CLK`: staged until the control die's step boundary, whatever a region's `FLOW` (R304, R364, Table 14.2). -/
def State.writeClk (s : State) (v : U32) (mbus : Bool) : State :=
  match modDesc 0x9008 with
  | none => s
  | some d =>
    if s.reservedDiffers d 0x9008 v then s.discardWrite 0x9008 0x0 mbus
    else if !d.inRange v then s.discardWrite 0x9008 0x1 mbus
    else if s.modeCourse.clock = axisCaps then s.discardWrite 0x9008 0x7 mbus
    else s.stageWrite 0x9008 (v &&& d.mask) mbus

/-- CTL_CLK_WRITE (R304). -/
def execCtlClkWrite (v : U32) (s : State) : Ans := s.overLink (.ctlClkWrite v) fun s => .next (s.writeClk v false)

/-- Write `RGN_CLK.FSET`: under per-region caps alone, and no lower than the region's `FLOW` (R304). -/
def State.writeFset (s : State) (p : Nat) (v : U32) : State :=
  let a := rgnBase p + 0x20C0
  match rgnDesc 0x20C0 with
  | none => s
  | some d =>
    if s.notServed a then s.discardWrite a 0x6 false
    else if s.reservedDiffers d a v then s.discardWrite a 0x0 false
    else if !d.inRange v then s.discardWrite a 0x1 false
    else if s.modeCourse.clock ≠ axisCaps then s.discardWrite a 0x7 false
    else if fld v.toNat 0 5 < s.flowOf p then s.discardWrite a 0x1 false
    else s.stageWrite a (v &&& d.mask) false

/-- FSET_WRITE (R304). -/
def execFsetWrite (r : Region) (v : U32) (s : State) : Ans := s.overLink (.fsetWrite r v) fun s => .next (s.writeFset r v)

/-! Action registers. -/

/-- Largest count of granted beats (Table 19.3). -/
def maxGrant : Nat := 65535

/-- Write `RGN_DIAG`: granted beats join the pending count, under beat-stepping alone (R406, R408). -/
def State.writeGrant (s : State) (p : Nat) (v : U32) : State :=
  let a := rgnBase p + 0x20C8
  if s.notServed a then s.discardWrite a 0x6 false
  else if !s.beatStepping then s.discardWrite a 0x8 false
  else s.onReg p fun g => { g with grant := min maxGrant (g.grant + fld v.toNat 0 16) }

/-- GRANT (R406). -/
def execGrant (r : Region) (v : U32) (s : State) : Ans := s.overLink (.grant r v) fun s => .next (s.writeGrant r v)

/-- Write `CTL_LOCK`: a 1 sets a lock, a 0 leaves it (R371). -/
def State.writeLock (s : State) (v : U32) : State :=
  if v.toNat / 8 ≠ 0 then s.discardWrite 0x1020 0x0 false else s.onSet fun t => { t with lock := t.lock ||| v.setWidth 3 }

/-- LOCK_BIT_WRITE (R371). -/
def execLockBitWrite (v : U32) (s : State) : Ans := s.overLink (.lockBitWrite v) fun s => .next (s.writeLock v)

/-- Write `CTL_DBG`: `VIMG`, and `USED` once it has been 1; forbidden by the debug lock (R371, R399). -/
def State.writeDbg (s : State) (v : U32) : State :=
  if s.set.lock.getLsbD 1 then s.discardWrite 0xC100 0x4 false
  else if v.toNat / 4 ≠ 0 then s.discardWrite 0xC100 0x0 false
  else s.onKeys fun k => { k with vimg := v.getLsbD 0, used := k.used || v.getLsbD 0 }

/-- CTL_DBG_WRITE (R399). -/
def execCtlDbgWrite (v : U32) (s : State) : Ans := s.overLink (.ctlDbgWrite v) fun s => .next (s.writeDbg v)

/-- An operation of `CTL_MTR_CFG`, which the lock forbids (R371, R390). -/
def State.mirrorOp (s : State) (f : MirrorSt → MirrorSt) : State := if s.mirrorLocked then s.discardWrite 0xB000 0x4 false else s.onMir f

/-- OVERWRITE_OLDEST (R390). -/
def execOverwriteOldest (s : State) : Ans := s.overLink .overwriteOldest fun s => .next (s.mirrorOp (·.setPolicy false))

/-- STOP_AT_FULL (R390). -/
def execStopAtFull (s : State) : Ans := s.overLink .stopAtFull fun s => .next (s.mirrorOp (·.setPolicy true))

/-- CLEAR_THE_MIRROR (R390). -/
def execClearTheMirror (s : State) : Ans := s.overLink .clearTheMirror fun s => .next (s.mirrorOp (·.clear))

/-- Write `CTL_MTR_CFG` (Table 17.4). -/
def State.writeMtrCfg (s : State) (v : U32) : State :=
  if s.mirrorLocked then s.discardWrite 0xB000 0x4 false
  else if v.toNat / 4 ≠ 0 then s.discardWrite 0xB000 0x0 false
  else if v = 1 then s.mirrorOp (·.setPolicy false)
  else if v = 2 then s.mirrorOp (·.setPolicy true)
  else if v = 3 then s.mirrorOp (·.clear)
  else s.discardWrite 0xB000 0x8 false

/-- Write `CTL_HQ_OP` (Table 9.6). -/
def State.writeHqOp (s : State) (v : U32) : State :=
  let q := fld v.toNat 0 15
  let op := fld v.toNat 16 2
  if v.toNat / 2 ^ 18 ≠ 0 ∨ bitAt v.toNat 15 then s.discardWrite 0x5010 0x0 false
  else if op = 1 then s.createQueue q
  else if op = 2 then s.deleteQueue q
  else s.discardWrite 0x5010 0x8 false

/-- Write `CTL_BDMA_OP` (Table 9.6). -/
def State.writeBdmaOp (s : State) (v : U32) : State :=
  let c := fld v.toNat 0 8
  let op := fld v.toNat 8 2
  if v.toNat / 2 ^ 10 ≠ 0 then s.discardWrite 0x501C 0x0 false
  else if op = 1 then s.resumeChan c
  else if op = 2 then (if (s.hq c).en then s.abortChan c else s)
  else s.discardWrite 0x501C 0x8 false

/-- Write a doorbell: an offset that is neither index is refused as a doorbell write (R190). -/
def State.writeDoorbell (s : State) (a : Nat) (v : U32) : State :=
  let q := (a - 0x100000) / 32
  if a % 32 = 0 then s.prodBell q v else if a % 32 = 4 then s.consBell q v else s.refuseIndex q v

/-! A write to any address. -/

/-- A write to a register without a writable field: cause 0x4 on the key page while enrolment is locked, 0x6 in the block of a region not in service, else 0x2 (R360, R366, R402). -/
def State.writeReadOnly (s : State) (a : Nat) (mbus : Bool) : State :=
  if s.notServed a then s.discardWrite a 0x6 mbus
  else if 0xC000 ≤ a ∧ a < 0xD000 ∧ s.set.lock.getLsbD 0 then s.discardWrite a 0x4 mbus
  else s.discardWrite a 0x2 mbus

/-- A write to an address that no register occupies (R333). -/
def State.writeNowhere (s : State) (a : Nat) : State := s.logHealth { cls := 0x76, detail := a }

/-- Registers of the `CTL_` block whose write is an operation of its own. -/
def State.writeSpecial (s : State) (a : Nat) (v : U32) (mbus : Bool) : Option State :=
  if a = 0x1000 then some (s.guardWrite .fence v)
  else if a = 0x1004 then some (s.guardConfirm .fence v)
  else if a = 0x1008 then some (s.guardWrite .rpwr v)
  else if a = 0x100C then some (s.guardConfirm .rpwr v)
  else if a = 0x1010 then some (s.guardWrite .promo v)
  else if a = 0x1014 then some (s.guardConfirm .promo v)
  else if a = 0x1020 then some (s.writeLock v)
  else if a = 0x400C then some (s.writeCons v mbus)
  else if a = 0x5010 then some (s.writeHqOp v)
  else if a = 0x501C then some (s.writeBdmaOp v)
  else if a = 0x9008 then some (s.writeClk v mbus)
  else if a = 0xB000 then some (s.writeMtrCfg v)
  else if a = 0xC100 then some (s.writeDbg v)
  else if 0x100000 ≤ a ∧ a < 0x200000 then some (s.writeDoorbell a v)
  else
    match rgnOf a with
    | some (p, off) => if off = 0x20C0 then some (s.writeFset p v) else if off = 0x20C8 then some (s.writeGrant p v) else none
    | none => none

/-- A 4-byte write to the window, from the host or the management bus (R360 to R363). -/
def State.writeReg (s : State) (a : Nat) (v : U32) (mbus : Bool) : State :=
  match activeOf a with
  | some _ => s.discardWrite a 0x5 mbus
  | none =>
    match s.writeSpecial a v mbus with
    | some t => t
    | none =>
      match regDesc a with
      | some d => s.writeSetting d a v mbus
      | none => if (s.readOwn a).isSome then s.writeReadOnly a mbus else s.writeNowhere a

/-- Count a refused access of the window (R333, R338). -/
def State.rejectAccess (s : State) : State := s.onBrg fun b => { b with hwinRej := sat32 b.hwinRej 1 }

/-- A host write to the window: a poisoned one, or one of another width or alignment, is counted and has no effect (R333); an 8-byte write is two of 4, the lower first (R360). -/
def State.hostWrite (s : State) (a : Nat) (size : BitVec 4) (data : U64) (poison : Bool) : State :=
  if poison || !accessOk a size.toNat then s.rejectAccess
  else
    let s := s.writeReg a (data.setWidth 32) false
    if size = 8 then s.writeReg (a + 4) ((data >>> 32).setWidth 32) false else s

/-- REGISTER_WRITE (R363). -/
def execRegisterWrite (addr : BitVec 26) (size : BitVec 4) (data : U64) (poison : Bool) (s : State) : Ans :=
  s.overLink (.registerWrite addr size data poison) fun s => .next (s.hostWrite addr.toNat size data poison)

/-! The management bus (R323). -/

/-- Window register behind an index of Table 14.9. -/
def mbusReg (i : Nat) : Nat :=
  if i = 0x04 then 0x9000 else if i = 0x08 then 0x9010 else if i = 0x0C then 0x9014 else if i = 0x10 then 0x9018 else if i = 0x14 then 0x901C
  else if i = 0x18 then 0x9020 else if i = 0x1C then 0x9024 else 0

/-- An index of Table 14.9. -/
def mbusIndexOk (i : Nat) : Bool := decide (i ≤ 0x1C) && decide (i % 4 = 0)

/-- The index that may be written, `CTL_ALERT_EN`. -/
def mbusWritable : Nat := 0x1C

/-- The bus answers: its standby rails have been up for 50 ms and `MOD_RST_N` is high (R323). -/
def State.mbusAnswers (s : State) : Bool := decide (50000 ≤ s.pwr.standby) && !s.pwr.rstLow

/-- What a read of the bus returns at an index; it clears no bit. -/
def State.mbusRead (s : State) (index : Byte) : U32 := (s.readOwn (mbusReg index.toNat)).getD 0

/-- MANAGEMENT_BUS_WRITE (R323): an index alone sets the index, and the read that it opens returns the register there (log entry 170); with data it writes the register; a refusal is a not-acknowledge, counted in the health log (log entry 95). The bus answers nothing before its rails are up or while `MOD_RST_N` is low. -/
def execManagementBusWrite (index : Byte) (data : Option U32) (s : State) : Ans :=
  let bad := s.onPwr fun p => { p with mbNack := true }
  if !s.mbusAnswers then .next s
  else if !mbusIndexOk index.toNat then .next (bad.openClass index.toNat)
  else
    match data with
    | none => .next (s.onPwr fun p => { p with mbIndex := index, mbNack := false, mbRead := some (s.mbusRead index) })
    | some v =>
      if index.toNat = mbusWritable then .next ((s.onPwr fun p => { p with mbIndex := index, mbNack := false }).writeReg (mbusReg index.toNat) v true)
      else .next (bad.openClass index.toNat)

/-- MANAGEMENT_BUS_CLOCK_STUCK (R323): the bus interface is reset (log entry 102). -/
def execManagementBusClockStuck (s : State) : Ans := .next (s.onPwr fun p => { p with mbIndex := 0, mbNack := false, mbRead := none })

/-! Configuration parity (R368). -/

/-- A value is staged at an address. -/
def State.isStaged (s : State) (a : Nat) : Bool := (s.set.staged ++ s.stg.writes).any fun p => p.addr = a

/-- A staged value is lost: the staged view is the value in force again. -/
def State.loseStaged (s : State) (a : Nat) : State :=
  let s := s.onSet fun t => { t with staged := t.staged.filter (fun p => p.addr ≠ a), slost := true }
  s.onStg fun t => { t with writes := t.writes.filter fun p => p.addr ≠ a }

/-- A register of the control die's copy is loaded again, with a record of its address and one of the overhead, within the microsecond of its detection (Table 13.9). -/
def State.reloadCopy (s : State) (a : Nat) : State :=
  ((s.onSet fun t => { t with par := true, parCount := sat32 t.parCount 1 }).logHealth { cls := 0x03, detail := a }).logHealth { cls := 0x03, action := 1, done := true }

/-- CONFIGURATION_PARITY_SCRUB (R368): a mismatch in a core or a region is its configuration fault; a register with the control die's copy is reloaded, which any register outside the region blocks may be (log entry 171); a staged value alone, of any block, is dropped. -/
def execConfigurationParityScrub (site : ParitySite) (s : State) : Ans :=
  match site with
  | .core r c => if (s.reg r).powered then .next (s.reportCore r c 0x03) else .next s
  | .region r => if (s.reg r).powered then .next (s.reportRegion r 0x13) else .next s
  | .control staged addr =>
    let a := addr.toNat
    if staged then (if s.isStaged a then .next (s.loseStaged a) else .next s)
    else if (rgnOf a).isSome || (s.readOwn a).isNone then .next s
    else .next (s.reloadCopy a)

end Sys2Proof.Machine
end

