-- ==== Sys2Proof/Machine/Afist.lean ====
section
/-! DEFINITION. Afist commands of the configuration and step groups: staging, checking, arming and abandoning, running, holding and the compute reset (R215, R261 to R263, R270, R329, R342, R346 to R350). Each is a function of its parameters that a command row and a fetched entry share. -/

namespace Sys2Proof.Machine

/-- A host buffer of `n` bytes: its address a multiple of 64, its end not past 2^64 (R347). -/
def bufferOk (haddr : U64) (n : Nat) : Bool := decide (haddr.toNat % 64 = 0) && decide (haddr.toNat + n ≤ 2 ^ 64)

/-! Staging (R348). -/

/-- Parameters of `IMAGE_STAGE` and `RESHARD` (Table 15.6). -/
def stageParams (haddr : U64) (hlen : U32) (ioff : U64) : Bool :=
  decide (4096 ≤ hlen.toNat ∧ hlen.toNat ≤ 2 ^ 30) && decide (hlen.toNat % 4096 = 0) && decide (ioff.toNat % 4096 = 0) &&
  decide (ioff.toNat + hlen.toNat ≤ 2 ^ 34) && bufferOk haddr hlen.toNat

/-- The chunk of image offset 0 is of the other kind than its command (R348). -/
def kindDiffers (reshard : Bool) (ioff : U64) (data : List Byte) : Bool := decide (ioff = 0) && (bitAt (leAt data 0x0C 1) 0 != reshard)

/-- `SIZE` once a chunk is staged: fixed by the chunk at image offset 0 (R348). -/
def StagingSt.sizeWith (t : StagingSt) (ioff : U64) (data : List Byte) : Option Nat := if ioff = 0 then some (leAt data 0x10 8) else t.size

/-- The set accepts a chunk of this kind (Table 12.10, R348). -/
def StagingSt.takes (t : StagingSt) (reshard : Bool) : Bool := t.accepts && (t.have_.isEmpty || t.reshard == reshard)

/-- The staged set with a chunk in it. -/
def StagingSt.stage (t : StagingSt) (reshard : Bool) (ioff : U64) (data : List Byte) : StagingSt :=
  { t.void with
    bytes := spliceMem t.bytes ioff.toNat data, have_ := t.have_ ++ [(ioff.toNat, data.length)], size := t.sizeWith ioff data
    reshard := reshard, full := !reshard }

/-- A chunk joins the staged set, and its copies are written; from `IDLE` they stand once the set is applied (R255; log entry 139). -/
def State.takeChunk (s : State) (reshard : Bool) (ioff : U64) (data : List Byte) : State :=
  let s := s.onStg (·.stage reshard ioff data)
  if s.run.st = .idle then s else s.writeCopies

/-- `IMAGE_STAGE` and `RESHARD` (R348). -/
def State.runStage (s : State) (reshard : Bool) (h : CmdHdr) (haddr : U64) (hlen : U32) (ioff : U64) : State :=
  let data := s.readHost haddr.toNat hlen.toNat
  if badHdr h || !stageParams haddr hlen ioff || kindDiffers reshard ioff data || ((s.stg.sizeWith ioff data).any fun z => decide (z < ioff.toNat + hlen.toNat)) then s.done0 h 2
  else if !s.stg.takes reshard then s.done0 h 3
  else if !s.shareFits (spliceMem s.stg.bytes ioff.toNat data) then s.done0 h 0x0B
  else (s.takeChunk reshard ioff data).done0 h 0

/-- IMAGE_STAGE (R348). -/
def execImageStage (h : CmdHdr) (haddr : U64) (hlen : U32) (ioff : U64) (s : State) : Ans := .next (s.runStage false h haddr hlen ioff)

/-- RESHARD (R215, R348). -/
def execReshard (h : CmdHdr) (haddr : U64) (hlen : U32) (ioff : U64) (s : State) : Ans := .next (s.runStage true h haddr hlen ioff)

/-! Checking and abandoning (R261). -/

/-- `IMAGE_CHECK`: the set is `CHECKING`, and the command leaves the lane until the check ends (R344). -/
def State.runCheck (s : State) (h : CmdHdr) : State :=
  if badHdr h then s.done0 h 2
  else if s.stg.st ≠ .loading then s.done0 h 3
  else (s.onStg fun t => { t with st := .checking }).onRun fun r => { r with check := some h }

/-- IMAGE_CHECK (R265). -/
def execImageCheck (h : CmdHdr) (s : State) : Ans := .next (s.runCheck h)

/-- A check in hand is stopped: it completes with status 0x05 (R261). -/
def State.stopCheck (s : State) : State :=
  match s.run.check with
  | none => s
  | some h => (s.onRun fun r => { r with check := none }).done0 h 5

/-- `IMAGE_ABANDON`: refused for an empty set, and from the apply token onward (Table 12.10, R263). -/
def State.runAbandon (s : State) (h : CmdHdr) : State :=
  if badHdr h then s.done0 h 2
  else if s.stg.st = .empty ∨ s.stg.applying then s.done0 h 3
  else s.stopCheck.emptyStage.done0 h 0

/-- IMAGE_ABANDON (R261). -/
def execImageAbandon (h : CmdHdr) (s : State) : Ans := .next (s.runAbandon h)

/-! Arming (R262, R270, R349). -/

/-- The module is in disagreement and in step B + 1: a re-entry arm (R270). -/
def State.reentryArm (s : State) (b : U64) : Bool := s.stg.disag && (s.run.inStep || s.run.crossed) && decide (b + 1 = s.run.step)

/-- The commit of step B has not begun, or the module stands where it may still apply (R262, R349). -/
def State.armInTime (s : State) (b : U64) : Bool :=
  match s.run.st with
  | .idle => true
  | .stopped => decide (b + 1 = s.run.step) || decide (s.run.step.toNat ≤ b.toNat)
  | .running => decide (s.run.step.toNat ≤ b.toNat) || s.reentryArm b
  | .held => false

/-- The image was accepted under the vendor root, and `VIMG` has returned to 0 (R398). -/
def State.vendorLapsed (s : State) : Bool :=
  (s.stg.full || s.stg.reshard) && decide ((s.stg.image.getD {}).keyId = keyId Config.vendorRoot) && !s.keys.vimg

/-- An accepted arm: applied at once where the module stands at its boundary, and complete then only after the go token (R262, R263, R349). -/
def State.acceptArm (s : State) (h : CmdHdr) (b : U64) (e : U32) : State :=
  let again := decide (s.run.st = .running) && s.reentryArm b
  let s := s.onStg fun t => { t with st := .armed, b := b, e := e }
  let s := if s.run.st = .idle then s.startApply
    else if again then s.abandonStep.advance
    else if s.run.st = .stopped then s.advance else s
  if s.stg.applying then s.onRun fun r => { r with armed := some h } else s.done0 h 0

/-- `IMAGE_ARM` (R262). -/
def State.runArm (s : State) (h : CmdHdr) (b : U64) (e : U32) (haddr : U64) : State :=
  if badHdr h || !bufferOk haddr 64 || decide (e.toNat ≤ s.cfg.epoch.toNat) then s.done0 h 2
  else if s.stg.st ≠ .checked ∨ !s.armInTime b then s.done0 h 3
  else if ofBytes 64 (s.readHost haddr.toNat 64) ≠ s.stg.root then (s.onStg fun t => { t with decl := true }).done0 h 8
  else if s.vendorLapsed then s.done0 h 0x0C
  else s.acceptArm h b e

/-- IMAGE_ARM (R262). -/
def execImageArm (h : CmdHdr) (b : U64) (e : U32) (haddr : U64) (s : State) : Ans := .next (s.runArm h b e haddr)

/-! Running and holding (R47, R350). -/

/-- A hold is released: the micro-batch after H may begin, or the withheld commit token goes (R47). -/
def State.releaseHold (s : State) : State :=
  let s := s.clearHold.onRun fun r => { r with hcause := 0, atStep := false }
  if s.run.inStep then s.serviceRegions.foldl (fun s r => s.progress r) s else s

/-- The module replays from the commit point at which a partner loss holds it; a rewind still in hand goes on (R277, R350). -/
def State.replayHeld (s : State) : State :=
  (s.onRun fun r => { r with hcause := 0, atStep := false }).onFlt fun f =>
    { f with partner := false, phase := if f.phase = .none then (if s.promosReady then .restored else .rebuilding) else f.phase }

/-- `STEP_RUN`; a module whose exchange lines are lost takes a warm load first (R294, R350; log entry 163). -/
def State.runStep (s : State) (h : CmdHdr) (limit : U64) : State :=
  if badHdr h then s.done0 h 2
  else if s.run.st = .idle ∨ s.flt.needLoad ∨ (s.run.st = .held ∧ 4 ≤ s.run.hcause) then s.done0 h 3
  else
    let s := if s.run.st ≠ .held then s.onRun fun r => { r with atStep := false } else if s.run.hcause = 3 then s.replayHeld else s.releaseHold
    ((s.onRun fun r => { r with st := .running, limit := limit }).advance).done0 h 0

/-- STEP_RUN (R350). -/
def execStepRun (h : CmdHdr) (limit : U64) (s : State) : Ans := .next (s.runStep h limit)

/-- Complete a `STEP_HOLD` with the results of the hold in force: at a boundary the last committed step and its last micro-batch, inside a step H, which a hold for a fault does not have and which is then an open value (R350; log entry 104). -/
def State.holdResults (s : State) (h : CmdHdr) : State :=
  if !s.run.inStep then s.complete h 0 (s.run.step - 1) (BitVec.ofNat 64 s.lastMb) 0
  else if s.run.hcause ≤ 2 then s.complete h 0 s.run.step (s.num.hmb.setWidth 64) 0
  else
    let (v, s) := s.fresh
    s.complete h 0 s.run.step (BitVec.ofNat 64 v) 0

/-- A `STEP_HOLD` waits; `all_` is true for one that waits for a step boundary. -/
def State.waitHold (s : State) (h : CmdHdr) (at_ : Byte) : State := s.onRun fun r => { r with holds := r.holds ++ [(h, at_)] }

/-- The module is asked to stop at the next step boundary. -/
def State.askStop (s : State) : State := s.onRun fun r => { r with stopAsked := true }

/-- `STEP_HOLD` (R350). -/
def State.runHold (s : State) (h : CmdHdr) (at_ : Byte) : State :=
  if badHdr h || decide (1 < at_.toNat) then s.done0 h 2
  else
    match s.run.st with
    | .idle | .stopped => s.done0 h 3
    | .held => if at_ = 0 ∨ s.run.atStep then s.holdResults h else s.askStop.waitHold h at_
    | .running =>
      let s := s.waitHold h at_
      if at_ = 1 then s.askStop.advance
      else if s.flt.phase ≠ .none then s.onRun fun r => { r with holdAsked := true }
      else if s.run.inStep then s.triggerHold 0 false
      else s.askStop.advance

/-- STEP_HOLD (R350). -/
def execStepHold (h : CmdHdr) (at_ : Byte) (s : State) : Ans := .next (s.runHold h at_)

/-! Compute reset (R329, R346). -/

/-- `COMPUTE_RESET`: every other command in hand ends with 0x05; an application past its apply token completes first. -/
def State.runReset (s : State) (h : CmdHdr) : State :=
  if badHdr h then s.done0 h 2
  else
    let s := s.endCommands
    if s.stg.applying then s.onRun fun r => { r with resetAsked := true, resetCmd := some h } else s.computeReset.done0 h 0

/-- COMPUTE_RESET (R329). -/
def execComputeReset (h : CmdHdr) (s : State) : Ans := .next (s.runReset h)

end Sys2Proof.Machine
end

