-- ==== Sys2Proof/Machine/Report.lean ====
section
/-! DEFINITION. Afist commands that report: identity, attestation, health, links, the numeric ring and the meter mirror (R347, R355, R390, R400). -/

namespace Sys2Proof.Machine

/-- Bytes followed by zeros up to `n` in all. -/
def padTo (n : Nat) (l : List Byte) : List Byte := l ++ List.replicate (n - l.length) 0

/-- ASCII characters as bytes. -/
def ascii (t : String) : List Byte := t.toList.map fun c => BitVec.ofNat 8 c.toNat

/-- Bytes of a digest, byte 0 first. -/
def digestBytes (d : Digest) : List Byte := leBytes 64 d.toNat

/-- The 4,096 bytes of `IDENTIFY` (R347). -/
def State.identifyBytes (s : State) : List Byte :=
  padTo 4096 (padTo 16 (ascii "LX-SKZW48") ++ padTo 8 [0xB0, 3, 2] ++ digestBytes s.moduleDigest ++ leBytes 8 s.retiredMap ++ leBytes 8 (2 ^ 40) ++
    leBytes 4 32768 ++ leBytes 4 48 ++ leBytes 4 16)

/-- `IDENTIFY` (R347). -/
def State.runIdentify (s : State) (h : CmdHdr) (haddr : U64) : State :=
  if badHdr h || !bufferOk haddr 4096 then s.done0 h 2 else (s.writeHost haddr.toNat s.identifyBytes).done0 h 0

/-- IDENTIFY (R347). -/
def execIdentify (h : CmdHdr) (haddr : U64) (s : State) : Ans := .next (s.runIdentify h haddr)

/-! Attestation (R400). -/

/-- `STATE` of the report (Table 18.6). -/
def State.attestState (s : State) : Nat :=
  pack [(runCode s.run.st, 3), (s.set.lock.toNat, 3), (b2n s.keys.vimg, 1), (b2n s.keys.used, 1), (b2n s.mir.live, 1), (b2n s.mir.tamper, 1), (b2n s.mir.gap, 1),
    (b2n s.brg.ide, 1)]

/-- The image root as the report carries it: zeros with no image in force (Table 18.6). -/
def ConfigSt.rootBytes (c : ConfigSt) : List Byte :=
  match c.image with
  | none => List.replicate 64 0
  | some _ => digestBytes c.root

/-- Bytes 0x000 to 0x37F of the report (Table 18.6). -/
def State.attestBody (s : State) (nonce : BitVec 256) : List Byte :=
  let i := s.cfg.image
  [ ascii "LXATTEST", leBytes 2 1, leBytes 2 1024, leBytes 4 0, leBytes 32 nonce.toNat, leBytes 8 s.mir.mtime.toNat, leBytes 8 s.time.toNat,
    digestBytes Config.romDigest, s.cfg.rootBytes, leBytes 16 (i.elim 0 (·.imageId)), leBytes 8 (i.elim 0 (·.keyId.toNat)), leBytes 8 s.run.step.toNat,
    leBytes 4 s.cfg.epoch.toNat, leBytes 4 s.cfg.layout.toNat, leBytes 4 s.attestState, leBytes 4 0,
    ((List.range 4).flatMap fun k => leBytes 8 (s.slotKeyId k).toNat), leBytes 8 s.keys.count.toNat, leBytes 8 s.retiredMap, leBytes 80 s.mir.ident.toNat,
    leBytes 8 s.mir.oldest, leBytes 8 0, leBytes 256 ((s.mir.held s.mir.newest.toNat).elim 0 (·.toNat)), leBytes 256 s.keys.cert.toNat ].flatten

/-- The report with its signature by the module identity key (R400). -/
def State.attestBytes (s : State) (nonce : BitVec 256) : List Byte :=
  let b := s.attestBody nonce
  padTo 1024 (b ++ leBytes 114 (ed448Sign s.keys.seed (ascii "LX-SKZ-ATTEST") b))

/-- `ATTEST` (R400). -/
def State.runAttest (s : State) (h : CmdHdr) (haddr : U64) (nonce : BitVec 256) (hlen : U32) : State :=
  if badHdr h || decide (hlen.toNat < 4096 ∨ 65536 < hlen.toNat) || !bufferOk haddr hlen.toNat then s.done0 h 2
  else (s.writeHost haddr.toNat (s.attestBytes nonce)).complete h 0 1024 0 0

/-- ATTEST (R400). -/
def execAttest (h : CmdHdr) (haddr : U64) (nonce : BitVec 256) (hlen : U32) (s : State) : Ans := .next (s.runAttest h haddr nonce hlen)

/-! Health and links (R347). -/

/-- Codes of the link states, in the order of Table 11.3. -/
def linkCode : LinkState → Nat
  | .down => 0
  | .align => 1
  | .identify => 2
  | .up => 3
  | .mismatch => 4

/-- The 16 bytes of a link (Table 15.7). -/
def State.linkEntry (s : State) (e j : Nat) : List Byte :=
  let x := s.link e j
  let pm := ((s.cfg.links.find? fun d => d.engine = e && d.link = j).map (·.pmod)).getD 0
  leBytes 1 (linkCode x.st) ++ leBytes 1 x.lanes.length ++ leBytes 2 pm ++
    match x.peer with
    | none => List.replicate 12 0
    | some f => leBytes 2 f.mod.toNat ++ leBytes 1 f.engine.val ++ leBytes 1 f.fibres.toNat ++ leBytes 8 f.midd.toNat

/-- Rows of a physical region whose spare is in use (R15). -/
def State.shiftedRows (s : State) (p : Nat) : Nat := (List.range 28).countP fun row => (s.flt.fences.get none (p * 28 + row)).isSome

/-- The health summary page (Table 15.7). -/
def State.healthPage (s : State) : List Byte :=
  leBytes 8 s.time.toNat ++ ((List.range 48).flatMap fun p => leBytes 2 (s.shiftedRows p)) ++ leBytes 8 s.retiredMap ++
    ((List.range 16).flatMap fun e => leBytes 1 ((List.range 64).countP fun l => decide ((s.lane e l).st = .service))) ++
    (List.range 16).flatMap fun e => (List.range 8).flatMap fun j => s.linkEntry e j

/-- Health-log records held whose `SEQ` lies among `n` numbers from `q` (R347; log entry 105). -/
def State.logRange (s : State) (q : U32) (n : Nat) : List LogRec := s.log.recs.filter fun r => decide ((r.seq - q).toNat < n)

/-- First and last `SEQ` written (Table 15.6). -/
def seqSpan (l : List LogRec) : U64 := BitVec.ofNat 64 ((l.head?.elim 0 (·.seq.toNat)) + 2 ^ 32 * (l.getLast?.elim 0 (·.seq.toNat)))

/-- `HEALTH_READ` (R347). -/
def State.runHealthRead (s : State) (h : CmdHdr) (haddr : U64) (sel : Byte) (fromSeq count : U32) : State :=
  let n := count.toNat
  if badHdr h || decide (1 < sel.toNat) || decide (n < 1 ∨ 65536 < n) || !bufferOk haddr (if sel = 0 then 0x880 else 32 * n) then s.done0 h 2
  else if sel = 0 then (s.writeHost haddr.toNat s.healthPage).done0 h 0
  else
    let l := s.logRange fromSeq n
    (s.writeHost haddr.toNat (l.flatMap healthBytes)).complete h 0 (seqSpan l) 0 0

/-- HEALTH_READ (R347). -/
def execHealthRead (h : CmdHdr) (haddr : U64) (sel : Byte) (fromSeq count : U32) (s : State) : Ans := .next (s.runHealthRead h haddr sel fromSeq count)

/-- The 256 bytes of an engine (R347). -/
def State.engineBlock (s : State) (e : Nat) : List Byte :=
  padTo 256 (((List.range 12).flatMap fun i => leBytes 4 ((s.readReg (lnkBase e + 4 * i)).getD 0).toNat) ++ (List.range 8).flatMap fun j => s.linkEntry e j)

/-- `LINK_STATUS` (R347). -/
def State.runLinkStatus (s : State) (h : CmdHdr) (haddr : U64) (engmask : U16) : State :=
  let es := (List.range 16).filter fun e => engmask.getLsbD e
  if badHdr h || decide (engmask = 0) || !bufferOk haddr (256 * es.length) then s.done0 h 2
  else (s.writeHost haddr.toNat (es.flatMap s.engineBlock)).done0 h 0

/-- LINK_STATUS (R347). -/
def execLinkStatus (h : CmdHdr) (haddr : U64) (engmask : U16) (s : State) : Ans := .next (s.runLinkStatus h haddr engmask)

/-! The numeric ring and the meter mirror. -/

/-- Bytes of `n` ring entries from the consumer index onward (R355). -/
def State.ringBytes (s : State) (n : Nat) : List Byte :=
  (List.range n).flatMap fun i => numEntryBytes (s.num.ring.get {} ((s.num.cons.toNat + i) % 4096))

/-- `NUMERIC_RING_READ` (R355). -/
def State.runRingRead (s : State) (h : CmdHdr) (haddr : U64) (maxN : U16) (adv : Byte) : State :=
  if badHdr h || decide (maxN.toNat < 1 ∨ 4096 < maxN.toNat) || decide (1 < adv.toNat) || !bufferOk haddr (32 * maxN.toNat) then s.done0 h 2
  else
    let n := min maxN.toNat s.num.fill
    let c := s.num.cons + BitVec.ofNat 13 n
    let s := s.writeHost haddr.toNat (s.ringBytes n)
    let s := if adv = 1 then s.onNum fun x => { x with cons := c } else s
    s.complete h 0 (BitVec.ofNat 64 n) (c.setWidth 64) (if s.num.ovfl then 1 else 0)

/-- NUMERIC_RING_READ (R355). -/
def execNumericRingRead (h : CmdHdr) (haddr : U64) (maxN : U16) (adv : Byte) (s : State) : Ans := .next (s.runRingRead h haddr maxN adv)

/-- Insert a number into an ascending list. -/
def insertNat (n : Nat) : List Nat → List Nat
  | [] => [n]
  | x :: t => if n ≤ x then n :: x :: t else x :: insertNat n t

/-- Mirrored sequence numbers from `q` onward, ascending. -/
def MirrorSt.seqsFrom (m : MirrorSt) (q : Nat) : List Nat := (m.seqs.filter fun n => decide (q ≤ n)).foldr insertNat []

/-- `METER_MIRROR_READ` (R390; log entry 105). -/
def State.runMirrorRead (s : State) (h : CmdHdr) (haddr fromSeq : U64) (count : U32) : State :=
  let n := count.toNat
  if badHdr h || decide (n < 1 ∨ 4096 < n) || !bufferOk haddr (256 * n) then s.done0 h 2
  else
    let l := ((s.mir.seqsFrom fromSeq.toNat).take n).filterMap s.mir.held
    (s.writeHost haddr.toNat (l.flatMap fun r => leBytes 256 r.toNat)).complete h 0 (BitVec.ofNat 64 l.length) 0 0

/-- METER_MIRROR_READ (R390). -/
def execMeterMirrorRead (h : CmdHdr) (haddr fromSeq : U64) (count : U32) (s : State) : Ans := .next (s.runMirrorRead h haddr fromSeq count)

end Sys2Proof.Machine
end

