-- ==== Sys2Proof/Machine/KeySlots.lean ====
section
/-! DEFINITION. Afist commands of the protection and keys groups: partners, feed domains, key enrolment and locks (R354, R371, R394 to R396). -/

namespace Sys2Proof.Machine

/-- `PARTNER_SET` (R354): staged as a setting of class `EPOCH`. -/
def State.runPartnerSet (s : State) (h : CmdHdr) (ps : List (U16 × U32)) : State :=
  if badHdr h || decide (8 < ps.length) then s.done0 h 2
  else if !s.stg.accepts then s.done0 h 3
  else (s.onStg fun t => { t.void with partners := some ps }).done0 h 0

/-- PARTNER_SET (R354). -/
def execPartnerSet (h : CmdHdr) (partners : List (U16 × U32)) (s : State) : Ans := .next (s.runPartnerSet h partners)

/-- A partner in force would be on the module's own domain (R354). -/
def State.sharesDomain (s : State) (own : U16) (ds : List (U16 × U16)) : Bool :=
  decide (own ≠ 0) && s.outerPartners.any fun m => ds.any fun d => decide (d.1.toNat = m ∧ d.2 = own)

/-- `FEED_DOMAIN_SET` (R354): in force at once. -/
def State.runDomainSet (s : State) (h : CmdHdr) (own : U16) (ds : List (U16 × U16)) : State :=
  if badHdr h || decide (8 < ds.length) then s.done0 h 2
  else if s.sharesDomain own ds then s.done0 h 0x0D
  else (s.onCfg fun c => { c with domain := own, domains := ds }).done0 h 0

/-- FEED_DOMAIN_SET (R354). -/
def execFeedDomainSet (h : CmdHdr) (own : U16) (domains : List (U16 × U16)) (s : State) : Ans := .next (s.runDomainSet h own domains)

/-! Keys (R394 to R396). -/

/-- The fields of an enrolment block (Table 18.3). -/
structure Enrol where
  op : Nat
  slot : Nat
  midd : Nat
  count : Nat
  pub : Nat
  posig : List Byte
  authId : Nat
  authSig : List Byte
  rest : List Byte
  deriving DecidableEq, Repr

/-- The block's fields; `rest` is what is reserved in it. -/
def enrolOf (b : List Byte) : Enrol where
  op := leAt b 4 1
  slot := leAt b 5 1
  midd := leAt b 8 16
  count := leAt b 0x18 8
  pub := leAt b 0x20 57
  posig := (b.drop 0x60).take 114
  authId := leAt b 0xD2 8
  authSig := (b.drop 0xDA).take 114
  rest := (b.drop 6).take 2 ++ (b.drop 0x59).take 7 ++ (b.drop 0x14C).take 52

/-- Every byte is zero. -/
def allZero (l : List Byte) : Bool := l.all fun x => decide (x = 0)

/-- A signature of the block verifies under a key (R396). -/
def enrolSigned (b : List Byte) (key : Nat) (sig : List Byte) : Bool := ed448Verify (leBytes 57 key) (ascii "LX-SKZ-ENROL") (b.take 0x60) sig

/-- The occupied key slots. -/
def State.ownerKeys (s : State) : List (Nat × Nat) := (List.range 4).filterMap fun i => (s.keys.owners.get none i).map fun k => (i, k)

/-- What the block's operation asks of its key and slot (R396). -/
def State.enrolOpOk (s : State) (b : List Byte) (x : Enrol) : Bool :=
  match x.op with
  | 1 => enrolSigned b x.pub x.posig && s.ownerKeys.all fun k => decide (k.1 = x.slot) || decide (k.2 ≠ x.pub)
  | 2 => (s.keys.owners.get none x.slot).isSome && decide (x.pub = 0) && allZero x.posig
  | _ => false

/-- The block is authorised by an enrolled key, or is the first enrolment (R396). -/
def State.enrolAuth (s : State) (b : List Byte) (x : Enrol) : Bool :=
  if s.ownerKeys.isEmpty then decide (x.op = 1 ∧ x.authId = 0) && allZero x.authSig
  else s.ownerKeys.any fun k => decide ((keyId k.2).toNat = x.authId) && enrolSigned b k.2 x.authSig

/-- Every condition of R396 (log entry 106 for the reserved bytes). -/
def State.enrolOk (s : State) (b : List Byte) (slot : Nat) : Bool :=
  let x := enrolOf b
  decide (b.take 4 = ascii "LXEN") && decide (x.slot = slot) && decide (x.midd = s.moduleDigest.toNat % 2 ^ 128) && decide (x.count = s.keys.count.toNat) &&
  allZero x.rest && s.enrolOpOk b x && s.enrolAuth b x

/-- A successful enrolment returns a staged set in `CHECKED` to `LOADING` (R397). -/
def State.keysChanged (s : State) : State := if s.stg.st = .checked then s.onStg (·.void) else s

/-- `KEY_ENROL` (R396). -/
def State.runEnrol (s : State) (h : CmdHdr) (haddr : U64) (slot : Byte) : State :=
  let b := s.readHost haddr.toNat 384
  if badHdr h || decide (3 < slot.toNat) || !bufferOk haddr 384 then s.done0 h 2
  else if s.run.st ≠ .idle then s.done0 h 3
  else if s.set.lock.getLsbD 0 then s.done0 h 9
  else if !s.enrolOk b slot.toNat then s.done0 h 0x0C
  else
    let x := enrolOf b
    ((s.onKeys fun k => { k with owners := k.owners.set none slot.toNat (if x.op = 1 then some x.pub else none), count := k.count + 1 }).keysChanged).done0 h 0

/-- KEY_ENROL (R396). -/
def execKeyEnrol (h : CmdHdr) (haddr : U64) (slot : Byte) (s : State) : Ans := .next (s.runEnrol h haddr slot)

/-- `LOCK` (R347, R371). -/
def State.runLock (s : State) (h : CmdHdr) (mask : U32) : State :=
  if badHdr h || decide (8 ≤ mask.toNat) then s.done0 h 2
  else
    let s := s.onSet fun t => { t with lock := t.lock ||| mask.setWidth 3 }
    s.complete h 0 (s.set.lock.setWidth 64) 0 0

/-- LOCK (R371). -/
def execLock (h : CmdHdr) (mask : U32) (s : State) : Ans := .next (s.runLock h mask)

end Sys2Proof.Machine
end

