-- ==== Sys2Proof/Machine/Param.lean ====
section
/-! DEFINITION. Afist commands of parameters and state: lines of a shard, and checkpoints (R144, R150, R156, R176, R352, R353). -/

namespace Sys2Proof.Machine

/-! Lines of a shard (R352). -/

/-- The copy run that a `COPY` value below 5 names. -/
def copyRun : Nat → Nat
  | 0 => copyMaster
  | 1 => copyWorking
  | 2 => copyM
  | 3 => copyV
  | _ => copyRipe

/-- `COPY` of the header. -/
def headerCopy : Nat := 5

/-- The group of a shard. -/
def State.groupOf (s : State) (sh : Shard) : Group := s.pressCourse.groups.getD sh.group {}

/-- The recipe keeps this copy (Table 7.2). -/
def copyKept (g : Group) (c : Nat) : Bool := decide (c ≤ 1) || (writtenCopies g).contains (copyRun c)

/-- Lines that a `COPY` value addresses, in order; none of a copy that is not kept. -/
def State.paramLines (s : State) (r : Nat) (sh : Shard) (c : Nat) : List (Nat × Nat) :=
  if c = headerCopy then [(sh.hbank, sh.hline)] else if copyKept (s.groupOf sh) c then s.copyLines r sh (copyRun c) else []

/-- The module stands where parameters may be read and written (Table 15.6). -/
def State.paramState (s : State) : Bool := decide (s.run.st = .stopped) || (decide (s.run.st = .held) && s.run.atStep)

/-- Static parameters of `PARAM_READ` and `PARAM_WRITE`. -/
def paramOk (haddr : U64) (copy : Byte) (shard : U16) (nln : U32) : Bool :=
  decide (copy.toNat ≤ 5) && decide (shard.toNat < 4096) && decide (1 ≤ nln.toNat ∧ nln.toNat ≤ 2 ^ 24) && bufferOk haddr (nln.toNat * 2048)

/-- The lines that a command addresses; none where the shard, the copy or a line does not exist (R352). -/
def State.paramSpan (s : State) (lregion copy : Byte) (shard : U16) (fline nln : U32) : Option (Shard × List (Nat × Nat)) :=
  match s.shard lregion.toNat shard.toNat with
  | none => none
  | some sh =>
    let l := s.paramLines lregion.toNat sh copy.toNat
    if fline.toNat + nln.toNat ≤ l.length then some (sh, (l.drop fline.toNat).take nln.toNat) else none

/-- How a command on parameters is judged, 0 when it may begin: its parameters, which with a press course in force are its lines too, and then the run state (R342, R352). -/
def State.paramCode (s : State) (h : CmdHdr) (haddr : U64) (lregion copy : Byte) (shard : U16) (fline nln : U32) (wr : Bool) : Nat :=
  let span := s.paramSpan lregion copy shard fline nln
  if badHdr h || !paramOk haddr copy shard nln || (wr && decide (copy = 1)) || (s.cfg.image.isSome && span.isNone) then 2
  else if !s.paramState then 3
  else if span.isNone then 2
  else 0

/-- `PARAM_READ`; a lost line of a region with no standby is reconstructed (R291, R352). -/
def State.runParamRead (s : State) (h : CmdHdr) (haddr : U64) (lregion copy : Byte) (shard : U16) (fline nln : U32) : State :=
  let code := s.paramCode h haddr lregion copy shard fline nln false
  if code ≠ 0 then s.done0 h (BitVec.ofNat 8 code)
  else
    match s.paramSpan lregion copy shard fline nln with
    | none => s
    | some (_, l) => (s.writeHost haddr.toNat (l.flatMap fun x => s.servedLine lregion.toNat x.1 x.2)).complete h 0 (BitVec.ofNat 64 nln.toNat) 0 0

/-- PARAM_READ (R352). -/
def execParamRead (h : CmdHdr) (haddr : U64) (lregion copy : Byte) (shard : U16) (fline nln : U32) (s : State) : Ans :=
  .next (s.runParamRead h haddr lregion copy shard fline nln)

/-- Write line `j` of a copy whole, which makes a lost line good again (R294): a master line with its working elements, any other as a parameter write (R144, R150). -/
def State.writeParam (s : State) (r : Nat) (sh : Shard) (c j : Nat) (d : List Byte) : State :=
  let s := match (s.paramLines r sh c)[j]? with
    | none => s
    | some (b, l) => s.onStore fun t => { t with bad := t.bad.filter (· ≠ lineKey (s.column r) b l) }
  if c = 0 then s.writeMaster r sh j d
  else if c = headerCopy then s.writeLinePart r sh.hbank sh.hline 0 d
  else s.writeCopy r sh (copyRun c) j d

/-- Lines of 2,048 bytes. -/
def lineOf (b : List Byte) (i : Nat) : List Byte := (b.drop (2048 * i)).take 2048

/-- Write `n` lines of a copy from line `j` on; working elements that a master write made infinite give one record (R150, R178). -/
def State.writeParams (s : State) (r k : Nat) (sh : Shard) (c j n : Nat) (b : List Byte) : State :=
  let s := (List.range n).foldl (fun s i => s.writeParam r sh c (j + i) (lineOf b i)) s
  if c = 0 then s.sendShardRecord r k ((List.range n).foldl (fun t i => ovfTally t (j + i) (lineOf b i)) {}) else s

/-- `PARAM_WRITE` (R352). -/
def State.runParamWrite (s : State) (h : CmdHdr) (haddr : U64) (lregion copy : Byte) (shard : U16) (fline nln : U32) : State :=
  let code := s.paramCode h haddr lregion copy shard fline nln true
  if code ≠ 0 then s.done0 h (BitVec.ofNat 8 code)
  else
    match s.paramSpan lregion copy shard fline nln with
    | none => s
    | some (sh, _) =>
      (s.writeParams lregion.toNat shard.toNat sh copy.toNat fline.toNat nln.toNat (s.readHost haddr.toNat (nln.toNat * 2048))).complete h 0
        (BitVec.ofNat 64 nln.toNat) 0 0

/-- PARAM_WRITE (R352). -/
def execParamWrite (h : CmdHdr) (haddr : U64) (lregion copy : Byte) (shard : U16) (fline nln : U32) (s : State) : Ans :=
  .next (s.runParamWrite h haddr lregion copy shard fline nln)

/-! Checkpoints (R353, Table 15.8). -/

/-- Every shard in ascending logical region and shard number. -/
def State.ckShards (s : State) : List (Nat × Nat × Shard) :=
  (List.range 48).flatMap fun r => (List.range (s.shards r).length).filterMap fun k => (s.shard r k).map fun sh => (r, k, sh)

/-- `COPY` values of a shard's checkpoint record, in order. -/
def State.ckCopies (s : State) (sh : Shard) : List Nat := [0, 2, 3, 4].filter fun c => copyKept (s.groupOf sh) c

/-- The head of a shard record. -/
def State.ckHead (s : State) (x : Nat × Nat × Shard) : List Byte :=
  let cs := s.ckCopies x.2.2
  leBytes 2 x.1 ++ leBytes 2 x.2.1 ++ leBytes 1 ((cs.map fun c => 2 ^ c).foldl (· + ·) 0) ++ leBytes 3 0 ++ leBytes 8 x.2.2.nlines

/-- Lines of a shard record with the `COPY` value of each: the copies, then the header line. -/
def State.ckLines (s : State) (x : Nat × Nat × Shard) : List (Nat × Nat × Nat) :=
  (s.ckCopies x.2.2 ++ [headerCopy]).flatMap fun c => (s.paramLines x.1 x.2.2 c).map fun l => (c, l.1, l.2)

/-- Length of a shard record. -/
def State.ckLen (s : State) (x : Nat × Nat × Shard) : Nat := 16 + 2048 * (s.ckLines x).length

/-- Offset of the first shard record, and length of the digest. -/
def ckBase : Nat := 0x1000

/-- The checkpoint without its digest. -/
def State.ckBody (s : State) : List Byte :=
  padTo ckBase (ascii "LXSKZCKP" ++ leBytes 8 s.run.step.toNat ++ leBytes 4 s.cfg.layout.toNat ++ leBytes 4 s.ckShards.length ++
      leBytes 4 ((s.readReg 0x02200008).getD 0).toNat ++ List.replicate 36 0 ++ digestBytes s.cfg.root) ++
    s.ckShards.flatMap fun x => s.ckHead x ++ (s.ckLines x).flatMap fun l => s.servedLine x.1 l.2.1 l.2.2

/-- The checkpoint. -/
def State.checkpoint (s : State) : List Byte := let b := s.ckBody; b ++ digestBytes (digest64 b)

/-- Write every dirty orchard row to flash (R156). -/
def State.flushOrchard (s : State) : State :=
  s.pressCourse.tables.foldl (fun s t =>
    t.owners.foldl (fun s o => ((s.orcCache o.1 t.table).filter (·.dirty)).foldl (fun s x => s.writeBack o.1 t o x) s) s) s

/-- The staging runs of the configuration in force. -/
def State.stagingRuns (s : State) : List ExRun := s.exRuns.filter (·.staging)

/-- Write bytes into staging lines from line `k` on. -/
def State.writeStaging (s : State) (k : Nat) (b : List Byte) : State :=
  (List.range (ceilDiv b.length 2048)).foldl (fun s i =>
    match runLine s.stagingRuns (k + i) with
    | none => s
    | some (r, bank, line) => s.writeExchange r bank line 0 (lineOf b i)) s

/-- Read `n` bytes from staging lines from line `k` on. -/
def State.readStaging (s : State) (k n : Nat) : List Byte :=
  ((List.range (ceilDiv n 2048)).flatMap fun i =>
    match runLine s.stagingRuns (k + i) with
    | none => List.replicate 2048 0
    | some (r, bank, line) => s.servedLine r bank line).take n

/-- The module stands where a checkpoint may be exported (Table 15.6). -/
def State.exportState (s : State) : Bool := s.paramState || (decide (s.run.st = .held) && decide (s.run.hcause = 5))

/-- How `CHECKPOINT_EXPORT` is judged, 0 when it may begin: too small a destination is refused before anything is written (R342, R353; log entry 108). -/
def State.exportCode (s : State) (h : CmdHdr) (haddr : U64) (dest flush : Byte) (hlen : U64) : Nat :=
  let n := s.checkpoint.length
  if badHdr h || decide (1 < dest.toNat) || decide (1 < flush.toNat) || (decide (dest = 0) && !bufferOk haddr hlen.toNat) then 2
  else if !s.exportState then 3
  else if if dest = 0 then decide (hlen.toNat < n) else decide (s.cline < ceilDiv n 2048) then 0x0B
  else 0

/-- `CHECKPOINT_EXPORT` (R353): staging takes the lines below `CLINE` from the lowest (log entry 108). -/
def State.runExport (s : State) (h : CmdHdr) (haddr : U64) (dest flush : Byte) (hlen : U64) : State :=
  let code := s.exportCode h haddr dest flush hlen
  if code ≠ 0 then s.done0 h (BitVec.ofNat 8 code)
  else
      let n := s.checkpoint.length
      let s := if flush = 1 then s.flushOrchard else s
      let b := s.checkpoint
      (if dest = 0 then s.writeHost haddr.toNat b else s.writeStaging 0 b).complete h 0 (BitVec.ofNat 64 n) 0 0

/-- CHECKPOINT_EXPORT (R353). -/
def execCheckpointExport (h : CmdHdr) (haddr : U64) (dest flush : Byte) (hlen : U64) (s : State) : Ans := .next (s.runExport h haddr dest flush hlen)

/-- Place of each shard record in a checkpoint of the shard table in force, and the place of its digest. -/
def State.ckPlaces (s : State) : List (Nat × Nat × Nat × Shard) × Nat :=
  s.ckShards.foldl (fun a x => (a.1 ++ [(a.2, x)], a.2 + s.ckLen x)) ([], ckBase)

/-- The checks of `CHECKPOINT_IMPORT`: digest, layout epoch, step counter, and each record against the shard table, its reserved bytes being zeros, while those of the checkpoint's head may be anything (R353; log entry 150). -/
def State.ckOk (s : State) (b : List Byte) : Bool :=
  let (ps, z) := s.ckPlaces
  decide (z + 64 ≤ b.length) && decide ((b.drop z).take 64 = digestBytes (digest64 (b.take z))) && decide (leAt b 0x10 4 = s.cfg.layout.toNat) &&
  decide (leAt b 8 8 = s.run.step.toNat) && decide (leAt b 0x14 4 = ps.length) && ps.all fun p => decide ((b.drop p.1).take 16 = s.ckHead p.2)

/-- Write one shard from its record (R352, R353). -/
def State.ckWrite (s : State) (b : List Byte) (p : Nat × Nat × Nat × Shard) : State :=
  let (r, k, sh) := p.2
  ((s.ckCopies sh ++ [headerCopy]).foldl (fun (a : State × Nat) c =>
    let n := (a.1.paramLines r sh c).length
    (a.1.writeParams r k sh c 0 n (b.drop a.2), a.2 + 2048 * n)) (s, p.1 + 16)).1

/-- The loss-scale state of a `PRS_LSCALE` value; without loss scaling e stays 0 (R176, Table 8.12). -/
def State.restoreScale (s : State) (v : Nat) : State :=
  if !s.pressCourse.ls.lsen then s else s.onPrs fun p => { p with exp := sext (fld v 0 8) 8, clean := fld v 8 16 }

/-- The bytes that `CHECKPOINT_IMPORT` reads, as far as a checkpoint of the shard table in force goes. -/
def State.ckSource (s : State) (src : Byte) (haddr : U64) (sline : U32) (hlen : U64) : List Byte :=
  let n := min hlen.toNat (s.ckPlaces.2 + 64)
  if src = 0 then s.readHost haddr.toNat n else s.readStaging sline.toNat n

/-- How `CHECKPOINT_IMPORT` is judged, 0 when it may write: parameters, which with a configuration in force are its staging lines too, run state, and the checkpoint (R342, R353). -/
def State.importCode (s : State) (h : CmdHdr) (haddr : U64) (src : Byte) (sline : U32) (hlen : U64) : Nat :=
  if badHdr h || decide (1 < src.toNat) || (decide (src = 0) && !bufferOk haddr hlen.toNat) ||
      (s.cfg.image.isSome && decide (src = 1) && decide (s.stgLines * 2048 < sline.toNat * 2048 + hlen.toNat)) then 2
  else if s.run.st ≠ .stopped then 3
  else if !s.ckOk (s.ckSource src haddr sline hlen) then 0x0C
  else 0

/-- `CHECKPOINT_IMPORT` (R353; log entry 108). -/
def State.runImport (s : State) (h : CmdHdr) (haddr : U64) (src : Byte) (sline : U32) (hlen : U64) : State :=
  let code := s.importCode h haddr src sline hlen
  let b := s.ckSource src haddr sline hlen
  if code ≠ 0 then s.done0 h (BitVec.ofNat 8 code)
  else ((s.ckPlaces.1.foldl (fun s p => s.ckWrite b p) s).restoreScale (leAt b 0x18 4)).complete h 0 (BitVec.ofNat 64 s.ckShards.length) 0 0

/-- CHECKPOINT_IMPORT (R353). -/
def execCheckpointImport (h : CmdHdr) (haddr : U64) (src : Byte) (sline : U32) (hlen : U64) (s : State) : Ans := .next (s.runImport h haddr src sline hlen)

end Sys2Proof.Machine
end

