-- ==== Sys2Proof/Machine/Command.lean ====
section
/-! DEFINITION. Fetching, queueing, starting and timing out Afist commands (R342, R344, R345, R347). -/

namespace Sys2Proof.Machine

/-! Entries (Table 15.3). -/

/-- Opcodes of the commands that enter the configuration lane (R344, Table 15.6). -/
def laneOpcodes : List Nat := [0x10, 0x11, 0x12, 0x13, 0x20, 0x30, 0x31, 0x32, 0x33, 0x34, 0x40, 0x41, 0x60, 0x61]

/-- Opcodes of the other commands. -/
def otherOpcodes : List Nat := [0x01, 0x02, 0x03, 0x04, 0x21, 0x22, 0x23, 0x50, 0x51]

/-- Bytes of an entry's parameters that a command uses, as offset in the entry and width (Table 15.6). -/
def usedParams (opc : Nat) : List (Nat × Nat) :=
  match opc with
  | 0x01 => [(0x08, 8)]
  | 0x02 => [(0x08, 8), (0x10, 32), (0x30, 4)]
  | 0x03 => [(0x08, 8), (0x10, 1), (0x14, 4), (0x18, 4)]
  | 0x04 => [(0x08, 8), (0x10, 2)]
  | 0x10 | 0x34 => [(0x08, 8), (0x10, 4), (0x18, 8)]
  | 0x12 => [(0x08, 8), (0x10, 4), (0x18, 8)]
  | 0x20 | 0x22 => [(0x08, 8)]
  | 0x21 => [(0x08, 1)]
  | 0x30 | 0x31 => [(0x08, 8), (0x10, 1), (0x11, 1), (0x12, 2), (0x14, 4), (0x18, 4)]
  | 0x32 => [(0x08, 8), (0x10, 1), (0x11, 1), (0x18, 8)]
  | 0x33 => [(0x08, 8), (0x10, 1), (0x14, 4), (0x18, 8)]
  | 0x40 => [(0x08, 1), (0x10, 48)]
  | 0x41 => [(0x08, 2), (0x0A, 1), (0x10, 32)]
  | 0x50 => [(0x08, 8), (0x10, 2), (0x12, 1)]
  | 0x51 => [(0x08, 8), (0x10, 8), (0x18, 4)]
  | 0x60 => [(0x08, 8), (0x10, 1)]
  | 0x61 => [(0x08, 4)]
  | _ => []

/-- Number at an offset of the entry, from its 56 parameter bytes. -/
def InHand.f (x : InHand) (off n : Nat) : Nat := leAt x.prm (off - 8) n

/-- Entries of a list parameter, `w` bytes each (`PARTNER_SET`, `FEED_DOMAIN_SET`). -/
def InHand.pairs (x : InHand) (n w : Nat) : List (U16 × Nat) :=
  (List.range n).map fun i => (BitVec.ofNat 16 (x.f (0x10 + w * i) 2), x.f (0x12 + w * i) (w - 2))

/-- A parameter byte that the command does not use is set: outside its fields, or past the entries of its list. -/
def InHand.unusedSet (x : InHand) : Bool :=
  let n := if x.opc = 0x40 then x.f 8 1 else if x.opc = 0x41 then x.f 0x0A 1 else 8
  let w := if x.opc = 0x40 then 6 else 4
  (List.range 56).any fun i =>
    let o := i + 8
    decide (x.prm.getD i 0 ≠ 0) &&
      (!(usedParams x.opc).any (fun u => decide (u.1 ≤ o) && decide (o < u.1 + u.2)) ||
        ((decide (x.opc = 0x40) || decide (x.opc = 0x41)) && decide (0x10 + w * n ≤ o)))

/-- 64-bit, 32-bit, 16-bit and 8-bit parameters. -/
def InHand.q (x : InHand) (off : Nat) : U64 := BitVec.ofNat 64 (x.f off 8)
def InHand.d (x : InHand) (off : Nat) : U32 := BitVec.ofNat 32 (x.f off 4)
def InHand.w (x : InHand) (off : Nat) : U16 := BitVec.ofNat 16 (x.f off 2)
def InHand.b (x : InHand) (off : Nat) : Byte := BitVec.ofNat 8 (x.f off 1)

/-- Perform a lane command from its entry. -/
def State.runLaneOp (s : State) (x : InHand) : State :=
  match x.opc with
  | 0x10 => s.runStage false x.h (x.q 8) (x.d 0x10) (x.q 0x18)
  | 0x11 => s.runCheck x.h
  | 0x12 => s.runArm x.h (x.q 8) (x.d 0x10) (x.q 0x18)
  | 0x13 => s.runAbandon x.h
  | 0x20 => s.runStep x.h (x.q 8)
  | 0x30 => s.runParamRead x.h (x.q 8) (x.b 0x10) (x.b 0x11) (x.w 0x12) (x.d 0x14) (x.d 0x18)
  | 0x31 => s.runParamWrite x.h (x.q 8) (x.b 0x10) (x.b 0x11) (x.w 0x12) (x.d 0x14) (x.d 0x18)
  | 0x32 => s.runExport x.h (x.q 8) (x.b 0x10) (x.b 0x11) (x.q 0x18)
  | 0x33 => s.runImport x.h (x.q 8) (x.b 0x10) (x.d 0x14) (x.q 0x18)
  | 0x34 => s.runStage true x.h (x.q 8) (x.d 0x10) (x.q 0x18)
  | 0x40 => s.runPartnerSet x.h ((x.pairs (x.f 8 1) 6).map fun p => (p.1, BitVec.ofNat 32 p.2))
  | 0x41 => s.runDomainSet x.h (x.w 8) ((x.pairs (x.f 0x0A 1) 4).map fun p => (p.1, BitVec.ofNat 16 p.2))
  | 0x60 => s.runEnrol x.h (x.q 8) (x.b 0x10)
  | _ => s.runLock x.h (x.d 8)

/-- Perform a command outside the lane from its entry. -/
def State.runOtherOp (s : State) (x : InHand) : State :=
  match x.opc with
  | 0x01 => s.runIdentify x.h (x.q 8)
  | 0x02 => s.runAttest x.h (x.q 8) (BitVec.ofNat 256 (x.f 0x10 32)) (x.d 0x30)
  | 0x03 => s.runHealthRead x.h (x.q 8) (x.b 0x10) (x.d 0x14) (x.d 0x18)
  | 0x04 => s.runLinkStatus x.h (x.q 8) (x.w 0x10)
  | 0x21 => s.runHold x.h (x.b 8)
  | 0x22 => s.runBatchFeed x.h (x.q 8)
  | 0x23 => s.runReset x.h
  | 0x50 => s.runRingRead x.h (x.q 8) (x.w 0x10) (x.b 0x12)
  | _ => s.runMirrorRead x.h (x.q 8) (x.q 0x10) (x.d 0x18)

/-- Judge an entry and perform it: reserved bytes first, then the command (R342); one whose host request fails ends with status 0x06 (R334). -/
def State.runEntryOp (s : State) (x : InHand) : State :=
  if x.rsv || x.unusedSet then s.done0 x.h 2
  else if x.asksHost && s.run.hostFails.contains x.h then (s.onRun fun r => { r with hostFails := r.hostFails.erase x.h }).done0 x.h 6
  else if laneOpcodes.contains x.opc then s.runLaneOp x
  else s.runOtherOp x

/-! Fetching (R344). -/

/-- Host queue of a command submission queue (Table 9.3). -/
def sqQueue (p : Nat) : Nat := 512 + 2 * p

/-- The entry that a submission queue's device index names (R190, R342). -/
def State.entryAt (s : State) (q : HostQ) : List Byte := s.readHost (q.base + 64 + q.dev.toNat % 2 ^ q.z * 64) 64

/-- The command that an entry fetched at `now` spells. -/
def inHandOf (p : Fin 16128) (b : List Byte) (now : U64) : InHand where
  h := { sq := p, cid := BitVec.ofNat 16 (leAt b 2 2), tmo := BitVec.ofNat 16 (leAt b 4 2), since := now }
  opc := leAt b 0 1
  rsv := decide (leAt b 1 1 ≠ 0) || decide (leAt b 6 2 ≠ 0)
  prm := (b.drop 8).take 56

/-- There is room for a command: in the lane, or in execution outside it. -/
def State.roomFor (s : State) (opc : Nat) : Bool := if laneOpcodes.contains opc then decide (s.laneCount < 64) else decide (s.execCount < 32)

/-- A command of the queue waits in a lane that is full (R344). -/
def State.laneHolds (s : State) (p : Nat) : Bool := decide (64 ≤ s.laneCount) && s.run.laneQ.any fun x => decide (x.h.sq.val = p)

/-- The submission queue holds an unfetched entry that can be taken now; a full completion ring stalls it (R192), and so does a command of it in a full lane (R344). -/
def State.fetchable (s : State) (p : Nat) : Bool :=
  let q := s.hq (sqQueue p)
  q.en && !s.laneHolds p && decide (q.host ≠ q.dev) && !(s.hq (sqQueue p + 1)).full && s.roomFor (leAt (s.entryAt q) 0 1)

/-- Submission queues that have a host queue context, in ascending order. -/
def State.subQueues (s : State) : List Nat := s.brg.hq.filterMap fun x => if 512 ≤ x.1 ∧ x.1 % 2 = 0 ∧ x.1 < 512 + 2 * 16128 then some ((x.1 - 512) / 2) else none

/-- The queue whose turn it is: the first at or after the round-robin place that can be fetched from, else the first of all. -/
def State.nextQueue (s : State) : Option Nat :=
  let l := s.subQueues.filter s.fetchable
  match l.find? fun p => decide (s.run.rr ≤ p) with
  | some p => some p
  | none => l.head?

/-- A fetched command enters the lane, is performed at once, or is unknown (R342, R344). -/
def State.acceptEntry (s : State) (x : InHand) : State :=
  if laneOpcodes.contains x.opc then s.onRun fun r => { r with laneQ := r.laneQ ++ [x] }
  else if otherOpcodes.contains x.opc then s.runEntryOp x
  else s.done0 x.h 1

/-- COMMAND_FETCH (R344): the bridge fetches one entry from the queue whose turn it is. -/
def execCommandFetch (s : State) : Ans :=
  if s.brg.linkDown then .next s
  else
    match s.nextQueue with
    | none => .next s
    | some p =>
      if hp : p < 16128 then
        let x := inHandOf ⟨p, hp⟩ (s.entryAt (s.hq (sqQueue p))) s.time
        let s := (s.onHq (sqQueue p) fun q => { q with dev := q.dev + 1 }).onRun fun r => { r with rr := p + 1 }
        .next (s.acceptEntry x)
      else .next s

/-- An image check leaves the lane only where one more command may execute outside it (R344). -/
def State.checkWaits (s : State) (x : InHand) : Bool := decide (x.opc = 0x11) && decide (32 ≤ s.execCount)

/-- LANE_COMMAND_START (R344): the oldest lane command is performed once none executes. -/
def execLaneCommandStart (s : State) : Ans :=
  match s.run.laneQ with
  | [] => .next s
  | x :: rest => if s.laneBlocked || s.checkWaits x then .next s else .next ((s.onRun fun r => { r with laneQ := rest }).runEntryOp x)

/-! Timeouts (R345). -/

/-- The first command in a list that is `h`, taken out. -/
def eraseHdr {α : Type} (f : α → CmdHdr) (h : CmdHdr) : List α → List α
  | [] => []
  | x :: t => if f x = h then t else x :: eraseHdr f h t

/-- Default timeout of a command, in units of 10 ms (Table 15.6). -/
def defaultTmo (opc : Nat) : Nat :=
  match opc with
  | 0x10 | 0x30 | 0x31 | 0x34 => 1000
  | 0x11 => 6500
  | 0x21 => 100
  | 0x32 | 0x33 => 65535
  | 0x02 | 0x03 | 0x12 | 0x22 | 0x23 | 0x51 | 0x60 => 10
  | _ => 1

/-- The command's time, which runs from its fetch, is over (R345). -/
def State.timeUp (s : State) (h : CmdHdr) (opc : Nat) : Bool :=
  decide (h.since.toNat + 10000 * (if h.tmo = 0 then defaultTmo opc else h.tmo.toNat) ≤ s.time.toNat)

/-- The lane command is one that its parameters and the module's state let begin (R342). -/
def InHand.judgedOk (x : InHand) (s : State) : Bool :=
  !x.rsv && !x.unusedSet &&
  match x.opc with
  | 0x30 => decide (s.paramCode x.h (x.q 8) (x.b 0x10) (x.b 0x11) (x.w 0x12) (x.d 0x14) (x.d 0x18) false = 0)
  | 0x31 => decide (s.paramCode x.h (x.q 8) (x.b 0x10) (x.b 0x11) (x.w 0x12) (x.d 0x14) (x.d 0x18) true = 0)
  | 0x32 => decide (s.exportCode x.h (x.q 8) (x.b 0x10) (x.b 0x11) (x.q 0x18) = 0)
  | 0x33 => decide (s.importCode x.h (x.q 8) (x.b 0x10) (x.d 0x14) (x.q 0x18) = 0)
  | _ => false

/-- What a lane command that is stopped at a line, shard or chunk boundary has done: as many of its lines or shards as an open value says, and for an export as many whole chunks of 4,096 bytes (R345, Table 15.6; log entry 165). -/
def State.partDone (s : State) (x : InHand) : State :=
  let (v, s) := s.fresh
  match x.opc with
  | 0x30 =>
    match s.paramSpan (x.b 0x10) (x.b 0x11) (x.w 0x12) (x.d 0x14) (x.d 0x18) with
    | none => s.done0 x.h 4
    | some (_, l) =>
      let k := v % max l.length 1
      (s.writeHost (x.f 8 8) ((l.take k).flatMap fun y => s.servedLine (x.f 0x10 1) y.1 y.2)).complete x.h 4 (BitVec.ofNat 64 k) 0 0
  | 0x31 =>
    match s.paramSpan (x.b 0x10) (x.b 0x11) (x.w 0x12) (x.d 0x14) (x.d 0x18) with
    | none => s.done0 x.h 4
    | some (sh, l) =>
      let k := v % max l.length 1
      (s.writeParams (x.f 0x10 1) (x.f 0x12 2) sh (x.f 0x11 1) (x.f 0x14 4) k (s.readHost (x.f 8 8) (k * 2048))).complete x.h 4 (BitVec.ofNat 64 k) 0 0
  | 0x32 =>
    let s := if x.b 0x11 = 1 then s.flushOrchard else s
    let b := s.ckBody
    let b := b.take (v % (b.length / 4096 + 1) * 4096)
    (if x.b 0x10 = 0 then s.writeHost (x.f 8 8) b else s.writeStaging 0 b).done0 x.h 4
  | 0x33 =>
    let ps := s.ckPlaces.1
    let k := v % max ps.length 1
    ((ps.take k).foldl (fun s p => s.ckWrite (s.ckSource (x.b 0x10) (x.q 8) (x.d 0x14) (x.q 0x18)) p) s).complete x.h 4 (BitVec.ofNat 64 k) 0 0
  | _ => s.done0 x.h 4

/-- A lane command reaches its timeout: one that waits leaves nothing; the oldest, in execution unless something blocks the lane, what it has done where it has an effect to begin, and else completes as it would have (R345). -/
def State.stopLane (s : State) (x : InHand) : State :=
  let first := s.run.laneQ.head? = some x && !s.laneBlocked
  let s := s.onRun fun r => { r with laneQ := eraseHdr InHand.h x.h r.laneQ }
  if first && x.judgedOk s then s.partDone x else s.done0 x.h 4

/-- COMMAND_TIMEOUT (R345): a command whose time is over ends with status 0x04, leaving what Table 15.6 states: a check stops, a requested hold and a reset go on, a feed leaves nothing, and a lane command what it has done. -/
def execCommandTimeout (h : CmdHdr) (s : State) : Ans :=
  match s.run.laneQ.find? fun x => decide (x.h = h) with
  | some x => if s.timeUp h x.opc then .next (s.stopLane x) else .next s
  | none =>
    if s.run.check = some h && s.timeUp h 0x11 then
      .next (((s.onStg fun t => { t with st := .loading }).onRun fun r => { r with check := none }).done0 h 4)
    else if (s.run.holds.any fun x => decide (x.1 = h)) && s.timeUp h 0x21 then .next ((s.onRun fun r => { r with holds := eraseHdr Prod.fst h r.holds }).done0 h 4)
    else if (s.run.feeds.any fun x => decide (x.1 = h)) && s.timeUp h 0x22 then .next ((s.onRun fun r => { r with feeds := eraseHdr Prod.fst h r.feeds }).done0 h 4)
    else if s.run.resetCmd = some h && s.timeUp h 0x23 then .next ((s.onRun fun r => { r with resetCmd := none }).done0 h 4)
    else .next s

end Sys2Proof.Machine
end

