-- ==== Sys2Proof/Machine/Window.lean ====
section
/-! DEFINITION. The device-memory window: its segments, and host reads and writes of exchange lines (R336 to R339). -/

namespace Sys2Proof.Machine

/-- Bytes of a segment (R336). -/
def segSize : Nat := 2 ^ 38

/-- The exchange line at a window offset: segment and line as R336 and R337 place them, none for an unmapped offset. -/
def State.windowAt (s : State) (off : Nat) : Option (Nat × Nat × Nat) :=
  let k := off % segSize / 2048
  let data := s.exRuns.filter fun u => !u.staging
  match off / segSize with
  | 0 => if k < s.resLines then runLine data k else none
  | 1 => if k < s.outLines then runLine data (s.resLines + k) else none
  | 2 => if k < s.stgLines then runLine (s.exRuns.filter (·.staging)) k else none
  | _ => none

/-- A staging line that holds course copies (R338). -/
def State.holdsCopies (s : State) (off : Nat) : Bool := decide (off / segSize = 2) && decide (s.cline ≤ off % segSize / 2048)

/-- Operands of a window access that stays in one 64-byte unit. -/
def unitOk (off len : Nat) : Bool := decide (1 ≤ len) && decide (off % 64 + len ≤ 64)

/-- A host write to the window: the bytes join those gathered for their line, or are discarded and counted; a full or used reservoir slot also counts and logs the discard (R152, R338). -/
def State.hostWindowWrite (s : State) (o : Nat) (data : List Byte) (poison : Bool) : State :=
  if poison || !s.windowOpen || s.holdsCopies o then s.rejectAccess
  else
    match s.windowAt o with
    | none => s.rejectAccess
    | some (r, bank, line) => if s.resClosed r bank line then s.rejectAccess.resDiscard r bank line else s.gatherWrite r bank line (o % 2048) data

/-- WINDOW_WRITE (R338). -/
def execWindowWrite (off : BitVec 40) (data : List Byte) (poison : Bool) (s : State) : Ans :=
  if unitOk off.toNat data.length then s.overLink (.windowWrite off data poison) fun s => .next (s.hostWindowWrite off.toNat data poison) else .fault .illFormed

/-- A host read of the window: a mapped line's bytes, with those gathered for it; zeros and a count for an unmapped offset; poison while the mode course closes the window (R338). -/
def State.hostWindowRead (s : State) (o len : Nat) : State :=
  if s.cfg.image.isSome && s.modeCourse.hwin then s.onRun fun r => { r with lastWindow := none }
  else
    match s.windowAt o with
    | none => s.rejectAccess.onRun fun r => { r with lastWindow := some (List.replicate len 0) }
    | some (r, bank, line) =>
      let s := s.applyGather (lineKey r bank line)
      s.onRun fun x => { x with lastWindow := some (((s.servedLine r bank line).drop (o % 2048)).take len) }

/-- WINDOW_READ (R338). -/
def execWindowRead (off : BitVec 40) (len : Nat) (s : State) : Ans :=
  if unitOk off.toNat len then s.overLink (.windowRead off len) fun s => .next (s.hostWindowRead off.toNat len) else .fault .illFormed

end Sys2Proof.Machine
end

