-- ==== Sys2Proof/Machine/HostLink.lean ====
section
/-! DEFINITION. The recovery of the host link: the accesses that waited for it are performed (R335). -/

namespace Sys2Proof.Machine

/-- The next state of an answer, the state before where there is none. -/
def nextOr (s : State) (a : Ans) : State :=
  match a with
  | .next t => t
  | _ => s

/-- Perform a delayed access of the host (R335). -/
def State.performAccess (s : State) (c : Instr) : State :=
  nextOr s (match c with
    | .hostQueueCreate q => execHostQueueCreate q s
    | .hostQueueDelete q => execHostQueueDelete q s
    | .dbProd q v => execDbProd q v s
    | .dbCons q v => execDbCons q v s
    | .bridgeDmaResume c => execBridgeDmaResume c s
    | .bridgeDmaAbort c => execBridgeDmaAbort c s
    | .consumerIndexWrite v => execConsumerIndexWrite v s
    | .overwriteOldest => execOverwriteOldest s
    | .stopAtFull => execStopAtFull s
    | .clearTheMirror => execClearTheMirror s
    | .guardValueWrite g v => execGuardValueWrite g v s
    | .ctlGrdFence comp => execCtlGrdFence comp s
    | .ctlGrdRpwr comp => execCtlGrdRpwr comp s
    | .ctlGrdPromo comp => execCtlGrdPromo comp s
    | .lockBitWrite v => execLockBitWrite v s
    | .ctlClkWrite v => execCtlClkWrite v s
    | .fsetWrite r v => execFsetWrite r v s
    | .grant r v => execGrant r v s
    | .ctlDbgWrite v => execCtlDbgWrite v s
    | .registerWrite a n d p => execRegisterWrite a n d p s
    | .clearOnRead a n => execClearOnRead a n s
    | .windowWrite o d p => execWindowWrite o d p s
    | .windowRead o n => execWindowRead o n s
    | _ => .next s)

/-- CXL_LINK_RECOVERED (R335): the link is up on the controller that took over; the accesses that waited are performed in order, and the failover's second record gives its overhead (Table 13.9). -/
def execCxlLinkRecovered (s : State) : Ans :=
  if s.brg.dead || !s.brg.linkDown then .next s
  else
    let late := s.brg.delayed
    let s := (s.onBrg fun b => { b with linkDown := false, delayed := [] }).logHealth { cls := 0x49, action := 9, done := true, detail := s.overhead s.brg.downSince }
    .next (late.foldl (fun s c => s.performAccess c) s)

end Sys2Proof.Machine
end

