-- ==== Sys2Proof/Machine/Dispatch.lean ====
section
/-! DEFINITION. One arm per command: the direct call of its meaning. -/

namespace Sys2Proof.Machine

/-- The effect of a command on everything but the queue. -/
def exec (i : Instr) (s : State) : Host.Outcome State Fault Refusal :=
  match i with
  | .identify h haddr => Sys2Proof.Machine.execIdentify h haddr s
  | .attest h haddr nonce hlen => Sys2Proof.Machine.execAttest h haddr nonce hlen s
  | .healthRead h haddr sel fromSeq count => Sys2Proof.Machine.execHealthRead h haddr sel fromSeq count s
  | .linkStatus h haddr engmask => Sys2Proof.Machine.execLinkStatus h haddr engmask s
  | .imageStage h haddr hlen ioff => Sys2Proof.Machine.execImageStage h haddr hlen ioff s
  | .reshard h haddr hlen ioff => Sys2Proof.Machine.execReshard h haddr hlen ioff s
  | .imageCheck h => Sys2Proof.Machine.execImageCheck h s
  | .imageCheckEnd => Sys2Proof.Machine.execImageCheckEnd s
  | .imageArm h b e haddr => Sys2Proof.Machine.execImageArm h b e haddr s
  | .imageAbandon h => Sys2Proof.Machine.execImageAbandon h s
  | .stepRun h limit => Sys2Proof.Machine.execStepRun h limit s
  | .stepHold h at_ => Sys2Proof.Machine.execStepHold h at_ s
  | .batchFeed h stepNo => Sys2Proof.Machine.execBatchFeed h stepNo s
  | .computeReset h => Sys2Proof.Machine.execComputeReset h s
  | .paramRead h haddr lregion copy shard fline nln => Sys2Proof.Machine.execParamRead h haddr lregion copy shard fline nln s
  | .paramWrite h haddr lregion copy shard fline nln => Sys2Proof.Machine.execParamWrite h haddr lregion copy shard fline nln s
  | .checkpointExport h haddr dest flush hlen => Sys2Proof.Machine.execCheckpointExport h haddr dest flush hlen s
  | .checkpointImport h haddr src sline hlen => Sys2Proof.Machine.execCheckpointImport h haddr src sline hlen s
  | .partnerSet h partners => Sys2Proof.Machine.execPartnerSet h partners s
  | .feedDomainSet h own domains => Sys2Proof.Machine.execFeedDomainSet h own domains s
  | .numericRingRead h haddr maxN adv => Sys2Proof.Machine.execNumericRingRead h haddr maxN adv s
  | .meterMirrorRead h haddr fromSeq count => Sys2Proof.Machine.execMeterMirrorRead h haddr fromSeq count s
  | .keyEnrol h haddr slot => Sys2Proof.Machine.execKeyEnrol h haddr slot s
  | .lock h mask => Sys2Proof.Machine.execLock h mask s
  | .commandFetch => Sys2Proof.Machine.execCommandFetch s
  | .laneCommandStart => Sys2Proof.Machine.execLaneCommandStart s
  | .commandTimeout h => Sys2Proof.Machine.execCommandTimeout h s
  | .completionEntryWrite q => Sys2Proof.Machine.execCompletionEntryWrite q s
  | .msiXCoalesceTimeout q => Sys2Proof.Machine.execMsiXCoalesceTimeout q s
  | .hostQueueCreate q => Sys2Proof.Machine.execHostQueueCreate q s
  | .hostQueueDelete q => Sys2Proof.Machine.execHostQueueDelete q s
  | .dbProd q v => Sys2Proof.Machine.execDbProd q v s
  | .dbCons q v => Sys2Proof.Machine.execDbCons q v s
  | .headerLineReread q => Sys2Proof.Machine.execHeaderLineReread q s
  | .bridgeDmaResume c => Sys2Proof.Machine.execBridgeDmaResume c s
  | .bridgeDmaAbort c => Sys2Proof.Machine.execBridgeDmaAbort c s
  | .consumerIndexWrite v => Sys2Proof.Machine.execConsumerIndexWrite v s
  | .overwriteOldest => Sys2Proof.Machine.execOverwriteOldest s
  | .stopAtFull => Sys2Proof.Machine.execStopAtFull s
  | .clearTheMirror => Sys2Proof.Machine.execClearTheMirror s
  | .guardValueWrite g v => Sys2Proof.Machine.execGuardValueWrite g v s
  | .ctlGrdFence comp => Sys2Proof.Machine.execCtlGrdFence comp s
  | .ctlGrdRpwr comp => Sys2Proof.Machine.execCtlGrdRpwr comp s
  | .ctlGrdPromo comp => Sys2Proof.Machine.execCtlGrdPromo comp s
  | .guardConfirmTimeout => Sys2Proof.Machine.execGuardConfirmTimeout s
  | .lockBitWrite v => Sys2Proof.Machine.execLockBitWrite v s
  | .ctlClkWrite v => Sys2Proof.Machine.execCtlClkWrite v s
  | .fsetWrite r v => Sys2Proof.Machine.execFsetWrite r v s
  | .grant r v => Sys2Proof.Machine.execGrant r v s
  | .ctlDbgWrite v => Sys2Proof.Machine.execCtlDbgWrite v s
  | .registerWrite addr size data poison => Sys2Proof.Machine.execRegisterWrite addr size data poison s
  | .clearOnRead addr size => Sys2Proof.Machine.execClearOnRead addr size s
  | .managementBusWrite index data => Sys2Proof.Machine.execManagementBusWrite index data s
  | .managementBusClockStuck => Sys2Proof.Machine.execManagementBusClockStuck s
  | .windowWrite off data poison => Sys2Proof.Machine.execWindowWrite off data poison s
  | .windowRead off len => Sys2Proof.Machine.execWindowRead off len s
  | .tileOperationIssue r c => Sys2Proof.Machine.execTileOperationIssue r c s
  | .tileDrain r c => Sys2Proof.Machine.execTileDrain r c s
  | .vectorChainIssue r c => Sys2Proof.Machine.execVectorChainIssue r c s
  | .vectorChainComplete r c => Sys2Proof.Machine.execVectorChainComplete r c s
  | .put r c => Sys2Proof.Machine.execPut r c s
  | .get r c => Sys2Proof.Machine.execGet r c s
  | .reduceAdd r c => Sys2Proof.Machine.execReduceAdd r c s
  | .reduceMax r c => Sys2Proof.Machine.execReduceMax r c s
  | .reduceXor r c => Sys2Proof.Machine.execReduceXor r c s
  | .compareAndSwap r c => Sys2Proof.Machine.execCompareAndSwap r c s
  | .wait r c => Sys2Proof.Machine.execWait r c s
  | .emit r c => Sys2Proof.Machine.execEmit r c s
  | .launch r c => Sys2Proof.Machine.execLaunch r c s
  | .loop r c => Sys2Proof.Machine.execLoop r c s
  | .endProg r c => Sys2Proof.Machine.execEndProg r c s
  | .remoteOperationApply t => Sys2Proof.Machine.execRemoteOperationApply t s
  | .getDataArrival r c => Sys2Proof.Machine.execGetDataArrival r c s
  | .putAcknowledgement r c => Sys2Proof.Machine.execPutAcknowledgement r c s
  | .compareAndSwapResult r c => Sys2Proof.Machine.execCompareAndSwapResult r c s
  | .emitArrival idx => Sys2Proof.Machine.execEmitArrival idx s
  | .launchArrival r c => Sys2Proof.Machine.execLaunchArrival r c s
  | .beatTableEntry r c err => Sys2Proof.Machine.execBeatTableEntry r c err s
  | .packetForward router out err => Sys2Proof.Machine.execPacketForward router out err s
  | .configurationWrite r unit off data => Sys2Proof.Machine.execConfigurationWrite r unit off data s
  | .configurationReadRequest r unit off => Sys2Proof.Machine.execConfigurationReadRequest r unit off s
  | .configurationReadResponse idx => Sys2Proof.Machine.execConfigurationReadResponse idx s
  | .numericRecord idx => Sys2Proof.Machine.execNumericRecord idx s
  | .numericRecordExpiry idx => Sys2Proof.Machine.execNumericRecordExpiry idx s
  | .microBatchReport idx => Sys2Proof.Machine.execMicroBatchReport idx s
  | .holdToken r => Sys2Proof.Machine.execHoldToken r s
  | .holdReached => Sys2Proof.Machine.execHoldReached s
  | .endOfStepReport r => Sys2Proof.Machine.execEndOfStepReport r s
  | .stepCommit => Sys2Proof.Machine.execStepCommit s
  | .commitToken r => Sys2Proof.Machine.execCommitToken r s
  | .contributionArrival r => Sys2Proof.Machine.execContributionArrival r s
  | .shardUpdate r k => Sys2Proof.Machine.execShardUpdate r k s
  | .shardSum r k => Sys2Proof.Machine.execShardSum r k s
  | .normRecordSend => Sys2Proof.Machine.execNormRecordSend s
  | .normRecordArrival n => Sys2Proof.Machine.execNormRecordArrival n s
  | .normExchangeComplete => Sys2Proof.Machine.execNormExchangeComplete s
  | .normExchangeTimeout m => Sys2Proof.Machine.execNormExchangeTimeout m s
  | .heldShardUpdate r k => Sys2Proof.Machine.execHeldShardUpdate r k s
  | .fingerprintArrival m r k stepNo fp => Sys2Proof.Machine.execFingerprintArrival m r k stepNo fp s
  | .fingerprintTimeout m r k => Sys2Proof.Machine.execFingerprintTimeout m r k s
  | .stampRefresh r => Sys2Proof.Machine.execStampRefresh r s
  | .deltaPacketArrival r => Sys2Proof.Machine.execDeltaPacketArrival r s
  | .scrub r bank line found => Sys2Proof.Machine.execScrub r bank line found s
  | .lineRecovered r bank line => Sys2Proof.Machine.execLineRecovered r bank line s
  | .dramRowRemap r bank row => Sys2Proof.Machine.execDramRowRemap r bank row s
  | .orchardRowPrepare r table row => Sys2Proof.Machine.execOrchardRowPrepare r table row s
  | .orchardFillComplete r table row => Sys2Proof.Machine.execOrchardFillComplete r table row s
  | .orchardFillTimeout r table row => Sys2Proof.Machine.execOrchardFillTimeout r table row s
  | .flashDieLost die => Sys2Proof.Machine.execFlashDieLost die s
  | .descriptorFetch ch => Sys2Proof.Machine.execDescriptorFetch ch s
  | .descriptorRun ch => Sys2Proof.Machine.execDescriptorRun ch s
  | .dmaReadRequest t => Sys2Proof.Machine.execDmaReadRequest t s
  | .dmaReadData ch => Sys2Proof.Machine.execDmaReadData ch s
  | .dmaWriteArrival t => Sys2Proof.Machine.execDmaWriteArrival t s
  | .dmaWriteAcknowledgement ch => Sys2Proof.Machine.execDmaWriteAcknowledgement ch s
  | .descriptorComplete ch => Sys2Proof.Machine.execDescriptorComplete ch s
  | .hostCompletionTimeout w => Sys2Proof.Machine.execHostCompletionTimeout w s
  | .moveBegin r k => Sys2Proof.Machine.execMoveBegin r k s
  | .moveComplete r k => Sys2Proof.Machine.execMoveComplete r k s
  | .lanePowerInRange e l => Sys2Proof.Machine.execLanePowerInRange e l s
  | .receiverOverPower e p => Sys2Proof.Machine.execReceiverOverPower e p s
  | .trainingWord e l w => Sys2Proof.Machine.execTrainingWord e l w s
  | .laneStateTimeout e l => Sys2Proof.Machine.execLaneStateTimeout e l s
  | .codewordLock e x => Sys2Proof.Machine.execCodewordLock e x s
  | .measureEnd e l own partnerErrs => Sys2Proof.Machine.execMeasureEnd e l own partnerErrs s
  | .errorWindowEnd e l own partnerErrs => Sys2Proof.Machine.execErrorWindowEnd e l own partnerErrs s
  | .lossOfCodewordLock e l => Sys2Proof.Machine.execLossOfCodewordLock e l s
  | .laneChangePoint e j point => Sys2Proof.Machine.execLaneChangePoint e j point s
  | .linkAlign e j heard => Sys2Proof.Machine.execLinkAlign e j heard s
  | .identityFrame e j f => Sys2Proof.Machine.execIdentityFrame e j f s
  | .identifyTimeout e j => Sys2Proof.Machine.execIdentifyTimeout e j s
  | .frameReceipt e j f => Sys2Proof.Machine.execFrameReceipt e j f s
  | .linkReplayTimeout e j => Sys2Proof.Machine.execLinkReplayTimeout e j s
  | .transportPacketAccept e p => Sys2Proof.Machine.execTransportPacketAccept e p s
  | .transportAcknowledgement e a => Sys2Proof.Machine.execTransportAcknowledgement e a s
  | .transportRetransmission e slot p => Sys2Proof.Machine.execTransportRetransmission e slot p s
  | .engineLoss x => Sys2Proof.Machine.execEngineLoss x s
  | .beaconSend e j => Sys2Proof.Machine.execBeaconSend e j s
  | .beaconReceipt e j f => Sys2Proof.Machine.execBeaconReceipt e j f s
  | .beaconMiss e j => Sys2Proof.Machine.execBeaconMiss e j s
  | .applyToken r => Sys2Proof.Machine.execApplyToken r s
  | .regionLoadComplete r digestOk => Sys2Proof.Machine.execRegionLoadComplete r digestOk s
  | .goToken => Sys2Proof.Machine.execGoToken s
  | .liveSignalTimeout r c => Sys2Proof.Machine.execLiveSignalTimeout r c s
  | .operationDeadline r c idx => Sys2Proof.Machine.execOperationDeadline r c idx s
  | .quiescenceWatchdog => Sys2Proof.Machine.execQuiescenceWatchdog s
  | .partnerLoss m => Sys2Proof.Machine.execPartnerLoss m s
  | .illegalOperationReport idx digestOk => Sys2Proof.Machine.execIllegalOperationReport idx digestOk s
  | .faultReport src => Sys2Proof.Machine.execFaultReport src s
  | .regionSupplyTrip r => Sys2Proof.Machine.execRegionSupplyTrip r s
  | .lockstepDivergence => Sys2Proof.Machine.execLockstepDivergence s
  | .configurationParityScrub site => Sys2Proof.Machine.execConfigurationParityScrub site s
  | .rewind r => Sys2Proof.Machine.execRewind r s
  | .rewindQuiescent => Sys2Proof.Machine.execRewindQuiescent s
  | .drainTimeout => Sys2Proof.Machine.execDrainTimeout s
  | .resumeToken => Sys2Proof.Machine.execResumeToken s
  | .standbyPowered => Sys2Proof.Machine.execStandbyPowered s
  | .rebuildChainStep g sheaf line => Sys2Proof.Machine.execRebuildChainStep g sheaf line s
  | .replayStart => Sys2Proof.Machine.execReplayStart s
  | .commitPointReport r => Sys2Proof.Machine.execCommitPointReport r s
  | .snapshotSettled => Sys2Proof.Machine.execSnapshotSettled s
  | .sagExchangeSend => Sys2Proof.Machine.execSagExchangeSend s
  | .sagExchangeRecord x => Sys2Proof.Machine.execSagExchangeRecord x s
  | .pllLocked r => Sys2Proof.Machine.execPllLocked r s
  | .pllLockTimeout r => Sys2Proof.Machine.execPllLockTimeout r s
  | .powerFail mv => Sys2Proof.Machine.execPowerFail mv s
  | .overVoltage mv => Sys2Proof.Machine.execOverVoltage mv s
  | .absoluteOverVoltage mv => Sys2Proof.Machine.execAbsoluteOverVoltage mv s
  | .inletRestored mv => Sys2Proof.Machine.execInletRestored mv s
  | .governorTick reading => Sys2Proof.Machine.execGovernorTick reading s
  | .thermalDutyTick r tj => Sys2Proof.Machine.execThermalDutyTick r tj s
  | .junctionTrip r => Sys2Proof.Machine.execJunctionTrip r s
  | .coolantSample flowA flowB tinA tinB tout => Sys2Proof.Machine.execCoolantSample flowA flowB tinA tinB tout s
  | .coolantLimit => Sys2Proof.Machine.execCoolantLimit s
  | .pwrEnHigh => Sys2Proof.Machine.execPwrEnHigh s
  | .pwrEnLow => Sys2Proof.Machine.execPwrEnLow s
  | .modRstN => Sys2Proof.Machine.execModRstN s
  | .rstgl => Sys2Proof.Machine.execRstgl s
  | .bringUpStageEnd failed cores => Sys2Proof.Machine.execBringUpStageEnd failed cores s
  | .bringUpStageTimeout coolant => Sys2Proof.Machine.execBringUpStageTimeout coolant s
  | .topologyCheckPass => Sys2Proof.Machine.execTopologyCheckPass s
  | .topologyTimeout => Sys2Proof.Machine.execTopologyTimeout s
  | .linkErrorCheck => Sys2Proof.Machine.execLinkErrorCheck s
  | .bridgeControllerFailover => Sys2Proof.Machine.execBridgeControllerFailover s
  | .cxlLinkRecovered => Sys2Proof.Machine.execCxlLinkRecovered s
  | .intervalRecord => Sys2Proof.Machine.execIntervalRecord s
  | .meterPowerLost mv => Sys2Proof.Machine.execMeterPowerLost mv s
  | .meterPowerRestored => Sys2Proof.Machine.execMeterPowerRestored s
  | .coverOpened => Sys2Proof.Machine.execCoverOpened s
  | .coverClosed => Sys2Proof.Machine.execCoverClosed s
  | .unseated => Sys2Proof.Machine.execUnseated s
  | .seated => Sys2Proof.Machine.execSeated s
  | .serviceSessionBegin => Sys2Proof.Machine.execServiceSessionBegin s
  | .serviceSessionEnd => Sys2Proof.Machine.execServiceSessionEnd s
  | .meterTimeAdjust t => Sys2Proof.Machine.execMeterTimeAdjust t s
  | .tamperClear => Sys2Proof.Machine.execTamperClear s
  | .meterStart => Sys2Proof.Machine.execMeterStart s
  | .buttonPress => Sys2Proof.Machine.execButtonPress s
  | .displayTimeout => Sys2Proof.Machine.execDisplayTimeout s
  | .channelComparison a b => Sys2Proof.Machine.execChannelComparison a b s
  | .sagBegin mv => Sys2Proof.Machine.execSagBegin mv s
  | .sagEnd dur low => Sys2Proof.Machine.execSagEnd dur low s
  | .statusFrame => Sys2Proof.Machine.execStatusFrame s
  | .identityFrameExport => Sys2Proof.Machine.execIdentityFrameExport s
  | .backfill => Sys2Proof.Machine.execBackfill s
  | .exportFrameReceipt idx intact => Sys2Proof.Machine.execExportFrameReceipt idx intact s
  | .exportLost => Sys2Proof.Machine.execExportLost s
  | .markerReceipt idx intact => Sys2Proof.Machine.execMarkerReceipt idx intact s
  | .markerHoldEnd => Sys2Proof.Machine.execMarkerHoldEnd s
  | .ideKmOverDoe established => Sys2Proof.Machine.execIdeKmOverDoe established s

end Sys2Proof.Machine
end

