-- ==== Sys2Proof/Machine/Tick.lean ====
section
/-! DEFINITION. The passing of time: what one microsecond of control-die time does while no command waits. -/

namespace Sys2Proof.Machine

/-- Beats of a region in one microsecond: 900 + 50k, scaled by its duty in sixteenths (R304, R314). -/
def beatsPerUs (g : RegionSt) : Nat := if g.powered && g.clockOn && g.lock then (900 + 50 * g.k) * g.duty / 16 else 0

/-- A region's beats pass: freely, or as far as the granted count reaches under beat-stepping (R109, R406). -/
def regionTick (stepping : Bool) (g : RegionSt) : RegionSt :=
  let n := if stepping then min g.grant (beatsPerUs g) else beatsPerUs g
  { g with beat := g.beat + BitVec.ofNat 48 n, grant := if stepping then g.grant - n else g.grant }

/-- Microseconds from the rise of the standby rails to the management bus's first answer (R323). -/
def standbyUs : Nat := 50000

/-- What time does to the power side: the standby rails' age is counted as far as it matters, and `MOD_RST_N` rises (R321, R323; log entry 169). -/
def PowerSt.tick (p : PowerSt) : PowerSt := { p with rstLow := false, standby := if p.inletOk then min standbyUs (p.standby + 1) else 0 }

/-- One microsecond passes, once what the host wrote to the window in the present one is applied and the meter's occasions of it are recorded (R338, R384; log entry 12). -/
def tick (s : State) : State :=
  let stepping := decide (s.modeCourse.diag = 2)
  let s := s.applyGathered.recomputeOuter.writeOccasions
  let t := { s with
    time := s.time + 1
    meter := if s.meter.live then s.meter.tick else s.meter
    pwr := s.pwr.tick
    regions := mapTab {} (regionTick stepping) s.regions }
  if s.pwr.rstLow then t.startBringUp else t

end Sys2Proof.Machine
end

