-- ==== Sys2Proof/WellFormed.lean ====
section
/-! DEFINITION. Which commands describe an event this hardware can meet: the bounds that the operand types do not carry. -/

namespace Sys2Proof

/-- A packet within the bounds of Tables 6.4 and 11.5. -/
def Packet.wf (p : Packet) : Bool :=
  decide (p.vc < 4) && decide (p.kind < 16) && decide (p.pidx < 128) && decide (p.nflag < 8) && decide (p.smod < 65536) &&
  decide (p.slregion < 64) && decide (p.skind < 4) && decide (p.sunit < 1024) && decide (p.sctx < 64) && decide (p.ltok < 512) &&
  decide (p.ttok < 512) && decide (1 ≤ p.count ∧ p.count < 65536) && decide (1 ≤ p.glen ∧ p.glen ≤ 8192) &&
  decide (p.hops < 16) && decide (p.hkind < 4) && decide (p.cetag < 256) && decide (p.payload.length ≤ 512) && decide (p.payload.length % 8 = 0) &&
  decide (p.seng < 16) && decide (p.sslot < 256)

/-- The name of a packet within the bounds of Table 6.4 and R238. -/
def PktName.wf (x : PktName) : Bool :=
  decide (1 ≤ x.glen ∧ x.glen ≤ 8192) && decide (x.seng < 16) && decide (x.sslot < 256) && decide (x.bytes ≤ 512) && decide (x.bytes % 8 = 0)

/-- The command is one that can happen. -/
def Instr.wf : Instr → Bool
  | .partnerSet _ ps => decide (ps.length < 256)
  | .feedDomainSet _ _ ds => decide (ds.length < 256)
  | .windowWrite off data _ => decide (1 ≤ data.length) && decide (off.toNat % 64 + data.length ≤ 64)
  | .windowRead off len => decide (1 ≤ len) && decide (off.toNat % 64 + len ≤ 64)
  | .normRecordArrival n => decide (n.sgrp.length ≤ 256)
  | .scrub _ b l _ => decide (l < (if b.val % 7 < 3 then 14044 else 14043))
  | .lineRecovered _ b l => decide (l < (if b.val % 7 < 3 then 14044 else 14043))
  | .dramRowRemap _ _ row => decide (row < 65536)
  | .frameReceipt _ _ f => decide (f.flits.length = 19) && f.names.all PktName.wf
  | .codewordLock _ x => decide (x.tags.length = 64)
  | .transportAcknowledgement _ a => decide (a.hops < 16)
  | .transportPacketAccept _ p => p.wf
  | _ => true

end Sys2Proof
end

