-- ==== Sys2Proof/Safety.lean ====
section
/-! DEFINITION. The vocabulary of the statements: a safe step, what a step leaves alone, what it stores, how a command completes, the canonical form of the memories, faults, loss of power, and the meter's records and their chain. -/

namespace Sys2Proof

/-- The step of a state answers a next state. -/
def safeStep (s : Machine.State) : Prop := ∃ t, Machine.step s = .next t

/-- The meter's own commands: what happens at the cartridge, its clocked occasions and the marker input (R376). -/
def Instr.ofMeter : Instr → Prop
  | .intervalRecord | .meterPowerLost _ | .meterPowerRestored | .meterStart | .coverOpened | .coverClosed | .unseated | .seated | .serviceSessionBegin | .serviceSessionEnd => True
  | .meterTimeAdjust _ | .tamperClear | .buttonPress | .displayTimeout | .channelComparison _ _ | .sagBegin _ | .sagEnd _ _ | .backfill | .markerReceipt _ _ | .markerHoldEnd | .governorTick _ => True
  | _ => False

/-- The host's own accesses over the link: doorbells, queue contexts, registers and the device-memory window, a window access within one 64-byte unit (R335, R338, R340). -/
def Instr.hostAccess : Instr → Prop
  | .hostQueueCreate _ | .hostQueueDelete _ | .dbProd _ _ | .dbCons _ _ | .bridgeDmaResume _ | .bridgeDmaAbort _ | .consumerIndexWrite _ | .overwriteOldest | .stopAtFull | .clearTheMirror => True
  | .guardValueWrite _ _ | .ctlGrdFence _ | .ctlGrdRpwr _ | .ctlGrdPromo _ | .lockBitWrite _ | .ctlClkWrite _ | .fsetWrite _ _ | .grant _ _ | .ctlDbgWrite _ | .registerWrite _ _ _ _ | .clearOnRead _ _ => True
  | .windowWrite off data _ => 1 ≤ data.length ∧ off.toNat % 64 + data.length ≤ 64
  | .windowRead off len => 1 ≤ len ∧ off.toNat % 64 + len ≤ 64
  | _ => False

end Sys2Proof

namespace Sys2Proof.Machine

/-- From `s` the host's accesses of a list are performed one after the other, to `t` (R335). -/
def performs (s : State) : List Instr → State → Prop
  | [], t => t = s
  | c :: l, t => ∃ u, (c.hostAccess → exec c s = .next u) ∧ (¬ c.hostAccess → u = s) ∧ performs u l t

/-! What a command leaves alone. -/

/-- The parts of State. -/
inductive Part where
  | pending | time | free | host | sram | cores | lregions | regions | settings | grd | num | run | brg | stg | cfg | bat | net | store | orc | prs | dma | eng | flt | log | pwr | keys | meter | mir | out
  deriving DecidableEq, Repr

/-- A part is the same in two states. -/
def Part.same (p : Part) (s t : State) : Prop :=
  match p with
  | .pending => t.pending = s.pending
  | .time => t.time = s.time
  | .free => t.free = s.free
  | .host => t.host = s.host
  | .sram => t.sram = s.sram
  | .cores => t.cores = s.cores
  | .lregions => t.lregions = s.lregions
  | .regions => t.regions = s.regions
  | .settings => t.set = s.set
  | .grd => t.grd = s.grd
  | .num => t.num = s.num
  | .run => t.run = s.run
  | .brg => t.brg = s.brg
  | .stg => t.stg = s.stg
  | .cfg => t.cfg = s.cfg
  | .bat => t.bat = s.bat
  | .net => t.net = s.net
  | .store => t.store = s.store
  | .orc => t.orc = s.orc
  | .prs => t.prs = s.prs
  | .dma => t.dma = s.dma
  | .eng => t.eng = s.eng
  | .flt => t.flt = s.flt
  | .log => t.log = s.log
  | .pwr => t.pwr = s.pwr
  | .keys => t.keys = s.keys
  | .meter => t.meter = s.meter
  | .mir => t.mir = s.mir
  | .out => t.out = s.out

/-- Every part but those named is unchanged. -/
structure onlyChanges (l : List Part) (s t : State) : Prop where
  same : ∀ p : Part, p ∉ l → p.same s t

/-- The entries of a table at every key but `k` are unchanged. -/
def sameBut {α : Type} (d : α) (k : Nat) (a b : Tab α) : Prop := ∀ j, j ≠ k → Tab.get d b j = Tab.get d a j

/-! Memory. -/

/-- After the step the memory holds the bytes `d` from `a`, and every byte outside them reads as before. -/
def stores (m n : Memory) (a : Nat) (d : List Byte) : Prop :=
  ∀ b, Tab.get (0 : Byte) n b = if a ≤ b ∧ b < a + d.length then d.getD (b - a) 0 else Tab.get (0 : Byte) m b

/-- The four byte memories are in canonical form: addresses strictly rising, no byte listed at the value of an unlisted one. -/
def State.memWf (s : State) : Prop := s.host.wf ∧ s.sram.wf ∧ s.store.mem.wf ∧ s.orc.flash.wf

/-- A byte of the store outside the commit store of every region in service (R20, R280). -/
def State.offSnap (s : State) (b : Nat) : Prop :=
  ∀ r ∈ s.serviceRegions, ∀ runB, ∀ l ∈ s.snapLines runB r, ¬ (lineKey (s.column r) l.1 0 * 2048 + l.2 * 2048 ≤ b ∧ b < lineKey (s.column r) l.1 0 * 2048 + l.2 * 2048 + 2048)

/-- A byte of the store within a line of a region's column. -/
def State.inLine (s : State) (r bank line b : Nat) : Prop := lineKey (s.column r) bank line * 2048 ≤ b ∧ b < lineKey (s.column r) bank line * 2048 + 2048

/-- A byte of the store outside every checkpoint-staging line of the configuration in force (R255). -/
def State.offStaging (s : State) (b : Nat) : Prop := ∀ k r bank line, runLine s.stagingRuns k = some (r, bank, line) → ¬ s.inLine r bank line b

/-- The lines of a shard that a `COPY` value addresses, by their place in the store (R352). -/
def State.paramKeys (s : State) (r : Nat) (sh : Shard) (c : Nat) : List Nat := (s.paramLines r sh c).map fun x => lineKey (s.column r) x.1 x.2

/-- Half `h` of a working line holds the working elements that the parameters of a master line give (R150). -/
def holdsWorking (line : List Byte) (h : Nat) (m : List Byte) : Prop :=
  ∀ x, x < 1024 → blockSrc x / 2048 = h → (line.drop (2 * x)).take 2 = leBytes 2 (workElem m (blockSrc x % 2048 / 4)).1

/-- A byte of SRAM outside every row vector of an orchard table (R156). -/
def offVectors (s : State) (t : OrcTable) (b : Nat) : Prop :=
  ∀ q x, x ∈ (s.course q).orcCons → x.table = t.table → ∀ place, ¬ (s.sramBase q x.core + (x.soff + 8 * place) ≤ b ∧ b < s.sramBase q x.core + (x.soff + 8 * place) + 8)

/-! Completions (R343, R344, R356). -/

/-- What waits in the completion queue paired with the submission queue of a command (R343). -/
def State.waiting (s : State) (h : CmdHdr) : List CqItem := (s.hq (513 + 2 * h.sq.val)).items

/-- Between two states the command completes: its entry is the last in its completion queue, whose other members are unchanged, as are the other queues. -/
def completes (s t : State) (h : CmdHdr) (status : Byte) (res0 res1 res2 : U64) : Prop :=
  t.hq (513 + 2 * h.sq.val) =
    { s.hq (513 + 2 * h.sq.val) with items := s.waiting h ++ [.cmd h.cid status (BitVec.ofNat 16 h.sq.val) res0 res1 res2] } ∧
  ∀ q, q ≠ 513 + 2 * h.sq.val → t.hq q = s.hq q

/-- A register write is dropped whole: counted, and its address and cause recorded if none was since the last read (R362). -/
def discards (s t : State) (addr cause : Nat) (mbus : Bool) : Prop :=
  t.set = { s.set with
    discCount := sat32 s.set.discCount 1
    daddr := if s.set.disc then s.set.daddr else BitVec.ofNat 32 (addr % 2 ^ 26 + cause * 2 ^ 26 + b2n mbus * 2 ^ 30)
    disc := true }

/-! Lanes and their links (R228, R232, R236). -/

/-- A link that has sent a lane-change frame and keeps it (R233, R235). -/
def LinkSt.announced (x : LinkSt) : LinkSt := { x with outst := x.outst ++ [{ seq := x.fseq, change := true }], fseq := x.fseq + 1, agreed := true }

/-- Lane `l` of an engine becomes `x`, and its link follows: down below the lanes it needs, aligning once it waits and has them, announcing a change of its lanes while it is up and has room for the frame, otherwise as it was. Nothing else of the engines changes but the count of retired lanes. -/
structure laneBecomes (e l : Nat) (x : LaneSt) (s t : State) : Prop where
  lane : t.lane e l = x
  lanes : sameBut {} l (s.engine e).lanes (t.engine e).lanes
  links : ∀ j, s.laneLink e l ≠ some j → t.link e j = s.link e j
  starved : ∀ j, s.laneLink e l = some j → (t.serviceLanes e j).length < s.minLanes e j → (t.link e j).st = .down
  woken : ∀ j, s.laneLink e l = some j → (s.link e j).st = .down → (s.engine e).ok = true → 0 < (t.serviceLanes e j).length → s.minLanes e j ≤ (t.serviceLanes e j).length →
    t.link e j = { s.link e j with st := .align, lanes := t.serviceLanes e j }
  told : ∀ j, s.laneLink e l = some j → s.minLanes e j ≤ (t.serviceLanes e j).length → (s.link e j).st = .up → (s.link e j).agreed = false → s.hasRoom e j = true →
    ((s.link e j).lanes ≠ t.serviceLanes e j ∨ ∃ m ∈ t.serviceLanes e j, (t.lane e m).mark = true) →
    t.link e j = (s.link e j).announced ∧ t.out = s.out ++ [.frame e j (changeFrame (s.link e j).fseq (s.link e j).rxLast)]
  kept : ∀ j, s.laneLink e l = some j → (s.link e j).st ≠ .down → s.minLanes e j ≤ (t.serviceLanes e j).length →
    ((s.link e j).st ≠ .up ∨ (s.link e j).agreed = true ∨ s.hasRoom e j = false ∨ ((s.link e j).lanes = t.serviceLanes e j ∧ ∀ m ∈ t.serviceLanes e j, (t.lane e m).mark = false)) →
    t.link e j = s.link e j ∧ t.out = s.out
  rest : ∃ ls lk n, t.engine e = { s.engine e with lanes := ls, links := lk, retCount := n }
  engines : sameBut {} e s.eng t.eng

/-- Lane `l` of an engine becomes `x`; nothing else of the engines changes. -/
structure laneOnly (e l : Nat) (x : LaneSt) (s t : State) : Prop where
  lane : t.lane e l = x
  lanes : sameBut {} l (s.engine e).lanes (t.engine e).lanes
  rest : ∃ ls, t.engine e = { s.engine e with lanes := ls }
  engines : sameBut {} e s.eng t.eng

/-- A lane pair is retired: counted, and logged last with its lane number and both error counts (R230). -/
structure laneRetires (e l errs partnerErrs : Nat) (s t : State) : Prop where
  lane : laneBecomes e l { s.lane e l with st := .retired, bad := 0, badPartner := 0, mark := false } s t
  count : (t.engine e).retCount = (s.engine e).retCount + 1
  logged : ∃ x, t.log.recs.getLast? = some x ∧ x.item.cls = 0x30 ∧ x.item.sub = e * 64 + l ∧ x.step = s.run.step ∧ x.item.detail = min errs 0xFFFF + 2 ^ 16 * min partnerErrs 0xFFFF

/-- A training attempt of a lane pair fails: it starts again, or the third since it left `DARK` retires it (R228). -/
structure attemptFails (e l errs partnerErrs : Nat) (s t : State) : Prop where
  again : (s.lane e l).fails < 2 → laneBecomes e l { s.lane e l with st := .equalise, fails := (s.lane e l).fails + 1 } s t ∧ (t.engine e).retCount = (s.engine e).retCount
  third : 2 ≤ (s.lane e l).fails → laneRetires e l errs partnerErrs s t

/-- Link `j` of an engine becomes `x`; nothing else of the engines changes. -/
structure linkOnly (e j : Nat) (x : LinkSt) (s t : State) : Prop where
  link : t.link e j = x
  links : ∀ i, i ≠ j → t.link e i = s.link e i
  rest : ∃ lk, t.engine e = { s.engine e with links := lk }
  engines : sameBut {} e s.eng t.eng

/-- A link that has gone down: its outstanding frames, credits and beacon are gone (R236). -/
def LinkSt.downed (x : LinkSt) (aligns : Nat) : LinkSt :=
  { x with st := .down, lanes := [], outst := [], cred := [], freed := [], part := [], agreed := false, rxLast := 0xFFFF, nakSent := false, fseq := 0, beacon := none, cdiff := false, ldiff := false, aligns := aligns }

/-- A link goes down, and aligns afresh if its lanes suffice; one that was up is logged (R232, R236). -/
structure linkFails (e j aligns : Nat) (s t : State) : Prop where
  only : linkOnly e j
    (if (s.engine e).ok = true ∧ 0 < (s.serviceLanes e j).length ∧ s.minLanes e j ≤ (s.serviceLanes e j).length then { (s.link e j).downed aligns with st := .align, lanes := s.serviceLanes e j }
     else (s.link e j).downed aligns) s t
  logged : (s.link e j).st = .up → ∃ x, t.log.recs.getLast? = some x ∧ x.item.cls = 0x31 ∧ x.item.sub = e * 8 + j
  frame : onlyChanges [.eng, .log] s t

/-- A link replays: nothing is outstanding, or a frame has been replayed 8 times and the link fails, or every outstanding frame is sent again in order, counted (R235, R236). -/
structure replays (e j : Nat) (s t : State) : Prop where
  idle : (s.link e j).outst = [] → t = s
  fails : (∃ f ∈ (s.link e j).outst, 8 ≤ f.replays) → linkFails e j (s.link e j).aligns s t
  again : (s.link e j).outst ≠ [] → (∀ f ∈ (s.link e j).outst, f.replays < 8) →
    t.link e j = { s.link e j with outst := (s.link e j).outst.map fun f => { f with replays := f.replays + 1 } } ∧ (∀ i, i ≠ j → t.link e i = s.link e i) ∧
    (∃ lk, t.engine e = { s.engine e with links := lk, replay := sat32 (s.engine e).replay 1 }) ∧ sameBut {} e s.eng t.eng ∧
    t.out = s.out ++ ((s.link e j).outst.flatMap fun f => (f.frames (s.link e j).rxLast).map (.frame e j)) ∧ onlyChanges [.eng, .out] s t

/-- A link asks for replay from the frame after the last good one, once until it comes (R235). -/
structure asksReplay (e j : Nat) (s t : State) : Prop where
  asked : (s.link e j).nakSent = true → t = s
  asks : (s.link e j).nakSent = false → linkOnly e j { s.link e j with nakSent := true } s t ∧ t.out = s.out ++ [.frame e j (ackOnly (s.link e j).fseq (s.link e j).rxLast true [])] ∧ onlyChanges [.eng, .out] s t

/-- The packets that a data frame completes on a link, each under its name (R234). -/
def State.framePackets (s : State) (e j : Nat) (f : Frame) : List (Nat × Packet) :=
  ((cutFlits 36 ((s.link e j).part ++ frameFlits f)).1.zipIdx).filterMap fun y =>
    match y.1 with
    | [] => none
    | h :: l => some (j, packetOfFlits h l (f.names[y.2]?.getD { bytes := 32 * l.length }))

/-- The acknowledgements among the packets that a data frame completes (R239). -/
def State.frameHasAck (s : State) (e j : Nat) (f : Frame) : Prop := ∃ h l, (h :: l) ∈ (cutFlits 36 ((s.link e j).part ++ frameFlits f)).1 ∧ flitHkind h = 1

/-- A link takes a good frame: the next in sequence gives up its credits, its packets join those that wait to be judged, the flits of an unfinished packet stay, and it is acknowledged with the grants of this end; an idle or acknowledgement-only one repeats the last number and gives up its credits; any other is discarded and replay asked for (R234, R235, R237, Table 11.4). -/
structure takesFrame (e j : Nat) (f : Frame) (s t : State) : Prop where
  next : sequenced (frameType f) = true → frameSeq f = (s.link e j).rxLast + 1 →
    (t.link e j).rxLast = frameSeq f ∧ (t.link e j).nakSent = false ∧ (frameType f = 3 → (t.link e j).agreed = true) ∧
    (frameType f = 0 → (t.link e j).part = (cutFlits 36 ((s.link e j).part ++ frameFlits f)).2)
  packets : sequenced (frameType f) = true → frameSeq f = (s.link e j).rxLast + 1 → ¬ (frameType f = 0 ∧ s.frameHasAck e j f) →
    (t.engine e).arrived = (s.engine e).arrived ++ (if frameType f = 0 then s.framePackets e j f else []) ∧ t.out = s.out ++ [.frame e j (ackOnly (s.link e j).fseq (frameSeq f) false (s.grants e j))] ∧
    (t.link e j).cred = ((s.link e j).credit (frameCred f)).cred ∧ (∀ i, i ≠ j → t.link e i = s.link e i) ∧ sameBut {} e s.eng t.eng ∧ onlyChanges [.eng, .out] s t
  later : sequenced (frameType f) = true → frameSeq f ≠ (s.link e j).rxLast + 1 → asksReplay e j s t
  idle : sequenced (frameType f) = false → frameSeq f = (s.link e j).rxLast → linkOnly e j ((s.link e j).credit (frameCred f)) s t ∧ t.out = s.out
  lost : sequenced (frameType f) = false → frameSeq f ≠ (s.link e j).rxLast → asksReplay e j s t

/-! Faults (R281, R287, R288, R298). -/

/-- The sparing budget is exceeded: the module is held for cause 5 of Table 15.10, and the event waits (R298). -/
structure exhausted (t : State) : Prop where
  exh : t.flt.exh = true
  held : t.run.st = .held
  cause : t.run.hcause = 5
  told : (t.run.events.get {} 8).pend = true

/-- A fault is absorbed: its repair waits, and a rewind begins or the recovery in hand is done again; with an inbound log overfull the budget is exceeded (R281, R286, R293). -/
structure absorbs (f : FaultRep) (s t : State) : Prop where
  repairs : t.flt.repairs = s.flt.repairs ++ [f]
  rewinds : s.flt.logFull = false → s.run.hcause < 5 → s.flt.phase = .none → t.flt.phase = .draining ∧ t.flt.replays = sat32 s.flt.replays 1
  again : s.flt.logFull = false → s.flt.phase = .rebuilding ∨ s.flt.phase = .restored → t.flt.phase = .draining ∧ t.flt.replays = s.flt.replays
  kept : s.flt.logFull = false → t.run.st = s.run.st ∧ t.run.hcause = s.run.hcause ∧ t.log = s.log ∧ t.flt.exh = s.flt.exh
  full : s.flt.logFull = true → exhausted t
  rest : t.flt.dead = s.flt.dead ∧ t.flt.promos = s.flt.promos ∧ onlyChanges [.run, .brg, .flt, .log, .pwr] s t

/-- State is lost beyond the sparing budget: the module is held for cause 6 of Table 15.10, and both events wait (R294, R298). -/
structure stateGone (t : State) : Prop where
  exh : t.flt.exh = true
  held : t.run.st = .held
  cause : t.run.hcause = 6
  told : (t.run.events.get {} 8).pend = true ∧ (t.run.events.get {} 9).pend = true

/-- A region is lost: it is dark and retired; with a configuration in force a standby takes its logical number, or with none left, or with a pair of regions that cannot be routed, the budget is exceeded (R118, R288, R298). Unless a second member of a sheaf is lost with exchange lines in it, for which the step is abandoned, only the parts named change (R294). -/
structure regionLost (p : Nat) (half : Option Nat) (s t : State) : Prop where
  dark : (t.reg p).powered = false ∧ (t.reg p).clockOn = false ∧ (t.reg p).lock = false ∧ (t.reg p).retired = true
  others : ∀ q, q ≠ p → (t.reg q).powered = (s.reg q).powered ∧ (t.reg q).clockOn = (s.reg q).clockOn ∧ (t.reg q).retired = (s.reg q).retired
  spare : s.run.st = .idle ∨ s.logicalOf p = none → t.cfg = s.cfg ∧ t.flt.promos = s.flt.promos
  none_left : ∀ r, s.run.st ≠ .idle → s.logicalOf p = some r → (s.onReg p fun g => { g with powered := false, clockOn := false, lock := false, retired := true }).pickStandby p half = none → t.cfg = s.cfg ∧ (s.modeCourse.prot = true → exhausted t) ∧ (exhausted t ∨ stateGone t)
  promoted : ∀ r b, s.run.st ≠ .idle → s.logicalOf p = some r → (s.onReg p fun g => { g with powered := false, clockOn := false, lock := false, retired := true }).pickStandby p half = some b →
    t.cfg.map = s.cfg.map.set none r (some b) ∧ t.flt.promos = (s.flt.promos.filter fun x => x.lregion ≠ r) ++ [{ lregion := r, lost := p, standby := b }]
  unroutable : t.net.unroutable ≠ [] → exhausted t ∨ stateGone t
  dead : t.flt.dead = s.flt.dead ∧ t.flt.repairs = s.flt.repairs ∧ t.flt.logFull = s.flt.logFull
  frame : t.flt.needLoad = s.flt.needLoad → onlyChanges [.lregions, .regions, .settings, .run, .brg, .cfg, .net, .store, .flt, .log, .pwr] s t
  gone : onlyChanges [.sram, .cores, .lregions, .regions, .settings, .num, .run, .brg, .cfg, .bat, .net, .store, .eng, .flt, .log, .pwr] s t

/-- A report reaches the control die: nothing for a core already fenced or a region already retired; else its record is logged, the core or region is lost, and the fault is absorbed (R281, R287, R288). -/
structure takesReport (f : FaultRep) (s t : State) : Prop where
  core_known : ∀ p c cls, f.kind = .core p c cls → s.flt.dead.contains (p.val * 924 + c.val) = true ∨ (s.reg p).retired = true → t = s
  core_lost : ∀ p c cls, f.kind = .core p c cls → s.flt.dead.contains (p.val * 924 + c.val) = false → (s.reg p).retired = false →
    let u := (s.logHealth (s.detectionRec f)).onFlt fun x => { x with dead := x.dead ++ [p.val * 924 + c.val] }
    ∃ v, (s.spareFree p c = true → v = u) ∧ (s.spareFree p c = false → regionLost p none u v) ∧ absorbs f v t
  region_known : ∀ p cls, f.kind = .region p cls → (s.reg p).retired = true → t = s
  region_lost : ∀ p cls, f.kind = .region p cls → (s.reg p).retired = false → ∃ v, regionLost p f.half (s.logHealth (s.detectionRec f)) v ∧ absorbs f v t
  line : ∀ p b l, f.kind = .storeLine p b l → absorbs f (s.logHealth (s.detectionRec f)) t
  engine : ∀ e, f.kind = .engine e → absorbs f (s.logHealth (s.detectionRec f)) t

/-- What is left in flight on the slab is discarded: of every queue only parity deltas, their acknowledgements and the bridge's packets stay, an output keeps a packet to send again only where it stays, an engine drops what the inbound log brings again, and of the ended reports those of micro-batches that are not replayed stay (R40, R124, R204, R281, R285). -/
structure slabDiscarded (s t : State) : Prop where
  cores : ∀ x ∈ t.cores, ∃ y ∈ s.cores, x = (y.1, { y.2 with outq := dropPackets y.2.outq, inHi := dropPackets y.2.inHi, inNo := dropPackets y.2.inNo, port := [], ported := [], vec := none, accs := [] })
  lregions : ∀ x ∈ t.lregions, ∃ y ∈ s.lregions, x = (y.1, { y.2 with outq := dropPackets y.2.outq, inHi := dropPackets y.2.inHi, inNo := dropPackets y.2.inNo })
  routers : ∀ x ∈ t.net.routers, ∃ y ∈ s.net.routers, x.1 = y.1 ∧
    x.2 = { y.2 with q := y.2.q.filter fun z => isDelta z.2 || (decide (z.2.kind = 9) && decide (z.2.skind = 1)) || isBridge z.2, resend := x.2.resend, retries := x.2.retries } ∧
    ∀ v ∈ x.2.resend, ∃ z ∈ x.2.q, v.2 = some z
  engines : ∀ x ∈ t.eng, ∃ y ∈ s.eng, x = (y.1, { y.2 with toSlab := y.2.toSlab.filter fun p => !s.relogged p })
  batten : t.bat = { s.bat with
    emits := s.bat.emits.filter fun e => decide (e.region = 63) || decide (ackCounter ≤ e.ctr), launches := []
    mbs := s.bat.mbs.filter fun m => match s.flt.snap with | none => false | some q => decide (m.n < q.mb) }

/-- A byte of SRAM outside every scale cell of the regions in service (R177). -/
def offScales (s : State) (b : Nat) : Prop :=
  ∀ r ∈ s.serviceRegions, ∀ c ∈ s.pressCourse.cells, c.1 = r → ¬ (s.sramBase r c.2.1 + c.2.2 ≤ b ∧ b < s.sramBase r c.2.1 + c.2.2 + 4)

/-! Loss of power and reset (R312, R321, Table 14.5). -/

/-- Everything but non-volatile state is gone (R321, Table 14.5): the units, the store and the queues are as after reset; host memory, the meter, flash, the mirrored records with their policy, the keys (their volatile bits cleared) and the supply's last readings stay; a guarded pair still pending ends with `CODE` 3 (R369). -/
structure volatileGone (s t : State) : Prop where
  units : t.sram = [] ∧ t.cores = [] ∧ t.lregions = [] ∧ t.regions = [] ∧ t.store = {} ∧ t.dma = [] ∧ t.eng = [] ∧ t.net = {} ∧ t.bat = {} ∧ t.prs = {}
  control : t.run = {} ∧ t.num = {} ∧ t.cfg = {} ∧ t.stg = {} ∧ t.set = {} ∧ t.brg = {} ∧ t.flt = {}
  kept : t.host = s.host ∧ t.meter = s.meter ∧ t.orc.flash = s.orc.flash ∧ t.orc.lostDies = s.orc.lostDies ∧ t.mir.recs = s.mir.recs ∧ t.mir.newest = s.mir.newest ∧
    t.mir.stopFull = s.mir.stopFull ∧ (s.grd.pending = none → t.grd = {}) ∧ (∀ g v, s.grd.pending = some (g, v) → t.grd = { pending := none, code := 3, guard := guardNo g, fresh := true }) ∧ t.keys = { s.keys with vimg := false, used := false } ∧ t.pending = s.pending
  supply : t.pwr.pwrEn = s.pwr.pwrEn ∧ t.pwr.inletOk = s.pwr.inletOk ∧ t.pwr.mv = s.pwr.mv ∧ t.pwr.watts = s.pwr.watts ∧ t.pwr.fuse = s.pwr.fuse ∧ t.pwr.standby = s.pwr.standby ∧ t.pwr.ready = false ∧ t.pwr.fail = 0

/-- The orderly quiesce (R312, Table 14.5): ALERT_N is asserted, a final health record of the inlet voltage is written, and every rail goes off. Its class is a free value, since the spec gives it none. -/
structure quiesced (s t : State) : Prop where
  off : volatileGone s t ∧ t.pwr.stage = 0
  alerted : t.out = s.out ++ [.quiesceAlert]
  logged : ∃ x, t.log.recs.getLast? = some x ∧ x.time = s.time ∧ x.step = s.run.step ∧ x.item.detail = s.pwr.mv.toNat

/-! The meter (R383, R385, R386, R388, Table 17.3). -/

/-- A record of Table 17.3: every field of it as the meter `m` holds it, the chain digest of the record before, and the signature over bytes 0x00 to 0x8D (R385). -/
structure isRecord (m : MeterSt) (kind evt merges : Nat) (seq mtime : U64) (r : MeterRec) : Prop where
  head : fld r.toNat 0 32 = 0x524D4C43 ∧ fld r.toNat 32 8 = kind % 256 ∧ fld r.toNat 40 8 = 1
  flags : bitAt r.toNat 48 = m.tamper ∧ bitAt r.toNat 49 = m.unseated ∧ bitAt r.toNat 50 = (m.disagree || m.disInt) ∧ bitAt r.toNat 51 = m.vOut ∧ bitAt r.toNat 52 = m.iOver ∧
    bitAt r.toNat 53 = m.adjusted ∧ bitAt r.toNat 54 = decide (0 < merges) ∧ fld r.toNat 55 9 = 0
  number : fld r.toNat 64 64 = seq.toNat ∧ fld r.toNat 128 64 = mtime.toNat
  energy : fld r.toNat 192 64 = m.eimp / 7200000000000 % 2 ^ 64 ∧ fld r.toNat 256 64 = m.erev / 7200000000000 % 2 ^ 64 ∧
    fld r.toNat 320 32 = (m.eimp + 7200000000000 * 10 ^ 13 - m.istart) % (7200000000000 * 10 ^ 13) / 7200000000000 % 2 ^ 32
  extremes : fld r.toNat 352 16 = m.vmin.toNat ∧ fld r.toNat 368 16 = m.vmax.toNat ∧ fld r.toNat 384 32 = m.pmax.toNat
  sags : fld r.toNat 416 32 = m.nsag.toNat ∧ fld r.toNat 448 64 = m.sagFirst.toNat ∧ fld r.toNat 512 64 = m.sagLast.toNat
  marker : fld r.toNat 576 32 = m.cepoch.toNat ∧ fld r.toNat 608 16 = merges % 2 ^ 16 ∧ fld r.toNat 624 16 = m.nseal.toNat ∧ fld r.toNat 640 192 = m.roott.toNat
  prev : (m.recs = [] → recPrev r = 0) ∧ (∀ x, m.recs.getLast? = some x → recPrev r = recDigest x.2)
  event : fld r.toNat 1088 32 = evt % 2 ^ 32 ∧ fld r.toNat 1120 16 = 0
  signature : fld r.toNat 1136 912 = Sys2Proof.Machine.ed448Sign m.seed meterContext ((leBytes 256 r.toNat).take 0x8E) % 2 ^ 912

/-- The meter writes the record `r`: the next sequence number is taken and the record joins the newest 262,144, the oldest giving way (R383, R386). -/
def MeterSt.writes (m : MeterSt) (kind evt merges : Nat) (mtime : U64) (r : MeterRec) (n : MeterSt) : Prop :=
  isRecord m kind evt merges (m.seq + 1) mtime r ∧
  n = { m with
    seq := m.seq + 1, unseated := false, adjusted := false
    recs := if m.recs.length < 262144 then m.recs ++ [((m.seq + 1).toNat, r)] else (m.recs ++ [((m.seq + 1).toNat, r)]).drop 1 }

/-- The meter as an occasion finds it: an accepted marker's epoch and root are those of its own record (R389). -/
def MeterSt.before (m : MeterSt) : OccasionKind → MeterSt
  | .epoch e r _ => { m with cepoch := e, roott := r }
  | _ => m

/-- Kind, `EVT` and merged markers of an occasion's record (R383, Table 17.3). -/
def recordOf : OccasionKind → Nat × Nat × Nat
  | .interval => (1, 0, 0)
  | .epoch _ _ n => (2, 0, n)
  | .lost mv => (3, mv, 0)
  | .restored => (4, 0, 0)
  | .seal evt => (5, evt, 0)

/-- The meter once an occasion's record is written: an interval record begins a new interval, and a power-lost record leaves its register on the display (R380, R382, R385). -/
def MeterSt.after (m : MeterSt) : OccasionKind → MeterSt
  | .interval => { m with istart := m.eimp, vmin := 0xFFFF, vmax := 0, pmax := 0, nsag := 0, sagFirst := 0, sagLast := 0, disInt := m.disagree, vOut := false, iOver := false }
  | .lost _ => { m with image := .imported (m.eimp / 7200000000000 / 1000) }
  | _ => m

/-- The records of the occasions `l` are written one after the other, each with the meter time of its occasion. -/
def MeterSt.writesOccasions (m : MeterSt) : List Occasion → List MeterRec → MeterSt → Prop
  | [], rs, n => rs = [] ∧ n = m
  | x :: l, rs, n => ∃ r rs' m', rs = r :: rs' ∧ (m.before x.what).writes (recordOf x.what).1 (recordOf x.what).2.1 (recordOf x.what).2.2 x.at_ r m' ∧ (m'.after x.what).writesOccasions l rs' n

/-- The occasions of a microsecond in the order of R384: interval, power lost, power restored, seal events, configuration epochs, those of one kind as they came. -/
def MeterSt.ordered (m : MeterSt) : List Occasion :=
  (m.occ.filter fun x => decide (x.what.rank = 0)) ++ (m.occ.filter fun x => decide (x.what.rank = 1)) ++ (m.occ.filter fun x => decide (x.what.rank = 2)) ++
  (m.occ.filter fun x => decide (x.what.rank = 3)) ++ m.occ.filter fun x => decide (x.what.rank = 4)

/-- Records leave on the export link, in order, and nothing else of the mirror changes (R388). -/
def exports (s t : State) (l : List ExportFrame) : Prop := t.mir = { s.mir with frames := s.mir.frames ++ l }

/-- A seal event at the meter `m`: counted for life, and its record is due in this microsecond, or with the inlet dead at the next power-up (R383). -/
structure sealsEvent (m : MeterSt) (evt : Nat) (s t : State) : Prop where
  now : m.lost = false → t.meter = { m with nseal := BitVec.ofNat 16 (min (m.nseal.toNat + 1) 65535), occ := m.occ ++ [⟨.seal evt, m.time⟩] }
  late : m.lost = true → t.meter = { m with nseal := BitVec.ofNat 16 (min (m.nseal.toNat + 1) 65535), seals := m.seals ++ [(evt, m.time)] }
  frame : onlyChanges [.meter] s t

/-- A marker is accepted: its record of kind 2 is due, from which on records name its epoch and root, and the 100 ms begin (R389). -/
def acceptsMarker (s : State) (k : Marker) (merges : Nat) (t : State) : Prop :=
  t = { s with meter := { s.meter with accepted := some (k.epoch, k.root), window := true, heldM := none, merges := 0, occ := s.meter.occ ++ [⟨.epoch k.epoch k.root merges, s.meter.time⟩] } }

/-- The meter's store as R383, R385 and R386 have it: at most 262,144 records, each under the number it carries, numbered one above the one before it modulo 2^64 and holding its digest, and the last with the meter's present number. -/
structure MeterSt.chained (m : MeterSt) : Prop where
  size : m.recs.length ≤ 262144
  own : ∀ x ∈ m.recs, recSeq x.2 = x.1
  last : ∀ x, m.recs.getLast? = some x → x.1 = m.seq.toNat
  next : ∀ i x y, m.recs[i]? = some x → m.recs[i + 1]? = some y → y.1 = (x.1 + 1) % 2 ^ 64 ∧ recPrev y.2 = recDigest x.2

end Sys2Proof.Machine
end

