-- ==== Sys2Proof/Certificates/Slice0/Obligations.lean ====
section
/-! DEFINITION. The statements for the provers: what each command does, what it leaves alone, and what every step keeps. -/

open Sys2Proof Sys2Proof.Machine

/-- With a command identifier other than 0xFFFF, a buffer at a multiple of 64 that ends within 2^64, and parameters in range, each of the five answers a next state that changes host memory and the bridge alone: the buffer holds the record and every other byte of host memory reads as before, and the completion entry has status 0x00 and the results of Table 15.6 (ATTEST 1,024 bytes, HEALTH_READ of records the span of SEQ, METER_MIRROR_READ the number of records). The record of a module without a mirrored record is as long as what is held. (R342, R343, R347, R390, R400, Table 15.6, Table 18.6) -/
def Obligations.ReportCommandsWriteTheirRecords : Prop :=
  (∀ (s : State) (h : CmdHdr) (a : U64), h.cid ≠ 0xFFFF → a.toNat % 64 = 0 → a.toNat + 4096 ≤ 2 ^ 64 →
    ∃ t, exec (.identify h a) s = .next t ∧ completes s t h 0 0 0 0 ∧ stores s.host t.host a.toNat s.identifyBytes ∧ onlyChanges [.host, .brg] s t) ∧
  (∀ (s : State) (h : CmdHdr) (a : U64) (nonce : BitVec 256) (len : U32), h.cid ≠ 0xFFFF → a.toNat % 64 = 0 → a.toNat + len.toNat ≤ 2 ^ 64 →
    4096 ≤ len.toNat → len.toNat ≤ 65536 →
    ∃ t, exec (.attest h a nonce len) s = .next t ∧ completes s t h 0 1024 0 0 ∧ stores s.host t.host a.toNat (s.attestBytes nonce) ∧ onlyChanges [.host, .brg] s t) ∧
  (∀ (s : State) (h : CmdHdr) (a : U64) (from_ n : U32), h.cid ≠ 0xFFFF → a.toNat % 64 = 0 → 1 ≤ n.toNat → n.toNat ≤ 65536 →
    (a.toNat + 2176 ≤ 2 ^ 64 →
      ∃ t, exec (.healthRead h a 0 from_ n) s = .next t ∧ completes s t h 0 0 0 0 ∧ stores s.host t.host a.toNat s.healthPage ∧ onlyChanges [.host, .brg] s t) ∧
    (a.toNat + 32 * n.toNat ≤ 2 ^ 64 →
      ∃ t, exec (.healthRead h a 1 from_ n) s = .next t ∧ completes s t h 0 (seqSpan (s.logRange from_ n.toNat)) 0 0 ∧
        stores s.host t.host a.toNat ((s.logRange from_ n.toNat).flatMap healthBytes) ∧ onlyChanges [.host, .brg] s t)) ∧
  (∀ (s : State) (h : CmdHdr) (a : U64) (mask : U16), h.cid ≠ 0xFFFF → a.toNat % 64 = 0 → mask ≠ 0 → a.toNat + 4096 ≤ 2 ^ 64 →
    ∃ t, exec (.linkStatus h a mask) s = .next t ∧ completes s t h 0 0 0 0 ∧
      stores s.host t.host a.toNat (((List.range 16).filter fun e => mask.getLsbD e).flatMap s.engineBlock) ∧ onlyChanges [.host, .brg] s t) ∧
  (∀ (s : State) (h : CmdHdr) (a q : U64) (n : U32), h.cid ≠ 0xFFFF → a.toNat % 64 = 0 → 1 ≤ n.toNat → n.toNat ≤ 4096 → a.toNat + 256 * n.toNat ≤ 2 ^ 64 →
    ∃ t, exec (.meterMirrorRead h a q n) s = .next t ∧
      completes s t h 0 (BitVec.ofNat 64 (((s.mir.seqsFrom q.toNat).take n.toNat).filterMap s.mir.held).length) 0 0 ∧
      stores s.host t.host a.toNat ((((s.mir.seqsFrom q.toNat).take n.toNat).filterMap s.mir.held).flatMap fun r => leBytes 256 r.toNat) ∧
      onlyChanges [.host, .brg] s t)

/-- With parameters in the ranges of Table 15.6, a set that accepts a chunk (EMPTY, LOADING or CHECKED) of the command's own kind, a chunk within the size the set declares, and checkpoint staging that holds its share, both answer a next state: the set is LOADING, holds the chunk's bytes at the image offset and has no staged root, and the command completes with status 0x00. In IDLE nothing else changes; otherwise the course copies are written into checkpoint-staging lines, and every other byte of the store reads as before. A chunk whose share does not fit completes with 0x0B and changes nothing more. (R215, R255, R261, R348, Table 12.10, Table 15.6) -/
def Obligations.StagingAChunkJoinsTheStagedSet : Prop :=
  ∀ (s : State) (h : CmdHdr) (a : U64) (len : U32) (off : U64) (reshard : Bool), h.cid ≠ 0xFFFF → a.toNat % 64 = 0 → a.toNat + len.toNat ≤ 2 ^ 64 →
    4096 ≤ len.toNat → len.toNat ≤ 2 ^ 30 → len.toNat % 4096 = 0 → off.toNat % 4096 = 0 → off.toNat + len.toNat ≤ 2 ^ 34 →
    (s.stg.st = .empty ∨ s.stg.st = .loading ∨ s.stg.st = .checked) → (s.stg.have_ = [] ∨ s.stg.reshard = reshard) →
    let data := s.readHost a.toNat len.toNat
    let c : Instr := if reshard then .reshard h a len off else .imageStage h a len off
    kindDiffers reshard off data = false → (∀ z, s.stg.sizeWith off data = some z → off.toNat + len.toNat ≤ z) →
    (s.shareFits (spliceMem s.stg.bytes off.toNat data) = true →
      ∃ t, exec c s = .next t ∧ completes s t h 0 0 0 0 ∧ t.stg.st = .loading ∧
        t.stg.root = 0 ∧ t.stg.image = none ∧ t.stg.full = (!reshard) ∧ t.stg.reshard = reshard ∧ t.stg.have_ = s.stg.have_ ++ [(off.toNat, len.toNat)] ∧
        t.stg.bytes = spliceMem s.stg.bytes off.toNat data ∧ (s.run.st = .idle → onlyChanges [.stg, .brg] s t) ∧
        (∀ b, s.offStaging b → Tab.get (0 : Byte) t.store.mem b = Tab.get (0 : Byte) s.store.mem b) ∧ onlyChanges [.free, .lregions, .brg, .stg, .net, .store, .orc, .out] s t) ∧
    (s.shareFits (spliceMem s.stg.bytes off.toNat data) = false →
      ∃ t, exec c s = .next t ∧ completes s t h 0x0B 0 0 0 ∧ onlyChanges [.brg] s t)

/-- IMAGE_CHECK takes a LOADING set to CHECKING and stays in hand. IMAGE_CHECK_END ends it: CHECKED with status 0x00 if no check fails, else FAILED with status 0x07 and the number of the first failure in RES0. IMAGE_ARM of a CHECKED set with the staged root, in time, takes it to ARMED with B and E; in IDLE the application begins at once and the command stays in hand. IMAGE_ABANDON of a set that is not empty and not being applied empties it. Each changes the parts named alone. (R261, R262, R265, Table 12.10) -/
def Obligations.CheckArmAndAbandonMoveTheStagedSet : Prop :=
  (∀ (s : State) (h : CmdHdr), h.cid ≠ 0xFFFF → s.stg.st = .loading →
    ∃ t, exec (.imageCheck h) s = .next t ∧ onlyChanges [.stg, .run] s t ∧ t.stg = { s.stg with st := .checking } ∧ t.run = { s.run with check := some h }) ∧
  (∀ (s : State) (h : CmdHdr), s.stg.st = .checking → s.run.check = some h →
    ∃ t, exec .imageCheckEnd s = .next t ∧ onlyChanges [.stg, .run, .brg] s t ∧ t.run = { s.run with check := none } ∧ t.stg.code = s.checkCode ∧
      t.stg.st = (if s.checkCode = 0 then .checked else .failed) ∧
      if s.checkCode = 0 then completes s t h 0 0 (t.stg.root.setWidth 64) ((t.stg.root >>> 64).setWidth 64)
      else completes s t h 7 (BitVec.ofNat 64 s.checkCode) 0 0) ∧
  (∀ (s : State) (h : CmdHdr) (b : U64) (e : U32) (a : U64), h.cid ≠ 0xFFFF → a.toNat % 64 = 0 → a.toNat + 64 ≤ 2 ^ 64 → s.cfg.epoch.toNat < e.toNat →
    s.stg.st = .checked → s.stg.applying = false → s.vendorLapsed = false → ofBytes 64 (s.readHost a.toNat 64) = s.stg.root →
    (s.run.st = .running → s.run.step.toNat ≤ b.toNat → s.stg.disag = false →
      ∃ t, exec (.imageArm h b e a) s = .next t ∧ completes s t h 0 0 0 0 ∧ onlyChanges [.stg, .brg] s t ∧ t.stg = { s.stg with st := .armed, b := b, e := e }) ∧
    (s.run.st = .idle →
      ∃ t, exec (.imageArm h b e a) s = .next t ∧ onlyChanges [.stg, .run] s t ∧ t.stg.st = .armed ∧ t.stg.b = b ∧ t.stg.e = e ∧ t.stg.applying = true ∧
        t.run = { s.run with armed := some h })) ∧
  (∀ (s : State) (h : CmdHdr), h.cid ≠ 0xFFFF → s.stg.st ≠ .empty → s.stg.applying = false → s.run.check = none →
    ∃ t, exec (.imageAbandon h) s = .next t ∧ completes s t h 0 0 0 0 ∧ onlyChanges [.stg, .brg] s t ∧ t.stg = { disag := s.stg.disag, decl := s.stg.decl })

/-- STEP_RUN of a module stopped at a boundary, with nothing armed, no recovery in hand, the topology checked and the limit not passed, sets it RUNNING with the limit, sends the commit token to every region in service, clears the step's summaries, begins the step if its slot is full, and completes, once the commit point of the boundary stands settled; till then it runs and waits. STEP_HOLD inside a step waits, and asks for the stop at the step boundary (AT = 1) or triggers the hold at the highest micro-batch begun (AT = 0); in a module held at a boundary it completes with the last committed step. BATCH_FEED marks a free, settled slot full and completes with its number. COMPUTE_RESET with no other command in hand returns the module to IDLE, with the identity map, clears what Table 14.10 says and keeps the rest, what the host wrote to the window before it among it. (R13, R19, R41, R47, R152, R279, R329, R350, R351, Table 14.10) -/
def Obligations.RunHoldFeedAndResetAct : Prop :=
  (∀ (s : State) (h : CmdHdr) (limit : U64), h.cid ≠ 0xFFFF → s.run.st = .stopped → s.run.inStep = false → s.run.crossed = false → s.run.stopAsked = false →
    s.stg.st ≠ .armed → s.stg.applying = false → s.flt.phase = .none → s.flt.needLoad = false → s.run.step.toNat ≤ limit.toNat → s.cfg.topoWait = false →
    ∃ t, exec (.stepRun h limit) s = .next t ∧ onlyChanges [.free, .lregions, .regions, .run, .num, .settings, .flt, .net, .store, .orc, .brg] s t ∧ completes s t h 0 0 0 0 ∧
      t.run.st = .running ∧ t.run.limit = limit ∧ t.run.step = s.run.step ∧ (s.flt.pendSnap = none → s.snapStands = true → t.flt.pendSnap = none) ∧
      (t.flt.pendSnap = none → t.run.tokens = s.serviceRegions ∧ t.num.summary = 0 ∧ t.num.gnf = false ∧
        t.run.inStep = decide (s.store.slots.get 0 (s.slotFor s.run.step) = 1) ∧ (t.run.inStep = true → t.store.slots.get 0 (s.slotFor s.run.step) = 2)) ∧
      (t.flt.pendSnap ≠ none → t.run.tokens = s.run.tokens ∧ t.run.inStep = false ∧ t.num = s.num)) ∧
  (∀ (s : State) (h : CmdHdr), h.cid ≠ 0xFFFF → s.run.st = .running → s.run.inStep = true →
    (∃ t, exec (.stepHold h 1) s = .next t ∧ onlyChanges [.run] s t ∧ t.run = { s.run with holds := s.run.holds ++ [(h, 1)], stopAsked := true }) ∧
    (s.flt.phase = .none → s.num.hold = none → s.num.held = false →
      ∃ t, exec (.stepHold h 0) s = .next t ∧ onlyChanges [.run, .num] s t ∧ t.run = { s.run with holds := s.run.holds ++ [(h, 0)] } ∧
        t.num.hold = some (s.num.top - 1) ∧ t.num.holdNumeric = false)) ∧
  (∀ (s : State) (h : CmdHdr), h.cid ≠ 0xFFFF → s.run.st = .held → s.run.inStep = false →
    ∃ t, exec (.stepHold h 0) s = .next t ∧ onlyChanges [.brg] s t ∧ completes s t h 0 (s.run.step - 1) (BitVec.ofNat 64 s.lastMb) 0) ∧
  (∀ (s : State) (h : CmdHdr) (n : U64), h.cid ≠ 0xFFFF → s.run.st ≠ .idle → s.nextStep ≤ n.toNat → n.toNat < s.nextStep + s.stepCourse.s →
    s.store.slots.get 0 (s.slotFor n) = 0 → s.slotSettled (s.slotFor n) = true → s.slotPasses (s.slotFor n) = true → s.run.inStep = true →
    ∃ t, exec (.batchFeed h n) s = .next t ∧ onlyChanges [.store, .brg] s t ∧ completes s t h 0 (BitVec.ofNat 64 (s.slotFor n)) 0 0 ∧
      t.store.slots.get 0 (s.slotFor n) = 1 ∧ (∀ k, k ≠ s.slotFor n → t.store.slots.get 0 k = s.store.slots.get 0 k) ∧ t.store.mem = s.store.mem) ∧
  (∀ (s : State) (h : CmdHdr), h.cid ≠ 0xFFFF → s.commandsInHand = [] → s.stg.applying = false →
    ∃ t, exec (.computeReset h) s = .next t ∧ completes s t h 0 0 0 0 ∧ t.run.st = .idle ∧ t.run.step = s.run.step ∧ t.cores = [] ∧ t.lregions = [] ∧
      t.cfg.image = none ∧ t.cfg.map = s.cfg.map.map (fun x => (x.1, x.2.map fun _ => x.1)) ∧ t.cfg.epoch = s.cfg.epoch ∧ t.cfg.layout = s.cfg.layout ∧ t.cfg.links = s.cfg.links ∧ t.stg.st = .empty ∧
      t.store.mem = s.applyGathered.store.mem ∧ t.num.ring = s.num.ring ∧ t.num.prod = s.num.prod ∧ t.num.cons = s.num.cons ∧ t.flt.fences = s.flt.fences ∧
      (∀ r, (t.reg r).retired = (s.reg r).retired) ∧
      onlyChanges [.cores, .lregions, .regions, .grd, .num, .run, .brg, .stg, .cfg, .bat, .net, .store, .orc, .prs, .dma, .eng, .flt, .log] s t)

/-- With parameters in range, in STOPPED or HELD at a step boundary: PARAM_READ of lines that a copy has stores their bytes, those of a lost region reconstructed through its sheaf, and returns their number; PARAM_WRITE of any copy but the working one leaves each line it names with the 2,048 bytes given, good, and with the stamp of the current step, a master write also the working elements that its parameters give, and no other byte of the store (where the lines of the copies lie apart, which an image check requires). There, and in a spares-exhausted hold, CHECKPOINT_EXPORT to a host buffer that is large enough stores the checkpoint, of Table 15.8's magic, step counter, layout epoch, number of shards and digest, and returns its length; to free staging lines it writes the same bytes there; one too small completes with 0x0B. In STOPPED, CHECKPOINT_IMPORT of bytes that pass every check of R353 leaves every line of every shard with the bytes of its record, the working elements that the master lines give and the loss-scale exponent of `PRS_LSCALE`, and returns the number of shards; bytes that fail a check complete with 0x0C and nothing is written. What each leaves alone is stated. (R136, R150, R176, R291, R352, R353, Table 15.6, Table 15.8) -/
def Obligations.ParametersAndCheckpointsAreReadAndWritten : Prop :=
  (∀ (s : State) (h : CmdHdr) (a : U64) (lregion copy : Byte) (shard : U16) (fline nln : U32) (sh : Shard),
    h.cid ≠ 0xFFFF → copy.toNat ≤ 5 → shard.toNat < 4096 → 1 ≤ nln.toNat → nln.toNat ≤ 2 ^ 24 → a.toNat % 64 = 0 → a.toNat + nln.toNat * 2048 ≤ 2 ^ 64 →
    s.run.st = .stopped ∨ (s.run.st = .held ∧ s.run.atStep = true) → s.shard lregion.toNat shard.toNat = some sh →
    let r := lregion.toNat
    let l := s.paramLines r sh copy.toNat
    fline.toNat + nln.toNat ≤ l.length →
    (∃ t, exec (.paramRead h a lregion copy shard fline nln) s = .next t ∧ completes s t h 0 (BitVec.ofNat 64 nln.toNat) 0 0 ∧
      stores s.host t.host a.toNat (((l.drop fline.toNat).take nln.toNat).flatMap fun x => s.servedLine r x.1 x.2) ∧ onlyChanges [.host, .brg] s t) ∧
    (copy ≠ 1 → (s.paramKeys r sh copy.toNat).Nodup → (copy = 0 → (s.paramKeys r sh 0 ++ s.paramKeys r sh 1).Nodup) →
      let d := s.readHost a.toNat (nln.toNat * 2048)
      ∃ t, exec (.paramWrite h a lregion copy shard fline nln) s = .next t ∧ completes s t h 0 (BitVec.ofNat 64 nln.toNat) 0 0 ∧
        (∀ i b n, i < nln.toNat → l[fline.toNat + i]? = some (b, n) →
          t.readLine r b n = lineOf d i ∧ t.stamp r b n = s.stepStamp ∧ t.store.bad.contains (lineKey (s.column r) b n) = false) ∧
        (copy = 0 → ∀ i b n, i < nln.toNat → (s.paramLines r sh 1)[(fline.toNat + i) / 2]? = some (b, n) →
          holdsWorking (t.readLine r b n) ((fline.toNat + i) % 2) (lineOf d i) ∧ t.stamp r b n = s.stepStamp) ∧
        (∀ x, (∀ b n, ((b, n) ∈ (l.drop fline.toNat).take nln.toNat ∨ (copy = 0 ∧ (b, n) ∈ s.paramLines r sh 1)) → ¬ s.inLine r b n x) →
          Tab.get (0 : Byte) t.store.mem x = Tab.get (0 : Byte) s.store.mem x) ∧
        onlyChanges [.lregions, .bat, .net, .store, .orc, .brg] s t)) ∧
  (∀ (s : State) (h : CmdHdr) (a : U64) (flush : Byte) (n : U64), h.cid ≠ 0xFFFF → flush.toNat ≤ 1 →
    s.run.st = .stopped ∨ (s.run.st = .held ∧ s.run.atStep = true) ∨ (s.run.st = .held ∧ s.run.hcause = 5) →
    let u := if flush = 1 then s.flushOrchard else s
    let d := u.checkpoint
    (a.toNat % 64 = 0 → a.toNat + n.toNat ≤ 2 ^ 64 → s.checkpoint.length ≤ n.toNat →
      ∃ t, exec (.checkpointExport h a 0 flush n) s = .next t ∧ completes s t h 0 (BitVec.ofNat 64 d.length) 0 0 ∧
        stores s.host t.host a.toNat d ∧ d.take 8 = ascii "LXSKZCKP" ∧ leAt d 8 8 = s.run.step.toNat ∧ leAt d 0x10 4 = s.cfg.layout.toNat ∧
        d.drop (d.length - 64) = digestBytes (digest64 (d.take (d.length - 64))) ∧ onlyChanges [.host, .orc, .brg, .log] s t) ∧
    (a.toNat % 64 = 0 → a.toNat + n.toNat ≤ 2 ^ 64 → n.toNat < s.checkpoint.length →
      ∃ t, exec (.checkpointExport h a 0 flush n) s = .next t ∧ completes s t h 0x0B 0 0 0 ∧ onlyChanges [.brg] s t) ∧
    (ceilDiv s.checkpoint.length 2048 ≤ s.cline → (∀ i j x y, runLine s.stagingRuns i = some x → runLine s.stagingRuns j = some y → lineKey (s.column x.1) x.2.1 x.2.2 = lineKey (s.column y.1) y.2.1 y.2.2 → i = j) →
      ∃ t, exec (.checkpointExport h a 1 flush n) s = .next t ∧ completes s t h 0 (BitVec.ofNat 64 d.length) 0 0 ∧
        (∀ i r b l, i < ceilDiv d.length 2048 → runLine s.stagingRuns i = some (r, b, l) → (t.readLine r b l).take (lineOf d i).length = lineOf d i) ∧
        (∀ b, s.offStaging b → Tab.get (0 : Byte) t.store.mem b = Tab.get (0 : Byte) s.store.mem b) ∧ onlyChanges [.lregions, .net, .store, .orc, .brg, .log, .out] s t)) ∧
  (∀ (s : State) (h : CmdHdr) (a n : U64) (sline : U32), h.cid ≠ 0xFFFF → s.run.st = .stopped → a.toNat % 64 = 0 → a.toNat + n.toNat ≤ 2 ^ 64 →
    let d := s.readHost a.toNat (min n.toNat (s.ckPlaces.2 + 64))
    (s.ckOk d = true → (s.ckShards.flatMap fun x => [0, 1, 2, 3, 4, 5].flatMap fun c => s.paramKeys x.1 x.2.2 c).Nodup →
      ∃ t, exec (.checkpointImport h a 0 sline n) s = .next t ∧ completes s t h 0 (BitVec.ofNat 64 s.ckShards.length) 0 0 ∧
        (∀ o r k sh i c b l, (o, r, k, sh) ∈ s.ckPlaces.1 → (s.ckLines (r, k, sh))[i]? = some (c, b, l) → t.readLine r b l = lineOf (d.drop (o + 16)) i) ∧
        (∀ o r k sh i b l, (o, r, k, sh) ∈ s.ckPlaces.1 → i < (s.paramLines r sh 0).length → (s.paramLines r sh 1)[i / 2]? = some (b, l) →
          holdsWorking (t.readLine r b l) (i % 2) (lineOf (d.drop (o + 16)) i)) ∧
        t.prs.exp = (if s.pressCourse.ls.lsen then sext (leAt d 0x18 4 % 256) 8 else s.prs.exp) ∧ onlyChanges [.lregions, .bat, .net, .store, .orc, .prs, .brg] s t) ∧
    (s.ckOk d = false → ∃ t, exec (.checkpointImport h a 0 sline n) s = .next t ∧ completes s t h 0x0C 0 0 0 ∧ onlyChanges [.brg] s t))

/-- PARTNER_SET stages up to eight partners, which voids an earlier check. FEED_DOMAIN_SET puts the module's domain and its table in force at once unless a partner in force shares the domain. NUMERIC_RING_READ copies up to MAX entries from the consumer index, returns their number and the new index, and moves the index with ADV 1 alone. KEY_ENROL in IDLE with CTL_LOCK.ENROL clear writes its slot and counts one where every condition of R396 holds, else completes with 0x0C and changes nothing more. LOCK sets the bits of its mask and clears none. (R43, R348, R354, R355, R371, R396, R397, Table 15.6) -/
def Obligations.ProtectionAndKeyCommandsTakeEffect : Prop :=
  (∀ (s : State) (h : CmdHdr) (ps : List (U16 × U32)), h.cid ≠ 0xFFFF → ps.length ≤ 8 → (s.stg.st = .empty ∨ s.stg.st = .loading ∨ s.stg.st = .checked) →
    ∃ t, exec (.partnerSet h ps) s = .next t ∧ completes s t h 0 0 0 0 ∧ t.stg.partners = some ps ∧ t.stg.root = 0 ∧ t.stg.image = none ∧
      (s.stg.st = .checked → t.stg.st = .loading) ∧ t.stg.bytes = s.stg.bytes ∧ t.stg.have_ = s.stg.have_ ∧ onlyChanges [.stg, .brg] s t) ∧
  (∀ (s : State) (h : CmdHdr) (own : U16) (ds : List (U16 × U16)), h.cid ≠ 0xFFFF → ds.length ≤ 8 →
    (own ≠ 0 → ∀ m ∈ s.outerPartners, ∀ d ∈ ds, d.1.toNat = m → d.2 ≠ own) →
    ∃ t, exec (.feedDomainSet h own ds) s = .next t ∧ completes s t h 0 0 0 0 ∧ t.cfg = { s.cfg with domain := own, domains := ds } ∧ onlyChanges [.cfg, .brg] s t) ∧
  (∀ (s : State) (h : CmdHdr) (a : U64) (maxN : U16) (adv : Byte), h.cid ≠ 0xFFFF → 1 ≤ maxN.toNat → maxN.toNat ≤ 4096 → adv.toNat ≤ 1 → a.toNat % 64 = 0 →
    a.toNat + 32 * maxN.toNat ≤ 2 ^ 64 →
    let n := min maxN.toNat s.num.fill
    let c := s.num.cons + BitVec.ofNat 13 n
    ∃ t, exec (.numericRingRead h a maxN adv) s = .next t ∧ completes s t h 0 (BitVec.ofNat 64 n) (c.setWidth 64) (if s.num.ovfl then 1 else 0) ∧
      stores s.host t.host a.toNat (s.ringBytes n) ∧ t.num = { s.num with cons := if adv = 1 then c else s.num.cons } ∧ onlyChanges [.host, .num, .brg] s t) ∧
  (∀ (s : State) (h : CmdHdr) (a : U64) (slot : Byte), h.cid ≠ 0xFFFF → slot.toNat ≤ 3 → a.toNat % 64 = 0 → a.toNat + 384 ≤ 2 ^ 64 → s.run.st = .idle → s.set.lock.getLsbD 0 = false →
    let b := s.readHost a.toNat 384
    ∃ t, exec (.keyEnrol h a slot) s = .next t ∧
      if s.enrolOk b slot.toNat then
        completes s t h 0 0 0 0 ∧ t.keys = { s.keys with owners := s.keys.owners.set none slot.toNat (if (enrolOf b).op = 1 then some (enrolOf b).pub else none), count := s.keys.count + 1 } ∧
          (t.stg = if s.stg.st = .checked then s.stg.void else s.stg) ∧ onlyChanges [.stg, .keys, .brg] s t
      else completes s t h 0x0C 0 0 0 ∧ onlyChanges [.brg] s t) ∧
  (∀ (s : State) (h : CmdHdr) (mask : U32), h.cid ≠ 0xFFFF → mask.toNat < 8 →
    ∃ t, exec (.lock h mask) s = .next t ∧ completes s t h 0 (t.set.lock.setWidth 64) 0 0 ∧ t.set = { s.set with lock := s.set.lock ||| mask.setWidth 3 } ∧
      (∀ i, s.set.lock.getLsbD i = true → t.set.lock.getLsbD i = true) ∧ (∀ i, i < 3 → mask.getLsbD i = true → t.set.lock.getLsbD i = true) ∧ onlyChanges [.settings, .brg] s t)

/-- With the host link up and a queue whose turn it is, COMMAND_FETCH advances that queue's device index by one and passes the turn on. The command's time runs from there. A lane command joins the end of the lane; another with no reserved byte set acts at once as the command of Table 15.6 with the parameters at the offsets of that table, with one set completes with 0x02, and one whose host request fails with 0x06; an unknown opcode completes with 0x01. With the link down or no queue to fetch from nothing changes. LANE_COMMAND_START, with a command waiting and none executing, takes the oldest from the lane: with a reserved byte set it completes with 0x02, with a host request that fails with 0x06, else it acts as the command of Table 15.6; with none waiting, one executing, or a check with 32 commands executing beside the lane nothing changes. (R334, R342, R344, Table 15.3, Table 15.6) -/
def Obligations.CommandsAreFetchedAndStartedInOrder : Prop :=
  (∀ (s : State) (p : Nat) (hp : p < 16128), s.brg.linkDown = false → s.nextQueue = some p →
    let x := inHandOf ⟨p, hp⟩ (s.entryAt (s.hq (sqQueue p))) s.time
    let u := (s.onHq (sqQueue p) fun q => { q with dev := q.dev + 1 }).onRun fun r => { r with rr := p + 1 }
    ∃ t, exec .commandFetch s = .next t ∧
      (x.opc ∈ [0x10, 0x11, 0x12, 0x13, 0x20, 0x30, 0x31, 0x32, 0x33, 0x34, 0x40, 0x41, 0x60, 0x61] →
        t.run = { s.run with laneQ := s.run.laneQ ++ [x], rr := p + 1 } ∧ t.hq (sqQueue p) = { s.hq (sqQueue p) with dev := (s.hq (sqQueue p)).dev + 1 } ∧
        (∀ q, q ≠ sqQueue p → t.hq q = s.hq q) ∧ onlyChanges [.run, .brg] s t) ∧
      (x.opc ∈ [0x01, 0x02, 0x03, 0x04, 0x21, 0x22, 0x23, 0x50, 0x51] → (x.rsv = true ∨ x.unusedSet = true) → completes u t x.h 2 0 0 0 ∧ onlyChanges [.run, .brg] s t) ∧
      (x.opc ∈ [0x01, 0x02, 0x03, 0x04, 0x50, 0x51] → x.rsv = false → x.unusedSet = false → s.run.hostFails.contains x.h = true →
        completes u t x.h 6 0 0 0 ∧ t.run = { u.run with hostFails := s.run.hostFails.erase x.h } ∧ onlyChanges [.run, .brg] s t) ∧
      (x.rsv = false → x.unusedSet = false → s.run.hostFails.contains x.h = false →
        (x.opc = 0x01 → exec (.identify x.h (x.q 8)) u = .next t) ∧
        (x.opc = 0x02 → exec (.attest x.h (x.q 8) (BitVec.ofNat 256 (x.f 0x10 32)) (x.d 0x30)) u = .next t) ∧
        (x.opc = 0x03 → exec (.healthRead x.h (x.q 8) (x.b 0x10) (x.d 0x14) (x.d 0x18)) u = .next t) ∧
        (x.opc = 0x04 → exec (.linkStatus x.h (x.q 8) (x.w 0x10)) u = .next t) ∧
        (x.opc = 0x21 → exec (.stepHold x.h (x.b 8)) u = .next t) ∧
        (x.opc = 0x22 → exec (.batchFeed x.h (x.q 8)) u = .next t) ∧
        (x.opc = 0x23 → exec (.computeReset x.h) u = .next t) ∧
        (x.opc = 0x50 → exec (.numericRingRead x.h (x.q 8) (x.w 0x10) (x.b 0x12)) u = .next t) ∧
        (x.opc = 0x51 → exec (.meterMirrorRead x.h (x.q 8) (x.q 0x10) (x.d 0x18)) u = .next t)) ∧
      (x.opc ∉ [0x10, 0x11, 0x12, 0x13, 0x20, 0x30, 0x31, 0x32, 0x33, 0x34, 0x40, 0x41, 0x60, 0x61] → x.opc ∉ [0x01, 0x02, 0x03, 0x04, 0x21, 0x22, 0x23, 0x50, 0x51] →
        completes u t x.h 1 0 0 0 ∧ onlyChanges [.run, .brg] s t)) ∧
  (∀ s : State, s.brg.linkDown = true ∨ s.nextQueue = none → exec .commandFetch s = .next s) ∧
  (∀ (s : State) (x : InHand) (rest : List InHand), s.run.laneQ = x :: rest → s.run.armed = none → s.checkWaits x = false →
    let u := s.onRun fun r => { r with laneQ := rest }
    ∃ t, exec .laneCommandStart s = .next t ∧
      (x.rsv = true ∨ x.unusedSet = true → completes s t x.h 2 0 0 0 ∧ t.run = { s.run with laneQ := rest } ∧ onlyChanges [.run, .brg] s t) ∧
      (x.rsv = false → x.unusedSet = false → x.asksHost = true → s.run.hostFails.contains x.h = true →
        completes s t x.h 6 0 0 0 ∧ t.run = { s.run with laneQ := rest, hostFails := s.run.hostFails.erase x.h } ∧ onlyChanges [.run, .brg] s t) ∧
      (x.rsv = false → x.unusedSet = false → s.run.hostFails.contains x.h = false →
        (x.opc = 0x10 → exec (.imageStage x.h (x.q 8) (x.d 0x10) (x.q 0x18)) u = .next t) ∧
        (x.opc = 0x11 → exec (.imageCheck x.h) u = .next t) ∧
        (x.opc = 0x12 → exec (.imageArm x.h (x.q 8) (x.d 0x10) (x.q 0x18)) u = .next t) ∧
        (x.opc = 0x13 → exec (.imageAbandon x.h) u = .next t) ∧
        (x.opc = 0x20 → exec (.stepRun x.h (x.q 8)) u = .next t) ∧
        (x.opc = 0x30 → exec (.paramRead x.h (x.q 8) (x.b 0x10) (x.b 0x11) (x.w 0x12) (x.d 0x14) (x.d 0x18)) u = .next t) ∧
        (x.opc = 0x31 → exec (.paramWrite x.h (x.q 8) (x.b 0x10) (x.b 0x11) (x.w 0x12) (x.d 0x14) (x.d 0x18)) u = .next t) ∧
        (x.opc = 0x32 → exec (.checkpointExport x.h (x.q 8) (x.b 0x10) (x.b 0x11) (x.q 0x18)) u = .next t) ∧
        (x.opc = 0x33 → exec (.checkpointImport x.h (x.q 8) (x.b 0x10) (x.d 0x14) (x.q 0x18)) u = .next t) ∧
        (x.opc = 0x34 → exec (.reshard x.h (x.q 8) (x.d 0x10) (x.q 0x18)) u = .next t) ∧
        (x.opc = 0x40 → exec (.partnerSet x.h ((x.pairs (x.f 8 1) 6).map fun p => (p.1, BitVec.ofNat 32 p.2))) u = .next t) ∧
        (x.opc = 0x41 → exec (.feedDomainSet x.h (x.w 8) ((x.pairs (x.f 0x0A 1) 4).map fun p => (p.1, BitVec.ofNat 16 p.2))) u = .next t) ∧
        (x.opc = 0x60 → exec (.keyEnrol x.h (x.q 8) (x.b 0x10)) u = .next t) ∧
        (x.opc = 0x61 → exec (.lock x.h (x.d 8)) u = .next t))) ∧
  (∀ s : State, s.run.laneQ = [] ∨ s.run.armed ≠ none ∨ (∃ x rest, s.run.laneQ = x :: rest ∧ x.opc = 0x11 ∧ 32 ≤ s.execCount) → exec .laneCommandStart s = .next s)

/-- For an enabled completion queue with the link up: with an entry waiting and room in the ring, COMPLETION_ENTRY_WRITE stores the 32 bytes of the oldest entry, with its phase bit, at its slot, advances the device index, takes the entry from the queue and sends the message of VEC once ICOAL + 1 entries have been written; the entry of a descriptor then sends the emits of that descriptor and frees its slot; with the ring full FULLW stands and nothing is written. MSI_X_COALESCE_TIMEOUT sends the message that is owed. COMMAND_TIMEOUT of a command whose time is over ends it with status 0x04: one that waits in the lane, or that is the oldest there and has nothing to begin, leaves nothing; the oldest of PARAM_READ, PARAM_WRITE, CHECKPOINT_EXPORT and CHECKPOINT_IMPORT leaves the lines, chunks or shards done so far, their number in RES0 (for an export 0), which is an open number below all of them; a hold, a feed and a reset leave nothing, and a check stops. Before its time nothing ends. (R192, R201, R343, R345, Table 15.4, Table 15.5) -/
def Obligations.CompletionsAreWrittenAndTimedOutCommandsEnd : Prop :=
  (∀ (s : State) (q : Fin 32768) (i : CqItem) (rest : List CqItem),
    let x := s.hq q
    x.en = true → isCq q = true → s.brg.linkDown = false → x.items = i :: rest →
    ((x.dev - x.host).toNat ≠ 2 ^ x.z →
      let send := x.ien && decide (x.icoal + 1 ≤ x.unsig + 1)
      ∃ t, exec (.completionEntryWrite q) s = .next t ∧
        stores s.host t.host (x.base + 64 + x.dev.toNat % 2 ^ x.z * 32) (s.itemBytes i (phaseOf x.dev.toNat x.z)) ∧
        t.hq q = { x with dev := x.dev + 1, items := rest, unsig := if send then 0 else x.unsig + 1 } ∧
        (∀ j, j ≠ q.val → j ≠ pairOf q → t.hq j = s.hq j) ∧
        (match i with
          | .dma _ _ _ _ _ _ es slot => t.bat = { s.bat with emits := s.bat.emits ++ es } ∧
              t.hq (pairOf q) = (if slot then { s.hq (pairOf q) with dev := (s.hq (pairOf q)).dev + 1 } else s.hq (pairOf q))
          | _ => t.bat = s.bat ∧ t.hq (pairOf q) = s.hq (pairOf q)) ∧
        t.out = (if send then s.out ++ [.msix x.vec] else s.out) ∧
        (∀ code, i = .event code → t.run.events = s.run.events.erase code) ∧ ((∀ code, i ≠ .event code) → t.run = s.run) ∧ onlyChanges [.host, .run, .brg, .bat, .out] s t) ∧
    ((x.dev - x.host).toNat = 2 ^ x.z →
      s.fullw q = true ∧ exec (.completionEntryWrite q) s = .next s)) ∧
  (∀ (s : State) (q : Fin 32768), (s.hq q).en = true → isCq q = true → (s.hq q).ien = true → 0 < (s.hq q).unsig →
    ∃ t, exec (.msiXCoalesceTimeout q) s = .next t ∧ t.out = s.out ++ [.msix (s.hq q).vec] ∧ t.hq q = { s.hq q with unsig := 0 } ∧ (∀ j, j ≠ q.val → t.hq j = s.hq j) ∧
      onlyChanges [.brg, .out] s t) ∧
  (∀ (s : State) (h : CmdHdr),
    (∀ x, s.run.laneQ.find? (fun x => decide (x.h = h)) = some x → s.timeUp h x.opc = true →
      let u := s.onRun fun r => { r with laneQ := eraseHdr InHand.h h r.laneQ }
      let d := u.readHost (x.f 8 8)
      let r := x.f 0x10 1
      (s.run.laneQ.head? ≠ some x ∨ s.run.armed ≠ none ∨ x.judgedOk u = false →
        ∃ t, exec (.commandTimeout h) s = .next t ∧ completes s t h 4 0 0 0 ∧ t.run = u.run ∧ onlyChanges [.run, .brg] s t) ∧
      (s.run.laneQ.head? = some x → s.run.armed = none → x.judgedOk u = true →
        ∃ t k, exec (.commandTimeout h) s = .next t ∧ completes s t h 4 (BitVec.ofNat 64 k) 0 0 ∧ t.run = u.run ∧
          (x.opc = 0x30 → ∀ sh l, u.paramSpan (x.b 0x10) (x.b 0x11) (x.w 0x12) (x.d 0x14) (x.d 0x18) = some (sh, l) →
            k < max l.length 1 ∧ stores s.host t.host (x.f 8 8) ((l.take k).flatMap fun y => s.servedLine r y.1 y.2) ∧ onlyChanges [.free, .host, .run, .brg] s t) ∧
          (x.opc = 0x31 → ∀ sh l, u.paramSpan (x.b 0x10) (x.b 0x11) (x.w 0x12) (x.d 0x14) (x.d 0x18) = some (sh, l) →
            k < max l.length 1 ∧ onlyChanges [.free, .lregions, .run, .bat, .net, .store, .orc, .brg] s t ∧
            ((s.paramKeys r sh (x.f 0x11 1)).Nodup → (x.f 0x11 1 = 0 → (s.paramKeys r sh 0 ++ s.paramKeys r sh 1).Nodup) →
              (∀ i b n, i < k → l[i]? = some (b, n) → t.readLine r b n = lineOf (d (k * 2048)) i) ∧
              (∀ y, (∀ b n, ((b, n) ∈ l.take k ∨ (x.f 0x11 1 = 0 ∧ (b, n) ∈ s.paramLines r sh 1)) → ¬ s.inLine r b n y) → Tab.get (0 : Byte) t.store.mem y = Tab.get (0 : Byte) s.store.mem y))) ∧
          (x.opc = 0x32 → k = 0 ∧ onlyChanges [.free, .host, .lregions, .net, .store, .orc, .run, .brg, .log, .out] s t) ∧
          (x.opc = 0x33 → k < max s.ckPlaces.1.length 1 ∧ onlyChanges [.free, .lregions, .bat, .net, .store, .orc, .run, .brg] s t))) ∧
    (s.run.laneQ.find? (fun x => decide (x.h = h)) = none → s.run.check = some h → s.timeUp h 0x11 = true →
      ∃ t, exec (.commandTimeout h) s = .next t ∧ completes s t h 4 0 0 0 ∧ t.run = { s.run with check := none } ∧ t.stg = { s.stg with st := .loading } ∧ onlyChanges [.run, .stg, .brg] s t) ∧
    (s.run.laneQ.find? (fun x => decide (x.h = h)) = none → s.run.check ≠ some h → (s.run.holds.any fun x => decide (x.1 = h)) = true → s.timeUp h 0x21 = true →
      ∃ t, exec (.commandTimeout h) s = .next t ∧ completes s t h 4 0 0 0 ∧ t.run = { s.run with holds := eraseHdr Prod.fst h s.run.holds } ∧ onlyChanges [.run, .brg] s t) ∧
    (s.run.laneQ.find? (fun x => decide (x.h = h)) = none → s.run.check ≠ some h → (s.run.holds.any fun x => decide (x.1 = h)) = false →
      (s.run.feeds.any fun x => decide (x.1 = h)) = true → s.timeUp h 0x22 = true →
      ∃ t, exec (.commandTimeout h) s = .next t ∧ completes s t h 4 0 0 0 ∧ t.run = { s.run with feeds := eraseHdr Prod.fst h s.run.feeds } ∧ onlyChanges [.run, .brg] s t) ∧
    (s.run.laneQ.find? (fun x => decide (x.h = h)) = none → s.run.check ≠ some h → (s.run.holds.any fun x => decide (x.1 = h)) = false →
      (s.run.feeds.any fun x => decide (x.1 = h)) = false → s.run.resetCmd = some h → s.timeUp h 0x23 = true →
      ∃ t, exec (.commandTimeout h) s = .next t ∧ completes s t h 4 0 0 0 ∧ t.run = { s.run with resetCmd := none } ∧ onlyChanges [.run, .brg] s t) ∧
    ((∀ opc, s.timeUp h opc = false) → exec (.commandTimeout h) s = .next s))

/-- A create whose staged context passes every check of R189 enables the queue with those words and empty indices, and one that fails gives its code in CTL_HQ_RES and changes nothing else. A delete of an enabled queue (a completion queue only without its pair) disables it. An index in range moves by a doorbell or from the header line in poll mode; one out of range sets DERR, is counted and logged, and moves nothing. A value of the header line out of range does what such a doorbell does. Resume restarts a stopped bridge channel at its next descriptor, what a reset took from it first; abort of an enabled one leaves it idle and its queue's index advanced by what was abandoned and by the slots of the entries still unwritten. All but the header line come over the host link, which is up and answers. (R189, R190, R191, R203, R329, Table 9.5, Table 9.6, Table 9.7) -/
def Obligations.HostQueuesAndDoorbellsFollowTheirChecks : Prop :=
  (∀ (s : State) (q : Fin 32768), s.hostReaches = true →
    ∃ t, exec (.hostQueueCreate q) s = .next t ∧ t.brg.hqCode = s.createCode q ∧ (∀ j, j ≠ q.val → t.hq j = s.hq j) ∧ onlyChanges [.brg, .dma] s t ∧
      (s.createCode q = 0 → t.hq q = { en := true, stg := s.stagingWords, items := keepEvents (s.hq q).items } ∧
        (q.val < 256 → (t.chan (bridgeBase + q.val)) = { epoch := (s.chan (bridgeBase + q.val)).epoch + 1 }) ∧ (256 ≤ q.val → t.dma = s.dma)) ∧
      (s.createCode q ≠ 0 → t.hq q = s.hq q ∧ t.dma = s.dma)) ∧
  (∀ (s : State) (q : Fin 32768), s.hostReaches = true →
    ((s.hq q).en = false → ∃ t, exec (.hostQueueDelete q) s = .next t ∧ t.brg = { s.brg with hqCode := 1 } ∧ onlyChanges [.brg] s t) ∧
    ((s.hq q).en = true → isCq q = true → (s.hq (pairOf q)).en = true → ∃ t, exec (.hostQueueDelete q) s = .next t ∧ t.brg = { s.brg with hqCode := 4 } ∧ onlyChanges [.brg] s t) ∧
    ((s.hq q).en = true → 256 ≤ q.val → (isCq q = false ∨ (s.hq (pairOf q)).en = false) →
      ∃ t, exec (.hostQueueDelete q) s = .next t ∧ t.brg.hqCode = 0 ∧ t.hq q = { items := keepEvents (s.hq q).items } ∧ (∀ j, j ≠ q.val → t.hq j = s.hq j) ∧ onlyChanges [.brg] s t)) ∧
  (∀ (s : State) (q : Fin 32768) (v : U32),
    let x := s.hq q
    (s.hostReaches = true → x.en = true → isCq q = false → x.poll = false → x.prodOk v = true →
      ∃ t, exec (.dbProd q v) s = .next t ∧ t.hq q = { x with host := v } ∧ (∀ j, j ≠ q.val → t.hq j = s.hq j) ∧ onlyChanges [.brg] s t) ∧
    (s.hostReaches = true → x.en = true → isCq q = true → x.consOk v = true →
      ∃ t, exec (.dbCons q v) s = .next t ∧ t.hq q = { x with host := v } ∧ (∀ j, j ≠ q.val → t.hq j = s.hq j) ∧ onlyChanges [.brg] s t) ∧
    (x.en = true → isCq q = false → x.poll = true → s.brg.linkDown = false → x.prodOk (BitVec.ofNat 32 (leNat (s.readHost x.base 4))) = true →
      ∃ t, exec (.headerLineReread q) s = .next t ∧ t.hq q = { x with host := BitVec.ofNat 32 (leNat (s.readHost x.base 4)) } ∧ (∀ j, j ≠ q.val → t.hq j = s.hq j) ∧ onlyChanges [.brg] s t) ∧
    (∀ i, (i = .dbProd q v ∧ s.hostReaches = true ∧ (x.en = false ∨ isCq q = true ∨ x.poll = true ∨ x.prodOk v = false)) ∨
        (i = .dbCons q v ∧ s.hostReaches = true ∧ (x.en = false ∨ isCq q = false ∨ x.consOk v = false)) ∨
        (i = .headerLineReread q ∧ x.en = true ∧ isCq q = false ∧ x.poll = true ∧ s.brg.linkDown = false ∧ x.prodOk (BitVec.ofNat 32 (leNat (s.readHost x.base 4))) = false) →
      ∃ t, exec i s = .next t ∧ t.hq q = { x with derr := true } ∧ t.brg.hqDerr = sat32 s.brg.hqDerr 1 ∧ (∀ j, j ≠ q.val → t.hq j = s.hq j) ∧ t.log.seq ≠ s.log.seq ∧
        onlyChanges [.brg, .log] s t) ∧
    (x.en = false ∨ isCq q = true ∨ x.poll = false ∨ s.brg.linkDown = true → exec (.headerLineReread q) s = .next s)) ∧
  (∀ (s : State) (c : Fin 256), s.hostReaches = true →
    let d := s.chan (bridgeBase + c.val)
    (d.stop = true →
      ∃ t, exec (.bridgeDmaResume c) s = .next t ∧
        t.chan (bridgeBase + c.val) = (if d.queue.any Desc.lost then { d with stop := false } else { d with stop := false, queue := [], fetched := d.completed }) ∧
        (∀ j, j ≠ bridgeBase + c.val → t.chan j = s.chan j) ∧ onlyChanges [.dma] s t) ∧
    (d.stop = false → exec (.bridgeDmaResume c) s = .next s) ∧
    ((s.hq c).en = false → exec (.bridgeDmaAbort c) s = .next s)) ∧
  (∀ (s : State) (c : Fin 256), s.hostReaches = true → (s.hq c).en = true →
    let d := s.chan (bridgeBase + c.val)
    let n : U32 := BitVec.ofNat 32 (d.cur.toList.length + d.queue.length)
    let held : U32 := BitVec.ofNat 32 ((s.hq (c + 256)).items.filter CqItem.holdsSlot).length
    ∃ t, exec (.bridgeDmaAbort c) s = .next t ∧
      t.chan (bridgeBase + c.val) = { fetched := d.completed + n, completed := d.completed + n, epoch := d.epoch + 1 } ∧
      (∀ j, j ≠ bridgeBase + c.val → t.chan j = s.chan j) ∧ (t.hq c).dev = (s.hq c).dev + held + n ∧
      (t.hq (c + 256)).items.length = (s.hq (c + 256)).items.length + d.cur.toList.length + d.queue.length ∧
      (∀ j, j ≠ c.val → j ≠ c.val + 256 → t.hq j = s.hq j) ∧ onlyChanges [.brg, .dma] s t)

/-- A numeric consumer index at most 4,096 behind the producer is taken; a greater difference is discarded with cause 0x1 and logged. The mirror's policies and its clear act unless CTL_LOCK.MTRMIR forbids them (cause 0x4). CTL_LOCK sets the bits written and clears none. CTL_DBG sets VIMG and keeps USED unless the debug lock is set. Beats are granted to a served region under beat-stepping. CTL_CLK with an axis that lets it be written, and RGN_CLK.FSET of one region at its FLOW or above under per-region caps, are staged with the value written, and no region's clock has a new ratio yet; under per-region caps CTL_CLK is discarded with cause 0x7. All come over the host link, which is up and answers. (R43, R304, R362, R364, R371, R390, R399, R406, Table 14.2) -/
def Obligations.ActionRegistersActAtOnce : Prop :=
  (∀ (s : State) (v : U32), s.hostReaches = true → v.toNat < 2 ^ 13 →
    ((s.num.prod - v.setWidth 13).toNat ≤ 4096 →
      ∃ t, exec (.consumerIndexWrite v) s = .next t ∧ t.num = { s.num with cons := v.setWidth 13 } ∧ onlyChanges [.num] s t) ∧
    (4096 < (s.num.prod - v.setWidth 13).toNat →
      ∃ t, exec (.consumerIndexWrite v) s = .next t ∧ discards s t 0x400C 0x1 false ∧ t.log.seq ≠ s.log.seq ∧ onlyChanges [.settings, .log] s t)) ∧
  (∀ s : State, s.hostReaches = true →
    (s.set.lock.getLsbD 2 = false →
      (∃ t, exec .overwriteOldest s = .next t ∧ t.mir = { s.mir with stopFull := false, full := false } ∧ onlyChanges [.mir] s t) ∧
      (∃ t, exec .stopAtFull s = .next t ∧ t.mir = { s.mir with stopFull := true } ∧ onlyChanges [.mir] s t) ∧
      (∃ t, exec .clearTheMirror s = .next t ∧ t.mir = { s.mir with recs := [], newest := 0, full := false } ∧ onlyChanges [.mir] s t)) ∧
    (s.set.lock.getLsbD 2 = true → ∀ c, (c = .overwriteOldest ∨ c = .stopAtFull ∨ c = .clearTheMirror) →
      ∃ t, exec c s = .next t ∧ discards s t 0xB000 0x4 false ∧ onlyChanges [.settings] s t)) ∧
  (∀ (s : State) (v : U32), s.hostReaches = true →
    (v.toNat < 8 → ∃ t, exec (.lockBitWrite v) s = .next t ∧ t.set = { s.set with lock := s.set.lock ||| v.setWidth 3 } ∧
      (∀ i, s.set.lock.getLsbD i = true → t.set.lock.getLsbD i = true) ∧ onlyChanges [.settings] s t) ∧
    (8 ≤ v.toNat → ∃ t, exec (.lockBitWrite v) s = .next t ∧ discards s t 0x1020 0x0 false ∧ onlyChanges [.settings] s t) ∧
    (s.set.lock.getLsbD 1 = false → v.toNat < 4 →
      ∃ t, exec (.ctlDbgWrite v) s = .next t ∧ t.keys = { s.keys with vimg := v.getLsbD 0, used := s.keys.used || v.getLsbD 0 } ∧ onlyChanges [.keys] s t) ∧
    (s.set.lock.getLsbD 1 = true → ∃ t, exec (.ctlDbgWrite v) s = .next t ∧ discards s t 0xC100 0x4 false ∧ onlyChanges [.settings] s t)) ∧
  (∀ (s : State) (r : Region) (v : U32), s.hostReaches = true → s.notServed (rgnBase r + 0x20C8) = false →
    (s.modeCourse.diag = 2 →
      ∃ t, exec (.grant r v) s = .next t ∧ t.reg r = { s.reg r with grant := min 65535 ((s.reg r).grant + v.toNat % 65536) } ∧ (∀ p, p ≠ r.val → t.reg p = s.reg p) ∧
        onlyChanges [.regions] s t) ∧
    (s.modeCourse.diag ≠ 2 → ∃ t, exec (.grant r v) s = .next t ∧ discards s t (rgnBase r + 0x20C8) 0x8 false ∧ onlyChanges [.settings] s t)) ∧
  (∀ (s : State) (v : U32) (d : RegDesc), s.hostReaches = true → modDesc 0x9008 = some d → s.reservedDiffers d 0x9008 v = false → d.inRange v = true →
    (s.modeCourse.clock ≠ axisCaps →
      ∃ t, exec (.ctlClkWrite v) s = .next t ∧ t.stagedView 0x9008 = v &&& d.mask ∧ (∀ b, t.setting b = s.setting b) ∧ onlyChanges [.settings] s t) ∧
    (s.modeCourse.clock = axisCaps → ∃ t, exec (.ctlClkWrite v) s = .next t ∧ discards s t 0x9008 0x7 false ∧ onlyChanges [.settings] s t)) ∧
  (∀ (s : State) (r : Region) (v : U32) (d : RegDesc), s.hostReaches = true → s.modeCourse.clock = axisCaps → rgnDesc 0x20C0 = some d → s.notServed (rgnBase r + 0x20C0) = false →
    s.reservedDiffers d (rgnBase r + 0x20C0) v = false → d.inRange v = true → s.flowOf r ≤ fld v.toNat 0 5 →
    ∃ t, exec (.fsetWrite r v) s = .next t ∧ t.stagedView (rgnBase r + 0x20C0) = v &&& d.mask ∧ (∀ b, t.setting b = s.setting b) ∧ onlyChanges [.settings] s t)

/-- A value in range becomes the pending pair and ends an earlier one with CODE 1; one out of range, or with a reserved bit set, is discarded. The complement in the pair's own confirm register ends the pair: CODE 3 in IDLE, during absorption or in a hold for an image fault or worse, CODE 4 for an invalid target, CODE 5 beyond the sparing budget, and otherwise CODE 0 with the fault it imitates absorbed. Any other confirm ends the pair with CODE 2; a confirm with no pair is discarded with cause 0x8, and 1 microsecond without a confirm ends the pair with CODE 1. Values and confirms come over the host link, which is up and answers. (R362, R369, R370, Table 16.6) -/
def Obligations.GuardedActionsTakeAComplementPair : Prop :=
  (∀ (s : State) (g : Guard) (v : U32), s.hostReaches = true → v.toNat / 2 ^ guardBits g = 0 →
    (guardInRange g v = true →
      ∃ t, exec (.guardValueWrite g v) s = .next t ∧ onlyChanges [.grd] s t ∧
        t.grd = match s.grd.pending with
          | none => { s.grd with pending := some (g, v) }
          | some (w, _) => { pending := some (g, v), code := 1, guard := guardNo w, fresh := true }) ∧
    (guardInRange g v = false → ∃ t, exec (.guardValueWrite g v) s = .next t ∧ discards s t (guardAddr g) 0x1 false ∧ onlyChanges [.settings] s t)) ∧
  (∀ (s : State) (g : Guard) (v comp : U32) (i : Instr), (match g with | .fence => i = .ctlGrdFence comp | .rpwr => i = .ctlGrdRpwr comp | .promo => i = .ctlGrdPromo comp) → s.hostReaches = true →
    (s.grd.pending = some (g, v) → comp = ~~~v →
      (s.guardRefused = true →
        ∃ t, exec i s = .next t ∧ t.grd = { pending := none, code := 3, guard := guardNo g, fresh := true } ∧ onlyChanges [.grd] s t) ∧
      (s.guardRefused = false → s.guardFault g v = none →
        ∃ t, exec i s = .next t ∧ t.grd = { pending := none, code := 4, guard := guardNo g, fresh := true } ∧ onlyChanges [.grd] s t) ∧
      (∀ f, s.guardRefused = false → s.guardFault g v = some f → s.beyondBudget f = true →
        ∃ t, exec i s = .next t ∧ t.grd = { pending := none, code := 5, guard := guardNo g, fresh := true } ∧ onlyChanges [.grd] s t) ∧
      (∀ f, s.guardRefused = false → s.guardFault g v = some f → s.beyondBudget f = false →
        ∃ t, exec i s = .next t ∧ t.grd = { pending := none, code := 0, guard := guardNo g, fresh := true } ∧ t = (s.onGrd fun _ => t.grd).takeReport f ∧
          onlyChanges [.sram, .cores, .lregions, .regions, .settings, .grd, .num, .run, .brg, .cfg, .bat, .net, .store, .eng, .flt, .log, .pwr] s t)) ∧
    (∀ w, s.grd.pending = some (w, v) → (w ≠ g ∨ comp ≠ ~~~v) →
      ∃ t, exec i s = .next t ∧ t.grd = { pending := none, code := 2, guard := guardNo w, fresh := true } ∧ onlyChanges [.grd] s t) ∧
    (s.grd.pending = none → ∃ t, exec i s = .next t ∧ discards s t (guardAddr g + 4) 0x8 false ∧ onlyChanges [.settings] s t)) ∧
  (∀ (s : State) (g : Guard) (v : U32), s.grd.pending = some (g, v) →
    ∃ t, exec .guardConfirmTimeout s = .next t ∧ t.grd = { pending := none, code := 1, guard := guardNo g, fresh := true } ∧ onlyChanges [.grd] s t)

/-- A 4-byte write in range and with its reserved bits unchanged to a served setting register puts an immediate setting in force, stages a MICRO or STEP setting (the value in force stays), and puts an EPOCH setting in the staged set, which is LOADING. A write to an active view is discarded with cause 0x5, one to no register is logged, and a poisoned or misaligned one is counted alone. An 8-byte write is the lower and then the upper 4-byte write. A 4-byte read returns the register and clears its clear-on-read bits; a misaligned read returns all ones. The accesses come over the host link, which is up and answers. (R261, R333, R360, R361, R362, R363, R367, Table 12.10) -/
def Obligations.WindowRegistersAreWrittenAndRead : Prop :=
  (∀ (s : State) (a : BitVec 26) (v : U64) (d : RegDesc), s.hostReaches = true → a.toNat % 4 = 0 → activeOf a.toNat = none → s.writeSpecial a.toNat (v.setWidth 32) false = none → regDesc a.toNat = some d →
    s.notServed a.toNat = false → s.reservedDiffers d a.toNat (v.setWidth 32) = false → d.inRange (v.setWidth 32) = true →
    ∃ t, exec (.registerWrite a 4 v false) s = .next t ∧
      (d.swap = .immediate → t.setting a.toNat = v.setWidth 32 &&& d.mask ∧ (∀ b, b ≠ a.toNat → t.setting b = s.setting b) ∧ onlyChanges [.settings] s t) ∧
      (d.swap = .epoch → s.stg.accepts = true → t.stg.st = .loading ∧ t.stg.root = 0 ∧
        ((s.set.staged.find? fun p => p.addr = a.toNat) = none → t.stagedView a.toNat = v.setWidth 32 &&& d.mask) ∧ onlyChanges [.stg] s t) ∧
      (d.swap = .epoch → s.stg.accepts = false → discards s t a.toNat 0x3 false ∧ onlyChanges [.settings] s t) ∧
      (d.swap = .micro ∨ d.swap = .step → t.stagedView a.toNat = v.setWidth 32 &&& d.mask ∧ (∀ b, t.setting b = s.setting b) ∧ onlyChanges [.settings] s t)) ∧
  (∀ (s : State) (a : BitVec 26) (v : U64) (b : Nat), s.hostReaches = true → a.toNat % 4 = 0 → activeOf a.toNat = some b →
    ∃ t, exec (.registerWrite a 4 v false) s = .next t ∧ discards s t a.toNat 0x5 false ∧ onlyChanges [.settings] s t) ∧
  (∀ (s : State) (a : BitVec 26) (v : U64), s.hostReaches = true → a.toNat % 4 = 0 → activeOf a.toNat = none → s.writeSpecial a.toNat (v.setWidth 32) false = none → regDesc a.toNat = none → s.readOwn a.toNat = none →
    ∃ t, exec (.registerWrite a 4 v false) s = .next t ∧ t.log.seq ≠ s.log.seq ∧ onlyChanges [.log] s t) ∧
  (∀ (s : State) (a : BitVec 26) (z : BitVec 4) (v : U64) (poison : Bool), s.hostReaches = true → (poison = true ∨ accessOk a.toNat z.toNat = false) →
    ∃ t, exec (.registerWrite a z v poison) s = .next t ∧ t.brg = { s.brg with hwinRej := sat32 s.brg.hwinRej 1 } ∧ onlyChanges [.brg] s t) ∧
  (∀ (s : State) (a : BitVec 26) (v : U64), s.hostReaches = true → a.toNat % 8 = 0 →
    ∃ u t, exec (.registerWrite a 4 v false) s = .next u ∧ exec (.registerWrite a 8 v false) s = .next t ∧
      (u.hostReaches = true → exec (.registerWrite (a + 4) 4 (v >>> 32) false) u = .next t)) ∧
  (∀ (s : State) (a : BitVec 26), s.hostReaches = true → a.toNat % 4 = 0 →
    ∃ t, exec (.clearOnRead a 4) s = .next t ∧ t.run = { s.run with lastRead := ((s.readReg a.toNat).getD 0).setWidth 64, readOk := true } ∧
      t = (s.clearRc a.toNat).onRun (fun _ => t.run) ∧
      (a = 0x4 → t.set = { s.set with disc := false, slost := false, par := false }) ∧ (a = 0x9020 → t.pwr = { s.pwr with alert := 0 }) ∧
      onlyChanges [.regions, .settings, .grd, .num, .run, .brg, .stg, .cfg, .store, .orc, .prs, .eng, .flt, .pwr, .mir] s t) ∧
  (∀ (s : State) (a : BitVec 26) (z : BitVec 4), s.hostReaches = true → accessOk a.toNat z.toNat = false →
    ∃ t, exec (.clearOnRead a z) s = .next t ∧ t.run = { s.run with lastRead := if z = 4 then 0xFFFFFFFF else 0xFFFFFFFFFFFFFFFF, readOk := false } ∧
      t.brg = { s.brg with hwinRej := sat32 s.brg.hwinRej 1 } ∧ onlyChanges [.run, .brg] s t)

/-- A window write to a mapped exchange line, with the window open and the line no closed reservoir slot, joins what is gathered for that line and changes nothing else; one write gathered is then applied as one line write that stores its bytes there and nowhere else and stamps the line with the step. A write to a closed slot is counted there and at the host; poisoned, closed, course-copy and unmapped writes are counted alone. A window read applies what is gathered for its line and returns the line's bytes, reconstructed if its region is lost, zeros and a count for an unmapped offset, and poison while the mode closes the window. Window accesses come over the host link, which is up and answers. While the management bus answers, a write of an index of Table 14.9 alone selects and reads it, with data it writes the alert enable alone, and anything else is not acknowledged; before 50 ms of standby power and with MOD_RST_N low nothing is answered; a stuck clock resets the interface (log entries 102 and 170). A parity mismatch is reported for a powered core or region, drops a staged value, of a region's block too, and reloads a control die copy of any register outside the region blocks (log entry 171). (R144, R152, R291, R323, R336, R337, R338, R339, R368, Table 14.9) -/
def Obligations.WindowBusAndParityCommandsAct : Prop :=
  (∀ (s : State) (off : BitVec 40) (data : List Byte) (poison : Bool), s.hostReaches = true → 1 ≤ data.length → off.toNat % 64 + data.length ≤ 64 →
    (∀ r bank line, poison = false → s.windowOpen = true → s.holdsCopies off.toNat = false → s.windowAt off.toNat = some (r, bank, line) →
      (s.resClosed r bank line = false →
        ∃ t, exec (.windowWrite off data poison) s = .next t ∧
          t.brg.gather.get [] (lineKey r bank line) = s.brg.gather.get [] (lineKey r bank line) ++ [(off.toNat % 2048, data)] ∧
          (∀ k, k ≠ lineKey r bank line → t.brg.gather.get [] k = s.brg.gather.get [] k) ∧ t.brg = { s.brg with gather := t.brg.gather } ∧ onlyChanges [.brg] s t) ∧
      (s.resClosed r bank line = true →
        ∃ t, exec (.windowWrite off data poison) s = .next t ∧ t.brg = { s.brg with hwinRej := sat32 s.brg.hwinRej 1 } ∧ t.store = { s.store with resRej := sat32 s.store.resRej 1 } ∧
          t.log.seq ≠ s.log.seq ∧ onlyChanges [.brg, .store, .log] s t)) ∧
    (poison = true ∨ s.windowOpen = false ∨ s.holdsCopies off.toNat = true ∨ s.windowAt off.toNat = none →
      ∃ t, exec (.windowWrite off data poison) s = .next t ∧ t.brg = { s.brg with hwinRej := sat32 s.brg.hwinRej 1 } ∧ onlyChanges [.brg] s t)) ∧
  (∀ (s : State) (r bank line o : Nat) (data : List Byte), bank < 1024 → line < 16384 → o + data.length ≤ 2048 → s.brg.gather.get [] (lineKey r bank line) = [(o, data)] →
    let t := s.applyGather (lineKey r bank line)
    stores s.store.mem t.store.mem (lineKey (s.column r) bank line * 2048 + o) data ∧ t.stamp r bank line = s.stepStamp ∧ t.brg = { s.brg with gather := s.brg.gather.erase (lineKey r bank line) } ∧
      onlyChanges [.lregions, .brg, .net, .store, .orc] s t) ∧
  (∀ (s : State) (off : BitVec 40) (len : Nat), s.hostReaches = true → 1 ≤ len → off.toNat % 64 + len ≤ 64 →
    (∀ r bank line, ¬ (s.cfg.image.isSome = true ∧ s.modeCourse.hwin = true) → s.windowAt off.toNat = some (r, bank, line) →
      let u := s.applyGather (lineKey r bank line)
      ∃ t, exec (.windowRead off len) s = .next t ∧ t.run = { u.run with lastWindow := some (((u.servedLine r bank line).drop (off.toNat % 2048)).take len) } ∧ onlyChanges [.run] u t ∧
        (s.brg.gather.get [] (lineKey r bank line) = [] → u = s)) ∧
    (¬ (s.cfg.image.isSome = true ∧ s.modeCourse.hwin = true) → s.windowAt off.toNat = none →
      ∃ t, exec (.windowRead off len) s = .next t ∧ t.run = { s.run with lastWindow := some (List.replicate len 0) } ∧ t.brg = { s.brg with hwinRej := sat32 s.brg.hwinRej 1 } ∧ onlyChanges [.run, .brg] s t) ∧
    (s.cfg.image.isSome = true → s.modeCourse.hwin = true →
      ∃ t, exec (.windowRead off len) s = .next t ∧ t.run = { s.run with lastWindow := none } ∧ onlyChanges [.run] s t)) ∧
  (∀ (s : State) (i : Byte), 50000 ≤ s.pwr.standby → s.pwr.rstLow = false → mbusIndexOk i.toNat = true →
    (∃ t, exec (.managementBusWrite i none) s = .next t ∧ t.pwr = { s.pwr with mbIndex := i, mbNack := false, mbRead := some ((s.readOwn (mbusReg i.toNat)).getD 0) } ∧ onlyChanges [.pwr] s t) ∧
    (∀ v : U32, i = 0x1C → v.toNat < 1024 → s.reservedDiffers ⟨[⟨0, 10, 0, 1023⟩], .immediate, 1023⟩ 0x9024 v = false →
      ∃ t, exec (.managementBusWrite i (some v)) s = .next t ∧ t.setting 0x9024 = v &&& 1023 ∧ t.pwr = { s.pwr with mbIndex := 0x1C, mbNack := false } ∧ onlyChanges [.settings, .pwr] s t) ∧
    (∀ v : U32, i ≠ 0x1C → ∃ t, exec (.managementBusWrite i (some v)) s = .next t ∧ t.pwr = { s.pwr with mbNack := true } ∧ t.log.seq ≠ s.log.seq ∧ onlyChanges [.free, .log, .pwr] s t)) ∧
  (∀ (s : State) (i : Byte) (v : Option U32), 50000 ≤ s.pwr.standby → s.pwr.rstLow = false → mbusIndexOk i.toNat = false →
    ∃ t, exec (.managementBusWrite i v) s = .next t ∧ t.pwr = { s.pwr with mbNack := true } ∧ t.log.seq ≠ s.log.seq ∧ onlyChanges [.free, .log, .pwr] s t) ∧
  (∀ (s : State) (i : Byte) (v : Option U32), s.pwr.standby < 50000 ∨ s.pwr.rstLow = true → exec (.managementBusWrite i v) s = .next s) ∧
  (∀ s : State, ∃ t, exec .managementBusClockStuck s = .next t ∧ t.pwr = { s.pwr with mbIndex := 0, mbNack := false, mbRead := none } ∧ onlyChanges [.pwr] s t) ∧
  (∀ (s : State) (r : Region) (c : PCore), (s.reg r).powered = true →
    (∃ t, exec (.configurationParityScrub (.core r c)) s = .next t ∧ t.bat = { s.bat with faults := s.bat.faults ++ [{ kind := .core r c 0x03 }] } ∧ onlyChanges [.bat] s t) ∧
    (∃ t, exec (.configurationParityScrub (.region r)) s = .next t ∧ t.bat = { s.bat with faults := s.bat.faults ++ [{ kind := .region r 0x13 }] } ∧ onlyChanges [.bat] s t)) ∧
  (∀ (s : State) (a : BitVec 26),
    (s.isStaged a.toNat = true → ∃ t, exec (.configurationParityScrub (.control true a)) s = .next t ∧ t.set.slost = true ∧ t.set.active = s.set.active ∧ t.stagedView a.toNat = s.setting a.toNat ∧
      onlyChanges [.settings, .stg] s t) ∧
    (rgnOf a.toNat = none → (s.readOwn a.toNat).isSome = true →
      ∃ t, exec (.configurationParityScrub (.control false a)) s = .next t ∧ t.set = { s.set with par := true, parCount := sat32 s.set.parCount 1 } ∧ t.log.seq ≠ s.log.seq ∧ onlyChanges [.settings, .log] s t))

/-- In a core that runs, the ready tile operation that R60 picks issues: its fired count rises by one, its waits are taken from the counters, and an accumulator set holds the products of its operands from the stated start, draining if the operation ends its chain; an illegal one halts the core and is reported. A draining set leaves through the drain function: its output and stash elements are the only SRAM bytes written, the set is freed and its emits are sent. A unit whose sends would overrun the core's event queue of 8 entries waits. No other core changes. (R24, R32, R38, R39, R60, R61, R132) -/
def Obligations.TheMatrixEngineIssuesAndDrains : Prop :=
  (∀ (s : State) (r : Region) (c : Core) (i : Nat) (o : TileOp), s.coreRuns r c = true → pickUnit (s.unsplit r) (s.readyTiles r c) = some i →
    (s.coreCourse r c).tiles[i]? = some o →
    let f := (s.core r c).tileFired.get 0 i
    (tileLegal o (s.coreCourse r c).tiles i f = true → (o.drain = true ∨ o.tr.emits = [] ∨ s.queuedRecs r c < 8) →
      let old := if o.init = 2 then (s.core r c).accs.find? (fun a => a.op + 1 = i ∧ a.firing = f) else none
      let accs := s.runTile r c o f (match old with | none => 0 | some a => a.kbase) (match old with | none => s.startAccs r c o f | some a => a.accs)
      ∃ t, exec (.tileOperationIssue r c) s = .next t ∧ (t.core r c).tileFired = (s.core r c).tileFired.set 0 i (f + 1) ∧
        (t.core r c).ctrs = ((s.takeWaits r c o.tr.waits).core r c).ctrs ∧
        (∃ a ∈ (t.core r c).accs, a.op = i ∧ a.firing = f ∧ a.vals = accs.map (·.v) ∧ a.evs = accs.map (·.ev) ∧ a.draining = o.drain) ∧
        t.bat.emits = s.bat.emits ++ (if o.drain then [] else o.tr.emits) ∧
        sameBut {} (coreKey r c) s.cores t.cores ∧ onlyChanges [.cores, .lregions, .regions, .bat] s t) ∧
    (tileLegal o (s.coreCourse r c).tiles i f = true → o.drain = false → o.tr.emits ≠ [] → 8 ≤ s.queuedRecs r c → exec (.tileOperationIssue r c) s = .next s) ∧
    (tileLegal o (s.coreCourse r c).tiles i f = false → s.queuedRecs r c < 8 →
      ∃ t, exec (.tileOperationIssue r c) s = .next t ∧ t.core r c = { s.core r c with halted := true } ∧ t.bat = { s.bat with illegals := s.bat.illegals ++ [⟨r, c, i⟩] } ∧
        sameBut {} (coreKey r c) s.cores t.cores ∧ onlyChanges [.cores, .bat] s t)) ∧
  (∀ (s : State) (r : Region) (c : Core) (a : AccSet) (o : TileOp), (s.core r c).accs.find? (·.draining) = some a → (s.coreCourse r c).tiles[a.op]? = some o →
    (o.tr.emits = [] ∨ s.queuedRecs r c < 8) →
    let ds := (List.range (o.m * o.n)).map fun e =>
      drainElem o (a.vals.getD e 0) (if o.dmode = 2 then s.readElem r c (!o.stf) (opOff o.stash (!o.stf) a.firing (e / o.n) (e % o.n)) else 0)
    ∃ t, exec (.tileDrain r c) s = .next t ∧ t.sram = (s.writeDrain r c o a.firing ds).sram ∧
      (∀ b, (∀ e, e < o.m * o.n →
          ¬ (s.sramBase r c + opOff o.out (!o.outf) a.firing (e / o.n) (e % o.n) ≤ b ∧ b < s.sramBase r c + opOff o.out (!o.outf) a.firing (e / o.n) (e % o.n) + (if !o.outf then 4 else 2)) ∧
          (o.dmode = 1 → o.dstash = true → ¬ (s.sramBase r c + opOff o.stash (!o.stf) a.firing (e / o.n) (e % o.n) ≤ b ∧ b < s.sramBase r c + opOff o.stash (!o.stf) a.firing (e / o.n) (e % o.n) + (if !o.stf then 4 else 2)))) →
        Tab.get (0 : Byte) t.sram b = Tab.get (0 : Byte) s.sram b) ∧
      (t.core r c).accs = (s.core r c).accs.filter (fun b => !(b.op = a.op && b.firing = a.firing)) ∧ t.bat.emits = s.bat.emits ++ o.tr.emits ∧
      sameBut {} (coreKey r c) s.cores t.cores ∧ onlyChanges [.sram, .cores, .lregions, .regions, .bat] s t)

/-- In a core that runs and whose vector engine is free, the ready chain that R60 picks issues: its fired count rises by one, its waits are taken from the counters and the engine is in use; an illegal chain halts the core and is reported. Completion puts the last writes into SRAM at their places and nowhere else, frees the engine and sends the chain's emits; a report or emit waits for room in the core's event queue of 8 entries. No other core changes. (R60, R66, R67, R73, R79, R132) -/
def Obligations.TheVectorEngineIssuesAndCompletes : Prop :=
  (∀ (s : State) (r : Region) (c : Core) (i : Nat) (ch : Chain), s.coreRuns r c = true → (s.core r c).vec = none → pickUnit (s.unsplit r) (s.readyChains r c) = some i →
    (s.coreCourse r c).chains[i]? = some ch →
    let f := (s.core r c).chainFired.get 0 i
    (chainLegal ch f = true →
      ∃ t v, exec (.vectorChainIssue r c) s = .next t ∧ (t.core r c).chainFired = (s.core r c).chainFired.set 0 i (f + 1) ∧
        (t.core r c).ctrs = ((s.takeWaits r c ch.tr.waits).core r c).ctrs ∧ (t.core r c).vec = some v ∧ v.chain = i ∧
        sameBut {} (coreKey r c) s.cores t.cores ∧ onlyChanges [.free, .sram, .cores, .lregions, .regions, .bat] s t) ∧
    (chainLegal ch f = false → s.queuedRecs r c < 8 →
      ∃ t, exec (.vectorChainIssue r c) s = .next t ∧ t.core r c = { s.core r c with halted := true } ∧ t.bat = { s.bat with illegals := s.bat.illegals ++ [⟨r, c, 0x10000 + i⟩] } ∧
        sameBut {} (coreKey r c) s.cores t.cores ∧ onlyChanges [.cores, .bat] s t)) ∧
  (∀ (s : State) (r : Region) (c : Core) (v : VecRun) (ch : Chain), (s.core r c).vec = some v → (s.coreCourse r c).chains[v.chain]? = some ch → (ch.tr.emits = [] ∨ s.queuedRecs r c < 8) →
    ∃ t, exec (.vectorChainComplete r c) s = .next t ∧ t.sram = v.writes.foldl (fun m w => writeMem m (s.sramBase r c + w.1) w.2) s.sram ∧
      (∀ b, (∀ w ∈ v.writes, ¬ (s.sramBase r c + w.1 ≤ b ∧ b < s.sramBase r c + w.1 + w.2.length)) → Tab.get (0 : Byte) t.sram b = Tab.get (0 : Byte) s.sram b) ∧
      (t.core r c).vec = none ∧ t.bat.emits = s.bat.emits ++ ch.tr.emits ∧ sameBut {} (coreKey r c) s.cores t.cores ∧ onlyChanges [.sram, .cores, .lregions, .regions, .bat] s t)

/-- When the context that R93 picks stands at a legal remote operation whose target region has a course in this module, or whose target module has a route, the command of its opcode issues it: its packets join the core's outbound queue, or its vertical port if it is direct, the context advances, its waits are taken and its emits sent; a put, get or compare-and-swap stays outstanding and a reduce completes locally at once. One whose target has neither is rejected: it is logged, sends nothing and faults the core. An operation outside R84 and R86, or of a reserved opcode, halts the core and is reported, as soon as the core's event queue of 8 entries has room for the report. No other core changes. (R84, R86, R87, R91, R92, R93, R94, R102, R115, R116, R132, R252) -/
def Obligations.RemoteOperationsIssueFromTheirContext : Prop :=
  (∀ (s : State) (r : Region) (c : Core) (j : Nat) (i : CtxInstr) (q : Rmo), s.coreRuns r c = true → s.pickCtx r c = some j → s.nextInstr r c j = some i → i.op = .rmo q →
    let x := mkIssue (s.ctx r c j) j q
    let tag := s.net.nextTag * 4096 + x.pos
    let ps := s.packetsOf r c x tag
    let served := if s.isOwn (gMod x.gaddr) then s.inService (gRegion x.gaddr) else !s.unserved (s.packetLayout (ps.headD {})) (gMod x.gaddr)
    (x.legal = true → served = true →
      ∃ t, (q.op = 0 → exec (.put r c) s = .next t) ∧ (q.op = 1 → exec (.get r c) s = .next t) ∧ (q.op = 2 → exec (.reduceAdd r c) s = .next t) ∧ (q.op = 3 → exec (.reduceMax r c) s = .next t) ∧
        (q.op = 4 → exec (.reduceXor r c) s = .next t) ∧ (q.op = 5 → exec (.compareAndSwap r c) s = .next t) ∧
        t.net = { s.net with nextTag := s.net.nextTag + 1 } ∧
        (t.core r c).outq = (s.core r c).outq ++ (if s.isDirect r c x then [] else ps) ∧ (t.core r c).port = (s.core r c).port ++ (if s.isDirect r c x then ps else []) ∧
        t.ctx r c j = { (s.ctx r c j).advance with outst := (s.ctx r c j).advance.outst ++
          (if opChannel q.op = 2 then [] else [{ tag := tag, kind := q.op, left := if q.op = 1 then ceilDiv (8 * q.len) 512 else 1, ltok := q.ltok, laddr := x.laddr, gaddr := x.gaddr }]) } ∧
        (opChannel q.op ≠ 2 → (t.core r c).ctrs = ((s.takeWaits r c i.tr.waits).core r c).ctrs) ∧
        (∀ k, opChannel q.op = 2 → tokOf q.ltok = some k → t.ctr r c k = min ((s.takeWaits r c i.tr.waits).ctr r c k + 1) 65535) ∧
        t.bat.emits = s.bat.emits ++ i.tr.emits ∧ sameBut {} (coreKey r c) s.cores t.cores ∧ onlyChanges [.cores, .lregions, .regions, .bat, .net] s t) ∧
    (x.legal = true → served = false →
      ∃ t, (q.op = 0 → exec (.put r c) s = .next t) ∧ (q.op = 1 → exec (.get r c) s = .next t) ∧ (q.op = 2 → exec (.reduceAdd r c) s = .next t) ∧ (q.op = 3 → exec (.reduceMax r c) s = .next t) ∧
        (q.op = 4 → exec (.reduceXor r c) s = .next t) ∧ (q.op = 5 → exec (.compareAndSwap r c) s = .next t) ∧
        (t.core r c).halted = true ∧ (t.core r c).outq = (s.core r c).outq ∧ (t.core r c).port = (s.core r c).port ∧ t.log.seq ≠ s.log.seq ∧
        sameBut {} (coreKey r c) s.cores t.cores ∧ onlyChanges [.cores, .lregions, .regions, .bat, .net, .log] s t) ∧
    (x.legal = false → 8 ≤ s.queuedRecs r c → ∀ k ∈ [Instr.put r c, .get r c, .reduceAdd r c, .reduceMax r c, .reduceXor r c, .compareAndSwap r c], exec k s = .next s) ∧
    (x.legal = false → s.queuedRecs r c < 8 →
      ∃ t, (q.op = 0 ∨ 5 < q.op → exec (.put r c) s = .next t) ∧ (q.op = 1 ∨ 5 < q.op → exec (.get r c) s = .next t) ∧ (q.op = 2 ∨ 5 < q.op → exec (.reduceAdd r c) s = .next t) ∧
        (q.op = 3 ∨ 5 < q.op → exec (.reduceMax r c) s = .next t) ∧ (q.op = 4 ∨ 5 < q.op → exec (.reduceXor r c) s = .next t) ∧ (q.op = 5 ∨ 5 < q.op → exec (.compareAndSwap r c) s = .next t) ∧
        t.core r c = { s.core r c with halted := true } ∧ t.bat = { s.bat with illegals := s.bat.illegals ++ [⟨r, c, ctxPoint j (s.ctx r c j).pc⟩] } ∧
        sameBut {} (coreKey r c) s.cores t.cores ∧ onlyChanges [.cores, .bat] s t))

/-- When the context that R93 picks stands at one of these instructions, its command issues it: the waits are taken, the emits are sent and the round robin moves to that context, which advances past the instruction and round the loops that end there. A launch also sends the sequence with its start beat to every core of the region, a loop enters its body with its count, unless four loops enclose it, when the core faults as illegal once its event queue has room for the report, and an end ends the context for the step. No other context's state and no other core changes. (R93, R96, R98, R109, R132, R252) -/
def Obligations.ContextInstructionsIssueInProgramOrder : Prop :=
  ∀ (s : State) (r : Region) (c : Core) (j : Nat) (i : CtxInstr), s.coreRuns r c = true → s.pickCtx r c = some j → s.nextInstr r c j = some i →
    let ws := ((s.takeWaits r c i.tr.waits).core r c).ctrs
    let kept (t : State) : Prop := (∀ k, k ≠ j → t.ctx r c k = s.ctx r c k) ∧ sameBut {} (coreKey r c) s.cores t.cores ∧ onlyChanges [.cores, .lregions, .bat] s t
    let issued (t : State) : Prop := (t.core r c).ctrs = ws ∧ (t.core r c).lastCtx = j ∧ t.bat.emits = s.bat.emits ++ i.tr.emits ∧ kept t
    (i.op = .wait → ∃ t, exec (.wait r c) s = .next t ∧ issued t ∧ t.ctx r c j = (s.ctx r c j).advance) ∧
    (i.op = .emit → ∃ t, exec (.emit r c) s = .next t ∧ issued t ∧ t.ctx r c j = (s.ctx r c j).advance) ∧
    (∀ q, i.op = .launch q → ∃ t, exec (.launch r c) s = .next t ∧ issued t ∧ t.ctx r c j = (s.ctx r c j).advance ∧
      t.bat.launches = s.bat.launches ++ (s.courseCores r).map fun k => ⟨r, k, q, ((s.reg ((s.phys r).getD 63)).beat.toNat + s.launchLead r) % 2 ^ 48⟩) ∧
    (∀ n b, i.op = .loop n b → (s.ctx r c j).loops.length < 4 →
      ∃ t, exec (.loop r c) s = .next t ∧ issued t ∧ t.ctx r c j = (s.ctx r c j).enter (s.ctx r c j).pc n b) ∧
    (∀ n b, i.op = .loop n b → 4 ≤ (s.ctx r c j).loops.length → 8 ≤ s.queuedRecs r c → exec (.loop r c) s = .next s) ∧
    (∀ n b, i.op = .loop n b → 4 ≤ (s.ctx r c j).loops.length → s.queuedRecs r c < 8 →
      ∃ t, exec (.loop r c) s = .next t ∧ t.core r c = { s.core r c with halted := true } ∧ t.bat = { s.bat with illegals := s.bat.illegals ++ [⟨r, c, ctxPoint j (s.ctx r c j).pc⟩] } ∧ kept t) ∧
    (i.op = .stop → ∃ t, exec (.endProg r c) s = .next t ∧ issued t ∧ t.ctx r c j = { (s.ctx r c j).advance with ended := true })

/-- The oldest operation of a core's inbound queues whose range lies in its SRAM is applied there: a put stores its bytes, a reduce the combined ones, a compare-and-swap the new word if the target equals the expected one, a get none, and no other SRAM byte changes; the target token rises once, at a put's last packet, and by the count a reduce carries; the answer joins the outbound queue. One outside is rejected. At a store interface, an accepted put stores its bytes in its exchange lines and a get changes no byte; a rejected one is counted and logged. The oldest get at a core's vertical port is served up to 512 bytes at a time, each part as one data packet with its place in the operation, into the port's own buffer of 8 KiB. (R87, R88, R89, R91, R92, R102, R116, R140, Table 5.1) -/
def Obligations.RemoteOperationsApplyAtTheirTarget : Prop :=
  (∀ (s u : State) (r : Region) (c : Core) (p : Packet), s.takeCore r c isOp = some (p, u) → coreRangeOk p = true →
    let off := gOffset p.gaddr
    let old := s.readSram r c off p.payload.length
    let bytes := if p.kind = 0 then p.payload else if p.kind = 1 then [] else if p.kind = 5 then (casWords (s.readSram r c off 8) p.payload).2 else (reduceBytes p.kind old p.payload).1
    let answer := if p.kind = 0 then (if p.last then [responseBase s r c 0 p 9] else []) else if p.kind = 1 then getData (responseBase s r c 0 p 8) (s.readSram r c off (8 * p.glen))
      else if p.kind = 5 then [{ responseBase s r c 0 p 10 with payload := s.readSram r c off 8 }] else []
    ∃ t, exec (.remoteOperationApply (.core r c)) s = .next t ∧ stores s.sram t.sram (s.sramBase r c + off) bytes ∧ (t.core r c).outq = (s.core r c).outq ++ answer ∧
      (∀ k, tokOf p.ttok = some k → (p.kind = 0 → p.last = true) → t.ctr r c k = min (s.ctr r c k + (if 2 ≤ p.kind ∧ p.kind ≤ 4 then p.count else 1)) 65535) ∧
      (tokOf p.ttok = none ∨ (p.kind = 0 ∧ p.last = false) → (t.core r c).ctrs = (s.core r c).ctrs) ∧
      sameBut {} (coreKey r c) s.cores t.cores ∧ onlyChanges [.sram, .cores, .regions, .bat] s t) ∧
  (∀ (s u : State) (r : Region) (c : Core) (p : Packet), s.takeCore r c isOp = some (p, u) → coreRangeOk p = false →
    (gOffset p.gaddr = p.base → ∃ t, exec (.remoteOperationApply (.core r c)) s = .next t ∧ t.log.seq ≠ s.log.seq ∧ onlyChanges [.cores, .regions, .bat, .log] s t) ∧
    (gOffset p.gaddr ≠ p.base → exec (.remoteOperationApply (.core r c)) s = .next u)) ∧
  (∀ (s u : State) (r : Region) (p : Packet), s.takeOrdered r (s.storeOp r) = some (p, u) → u.storeClass r false p = .ok →
    let bank := gIndex p.gaddr
    let off := gOffset p.gaddr
    let answer := if p.kind = 1 then getData (responseBase s r 0 1 p 8) (s.readStore r bank off (8 * p.glen)) else if p.last then [responseBase s r 0 1 p 9] else []
    (p.kind = 1 → ∃ t, exec (.remoteOperationApply (.store r)) s = .next t ∧ (t.lreg r).outq = (s.lreg r).outq ++ answer ∧ onlyChanges [.lregions, .regions, .bat] s t) ∧
    (p.kind ≠ 1 → p.payload.length ≤ 2048 → ∃ t, exec (.remoteOperationApply (.store r)) s = .next t ∧
      stores s.store.mem t.store.mem (lineKey (s.column r) bank 0 * 2048 + off) p.payload ∧ (∃ x, (t.lreg r).outq = x ++ answer) ∧ onlyChanges [.lregions, .regions, .bat, .net, .store, .orc, .out] s t)) ∧
  (∀ (s u : State) (r : Region) (p : Packet), s.takeOrdered r (s.storeOp r) = some (p, u) → u.storeClass r false p = .reject → gOffset p.gaddr = p.base →
    ∃ t, exec (.remoteOperationApply (.store r)) s = .next t ∧ t.log.seq ≠ s.log.seq ∧ onlyChanges [.cores, .lregions, .regions, .bat, .log] s t) ∧
  (∀ (s : State) (r : Region) (c : Core) (p : Packet) (rest : List Packet), (s.core r c).port = p :: rest → s.lineWaits r p = false → p.kind = 1 → s.storeClass r true p = .ok →
    (s.portHeld r c + min 512 (8 * p.glen) ≤ 8192 →
      ∃ t, exec (.remoteOperationApply (.port r c)) s = .next t ∧ (t.core r c).port = portRest p ++ rest ∧
        (t.core r c).ported = (s.core r c).ported ++ portAnswers p (getData (responseBase s r c 1 p 8) (s.readStore r (gIndex p.gaddr) (gOffset p.gaddr) (8 * min 64 p.glen))) ∧
        sameBut {} (coreKey r c) s.cores t.cores ∧ onlyChanges [.cores, .lregions, .regions, .bat] s t) ∧
    (8192 < s.portHeld r c + min 512 (8 * p.glen) → exec (.remoteOperationApply (.port r c)) s = .next s))

/-- The oldest answer of a kind in a core's inbound queues finds the context that has its operation outstanding. Get data packet k is written at the local address plus 512k, a compare-and-swap result at the third word of the local operand, and an acknowledgement nowhere; no other SRAM byte changes. The last answer of an operation removes it from those outstanding and raises its local token once, saturating; an earlier one of a get leaves it outstanding with one packet less. No other core changes. (R87, R91, R94, R97) -/
def Obligations.RemoteOperationsCompleteAtTheirIssuer : Prop :=
  ∀ (s u : State) (r : Region) (c : Core) (p : Packet) (j : Nat) (o : Outst),
    let finished (t : State) : Prop :=
      t.ctx r c j = { s.ctx r c j with outst := (s.ctx r c j).outst.filter fun y => y.tag ≠ o.tag } ∧
      (∀ k, tokOf o.ltok = some k → t.ctr r c k = min (s.ctr r c k + 1) 65535) ∧ (tokOf o.ltok = none → (t.core r c).ctrs = (s.core r c).ctrs) ∧
      sameBut {} (coreKey r c) s.cores t.cores
    (s.takeCore r c (fun p => p.kind = 8) = some (p, u) → u.findOutst r c p.tag 1 = some (j, o) →
      ∃ t, exec (.getDataArrival r c) s = .next t ∧ stores s.sram t.sram (s.sramBase r c + (o.laddr + 512 * p.pidx)) p.payload ∧
        (o.left ≤ 1 → finished t) ∧
        (1 < o.left → t.ctx r c j = { s.ctx r c j with outst := (s.ctx r c j).outst.map fun y => if y.tag = o.tag then { y with left := y.left - 1 } else y } ∧
          (t.core r c).ctrs = (s.core r c).ctrs ∧ sameBut {} (coreKey r c) s.cores t.cores) ∧
        onlyChanges [.sram, .cores, .lregions, .regions, .bat] s t) ∧
    (s.takeCore r c (fun p => p.kind = 9) = some (p, u) → u.findOutst r c p.tag 0 = some (j, o) →
      ∃ t, exec (.putAcknowledgement r c) s = .next t ∧ finished t ∧ onlyChanges [.cores, .lregions, .regions, .bat] s t) ∧
    (s.takeCore r c (fun p => p.kind = 10) = some (p, u) → u.findOutst r c p.tag 5 = some (j, o) →
      ∃ t, exec (.compareAndSwapResult r c) s = .next t ∧ stores s.sram t.sram (s.sramBase r c + (o.laddr + 16)) (p.payload.take 8) ∧ finished t ∧
        onlyChanges [.sram, .cores, .lregions, .regions, .bat] s t)

/-- Delivering emit i takes it off the network and adds its count to the counter it names: a host counter wraps, a core's, a store interface's or a DMA channel's saturates at 65535; then feeds that its counters complete are settled and fingerprints that waited are compared. A configuration write puts its word into a unit of a powered region and nowhere else, a read request sends back the word the unit holds, and the response of place i reaches the requester (log entry 38). (R97, R98, R130) -/
def Obligations.TheBattenNetworkDeliversEmitsAndConfiguration : Prop :=
  (∀ (s : State) (i : Nat), exec (.emitArrival i) s = .next (s.takeEmit i).settleFeeds.compareWaiting) ∧
  (∀ (s : State) (i : Nat) (e : Emit), s.bat.emits[i]? = some e → s.prs.waitFp = [] →
    (e.region = 63 → s.run.feeds = [] → ∃ t, exec (.emitArrival i) s = .next t ∧ t.run = { s.run with prog := s.run.prog.upd 0 (e.ctr % 256) (· + BitVec.ofNat 32 e.count) } ∧
      t.bat = { s.bat with emits := dropAt s.bat.emits i } ∧ onlyChanges [.run, .bat] s t) ∧
    (e.region ≠ 63 → e.unit < 896 → ∃ t, exec (.emitArrival i) s = .next t ∧ t.ctr e.region e.unit e.ctr = min (s.ctr e.region e.unit e.ctr + e.count) 65535 ∧ t.bat.emits = dropAt s.bat.emits i ∧
      sameBut {} (coreKey e.region e.unit) s.cores t.cores ∧ (s.run.feeds = [] → onlyChanges [.cores, .regions, .bat] s t) ∧
      onlyChanges [.free, .cores, .lregions, .regions, .settings, .num, .run, .brg, .stg, .bat, .net, .store, .orc, .flt, .pwr] s t) ∧
    (e.region ≠ 63 → (e.unit = 0x0400 ∨ e.unit = 0x0401) → e.ctr < 256 → ∃ t, exec (.emitArrival i) s = .next t ∧ t.siCtr e.region e.ctr = min (s.siCtr e.region e.ctr + e.count) 65535 ∧ t.bat.emits = dropAt s.bat.emits i ∧
      (s.run.feeds = [] → sameBut {} e.region s.lregions t.lregions ∧ onlyChanges [.lregions, .regions, .bat] s t) ∧
      onlyChanges [.free, .lregions, .regions, .settings, .num, .run, .brg, .stg, .bat, .net, .store, .orc, .flt, .pwr] s t) ∧
    (e.region ≠ 63 → 0x500 ≤ e.unit → e.unit < 0x580 → s.run.feeds = [] →
      let k := e.region * 128 + (e.unit - 0x500)
      ∃ t, exec (.emitArrival i) s = .next t ∧ (t.chan k).ctrs.get 0 e.ctr = min ((s.chan k).ctrs.get 0 e.ctr + e.count) 65535 ∧ (∀ j, j ≠ k → t.chan j = s.chan j) ∧
        t.bat.emits = dropAt s.bat.emits i ∧ onlyChanges [.cores, .regions, .bat, .dma] s t)) ∧
  (∀ (s : State) (r : Region) (unit : U16) (off data : U32), (s.reg r).powered = true →
    (∃ t, exec (.configurationWrite r unit off data) s = .next t ∧ t.reg r = { s.reg r with cfg := (s.reg r).cfg.set 0 (cfgKey unit off) data } ∧ sameBut {} r.val s.regions t.regions ∧ onlyChanges [.regions] s t) ∧
    (∃ t, exec (.configurationReadRequest r unit off) s = .next t ∧
      t.bat = { s.bat with cfgs := s.bat.cfgs ++ [{ region := r, unit := unit, off := off, data := (s.reg r).cfg.get 0 (cfgKey unit off) }] } ∧ onlyChanges [.bat] s t)) ∧
  (∀ (s : State) (i : Nat), i < s.bat.cfgs.length →
    ∃ t x, s.bat.cfgs[i]? = some x ∧ exec (.configurationReadResponse i) s = .next t ∧ t.bat = { s.bat with cfgs := dropAt s.bat.cfgs i, cfgRead := some x } ∧ onlyChanges [.bat] s t)

/-- A launch that arrives before its start beat adds its sequence to those its core runs, unless the core has no entry of it; a late one is counted, marks the region late and makes the core report itself. A core's earliest due beat-table entry sends a group from SRAM, or takes the clean group that has arrived on its port, writes it to SRAM, passes it on, or both, and raises its token; bytes of SRAM outside the group stay. A group reaches the neighbour's facing port one beat later. An entry with a reserved field halts the core and is reported. Both reports wait for room in the core's event queue of 8 entries. Beats are compared modulo 2^48 (log entry 124). (R107, R108, R109, R110, R112, R124, R132) -/
def Obligations.TheScheduledPlaneRunsItsEntries : Prop :=
  (∀ (s : State) (r : Region) (c : Core) (l : LaunchMsg) (p : Nat), (s.bat.launches.find? fun l => l.lregion = r.val && l.core = c.val) = some l → s.phys r = some p →
    (0 < beatDist (s.reg p).beat l.start → ((s.coreCourse r c).seqs.getD l.seq {}).count = 0 → exec (.launchArrival r c) s = .next (s.onBat fun b => { b with launches := b.launches.erase l })) ∧
    (0 < beatDist (s.reg p).beat l.start → ((s.coreCourse r c).seqs.getD l.seq {}).count ≠ 0 → ∃ t, exec (.launchArrival r c) s = .next t ∧ t.core r c = { s.core r c with seqs := (s.core r c).seqs ++ [{ seq := l.seq, start := l.start }] } ∧
      t.bat = { s.bat with launches := s.bat.launches.erase l } ∧ sameBut {} (coreKey r c) s.cores t.cores ∧ onlyChanges [.cores, .bat] s t) ∧
    (beatDist (s.reg p).beat l.start ≤ 0 → 8 ≤ s.queuedRecs r c → exec (.launchArrival r c) s = .next s) ∧
    (beatDist (s.reg p).beat l.start ≤ 0 → s.queuedRecs r c < 8 → ∃ t, exec (.launchArrival r c) s = .next t ∧ (t.reg p).late = true ∧ (t.reg p).counts.get 0 0x2054 = (s.reg p).counts.get 0 0x2054 + 1 ∧
      t.bat.launches = s.bat.launches.erase l ∧ sameBut {} p s.regions t.regions ∧ onlyChanges [.regions, .bat] s t)) ∧
  (∀ (s : State) (r : Region) (c : Core) (err : LinkErr) (t k i : Nat), s.coreRuns r c = true → earliestBeat (s.reg ((s.phys r).getD 63)).beat (s.nextBeats r c) = some (t, k, i) → beatDist (s.reg ((s.phys r).getD 63)).beat t ≤ 0 →
    let b := (s.coreCourse r c).beats.getD i {}
    let legal := b.soff ≤ 20479 ∧ b.kind ≤ 3 ∧ b.pin ≤ 3 ∧ b.pout ≤ 3
    let g := (s.core r c).wires.get [] (wireKey b.pin t)
    let token (u : State) : Prop := ∀ q, tokOf b.etok = some q → u.ctr r c q = min (s.ctr r c q + 1) 65535
    let passed (u : State) (d : List Byte) : Prop := ∀ n, neighbour c b.pout = some n → (u.core r n).wires.get [] (wireKey (facing b.pout) (t + 1)) = d
    (¬ legal → 8 ≤ s.queuedRecs r c → exec (.beatTableEntry r c err) s = .next s) ∧
    (¬ legal → s.queuedRecs r c < 8 → ∃ u, exec (.beatTableEntry r c err) s = .next u ∧ u.core r c = { s.core r c with halted := true } ∧ u.bat = { s.bat with illegals := s.bat.illegals ++ [⟨r, c, 0x10000000 + i⟩] } ∧ onlyChanges [.cores, .bat] s u) ∧
    (legal → b.kind = 0 → ∃ u, exec (.beatTableEntry r c err) s = .next u ∧ passed u (s.readSram r c (b.soff * 64) 64) ∧ token u ∧ onlyChanges [.cores, .regions, .bat] s u) ∧
    (legal → (b.kind = 1 ∨ b.kind = 3) → g ≠ [] → err = .clean → ∃ u, exec (.beatTableEntry r c err) s = .next u ∧ stores s.sram u.sram (s.sramBase r c + b.soff * 64) g ∧
      (b.kind = 3 → passed u g) ∧ token u ∧ onlyChanges [.sram, .cores, .regions, .bat] s u) ∧
    (legal → b.kind = 2 → g ≠ [] → err = .clean → ∃ u, exec (.beatTableEntry r c err) s = .next u ∧ passed u g ∧ token u ∧ onlyChanges [.cores, .regions, .bat] s u))

/-- Record i leaves the network and enters the ring at the producer index, which rises with the sequence number, or is dropped and counted when the ring holds 4096; gradient flags of the step join the step summary. An expired record is discarded and counted for its core; one of a press or a store interface has no count. A micro-batch report raises the highest begun, or joins its region's summaries; a hold token binds its region at the greater of H and the highest it has begun; when every region has completed H the module is HELD there, with the cause of the hold. (R40, R41, R42, R43, R45, R46, R47, R132, R350) -/
def Obligations.NumericRecordsAndHoldsFollowTheirRules : Prop :=
  (∀ (s : State) (i : Nat) (x : NumRec), s.bat.nums[i]? = some x →
    ∃ t, exec (.numericRecord i) s = .next t ∧ t.bat = { s.bat with nums := dropAt s.bat.nums i } ∧
      (s.num.fill ≠ 4096 → t.num.ring = s.num.ring.set {} (s.num.prod.toNat % 4096) { item := x, seq := s.num.seq } ∧ t.num.prod = s.num.prod + 1 ∧ t.num.seq = s.num.seq + 1 ∧ t.num.drop = s.num.drop) ∧
      (s.num.fill = 4096 → t.num.ring = s.num.ring ∧ t.num.prod = s.num.prod ∧ t.num.seq = s.num.seq ∧ t.num.drop = sat32 s.num.drop 1 ∧ t.num.ovfl = true) ∧
      t.num.cons = s.num.cons ∧ t.num.summary = (if recGrad x.w0 = true ∧ x.step = s.run.step then s.num.summary ||| recFlags x.w0 else s.num.summary) ∧ onlyChanges [.lregions, .num, .bat] s t) ∧
  (∀ (s : State) (i : Nat) (x : NumRec), s.bat.nums[i]? = some x →
    ∃ t, exec (.numericRecordExpiry i) s = .next t ∧ t.bat = { s.bat with nums := dropAt s.bat.nums i } ∧ 
      (x.store = false → x.lcore ≠ 0x3FF → t.reg x.pregion = { s.reg x.pregion with numDrop := (s.reg x.pregion).numDrop.upd 0 x.pcore (sat32 · 1) } ∧ sameBut {} x.pregion s.regions t.regions) ∧
      (x.store = true ∨ x.lcore = 0x3FF → t.regions = s.regions) ∧ onlyChanges [.regions, .bat] s t) ∧
  (∀ (s : State) (i : Nat) (m : MbReport), s.bat.mbs[i]? = some m →
    ∃ t, exec (.microBatchReport i) s = .next t ∧ t.bat = { s.bat with mbs := dropAt s.bat.mbs i } ∧
      (m.ended = false → t.num = { s.num with top := max s.num.top (m.n + 1) } ∧ (s.flt.replayTo ≤ m.n → t.flt.replaying = false)) ∧
      (m.ended = true → t.num.done = noteMax s.num.done m.lregion (m.n + 1) ∧ t.num.summary = s.num.summary ||| m.grad ∧ t.flt = s.flt ∧ t.set = s.set) ∧
      onlyChanges [.lregions, .settings, .num, .bat, .flt] s t) ∧
  (∀ (s : State) (r : Region) (h : Nat), s.num.hold = some h → s.inService r = true → s.num.held = false →
    let n := max h ((s.lreg r).mbBegun - 1)
    ∃ t, exec (.holdToken r) s = .next t ∧ (t.lreg r).holdTok = some n ∧ t.num = { s.num with hold := some n, heard := noteMax s.num.heard r n } ∧ onlyChanges [.lregions, .num, .bat] s t) ∧
  (∀ (s : State) (h : Nat), s.num.hold = some h → s.holdComplete h = true → s.num.held = false → s.run.st = .running →
    (s.num.holdNumeric = true → ∃ t, exec .holdReached s = .next t ∧ t.num = { s.num with held := true, trig := true, hmb := BitVec.ofNat 12 h } ∧ t.run.st = .held ∧ t.run.hcause = 1 ∧
      t.run.atStep = !s.run.inStep ∧ onlyChanges [.num, .run, .brg, .pwr] s t) ∧
    (s.num.holdNumeric = false → h ≠ s.lastMb → ∃ t, exec .holdReached s = .next t ∧ t.num = { s.num with held := true, hmb := BitVec.ofNat 12 h } ∧ t.run.st = .held ∧ t.run.hcause = 2 ∧
      t.run.atStep = false ∧ onlyChanges [.num, .run, .brg] s t))

/-- A region whose work of the step is complete reports its end and fires no more. When every region has, with every delta sent since acknowledged and no hold or recovery still going on, the step commits: the step counter rises by one, the step-completion event posts the step that ended with its summary, and the loss scale is updated before the boundary goes on. A region that takes the commit token becomes active, latches its counts, evaluates its schedules and writes its scale cells, the only SRAM bytes written; a region already active takes the staged settings alone (log entry 112). (R19, R22, R64, R174, R176, R177, R350, R364) -/
def Obligations.StepsEndAndCommitAtTheirBoundary : Prop :=
  (∀ (s : State) (r : Region), s.regionRuns r = true → (s.lreg r).endSent = false → s.stepDone r = true →
    ∃ t, exec (.endOfStepReport r) s = .next t ∧ t.lreg r = { s.lreg r with active := false, endSent := true } ∧ t.run = { s.run with ended := s.run.ended ++ [r.val] } ∧
      sameBut {} r.val s.lregions t.lregions ∧ onlyChanges [.lregions, .run] s t) ∧
  (∀ s : State, s.mayCommit = true →
    let released := s.onStore fun t => { t with slots := t.slots.set 0 (s.slotFor s.run.step) 0 }
    ∃ t, exec .stepCommit s = .next t ∧ t.run.step = s.run.step + 1 ∧ (t.run.events.get {} 1).pend = true ∧ (t.run.events.get {} 1).res0 = s.run.step ∧ (t.run.events.get {} 1).res1 = released.stepRes1 ∧
      t.prs.exp = s.updateScale.prs.exp ∧ onlyChanges [.free, .cores, .lregions, .regions, .settings, .num, .run, .brg, .stg, .net, .store, .orc, .prs, .flt, .pwr] s t) ∧
  (∀ (s : State) (r : Region) (p : Nat), s.run.tokens.contains r.val = true → s.phys r = some p →
    ((s.lreg r).active = false → ∃ t, exec (.commitToken r) s = .next t ∧ t.run = { s.run with tokens := s.run.tokens.filter (· ≠ r.val) } ∧ (t.lreg r).active = true ∧ (t.lreg r).counted = false ∧
      (t.lreg r).lrs = s.pressCourse.scheds.map (fun c => w64 (schedValue c s.run.step)) ∧
      ((s.lreg r).counted = false → (t.reg p).counts = [] ∧ (t.reg p).latched = latchedOf p s.cfg.epoch s.run.step (s.beatUse p) (s.reg p).counts) ∧
      (∀ b, (∀ c ∈ s.pressCourse.cells, c.1 = r.val → ¬ (s.sramBase r c.2.1 + c.2.2 ≤ b ∧ b < s.sramBase r c.2.1 + c.2.2 + 4)) → Tab.get (0 : Byte) t.sram b = Tab.get (0 : Byte) s.sram b) ∧
      sameBut {} r.val s.lregions t.lregions ∧ onlyChanges [.sram, .lregions, .regions, .settings, .run, .bat, .log] s t) ∧
    ((s.lreg r).active = true → ∃ t, exec (.commitToken r) s = .next t ∧ t.run = { s.run with tokens := s.run.tokens.filter (· ≠ r.val) } ∧ onlyChanges [.regions, .settings, .run, .log] s t))

/-- At a running router an output that chooses a waiting head packet sends it whole: the packet leaves its queue, and it joins the neighbour's buffer of its class and leg over a mesh port (a reduce there may merge instead), or the core's inbound queue of its priority over the local port. A transfer that is uncorrectable leaves the queues alone, counts the retransmission and its flits and keeps the packet for the next transfer of that output; the third is reported as a fault of the region. An output with nothing to send changes nothing beyond what entered and its wait count. (R113, R120, R121, R124, R133) -/
def Obligations.TheBoundedPlaneForwardsPackets : Prop :=
  (∀ (s : State) (router : Fin 1344) (out : Fin 7) (err : LinkErr) (key : Nat) (p : Packet), s.routerRuns router = true → err ≠ .uncorrectable →
    (s.inject router).choose router out = some (key, p) →
    let v := (s.inject router).noteSent router out key p
    ∃ t, exec (.packetForward router out err) s = .next t ∧ (t.router router).q = ((s.inject router).router router).q.erase (key, p) ∧
      (∀ m d, out.val < 4 → meshNext router out = some m → v.destOf p = some d → (isReduce p && v.combining m) = false →
        (t.router m).q = ((s.inject router).router m).q ++ [(bufKey ((out.val + 2) % 4) p.vc p.prio (legAt router d p), { p with leg := legAt router d p })]) ∧
      (∀ r, out.val = localPort → p.kind ≠ 14 → p.kind ≠ 15 → v.leavesModule p = false → v.logicalOf (router / 28) = some r →
        t.core r (gIndex p.gaddr) = (if p.prio then { (s.inject router).core r (gIndex p.gaddr) with inHi := ((s.inject router).core r (gIndex p.gaddr)).inHi ++ [p] }
          else { (s.inject router).core r (gIndex p.gaddr) with inNo := ((s.inject router).core r (gIndex p.gaddr)).inNo ++ [p] })) ∧
      onlyChanges [.free, .cores, .lregions, .regions, .bat, .net, .store, .orc, .dma, .eng, .flt, .log, .out] s t) ∧
  (∀ (s : State) (router : Fin 1344) (out : Fin 7) (key : Nat) (p : Packet), s.routerRuns router = true → (s.inject router).choose router out = some (key, p) →
    ∃ t, exec (.packetForward router out .uncorrectable) s = .next t ∧
      t.router router = { (s.inject router).router router with
        retries := ((s.inject router).router router).retries.set 0 out (((s.inject router).router router).retries.get 0 out + 1)
        resend := ((s.inject router).router router).resend.set none out (some (key, p))
        high := (t.router router).high } ∧
      (t.reg (router / 28)).frtx = true ∧ (t.reg (router / 28)).counts.get 0 0x2048 = ((s.inject router).reg (router / 28)).counts.get 0 0x2048 + flits p ∧
      (((s.inject router).router router).retries.get 0 out = 2 → ∃ r : Region, r.val = router.val / 28 ∧ t.bat.faults = (s.inject router).bat.faults ++ [{ kind := .region r 0x11 }]) ∧
      onlyChanges [.cores, .lregions, .regions, .bat, .net, .dma, .eng, .log] s t) ∧
  (∀ (s : State) (router : Fin 1344) (out : Fin 7) (err : LinkErr), s.routerRuns router = true → (s.inject router).choose router out = none →
    ∃ t, exec (.packetForward router out err) s = .next t ∧ t.net = (s.inject router).net ∧ t.cores = (s.inject router).cores ∧
      onlyChanges [.cores, .lregions, .regions, .bat, .net, .dma, .eng, .log] s t)

/-- An arrived packet is taken off: one with a reserved header value, or from a module that no partner slot names, is discarded and logged. One of a stream that its sender's loss has closed is not delivered. One of the own epoch is acknowledged: a repeated one is only counted, one beyond the window is dropped without acknowledgement, a new one of an unordered class, or the next of an ordered one, is noted and passed to the slab. One of the armed epoch is held, one of another newer epoch dropped and counted, one of an older epoch counted and acknowledged. One for another module enters the slab a hop further, or is discarded and logged after seven hops. An acknowledgement takes what it covers off its stream, or goes a hop further; a retransmission keeps every stream as it was and sends the packet in a frame again. A lost engine closes its streams, and its loss is reported; the loss of a partner's engine drops the receive state of that engine's streams, closes them, and ends the streams whose other end it held. A response to an operation that a replay suppressed answers the one in its place. An acknowledgement waits in its engine until a link takes it. (R239, R240, R241, R242, R243, R244, R268, R285) -/
def Obligations.TheTransportTakesAcknowledgesAndRepeats : Prop :=
  let acked (s t : State) (h : Nat) (a : TAck) : Prop := a ∈ (t.engine h).acks ∨ ∃ e2 j seq f g, Out.frame e2 j (tackFrame seq f g a) ∈ t.out.drop s.out.length
  (∀ (s : State) (e : Engine) (p : Packet) (x : Nat × Packet), (s.engine e).arrived.find? (fun x => x.2 = p) = some x →
    let u := (s.onEng e fun y => { y with arrived := y.arrived.erase x }).freeBuf e x.1 p.vc
    let h := u.rxHome e (rxKeyOf p)
    let st := s.rxOf h (rxKeyOf p)
    let newer := (p.cetag + 256 - s.cfg.epoch.toNat % 256) % 256
    (p.hkind ≠ 0 ∨ maxHops < p.hops ∨ kindDefined p.kind = false ∨ (s.isHere p = true ∧ s.flt.closed.contains (p.smod, p.seng) = false ∧ s.rxSlot e p.smod = none) →
      ∃ t, exec (.transportPacketAccept e p) s = .next t ∧ t.eng = u.eng ∧ t.log.seq ≠ s.log.seq ∧ onlyChanges [.eng, .log] s t) ∧
    (p.hkind = 0 → p.hops ≤ maxHops → kindDefined p.kind = true → s.isHere p = true → s.flt.closed.contains (p.smod, p.seng) = true → exec (.transportPacketAccept e p) s = .next u) ∧
    (p.hkind = 0 → p.hops ≤ maxHops → kindDefined p.kind = true → s.isHere p = true → s.flt.closed.contains (p.smod, p.seng) = false → (s.rxSlot e p.smod).isSome = true →
      (newer = 0 → st.has p.tseq = true →
        ∃ t, exec (.transportPacketAccept e p) s = .next t ∧ (t.engine h).tdup = sat32 (s.engine h).tdup 1 ∧ (t.engine h).toSlab = (s.engine h).toSlab ∧ (t.engine h).rx = (s.engine h).rx ∧
          acked s t h (st.ackOf s.ownMod p) ∧ onlyChanges [.eng, .out] s t) ∧
      (newer = 0 → st.has p.tseq = false → st.beyond p.tseq = true → exec (.transportPacketAccept e p) s = .next u) ∧
      (newer = 0 → st.has p.tseq = false → st.beyond p.tseq = false → (ordered p.vc = false ∨ (st.waiting = [] ∧ p.tseq = st.cum ∧ st.got.length ≤ 4096)) →
        (s.layoutNewer p = true → s.layoutFree p = true) → (isRequest (s.strip p) = true → s.inService (gRegion (s.strip p).gaddr) = true) → s.replayingLog p.smod = false →
        ∃ t, exec (.transportPacketAccept e p) s = .next t ∧ (t.engine h).toSlab = (s.engine h).toSlab ++ [s.aliased (s.strip p)] ∧ (t.engine h).rx.get {} (rxKeyOf p) = st.note p.tseq ∧
          acked s t h ((st.note p.tseq).ackOf s.ownMod p) ∧ onlyChanges [.free, .lregions, .net, .store, .orc, .eng, .flt, .log, .out] s t) ∧
      (0 < newer → newer < 128 → s.armedTag p.cetag = true →
        ∃ t, exec (.transportPacketAccept e p) s = .next t ∧ (t.engine h).rx.get {} (rxKeyOf p) = { st with held := st.held ++ [p] } ∧ t.out = s.out ∧ onlyChanges [.eng] s t) ∧
      (0 < newer → newer < 128 → s.armedTag p.cetag = false →
        ∃ t, exec (.transportPacketAccept e p) s = .next t ∧ t.eng = u.eng ∧ t.cfg = { s.cfg with xep := sat32 s.cfg.xep 1 } ∧ onlyChanges [.eng, .cfg] s t) ∧
      (128 ≤ newer → (st.has p.tseq = true ∨ st.beyond p.tseq = true) →
        ∃ t, exec (.transportPacketAccept e p) s = .next t ∧ t.cfg = { s.cfg with xep := sat32 s.cfg.xep 1 } ∧ (t.engine h).rx = (s.engine h).rx ∧ acked s t h (st.ackOf s.ownMod p) ∧
          onlyChanges [.eng, .cfg, .out] s t) ∧
      (128 ≤ newer → st.has p.tseq = false → st.beyond p.tseq = false → st.waiting = [] →
        ∃ t, exec (.transportPacketAccept e p) s = .next t ∧ t.cfg = { s.cfg with xep := sat32 s.cfg.xep 1 } ∧ (t.engine h).rx.get {} (rxKeyOf p) = st.note p.tseq ∧
          (t.engine h).toSlab = (s.engine h).toSlab ∧ acked s t h ((st.note p.tseq).ackOf s.ownMod p) ∧ onlyChanges [.eng, .cfg, .out] s t)) ∧
    (p.hkind = 0 → p.hops ≤ maxHops → kindDefined p.kind = true → s.isHere p = false →
      (p.hops = maxHops → ∃ t, exec (.transportPacketAccept e p) s = .next t ∧ t.eng = u.eng ∧ t.log.seq ≠ s.log.seq ∧ onlyChanges [.eng, .log] s t) ∧
      (p.hops < maxHops → (p.vc ≠ 2 ∨ p.layout = s.cfg.layout) → (s.routeEntry (s.packetLayout p) (gMod p.gaddr)).isSome = true →
        ∃ t, exec (.transportPacketAccept e p) s = .next t ∧ (t.engine e).toSlab = (s.engine e).toSlab ++ [{ p with hops := p.hops + 1 }] ∧ onlyChanges [.eng] s t))) ∧
  (∀ (s : State) (e : Engine) (a : TAck), (s.engine e).ok = true → a.hops ≤ maxHops →
    (a.dmod.toNat = s.ownMod →
      ∃ t, exec (.transportAcknowledgement e a) s = .next t ∧
        (t.engine a.eng).tx.get {} (txKey a.slot a.vc) = { (s.engine a.eng).tx.get {} (txKey a.slot a.vc) with
          unacked := ((s.engine a.eng).tx.get {} (txKey a.slot a.vc)).unacked.filter fun p => !TAck.covers a p.tseq } ∧
        sameBut {} (txKey a.slot a.vc) (s.engine a.eng).tx (t.engine a.eng).tx ∧ sameBut {} a.eng.val s.eng t.eng ∧ onlyChanges [.eng] s t) ∧
    (a.dmod.toNat ≠ s.ownMod → a.hops < maxHops →
      ∃ t, exec (.transportAcknowledgement e a) s = .next t ∧ acked s t e { a with hops := a.hops + 1 } ∧ (∀ k, (t.engine k).tx = (s.engine k).tx) ∧ onlyChanges [.eng, .out] s t) ∧
    (a.dmod.toNat ≠ s.ownMod → a.hops = maxHops → ∃ t, exec (.transportAcknowledgement e a) s = .next t ∧ t.log.seq ≠ s.log.seq ∧ onlyChanges [.log] s t)) ∧
  (∀ (s : State) (e : Engine) (a : TAck), (s.engine e).ok = true → maxHops < a.hops →
    ∃ t, exec (.transportAcknowledgement e a) s = .next t ∧ t.log.seq ≠ s.log.seq ∧ onlyChanges [.log] s t) ∧
  (∀ (s : State) (e : Engine) (slot : Fin 256) (cls : Fin 4) (tseq : U32) (p : Packet) (e2 j : Nat), (s.engine e).ok = true →
    ((s.engine e).tx.get {} (txKey slot cls)).unacked.find? (fun p => p.tseq = tseq) = some p →
    s.nextHop (s.packetLayout p) (gMod p.gaddr) p.slregion p.sunit = some (e2, j) → s.linkTakes e2 j p.vc = true →
    ∃ t, exec (.transportRetransmission e slot ⟨cls, tseq⟩) s = .next t ∧ (∀ k, (t.engine k).tx = (s.engine k).tx) ∧ (t.engine e).tretx = sat32 (s.engine e).tretx 1 ∧
      t.out = s.out ++ [.frame e2 j (packetFrame (s.link e2 j).fseq (s.link e2 j).rxLast (s.grants e2 j) p)] ∧ onlyChanges [.eng, .out] s t) ∧
  (∀ (s : State) (e : Engine), (s.engine e).ok = true →
    ∃ t, exec (.engineLoss ⟨e, none⟩) s = .next t ∧ (t.engine e).ok = false ∧ (t.engine e).lost = true ∧ (t.engine e).tx = [] ∧ (t.engine e).rx = [] ∧ (t.engine e).arrived = [] ∧ (t.engine e).toSlab = [] ∧ (t.engine e).acks = [] ∧
      (∀ j, (t.engine e).links.get {} j = { aligns := ((s.engine e).links.get {} j).aligns }) ∧
      t.bat.faults = s.bat.faults ++ [{ kind := .engine e }] ∧ sameBut {} e.val s.eng t.eng ∧ onlyChanges [.bat, .eng] s t) ∧
  (∀ (s : State) (e : Engine) (m : U16),
    ∃ t, exec (.engineLoss ⟨e, some m⟩) s = .next t ∧ (∀ k, ∀ x ∈ (t.engine k).rx, rxFrom m.toNat e x.1 = false) ∧
      (∀ k key, rxFrom m.toNat e key = false → (t.engine k).rx.get {} key = (s.engine k).rx.get {} key) ∧
      (∀ k, ∀ x ∈ (t.engine k).tx, x.2.holder ≠ some (m.toNat, e.val)) ∧
      (∀ k key, ((s.engine k).tx.get {} key).holder ≠ some (m.toNat, e.val) → (t.engine k).tx.get {} key = (s.engine k).tx.get {} key) ∧
      t.flt = { s.flt with closed := t.flt.closed } ∧ t.flt.closed.contains (m.toNat, e.val) = true ∧ onlyChanges [.eng, .flt] s t)

/-- The press takes the first contribution that no occupied slot holds back. One of another layout epoch is discarded, counted and logged; so is one beyond the line's count. Otherwise the count of its line rises by what it carries, and of no other line; its bytes are gathered in the line's part, copied where the part is first written and added afterwards: in the assembly buffer under update on arrival, in the gradient-buffer line in the store under held timing. In a re-entered step a shard already updated counts it and gathers nothing. (R163, R164, R165, R168, R221, R283) -/
def Obligations.ThePressGathersContributions : Prop :=
  (∀ (s u : State) (r : Region) (p : Packet) (k j : Nat) (sh : Shard), s.pressRuns r = true → s.flt.exh = false → s.takeStore r (s.contribNow r) = some (p, u) → s.contribPlace r p = some (k, j) → s.shard r k = some sh →
    (p.layout.toNat ≠ sh.epoch →
      ∃ t, exec (.contributionArrival r) s = .next t ∧ t.cfg = { s.cfg with miss := sat32 s.cfg.miss 1 } ∧ (t.lreg r).counts = (s.lreg r).counts ∧ t.log.seq ≠ s.log.seq ∧ sameBut {} r.val s.lregions t.lregions ∧ onlyChanges [.lregions, .cfg, .log] s t) ∧
    (p.layout.toNat = sh.epoch → 4 * sh.ncont < s.lineCount r k j + p.count →
      ∃ t, exec (.contributionArrival r) s = .next t ∧ t.prs = { s.prs with excess := true, excessCount := sat32 s.prs.excessCount 1 } ∧ (t.lreg r).counts = (s.lreg r).counts ∧ t.log.seq ≠ s.log.seq ∧
        sameBut {} r.val s.lregions t.lregions ∧ onlyChanges [.lregions, .bat, .prs, .log] s t) ∧
    (p.layout.toNat = sh.epoch → s.lineCount r k j + p.count ≤ 4 * sh.ncont →
      let part := gOffset p.gaddr % 2048 / 512
      let bytes := (joinPart (!((s.lreg r).parts.get false (countKey k j * 4 + part))) (s.readPart r sh j part) p.payload).1
      ∃ t, exec (.contributionArrival r) s = .next t ∧ t.lineCount r k j = s.lineCount r k j + p.count ∧ sameBut 0 (countKey k j) (s.lreg r).counts (t.lreg r).counts ∧
        (u.alreadyDone r sh = true → (t.lreg r).asm = (s.lreg r).asm ∧ (t.lreg r).parts = (s.lreg r).parts ∧ t.store = s.store) ∧
        (u.alreadyDone r sh = false → (t.lreg r).parts.get false (countKey k j * 4 + part) = true) ∧
        (u.alreadyDone r sh = false → s.heldTiming = false → stores (s.lreg r).asm (t.lreg r).asm ((sh.abase + j) * 2048 + 512 * part) bytes ∧ t.store = s.store) ∧
        (∀ b l, u.alreadyDone r sh = false → s.heldTiming = true → (s.copyLines r sh copyBuffer)[j]? = some (b, l) → 512 * part + bytes.length ≤ 2048 →
          stores s.store.mem t.store.mem (lineKey (s.column r) b 0 * 2048 + l * 2048 + 512 * part) bytes ∧ (t.lreg r).asm = (s.lreg r).asm) ∧
        onlyChanges [.lregions, .regions, .bat, .net, .store, .orc] s t))

/-- A shard whose count is met is taken once its press runs. An update marks it updated, returns its counts to zero, writes a header whose counter is one more and whose step is the current one, counts 512 parameters for each line, and sends its free emits (on arrival alone) and its ready emits, these at once unless replicas are still to be compared, which they are at once if every replica's fingerprint is there. A non-finite gradient on arrival, a skipped step under held timing or a replay that finds it updated leaves every line alone and still sends the emits. A sum marks it summed, keeps its terms and sends a record of a non-finite buffered gradient; the last one reports the press. A stamp refresh in which every shard was updated rewrites nothing. (R164, R166, R167, R168, R170, R178, R179, R283, R284, R297) -/
def Obligations.ThePressUpdatesAndSumsItsShards : Prop :=
  let waits (s : State) (r k : Nat) : Prop := (∃ m ∈ s.partnersIn 2, m ≠ ownFp ∧ ∀ x ∈ s.fpsOf r k s.run.step, x.1 ≠ m) ∨ (s.prs.waitFp.contains (r, k) = false ∧ (s.replicaCheck = false ∨ s.partnersIn 2 = []))
  (∀ (s : State) (r : Region) (k : Fin 4096) (sh : Shard), s.shard r k = some sh → s.heldTiming = false → s.phase r k = .waiting → s.shardReady r k sh = true →
    let u := s.takeSiWaits r sh.release
    (u.alreadyDone r sh = true ∨ (u.gradTally r sh).nfi = true →
      ∃ t, exec (.shardUpdate r k) s = .next t ∧ t.phase r k = (if u.alreadyDone r sh then .updated else .unchanged) ∧ t.prs.nfShard = (s.prs.nfShard || !u.alreadyDone r sh) ∧ (∀ j, j < 2 ^ 24 → t.lineCount r k j = 0) ∧
        t.bat.emits = s.bat.emits ++ sh.frees ++ sh.ready ∧ onlyChanges [.lregions, .bat, .prs] s t) ∧
    (u.alreadyDone r sh = false → (u.gradTally r sh).nfi = false →
      ∃ t v, exec (.shardUpdate r k) s = .next v ∧ v = t.compareFps r k s.run.step sh ∧ (waits s r k → v = t) ∧ t.phase r k = .updated ∧ (∀ j, j < 2 ^ 24 → t.lineCount r k j = 0) ∧ t.prs.upd = s.prs.upd + 512 * sh.nlines ∧
        (∃ fp, (s.replicaCheck = false → fp = 0) ∧ t.header r sh = leBytes 8 (hdrT (s.header r sh) + 1) ++ leBytes 8 s.run.step.toNat ++ leBytes 4 s.cfg.layout.toNat ++ leBytes 4 (b2n s.replicaCheck) ++ leBytes 16 fp ++ List.replicate 2008 0) ∧
        t.bat.emits = s.bat.emits ++ sh.frees ++ (if !s.replicaCheck || (s.partnersIn 2).isEmpty then sh.ready else []) ∧ onlyChanges [.lregions, .bat, .net, .store, .orc, .prs, .out] s t)) ∧
  (∀ (s : State) (r : Region) (k : Fin 4096) (sh : Shard), s.shard r k = some sh → s.heldTiming = true → s.prs.decided = true → s.phase r k = .summed → s.shardReady r k sh = true →
    (∀ i, i < k.val → s.phase r i = .updated ∨ s.phase r i = .unchanged) →
    let u := s.takeSiWaits r sh.release
    (s.prs.skipStep = true ∨ u.alreadyDone r sh = true →
      ∃ t, exec (.heldShardUpdate r k) s = .next t ∧ t.phase r k = (if s.prs.skipStep then .unchanged else .updated) ∧ (∀ j, j < 2 ^ 24 → t.lineCount r k j = 0) ∧ t.bat.emits = s.bat.emits ++ sh.ready ∧ onlyChanges [.lregions, .bat] s t) ∧
    (s.prs.skipStep = false → u.alreadyDone r sh = false →
      ∃ t v, exec (.heldShardUpdate r k) s = .next v ∧ v = t.compareFps r k s.run.step sh ∧ (waits s r k → v = t) ∧ t.phase r k = .updated ∧ (∀ j, j < 2 ^ 24 → t.lineCount r k j = 0) ∧ t.prs.upd = s.prs.upd + 512 * sh.nlines ∧
        (∃ fp, (s.replicaCheck = false → fp = 0) ∧ t.header r sh = leBytes 8 (hdrT (s.header r sh) + 1) ++ leBytes 8 s.run.step.toNat ++ leBytes 4 s.cfg.layout.toNat ++ leBytes 4 (b2n s.replicaCheck) ++ leBytes 16 fp ++ List.replicate 2008 0) ∧
        t.bat.emits = s.bat.emits ++ (if !s.replicaCheck || (s.partnersIn 2).isEmpty then sh.ready else []) ∧ onlyChanges [.lregions, .bat, .net, .store, .orc, .prs, .out] s t)) ∧
  (∀ (s : State) (r : Region) (k : Fin 4096) (sh : Shard), s.shard r k = some sh → s.heldTiming = true → s.pressRuns r = true → s.phase r k = .waiting → s.shardMet r k sh = true →
    ∃ t, exec (.shardSum r k) s = .next t ∧ t.phase r k = .summed ∧ (∀ i, i ≠ k.val → t.phase r i = s.phase r i) ∧
      (∃ sw su, (t.lreg r).sums = (s.lreg r).sums ++ [(k.val, w64 (s.shardSums r sh).1, (s.shardSums r sh).2, sw, su)]) ∧
      ((∀ i, i < (s.shards r).length → i ≠ k.val → s.phase r i ≠ .waiting) → s.prs.sent = false → ((t.lreg r).report).isSome = true) ∧
      (((s.gradTally r sh).nfi = true ∨ (s.gradTally r sh).nfo = true) → s.pressRecs r < 8 → ∃ x, t.bat = { s.bat with nums := s.bat.nums ++ [x] } ∧ x.tileId = BitVec.ofNat 32 (0xFFFE0000 + k) ∧ x.lregion = r ∧ x.step = s.run.step) ∧
      (((s.gradTally r sh).nfi = false ∧ (s.gradTally r sh).nfo = false) ∨ 8 ≤ s.pressRecs r → t.bat = s.bat) ∧
      sameBut {} r.val s.lregions t.lregions ∧ onlyChanges [.lregions, .bat] s t) ∧
  (∀ (s : State) (r : Region), s.pressRuns r = true → (s.lreg r).stamped = false → (∀ k, k < (s.shards r).length → s.phase r k = .updated ∨ s.phase r k = .unchanged) →
    ∃ t, exec (.stampRefresh r) s = .next t ∧ (t.lreg r).stamped = true ∧ ((∀ k, k < (s.shards r).length → s.phase r k = .updated) → t.store = s.store) ∧ onlyChanges [.lregions, .net, .store, .orc] s t)

/-- With every press and every last micro-batch reported, the module's record joins its own exchange and goes to each other module of its clip group, once a step. A clip-group record of the current epoch is kept for the current or the next step, once for each module; another is discarded and logged (log entry 49). With all records in, the step is skipped exactly if some record flags a non-finite gradient or the combined sum is non-finite, and a skipped step is counted. A record that does not come is a partner loss: the module is held for cause 3, unless it is held for cause 5 or 6 already (log entry 174), and the host is told which module. (R169, R170, R294) -/
def Obligations.TheNormExchangeDecidesTheStep : Prop :=
  (∀ s : State, s.heldTiming = true → s.run.inStep = true → s.prs.sent = false → s.serviceRegions.all s.reported = true → s.allMbs = true →
    ∃ t, exec .normRecordSend s = .next t ∧ t.prs = { s.prs with sent := true, recs := s.prs.recs ++ [s.buildNorm] } ∧ t.out = s.out ++ (s.partnersIn 3).map (fun m => .norm m s.buildNorm) ∧ onlyChanges [.prs, .out] s t) ∧
  (∀ (s : State) (n : NormRec),
    let known (l : List NormRec) : Bool := l.any fun x => x.mod = n.mod
    (s.heldTiming = true → (s.partnersIn 3).contains n.mod.toNat = true → n.cepoch = s.cfg.epoch → n.step = s.run.step → known s.prs.recs = false →
      ∃ t, exec (.normRecordArrival n) s = .next t ∧ t.prs = { s.prs with recs := s.prs.recs ++ [n] } ∧ onlyChanges [.prs] s t) ∧
    (s.heldTiming = true → (s.partnersIn 3).contains n.mod.toNat = true → n.cepoch = s.cfg.epoch → n.step = s.run.step + 1 → known s.prs.nextRecs = false →
      ∃ t, exec (.normRecordArrival n) s = .next t ∧ t.prs = { s.prs with nextRecs := s.prs.nextRecs ++ [n] } ∧ onlyChanges [.prs] s t) ∧
    (s.heldTiming = false ∨ (s.partnersIn 3).contains n.mod.toNat = false ∨ n.cepoch ≠ s.cfg.epoch ∨ (n.step ≠ s.run.step ∧ n.step ≠ s.run.step + 1) →
      ∃ t, exec (.normRecordArrival n) s = .next t ∧ t.log.seq ≠ s.log.seq ∧ onlyChanges [.log] s t)) ∧
  (∀ s : State, s.prs.sent = true → s.prs.decided = false → (∀ m ∈ s.partnersIn 3, ∃ x ∈ s.prs.recs, x.mod.toNat = m) →
    ∃ t, exec .normExchangeComplete s = .next t ∧ t.prs.decided = true ∧
      (t.prs.skipStep = true ↔ (∃ n ∈ sortNorms s.prs.recs, n.flags.getLsbD 0 = true ∨ n.flags.getLsbD 1 = true) ∨ ((sortNorms s.prs.recs).foldl (fun a x => add64 a (v64 x.sglob)) fpZero).nonFinite = true) ∧
      t.prs.glob = w64 ((sortNorms s.prs.recs).foldl (fun a x => add64 a (v64 x.sglob)) fpZero) ∧ t.prs.skips = (if t.prs.skipStep then sat32 s.prs.skips 1 else s.prs.skips) ∧ onlyChanges [.prs] s t) ∧
  (∀ (s : State) (m : U16), s.prs.sent = true → s.prs.decided = false → s.flt.partner = false → s.beatStepping = false → (s.partnersIn 3).contains m.toNat = true → (∀ x ∈ s.prs.recs, x.mod ≠ m) →
    ∃ t, exec (.normExchangeTimeout m) s = .next t ∧ t.prs.normTo = true ∧ t.run.st = .held ∧ (s.run.hcause < 5 → t.run.hcause = 3) ∧ (5 ≤ s.run.hcause → t.run.hcause = s.run.hcause) ∧ t.flt.partner = true ∧ t.flt.partnerMod = m.toNat ∧ t.log.seq ≠ s.log.seq ∧
      (t.run.events.get {} 6).pend = true ∧ (t.run.events.get {} 6).res1 = BitVec.ofNat 64 m.toNat ∧ (s.run.hcause < 5 → s.flt.phase = .none → t.flt.phase = .draining) ∧ onlyChanges [.run, .brg, .prs, .flt, .log, .pwr] s t)

/-- A replica's fingerprint of a shard replaces the one it sent before; until the shard is awaited and every replica's is in, nothing more happens. Equal ones settle the comparison: it is awaited no more and the shard's ready emits go out, unless the step is being replayed and the shard's turn is still to come. Where the own one differs from another, the mismatch is counted once and logged. Where a majority of three or more agrees, or the shard has been compared again, the comparison is settled with a completion record, the shard's lines left alone if the majority, or else the lowest-numbered module, is this one's, and fetched from another module otherwise (log entry 46). Without a majority the first time, the shard waits until the lines that the check reads are settled; then every line is checked against its sheaf and the shard's fingerprint is sent again. A fingerprint that does not come is a partner loss. (R146, R180, R283, R297, R294) -/
def Obligations.ReplicasCompareTheirFingerprints : Prop :=
  (∀ (s : State) (m : U16) (r : Region) (k : Fin 4096) (n : U64) (fp : BitVec 128) (sh : Shard), s.shard r k = some sh → (s.partnersIn 2).contains m.toNat = true →
    let fps := (s.prs.fps.filter fun x => !(x.1 = m.toNat && x.2.1 = r.val && x.2.2.1 = k.val && x.2.2.2.1 = n)) ++ [(m.toNat, r.val, k.val, n, fp)]
    let l : List (Nat × BitVec 128) := fps.filterMap fun x => if x.2.1 = r.val ∧ x.2.2.1 = k.val ∧ x.2.2.2.1 = n then some (x.1, x.2.2.2.2) else none
    let ready := if n = s.run.step ∧ s.phase r k ≠ .updated ∧ s.phase r k ≠ .unchanged then [] else sh.ready
    let known := s.prs.mism.any fun x => x.1 = r.val && x.2.1 = k.val
    let lowest := (s.partnersIn 2).all fun m => decide (s.ownMod ≤ m)
    let settled (t : State) : Prop := t.prs.waitFp = s.prs.waitFp.filter (· ≠ (r.val, k.val)) ∧ t.bat.emits = s.bat.emits ++ ready ∧ (∀ x ∈ t.prs.mism, ¬ (x.1 = r.val ∧ x.2.1 = k.val))
    let counted (t : State) : Prop := t.flt = (if known = true then s.flt else { s.flt with rmis := sat32 s.flt.rmis 1 })
    (s.prs.waitFp.contains (r.val, k.val) = false ∨ ((s.partnersIn 2).all fun m => l.any fun x => decide (x.1 = m)) = false →
      ∃ t, exec (.fingerprintArrival m r k n fp) s = .next t ∧ t.prs = { s.prs with fps := fps } ∧ onlyChanges [.prs] s t) ∧
    (∀ own, s.prs.waitFp.contains (r.val, k.val) = true → ((s.partnersIn 2).all fun m => l.any fun x => decide (x.1 = m)) = true → (l.find? fun x => decide (x.1 = ownFp)) = some (ownFp, own) →
      ((∀ x ∈ l, x.2 = own) →
        ∃ t, exec (.fingerprintArrival m r k n fp) s = .next t ∧ settled t ∧ (known = false → t.log = s.log) ∧ onlyChanges [.bat, .prs, .log] s t) ∧
      ((∃ x ∈ l, x.2 ≠ own) → (s.prs.round2.contains (r.val, k.val) = true ∨ (3 ≤ l.length ∧ (majorityFp l).isSome = true)) →
        ∃ t, exec (.fingerprintArrival m r k n fp) s = .next t ∧ settled t ∧ counted t ∧ (∃ x, t.log.recs.getLast? = some x ∧ x.item.cls = 0x40 ∧ x.item.done = true ∧ x.item.sub = k.val) ∧
          (s.prs.round2.contains (r.val, k.val) = true → lowest = true → t.store = s.store) ∧ (s.prs.round2.contains (r.val, k.val) = false → majorityFp l = some own → t.store = s.store) ∧
          onlyChanges [.free, .lregions, .bat, .net, .store, .orc, .prs, .flt, .log] s t) ∧
      ((∃ x ∈ l, x.2 ≠ own) → s.prs.round2.contains (r.val, k.val) = false → (l.length < 3 ∨ majorityFp l = none) →
        (s.shardSettled r sh = false → ∃ t, exec (.fingerprintArrival m r k n fp) s = .next t ∧ t.prs.waitFp = s.prs.waitFp ∧ counted t ∧ onlyChanges [.prs, .flt, .log] s t) ∧
        (s.shardSettled r sh = true → ∃ t fp2 o, exec (.fingerprintArrival m r k n fp) s = .next t ∧ t.prs.round2.contains (r.val, k.val) = true ∧ counted t ∧
          t.out = o ++ (s.partnersIn 2).map (fun m => .fingerprint m r k n fp2) ∧ onlyChanges [.lregions, .bat, .net, .store, .orc, .prs, .flt, .log, .out] s t)))) ∧
  (∀ (s : State) (m : U16) (r : Region) (k : Fin 4096),
    let n := ((s.prs.fps.find? fun x => x.1 = ownFp && x.2.1 = r.val && x.2.2.1 = k.val).map fun x => x.2.2.2.1).getD 0
    s.prs.waitFp.contains (r.val, k.val) = true → s.flt.partner = false → s.beatStepping = false → (s.partnersIn 2).contains m.toNat = true → (∀ x ∈ s.fpsOf r k n, x.1 ≠ m.toNat) →
    ∃ t, exec (.fingerprintTimeout m r k) s = .next t ∧ t.run.st = .held ∧ (s.run.hcause < 5 → t.run.hcause = 3) ∧ (5 ≤ s.run.hcause → t.run.hcause = s.run.hcause) ∧ t.flt.partner = true ∧
      t.flt.partnerMod = m.toNat ∧ t.log.seq ≠ s.log.seq ∧ (t.run.events.get {} 6).pend = true ∧ (s.run.hcause < 5 → s.flt.phase = .none → t.flt.phase = .draining) ∧ onlyChanges [.run, .brg, .flt, .log, .pwr] s t)

/-- The last packet of a parity delta exclusive-ors it into its line and acknowledges it; earlier ones are kept, and an acknowledgement takes its delta off what is owed. With no feed and no fingerprint waiting, no other byte of the store changes; then feeds are settled and fingerprints compared. A scrub counts a corrected symbol and lists an uncorrectable line as bad once, with a record unless its step's replay will tell of it. A recovered line of an inner sheaf whose other members are all there reads as their exclusive or, a master line's working line with it; a parity line waits for them; with another member gone a line comes back through the outer sheaf where there is one (its content is open, log entry 46), and else, with outer sheaves, the module is back at its last step boundary and needs a warm load, and without them it is held for cause 6. A working line is computed again from its master lines. A line recovered is bad no more, counts as rebuilt, is logged with its overhead, and its row is due for remapping. A remapped row takes the next of 32 spares and is logged. A move whose old lines are settled and there is marked begun; one that completes, the old header being there, writes it at the new place, sends the shard's ready emits and leaves the list. (R137, R138, R139, R144, R145, R147, R149, R150, R217, R218, R222, R294) -/
def Obligations.TheStoreKeepsItsLinesAndParity : Prop :=
  (∀ (s : State) (r : Region), exec (.deltaPacketArrival r) s = .next (s.deltaArrival r).settleFeeds.compareWaiting) ∧
  (∀ (s u : State) (r : Region) (p : Packet), s.prs.waitFp = [] → s.takeStore r (fun p => s.deltaRoom r p || (p.kind = 9 && p.skind = 1)) = some (p, u) →
    let same (x : DeltaEntry) : Bool := x.tag = p.tag && x.smod = p.smod && x.sregion = p.slregion
    let e0 := ((s.lreg r).deltas.find? same).getD { tag := p.tag, bank := gIndex p.gaddr, line := gOffset p.gaddr / 2048, smod := p.smod, sregion := p.slregion, stamp := BitVec.ofNat 8 p.stampD }
    let e := { e0 with parts := e0.parts ++ [(gOffset p.gaddr % 2048 / 512, p.payload)] }
    (p.kind ≠ 9 → e.whole = none →
      ∃ t, exec (.deltaPacketArrival r) s = .next t ∧ (t.lreg r).deltas = (s.lreg r).deltas.filter (fun x => !same x) ++ [e] ∧ (s.run.feeds = [] → onlyChanges [.lregions] s t) ∧
        onlyChanges [.free, .lregions, .regions, .settings, .num, .run, .brg, .stg, .net, .store, .orc, .flt, .pwr] s t) ∧
    (∀ d, p.kind ≠ 9 → e.whole = some d →
      ∃ t, exec (.deltaPacketArrival r) s = .next t ∧
        (s.run.feeds = [] → stores s.store.mem t.store.mem (lineKey (s.column r) e.bank 0 * 2048 + e.line * 2048) (xorBytes (s.readLine r e.bank e.line) d) ∧ onlyChanges [.lregions, .bat, .store] s t) ∧
        (t.lreg r).deltas = (s.lreg r).deltas.filter (fun x => !same x) ∧
        (s.isOwn e.smod = true → t.bat.emits = s.bat.emits ++ [{ region := e.sregion, unit := 0x0401, ctr := ackCounter + e.tag, count := 1 }]) ∧ onlyChanges [.free, .lregions, .regions, .settings, .num, .run, .brg, .stg, .bat, .net, .store, .orc, .flt, .pwr] s t) ∧
    (p.kind = 9 → ∃ t, exec (.deltaPacketArrival r) s = .next t ∧ (s.run.feeds = [] → (∀ d ∈ (t.lreg r).outDeltas, d.tag ≠ p.tag) ∧ onlyChanges [.lregions] s t) ∧
      onlyChanges [.free, .lregions, .regions, .settings, .num, .run, .brg, .stg, .net, .store, .orc, .flt, .pwr] s t)) ∧
  (∀ (s : State) (r : Region) (bank : Core) (line : Nat),
    (bankLines bank ≤ line → ∀ found, exec (.scrub r bank line found) s = .fault .illFormed) ∧
    (line < bankLines bank → exec (.scrub r bank line .clean) s = .next s ∧
      (∀ sym, ∃ t, exec (.scrub r bank line (.corrected sym)) s = .next t ∧ t.store.mem = s.store.mem ∧ t.store.eccCor = true ∧ t.store.corCount = sat32 s.store.corCount 1 ∧ onlyChanges [.store] s t) ∧
      ∃ t, exec (.scrub r bank line .uncorrectable) s = .next t ∧ t.store.mem = s.store.mem ∧ t.store.bad = (if s.store.bad.contains (lineKey r bank line) then s.store.bad else s.store.bad ++ [lineKey r bank line]) ∧
        (s.store.bad.contains (lineKey r bank line) = false → (∀ l, s.logicalOf r = some l → areaOf (s.course l) bank line ≠ .stepLocal) →
          ∃ x, t.log.recs.getLast? = some x ∧ x.item.cls = 0x14 ∧ x.item.done = false ∧ x.item.sub = bank.val ∧ x.item.detail = line) ∧ onlyChanges [.store, .log] s t)) ∧
  (∀ (s : State) (r : Region) (bank : Core) (line l : Nat), s.store.bad.contains (lineKey r bank line) = true → s.logicalOf r = some l → s.maySettle l bank line = true →
    let mended (t : State) : Prop := t.store.bad = s.store.bad.filter (· ≠ lineKey r bank line) ∧ (s.orcPlace l bank line = none → t.store.rebuild = sat32 s.store.rebuild 1) ∧ t.store.eccUnc = true ∧
      t.store.remapDue.contains (rowKey r bank line) = true ∧
      (areaOf (s.course l) bank line ≠ .stepLocal → ∃ x, t.log.recs.getLast? = some x ∧ x.item.cls = 0x14 ∧ x.item.done = true ∧ x.item.sub = bank.val ∧ x.item.detail = s.overhead (s.store.since.get 0 (lineKey r bank line)))
    (∀ h m j, s.sheafOf l bank line = some (h, m, j) → s.othersGone h m j = false →
      let d := (s.sheafXor h m j).1
      ∃ t, exec (.lineRecovered r bank line) s = .next t ∧ mended t ∧
        (s.copyOf l bank line copyMaster = none → s.orcPlace l bank line = none → stores s.store.mem t.store.mem (lineKey (s.column l) bank 0 * 2048 + line * 2048) d) ∧
        (∀ k i b n, s.copyOf l bank line copyMaster = some (k, i) → (s.copyLines l ((s.shards l).getD k {}) copyWorking)[i / 2]? = some (b, n) →
          lineKey (s.column l) b n ≠ lineKey (s.column l) bank line → t.readLine l bank line = d ∧ holdsWorking (t.readLine l b n) (i % 2) d) ∧
        onlyChanges [.bat, .store, .log] s t) ∧
    (∀ h j, s.sheafOf l bank line = some (h, 7, j) → s.othersGone h 7 j = true → exec (.lineRecovered r bank line) s = .next s) ∧
    (∀ h m j, s.sheafOf l bank line = some (h, m, j) → m ≠ 7 → s.othersGone h m j = true →
      (s.outerCovered l bank line = true → ∃ t, exec (.lineRecovered r bank line) s = .next t ∧ mended t ∧ t.free = s.free + 2 ∧ onlyChanges [.free, .bat, .store, .log] s t) ∧
      (s.outerCovered l bank line = false → s.run.hcause < 5 → s.modeCourse.prot = false →
        ∃ t, exec (.lineRecovered r bank line) s = .next t ∧ t.run.st = .held ∧ t.run.hcause = 6 ∧ onlyChanges [.run, .brg, .flt, .log, .pwr] s t) ∧
      (s.outerCovered l bank line = false → s.run.hcause < 5 → s.modeCourse.prot = true → s.flt.needLoad = false →
        ∃ t, exec (.lineRecovered r bank line) s = .next t ∧ t.run.st = .stopped ∧ t.run.atStep = true ∧ t.run.inStep = false ∧ t.flt.needLoad = true ∧ t.store = { s.store with slots := t.store.slots } ∧
          onlyChanges [.sram, .cores, .lregions, .regions, .num, .run, .bat, .net, .store, .eng, .flt, .log] s t) ∧
      (s.outerCovered l bank line = false → 5 ≤ s.run.hcause ∨ (s.modeCourse.prot = true ∧ s.flt.needLoad = true) → exec (.lineRecovered r bank line) s = .next s)) ∧
    (∀ k w, s.sheafOf l bank line = none → s.copyOf l bank line copyWorking = some (k, w) →
      ∃ t, exec (.lineRecovered r bank line) s = .next t ∧ mended t ∧
        (∀ i b n, i < 2 → (s.copyLines l ((s.shards l).getD k {}) copyMaster)[2 * w + i]? = some (b, n) → holdsWorking (t.readLine l bank line) i (s.readLine l b n)) ∧
        onlyChanges [.bat, .store, .log] s t)) ∧
  (∀ (s : State) (r : Region) (bank : Core) (row : Nat), s.store.remapDue.contains ((r.val * 1024 + bank.val) * 4096 + row) = true →
    let used := s.store.rowSpares.get 0 (r.val * 1024 + bank.val)
    ∃ t, exec (.dramRowRemap r bank row) s = .next t ∧ t.store.mem = s.store.mem ∧ t.store.remapDue = s.store.remapDue.filter (· ≠ (r.val * 1024 + bank.val) * 4096 + row) ∧
      (used < 32 → t.store.rowSpares.get 0 (r.val * 1024 + bank.val) = used + 1 ∧ t.store.rows = BitVec.ofNat 16 (min (s.store.rows.toNat + 1) 0xFFFF)) ∧ (32 ≤ used → t.store.rowSpares = s.store.rowSpares ∧ t.log = s.log) ∧
      onlyChanges [.store, .log] s t) ∧
  (∀ (s : State) (r : Region) (k : Fin 4096) (m : Nat × Nat × Nat × Nat × Nat) (sh : Shard), s.nextMove r = some m → s.shard r k = some sh → m.2.1 = k.val →
    (m.2.2.2.2 = 0 → s.drained m.2.2.1 m.2.2.2.1 = true → s.sourceThere m.2.2.1 m.2.2.2.1 = true → s.flt.quiet.contains r.val = false →
      ∃ t, exec (.moveBegin r k) s = .next t ∧ t.cfg.moves = s.cfg.moves.map (fun x => if x = m then (m.1, m.2.1, m.2.2.1, m.2.2.2.1, movedMark) else x) ∧ onlyChanges [.free, .lregions, .cfg, .net, .store, .orc] s t) ∧
    (m.2.2.2.2 = movedMark → s.sourceThere m.2.2.1 m.2.2.2.1 = false → exec (.moveComplete r k) s = .next s) ∧
    (∀ o, m.2.2.2.2 = movedMark → s.sourceThere m.2.2.1 m.2.2.2.1 = true → s.oldShard m.2.2.1 m.2.2.2.1 = some o →
      ∃ t, exec (.moveComplete r k) s = .next t ∧ t.cfg.moves = s.cfg.moves.filter (· ≠ m) ∧ t.cfg.moved = s.cfg.moved + 1 ∧ (r.val, k.val) ∈ t.cfg.readySent ∧
        ((∃ x ∈ s.cfg.moves, x ≠ m) ∨ (∀ b, s.inLine r sh.hbank sh.hline b → s.offSnap b) → t.readLine r sh.hbank sh.hline = s.servedLine m.2.2.1 o.hbank o.hline) ∧
        t.bat.emits = s.bat.emits ++ sh.ready ∧ ((∀ x ∈ s.cfg.moves, x = m) → t.cfg.rsDone = true) ∧ onlyChanges [.free, .lregions, .regions, .settings, .num, .run, .brg, .stg, .cfg, .bat, .net, .store, .orc, .flt, .pwr] s t))

/-- An owner region in a step takes the first row due: a cached one is pinned; for one that is not cached a cache position is found and a fill begins, or the row waits, as it does while 64 fills of the region are under way. With no row due the cache stays. A completed fill is counted and leaves the fills, its row joins the cache pinned, and the store keeps every byte outside the row's cache and working lines. Row vectors are the only SRAM these write. A late fill stays to be made and costs a flash die (which one is open, log entry 56). A lost die is noted and logged once; a second one holds the module for cause 5. (R153, R156, R157, R184, R298) -/
def Obligations.TheOrchardPreparesAndFillsRows : Prop :=
  (∀ (s : State) (r : Region) (table : Fin 64) (row : U32) (tb : OrcTable) (o : Nat × Nat × Nat × Nat), s.orcTable table = some tb → (tb.owners.find? fun o => o.1 = r.val) = some o →
    (s.lreg r).active = true → s.run.inStep = true → s.flt.quiet.contains r.val = false →
    (s.rowsDue r tb = [] →
      ∃ t, exec (.orchardRowPrepare r table row) s = .next t ∧ t.orc = s.orc ∧ (∀ b, offVectors s tb b → Tab.get (0 : Byte) t.sram b = Tab.get (0 : Byte) s.sram b) ∧ onlyChanges [.sram, .lregions, .bat] s t) ∧
    (∀ c, (s.rowsDue r tb).head? = some row.toNat → s.rowCached r table row.toNat = some c →
      ∃ t, exec (.orchardRowPrepare r table row) s = .next t ∧
        t.orc = { s.orc with cache := s.orc.cache.upd [] (cacheKey r table) fun l => l.map fun x => if x.pos = c.pos then { x with pinned := true } else x } ∧
        (∀ b, offVectors s tb b → Tab.get (0 : Byte) t.sram b = Tab.get (0 : Byte) s.sram b) ∧ onlyChanges [.sram, .lregions, .bat, .orc] s t) ∧
    ((s.rowsDue r tb).head? = some row.toNat → s.rowCached r table row.toNat = none →
      let held := (s.orc.fills.filter fun f => f.1 = r.val).length
      (64 ≤ held ∨ s.makeRoom r tb o = none → exec (.orchardRowPrepare r table row) s = .next s) ∧
      (∀ p u, held < 64 → s.makeRoom r tb o = some (p, u) → ∃ t, exec (.orchardRowPrepare r table row) s = .next t ∧ t.orc.fills = u.orc.fills ++ [(r.val, table.val, row.toNat, p)] ∧ t.orc.cache = u.orc.cache ∧ onlyChanges [.orc, .log] s t))) ∧
  (∀ (s : State) (r : Region) (table : Fin 64) (row : U32) (tb : OrcTable) (f o : Nat × Nat × Nat × Nat), s.orcTable table = some tb →
    (s.orc.fills.find? fun f => f.1 = r.val && f.2.1 = table.val && f.2.2.1 = row.toNat) = some f → ownerOf tb row.toNat = some o →
    ∃ t, exec (.orchardFillComplete r table row) s = .next t ∧ t.orc.fills = s.orc.fills.filter (· ≠ f) ∧ t.orc.fillCount = sat32 s.orc.fillCount 1 ∧
      (∃ l, t.orc.cache.get [] (cacheKey r table) = l ++ [{ table := table, row := row.toNat, pos := f.2.2.2, pinned := true }]) ∧
      (∀ b, (∀ x ∈ s.rowLines r tb o f.2.2.2 ++ s.rowWork r tb o f.2.2.2, ¬ (lineKey (s.column r) x.1 0 * 2048 + x.2 * 2048 ≤ b ∧ b < lineKey (s.column r) x.1 0 * 2048 + x.2 * 2048 + 2048)) →
        Tab.get (0 : Byte) t.store.mem b = Tab.get (0 : Byte) s.store.mem b) ∧
      (∀ b, offVectors s tb b → Tab.get (0 : Byte) t.sram b = Tab.get (0 : Byte) s.sram b) ∧ onlyChanges [.sram, .lregions, .bat, .net, .store, .orc] s t) ∧
  (∀ (s : State) (r : Region) (table : Fin 64) (row : U32), (s.orc.fills.any fun f => f.1 = r.val && f.2.1 = table.val && f.2.2.1 = row.toNat) = true →
    ∃ t, exec (.orchardFillTimeout r table row) s = .next t ∧ t.orc.fills = s.orc.fills ∧ t.free = s.free + 1 ∧ t.orc.lostDies.contains (Config.freeValue s.free % 4) = true ∧ onlyChanges [.free, .run, .brg, .orc, .flt, .log, .pwr] s t) ∧
  (∀ (s : State) (die : Fin 4),
    (s.orc.lostDies.contains die.val = true → exec (.flashDieLost die) s = .next s) ∧
    (s.orc.lostDies.contains die.val = false → ∃ t, exec (.flashDieLost die) s = .next t ∧ t.orc = { s.orc with die := true, lostDies := s.orc.lostDies ++ [die.val] } ∧
      (s.orc.lostDies = [] → (∃ x, t.log.recs.getLast? = some x ∧ x.item.cls = 0x20 ∧ x.item.sub = die.val) ∧ onlyChanges [.orc, .log] s t) ∧
      (s.orc.lostDies ≠ [] → t.run.st = .held ∧ t.run.hcause = 5 ∧ t.flt.exh = true) ∧ onlyChanges [.run, .brg, .orc, .flt, .log, .pwr] s t))

/-- A region channel takes one descriptor from its ring for a count of its descriptor counter; a bridge channel fetches the next its ring shows, at most four ahead. A valid descriptor whose waits are met becomes the current one and takes its waits; an invalid one gets status 1, one lost to a partial reset status 6. An acknowledgement is counted for the epoch it belongs to, and the bytes that a region channel's write then has written. A region channel's descriptor that has ended writes its completion entry, frees the slot, and sends its emits; a bridge channel's hands its entry, with its emits, to the completion queue, which frees the slot and sends them once it is written, and waits while that ring is full, which FULLW shows. DONE gives the bytes written: those moved, but for what was still gathered and what the target turned away. A status other than 0 and 3 stops the channel and sends none. Of SRAM only the entry changes, and no other channel. A host that does not answer gives status 5 for writes, 4 for reads, 6 for a command: at once where it is the oldest of the lane in execution and makes requests to the host, else as it makes one. (R192, R195, R197, R198, R201, R202, R203, R204, R205, R329, R334) -/
def Obligations.ChannelsFetchRunAndCompleteDescriptors : Prop :=
  (∀ (s : State) (r : Region) (n : Fin 128) (c : DmaDecl),
    let k := chanKey (.region r n)
    s.chanRuns k = true → s.chanDecl k = some c → (s.chan k).cur = none → (s.chan k).queue = [] → 1 ≤ (s.chan k).ctrs.get 0 7 → 1 ≤ (s.chan k).ctrs.get 0 6 →
    ∃ t, exec (.descriptorFetch (.region r n)) s = .next t ∧
      t.chan k = { s.chan k with queue := [descOf (s.readSram r c.core (c.dring * 64 + (s.chan k).fetched.toNat % 2 ^ c.y * 64) 64)], fetched := (s.chan k).fetched + 1, ctrs := (s.chan k).ctrs.upd 0 7 (· - 1) } ∧
      sameBut {} k s.dma t.dma ∧ onlyChanges [.dma] s t) ∧
  (∀ (s : State) (c : Fin 256),
    let k := chanKey (.bridge c)
    s.chanRuns k = true → (s.hq c).host ≠ (s.chan k).fetched → (s.chan k).queue.length < 4 →
    ∃ t, exec (.descriptorFetch (.bridge c)) s = .next t ∧
      t.chan k = { s.chan k with queue := (s.chan k).queue ++ [descOf (s.readHost ((s.hq c).base + 64 + (s.chan k).fetched.toNat % 2 ^ (s.hq c).z * 64) 64)], fetched := (s.chan k).fetched + 1 } ∧
      sameBut {} k s.dma t.dma ∧ onlyChanges [.dma] s t) ∧
  (∀ (s : State) (ch : Chan) (x : Desc) (rest : List Desc), s.chanRuns (chanKey ch) = true → (s.chan (chanKey ch)).cur = none → (s.chan (chanKey ch)).queue = x :: rest →
    (x.lost = true ∨ x.valid (isRegionChan (chanKey ch)) (s.chan (chanKey ch)).prevCsum = false →
      ∃ t, exec (.descriptorRun ch) s = .next t ∧
        t.chan (chanKey ch) = { s.chan (chanKey ch) with cur := some x, queue := rest, asked := 0, moved := 0, reads := [], hold := [], refused := 0, took := [], status := (if x.lost = true then 6 else 1), crc0 := (s.chan (chanKey ch)).crc, sum0 := (s.chan (chanKey ch)).sum, prev0 := (s.chan (chanKey ch)).prevCsum } ∧
        sameBut {} (chanKey ch) s.dma t.dma ∧ onlyChanges [.dma] s t) ∧
    (x.lost = false → x.valid (isRegionChan (chanKey ch)) (s.chan (chanKey ch)).prevCsum = true → (x.waits.all fun w => decide (w.thr ≤ (s.chan (chanKey ch)).ctrs.get 0 w.ctr)) = true → s.noTarget x.srcHost x.src = false → s.noTarget x.dstHost x.dst = false →
      ∃ t, exec (.descriptorRun ch) s = .next t ∧ (t.chan (chanKey ch)).cur = some x ∧ (t.chan (chanKey ch)).queue = rest ∧ (t.chan (chanKey ch)).moved = 0 ∧ (t.chan (chanKey ch)).status = 0 ∧
        (t.chan (chanKey ch)).ctrs = x.waits.foldl (fun (t : Tab Nat) w => t.upd 0 w.ctr (· - w.thr)) (s.chan (chanKey ch)).ctrs ∧ (t.chan (chanKey ch)).prevCsum = x.csum ∧ (t.chan (chanKey ch)).took = x.waits ∧
        sameBut {} (chanKey ch) s.dma t.dma ∧ onlyChanges [.dma] s t)) ∧
  (∀ (s : State) (ch : Chan),
    (∀ p l, (s.chan (chanKey ch)).acks = p :: l →
      ∃ t, exec (.dmaWriteAcknowledgement ch) s = .next t ∧ (t.chan (chanKey ch)).acks = l ∧
        (t.chan (chanKey ch)).acked = (s.chan (chanKey ch)).acked + (if p.tag / 2 ^ 32 = (s.chan (chanKey ch)).epoch then 1 else 0) ∧
        (isRegionChan (chanKey ch) = false ∨ p.nflag ≠ 0 → t.regions = s.regions) ∧
        (∀ q, isRegionChan (chanKey ch) = true → p.nflag = 0 → s.phys (chanKey ch / 128) = some q → (t.reg q).counts.get 0 0x2064 = (s.reg q).counts.get 0 0x2064 + 8 * p.glen) ∧
        sameBut {} (chanKey ch) s.dma t.dma ∧ onlyChanges [.regions, .dma] s t) ∧
    ((s.chan (chanKey ch)).acks = [] → 1 ≤ (s.chan (chanKey ch)).hostAcks → s.brg.linkDown = false →
      ∃ t, exec (.dmaWriteAcknowledgement ch) s = .next t ∧ t.chan (chanKey ch) = { s.chan (chanKey ch) with hostAcks := (s.chan (chanKey ch)).hostAcks - 1, acked := (s.chan (chanKey ch)).acked + 1 } ∧
        sameBut {} (chanKey ch) s.dma t.dma ∧ onlyChanges [.dma] s t)) ∧
  (∀ (s : State) (r : Region) (n : Fin 128) (c : DmaDecl) (x : Desc),
    let k := chanKey (.region r n)
    let d := s.chan k
    s.chanRuns k = true → s.chanDecl k = some c → d.cur = some x → s.descEnded k x = true → 1 ≤ d.ctrs.get 0 6 →
    ∃ t, exec (.descriptorComplete (.region r n)) s = .next t ∧ (t.chan k).cur = none ∧ (t.chan k).completed = d.completed + 1 ∧ (t.chan k).ctrs = d.ctrs.upd 0 6 (· - 1) ∧
      stores s.sram t.sram (s.sramBase r c.core + (c.cring * 64 + d.completed.toNat % 2 ^ c.y * 32))
        (dmaEntryBytes x.tag d.status (BitVec.ofNat 10 (chanUnit k)) (BitVec.ofNat 64 (if d.status = 0 ∨ d.status = 3 then d.csumValue x else 0)) (BitVec.ofNat 32 (d.moved - d.hold.length - d.refused)) d.completed (phaseOf d.completed.toNat c.y)) ∧
      (d.status = 0 ∨ d.status = 3 → t.bat.emits = s.bat.emits ++ x.emits ∧ (t.chan k).stop = false ∧ t.cores = s.cores) ∧
      (¬ (d.status = 0 ∨ d.status = 3) → t.bat.emits = s.bat.emits ∧ (t.chan k).stop = true ∧ (t.core r c.core).halted = true) ∧
      sameBut {} k s.dma t.dma ∧ onlyChanges [.sram, .cores, .regions, .bat, .dma] s t) ∧
  (∀ (s : State) (c : Fin 256) (x : Desc),
    let k := chanKey (.bridge c)
    let d := s.chan k
    s.chanRuns k = true → d.cur = some x → s.descEnded k x = true →
    let q := s.hq (c.val + 256)
    let ok := decide (d.status = 0 ∨ d.status = 3)
    ((q.dev - q.host).toNat ≠ 2 ^ q.z →
      ∃ t, exec (.descriptorComplete (.bridge c)) s = .next t ∧ (t.chan k).cur = none ∧ (t.chan k).completed = d.completed + 1 ∧ (t.chan k).stop = !ok ∧
        t.hq (c.val + 256) = { q with items := q.items ++ [.dma x.tag d.status (BitVec.ofNat 10 (chanUnit k)) (BitVec.ofNat 64 (if d.status = 0 ∨ d.status = 3 then d.csumValue x else 0))
          (BitVec.ofNat 32 (d.moved - d.hold.length - d.refused)) d.completed (if ok then x.emits else []) true] } ∧
        (∀ j, j ≠ c.val + 256 → t.hq j = s.hq j) ∧ sameBut {} k s.dma t.dma ∧ onlyChanges [.brg, .dma] s t) ∧
    ((q.dev - q.host).toNat = 2 ^ q.z →
      exec (.descriptorComplete (.bridge c)) s = .next s ∧ (q.en = true → s.fullw (c.val + 256) = true))) ∧
  (∀ (s : State) (c : Fin 256),
    let k := bridgeBase + c.val
    (1 ≤ (s.chan k).hostAcks → ∃ t, exec (.hostCompletionTimeout (.chan c true)) s = .next t ∧ (t.chan k).hostAcks = 0 ∧ (t.chan k).acked = (s.chan k).acked + (s.chan k).hostAcks ∧
      ((s.chan k).status = 0 ∨ (s.chan k).status = 3 → (t.chan k).status = 5) ∧ sameBut {} k s.dma t.dma ∧ onlyChanges [.dma] s t) ∧
    (∀ x, (s.chan k).cur = some x → x.srcHost = true → (s.chan k).moved < x.len → ∃ t, exec (.hostCompletionTimeout (.chan c false)) s = .next t ∧
      ((s.chan k).status = 0 ∨ (s.chan k).status = 3 → (t.chan k).status = 4) ∧ sameBut {} k s.dma t.dma ∧ onlyChanges [.dma] s t) ∧
    (∀ h, (∀ x l, s.run.laneQ = x :: l → x.h = h → s.laneBlocked = true ∨ x.asksHost = false) →
      exec (.hostCompletionTimeout (.command h)) s = .next (s.onRun fun r => { r with hostFails := r.hostFails ++ [h] })) ∧
    (∀ x l, s.run.laneQ = x :: l → s.laneBlocked = false → x.asksHost = true → ∃ t, exec (.hostCompletionTimeout (.command x.h)) s = .next t ∧ t.run = { s.run with laneQ := l } ∧ completes s t x.h 6 0 0 0 ∧ onlyChanges [.run, .brg] s t))

/-- A read request within its core or bank is answered with the bytes read, and changes none. Data that a channel's engine may move, 64 bytes at a time, advances the channel by its length, runs into its checksum and is gathered; at every 512 bytes and at the end what was gathered leaves: toward the host it is stored at the destination, followed at the end by the checksum, and no other host byte changes. A write within its core or an exchange area stores its bytes and no others, raises the target token with the last packet, and is acknowledged; a line in a closed reservoir slot takes none of it and says so in the acknowledgement. A request or write outside is logged as rejected. (R92, R152, R196, R198, R200, R201) -/
def Obligations.ChannelDataReachesItsTargets : Prop :=
  (∀ (s u : State) (r : Region) (c : Core) (p : Packet), s.takeCore r c (fun p => p.kind = 13) = some (p, u) →
    (dmaInSram p = true → ∃ t, exec (.dmaReadRequest (.core r c)) s = .next t ∧
      (t.core r c).outq = (s.core r c).outq ++ [{ chanReply s r c 0 p 14 with payload := s.readSram r c (gOffset p.gaddr) (8 * p.glen) }] ∧ sameBut {} (coreKey r c) s.cores t.cores ∧ onlyChanges [.cores] s t) ∧
    (dmaInSram p = false → ∃ t, exec (.dmaReadRequest (.core r c)) s = .next t ∧ t.log.seq ≠ s.log.seq ∧ onlyChanges [.cores, .regions, .bat, .dma, .log] s t)) ∧
  (∀ (s u : State) (r : Region) (p : Packet), s.takeStore r (fun p => p.kind = 13 && !s.lineWaits r p) = some (p, u) →
    (u.dmaInBank r p (fun a => a ≠ .free) = true → ∃ t, exec (.dmaReadRequest (.store r)) s = .next t ∧
      (t.lreg r).outq = (s.lreg r).outq ++ [{ chanReply s r 0 1 p 14 with payload := s.readStore r (gIndex p.gaddr) (gOffset p.gaddr) (8 * p.glen) }] ∧ sameBut {} r.val s.lregions t.lregions ∧ onlyChanges [.lregions] s t) ∧
    (u.dmaInBank r p (fun a => a ≠ .free) = false → ∃ t, exec (.dmaReadRequest (.store r)) s = .next t ∧ t.log.seq ≠ s.log.seq ∧ onlyChanges [.cores, .lregions, .regions, .bat, .dma, .log] s t)) ∧
  (∀ (s : State) (ch : Chan) (x : Desc) (b : List Byte),
    let k := chanKey ch
    let off := (s.chan k).moved
    let fin := decide (x.len ≤ off + b.length)
    let full := fin || decide ((off + b.length) % 512 = 0)
    let gathered := (s.chan k).hold ++ b
    (s.chan k).cur = some x → s.nextData k = some b → s.chanRuns k = true → s.chanCredit k = true → s.chanTurn k = true →
    ∃ t, exec (.dmaReadData ch) s = .next t ∧ (t.chan k).moved = off + b.length ∧ (t.chan k).crc = crcRun (s.chan k).crc b ∧ (t.chan k).cur = some x ∧
      (x.dstHost = false → t.host = s.host) ∧
      (x.dstHost = true → full = false → t.host = s.host ∧ (t.chan k).hold = gathered) ∧
      (x.dstHost = true → full = true → (fin = true → x.csum = 0) → stores s.host t.host (x.dst.toNat + (off + b.length - gathered.length)) gathered ∧ (t.chan k).hold = []) ∧
      (∀ a, x.dstHost = true → ¬ (x.dst.toNat + (off + b.length - gathered.length) ≤ a ∧ a < x.dst.toNat + (off + b.length - gathered.length) + gathered.length) → ¬ (x.dst.toNat + x.len ≤ a ∧ a < x.dst.toNat + x.len + 8) → Tab.get (0 : Byte) t.host a = Tab.get (0 : Byte) s.host a) ∧
      onlyChanges [.host, .regions, .dma] s t) ∧
  (∀ (s u : State) (r : Region) (c : Core) (p : Packet), s.takeCore r c (fun p => p.kind = 12) = some (p, u) →
    (dmaInSram p = true → ∃ t, exec (.dmaWriteArrival (.core r c)) s = .next t ∧ stores s.sram t.sram (s.sramBase r c + gOffset p.gaddr) p.payload ∧
      (t.core r c).outq = (s.core r c).outq ++ [chanReply s r c 0 p 15] ∧ (∀ k, p.last = true → tokOf p.ttok = some k → t.ctr r c k = min (s.ctr r c k + 1) 65535) ∧ (p.last = false ∨ tokOf p.ttok = none → (t.core r c).ctrs = (s.core r c).ctrs) ∧
      sameBut {} (coreKey r c) s.cores t.cores ∧ onlyChanges [.sram, .cores, .regions, .bat] s t) ∧
    (dmaInSram p = false → ∃ t, exec (.dmaWriteArrival (.core r c)) s = .next t ∧ t.log.seq ≠ s.log.seq ∧ onlyChanges [.cores, .regions, .bat, .dma, .log] s t)) ∧
  (∀ (s u : State) (r : Region) (p : Packet), s.takeStore r (fun p => p.kind = 12 && !s.lineWaits r p) = some (p, u) →
    let off := gOffset p.gaddr
    let closed := u.resClosed r (gIndex p.gaddr) (off / 2048) || (decide (2048 < off % 2048 + p.payload.length) && u.resClosed r (gIndex p.gaddr) (off / 2048 + 1))
    (u.dmaInBank r p (fun a => a = .exchange) = true → closed = true → ∃ t, exec (.dmaWriteArrival (.store r)) s = .next t ∧ t.store = { s.store with resRej := sat32 s.store.resRej 1 } ∧
      (t.lreg r).outq = (s.lreg r).outq ++ [{ chanReply s r 0 1 p 15 with nflag := 1 }] ∧ onlyChanges [.lregions, .store, .log] s t) ∧
    (u.dmaInBank r p (fun a => a = .exchange) = true → closed = false → p.payload.length ≤ 2048 → ∃ t, exec (.dmaWriteArrival (.store r)) s = .next t ∧
      stores s.store.mem t.store.mem (lineKey (s.column r) (gIndex p.gaddr) 0 * 2048 + off) p.payload ∧ (∃ q, (t.lreg r).outq = q ++ [chanReply s r 0 1 p 15]) ∧ onlyChanges [.lregions, .regions, .bat, .net, .store, .orc, .out] s t) ∧
    (u.dmaInBank r p (fun a => a = .exchange) = false → ∃ t, exec (.dmaWriteArrival (.store r)) s = .next t ∧ t.log.seq ≠ s.log.seq ∧ onlyChanges [.cores, .lregions, .regions, .bat, .dma, .log] s t))

/-- A dark lane in range of a working engine starts to train. A good training word moves the transmitter's three coefficients as asked and a converged one locks; a bad one is ignored; a lane that takes one sends its own (what that asks is the receiver's, log entry 146). Sixty-four tags of the lane's wavelength start the measurement, and a measurement passes only if both directions stay within 22,400 errors, 160 counted for an uncorrectable codeword; the own result goes to the partner. A state limit or a failed measurement is a failed attempt: it starts again, or the third since DARK retires the pair, counted and logged. In service a window records its errors and reports them, and the hundredth bad one in a row of either direction marks the pair. Loss of lock, and power below -10 dBm or above +3 dBm, darken a lane; above +5 dBm it is logged. Each time only that lane changes, and its link goes down, aligns, announces a change or stays by the lanes it has. Log entry 60 names the reading of the failed attempts. (R225, R226, R227, R228, R229, R230, R232, R233, R236, R248) -/
def Obligations.LanesTrainServeAndRetire : Prop :=
  (∀ (s : State) (e : Engine) (l : Fin 64),
    ((s.engine e).ok = true → (s.lane e l).st = .dark → ∃ t, exec (.lanePowerInRange e l) s = .next t ∧ laneBecomes e l { s.lane e l with st := .equalise, fails := 0 } s t ∧ (t.engine e).retCount = (s.engine e).retCount ∧ onlyChanges [.eng, .log, .out] s t) ∧
    (∀ mdbm : Int,
      (-10000 ≤ mdbm → mdbm ≤ 3000 → exec (.receiverOverPower e ⟨l, mdbm⟩) s = .next s) ∧
      ((s.engine e).ok = true → mdbm < -10000 ∨ 3000 < mdbm → ∃ t, exec (.receiverOverPower e ⟨l, mdbm⟩) s = .next t ∧ onlyChanges [.eng, .log, .out] s t ∧
        (let u := if 5000 < mdbm then s.logHealth { cls := 0x79, sub := e.val * 64 + l.val } else s
         (t.log = u.log ∨ ∃ h, t.log = (u.logHealth h).log) ∧
         ((s.lane e l).st = .retired → t.eng = s.eng) ∧
         ((s.lane e l).st ≠ .retired → laneBecomes e l { s.lane e l with st := .dark, fails := 0, bad := 0, badPartner := 0, mark := false } s t ∧ (t.engine e).retCount = (s.engine e).retCount)))) ∧
    (∀ w : TrainWord, (s.engine e).ok = true → (s.lane e l).st = .equalise →
      ((w.marker ≠ 0x96E15A3C ∨ trainCrcOk w = false) → exec (.trainingWord e l w) s = .next s) ∧
      (w.marker = 0x96E15A3C → trainCrcOk w = true →
        let x := { s.lane e l with pre := tapStep (fld w.coef.toNat 0 2) (s.lane e l).pre, main := tapStep (fld w.coef.toNat 2 2) (s.lane e l).main, post := tapStep (fld w.coef.toNat 4 2) (s.lane e l).post }
        ∃ t own, exec (.trainingWord e l w) s = .next t ∧ onlyChanges [.free, .eng, .log, .out] s t ∧
          own.marker = 0x96E15A3C ∧ own.lane = BitVec.ofNat 10 (e.val * 64 + l.val) ∧ own.rsv = 0 ∧ trainCrcOk own = true ∧
          let u := { s with free := s.free + 1, out := s.out ++ [.training e l own] }
          (w.converged = false → laneOnly e l x u t ∧ t.out = u.out) ∧
          (w.converged = true → laneBecomes e l { x with st := .locked } u t ∧ (t.engine e).retCount = (s.engine e).retCount))) ∧
    ((s.lane e l).st = .equalise ∨ (s.lane e l).st = .locked ∨ (s.lane e l).st = .measure → ∃ t, exec (.laneStateTimeout e l) s = .next t ∧ attemptFails e l 0 0 s t ∧ onlyChanges [.eng, .log, .out] s t) ∧
    (∀ tags : List (BitVec 20), (s.lane e l).st = .locked →
      (tags.length = 64 → (∀ x ∈ tags, x.toNat / 1024 % 8 = l.val % 8) →
        ∃ t, exec (.codewordLock e ⟨l, tags⟩) s = .next t ∧ laneBecomes e l { s.lane e l with st := .measure } s t ∧ (t.engine e).retCount = (s.engine e).retCount ∧ onlyChanges [.eng, .log, .out] s t) ∧
      (tags.length ≠ 64 ∨ (∃ x ∈ tags, x.toNat / 1024 % 8 ≠ l.val % 8) → exec (.codewordLock e ⟨l, tags⟩) s = .next s)) ∧
    (∀ bits unc theirs : Nat,
      let own := bits + 160 * unc
      let u := { s.onEng e (fun x => { x with fecUnc := sat32 x.fecUnc unc }) with out := s.out ++ [.measured e l own] }
      ((s.lane e l).st = .measure → ∃ t, exec (.measureEnd e l ⟨bits, unc⟩ theirs) s = .next t ∧ onlyChanges [.eng, .log, .out] s t ∧
        (own ≤ 22400 → theirs ≤ 22400 → laneBecomes e l { s.lane e l with st := .service, bad := 0, badPartner := 0, mark := false, recent := [] } u t ∧ (t.engine e).retCount = (s.engine e).retCount) ∧
        (22400 < own ∨ 22400 < theirs → attemptFails e l own theirs u t)) ∧
      ((s.lane e l).st = .service → ∃ t, exec (.errorWindowEnd e l ⟨bits, unc⟩ theirs) s = .next t ∧ onlyChanges [.eng, .log, .out] s t ∧
        (let bad := if 22400 < own then (s.lane e l).bad + 1 else 0
         let badPartner := if 22400 < theirs then (s.lane e l).badPartner + 1 else 0
         laneBecomes e l { s.lane e l with err := BitVec.ofNat 32 (min own 0xFFFFFFFF), errPartner := theirs, recent := (own :: (s.lane e l).recent).take 1000, bad := bad, badPartner := badPartner,
                                           mark := (s.lane e l).mark || decide (100 ≤ bad) || decide (100 ≤ badPartner) } u t ∧ (t.engine e).retCount = (s.engine e).retCount))) ∧
    ((s.lane e l).st = .service → ∃ t, exec (.lossOfCodewordLock e l) s = .next t ∧ laneBecomes e l { s.lane e l with st := .dark, fails := 0, bad := 0, badPartner := 0, mark := false } s t ∧ (t.engine e).retCount = (s.engine e).retCount ∧ onlyChanges [.eng, .log, .out] s t ∧
      (∀ j, s.laneLink e l = some j → (s.link e j).st = .up → (t.serviceLanes e j).length < s.minLanes e j → ∃ x, t.log.recs.getLast? = some x ∧ x.item.cls = 0x31 ∧ x.item.sub = e.val * 8 + j)))

/-- A link all of whose lanes are heard within a skew of 32 codewords, counted modulo 1,024, aligns, sends its identity and identifies; one that fails to align goes down, counted. A partner's identity is answered with the own one and the judgement of it: where both ends match the link comes up with the credits granted and what its partner's engine sends is taken again, where either does not it is a mismatch, and while the partner has not judged it identifies still; no identity in time takes it down. At a codeword counter that is a multiple of 256, and that a lane-change frame has agreed at least 64 codewords before, the marked lanes retire, and lanes join or leave the striping, or the link fails. A good frame gives up its acknowledgement, which may make room for a lane-change frame that waited, and its credits, delivers its packets or its beacon if it is the next in sequence, and otherwise makes the link ask for replay once; one with a reserved type or a failed check is lost and asks for replay. Acknowledgements that waited for credits leave after it. A link that is asked, or sees no advance, replays every outstanding frame in order, counted, or fails at the ninth. A link that fails drops its frames, is logged, and aligns afresh where its lanes suffice. No other link or engine changes. Log entries 61, 63, 64 and 143 name the readings. (R226, R230, R232, R233, R234, R235, R236, R237, R244, R246, R354, Table 11.3) -/
def Obligations.LinksAlignIdentifyAndReplay : Prop :=
  let own (s : State) (e : Engine) (f : IdFrame) : Prop := f.midd = s.moduleDigest ∧ f.mod = BitVec.ofNat 16 s.cfg.linkMod ∧ f.engine = e ∧ f.cepoch = s.cfg.epoch ∧ f.root = s.cfg.root ∧ f.lepoch = s.cfg.layout
  (∀ (s : State) (e : Engine) (j : Fin 8),
    ((s.link e j).st = .align →
      (∀ heard, lanesAligned heard (s.serviceLanes e j).length = true → ∃ t g, exec (.linkAlign e j heard) s = .next t ∧ linkOnly e j { s.link e j with st := .identify, lanes := s.serviceLanes e j } s t ∧
        t.out = s.out ++ [.identity e j g] ∧ own s e g ∧ g.agrees = none ∧ onlyChanges [.eng, .out] s t) ∧
      (∀ heard, lanesAligned heard (s.serviceLanes e j).length = false → ∃ t, exec (.linkAlign e j heard) s = .next t ∧ linkFails e j ((s.link e j).aligns + 1) s t)) ∧
    (∀ f : IdFrame, (s.link e j).st = .identify ∨ ((s.link e j).st = .mismatch ∧ (s.link e j).peer ≠ some f) →
      ∃ t g, exec (.identityFrame e j f) s = .next t ∧ (∀ i, i ≠ j.val → t.link e i = s.link e i) ∧ sameBut {} e.val s.eng t.eng ∧ onlyChanges [.eng, .flt, .out] s t ∧
        t.out = s.out ++ [.identity e j g] ∧ own s e g ∧ g.agrees = some (s.identityOk e j f) ∧ (s.identityOk e j f = false ∨ f.agrees ≠ some true → t.flt = s.flt) ∧
        (s.identityOk e j f = true → f.agrees = some true → t.flt = { s.flt with closed := s.flt.closed.filter (· ≠ (f.mod.toNat, f.engine.val)) } ∧
          ∃ cr : Tab Nat, (∀ c, c < 4 → cr.get 0 c = f.credits.getD c 0) ∧ t.link e j = { s.link e j with st := .up, peer := some f, cred := cr, lanes := s.serviceLanes e j } ∧
            ∃ lk, t.engine e = { s.engine e with links := lk }) ∧
        (s.identityOk e j f = true → f.agrees = none → t.link e j = { s.link e j with st := .identify, peer := some f } ∧ ∃ lk, t.engine e = { s.engine e with links := lk }) ∧
        (s.identityOk e j f = false ∨ f.agrees = some false → t.link e j = { s.link e j with st := .mismatch, peer := some f } ∧ ∃ lk, t.engine e = { s.engine e with links := lk, mism := true })) ∧
    ((s.link e j).st = .identify → ∃ t, exec (.identifyTimeout e j) s = .next t ∧ linkFails e j (s.link e j).aligns s t) ∧
    ((s.link e j).st = .up → ∃ t, exec (.linkReplayTimeout e j) s = .next t ∧ replays e j s t) ∧
    (∀ f : Frame, (s.link e j).st = .up →
      ∃ t, exec (.frameReceipt e j f) s = .next t ∧ (frameType f ≠ 4 → onlyChanges [.eng, .log, .out] s t) ∧ onlyChanges [.run, .brg, .stg, .eng, .log, .pwr, .out] s t ∧
        (frameCrcOk f = false ∨ 5 < frameType f → asksReplay e j s t) ∧
        (frameCrcOk f = true → frameType f ≤ 5 → ∃ a u v, linkOnly e j ((s.link e j).ackTo (frameAck f)) s a ∧ onlyChanges [.eng] s a ∧
          (let tells : Prop := (a.link e j).agreed = false ∧ a.hasRoom e j = true ∧ ((a.link e j).lanes ≠ a.serviceLanes e j ∨ ∃ l ∈ a.serviceLanes e j, (a.lane e l).mark = true)
           (tells → linkOnly e j (a.link e j).announced a u ∧ u.out = a.out ++ [.frame e j (changeFrame (a.link e j).fseq (a.link e j).rxLast)] ∧ onlyChanges [.eng, .out] a u) ∧ (¬ tells → u = a)) ∧
          (frameNak f = false → v = u) ∧ (frameNak f = true → replays e j u v) ∧ ((v.link e j).st ≠ .up → t = v) ∧
          ((v.link e j).st = .up → ∃ w x, takesFrame e j f v w ∧ ((w.engine e).acks = [] → x = w) ∧ (∀ k, (x.engine k).arrived = (w.engine k).arrived) ∧ onlyChanges [.eng, .out] w x ∧
            t = if frameType f = 4 ∧ frameSeq f = (v.link e j).rxLast + 1 then x.takeBeacon e j (beaconOfFlits f.flits) else x))) ∧
    (∀ point : ChangePoint, point.counter.toNat % 256 ≠ 0 ∨ ((s.link e j).st = .up ∧ ((s.link e j).agreed = false ∨ point.lead < 64)) → exec (.laneChangePoint e j point) s = .next s) ∧
    (∀ point : ChangePoint, point.counter.toNat % 256 = 0 → ((s.link e j).st = .up ∧ (s.link e j).agreed = true ∧ 64 ≤ point.lead) ∨ (s.link e j).st = .mismatch →
      ∃ u t, exec (.laneChangePoint e j point) s = .next t ∧ onlyChanges [.eng, .log, .out] s u ∧
        (∀ l, l ∈ s.serviceLanes e j → (s.lane e l).mark = true → (u.lane e l).st = .retired) ∧ (∀ l, (l ∉ s.serviceLanes e j ∨ (s.lane e l).mark = false) → u.lane e l = s.lane e l) ∧
        (u.engine e).retCount = (s.engine e).retCount + ((s.serviceLanes e j).filter fun l => (s.lane e l).mark).length ∧
        (∃ ls lk n, u.engine e = { s.engine e with lanes := ls, links := lk, retCount := n }) ∧ sameBut {} e.val s.eng u.eng ∧
        ((u.link e j).st = .down ∨ (u.link e j).st = .align → t = u) ∧
        ((u.link e j).st ≠ .down → (u.link e j).st ≠ .align → lanesAligned point.heard (u.serviceLanes e j).length = true → linkOnly e j { u.link e j with lanes := u.serviceLanes e j, agreed := false } u t ∧ onlyChanges [.eng] u t) ∧
        ((u.link e j).st ≠ .down → (u.link e j).st ≠ .align → lanesAligned point.heard (u.serviceLanes e j).length = false → linkFails e j (u.link e j).aligns u t)))

/-- A link that is mismatched sends the beacon of Table 11.7 in a frame, and so does one that is up once it has room to keep the frame, to be replayed with the others. What a whole beacon frame holds is kept, and its difference in configuration epoch or root and in layout epoch is set on the link; each is logged when it is new or has changed, and not otherwise. Disagreement begins, with its event, when a unit waits on a token of a module in another epoch; it ends, with its event, when no such token is left. Three milliseconds without a beacon set the engine's miss bit and are logged. Traffic and the step go on. Log entries 64 and 67 name the kept frame and the form of the record. (R246, R269, Table 11.7) -/
def Obligations.BeaconsAreSentComparedAndMissed : Prop :=
  (∀ (s : State) (e : Engine) (j : Fin 8),
    (s.beaconing e j = true →
      (let b : Beacon := { step := s.run.step, cepoch := s.cfg.epoch, lepoch := s.cfg.layout, mod := BitVec.ofNat 16 s.cfg.linkMod, eng := BitVec.ofNat 8 e, flags := s.beaconFlags, sag := s.flt.lastSag, root := s.cfg.root }
       let sent := s.out ++ [.frame e j (beaconFrame (s.link e j).fseq (s.link e j).rxLast b)]
       ((s.link e j).st = .up → s.hasRoom e j = true → ∃ t, exec (.beaconSend e j) s = .next t ∧ t.out = sent ∧
          linkOnly e j { s.link e j with outst := (s.link e j).outst ++ [{ seq := (s.link e j).fseq, beacon := some b }], fseq := (s.link e j).fseq + 1 } s t ∧ onlyChanges [.eng, .out] s t) ∧
        ((s.link e j).st = .up → s.hasRoom e j = false → exec (.beaconSend e j) s = .next s) ∧
        ((s.link e j).st = .mismatch → ∃ t, exec (.beaconSend e j) s = .next t ∧ t.out = sent ∧ onlyChanges [.out] s t)) ∧
      (∀ f : Frame, frameCrcOk f = false ∨ frameType f ≠ 4 → exec (.beaconReceipt e j f) s = .next s) ∧
      (∀ f : Frame, frameCrcOk f = true → frameType f = 4 →
        let b := beaconOfFlits f.flits
        let cd := decide (b.cepoch ≠ s.cfg.epoch) || decide (b.root ≠ s.cfg.root)
        let ld := decide (b.lepoch ≠ s.cfg.layout)
        let newC := cd && (!(s.link e j).cdiff || (s.link e j).beacon.any fun o => decide (o.cepoch ≠ b.cepoch ∨ o.root ≠ b.root))
        let newL := ld && (!(s.link e j).ldiff || (s.link e j).beacon.any fun o => decide (o.lepoch ≠ b.lepoch))
        let a : HealthRec := { cls := 0x7A, sub := e.val * 8 + j.val, detail := b.mod.toNat }
        let c : HealthRec := { cls := 0x7A, sub := e.val * 8 + j.val, detail := 2 ^ 16 + b.mod.toNat }
        ∃ t, exec (.beaconReceipt e j f) s = .next t ∧ t = s.takeBeacon e j b ∧ linkOnly e j { s.link e j with beacon := some b, missed := false, cdiff := cd, ldiff := ld } s t ∧
          (newC = false → newL = false → t.log = s.log) ∧ (newC = true → newL = false → t.log = (s.logHealth a).log) ∧ (newC = false → newL = true → t.log = (s.logHealth c).log) ∧
          (newC = true → newL = true → t.log = ((s.logHealth a).logHealth c).log) ∧
          (s.stg.disag = true → t.foreignToks = [] → t.stg = { s.stg with disag := false } ∧ (t.run.events.get {} 0x0B).pend = true ∧ (t.run.events.get {} 0x0B).res1 = 0) ∧
          (s.stg.disag = false → (∃ x ∈ t.foreignToks, s.unitWaitsOn x.1 x.2.1 x.2.2.1 = true) → t.stg = { s.stg with disag := true } ∧ (t.run.events.get {} 0x0B).pend = true ∧ (t.run.events.get {} 0x0B).res1 = 1) ∧
          ((s.stg.disag = true ∧ t.foreignToks ≠ []) ∨ (s.stg.disag = false ∧ ∀ x ∈ t.foreignToks, s.unitWaitsOn x.1 x.2.1 x.2.2.1 = false) → t.stg = s.stg ∧ t.run = s.run ∧ t.brg = s.brg) ∧
          t.run.st = s.run.st ∧ t.run.step = s.run.step ∧ onlyChanges [.run, .brg, .stg, .eng, .log, .pwr] s t)) ∧
    ((s.link e j).st = .up → ∃ t, exec (.beaconMiss e j) s = .next t ∧ t.link e j = { s.link e j with missed := true } ∧ (∀ i, i ≠ j.val → t.link e i = s.link e i) ∧
      (∃ lk, t.engine e = { s.engine e with bmiss := true, links := lk }) ∧ sameBut {} e.val s.eng t.eng ∧
      (∃ x, t.log.recs.getLast? = some x ∧ x.item.cls = 0x7A ∧ x.item.sub = e.val * 8 + j.val ∧ x.item.detail = 2 * 2 ^ 16 + ((s.link e j).peer.elim (0 : U16) (·.mod)).toNat) ∧ onlyChanges [.eng, .log] s t))

/-- An apply token takes its region from those awaited to those loading, and latches its counts of the step that has ended, unless that step is run again or they are latched already. A region whose load has arrived and matches its digest is done, for an application or as a promoted standby, whose program slots alone are written; a digest that does not match is a region fault. Once every region is done and no recovery runs, the go token puts the image, its epoch, root, digests, layout, partners and links into force, retains the old tables of a re-shard, sets the loss scale of an image, sends its marker to the meter three times, waits for the topology check where it must, ends the wait for a warm load, and leaves the stage empty. The clause on the go token has no reset waiting. (R11, R44, R64, R176, R214, R216, R256, R257, R263, R294, R354, R389) -/
def Obligations.TheStagedSetComesIntoForce : Prop :=
  (∀ (s : State) (r : Region), s.stg.applying = true → s.stg.applyToks.contains r.val = true →
    ∃ t, exec (.applyToken r) s = .next t ∧ t.stg = { s.stg with applyToks := s.stg.applyToks.filter (· ≠ r.val), loading := s.stg.loading ++ [r.val] } ∧
      (s.run.st = .idle ∨ s.phys r = none → t.lregions = s.lregions ∧ t.regions = s.regions) ∧
      (∀ p, s.run.st ≠ .idle → s.phys r = some p → t.lreg r = { s.lreg r with counted := true } ∧ sameBut {} r.val s.lregions t.lregions ∧
        (s.run.rerun = true ∨ (s.lreg r).counted = true ∨ (s.lreg r).active = true → t.regions = s.regions) ∧
        (s.run.rerun = false → (s.lreg r).counted = false → (s.lreg r).active = false →
          t.reg p = { s.reg p with counts := [], latched := latchedOf p s.cfg.epoch s.run.step (s.beatUse p) (s.reg p).counts } ∧ sameBut {} p s.regions t.regions)) ∧
      onlyChanges [.lregions, .regions, .stg] s t) ∧
  (∀ (s : State) (r : Region) (come : Bool), s.stg.applying = true → s.stg.loading.contains r.val = true →
    (s.digestMatches r s.stg.image (s.loadedCourse r) come = true →
      ∃ t, exec (.regionLoadComplete r come) s = .next t ∧ t.stg = { s.stg with loading := s.stg.loading.filter (· ≠ r.val) } ∧ onlyChanges [.stg] s t) ∧
    (s.digestMatches r s.stg.image (s.loadedCourse r) come = false → s.run.st = .idle →
      ∃ t, exec (.regionLoadComplete r come) s = .next t ∧ t.bat = { s.bat with faults := s.bat.faults ++ [{ kind := .region r 0x12 }] } ∧ onlyChanges [.bat] s t) ∧
    (∀ p, s.digestMatches r s.stg.image (s.loadedCourse r) come = false → s.run.st ≠ .idle → s.phys r = some p → (h : p < 48) → ∃ t, exec (.regionLoadComplete r come) s = .next t ∧ t.bat = { s.bat with faults := s.bat.faults ++ [{ kind := .region ⟨p, h⟩ 0x12 }] } ∧ onlyChanges [.bat] s t)) ∧
  (∀ (s : State) (r : Region) (come : Bool), (s.stg.applying = false ∨ s.stg.loading.contains r.val = false) → s.flt.promos.any (fun x => decide (x.lregion = r.val) && x.on && !x.courseOk) = true →
    let there := s.digestMatches r s.cfg.image (s.cfg.image.bind fun i => s.readCopy (keeperOf i r) false 2 r) come
    (there = true → ∃ t, exec (.regionLoadComplete r come) s = .next t ∧ t.flt = { s.flt with promos := s.flt.promos.map fun x => if x.lregion = r.val ∧ x.on = true then { x with courseOk := true } else x } ∧
      (∀ b, (∀ c ∈ (s.course r).cores, ∀ k ∈ c.slots, ¬ (s.sramBase r c.core + k * 2048 ≤ b ∧ b < s.sramBase r c.core + k * 2048 + 2048)) → Tab.get (0 : Byte) t.sram b = Tab.get (0 : Byte) s.sram b) ∧
      onlyChanges [.free, .sram, .flt] s t) ∧
    (there = false → s.run.st = .idle → ∃ t, exec (.regionLoadComplete r come) s = .next t ∧ t.bat = { s.bat with faults := s.bat.faults ++ [{ kind := .region r 0x12 }] } ∧ onlyChanges [.bat] s t) ∧
    (∀ p, there = false → s.run.st ≠ .idle → s.phys r = some p → (h : p < 48) → ∃ t, exec (.regionLoadComplete r come) s = .next t ∧ t.bat = { s.bat with faults := s.bat.faults ++ [{ kind := .region ⟨p, h⟩ 0x12 }] } ∧ onlyChanges [.bat] s t)) ∧
  (∀ (s : State) (i : Image), s.stg.applying = true → s.stg.applyToks = [] → s.stg.loading = [] → s.flt.phase = .none → s.stg.image = some i → s.run.resetAsked = false →
    let old := s.cfg.image.getD {}
    let links := (i.link.getD {}).links
    let must := decide (s.run.st = .idle) || decide ((i.mode.getD {}).diag = 1)
    ∃ t map rs, exec .goToken s = .next t ∧
      t.cfg = { s.cfg with
        image := some i, bytes := s.stg.imageBytes, epoch := s.stg.e, root := s.stg.root, digests := s.stg.digests, load := (s.time - s.stg.applyAt).toNat
        layout := if s.stg.reshard then s.cfg.layout + 1 else if s.stg.full then BitVec.ofNat 32 i.lepoch0 else s.cfg.layout
        moves := if s.stg.reshard then movesOf (old.press.getD {}) old.regions (i.press.getD {}) i.regions else if s.stg.full then [] else s.cfg.moves, readySent := []
        oldPress := if s.stg.reshard then old.press else if s.stg.full then none else s.cfg.oldPress
        oldRegions := if s.stg.reshard then old.regions else if s.stg.full then [] else s.cfg.oldRegions
        oldRoutes := if s.stg.reshard then (old.link.getD {}).routes else if s.stg.full then [] else s.cfg.oldRoutes
        partners := s.stg.partners.getD s.cfg.partners, links := links, linkMod := (i.link.getD {}).mod
        topoWait := must && !links.isEmpty, topoOk := !(must && !links.isEmpty) && (s.cfg.topoOk || must), map := map, rsDone := rs } ∧
      (s.run.st ≠ .idle → map = s.cfg.map) ∧ t.stg = { disag := s.stg.disag, decl := s.stg.decl } ∧
      (s.stg.full = true → t.prs.exp = if (i.press.getD {}).ls.lsen then (i.press.getD {}).ls.e0 else 0) ∧ (s.stg.full = false → t.prs.exp = s.prs.exp) ∧
      (∃ m : Marker, m.epoch = s.stg.e ∧ m.root = s.stg.root.setWidth 192 ∧ t.mir.markers = s.mir.markers ++ [m, m, m]) ∧
      t.flt.needLoad = false ∧
      onlyChanges [.free, .sram, .cores, .lregions, .regions, .settings, .grd, .num, .run, .brg, .stg, .cfg, .bat, .net, .store, .orc, .prs, .dma, .eng, .flt, .log, .pwr, .mir, .out] s t)

/-- A core of a clocked region with its clock locked whose live signal stops is reported as a core death, once. A missed deadline blames the target core if its live signal has failed, else the region of the first router on the route that reports a failed link, else the target core; an operation to another module has none. A stalled step blames the first producer of an unmet counter, its core or, for a press, its region; it blames nobody outside a running step, in disagreement, while an orchard row is awaited or a fault is absorbed. Under beat-stepping the three limits are suspended. A supply trip darkens its region and reports it. Each report joins those on the batten network and nothing else changes. Log entries 87 and 88 name the readings of blame. (R129, R274, R275, R276, R288, R305, R406, Table 13.1) -/
def Obligations.FaultsAreDetectedAndBlamed : Prop :=
  (∀ (s : State) (r : Region) (c : PCore),
    ((s.reg r).powered = true → (s.reg r).clockOn = true → (s.reg r).lock = true → s.beatStepping = false → s.liveFailed r c = false →
      ∃ t, exec (.liveSignalTimeout r c) s = .next t ∧ t.bat = { s.bat with faults := s.bat.faults ++ [{ kind := .core r c 0x01 }] } ∧ onlyChanges [.bat] s t) ∧
    ((s.reg r).powered = false ∨ (s.reg r).clockOn = false ∨ (s.reg r).lock = false ∨ s.beatStepping = true ∨ s.liveFailed r c = true → exec (.liveSignalTimeout r c) s = .next s)) ∧
  (∀ (s : State) (r : Region) (c : Core) (i p q : Nat) (o : Outst), (s.outstList r c)[i]? = some o → s.phys r = some p → s.isOwn (gMod o.gaddr) = true → s.beatStepping = false → s.phys (gRegion o.gaddr) = some q →
    ∀ (hq : q < 48) (hc : s.pcore q (gIndex o.gaddr) < 924), ∃ t, exec (.operationDeadline r c i) s = .next t ∧ onlyChanges [.bat] s t ∧
      (s.liveFailed q (s.pcore q (gIndex o.gaddr)) = true → t.bat = { s.bat with faults := s.bat.faults ++ [{ kind := .core ⟨q, hq⟩ ⟨_, hc⟩ 0x04 }] }) ∧
      (∀ x, (hx : x < 48) → s.liveFailed q (s.pcore q (gIndex o.gaddr)) = false → (s.routeOrder p q).find? s.linkFailed = some x → t.bat = { s.bat with faults := s.bat.faults ++ [{ kind := .region ⟨x, hx⟩ 0x04 }] }) ∧
      (s.liveFailed q (s.pcore q (gIndex o.gaddr)) = false → (s.routeOrder p q).find? s.linkFailed = none → t.bat = { s.bat with faults := s.bat.faults ++ [{ kind := .core ⟨q, hq⟩ ⟨_, hc⟩ 0x04 }] })) ∧
  (∀ (s : State) (r : Region) (c : Core) (i p : Nat) (o : Outst), (s.outstList r c)[i]? = some o → s.phys r = some p → s.isOwn (gMod o.gaddr) = false ∨ s.beatStepping = true → exec (.operationDeadline r c i) s = .next s) ∧
  (∀ s : State,
    (s.run.inStep = false ∨ s.run.st ≠ .running ∨ s.stg.disag = true ∨ s.orcWaiting = true ∨ s.flt.phase ≠ .none ∨ s.beatStepping = true → exec .quiescenceWatchdog s = .next s) ∧
    (s.run.inStep = true → s.run.st = .running → s.stg.disag = false → s.orcWaiting = false → s.flt.phase = .none → s.beatStepping = false →
      (s.unmetAll.findSome? s.blameFor = none → exec .quiescenceWatchdog s = .next s) ∧
      (∀ (b : Producer) (p : Nat), s.unmetAll.findSome? s.blameFor = some b → s.phys b.region = some p → (hp : p < 48) →
        (b.core = 0x3FF → ∃ t, exec .quiescenceWatchdog s = .next t ∧ t.bat = { s.bat with faults := s.bat.faults ++ [{ kind := .region ⟨p, hp⟩ 0x05 }] } ∧ onlyChanges [.bat] s t) ∧
        ((hc : s.pcore p b.core < 924) → b.core ≠ 0x3FF → ∃ t, exec .quiescenceWatchdog s = .next t ∧ t.bat = { s.bat with faults := s.bat.faults ++ [{ kind := .core ⟨p, hp⟩ ⟨_, hc⟩ 0x05 }] } ∧ onlyChanges [.bat] s t)))) ∧
  (∀ (s : State) (r : Region),
    ((s.reg r).powered = true → ∃ t, exec (.regionSupplyTrip r) s = .next t ∧ t.reg r = { s.reg r with powered := false, clockOn := false, lock := false } ∧ sameBut {} r.val s.regions t.regions ∧
      t.bat = { s.bat with faults := s.bat.faults ++ [{ kind := .region r 0x10 }] } ∧ onlyChanges [.regions, .bat] s t) ∧
    ((s.reg r).powered = false → exec (.regionSupplyTrip r) s = .next s))

/-- A report leaves the batten network, or is raised by a fault that no command makes (log entry 148). One of a core already fenced or a region already retired changes nothing more. Otherwise it is logged; a core is fenced where its row's spare is free and else loses its region; a lost region is dark and retired and a standby takes its logical number, or with none left the budget is exceeded; the fault is absorbed by a rewind. An illegal operation at a point already seen in the step is an image fault, which holds the module, posts its event and rewinds; at a new point it is remembered, the program slots of its core are loaded again and a rewind alone absorbs it, or, if the reloaded program does not match, it is taken as a fault of the core or region. A hold for cause 5 or 6 stays (log entry 174). Unless exchange lines are lost beyond their sheaf under outer sheaves, for which the step is abandoned and a warm load asked for, a report changes only what it names. While the module runs, a wait on the token of another module of the same epoch beyond its limit is a partner loss. A lockstep divergence is logged, and the second exceeds the budget. Log entries 88, 91, 94 and 114 name the readings. (R118, R256, R269, R272, R277, R278, R281, R287, R288, R293, R294, R298) -/
def Obligations.ReportsAreAbsorbedOrExceedTheBudget : Prop :=
  (∀ (s : State) (i : Nat) (f : FaultRep), s.bat.faults[i]? = some f →
    ∃ t, exec (.faultReport (.queued i)) s = .next t ∧ takesReport f (s.onBat fun b => { b with faults := dropAt b.faults i }) t ∧
      (t.flt.needLoad = s.flt.needLoad → t.bat = { s.bat with faults := dropAt s.bat.faults i } ∧ onlyChanges [.lregions, .regions, .settings, .run, .brg, .cfg, .bat, .net, .store, .flt, .log, .pwr] s t) ∧
      onlyChanges [.sram, .cores, .lregions, .regions, .settings, .num, .run, .brg, .cfg, .bat, .net, .store, .eng, .flt, .log, .pwr] s t) ∧
  (∀ (s : State) (k : FaultKind), ∃ t, exec (.faultReport (.raised k)) s = .next t ∧ takesReport { kind := k } s t ∧
    (t.flt.needLoad = s.flt.needLoad → onlyChanges [.lregions, .regions, .settings, .run, .brg, .cfg, .net, .store, .flt, .log, .pwr] s t) ∧
    onlyChanges [.sram, .cores, .lregions, .regions, .settings, .num, .run, .brg, .cfg, .bat, .net, .store, .eng, .flt, .log, .pwr] s t) ∧
  (∀ (s : State) (i : Nat) (x : IllegalRep) (ok : Bool), s.bat.illegals[i]? = some x →
    ∃ t, exec (.illegalOperationReport i ok) s = .next t ∧
      (t.flt.needLoad = s.flt.needLoad → t.bat = { s.bat with illegals := dropAt s.bat.illegals i } ∧
        onlyChanges [.free, .sram, .lregions, .regions, .settings, .run, .brg, .cfg, .bat, .net, .store, .flt, .log, .pwr] s t) ∧
      onlyChanges [.free, .sram, .cores, .lregions, .regions, .settings, .num, .run, .brg, .cfg, .bat, .net, .store, .eng, .flt, .log, .pwr] s t ∧
      ((s.lreg x.lregion).remembered.contains (x.core, x.point) = true →
        t.run.st = .held ∧ (s.run.hcause < 5 → t.run.hcause = 4) ∧ (5 ≤ s.run.hcause → t.run.hcause = s.run.hcause) ∧ t.flt.image = true ∧ t.log.seq ≠ s.log.seq ∧ (t.run.events.get {} 7).pend = true ∧
        (t.run.events.get {} 7).res1 = BitVec.ofNat 64 (x.lregion % 64 + x.core % 1024 * 64 + x.point % 65536 * 65536) ∧ (s.run.hcause < 5 → s.flt.phase = .none → t.flt.phase = .draining) ∧ t.lregions = s.lregions) ∧
      ((s.lreg x.lregion).remembered.contains (x.core, x.point) = false →
        let noted (u : State) : Prop := u.lreg x.lregion = { s.lreg x.lregion with remembered := (s.lreg x.lregion).remembered ++ [(x.core, x.point)] } ∧ sameBut {} x.lregion s.lregions u.lregions
        (ok = true ∨ s.phys x.lregion = none → noted t) ∧
        (∀ p, s.phys x.lregion = some p → ok = true →
          t.log = (s.logHealth { cls := 0x06, action := 5, pregion := p, lregion := x.lregion, unit := x.core, detail := x.point % 2 ^ 30 }).log ∧ t.regions = s.regions ∧ t.cfg = s.cfg ∧
          (∀ b, (x.core < 896 → ∀ k ∈ (s.coreCourse x.lregion x.core).slots, ¬ (s.sramBase x.lregion (s.coreCourse x.lregion x.core).core + k * 2048 ≤ b ∧ b < s.sramBase x.lregion (s.coreCourse x.lregion x.core).core + k * 2048 + 2048)) →
            Tab.get (0 : Byte) t.sram b = Tab.get (0 : Byte) s.sram b) ∧
          (s.flt.phase = .none → s.run.hcause < 5 → t.flt.phase = .draining ∧ t.flt.replays = sat32 s.flt.replays 1) ∧ (s.flt.phase = .rebuilding ∨ s.flt.phase = .restored → t.flt.phase = .draining)) ∧
        (∀ p, s.phys x.lregion = some p → ok = false → ∀ hp : p < 48, ∃ u, u.bat = { s.bat with illegals := dropAt s.bat.illegals i } ∧ noted u ∧ u.flt = s.flt ∧ u.regions = s.regions ∧ u.cfg = s.cfg ∧ u.run = s.run ∧ u.log = s.log ∧
          (∀ hc : s.pcore p x.core < 924, x.core < 896 → takesReport { kind := .core ⟨p, hp⟩ ⟨_, hc⟩ 0x06 } u t) ∧
          (896 ≤ x.core → takesReport { kind := .region ⟨p, hp⟩ 0x06 } u t)))) ∧
  (∀ (s : State) (m : U16), s.run.inStep = true → s.run.st = .running → s.epochDiffers m.toNat = false → s.flt.partner = false → s.beatStepping = false → (∃ x ∈ s.linkCourse.xtoks, x.2.2.2 = m.toNat ∧ s.unitWaitsOn x.1 x.2.1 x.2.2.1 = true) →
    ∃ t, exec (.partnerLoss m) s = .next t ∧ t.run.st = .held ∧ (s.run.hcause < 5 → t.run.hcause = 3) ∧ t.flt.partner = true ∧ t.flt.partnerMod = m.toNat ∧ t.log.seq ≠ s.log.seq ∧ (t.run.events.get {} 6).pend = true ∧
      (t.run.events.get {} 6).res1 = BitVec.ofNat 64 m.toNat ∧ (s.run.hcause < 5 → s.flt.phase = .none → t.flt.phase = .draining) ∧ onlyChanges [.run, .brg, .flt, .log, .pwr] s t) ∧
  (∀ s : State,
    (s.flt.mgmtOk = true → ∃ t, exec .lockstepDivergence s = .next t ∧ t.flt = { s.flt with mgmtOk := false } ∧ (∃ x, t.log.recs.getLast? = some x ∧ x.item.cls = 0x48 ∧ x.item.done = true) ∧ onlyChanges [.flt, .log] s t) ∧
    (s.flt.mgmtOk = false → ∃ t, exec .lockstepDivergence s = .next t ∧ exhausted t ∧ t.flt.mgmtOk = false ∧ onlyChanges [.run, .brg, .flt, .log, .pwr] s t))

/-- While a rewind drains, its report takes a region from those awaited to the quiet ones; the drain limit discards what is left on the slab and leaves every region quiet. Once none is awaited and the slab is quiet or the limit has passed, the slab is discarded, a row whose core is repaired shifts past it with the program slots of the cores that move loaded again, every core is as the last valid snapshot holds it (at a boundary that of the boundary, though it is still being written, log entry 136) but for the bridge packets and parity deltas still in its queues, the SRAM bytes of the snapshot's carry sets are as it holds them and every other byte stays, and each press in service waits afresh: its counters, its begun micro-batches and its orchard counts are the snapshot's, its gathered gradients, counts and phases are gone. Bridge channels, the store, the health log and the epochs stay. The recovery is then restored, or rebuilding where a relocation is not far enough, or over where the module is held. Each does nothing at any other time. (R277, R278, R280, R281, R282, R283, R287) -/
def Obligations.TheRewindDrainsAndRestores : Prop :=
  (∀ (s : State) (r : Region),
    (s.flt.phase = .draining → s.flt.awaiting.contains r.val = true →
      ∃ t, exec (.rewind r) s = .next t ∧ t.flt = { s.flt with awaiting := s.flt.awaiting.filter (· ≠ r.val), quiet := s.flt.quiet ++ [r.val] } ∧ onlyChanges [.flt] s t) ∧
    (s.flt.phase ≠ .draining ∨ s.flt.awaiting.contains r.val = false → exec (.rewind r) s = .next s)) ∧
  (∀ s : State,
    (s.flt.phase = .draining →
      ∃ t, exec .drainTimeout s = .next t ∧ slabDiscarded s t ∧ t.flt = { s.flt with awaiting := [], quiet := s.serviceRegions, drainedOut := true } ∧
        onlyChanges [.cores, .lregions, .bat, .net, .eng, .flt] s t) ∧
    (s.flt.phase ≠ .draining → exec .drainTimeout s = .next s)) ∧
  (∀ (s : State) (q : Snapshot), s.flt.phase = .draining → s.flt.awaiting = [] → (s.flt.drainedOut = true ∨ s.slabQuiet = true) → s.reentrySnap = some q →
    ∃ t, exec .rewindQuiescent s = .next t ∧
      ((s.cores.map (·.1)).Nodup → (q.cores.map (·.1)).Nodup → ∀ k, Tab.get {} t.cores k =
        { Tab.get {} q.cores k with outq := dropPackets (Tab.get {} s.cores k).outq, inHi := dropPackets (Tab.get {} s.cores k).inHi, inNo := dropPackets (Tab.get {} s.cores k).inNo }) ∧
      (∃ m, t.sram = State.restoreSram { s with sram := m, flt := t.flt } q ∧ (s.flt.repairs = [] → m = s.sram)) ∧ (∃ u, slabDiscarded s u ∧ t.bat = u.bat ∧ t.net = u.net ∧ t.eng = u.eng) ∧
      (∀ f p c cls, s.flt.repairs = [f] → f.kind = .core p c cls → (s.reg p).retired = false → t.flt.fences = s.flt.fences.set none (p.val * 28 + c.val / 33) (some (c.val % 33))) ∧
      (s.flt.repairs = [] → t.flt.fences = s.flt.fences) ∧
      (∀ r ∈ s.serviceRegions, ∃ l : LRegionSt, t.lreg r = l ∧ l.active = ((s.run.inStep || s.run.crossed) && !s.run.tokens.contains r) ∧ l.ctrs = ((q.ctrs.find? fun x => x.1 = r).map (·.2)).getD [] ∧ l.mbBegun = ((q.begun.find? fun x => x.1 = r).map (·.2)).getD 0 ∧
        l.mbEnded = l.mbBegun ∧ l.orcTold = ((q.told.find? fun x => x.1 = r).map (·.2)).getD [] ∧ l.counts = [] ∧ l.parts = [] ∧ l.asm = [] ∧ l.phases = [] ∧ l.sums = [] ∧ l.endSent = false ∧
        quietQueue l.outq = true ∧ quietQueue l.inHi = true ∧ quietQueue l.inNo = true) ∧
      ((∀ x ∈ q.dma, isRegionChan x.1 = true) → ∀ k, isRegionChan k = false → t.chan k = s.chan k) ∧
      t.run = { s.run with ended := [] } ∧ t.num = { s.num with top := q.mb, done := s.num.done.map fun x => (x.1, min x.2 q.mb) } ∧
      t.flt.quiet = s.serviceRegions ∧ t.flt.relog = s.flt.inlog ∧ t.flt.aliases = [] ∧ t.flt.pendSnap = (if s.atBoundary then s.flt.pendSnap else none) ∧
      t.flt.phase = (if 3 ≤ s.run.hcause then .none else if s.promosReady then .restored else .rebuilding) ∧
      onlyChanges [.free, .sram, .cores, .lregions, .num, .run, .bat, .net, .dma, .eng, .flt] s t) ∧
  (∀ s : State, (s.flt.phase ≠ .draining ∨ s.flt.awaiting ≠ [] ∨ (s.flt.drainedOut = false ∧ s.slabQuiet = false)) → exec .rewindQuiescent s = .next s)

/-- A region that waits at a commit point reports it, and while another region in service has not, nothing else changes. Once every one has, the snapshot of the module is ordered, of the step, the micro-batch, what each core and region channel carries over, the core SRAM of the carry sets, the store-interface counters and what the orchards were told; it is written into one of the two runs of the commit store, the other than the last valid one's, and no other byte of the store changes. While a delta of one of its lines is open or in flight it is not settled and nothing happens; once settled it becomes the last valid one, the inbound logs keep the contributions of the step alone, and every region may begin its micro-batch; one of a step boundary lets the module go on from there. The carry sets and the written lines' content are the model's reading (log entries 44 and 136). (R20, R146, R279, R280, R285) -/
def Obligations.CommitPointsAreReportedAndSettled : Prop :=
  (∀ (s : State) (r : Region), s.regionRuns r = true → s.flt.phase = .none → s.waitsAtCommit r = true → s.inService r = true →
    ((∃ q ∈ s.serviceRegions, q ≠ r.val ∧ (s.lreg q).cpReported = false) →
      ∃ t, exec (.commitPointReport r) s = .next t ∧ t.lreg r = { s.lreg r with cpReported := true } ∧ sameBut {} r.val s.lregions t.lregions ∧ onlyChanges [.lregions] s t) ∧
    ((∀ q ∈ s.serviceRegions, q ≠ r.val → (s.lreg q).cpReported = true) →
      ∃ (t : State) (x : Snapshot), exec (.commitPointReport r) s = .next t ∧ t.flt = { s.flt with pendSnap := some x } ∧ (t.lreg r).cpReported = true ∧ x.step = s.run.step ∧ x.mb = (s.lreg r).mbBegun ∧
        (s.flt.snap = none → x.runB = false) ∧ (∀ q, s.flt.snap = some q → x.runB = !q.runB) ∧
        x.cores = mapTab {} CoreSt.carried s.cores ∧ x.sram = s.carrySram ∧ x.ready = s.cfg.readySent ∧
        x.ctrs = s.serviceRegions.map (fun q => (q, (s.lreg q).ctrs)) ∧ x.begun = s.serviceRegions.map (fun q => (q, (s.lreg q).mbBegun)) ∧
        x.told = s.serviceRegions.map (fun q => (q, (s.lreg q).orcTold)) ∧ x.dma = mapTab {} DmaSt.carried (s.dma.filter fun y => isRegionChan y.1) ∧
        (∀ b, s.offSnap b → Tab.get 0 t.store.mem b = Tab.get 0 s.store.mem b) ∧ onlyChanges [.free, .lregions, .net, .store, .orc, .flt] s t)) ∧
  (∀ (s : State) (r : Region), s.regionRuns r = false ∨ s.flt.phase ≠ .none ∨ s.waitsAtCommit r = false → exec (.commitPointReport r) s = .next s) ∧
  (∀ (s : State) (q : Snapshot), s.flt.pendSnap = some q → s.snapIsSettled q = true → s.run.inStep = false →
    exec .snapshotSettled s = .next (s.onFlt fun f => { f with snap := some q, pendSnap := none }).advanceAgain) ∧
  (∀ (s : State) (q : Snapshot), s.flt.pendSnap = some q → s.snapIsSettled q = true → s.run.inStep = true →
    ∃ t, exec .snapshotSettled s = .next t ∧ t.flt = { s.flt with snap := some q, pendSnap := none, logFull := false, inlog := s.flt.inlog.filter fun x => !x.sent && s.isContribution x.p } ∧
      (∀ x ∈ t.lregions, ∃ y ∈ s.lregions, x = (y.1, { y.2 with cpReported := false })) ∧
      (∀ y ∈ s.lregions, ({ y.2 with cpReported := false } : LRegionSt) = {} ∨ (y.1, { y.2 with cpReported := false }) ∈ t.lregions) ∧ onlyChanges [.lregions, .flt] s t) ∧
  (∀ (s : State) (q : Snapshot), s.flt.pendSnap = some q → (∃ r ∈ s.serviceRegions, ∃ d ∈ (s.lreg r).outDeltas, (d.bank, d.line) ∈ s.snapLines q.runB r) → exec .snapshotSettled s = .next s) ∧
  (∀ s : State, s.flt.pendSnap = none → exec .snapshotSettled s = .next s)

/-- A clocked region's PLL locks; one that has not locked in time is reported once as a configuration fault. The governor's millisecond takes the carrier's voltage and power, both zero with the meter cartridge away, and a running meter its own voltage and channel currents; below 20 V the meter's display keeps what it shows. The governor lowers the module duty fraction by a sixteenth down to four while power is above the least of 44 kW, the cap and the coolant allowance, raises it at every tenth tick while power is below 0.95 of that, and gives every region the lesser of it and its thermal fraction; a hundredth tick of excess at four sixteenths quiesces the module. The junction temperature moves a region's thermal fraction likewise, below 16/16 with the alert; at 105 °C a powered region trips and reports a supply fault. (R305, R311, R314, R318, R319, R377, R379, R382; the meter's readings once a millisecond are the model's reading, log entry 82) -/
def Obligations.ClocksAndDutyFollowTheirLimits : Prop :=
  (∀ (s : State) (r : Region),
    ((s.reg r).powered = true → (s.reg r).clockOn = true →
      ∃ t, exec (.pllLocked r) s = .next t ∧ t.reg r = { s.reg r with lock := true } ∧ sameBut {} r.val s.regions t.regions ∧ onlyChanges [.regions] s t) ∧
    ((s.reg r).powered = false ∨ (s.reg r).clockOn = false → exec (.pllLocked r) s = .next s)) ∧
  (∀ (s : State) (r : Region),
    ((s.reg r).powered = true → (s.reg r).clockOn = true → (s.reg r).lock = false →
      exec (.pllLockTimeout r) s = .next { s with bat := { s.bat with faults := s.bat.faults ++ [{ kind := .region r 0x13 }] } }) ∧
    ((s.reg r).powered = false ∨ (s.reg r).clockOn = false ∨ (s.reg r).lock = true → exec (.pllLockTimeout r) s = .next s)) ∧
  (∀ (s : State) (x : InletReading),
    let mv : U16 := if s.meter.seated = true then x.mv else 0
    let watts : U16 := if s.meter.seated = true then x.watts else 0
    ∃ m, (s.meter.live = false → m = s.meter) ∧
      (s.meter.live = true → ∃ a b, m = { s.meter with mv := x.meterMv.toNat, ia := x.chanA, ib := x.chanB, apartAll := a, alikeAll := b, image := m.image } ∧
        (a = true ↔ s.meter.apartAll = true ∧ 3 * (x.chanA + x.chanB).natAbs < 2000 * (x.chanA - x.chanB).natAbs) ∧
        (b = true ↔ s.meter.alikeAll = true ∧ 2000 * (x.chanA - x.chanB).natAbs ≤ 3 * (x.chanA + x.chanB).natAbs) ∧
        (20000 < x.meterMv.toNat → m.image = s.meter.image) ∧
        (x.meterMv.toNat ≤ 20000 → m.image = if 20000 < s.meter.mv then s.meter.screenContent s.meter.screen else s.meter.image)) ∧
    (s.pwr.stage = 0 → exec (.governorTick x) s = .next { s with pwr := { s.pwr with mv := mv, watts := watts }, meter := m }) ∧
    (s.pwr.stage ≠ 0 →
      let p := min 4400000 (min ((s.setting 0x900C).toNat % 64 * 100000) s.pwr.allowC)   -- hundredths of a watt
      let w := 100 * watts.toNat
      ∃ t, exec (.governorTick x) s = .next t ∧
        ((p < w ∧ s.pwr.mduty = 4 ∧ 100 ≤ s.pwr.gateMs + 1) → quiesced { s with pwr := { s.pwr with mv := mv, watts := watts }, meter := m } t) ∧
        (¬ (p < w ∧ s.pwr.mduty = 4 ∧ 100 ≤ s.pwr.gateMs + 1) →
          onlyChanges [.pwr, .regions, .meter] s t ∧ t.pwr.watts = watts ∧ t.pwr.mv = mv ∧ t.meter = m ∧
          (p < w → t.pwr.mduty = max 4 (s.pwr.mduty - 1) ∧ t.pwr.riseMs = 0) ∧
          (w ≤ p → 100 * w < 95 * p → 10 ≤ s.pwr.riseMs + 1 → t.pwr.mduty = min 16 (s.pwr.mduty + 1) ∧ t.pwr.riseMs = 0) ∧
          (w ≤ p → 100 * w < 95 * p → s.pwr.riseMs + 1 < 10 → t.pwr.mduty = s.pwr.mduty ∧ t.pwr.riseMs = s.pwr.riseMs + 1) ∧
          (w ≤ p → 95 * p ≤ 100 * w → t.pwr.mduty = s.pwr.mduty ∧ t.pwr.riseMs = 0) ∧
          (t.pwr.mduty < 16 → t.pwr.alert.getLsbD 2 = true) ∧
          (∀ q, q < 48 → (t.reg q).duty = min t.pwr.mduty (s.reg q).tduty) ∧
          (∀ q, ∃ d g, t.reg q = { s.reg q with duty := d, gate := g })))) ∧
  (∀ (s : State) (r : Region) (tj : Byte),
    ∃ t, exec (.thermalDutyTick r tj) s = .next t ∧ onlyChanges [.pwr, .regions] s t ∧ (t.reg r).tj = tj ∧
      (92 < tj.toNat → (t.reg r).tduty = max 4 ((s.reg r).tduty - 1)) ∧
      (tj.toNat < 90 → (t.reg r).tduty = if 10 ≤ s.pwr.tempRise.get 0 r + 1 then min 16 ((s.reg r).tduty + 1) else (s.reg r).tduty) ∧
      (90 ≤ tj.toNat → tj.toNat ≤ 92 → (t.reg r).tduty = (s.reg r).tduty) ∧
      ((t.reg r).tduty < 16 → t.pwr.alert.getLsbD 3 = true) ∧ t.pwr.mduty = s.pwr.mduty ∧
      (t.reg r).duty = min s.pwr.mduty (t.reg r).tduty ∧ (∀ q, q ≠ r.val → ∃ d g, t.reg q = { s.reg q with duty := d, gate := g })) ∧
  (∀ (s : State) (r : Region),
    ((s.reg r).powered = true →
      ∃ t, exec (.junctionTrip r) s = .next t ∧ t.pwr.alert = s.pwr.alert ||| 0x10 ∧ (t.reg r).powered = false ∧ (t.reg r).clockOn = false ∧ (t.reg r).lock = false ∧
        sameBut {} r.val s.regions t.regions ∧ t.bat = { s.bat with faults := s.bat.faults ++ [{ kind := .region r 0x10 }] } ∧ onlyChanges [.regions, .bat, .pwr] s t) ∧
    ((s.reg r).powered = false → exec (.junctionTrip r) s = .next s))

/-- Of a sensor pair the lower flow and the higher temperature count, or the one that reports; of two that differ by more than a tenth one alone counts, which of them is a free value; the allowance is 0.6875 kW per L/min of flow. A pair that differs by more than a tenth, or a sensor silent for ten samples, marks SENS, and each pair that becomes faulty is logged, with SENS unread too; two silent flow sensors give no flow. Flow below 64 L/min or an inlet outside 20 °C to 40 °C raises alert 1. In service, above 45 °C or below 16 L/min the module quiesces. (R316, R317, Table 14.7; the sampling of R316 and R317 as counts of commands is the model's reading, log entry 96) -/
def Obligations.CoolantIsSampledAndLimited : Prop :=
  (∀ (s : State) (fa fb ta tb : Option (BitVec 10)) (tout : BitVec 10),
    ∃ t, exec (.coolantSample fa fb ta tb tout) s = .next t ∧
      (∀ x y, fa = some x → fb = some y → 10 * (max x.toNat y.toNat - min x.toNat y.toNat) ≤ max x.toNat y.toNat → t.pwr.flow = min x.toNat y.toNat) ∧
      (∀ x y, fa = some x → fb = some y → max x.toNat y.toNat < 10 * (max x.toNat y.toNat - min x.toNat y.toNat) → t.pwr.flow = if (Config.freeValue s.free).testBit 0 then x.toNat else y.toNat) ∧
      (∀ x, fa = some x → fb = none → t.pwr.flow = x.toNat) ∧ (∀ y, fa = none → fb = some y → t.pwr.flow = y.toNat) ∧
      (fa = none → fb = none → 10 ≤ s.pwr.silentA + 1 → 10 ≤ s.pwr.silentB + 1 → t.pwr.flow = 0) ∧
      (∀ x y, ta = some x → tb = some y → 10 * (max x.toNat y.toNat - min x.toNat y.toNat) ≤ max x.toNat y.toNat → t.pwr.tin = max x.toNat y.toNat) ∧
      (∀ x y, ta = some x → tb = some y → max x.toNat y.toNat < 10 * (max x.toNat y.toNat - min x.toNat y.toNat) → t.pwr.tin = if (Config.freeValue s.free).testBit 1 then x.toNat else y.toNat) ∧
      (∀ x, ta = some x → tb = none → t.pwr.tin = x.toNat) ∧ (∀ y, ta = none → tb = some y → t.pwr.tin = y.toNat) ∧
      t.pwr.tout = tout.toNat ∧ t.pwr.allowC = t.pwr.flow * 6875 ∧
      (∀ x y, fa = some x → fb = some y → max x.toNat y.toNat < 10 * (max x.toNat y.toNat - min x.toNat y.toNat) → t.pwr.sens = true) ∧
      (∀ x y, ta = some x → tb = some y → max x.toNat y.toNat < 10 * (max x.toNat y.toNat - min x.toNat y.toNat) → t.pwr.sens = true) ∧
      ((fa = none ∧ 10 ≤ s.pwr.silentA + 1) ∨ (fb = none ∧ 10 ≤ s.pwr.silentB + 1) ∨ (ta = none ∧ 10 ≤ s.pwr.silentTA + 1) ∨ (tb = none ∧ 10 ≤ s.pwr.silentTB + 1) → t.pwr.sens = true) ∧
      (s.pwr.sens = true → t.pwr.sens = true) ∧
      (t.pwr.badFlow = true ∨ t.pwr.badTin = true → t.pwr.sens = true) ∧
      ((t.pwr.badFlow = true → s.pwr.badFlow = true) → (t.pwr.badTin = true → s.pwr.badTin = true) → t.log = s.log) ∧
      ((t.pwr.badFlow = true ∧ s.pwr.badFlow = false) ∨ (t.pwr.badTin = true ∧ s.pwr.badTin = false) → t.log.seq ≠ s.log.seq) ∧
      (t.pwr.flow < 640 ∨ t.pwr.tin < 200 ∨ 400 < t.pwr.tin → t.pwr.alert = s.pwr.alert ||| 0x2) ∧
      (640 ≤ t.pwr.flow → 200 ≤ t.pwr.tin → t.pwr.tin ≤ 400 → t.pwr.alert = s.pwr.alert) ∧ onlyChanges [.free, .log, .pwr] s t) ∧
  (∀ s : State,
    (s.pwr.ready = true → 450 < s.pwr.tin ∨ s.pwr.flow < 160 → ∃ t, exec .coolantLimit s = .next t ∧ quiesced s t) ∧
    (s.pwr.ready = false ∨ (s.pwr.tin ≤ 450 ∧ 160 ≤ s.pwr.flow) → exec .coolantLimit s = .next s))

/-- An inlet below 44 V, above 56 V or above 60 V is noted with alert 0 and a module that is on quiesces; one from 45 V to 56 V, the cartridge seated, is in range and, with PWR_EN and MOD_RST_N high and the module off, starts bring-up at its first stage, and control-die time with it. PWR_EN accepted high does the same with the inlet in range; accepted low it quiesces a module that is on. A level low of MOD_RST_N loses everything but non-volatile state and holds the module at stage 0; a shorter pulse is counted up to 255 and ignored. (R311, R312, R320, R321, R322, R324, R377, Table 14.4, Table 14.5; the alert after a quiesce is the model's reading, log entry 167) -/
def Obligations.InletAndPinsStartAndStopTheModule : Prop :=
  (∀ (s : State) (c : U16 → Instr) (mv : U16),
    ((c = .powerFail ∧ mv.toNat < 44000) ∨ (c = .overVoltage ∧ 56000 < mv.toNat) ∨ (c = .absoluteOverVoltage ∧ 60000 < mv.toNat)) →
    ∃ t, exec (c mv) s = .next t ∧
      (s.pwr.stage = 0 → t = { s with pwr := { s.pwr with inletOk := false, mv := mv, standby := 0, alert := s.pwr.alert ||| 1 } }) ∧
      (s.pwr.stage ≠ 0 → quiesced { s with pwr := { s.pwr with inletOk := false, mv := mv, standby := 0 } } t ∧ t.pwr.alert = 1)) ∧
  (∀ (s : State) (mv : U16), (44000 ≤ mv.toNat → exec (.powerFail mv) s = .next s) ∧ (mv.toNat ≤ 56000 → exec (.overVoltage mv) s = .next s) ∧
    (mv.toNat ≤ 60000 → exec (.absoluteOverVoltage mv) s = .next s) ∧ (s.meter.seated = false ∨ mv.toNat < 45000 ∨ 56000 < mv.toNat → exec (.inletRestored mv) s = .next s)) ∧
  (∀ (s : State) (mv : U16), s.meter.seated = true → 45000 ≤ mv.toNat → mv.toNat ≤ 56000 →
    let starts := s.pwr.pwrEn = true ∧ s.pwr.rstLow = false ∧ s.pwr.stage = 0
    exec (.inletRestored mv) s = .next { s with pwr := { s.pwr with inletOk := true, mv := mv, stage := if starts then 1 else s.pwr.stage }, time := if starts then 0 else s.time }) ∧
  (∀ s : State,
    let starts := s.pwr.inletOk = true ∧ s.pwr.rstLow = false ∧ s.pwr.stage = 0
    exec .pwrEnHigh s = .next { s with pwr := { s.pwr with pwrEn := true, stage := if starts then 1 else s.pwr.stage }, time := if starts then 0 else s.time }) ∧
  (∀ s : State, ∃ t, exec .pwrEnLow s = .next t ∧ (s.pwr.stage = 0 → t = { s with pwr := { s.pwr with pwrEn := false } }) ∧
    (s.pwr.stage ≠ 0 → quiesced { s with pwr := { s.pwr with pwrEn := false } } t)) ∧
  (∀ s : State, ∃ t, exec .modRstN s = .next t ∧ volatileGone s t ∧ t.log = s.log ∧ t.out = s.out ∧ t.pwr.stage = 0 ∧ t.pwr.rstLow = true ∧ t.time = 0) ∧
  (∀ s : State, ∃ t, exec .rstgl s = .next t ∧ t.pwr = { s.pwr with rstgl := t.pwr.rstgl } ∧ t.pwr.rstgl.toNat = min (s.pwr.rstgl.toNat + 1) 255 ∧ onlyChanges [.pwr] s t)

/-- While nothing has failed, each bring-up stage ends into the next: stage 2 once the meter's export is live, and the photonic engines then power up; stage 3 once coolant flows at 32 L/min or more and at 20 °C to 40 °C; stage 5 powers and tests every region and shifts its rows by the fuse map, a core that fails shifts a row whose spare is free and else retires its region, and stages 5 and 6 switch off and retire the regions that fail; stage 6 computes the routes and ends ready. A stage up to 4 that runs out of time sets its failure code and alert 5 and nothing more begins; any other end or time-out changes nothing. (R15, R317, R324, R325, Table 14.8) -/
def Obligations.BringUpRunsItsStages : Prop :=
  (∀ (s : State) (failed : List Region) (cores : List (Region × PCore)),
    (s.pwr.fail ≠ 0 ∨ s.pwr.stage = 0 ∨ 7 ≤ s.pwr.stage → exec (.bringUpStageEnd failed cores) s = .next s) ∧
    (s.pwr.fail = 0 → s.pwr.stage = 1 ∨ s.pwr.stage = 4 → exec (.bringUpStageEnd failed cores) s = .next { s with pwr := { s.pwr with stage := s.pwr.stage + 1 } }) ∧
    (s.pwr.fail = 0 → s.pwr.stage = 2 →
      (s.mir.live = false → exec (.bringUpStageEnd failed cores) s = .next s) ∧
      (s.mir.live = true → ∃ t, exec (.bringUpStageEnd failed cores) s = .next t ∧ t.pwr = { s.pwr with stage := 3 } ∧
        (∀ e, t.engine e = if e < 16 then { s.engine e with ok := true } else s.engine e) ∧ onlyChanges [.eng, .pwr] s t)) ∧
    (s.pwr.fail = 0 → s.pwr.stage = 3 →
      exec (.bringUpStageEnd failed cores) s = .next (if 320 ≤ s.pwr.flow ∧ 200 ≤ s.pwr.tin ∧ s.pwr.tin ≤ 400 then { s with pwr := { s.pwr with stage := 4 } } else s)) ∧
    (s.pwr.fail = 0 → s.pwr.stage = 5 →
      ∃ t, exec (.bringUpStageEnd failed cores) s = .next t ∧ t.pwr = { s.pwr with stage := 6 } ∧ (∀ q, q < 48 → (t.reg q).tested = true) ∧
        (∀ p ∈ failed, (t.reg p).powered = false ∧ (t.reg p).clockOn = false ∧ (t.reg p).retired = true) ∧
        (∀ q, q < 48 → (∀ p ∈ failed, p.val ≠ q) → (∀ x ∈ cores, x.1.val ≠ q) → (t.reg q).powered = true ∧ (t.reg q).retired = (s.reg q).retired) ∧
        (cores = [] → t.flt.fences = s.pwr.fuse) ∧
        (∀ (p : Region) (c : PCore), cores = [(p, c)] → s.pwr.fuse.get none (p.val * 28 + c.val / 33) = none →
          t.flt.fences = s.pwr.fuse.set none (p.val * 28 + c.val / 33) (some (c.val % 33)) ∧ (failed = [] → (t.reg p).powered = true)) ∧
        (∀ (p : Region) (c : PCore) (f : Nat), cores = [(p, c)] → s.pwr.fuse.get none (p.val * 28 + c.val / 33) = some f → f ≠ c.val % 33 → (t.reg p).retired = true ∧ (t.reg p).powered = false) ∧
        onlyChanges [.regions, .flt, .pwr] s t) ∧
    (s.pwr.fail = 0 → s.pwr.stage = 6 →
      ∃ t, exec (.bringUpStageEnd failed cores) s = .next t ∧ t.pwr = { s.pwr with stage := 7, ready := true } ∧
        (∀ p ∈ failed, (t.reg p).powered = false ∧ (t.reg p).clockOn = false ∧ (t.reg p).retired = true) ∧
        (∀ q, (∀ p ∈ failed, p.val ≠ q) → t.reg q = s.reg q) ∧ onlyChanges [.regions, .net, .pwr] s t)) ∧
  (∀ (s : State) (coolant : Bool),
    (1 ≤ s.pwr.stage → s.pwr.stage ≤ 4 → s.pwr.fail = 0 →
      exec (.bringUpStageTimeout coolant) s =
        .next { s with pwr := { s.pwr with fail := if s.pwr.stage = 4 then 5 else if s.pwr.stage = 3 ∧ coolant = true then 4 else s.pwr.stage, alert := s.pwr.alert ||| 0x20 } }) ∧
    (s.pwr.stage = 0 ∨ 4 < s.pwr.stage ∨ s.pwr.fail ≠ 0 → exec (.bringUpStageTimeout coolant) s = .next s))

/-- While the first step waits for it, the topology check passes once every declared link is up with its declared partner and fibres and no stray lane of such an engine serves; the configuration is then checked, and a running module that stands at a boundary below its limit with nothing armed sends the commit token. Past the limit of the check the module raises alert 6 and event 0x0A with the number of links that do not match, and waits on. The link-error check of each second counts the marginal links, keeps the first since the last read, raises alert 7 for any, and marks those links alone; a link is marginal where a lane of it that serves had more than 2,240,000 errored bits in the thousand windows of 1 ms last closed. (R19, R327, R328, R350, R357) -/
def Obligations.LinksAreCheckedBeforeAndDuringService : Prop :=
  (∀ s : State, (s.cfg.topoWait = false ∨ s.topologyOk = false → exec .topologyCheckPass s = .next s) ∧
    (s.cfg.topoWait = true → s.topologyOk = true →
      ∃ t, exec .topologyCheckPass s = .next t ∧ t.cfg = { s.cfg with topoWait := false, topoOk := true } ∧
        (s.run.inStep = false → s.flt.phase = .none → s.stg.applying = false → s.stg.st ≠ .armed → s.run.st = .running → s.run.stopAsked = false → s.run.crossed = false →
          s.run.step.toNat ≤ s.run.limit.toNat → t.run.tokens = s.serviceRegions ∧ t.run.st = .running ∧ t.run.inStep = decide (s.store.slots.get 0 (s.slotFor s.run.step) = 1)) ∧
        (s.run.inStep = true → t = { s with cfg := { s.cfg with topoWait := false, topoOk := true } }) ∧
        onlyChanges [.free, .lregions, .settings, .num, .run, .brg, .stg, .cfg, .net, .store, .orc, .flt, .pwr] s t)) ∧
  (∀ s : State, (s.cfg.topoWait = false → exec .topologyTimeout s = .next s) ∧
    (s.cfg.topoWait = true →
      ∃ t, exec .topologyTimeout s = .next t ∧ t.pwr = { s.pwr with topoTo := true, alert := s.pwr.alert ||| 0x240 } ∧ (t.run.events.get {} 0x0A).pend = true ∧
        (t.run.events.get {} 0x0A).res1 = BitVec.ofNat 64 (s.cfg.links.filter fun d => !s.linkMatches d).length ∧ onlyChanges [.run, .brg, .pwr] s t)) ∧
  (∀ s : State, ∃ t, exec .linkErrorCheck s = .next t ∧ onlyChanges [.eng, .pwr] s t ∧
    t.pwr = { s.pwr with nmarg := min s.marginalLinks.length 255, marg := s.pwr.marg || decide (s.marginalLinks ≠ []),
                         margLink := if s.pwr.marg then s.pwr.margLink else s.marginalLinks.headD s.pwr.margLink
                         alert := if s.marginalLinks = [] then s.pwr.alert else s.pwr.alert ||| 0x80 } ∧
    (∀ n, n ∈ s.marginalLinks ↔ n < 128 ∧ ∃ l ∈ s.serviceLanes (n / 8) (n % 8), 2240000 < ((s.lane (n / 8) l).recent.take 1000).sum) ∧
    (∀ n ∈ s.marginalLinks, (t.link (n / 8) (n % 8)).marginal = true) ∧
    (∀ x ∈ t.eng, ∀ y ∈ x.2.links, y.2.marginal = true → ∃ n ∈ s.marginalLinks, x.1 = n / 8 ∧ y.1 = n % 8) ∧
    (∀ x ∈ t.eng, (∃ y ∈ s.eng, x.1 = y.1 ∧ x.2 = { y.2 with links := x.2.links }) ∨ x.2 = { links := x.2.links }))

/-- A fault of the working CXL controller moves the host link to the other one, counted, logged and told; a second leaves the link down for good and exceeds the sparing budget. The link comes up again only on a working controller. An access of the host, to a doorbell, a queue context, a register or the window, is done while its link is up, and waits its turn while the link recovers; with the link up again, its second record written, those that waited are performed in their order. After a failure of the ROM check nothing but the management bus answers. A header line is read again only over a link that is up. IDE keys are in use or not as the host last set them. (R298, R324, R331, R335) -/
def Obligations.TheHostLinkFailsOverOnce : Prop :=
  (∀ s : State,
    (s.brg.spareOk = true →
      ∃ t, exec .bridgeControllerFailover s = .next t ∧ t.brg.act = !s.brg.act ∧ t.brg.spareOk = false ∧ t.brg.linkDown = true ∧ t.brg.dead = s.brg.dead ∧
        t.brg.failover.toNat = min (s.brg.failover.toNat + 1) 0xFFFF ∧ t.brg.delayed = s.brg.delayed ∧ (∃ x, t.log.recs.getLast? = some x ∧ x.item.cls = 0x49 ∧ x.item.done = true) ∧
        (t.run.events.get {} 0x0E).pend = true ∧ t.flt = s.flt ∧ onlyChanges [.run, .brg, .log, .pwr] s t) ∧
    (s.brg.spareOk = false →
      ∃ t, exec .bridgeControllerFailover s = .next t ∧ t.brg.linkDown = true ∧ t.brg.dead = true ∧ exhausted t ∧ onlyChanges [.run, .brg, .flt, .log, .pwr] s t)) ∧
  (∀ (s : State) (c : Instr), c.hostAccess →
    (s.pwr.fail = 1 → exec c s = .next s) ∧
    (s.pwr.fail ≠ 1 → s.brg.linkDown = true → exec c s = .next { s with brg := { s.brg with delayed := s.brg.delayed ++ [c] } }) ∧
    (s.pwr.fail ≠ 1 → s.brg.linkDown = false → ∃ t, exec c s = .next t ∧
      onlyChanges [.sram, .cores, .lregions, .regions, .settings, .grd, .num, .run, .brg, .stg, .cfg, .bat, .net, .store, .orc, .prs, .dma, .eng, .flt, .log, .pwr, .keys, .mir] s t)) ∧
  (∀ s : State, s.brg.dead = true ∨ s.brg.linkDown = false → exec .cxlLinkRecovered s = .next s) ∧
  (∀ s : State, s.brg.dead = false → s.brg.linkDown = true →
    ∃ u t x, exec .cxlLinkRecovered s = .next t ∧ performs u s.brg.delayed t ∧ u.brg = { s.brg with linkDown := false, delayed := [] } ∧ u.log.recs.getLast? = some x ∧ x.item.cls = 0x49 ∧ x.item.done = true ∧
      x.item.detail = min (s.time.toNat - s.brg.downSince) 0xFFFFFFFF ∧ onlyChanges [.brg, .log] s u) ∧
  (∀ (s : State) (q : Fin 32768), (s.brg.linkDown = true → exec (.headerLineReread q) s = .next s) ∧
    (s.brg.linkDown = false → ∃ t, exec (.headerLineReread q) s = .next t ∧ onlyChanges [.brg, .log] s t)) ∧
  (∀ (s : State) (b : Bool), exec (.ideKmOverDoe b) s = .next { s with brg := { s.brg with ide := b } })

/-- A recovery that has restored resumes at once, one that rebuilds once every relocation is far enough: the repairs are logged as done, the recovery is over, the contributions that the inbound logs hold enter the slab again, a shard moved in since the snapshot gives its ready emits again, and of SRAM nothing but the scale cells changes, and those only at a re-entry to the step's start. Otherwise nothing happens. A promoted standby that is not yet powered is powered with its clock, its beat counter zero, and the routes are computed again; with a pair that cannot be routed the budget is exceeded. (R118, R222, R281, R285, R288, R289, R290, R298) -/
def Obligations.RecoveryResumesOnceItsRelocationsAllow : Prop :=
  (∀ (s : State) (c : Instr),
    ((c = .resumeToken ∧ s.flt.phase = .restored) ∨ (c = .replayStart ∧ s.flt.phase = .rebuilding ∧ (∀ x ∈ s.flt.promos, x.rebuilt = true ∨ (x.on = true ∧ x.courseOk = true ∧ s.paramsRebuilt x.lregion = true)))) →
    ∃ t, exec c s = .next t ∧ t.flt.phase = .none ∧ t.flt.quiet = [] ∧ t.flt.repairs = [] ∧ t.flt.drainedOut = false ∧ t.flt.promos = s.flt.promos ∧ t.flt.fences = s.flt.fences ∧
      (s.flt.repairs ≠ [] → ∃ x, t.log.recs.getLast? = some x ∧ x.item.done = true ∧ x.item.detail = min (s.time - s.flt.since).toNat 0xFFFFFFFF) ∧ (s.flt.repairs = [] → t.log = s.log) ∧
      (∀ x ∈ s.flt.relog, x.sent = false → s.isContribution x.p = true → x.p ∈ (t.engine x.e).toSlab) ∧
      (∀ e, ∃ l, t.engine e = { s.engine e with toSlab := (s.engine e).toSlab ++ l }) ∧
      (∀ x ∈ s.cfg.readySent, (∀ q, s.reentrySnap = some q → x ∉ q.ready) → ∀ sh, s.shard x.1 x.2 = some sh → ∀ y ∈ sh.ready, y ∈ t.bat.emits) ∧ (∃ l, t.bat = { s.bat with emits := s.bat.emits ++ l }) ∧
      (∀ b, offScales s b → Tab.get 0 t.sram b = Tab.get 0 s.sram b) ∧ (∀ q, s.flt.snap = some q → q.mb ≠ 0 → t.sram = s.sram) ∧
      onlyChanges [.free, .sram, .lregions, .regions, .settings, .num, .run, .brg, .stg, .bat, .net, .store, .orc, .eng, .flt, .log, .pwr] s t) ∧
  (∀ s : State, s.flt.phase ≠ .restored → exec .resumeToken s = .next s) ∧
  (∀ s : State, s.flt.phase ≠ .rebuilding ∨ (∃ x ∈ s.flt.promos, x.rebuilt = false ∧ (x.on = false ∨ x.courseOk = false ∨ s.paramsRebuilt x.lregion = false)) → exec .replayStart s = .next s) ∧
  (∀ s : State, (∀ x ∈ s.flt.promos, x.on = true) → exec .standbyPowered s = .next s) ∧
  (∀ (s : State) (x : Promo) (u v : List Promo), s.flt.promos = u ++ x :: v → (∀ y ∈ u, y.on = true) → x.on = false → x ∉ v →
    ∃ t, exec .standbyPowered s = .next t ∧ t.flt.promos = u ++ { x with on := true } :: v ∧ t.reg x.standby = { s.reg x.standby with powered := true, clockOn := true, lock := false, beat := 0 } ∧
      sameBut {} x.standby s.regions t.regions ∧ (t.net.unroutable ≠ [] → exhausted t ∧ onlyChanges [.regions, .run, .brg, .net, .flt, .log, .pwr] s t) ∧ (t.net.unroutable = [] → onlyChanges [.regions, .net, .flt] s t))

/-- A step of a rebuild at line j of a sheaf with one lost member takes the chain of that member's line, or starts it where the line is next in order: the next survivor's settled line is exclusive-ored into data and stamp, and no byte of the store changes; the seventh's result is written into the target line with its stamp, counted, and, for a master line, its working half is regenerated and counted once its working line is whole, as for a line of a cached orchard row the row's working lines are; no other byte of the store changes. When every line of the region is rebuilt, its relocation is whole. With a second member of the sheaf's line gone, a parameter line under module protection is rebuilt from the partners' segments, whose content is a free value; an exchange line under module protection is a loss that takes the module back to its last step boundary, to wait stopped for a warm load, where it has not been taken there, and the line starts again with a free content; without module protection the loss is one of state. At any other line nothing happens. The free contents are by log entries 46 and 163. (R144, R147, R150, R158, R289, R290, R294) -/
def Obligations.LostLinesAreRebuiltThroughTheirSurvivors : Prop :=
  (∀ (s : State) (g : Region) (i line : Nat),
    (∀ h, (s.course g).sheaves[i]? = some h → h.n ≤ line ∨ s.settled (memberLine h 7 line) = false ∨ s.rebuildTarget h line = none) → exec (.rebuildChainStep g i line) s = .next s) ∧
  (∀ (s : State) (g : Region) (i line : Nat) (h : Sheaf) (m r : Nat) (c : RebuildChain),
    (s.course g).sheaves[i]? = some h → line < h.n → s.settled (memberLine h 7 line) = true → s.rebuildTarget h line = some (m, r) →
    let x := memberLine h m line
    ((s.flt.chains.find? fun c => c.lregion = r && c.bank = x.2.1 && c.line = x.2.2) = some c ∨
      ((s.flt.chains.find? fun c => c.lregion = r && c.bank = x.2.1 && c.line = x.2.2) = none ∧ s.nextRebuild r = some (x.2.1, x.2.2) ∧
        c = { lregion := r, bank := x.2.1, line := x.2.2, data := List.replicate 2048 0 })) →
    let a := lineKey (s.column c.lregion) c.bank c.line
    let rebuilt (d : List Byte) (st : Byte) (t : State) : Prop :=
      (∀ z ∈ t.flt.chains, ¬ (z.lregion = c.lregion ∧ z.bank = c.bank ∧ z.line = c.line)) ∧ t.flt.rebuilt = s.flt.rebuilt ++ [a] ∧ min (s.store.rebuild.toNat + 1) 0xFFFFFFFF ≤ t.store.rebuild.toNat ∧
      (s.copyOf c.lregion c.bank c.line copyMaster = none → s.orcPlace c.lregion c.bank c.line = none → t.store.rebuild.toNat = min (s.store.rebuild.toNat + 1) 0xFFFFFFFF) ∧
      (∀ k j, s.copyOf c.lregion c.bank c.line copyMaster = some (k, j) →
        t.store.rebuild.toNat = min (s.store.rebuild.toNat + if j % 2 = 1 ∨ j + 1 = ((s.shards c.lregion).getD k {}).nlines then 2 else 1) 0xFFFFFFFF) ∧
      (s.copyOf c.lregion c.bank c.line copyMaster = none → s.orcPlace c.lregion c.bank c.line = none → stores s.store.mem t.store.mem (a * 2048) d ∧ t.stamp c.lregion c.bank c.line = st) ∧
      (∀ k j b n, s.copyOf c.lregion c.bank c.line copyMaster = some (k, j) → (s.copyLines c.lregion ((s.shards c.lregion).getD k {}) copyWorking)[j / 2]? = some (b, n) →
        lineKey (s.column c.lregion) b n ≠ a → d.length = 2048 → t.readLine c.lregion c.bank c.line = d ∧ t.stamp c.lregion c.bank c.line = st ∧ holdsWorking (t.readLine c.lregion b n) (j % 2) d) ∧
      (∀ b, ¬ (a * 2048 ≤ b ∧ b < a * 2048 + d.length) →
        (∀ sh ∈ s.shards c.lregion, ∀ w ∈ s.copyLines c.lregion sh copyWorking, ¬ (lineKey (s.column c.lregion) w.1 w.2 * 2048 ≤ b ∧ b < lineKey (s.column c.lregion) w.1 w.2 * 2048 + 2048)) →
        (∀ n pos y, s.orcPlace c.lregion c.bank c.line = some (n, pos) → s.orcTable n = some y → ∀ o ∈ y.owners, ∀ w ∈ s.rowWork c.lregion y o pos,
          ¬ (lineKey (s.column c.lregion) w.1 w.2 * 2048 ≤ b ∧ b < lineKey (s.column c.lregion) w.1 w.2 * 2048 + 2048)) →
        Tab.get 0 t.store.mem b = Tab.get 0 s.store.mem b) ∧
      ((∀ l ∈ s.rebuildOrder c.lregion, s.lineRebuilt c.lregion l = true ∨ l = (c.bank, c.line)) → ∀ z ∈ t.flt.promos, z.lregion = c.lregion → z.rebuilt = true)
    (s.othersGone h m line = false → ∀ k, ((List.range 8).filter (· ≠ m))[c.passed]? = some k →
      let y := memberLine h k line
      let d := xorBytes c.data (s.readLine y.1 y.2.1 y.2.2)
      let st := c.stamp ^^^ s.stamp y.1 y.2.1 y.2.2
      ∃ t, exec (.rebuildChainStep g i line) s = .next t ∧
        (c.passed + 1 ≠ 7 → (t.flt.chains.find? fun z => z.lregion = c.lregion && z.bank = c.bank && z.line = c.line) = some { c with passed := c.passed + 1, data := d, stamp := st } ∧
          t.flt.rebuilt = s.flt.rebuilt ∧ t.flt.promos = s.flt.promos ∧ onlyChanges [.flt] s t) ∧
        (c.passed + 1 = 7 → rebuilt d st t ∧ onlyChanges [.bat, .store, .flt] s t)) ∧
    (s.othersGone h m line = true →
      let goesBack := areaOf (s.course c.lregion) c.bank c.line ≠ .parameter ∧ s.run.hcause < 5 ∧ s.flt.needLoad = false
      (s.modeCourse.prot = true →
        ∃ t, exec (.rebuildChainStep g i line) s = .next t ∧ rebuilt (leBytes 2048 (Config.freeValue s.free)) (BitVec.ofNat 8 (Config.freeValue (s.free + 1))) t ∧
          (¬ goesBack → onlyChanges [.free, .bat, .store, .flt] s t) ∧
          (goesBack → t.run.st = .stopped ∧ t.run.hcause = 0 ∧ t.run.atStep = true ∧ t.run.inStep = false ∧ t.run.step = s.run.step ∧ t.flt.needLoad = true ∧ (∃ x, t.log.recs.getLast? = some x ∧ x.item.cls = 0x50) ∧
            onlyChanges [.free, .sram, .cores, .lregions, .regions, .num, .run, .bat, .net, .store, .eng, .flt, .log] s t)) ∧
      (s.modeCourse.prot = false → 5 ≤ s.run.hcause → exec (.rebuildChainStep g i line) s = .next s) ∧
      (s.modeCourse.prot = false → s.run.hcause < 5 →
        ∃ t, exec (.rebuildChainStep g i line) s = .next t ∧ t.run.st = .held ∧ t.run.hcause = 6 ∧ onlyChanges [.run, .brg, .flt, .log, .pwr] s t)))

/-- A sag exchange record leaves for every outer-sheaf partner with the local sag, the present meter time and the echo of the partner's last record. A partner's record keeps its sending time, its sag and, from an echo, the offset of its meter; a sag of it within 100 µs of the local one, both known and not counted yet, is logged and counted among those of the last 24 hours, and the third raises feed correlation once, with its event. A record of any other module does nothing. (R295; the offset from four times is the model's reading, log entry 86) -/
def Obligations.SagsAreExchangedAndCorrelated : Prop :=
  (∀ s : State,
    ∃ t, exec .sagExchangeSend s = .next t ∧ t.out = s.out ++ s.outerPartners.map (fun m => Out.sag m (s.sagRecord m)) ∧ onlyChanges [.out] s t ∧
      (∀ m, (s.sagRecord m).sag = s.flt.lastSag ∧ (s.sagRecord m).sent = s.meter.time ∧ (s.sagRecord m).step = s.run.step ∧ (s.sagRecord m).cepoch = s.cfg.epoch) ∧
      (∀ m a b, (s.flt.echoes.find? fun x => x.1 = m) = some (m, a, b) → (s.sagRecord m).echoSent = a ∧ (s.sagRecord m).echoAt = b)) ∧
  (∀ (s : State) (x : SagRec),
    (s.outerPartners.contains x.mod.toNat = false → exec (.sagExchangeRecord x) s = .next s) ∧
    (s.outerPartners.contains x.mod.toNat = true →
      let m := x.mod.toNat
      let off := if x.echoSent = 0 then s.flt.offsets.find? fun y => y.1 = m else some (m, (((x.echoAt.toNat : Int) - x.echoSent.toNat) + ((x.sent.toNat : Int) - s.meter.time.toNat)) / 2)
      let meets := s.flt.lastSag ≠ 0 ∧ x.sag ≠ 0 ∧ (∃ o, off = some (m, o) ∧ ((x.sag.toNat : Int) - o - s.flt.lastSag.toNat).natAbs ≤ 100) ∧ s.flt.coinc.contains (m, x.sag.toNat, s.flt.lastSag.toNat) = false
      let l := (s.flt.coinc.filter fun y => decide (s.flt.lastSag.toNat ≤ y.2.2 + 86400000000)) ++ [(m, x.sag.toNat, s.flt.lastSag.toNat)]
      ∃ t, exec (.sagExchangeRecord x) s = .next t ∧ onlyChanges [.run, .brg, .flt, .log, .pwr] s t ∧
        (t.flt.echoes.find? fun y => y.1 = m) = some (m, x.sent, s.meter.time) ∧ (t.flt.partnerSags.find? fun y => y.1 = m) = some (m, x.sag) ∧
        (t.flt.offsets.find? fun y => y.1 = m) = off ∧
        (∀ n, n ≠ m → (t.flt.echoes.find? fun y => y.1 = n) = (s.flt.echoes.find? fun y => y.1 = n) ∧ (t.flt.partnerSags.find? fun y => y.1 = n) = (s.flt.partnerSags.find? fun y => y.1 = n) ∧
          (t.flt.offsets.find? fun y => y.1 = n) = (s.flt.offsets.find? fun y => y.1 = n)) ∧
        (¬ meets → t.flt.coinc = s.flt.coinc ∧ t.flt.corr = s.flt.corr ∧ t.log = s.log ∧ t.run = s.run) ∧
        (meets → t.flt.coinc = l ∧ t.log.seq ≠ s.log.seq) ∧
        (meets → l.length < 3 ∨ s.flt.corr = true → t.flt.corr = s.flt.corr ∧ t.run = s.run ∧ ∃ z, t.log.recs.getLast? = some z ∧ z.item.cls = 0x3A ∧ z.item.sub = m) ∧
        (meets → 3 ≤ l.length → s.flt.corr = false → t.flt.corr = true ∧ (t.run.events.get {} 0x0C).pend = true ∧ ∃ z, t.log.recs.getLast? = some z ∧ z.item.cls = 0x39 ∧ z.item.sub = m)))

/-- With meter time at a multiple of 900 s an interval record is due, once; below 44 V a power-lost record with the inlet voltage, and the display shows screen 1; with the inlet dead power is restored by its record, then a seal record for each event of the time without power. A start writes its record and sends the newest 64 again. Opening the cover latches tamper, and each seal event is counted and its record due, at once or, with the inlet dead, when power is restored: cover opened 0, closed 1, cartridge unseated 2, seated 3, session begun 4, ended 5, time adjusted 6. An unseated cartridge takes the module's power with it. A session begins only while the cover is open; meter time is adjusted and the latch cleared only within one. The records due are written as their microsecond ends, interval, power lost, power restored, seal event, configuration epoch in this order: each has the next sequence number, the meter time of its occasion, the fields of Table 17.3 with the digest of the record before and the signature, joins the store and leaves on the export link, and after an interval record a new interval begins. Nothing happens where the state asked for holds already. (R377, R381, R383, R384, R385, R386, R388, R392, Table 17.3; the records of an unseated cartridge are the model's reading, log entry 168) -/
def Obligations.TheMeterRecordsItsOccasionsAndSealEvents : Prop :=
  (∀ s : State,
    (s.meter.time.toNat % 900000000 ≠ 0 ∨ (∃ x ∈ s.meter.occ, x.what = .interval) → exec .intervalRecord s = .next s) ∧
    (s.meter.time.toNat % 900000000 = 0 → (∀ x ∈ s.meter.occ, x.what ≠ .interval) →
      exec .intervalRecord s = .next { s with meter := { s.meter with occ := s.meter.occ ++ [⟨.interval, s.meter.time⟩] } })) ∧
  (∀ (s : State) (mv : U16), (s.meter.lost = true ∨ 44000 ≤ mv.toNat → exec (.meterPowerLost mv) s = .next s) ∧
    (s.meter.lost = false → mv.toNat < 44000 →
      exec (.meterPowerLost mv) s = .next { s with meter := { s.meter with mv := mv.toNat, occ := s.meter.occ ++ [⟨.lost mv.toNat, s.meter.time⟩], lost := true, screen := 1 } })) ∧
  (∀ s : State, (s.meter.lost = false → exec .meterPowerRestored s = .next s) ∧
    (s.meter.lost = true →
      exec .meterPowerRestored s = .next { s with meter := { s.meter with lost := false, seals := [], occ := s.meter.occ ++ [⟨.restored, s.meter.time⟩] ++ s.meter.seals.map fun x => ⟨.seal x.1, x.2⟩ } })) ∧
  (∀ s : State, ∃ t r, exec .meterStart s = .next t ∧ { s.meter with live := true }.writes 6 0 0 s.meter.time r t.meter ∧ onlyChanges [.meter, .mir] s t ∧
    exports s t (.record r :: (t.meter.recs.drop (t.meter.recs.length - 64)).map fun x => .record x.2)) ∧
  (∀ s : State, (s.meter.coverOpen = true → exec .coverOpened s = .next s) ∧
    (s.meter.coverOpen = false → ∃ t, exec .coverOpened s = .next t ∧ sealsEvent { s.meter with coverOpen := true, tamper := true } 0 s t)) ∧
  (∀ s : State, (s.meter.coverOpen = false → exec .coverClosed s = .next s) ∧
    (s.meter.coverOpen = true → ∃ t, exec .coverClosed s = .next t ∧ sealsEvent { s.meter with coverOpen := false } 1 s t)) ∧
  (∀ s : State, ∃ t, exec .unseated s = .next t ∧
    (∃ u, sealsEvent { s.meter with seated := false, unseated := true } 2 s u ∧ (s.meter.lost = true → t.meter = u.meter) ∧
      (s.meter.lost = false → t.meter = { u.meter with occ := u.meter.occ ++ [⟨.lost s.meter.mv, s.meter.time⟩], lost := true, screen := 1 })) ∧
    (s.pwr.inletOk = false → onlyChanges [.meter] s t) ∧
    (s.pwr.inletOk = true → s.pwr.stage = 0 → t.pwr = { s.pwr with inletOk := false, mv := 0, standby := 0, alert := s.pwr.alert ||| 1 } ∧ onlyChanges [.meter, .pwr] s t) ∧
    (s.pwr.inletOk = true → s.pwr.stage ≠ 0 → quiesced { s with meter := t.meter, pwr := { s.pwr with inletOk := false, mv := 0, standby := 0 } } t ∧ t.pwr.alert = 1)) ∧
  (∀ s : State, ∃ t, exec .seated s = .next t ∧ sealsEvent { s.meter with seated := true } 3 s t) ∧
  (∀ s : State, (s.meter.coverOpen = false ∨ s.meter.session = true → exec .serviceSessionBegin s = .next s) ∧
    (s.meter.coverOpen = true → s.meter.session = false → ∃ t, exec .serviceSessionBegin s = .next t ∧ sealsEvent { s.meter with session := true } 4 s t)) ∧
  (∀ s : State, (s.meter.session = false → exec .serviceSessionEnd s = .next s) ∧
    (s.meter.session = true → ∃ t, exec .serviceSessionEnd s = .next t ∧ sealsEvent { s.meter with session := false } 5 s t)) ∧
  (∀ (s : State) (x : U64), (s.meter.session = false → exec (.meterTimeAdjust x) s = .next s) ∧
    (s.meter.session = true → ∃ t, exec (.meterTimeAdjust x) s = .next t ∧ sealsEvent { s.meter with time := x, adjusted := true } 6 s t)) ∧
  (∀ s : State, exec .tamperClear s = .next (if s.meter.session = true then { s with meter := { s.meter with tamper := false } } else s)) ∧
  (∀ s : State, s.pending = [] →
    ∃ t n rs, step s = .next t ∧ { s.meter with occ := [] }.writesOccasions s.meter.ordered rs n ∧ exports s t (rs.map .record) ∧ t.meter.recs = n.recs ∧ t.meter.seq = n.seq ∧ t.meter.occ = [] ∧
      t.meter.cepoch = n.cepoch ∧ t.meter.roott = n.roott ∧ t.meter.istart = n.istart ∧ t.meter.image = n.image)

/-- With the meter's inlet above 20 V a press steps the display from screen 1 to 7 and round again, and the timeout shows screen 1; below, the image stays. The screens show import, firmware version and checksum, serial number, time, seal status, reverse energy and every segment. Channels that have differed by more than 0.3 % of their mean for a whole 60 s set channel disagreement, for the present and for the interval; channels that have agreed for a whole 60 s clear the present; else it stays. A sag begins where the voltage falls below 44 V and below 90 % of the mean of the last second; it is counted, timed and exported once, and none begins before it has ended; it ends once the voltage has been 1 V above the threshold for 100 µs. Of the markers on their way, one that arrives broken is discarded and a repeat of the last accepted ignored; within 100 ms of the last accepted one a marker is held, and a replaced one counted; otherwise it is accepted. When the 100 ms end, the held marker is accepted with the count of those it replaced; with none held the 100 ms are over. (R380, R382, R383, R387, R389, Table 17.2; the duration a sag notice carries is the model's choice, log entry 83) -/
def Obligations.DisplaySagsAndMarkersFollowTheirRules : Prop :=
  (∀ s : State, (20000 < s.meter.mv →
      exec .buttonPress s = .next { s with meter := { s.meter with screen := s.meter.screen % 7 + 1, image := s.meter.screenContent (s.meter.screen % 7 + 1) } } ∧
      exec .displayTimeout s = .next { s with meter := { s.meter with screen := 1, image := s.meter.screenContent 1 } }) ∧
    (s.meter.mv ≤ 20000 → exec .buttonPress s = .next s ∧ exec .displayTimeout s = .next s)) ∧
  (∀ m : MeterSt, m.screenContent 1 = .imported (m.eimp / 7200000000000 / 1000) ∧ m.screenContent 2 = .firmware 0x0102 m.checksum ∧ m.screenContent 3 = .serial m.serial ∧
    (∃ y mo d, m.screenContent 4 = .clock y mo d (m.time.toNat / 3600000000 % 24) (m.time.toNat / 60000000 % 60) (m.time.toNat / 1000000 % 60)) ∧
    m.screenContent 5 = .seal m.tamper m.nseal ∧ m.screenContent 6 = .reverse (m.erev / 7200000000000 / 1000) ∧ m.screenContent 7 = .allOn) ∧
  (∀ (s : State) (a b : U32),
    (3 * (a.toInt + b.toInt).natAbs < 2000 * (a.toInt - b.toInt).natAbs → ∃ d, (d = true ↔ s.meter.disagree = true ∨ s.meter.apartAll = true) ∧
      exec (.channelComparison a b) s = .next { s with meter := { s.meter with disagree := d, disInt := s.meter.disInt || d, apartAll := true, alikeAll := true } }) ∧
    (2000 * (a.toInt - b.toInt).natAbs ≤ 3 * (a.toInt + b.toInt).natAbs → ∃ d, (d = true ↔ s.meter.disagree = true ∧ s.meter.alikeAll = false) ∧
      exec (.channelComparison a b) s = .next { s with meter := { s.meter with disagree := d, disInt := s.meter.disInt || d, apartAll := true, alikeAll := true } })) ∧
  (∀ (m : MeterSt) (v : Nat), v < m.sagLimit ↔ v < 44000 ∧ ((m.runs.map (·.2)).sum = 0 ∨ 10 * (m.runs.map (·.2)).sum * v < 9 * (m.runs.map fun x => x.1 * x.2).sum)) ∧
  (∀ (s : State) (mv : U16),
    (s.meter.sag ≠ none ∨ s.meter.sagLimit ≤ mv.toNat → exec (.sagBegin mv) s = .next s) ∧
    (s.meter.sag = none → mv.toNat < s.meter.sagLimit → ∃ t, exec (.sagBegin mv) s = .next t ∧ onlyChanges [.meter, .mir] s t ∧ exports s t [.sag s.meter.time 20 (BitVec.ofNat 16 (mv.toNat / 10))] ∧
      t.meter.nsag.toNat = min (s.meter.nsag.toNat + 1) 0xFFFFFFFF ∧ t.meter.sagLast = s.meter.time ∧ t.meter.sagFirst = (if s.meter.nsag = 0 then s.meter.time else s.meter.sagFirst) ∧
      t.meter = { s.meter with mv := mv.toNat, sag := some s.meter.time, nsag := t.meter.nsag, sagFirst := t.meter.sagFirst, sagLast := t.meter.sagLast })) ∧
  (∀ (s : State) (dur : U32) (low : U16),
    let vs := s.meter.runs.flatMap fun x => List.replicate x.2 x.1   -- the voltage of each microsecond, newest first
    (100 ≤ vs.length → (∀ v ∈ vs.take 100, s.meter.sagLimit + 1000 ≤ v) → exec (.sagEnd dur low) s = .next { s with meter := { s.meter with sag := none } }) ∧
    (vs.length < 100 ∨ (∃ v ∈ vs.take 100, v < s.meter.sagLimit + 1000) → exec (.sagEnd dur low) s = .next s)) ∧
  (∀ (s : State) (i : Nat) (ok : Bool), s.mir.markers[i]? = none → exec (.markerReceipt i ok) s = .next s) ∧
  (∀ (s : State) (i : Nat) (k : Marker) (ok : Bool), s.mir.markers[i]? = some k →
    let u := { s with mir := { s.mir with markers := dropAt s.mir.markers i } }
    (ok = false ∨ s.meter.accepted = some (k.epoch, k.root) → exec (.markerReceipt i ok) s = .next u) ∧
    (ok = true → s.meter.accepted ≠ some (k.epoch, k.root) → s.meter.window = true →
      exec (.markerReceipt i ok) s = .next { u with meter := { s.meter with heldM := some k, merges := if s.meter.heldM = none then s.meter.merges else s.meter.merges + 1 } }) ∧
    (ok = true → s.meter.accepted ≠ some (k.epoch, k.root) → s.meter.window = false → ∃ t, exec (.markerReceipt i ok) s = .next t ∧ acceptsMarker u k 0 t)) ∧
  (∀ s : State, (s.meter.heldM = none → exec .markerHoldEnd s = .next { s with meter := { s.meter with window := false } }) ∧
    (∀ k, s.meter.heldM = some k → ∃ t, exec .markerHoldEnd s = .next t ∧ acceptsMarker s k s.meter.merges t))

/-- A status frame carries meter time, the registers in milliwatt-hours, the flags and the newest sequence number; an identity frame the public key, serial number, firmware checksum and version 1.2; backfill sends the newest 4,096 records again in turn. Of the frames on the link, one that arrives broken is discarded and counted; a status or identity frame fills its registers; a record already mirrored is ignored, one whose signature fails under the identity key or whose `PREV` disagrees with a mirrored neighbour is counted and not mirrored, one whose slot is not free under stop at full sets FULL, and any other is held in slot SEQ mod 32,768; a sag notice gives the local sag. Loss of the export is noted once, with its alert and event. (R295, R388, R390, R391, R393, Table 17.2) -/
def Obligations.TheExportLinkFillsTheMirror : Prop :=
  (∀ s : State, ∃ t fl, exec .statusFrame s = .next t ∧ onlyChanges [.mir] s t ∧
    exports s t [.status s.meter.time (BitVec.ofNat 64 (s.meter.eimp / 7200000000000)) (BitVec.ofNat 64 (s.meter.erev / 7200000000000)) fl s.meter.seq] ∧
    fl.getLsbD 0 = s.meter.tamper ∧ fl.getLsbD 1 = s.meter.unseated ∧ fl.getLsbD 2 = (s.meter.disagree || s.meter.disInt) ∧ fl.getLsbD 3 = s.meter.vOut ∧ fl.getLsbD 4 = s.meter.iOver ∧
    fl.getLsbD 5 = s.meter.adjusted ∧ fl.toNat < 64) ∧
  (∀ s : State, ∃ t, exec .identityFrameExport s = .next t ∧ onlyChanges [.mir] s t ∧ exports s t [.identity (BitVec.ofNat 456 s.meter.pub) s.meter.serial s.meter.checksum 0x0102]) ∧
  (∀ s : State, (s.meter.recs = [] → exec .backfill s = .next s) ∧
    (∀ n x, n = min s.meter.recs.length 4096 → s.meter.recs[s.meter.recs.length - n + s.meter.backfill % n]? = some x →
      ∃ t, exec .backfill s = .next t ∧ onlyChanges [.meter, .mir] s t ∧ exports s t [.record x.2] ∧ t.meter = { s.meter with backfill := (s.meter.backfill + 1) % n })) ∧
  (∀ (s : State) (i : Nat) (ok : Bool), s.mir.frames[i]? = none → exec (.exportFrameReceipt i ok) s = .next s) ∧
  (∀ (s : State) (i : Nat) (ok : Bool) (f : ExportFrame), s.mir.frames[i]? = some f →
    ∃ t, exec (.exportFrameReceipt i ok) s = .next t ∧ ((∀ x y z, f ≠ .sag x y z) → onlyChanges [.mir] s t) ∧ onlyChanges [.run, .brg, .flt, .log, .pwr, .mir] s t ∧
      let m := { s.mir with frames := dropAt s.mir.frames i }
      (ok = false ∨ f = .bad → t.mir = { m with badf := BitVec.ofNat 32 (min (m.badf.toNat + 1) 0xFFFFFFFF) } ∧ onlyChanges [.mir] s t) ∧
      (∀ x e v fl q, ok = true → f = .status x e v fl q → t.mir = { m with live := true, mtime := x, eimp := e, tamper := fl.getLsbD 0, disagr := fl.getLsbD 2 }) ∧
      (∀ x d v, ok = true → f = .sag x d v → t.mir = { m with live := true } ∧ t.flt.lastSag = x) ∧
      (∀ p sn sum ver, ok = true → f = .identity p sn sum ver → t.mir = { m with live := true, pub := some p.toNat, ident := t.mir.ident } ∧
        fld t.mir.ident.toNat 0 456 = p.toNat ∧ fld t.mir.ident.toNat 456 64 = sn.toNat ∧ fld t.mir.ident.toNat 520 32 = sum.toNat ∧ fld t.mir.ident.toNat 552 16 = ver.toNat ∧ fld t.mir.ident.toNat 568 72 = 0) ∧
      (∀ r, ok = true → f = .record r →
        let q := recSeq r
        let joins := (∃ k, m.pub = some k ∧ Sys2Proof.Machine.ed448Verify (leBytes 57 k) meterContext ((leBytes 256 r.toNat).take 0x8E) ((leBytes 256 r.toNat).drop 0x8E) = true) ∧
          (∀ p, m.held (q - 1) = some p → q = 0 ∨ recPrev r = recDigest p) ∧ (∀ n, m.held (q + 1) = some n → recPrev n = recDigest r)
        let stays := m.stopFull = true ∧ ∃ n p, m.recs.get none (q % 32768) = some (n, p) ∧ m.newest.toNat ≤ n + 32768
        (m.held q = some r → t.mir = { m with live := true }) ∧
        (m.held q ≠ some r → ¬ joins → t.mir = { m with live := true, badsig := BitVec.ofNat 32 (min (m.badsig.toNat + 1) 0xFFFFFFFF) }) ∧
        (m.held q ≠ some r → joins → stays → t.mir = { m with live := true, full := true }) ∧
        (m.held q ≠ some r → joins → ¬ stays →
          t.mir = { m with live := true, recs := t.mir.recs, newest := BitVec.ofNat 64 (max m.newest.toNat q) } ∧ t.mir.recs.get none (q % 32768) = some (q, r) ∧ sameBut none (q % 32768) m.recs t.mir.recs))) ∧
  (∀ s : State, (s.mir.live = false → exec .exportLost s = .next s) ∧
    (s.mir.live = true → ∃ t, exec .exportLost s = .next t ∧ t.mir = { s.mir with live := false, lost := true } ∧ t.pwr.alert = s.pwr.alert ||| 0x100 ∧ (t.run.events.get {} 0x0D).pend = true ∧
      onlyChanges [.run, .brg, .pwr, .mir] s t))

/-- A step takes the command at the front of the queue and answers what the command answers on the state with the rest of the queue; no command touches the queue. With no command waiting a microsecond passes: what the host wrote to the window is applied, an outer parity line that waits is recomputed, the meter's records due are written; then the clock of the control die and, in a running meter, meter time advance by one and the energy of voltage times the mean of the two channel currents is registered by its direction, rolling over at 10^13 mWh, a voltage outside 40 V to 60 V and a current above 1,100 A are noted, and at each whole second its averages enter the extremes of the interval; beats pass in the regions; a low `MOD_RST_N` rises, upon which bring-up starts; nothing else changes. (R290, R321, R323, R338, R379, R380, R381, Table 17.3; the idle microsecond is the model's choice, log entries 12 and 169) -/
def Obligations.AStepRunsTheFrontCommand : Prop :=
  (∀ (s : State) (c : Instr) (rest : List Instr), s.pending = c :: rest → step s = exec c { s with pending := rest }) ∧
  (∀ (c : Instr) (s t : State), exec c s = .next t → t.pending = s.pending) ∧
  (∀ s : State, s.pending = [] →
    let starts := s.pwr.rstLow = true ∧ s.pwr.pwrEn = true ∧ s.pwr.inletOk = true ∧ s.pwr.stage = 0
    let w : Int := s.meter.mv * (s.meter.ia + s.meter.ib)
    ∃ t n rs, step s = .next t ∧ onlyChanges [.time, .free, .lregions, .regions, .brg, .net, .store, .orc, .flt, .pwr, .meter, .mir] s t ∧
    (s.brg.gather = [] → s.flt.outerDue = [] → onlyChanges [.time, .regions, .pwr, .meter, .mir] s t) ∧ (∀ k, t.brg.gather.get [] k = []) ∧
    t.time = (if starts then 0 else s.time + 1) ∧
    t.pwr = { s.pwr with rstLow := false, standby := if s.pwr.inletOk = true then min 50000 (s.pwr.standby + 1) else 0, stage := if starts then 1 else s.pwr.stage } ∧
    { s.meter with occ := [] }.writesOccasions s.meter.ordered rs n ∧ exports s t (rs.map .record) ∧
    (s.meter.live = false → t.meter = n) ∧
    (s.meter.live = true → t.meter.time = s.meter.time + 1 ∧ t.meter.recs = n.recs ∧
      t.meter.eimp = (s.meter.eimp + w.toNat) % (7200000000000 * 10 ^ 13) ∧ t.meter.erev = (s.meter.erev + (-w).toNat) % (7200000000000 * 10 ^ 13) ∧
      t.meter.pulses = s.meter.pulses + ((s.meter.eimp + w.toNat) / 720000000000000 - s.meter.eimp / 720000000000000) ∧
      (t.meter.vOut = true ↔ n.vOut = true ∨ s.meter.mv < 40000 ∨ 60000 < s.meter.mv) ∧ (t.meter.iOver = true ↔ n.iOver = true ∨ 2200000 < (s.meter.ia + s.meter.ib).natAbs) ∧
      ((s.meter.time + 1).toNat % 1000000 ≠ 0 → t.meter.sumV = s.meter.sumV + s.meter.mv ∧ t.meter.sumP = s.meter.sumP + w ∧ t.meter.sumN = s.meter.sumN + 1 ∧
        t.meter.vmin = n.vmin ∧ t.meter.vmax = n.vmax ∧ t.meter.pmax = n.pmax) ∧
      ((s.meter.time + 1).toNat % 1000000 = 0 →
        let v := (s.meter.sumV + s.meter.mv) / (s.meter.sumN + 1) / 10
        let p := ((s.meter.sumP + w) / ((s.meter.sumN + 1) * 2000000)).toNat
        t.meter.sumV = 0 ∧ t.meter.sumP = 0 ∧ t.meter.sumN = 0 ∧ (v < 2 ^ 16 → t.meter.vmin.toNat = min n.vmin.toNat v ∧ t.meter.vmax.toNat = max n.vmax.toNat v) ∧
        (p < 2 ^ 32 → t.meter.pmax.toNat = max n.pmax.toNat p))) ∧
    (∀ x ∈ t.regions, ∃ y ∈ s.regions, ∃ b g, x = (y.1, { y.2 with beat := b, grant := g })))

/-- After reset no command waits and every memory is in canonical form with no byte listed; the meter's store is empty and its chain holds; the numeric ring is empty and its next entry has SEQ 0; no lock bit is set; the step counter is 0; and the first step is an idle one. (R42, R43, R371; the reset values of the meter and the memories are the model's, log entries 8 and 9) -/
def Obligations.ResetMeetsTheInvariants : Prop :=
  State.reset.pending = [] ∧ State.reset.memWf ∧ State.reset.host = [] ∧ State.reset.sram = [] ∧ State.reset.store.mem = [] ∧ State.reset.meter.chained ∧ State.reset.meter.recs = [] ∧
  State.reset.num.prod = State.reset.num.cons ∧ State.reset.num.seq = 0 ∧ State.reset.set.lock = 0 ∧ State.reset.run.step = 0 ∧ core.reset = State.reset ∧ safeStep core.reset

/-- Within a region rows are 0 to 27, physical columns 0 to 32 and logical columns 0 to 31. A physical core index is row × 33 + physical column, from 0 to 923, a logical one row × 32 + logical column, from 0 to 895. In a row with no fenced core logical column c is physical column c and physical column 32, the row's spare, is no logical core; in every row each logical core lies in its own row, and the two maps are each other's inverse wherever the fence is a column of the row. (R14) -/
def Obligations.CoreIndicesFollowRowsAndColumns : Prop :=
  (∀ (s : State) (p row : Nat), row < 28 → s.flt.fences.get none (p * 28 + row) = none →
    (∀ c, c < 32 → s.pcore p (row * 32 + c) = row * 33 + c ∧ s.lcore p (row * 33 + c) = some (row * 32 + c)) ∧ s.lcore p (row * 33 + 32) = none) ∧
  (∀ (s : State) (p i : Nat), i < 896 → (∀ f, s.flt.fences.get none (p * 28 + i / 32) = some f → f ≤ 32) →
    s.pcore p i / 33 = i / 32 ∧ s.pcore p i < 924 ∧ s.lcore p (s.pcore p i) = some i) ∧
  (∀ (s : State) (p k i : Nat), k < 924 → (∀ f, s.flt.fences.get none (p * 28 + k / 33) = some f → f ≤ 32) → s.lcore p k = some i →
    i < 896 ∧ i / 32 = k / 33 ∧ s.pcore p i = k)

/-- `NUMERIC_RING_READ` with parameters in range copies up to MAX entries of the ring, from the consumer index onward and no more than it holds, into the buffer as they stood when it ran; `RES1` returns the consumer index plus the entries copied, modulo 8,192, with either value of `ADV`, and with `ADV` = 1 alone it becomes the consumer index. (R355) -/
def Obligations.RingReadsCopyFromTheConsumerIndex : Prop :=
  ∀ (s : State) (h : CmdHdr) (a : U64) (maxN : U16) (adv : Byte), h.cid ≠ 0xFFFF → 1 ≤ maxN.toNat → maxN.toNat ≤ 4096 → a.toNat % 64 = 0 → a.toNat + 32 * maxN.toNat ≤ 2 ^ 64 →
    (adv = 0 ∨ adv = 1) →
    ∃ t n, exec (.numericRingRead h a maxN adv) s = .next t ∧ n = min maxN.toNat ((8192 + s.num.prod.toNat - s.num.cons.toNat) % 8192) ∧ onlyChanges [.host, .num, .brg] s t ∧
      (∀ b, Tab.get (0 : Byte) t.host b = if a.toNat ≤ b ∧ b < a.toNat + 32 * n then
        (numEntryBytes (s.num.ring.get {} ((s.num.cons.toNat + (b - a.toNat) / 32) % 4096))).getD ((b - a.toNat) % 32) 0 else Tab.get (0 : Byte) s.host b) ∧
      (∃ r1 : U64, completes s t h 0 (BitVec.ofNat 64 n) r1 (if s.num.ovfl then 1 else 0) ∧ r1.toNat = (s.num.cons.toNat + n) % 8192 ∧
        (adv = 1 → t.num = { s.num with cons := t.num.cons } ∧ t.num.cons.toNat = r1.toNat) ∧ (adv = 0 → t.num = s.num))

/-- Whatever command a step runs, and when it idles, host memory, core SRAM, the store and the flash of the orchards stay in canonical form: addresses strictly rising, no byte listed at the value of an unlisted one. (R81, R85; the form is the model's, log entry 9) -/
def Obligations.EveryStepKeepsTheMemoriesCanonical : Prop :=
  ∀ s t : State, s.memWf → step s = .next t → t.memWf

/-- Whatever a step does, the meter's records stay one chain: each numbered after the one before and holding its digest, the newest with the present number, at most 262,144 kept. (R383, R385, R386) -/
def Obligations.EveryStepKeepsTheMeterChain : Prop :=
  ∀ s t : State, s.meter.chained → step s = .next t → t.meter.chained

/-- Nothing that the rest of the module does reaches the meter: a command that is not the meter's own leaves all of the meter as it was, and no command at all changes its energy registers. A millisecond's readings change its present samples alone, what they show of the channels, and the display's image. A marker, received or held, changes the accepted epoch and root, the window and the records due alone: no register, no meter time, no extreme and no sag count. Every display, comparison, sag and marker command of the meter completes, and touches nothing but the meter and its link. (R23, R376, R382, R389) -/
def Obligations.NothingElseReachesTheMeter : Prop :=
  (∀ (c : Instr) (s t : State), ¬ c.ofMeter → exec c s = .next t → t.meter = s.meter) ∧
  (∀ (c : Instr) (s t : State), exec c s = .next t → t.meter.eimp = s.meter.eimp ∧ t.meter.erev = s.meter.erev) ∧
  (∀ (c : Instr) (s t : State), ((∃ i ok, c = .markerReceipt i ok) ∨ c = .markerHoldEnd) → exec c s = .next t →
    t.meter = { s.meter with accepted := t.meter.accepted, window := t.meter.window, heldM := t.meter.heldM, merges := t.meter.merges, occ := t.meter.occ }) ∧
  (∀ (x : InletReading) (s t : State), exec (.governorTick x) s = .next t →
    t.meter = { s.meter with mv := t.meter.mv, ia := t.meter.ia, ib := t.meter.ib, apartAll := t.meter.apartAll, alikeAll := t.meter.alikeAll, image := t.meter.image }) ∧
  (∀ (c : Instr) (s : State),
    (c = .buttonPress ∨ c = .displayTimeout ∨ (∃ a b, c = .channelComparison a b) ∨ (∃ v, c = .sagBegin v) ∨ (∃ d l, c = .sagEnd d l) ∨ (∃ i ok, c = .markerReceipt i ok) ∨ c = .markerHoldEnd) →
    ∃ t, exec c s = .next t ∧ t.meter.time = s.meter.time ∧ t.meter.recs = s.meter.recs ∧ onlyChanges [.meter, .mir] s t)
end

