-- ==== Sys2Proof/Laws/Memory.lean ====
section
/-! SUPPORT. Sparse tables and memories: what a read gives after a write, and that every memory operation keeps the canonical form. -/

namespace Sys2Proof

namespace Tab

variable {α : Type}

theorem get_of_above (d : α) (t : Tab α) (j k : Nat) (h : above j t = true) (hk : k ≤ j) : get d t k = d := by
  induction t generalizing j with
  | nil => rfl
  | cons x t ih =>
    simp only [above, Bool.and_eq_true, decide_eq_true_eq] at h
    have : x.1 ≠ k := by omega
    simp [get, this, ih x.1 h.2 (by omega)]

theorem above_mono {j k : Nat} (t : Tab α) (h : above j t = true) (hk : k ≤ j) : above k t = true := by
  cases t with
  | nil => rfl
  | cons x t =>
    simp only [above, Bool.and_eq_true, decide_eq_true_eq] at h ⊢
    exact ⟨by omega, h.2⟩

theorem above_erase (j k : Nat) (t : Tab α) (h : above j t = true) : above j (erase t k) = true := by
  induction t generalizing j with
  | nil => rfl
  | cons x t ih =>
    simp only [above, Bool.and_eq_true, decide_eq_true_eq] at h
    simp only [erase]
    split
    · exact ih _ (above_mono t h.2 (by omega))
    · simp [above, h.1, ih _ h.2]

theorem above_insert (j k : Nat) (v : α) (t : Tab α) (h : above j t = true) (hk : j < k) : above j (insert t k v) = true := by
  induction t generalizing j with
  | nil => simp [insert, above, hk]
  | cons x t ih =>
    simp only [above, Bool.and_eq_true, decide_eq_true_eq] at h
    simp only [insert]
    split
    · rename_i hlt; simp [above, hk, hlt, h.2]
    · split
      · rename_i heq; simp only [above, Bool.and_eq_true, decide_eq_true_eq]; exact ⟨hk, heq ▸ h.2⟩
      · simp only [above, Bool.and_eq_true, decide_eq_true_eq]; exact ⟨h.1, ih _ h.2 (by omega)⟩

theorem get_insert (d : α) (t : Tab α) (k j : Nat) (v : α) : get d (insert t k v) j = if j = k then v else get d t j := by
  induction t with
  | nil => simp [insert, get, eq_comm]
  | cons x t ih =>
    obtain ⟨i, w⟩ := x
    simp only [insert]
    split
    · simp [get, eq_comm]
    · split
      · rename_i e
        subst e
        by_cases hj : j = k
        · simp [get, hj]
        · simp [get, hj, Ne.symm hj]
      · simp only [get, ih]; split <;> split <;> simp_all

variable [DecidableEq α]

omit [DecidableEq α] in
theorem get_erase (d : α) (t : Tab α) (k j : Nat) : get d (erase t k) j = if j = k then d else get d t j := by
  induction t with
  | nil => simp [erase, get]
  | cons x t ih =>
    obtain ⟨i, w⟩ := x
    simp only [erase]
    split
    · rename_i e
      subst e
      rw [ih]
      by_cases hj : j = i
      · simp [hj]
      · simp [get, hj, Ne.symm hj]
    · simp only [get, ih]; split <;> simp_all

/-- A read after a write: the value written at its key, what stood there before at any other. -/
theorem get_set (d : α) (t : Tab α) (k j : Nat) (v : α) : get d (set d t k v) j = if j = k then v else get d t j := by
  unfold set; split
  · subst_vars; exact get_erase v t k j
  · exact get_insert d t k j v

/-- A read after a change of one entry. -/
theorem get_upd (d : α) (t : Tab α) (k j : Nat) (f : α → α) : get d (upd d t k f) j = if j = k then f (get d t k) else get d t j := get_set d t k j _

@[simp] theorem get_set_self (d : α) (t : Tab α) (k : Nat) (v : α) : get d (set d t k v) k = v := by rw [get_set, if_pos rfl]

@[simp] theorem get_upd_self (d : α) (t : Tab α) (k : Nat) (f : α → α) : get d (upd d t k f) k = f (get d t k) := get_set_self d t k _

theorem get_set_ne (d : α) (t : Tab α) {k j : Nat} (v : α) (h : j ≠ k) : get d (set d t k v) j = get d t j := by rw [get_set, if_neg h]

theorem get_upd_ne (d : α) (t : Tab α) {k j : Nat} (f : α → α) (h : j ≠ k) : get d (upd d t k f) j = get d t j := get_set_ne d t _ h

theorem wf_erase (d : α) (t : Tab α) (k : Nat) (h : wf d t = true) : wf d (erase t k) = true := by
  induction t with
  | nil => rfl
  | cons x t ih =>
    simp only [wf, Bool.and_eq_true] at h
    simp only [erase]
    split
    · exact ih h.2
    · simp only [wf, Bool.and_eq_true]; exact ⟨⟨h.1.1, above_erase _ _ _ h.1.2⟩, ih h.2⟩

theorem wf_insert (d : α) (t : Tab α) (k : Nat) (v : α) (hv : v ≠ d) (h : wf d t = true) : wf d (insert t k v) = true := by
  induction t with
  | nil => simp [insert, wf, above, hv]
  | cons x t ih =>
    obtain ⟨i, w⟩ := x
    simp only [wf, Bool.and_eq_true] at h
    simp only [insert]
    split
    · simp_all [wf, above]
    · split
      · subst_vars; simp_all [wf]
      · simp only [wf, Bool.and_eq_true]; exact ⟨⟨h.1.1, above_insert _ _ _ _ h.1.2 (by omega)⟩, ih h.2⟩

/-- A write keeps the canonical form. -/
theorem wf_set (d : α) (t : Tab α) (k : Nat) (v : α) (h : wf d t = true) : wf d (set d t k v) = true := by
  unfold set; split
  · exact wf_erase d t k h
  · exact wf_insert d t k v (by assumption) h

/-- A change of one entry keeps the canonical form. -/
theorem wf_upd (d : α) (t : Tab α) (k : Nat) (f : α → α) (h : wf d t = true) : wf d (upd d t k f) = true := wf_set d t k _ h

end Tab

namespace Memory

/-- Writing one byte keeps the canonical form. -/
theorem wf_set (m : Memory) (k : Nat) (v : Byte) (h : m.wf = true) : Memory.wf (Tab.set (0 : Byte) m k v) = true := Tab.wf_set 0 m k v h

end Memory

end Sys2Proof

namespace Sys2Proof.Machine

/-- Writing bytes keeps the canonical form. -/
theorem wf_writeMem (m : Memory) (a : Nat) (d : List Byte) (h : m.wf = true) : Memory.wf (writeMem m a d) = true := by
  induction d generalizing m a with
  | nil => exact h
  | cons b d ih => exact ih _ _ (Memory.wf_set m a b h)

/-- A byte after a write of bytes: theirs where they stand, what stood there before elsewhere. -/
theorem writeMem_stores (m : Memory) (a : Nat) (d : List Byte) : stores m (writeMem m a d) a d := by
  induction d generalizing m a with
  | nil => intro b; simp only [writeMem, List.length_nil]; rw [if_neg (by omega)]
  | cons x d ih =>
    intro b
    rw [writeMem, ih _ _ b, Tab.get_set 0 m a b x]
    by_cases h1 : b = a
    · subst h1; rw [if_neg (by omega), if_pos rfl, if_pos (by simp)]; simp
    · by_cases h2 : a < b ∧ b < a + (d.length + 1)
      · have e : b - a = (b - (a + 1)) + 1 := by omega
        simp only [List.length_cons]
        rw [if_pos (by omega), if_pos (by omega), e]; simp
      · simp only [List.length_cons]
        rw [if_neg (by omega), if_neg h1, if_neg (by omega)]

theorem readMem_eq (m n : Memory) (a k : Nat) (h : ∀ b, a ≤ b → b < a + k → Tab.get (0 : Byte) n b = Tab.get (0 : Byte) m b) : readMem n a k = readMem m a k := by
  simp only [readMem]
  apply List.map_congr_left
  intro i hi
  exact h _ (by omega) (by simp at hi; omega)

/-- Bytes just written read back. -/
theorem readMem_writeMem (m : Memory) (a : Nat) (d : List Byte) : readMem (writeMem m a d) a d.length = d := by
  apply List.ext_getElem
  · simp [readMem]
  · intro i h1 h2
    simp only [readMem, List.getElem_map, List.getElem_range]
    rw [writeMem_stores m a d]
    simp [h2]

end Sys2Proof.Machine
end

