-- ==== Sys2Proof/Laws/State.lean ====
section
/-! SUPPORT. Each update of one part of State, field by field: the part it changes, and every other part as it was. -/

namespace Sys2Proof.Machine

variable (s : State)

@[simp] theorem State.onRun_pending (f : RunSt → RunSt) : (s.onRun f).pending = s.pending := rfl
@[simp] theorem State.onRun_time (f : RunSt → RunSt) : (s.onRun f).time = s.time := rfl
@[simp] theorem State.onRun_free (f : RunSt → RunSt) : (s.onRun f).free = s.free := rfl
@[simp] theorem State.onRun_host (f : RunSt → RunSt) : (s.onRun f).host = s.host := rfl
@[simp] theorem State.onRun_sram (f : RunSt → RunSt) : (s.onRun f).sram = s.sram := rfl
@[simp] theorem State.onRun_cores (f : RunSt → RunSt) : (s.onRun f).cores = s.cores := rfl
@[simp] theorem State.onRun_lregions (f : RunSt → RunSt) : (s.onRun f).lregions = s.lregions := rfl
@[simp] theorem State.onRun_regions (f : RunSt → RunSt) : (s.onRun f).regions = s.regions := rfl
@[simp] theorem State.onRun_set (f : RunSt → RunSt) : (s.onRun f).set = s.set := rfl
@[simp] theorem State.onRun_grd (f : RunSt → RunSt) : (s.onRun f).grd = s.grd := rfl
@[simp] theorem State.onRun_num (f : RunSt → RunSt) : (s.onRun f).num = s.num := rfl
@[simp] theorem State.onRun_run (f : RunSt → RunSt) : (s.onRun f).run = f s.run := rfl
@[simp] theorem State.onRun_brg (f : RunSt → RunSt) : (s.onRun f).brg = s.brg := rfl
@[simp] theorem State.onRun_stg (f : RunSt → RunSt) : (s.onRun f).stg = s.stg := rfl
@[simp] theorem State.onRun_cfg (f : RunSt → RunSt) : (s.onRun f).cfg = s.cfg := rfl
@[simp] theorem State.onRun_bat (f : RunSt → RunSt) : (s.onRun f).bat = s.bat := rfl
@[simp] theorem State.onRun_net (f : RunSt → RunSt) : (s.onRun f).net = s.net := rfl
@[simp] theorem State.onRun_store (f : RunSt → RunSt) : (s.onRun f).store = s.store := rfl
@[simp] theorem State.onRun_orc (f : RunSt → RunSt) : (s.onRun f).orc = s.orc := rfl
@[simp] theorem State.onRun_prs (f : RunSt → RunSt) : (s.onRun f).prs = s.prs := rfl
@[simp] theorem State.onRun_dma (f : RunSt → RunSt) : (s.onRun f).dma = s.dma := rfl
@[simp] theorem State.onRun_eng (f : RunSt → RunSt) : (s.onRun f).eng = s.eng := rfl
@[simp] theorem State.onRun_flt (f : RunSt → RunSt) : (s.onRun f).flt = s.flt := rfl
@[simp] theorem State.onRun_log (f : RunSt → RunSt) : (s.onRun f).log = s.log := rfl
@[simp] theorem State.onRun_pwr (f : RunSt → RunSt) : (s.onRun f).pwr = s.pwr := rfl
@[simp] theorem State.onRun_keys (f : RunSt → RunSt) : (s.onRun f).keys = s.keys := rfl
@[simp] theorem State.onRun_meter (f : RunSt → RunSt) : (s.onRun f).meter = s.meter := rfl
@[simp] theorem State.onRun_mir (f : RunSt → RunSt) : (s.onRun f).mir = s.mir := rfl
@[simp] theorem State.onRun_out (f : RunSt → RunSt) : (s.onRun f).out = s.out := rfl

@[simp] theorem State.onNum_pending (f : NumSt → NumSt) : (s.onNum f).pending = s.pending := rfl
@[simp] theorem State.onNum_time (f : NumSt → NumSt) : (s.onNum f).time = s.time := rfl
@[simp] theorem State.onNum_free (f : NumSt → NumSt) : (s.onNum f).free = s.free := rfl
@[simp] theorem State.onNum_host (f : NumSt → NumSt) : (s.onNum f).host = s.host := rfl
@[simp] theorem State.onNum_sram (f : NumSt → NumSt) : (s.onNum f).sram = s.sram := rfl
@[simp] theorem State.onNum_cores (f : NumSt → NumSt) : (s.onNum f).cores = s.cores := rfl
@[simp] theorem State.onNum_lregions (f : NumSt → NumSt) : (s.onNum f).lregions = s.lregions := rfl
@[simp] theorem State.onNum_regions (f : NumSt → NumSt) : (s.onNum f).regions = s.regions := rfl
@[simp] theorem State.onNum_set (f : NumSt → NumSt) : (s.onNum f).set = s.set := rfl
@[simp] theorem State.onNum_grd (f : NumSt → NumSt) : (s.onNum f).grd = s.grd := rfl
@[simp] theorem State.onNum_num (f : NumSt → NumSt) : (s.onNum f).num = f s.num := rfl
@[simp] theorem State.onNum_run (f : NumSt → NumSt) : (s.onNum f).run = s.run := rfl
@[simp] theorem State.onNum_brg (f : NumSt → NumSt) : (s.onNum f).brg = s.brg := rfl
@[simp] theorem State.onNum_stg (f : NumSt → NumSt) : (s.onNum f).stg = s.stg := rfl
@[simp] theorem State.onNum_cfg (f : NumSt → NumSt) : (s.onNum f).cfg = s.cfg := rfl
@[simp] theorem State.onNum_bat (f : NumSt → NumSt) : (s.onNum f).bat = s.bat := rfl
@[simp] theorem State.onNum_net (f : NumSt → NumSt) : (s.onNum f).net = s.net := rfl
@[simp] theorem State.onNum_store (f : NumSt → NumSt) : (s.onNum f).store = s.store := rfl
@[simp] theorem State.onNum_orc (f : NumSt → NumSt) : (s.onNum f).orc = s.orc := rfl
@[simp] theorem State.onNum_prs (f : NumSt → NumSt) : (s.onNum f).prs = s.prs := rfl
@[simp] theorem State.onNum_dma (f : NumSt → NumSt) : (s.onNum f).dma = s.dma := rfl
@[simp] theorem State.onNum_eng (f : NumSt → NumSt) : (s.onNum f).eng = s.eng := rfl
@[simp] theorem State.onNum_flt (f : NumSt → NumSt) : (s.onNum f).flt = s.flt := rfl
@[simp] theorem State.onNum_log (f : NumSt → NumSt) : (s.onNum f).log = s.log := rfl
@[simp] theorem State.onNum_pwr (f : NumSt → NumSt) : (s.onNum f).pwr = s.pwr := rfl
@[simp] theorem State.onNum_keys (f : NumSt → NumSt) : (s.onNum f).keys = s.keys := rfl
@[simp] theorem State.onNum_meter (f : NumSt → NumSt) : (s.onNum f).meter = s.meter := rfl
@[simp] theorem State.onNum_mir (f : NumSt → NumSt) : (s.onNum f).mir = s.mir := rfl
@[simp] theorem State.onNum_out (f : NumSt → NumSt) : (s.onNum f).out = s.out := rfl

@[simp] theorem State.onSet_pending (f : Settings → Settings) : (s.onSet f).pending = s.pending := rfl
@[simp] theorem State.onSet_time (f : Settings → Settings) : (s.onSet f).time = s.time := rfl
@[simp] theorem State.onSet_free (f : Settings → Settings) : (s.onSet f).free = s.free := rfl
@[simp] theorem State.onSet_host (f : Settings → Settings) : (s.onSet f).host = s.host := rfl
@[simp] theorem State.onSet_sram (f : Settings → Settings) : (s.onSet f).sram = s.sram := rfl
@[simp] theorem State.onSet_cores (f : Settings → Settings) : (s.onSet f).cores = s.cores := rfl
@[simp] theorem State.onSet_lregions (f : Settings → Settings) : (s.onSet f).lregions = s.lregions := rfl
@[simp] theorem State.onSet_regions (f : Settings → Settings) : (s.onSet f).regions = s.regions := rfl
@[simp] theorem State.onSet_set (f : Settings → Settings) : (s.onSet f).set = f s.set := rfl
@[simp] theorem State.onSet_grd (f : Settings → Settings) : (s.onSet f).grd = s.grd := rfl
@[simp] theorem State.onSet_num (f : Settings → Settings) : (s.onSet f).num = s.num := rfl
@[simp] theorem State.onSet_run (f : Settings → Settings) : (s.onSet f).run = s.run := rfl
@[simp] theorem State.onSet_brg (f : Settings → Settings) : (s.onSet f).brg = s.brg := rfl
@[simp] theorem State.onSet_stg (f : Settings → Settings) : (s.onSet f).stg = s.stg := rfl
@[simp] theorem State.onSet_cfg (f : Settings → Settings) : (s.onSet f).cfg = s.cfg := rfl
@[simp] theorem State.onSet_bat (f : Settings → Settings) : (s.onSet f).bat = s.bat := rfl
@[simp] theorem State.onSet_net (f : Settings → Settings) : (s.onSet f).net = s.net := rfl
@[simp] theorem State.onSet_store (f : Settings → Settings) : (s.onSet f).store = s.store := rfl
@[simp] theorem State.onSet_orc (f : Settings → Settings) : (s.onSet f).orc = s.orc := rfl
@[simp] theorem State.onSet_prs (f : Settings → Settings) : (s.onSet f).prs = s.prs := rfl
@[simp] theorem State.onSet_dma (f : Settings → Settings) : (s.onSet f).dma = s.dma := rfl
@[simp] theorem State.onSet_eng (f : Settings → Settings) : (s.onSet f).eng = s.eng := rfl
@[simp] theorem State.onSet_flt (f : Settings → Settings) : (s.onSet f).flt = s.flt := rfl
@[simp] theorem State.onSet_log (f : Settings → Settings) : (s.onSet f).log = s.log := rfl
@[simp] theorem State.onSet_pwr (f : Settings → Settings) : (s.onSet f).pwr = s.pwr := rfl
@[simp] theorem State.onSet_keys (f : Settings → Settings) : (s.onSet f).keys = s.keys := rfl
@[simp] theorem State.onSet_meter (f : Settings → Settings) : (s.onSet f).meter = s.meter := rfl
@[simp] theorem State.onSet_mir (f : Settings → Settings) : (s.onSet f).mir = s.mir := rfl
@[simp] theorem State.onSet_out (f : Settings → Settings) : (s.onSet f).out = s.out := rfl

@[simp] theorem State.onBrg_pending (f : BridgeSt → BridgeSt) : (s.onBrg f).pending = s.pending := rfl
@[simp] theorem State.onBrg_time (f : BridgeSt → BridgeSt) : (s.onBrg f).time = s.time := rfl
@[simp] theorem State.onBrg_free (f : BridgeSt → BridgeSt) : (s.onBrg f).free = s.free := rfl
@[simp] theorem State.onBrg_host (f : BridgeSt → BridgeSt) : (s.onBrg f).host = s.host := rfl
@[simp] theorem State.onBrg_sram (f : BridgeSt → BridgeSt) : (s.onBrg f).sram = s.sram := rfl
@[simp] theorem State.onBrg_cores (f : BridgeSt → BridgeSt) : (s.onBrg f).cores = s.cores := rfl
@[simp] theorem State.onBrg_lregions (f : BridgeSt → BridgeSt) : (s.onBrg f).lregions = s.lregions := rfl
@[simp] theorem State.onBrg_regions (f : BridgeSt → BridgeSt) : (s.onBrg f).regions = s.regions := rfl
@[simp] theorem State.onBrg_set (f : BridgeSt → BridgeSt) : (s.onBrg f).set = s.set := rfl
@[simp] theorem State.onBrg_grd (f : BridgeSt → BridgeSt) : (s.onBrg f).grd = s.grd := rfl
@[simp] theorem State.onBrg_num (f : BridgeSt → BridgeSt) : (s.onBrg f).num = s.num := rfl
@[simp] theorem State.onBrg_run (f : BridgeSt → BridgeSt) : (s.onBrg f).run = s.run := rfl
@[simp] theorem State.onBrg_brg (f : BridgeSt → BridgeSt) : (s.onBrg f).brg = f s.brg := rfl
@[simp] theorem State.onBrg_stg (f : BridgeSt → BridgeSt) : (s.onBrg f).stg = s.stg := rfl
@[simp] theorem State.onBrg_cfg (f : BridgeSt → BridgeSt) : (s.onBrg f).cfg = s.cfg := rfl
@[simp] theorem State.onBrg_bat (f : BridgeSt → BridgeSt) : (s.onBrg f).bat = s.bat := rfl
@[simp] theorem State.onBrg_net (f : BridgeSt → BridgeSt) : (s.onBrg f).net = s.net := rfl
@[simp] theorem State.onBrg_store (f : BridgeSt → BridgeSt) : (s.onBrg f).store = s.store := rfl
@[simp] theorem State.onBrg_orc (f : BridgeSt → BridgeSt) : (s.onBrg f).orc = s.orc := rfl
@[simp] theorem State.onBrg_prs (f : BridgeSt → BridgeSt) : (s.onBrg f).prs = s.prs := rfl
@[simp] theorem State.onBrg_dma (f : BridgeSt → BridgeSt) : (s.onBrg f).dma = s.dma := rfl
@[simp] theorem State.onBrg_eng (f : BridgeSt → BridgeSt) : (s.onBrg f).eng = s.eng := rfl
@[simp] theorem State.onBrg_flt (f : BridgeSt → BridgeSt) : (s.onBrg f).flt = s.flt := rfl
@[simp] theorem State.onBrg_log (f : BridgeSt → BridgeSt) : (s.onBrg f).log = s.log := rfl
@[simp] theorem State.onBrg_pwr (f : BridgeSt → BridgeSt) : (s.onBrg f).pwr = s.pwr := rfl
@[simp] theorem State.onBrg_keys (f : BridgeSt → BridgeSt) : (s.onBrg f).keys = s.keys := rfl
@[simp] theorem State.onBrg_meter (f : BridgeSt → BridgeSt) : (s.onBrg f).meter = s.meter := rfl
@[simp] theorem State.onBrg_mir (f : BridgeSt → BridgeSt) : (s.onBrg f).mir = s.mir := rfl
@[simp] theorem State.onBrg_out (f : BridgeSt → BridgeSt) : (s.onBrg f).out = s.out := rfl

@[simp] theorem State.onStg_pending (f : StagingSt → StagingSt) : (s.onStg f).pending = s.pending := rfl
@[simp] theorem State.onStg_time (f : StagingSt → StagingSt) : (s.onStg f).time = s.time := rfl
@[simp] theorem State.onStg_free (f : StagingSt → StagingSt) : (s.onStg f).free = s.free := rfl
@[simp] theorem State.onStg_host (f : StagingSt → StagingSt) : (s.onStg f).host = s.host := rfl
@[simp] theorem State.onStg_sram (f : StagingSt → StagingSt) : (s.onStg f).sram = s.sram := rfl
@[simp] theorem State.onStg_cores (f : StagingSt → StagingSt) : (s.onStg f).cores = s.cores := rfl
@[simp] theorem State.onStg_lregions (f : StagingSt → StagingSt) : (s.onStg f).lregions = s.lregions := rfl
@[simp] theorem State.onStg_regions (f : StagingSt → StagingSt) : (s.onStg f).regions = s.regions := rfl
@[simp] theorem State.onStg_set (f : StagingSt → StagingSt) : (s.onStg f).set = s.set := rfl
@[simp] theorem State.onStg_grd (f : StagingSt → StagingSt) : (s.onStg f).grd = s.grd := rfl
@[simp] theorem State.onStg_num (f : StagingSt → StagingSt) : (s.onStg f).num = s.num := rfl
@[simp] theorem State.onStg_run (f : StagingSt → StagingSt) : (s.onStg f).run = s.run := rfl
@[simp] theorem State.onStg_brg (f : StagingSt → StagingSt) : (s.onStg f).brg = s.brg := rfl
@[simp] theorem State.onStg_stg (f : StagingSt → StagingSt) : (s.onStg f).stg = f s.stg := rfl
@[simp] theorem State.onStg_cfg (f : StagingSt → StagingSt) : (s.onStg f).cfg = s.cfg := rfl
@[simp] theorem State.onStg_bat (f : StagingSt → StagingSt) : (s.onStg f).bat = s.bat := rfl
@[simp] theorem State.onStg_net (f : StagingSt → StagingSt) : (s.onStg f).net = s.net := rfl
@[simp] theorem State.onStg_store (f : StagingSt → StagingSt) : (s.onStg f).store = s.store := rfl
@[simp] theorem State.onStg_orc (f : StagingSt → StagingSt) : (s.onStg f).orc = s.orc := rfl
@[simp] theorem State.onStg_prs (f : StagingSt → StagingSt) : (s.onStg f).prs = s.prs := rfl
@[simp] theorem State.onStg_dma (f : StagingSt → StagingSt) : (s.onStg f).dma = s.dma := rfl
@[simp] theorem State.onStg_eng (f : StagingSt → StagingSt) : (s.onStg f).eng = s.eng := rfl
@[simp] theorem State.onStg_flt (f : StagingSt → StagingSt) : (s.onStg f).flt = s.flt := rfl
@[simp] theorem State.onStg_log (f : StagingSt → StagingSt) : (s.onStg f).log = s.log := rfl
@[simp] theorem State.onStg_pwr (f : StagingSt → StagingSt) : (s.onStg f).pwr = s.pwr := rfl
@[simp] theorem State.onStg_keys (f : StagingSt → StagingSt) : (s.onStg f).keys = s.keys := rfl
@[simp] theorem State.onStg_meter (f : StagingSt → StagingSt) : (s.onStg f).meter = s.meter := rfl
@[simp] theorem State.onStg_mir (f : StagingSt → StagingSt) : (s.onStg f).mir = s.mir := rfl
@[simp] theorem State.onStg_out (f : StagingSt → StagingSt) : (s.onStg f).out = s.out := rfl

@[simp] theorem State.onCfg_pending (f : ConfigSt → ConfigSt) : (s.onCfg f).pending = s.pending := rfl
@[simp] theorem State.onCfg_time (f : ConfigSt → ConfigSt) : (s.onCfg f).time = s.time := rfl
@[simp] theorem State.onCfg_free (f : ConfigSt → ConfigSt) : (s.onCfg f).free = s.free := rfl
@[simp] theorem State.onCfg_host (f : ConfigSt → ConfigSt) : (s.onCfg f).host = s.host := rfl
@[simp] theorem State.onCfg_sram (f : ConfigSt → ConfigSt) : (s.onCfg f).sram = s.sram := rfl
@[simp] theorem State.onCfg_cores (f : ConfigSt → ConfigSt) : (s.onCfg f).cores = s.cores := rfl
@[simp] theorem State.onCfg_lregions (f : ConfigSt → ConfigSt) : (s.onCfg f).lregions = s.lregions := rfl
@[simp] theorem State.onCfg_regions (f : ConfigSt → ConfigSt) : (s.onCfg f).regions = s.regions := rfl
@[simp] theorem State.onCfg_set (f : ConfigSt → ConfigSt) : (s.onCfg f).set = s.set := rfl
@[simp] theorem State.onCfg_grd (f : ConfigSt → ConfigSt) : (s.onCfg f).grd = s.grd := rfl
@[simp] theorem State.onCfg_num (f : ConfigSt → ConfigSt) : (s.onCfg f).num = s.num := rfl
@[simp] theorem State.onCfg_run (f : ConfigSt → ConfigSt) : (s.onCfg f).run = s.run := rfl
@[simp] theorem State.onCfg_brg (f : ConfigSt → ConfigSt) : (s.onCfg f).brg = s.brg := rfl
@[simp] theorem State.onCfg_stg (f : ConfigSt → ConfigSt) : (s.onCfg f).stg = s.stg := rfl
@[simp] theorem State.onCfg_cfg (f : ConfigSt → ConfigSt) : (s.onCfg f).cfg = f s.cfg := rfl
@[simp] theorem State.onCfg_bat (f : ConfigSt → ConfigSt) : (s.onCfg f).bat = s.bat := rfl
@[simp] theorem State.onCfg_net (f : ConfigSt → ConfigSt) : (s.onCfg f).net = s.net := rfl
@[simp] theorem State.onCfg_store (f : ConfigSt → ConfigSt) : (s.onCfg f).store = s.store := rfl
@[simp] theorem State.onCfg_orc (f : ConfigSt → ConfigSt) : (s.onCfg f).orc = s.orc := rfl
@[simp] theorem State.onCfg_prs (f : ConfigSt → ConfigSt) : (s.onCfg f).prs = s.prs := rfl
@[simp] theorem State.onCfg_dma (f : ConfigSt → ConfigSt) : (s.onCfg f).dma = s.dma := rfl
@[simp] theorem State.onCfg_eng (f : ConfigSt → ConfigSt) : (s.onCfg f).eng = s.eng := rfl
@[simp] theorem State.onCfg_flt (f : ConfigSt → ConfigSt) : (s.onCfg f).flt = s.flt := rfl
@[simp] theorem State.onCfg_log (f : ConfigSt → ConfigSt) : (s.onCfg f).log = s.log := rfl
@[simp] theorem State.onCfg_pwr (f : ConfigSt → ConfigSt) : (s.onCfg f).pwr = s.pwr := rfl
@[simp] theorem State.onCfg_keys (f : ConfigSt → ConfigSt) : (s.onCfg f).keys = s.keys := rfl
@[simp] theorem State.onCfg_meter (f : ConfigSt → ConfigSt) : (s.onCfg f).meter = s.meter := rfl
@[simp] theorem State.onCfg_mir (f : ConfigSt → ConfigSt) : (s.onCfg f).mir = s.mir := rfl
@[simp] theorem State.onCfg_out (f : ConfigSt → ConfigSt) : (s.onCfg f).out = s.out := rfl

@[simp] theorem State.onBat_pending (f : BattenSt → BattenSt) : (s.onBat f).pending = s.pending := rfl
@[simp] theorem State.onBat_time (f : BattenSt → BattenSt) : (s.onBat f).time = s.time := rfl
@[simp] theorem State.onBat_free (f : BattenSt → BattenSt) : (s.onBat f).free = s.free := rfl
@[simp] theorem State.onBat_host (f : BattenSt → BattenSt) : (s.onBat f).host = s.host := rfl
@[simp] theorem State.onBat_sram (f : BattenSt → BattenSt) : (s.onBat f).sram = s.sram := rfl
@[simp] theorem State.onBat_cores (f : BattenSt → BattenSt) : (s.onBat f).cores = s.cores := rfl
@[simp] theorem State.onBat_lregions (f : BattenSt → BattenSt) : (s.onBat f).lregions = s.lregions := rfl
@[simp] theorem State.onBat_regions (f : BattenSt → BattenSt) : (s.onBat f).regions = s.regions := rfl
@[simp] theorem State.onBat_set (f : BattenSt → BattenSt) : (s.onBat f).set = s.set := rfl
@[simp] theorem State.onBat_grd (f : BattenSt → BattenSt) : (s.onBat f).grd = s.grd := rfl
@[simp] theorem State.onBat_num (f : BattenSt → BattenSt) : (s.onBat f).num = s.num := rfl
@[simp] theorem State.onBat_run (f : BattenSt → BattenSt) : (s.onBat f).run = s.run := rfl
@[simp] theorem State.onBat_brg (f : BattenSt → BattenSt) : (s.onBat f).brg = s.brg := rfl
@[simp] theorem State.onBat_stg (f : BattenSt → BattenSt) : (s.onBat f).stg = s.stg := rfl
@[simp] theorem State.onBat_cfg (f : BattenSt → BattenSt) : (s.onBat f).cfg = s.cfg := rfl
@[simp] theorem State.onBat_bat (f : BattenSt → BattenSt) : (s.onBat f).bat = f s.bat := rfl
@[simp] theorem State.onBat_net (f : BattenSt → BattenSt) : (s.onBat f).net = s.net := rfl
@[simp] theorem State.onBat_store (f : BattenSt → BattenSt) : (s.onBat f).store = s.store := rfl
@[simp] theorem State.onBat_orc (f : BattenSt → BattenSt) : (s.onBat f).orc = s.orc := rfl
@[simp] theorem State.onBat_prs (f : BattenSt → BattenSt) : (s.onBat f).prs = s.prs := rfl
@[simp] theorem State.onBat_dma (f : BattenSt → BattenSt) : (s.onBat f).dma = s.dma := rfl
@[simp] theorem State.onBat_eng (f : BattenSt → BattenSt) : (s.onBat f).eng = s.eng := rfl
@[simp] theorem State.onBat_flt (f : BattenSt → BattenSt) : (s.onBat f).flt = s.flt := rfl
@[simp] theorem State.onBat_log (f : BattenSt → BattenSt) : (s.onBat f).log = s.log := rfl
@[simp] theorem State.onBat_pwr (f : BattenSt → BattenSt) : (s.onBat f).pwr = s.pwr := rfl
@[simp] theorem State.onBat_keys (f : BattenSt → BattenSt) : (s.onBat f).keys = s.keys := rfl
@[simp] theorem State.onBat_meter (f : BattenSt → BattenSt) : (s.onBat f).meter = s.meter := rfl
@[simp] theorem State.onBat_mir (f : BattenSt → BattenSt) : (s.onBat f).mir = s.mir := rfl
@[simp] theorem State.onBat_out (f : BattenSt → BattenSt) : (s.onBat f).out = s.out := rfl

@[simp] theorem State.onNet_pending (f : NetSt → NetSt) : (s.onNet f).pending = s.pending := rfl
@[simp] theorem State.onNet_time (f : NetSt → NetSt) : (s.onNet f).time = s.time := rfl
@[simp] theorem State.onNet_free (f : NetSt → NetSt) : (s.onNet f).free = s.free := rfl
@[simp] theorem State.onNet_host (f : NetSt → NetSt) : (s.onNet f).host = s.host := rfl
@[simp] theorem State.onNet_sram (f : NetSt → NetSt) : (s.onNet f).sram = s.sram := rfl
@[simp] theorem State.onNet_cores (f : NetSt → NetSt) : (s.onNet f).cores = s.cores := rfl
@[simp] theorem State.onNet_lregions (f : NetSt → NetSt) : (s.onNet f).lregions = s.lregions := rfl
@[simp] theorem State.onNet_regions (f : NetSt → NetSt) : (s.onNet f).regions = s.regions := rfl
@[simp] theorem State.onNet_set (f : NetSt → NetSt) : (s.onNet f).set = s.set := rfl
@[simp] theorem State.onNet_grd (f : NetSt → NetSt) : (s.onNet f).grd = s.grd := rfl
@[simp] theorem State.onNet_num (f : NetSt → NetSt) : (s.onNet f).num = s.num := rfl
@[simp] theorem State.onNet_run (f : NetSt → NetSt) : (s.onNet f).run = s.run := rfl
@[simp] theorem State.onNet_brg (f : NetSt → NetSt) : (s.onNet f).brg = s.brg := rfl
@[simp] theorem State.onNet_stg (f : NetSt → NetSt) : (s.onNet f).stg = s.stg := rfl
@[simp] theorem State.onNet_cfg (f : NetSt → NetSt) : (s.onNet f).cfg = s.cfg := rfl
@[simp] theorem State.onNet_bat (f : NetSt → NetSt) : (s.onNet f).bat = s.bat := rfl
@[simp] theorem State.onNet_net (f : NetSt → NetSt) : (s.onNet f).net = f s.net := rfl
@[simp] theorem State.onNet_store (f : NetSt → NetSt) : (s.onNet f).store = s.store := rfl
@[simp] theorem State.onNet_orc (f : NetSt → NetSt) : (s.onNet f).orc = s.orc := rfl
@[simp] theorem State.onNet_prs (f : NetSt → NetSt) : (s.onNet f).prs = s.prs := rfl
@[simp] theorem State.onNet_dma (f : NetSt → NetSt) : (s.onNet f).dma = s.dma := rfl
@[simp] theorem State.onNet_eng (f : NetSt → NetSt) : (s.onNet f).eng = s.eng := rfl
@[simp] theorem State.onNet_flt (f : NetSt → NetSt) : (s.onNet f).flt = s.flt := rfl
@[simp] theorem State.onNet_log (f : NetSt → NetSt) : (s.onNet f).log = s.log := rfl
@[simp] theorem State.onNet_pwr (f : NetSt → NetSt) : (s.onNet f).pwr = s.pwr := rfl
@[simp] theorem State.onNet_keys (f : NetSt → NetSt) : (s.onNet f).keys = s.keys := rfl
@[simp] theorem State.onNet_meter (f : NetSt → NetSt) : (s.onNet f).meter = s.meter := rfl
@[simp] theorem State.onNet_mir (f : NetSt → NetSt) : (s.onNet f).mir = s.mir := rfl
@[simp] theorem State.onNet_out (f : NetSt → NetSt) : (s.onNet f).out = s.out := rfl

@[simp] theorem State.onStore_pending (f : StoreSt → StoreSt) : (s.onStore f).pending = s.pending := rfl
@[simp] theorem State.onStore_time (f : StoreSt → StoreSt) : (s.onStore f).time = s.time := rfl
@[simp] theorem State.onStore_free (f : StoreSt → StoreSt) : (s.onStore f).free = s.free := rfl
@[simp] theorem State.onStore_host (f : StoreSt → StoreSt) : (s.onStore f).host = s.host := rfl
@[simp] theorem State.onStore_sram (f : StoreSt → StoreSt) : (s.onStore f).sram = s.sram := rfl
@[simp] theorem State.onStore_cores (f : StoreSt → StoreSt) : (s.onStore f).cores = s.cores := rfl
@[simp] theorem State.onStore_lregions (f : StoreSt → StoreSt) : (s.onStore f).lregions = s.lregions := rfl
@[simp] theorem State.onStore_regions (f : StoreSt → StoreSt) : (s.onStore f).regions = s.regions := rfl
@[simp] theorem State.onStore_set (f : StoreSt → StoreSt) : (s.onStore f).set = s.set := rfl
@[simp] theorem State.onStore_grd (f : StoreSt → StoreSt) : (s.onStore f).grd = s.grd := rfl
@[simp] theorem State.onStore_num (f : StoreSt → StoreSt) : (s.onStore f).num = s.num := rfl
@[simp] theorem State.onStore_run (f : StoreSt → StoreSt) : (s.onStore f).run = s.run := rfl
@[simp] theorem State.onStore_brg (f : StoreSt → StoreSt) : (s.onStore f).brg = s.brg := rfl
@[simp] theorem State.onStore_stg (f : StoreSt → StoreSt) : (s.onStore f).stg = s.stg := rfl
@[simp] theorem State.onStore_cfg (f : StoreSt → StoreSt) : (s.onStore f).cfg = s.cfg := rfl
@[simp] theorem State.onStore_bat (f : StoreSt → StoreSt) : (s.onStore f).bat = s.bat := rfl
@[simp] theorem State.onStore_net (f : StoreSt → StoreSt) : (s.onStore f).net = s.net := rfl
@[simp] theorem State.onStore_store (f : StoreSt → StoreSt) : (s.onStore f).store = f s.store := rfl
@[simp] theorem State.onStore_orc (f : StoreSt → StoreSt) : (s.onStore f).orc = s.orc := rfl
@[simp] theorem State.onStore_prs (f : StoreSt → StoreSt) : (s.onStore f).prs = s.prs := rfl
@[simp] theorem State.onStore_dma (f : StoreSt → StoreSt) : (s.onStore f).dma = s.dma := rfl
@[simp] theorem State.onStore_eng (f : StoreSt → StoreSt) : (s.onStore f).eng = s.eng := rfl
@[simp] theorem State.onStore_flt (f : StoreSt → StoreSt) : (s.onStore f).flt = s.flt := rfl
@[simp] theorem State.onStore_log (f : StoreSt → StoreSt) : (s.onStore f).log = s.log := rfl
@[simp] theorem State.onStore_pwr (f : StoreSt → StoreSt) : (s.onStore f).pwr = s.pwr := rfl
@[simp] theorem State.onStore_keys (f : StoreSt → StoreSt) : (s.onStore f).keys = s.keys := rfl
@[simp] theorem State.onStore_meter (f : StoreSt → StoreSt) : (s.onStore f).meter = s.meter := rfl
@[simp] theorem State.onStore_mir (f : StoreSt → StoreSt) : (s.onStore f).mir = s.mir := rfl
@[simp] theorem State.onStore_out (f : StoreSt → StoreSt) : (s.onStore f).out = s.out := rfl

@[simp] theorem State.onOrc_pending (f : OrchardSt → OrchardSt) : (s.onOrc f).pending = s.pending := rfl
@[simp] theorem State.onOrc_time (f : OrchardSt → OrchardSt) : (s.onOrc f).time = s.time := rfl
@[simp] theorem State.onOrc_free (f : OrchardSt → OrchardSt) : (s.onOrc f).free = s.free := rfl
@[simp] theorem State.onOrc_host (f : OrchardSt → OrchardSt) : (s.onOrc f).host = s.host := rfl
@[simp] theorem State.onOrc_sram (f : OrchardSt → OrchardSt) : (s.onOrc f).sram = s.sram := rfl
@[simp] theorem State.onOrc_cores (f : OrchardSt → OrchardSt) : (s.onOrc f).cores = s.cores := rfl
@[simp] theorem State.onOrc_lregions (f : OrchardSt → OrchardSt) : (s.onOrc f).lregions = s.lregions := rfl
@[simp] theorem State.onOrc_regions (f : OrchardSt → OrchardSt) : (s.onOrc f).regions = s.regions := rfl
@[simp] theorem State.onOrc_set (f : OrchardSt → OrchardSt) : (s.onOrc f).set = s.set := rfl
@[simp] theorem State.onOrc_grd (f : OrchardSt → OrchardSt) : (s.onOrc f).grd = s.grd := rfl
@[simp] theorem State.onOrc_num (f : OrchardSt → OrchardSt) : (s.onOrc f).num = s.num := rfl
@[simp] theorem State.onOrc_run (f : OrchardSt → OrchardSt) : (s.onOrc f).run = s.run := rfl
@[simp] theorem State.onOrc_brg (f : OrchardSt → OrchardSt) : (s.onOrc f).brg = s.brg := rfl
@[simp] theorem State.onOrc_stg (f : OrchardSt → OrchardSt) : (s.onOrc f).stg = s.stg := rfl
@[simp] theorem State.onOrc_cfg (f : OrchardSt → OrchardSt) : (s.onOrc f).cfg = s.cfg := rfl
@[simp] theorem State.onOrc_bat (f : OrchardSt → OrchardSt) : (s.onOrc f).bat = s.bat := rfl
@[simp] theorem State.onOrc_net (f : OrchardSt → OrchardSt) : (s.onOrc f).net = s.net := rfl
@[simp] theorem State.onOrc_store (f : OrchardSt → OrchardSt) : (s.onOrc f).store = s.store := rfl
@[simp] theorem State.onOrc_orc (f : OrchardSt → OrchardSt) : (s.onOrc f).orc = f s.orc := rfl
@[simp] theorem State.onOrc_prs (f : OrchardSt → OrchardSt) : (s.onOrc f).prs = s.prs := rfl
@[simp] theorem State.onOrc_dma (f : OrchardSt → OrchardSt) : (s.onOrc f).dma = s.dma := rfl
@[simp] theorem State.onOrc_eng (f : OrchardSt → OrchardSt) : (s.onOrc f).eng = s.eng := rfl
@[simp] theorem State.onOrc_flt (f : OrchardSt → OrchardSt) : (s.onOrc f).flt = s.flt := rfl
@[simp] theorem State.onOrc_log (f : OrchardSt → OrchardSt) : (s.onOrc f).log = s.log := rfl
@[simp] theorem State.onOrc_pwr (f : OrchardSt → OrchardSt) : (s.onOrc f).pwr = s.pwr := rfl
@[simp] theorem State.onOrc_keys (f : OrchardSt → OrchardSt) : (s.onOrc f).keys = s.keys := rfl
@[simp] theorem State.onOrc_meter (f : OrchardSt → OrchardSt) : (s.onOrc f).meter = s.meter := rfl
@[simp] theorem State.onOrc_mir (f : OrchardSt → OrchardSt) : (s.onOrc f).mir = s.mir := rfl
@[simp] theorem State.onOrc_out (f : OrchardSt → OrchardSt) : (s.onOrc f).out = s.out := rfl

@[simp] theorem State.onPrs_pending (f : PressSt → PressSt) : (s.onPrs f).pending = s.pending := rfl
@[simp] theorem State.onPrs_time (f : PressSt → PressSt) : (s.onPrs f).time = s.time := rfl
@[simp] theorem State.onPrs_free (f : PressSt → PressSt) : (s.onPrs f).free = s.free := rfl
@[simp] theorem State.onPrs_host (f : PressSt → PressSt) : (s.onPrs f).host = s.host := rfl
@[simp] theorem State.onPrs_sram (f : PressSt → PressSt) : (s.onPrs f).sram = s.sram := rfl
@[simp] theorem State.onPrs_cores (f : PressSt → PressSt) : (s.onPrs f).cores = s.cores := rfl
@[simp] theorem State.onPrs_lregions (f : PressSt → PressSt) : (s.onPrs f).lregions = s.lregions := rfl
@[simp] theorem State.onPrs_regions (f : PressSt → PressSt) : (s.onPrs f).regions = s.regions := rfl
@[simp] theorem State.onPrs_set (f : PressSt → PressSt) : (s.onPrs f).set = s.set := rfl
@[simp] theorem State.onPrs_grd (f : PressSt → PressSt) : (s.onPrs f).grd = s.grd := rfl
@[simp] theorem State.onPrs_num (f : PressSt → PressSt) : (s.onPrs f).num = s.num := rfl
@[simp] theorem State.onPrs_run (f : PressSt → PressSt) : (s.onPrs f).run = s.run := rfl
@[simp] theorem State.onPrs_brg (f : PressSt → PressSt) : (s.onPrs f).brg = s.brg := rfl
@[simp] theorem State.onPrs_stg (f : PressSt → PressSt) : (s.onPrs f).stg = s.stg := rfl
@[simp] theorem State.onPrs_cfg (f : PressSt → PressSt) : (s.onPrs f).cfg = s.cfg := rfl
@[simp] theorem State.onPrs_bat (f : PressSt → PressSt) : (s.onPrs f).bat = s.bat := rfl
@[simp] theorem State.onPrs_net (f : PressSt → PressSt) : (s.onPrs f).net = s.net := rfl
@[simp] theorem State.onPrs_store (f : PressSt → PressSt) : (s.onPrs f).store = s.store := rfl
@[simp] theorem State.onPrs_orc (f : PressSt → PressSt) : (s.onPrs f).orc = s.orc := rfl
@[simp] theorem State.onPrs_prs (f : PressSt → PressSt) : (s.onPrs f).prs = f s.prs := rfl
@[simp] theorem State.onPrs_dma (f : PressSt → PressSt) : (s.onPrs f).dma = s.dma := rfl
@[simp] theorem State.onPrs_eng (f : PressSt → PressSt) : (s.onPrs f).eng = s.eng := rfl
@[simp] theorem State.onPrs_flt (f : PressSt → PressSt) : (s.onPrs f).flt = s.flt := rfl
@[simp] theorem State.onPrs_log (f : PressSt → PressSt) : (s.onPrs f).log = s.log := rfl
@[simp] theorem State.onPrs_pwr (f : PressSt → PressSt) : (s.onPrs f).pwr = s.pwr := rfl
@[simp] theorem State.onPrs_keys (f : PressSt → PressSt) : (s.onPrs f).keys = s.keys := rfl
@[simp] theorem State.onPrs_meter (f : PressSt → PressSt) : (s.onPrs f).meter = s.meter := rfl
@[simp] theorem State.onPrs_mir (f : PressSt → PressSt) : (s.onPrs f).mir = s.mir := rfl
@[simp] theorem State.onPrs_out (f : PressSt → PressSt) : (s.onPrs f).out = s.out := rfl

@[simp] theorem State.onFlt_pending (f : FaultSt → FaultSt) : (s.onFlt f).pending = s.pending := rfl
@[simp] theorem State.onFlt_time (f : FaultSt → FaultSt) : (s.onFlt f).time = s.time := rfl
@[simp] theorem State.onFlt_free (f : FaultSt → FaultSt) : (s.onFlt f).free = s.free := rfl
@[simp] theorem State.onFlt_host (f : FaultSt → FaultSt) : (s.onFlt f).host = s.host := rfl
@[simp] theorem State.onFlt_sram (f : FaultSt → FaultSt) : (s.onFlt f).sram = s.sram := rfl
@[simp] theorem State.onFlt_cores (f : FaultSt → FaultSt) : (s.onFlt f).cores = s.cores := rfl
@[simp] theorem State.onFlt_lregions (f : FaultSt → FaultSt) : (s.onFlt f).lregions = s.lregions := rfl
@[simp] theorem State.onFlt_regions (f : FaultSt → FaultSt) : (s.onFlt f).regions = s.regions := rfl
@[simp] theorem State.onFlt_set (f : FaultSt → FaultSt) : (s.onFlt f).set = s.set := rfl
@[simp] theorem State.onFlt_grd (f : FaultSt → FaultSt) : (s.onFlt f).grd = s.grd := rfl
@[simp] theorem State.onFlt_num (f : FaultSt → FaultSt) : (s.onFlt f).num = s.num := rfl
@[simp] theorem State.onFlt_run (f : FaultSt → FaultSt) : (s.onFlt f).run = s.run := rfl
@[simp] theorem State.onFlt_brg (f : FaultSt → FaultSt) : (s.onFlt f).brg = s.brg := rfl
@[simp] theorem State.onFlt_stg (f : FaultSt → FaultSt) : (s.onFlt f).stg = s.stg := rfl
@[simp] theorem State.onFlt_cfg (f : FaultSt → FaultSt) : (s.onFlt f).cfg = s.cfg := rfl
@[simp] theorem State.onFlt_bat (f : FaultSt → FaultSt) : (s.onFlt f).bat = s.bat := rfl
@[simp] theorem State.onFlt_net (f : FaultSt → FaultSt) : (s.onFlt f).net = s.net := rfl
@[simp] theorem State.onFlt_store (f : FaultSt → FaultSt) : (s.onFlt f).store = s.store := rfl
@[simp] theorem State.onFlt_orc (f : FaultSt → FaultSt) : (s.onFlt f).orc = s.orc := rfl
@[simp] theorem State.onFlt_prs (f : FaultSt → FaultSt) : (s.onFlt f).prs = s.prs := rfl
@[simp] theorem State.onFlt_dma (f : FaultSt → FaultSt) : (s.onFlt f).dma = s.dma := rfl
@[simp] theorem State.onFlt_eng (f : FaultSt → FaultSt) : (s.onFlt f).eng = s.eng := rfl
@[simp] theorem State.onFlt_flt (f : FaultSt → FaultSt) : (s.onFlt f).flt = f s.flt := rfl
@[simp] theorem State.onFlt_log (f : FaultSt → FaultSt) : (s.onFlt f).log = s.log := rfl
@[simp] theorem State.onFlt_pwr (f : FaultSt → FaultSt) : (s.onFlt f).pwr = s.pwr := rfl
@[simp] theorem State.onFlt_keys (f : FaultSt → FaultSt) : (s.onFlt f).keys = s.keys := rfl
@[simp] theorem State.onFlt_meter (f : FaultSt → FaultSt) : (s.onFlt f).meter = s.meter := rfl
@[simp] theorem State.onFlt_mir (f : FaultSt → FaultSt) : (s.onFlt f).mir = s.mir := rfl
@[simp] theorem State.onFlt_out (f : FaultSt → FaultSt) : (s.onFlt f).out = s.out := rfl

@[simp] theorem State.onPwr_pending (f : PowerSt → PowerSt) : (s.onPwr f).pending = s.pending := rfl
@[simp] theorem State.onPwr_time (f : PowerSt → PowerSt) : (s.onPwr f).time = s.time := rfl
@[simp] theorem State.onPwr_free (f : PowerSt → PowerSt) : (s.onPwr f).free = s.free := rfl
@[simp] theorem State.onPwr_host (f : PowerSt → PowerSt) : (s.onPwr f).host = s.host := rfl
@[simp] theorem State.onPwr_sram (f : PowerSt → PowerSt) : (s.onPwr f).sram = s.sram := rfl
@[simp] theorem State.onPwr_cores (f : PowerSt → PowerSt) : (s.onPwr f).cores = s.cores := rfl
@[simp] theorem State.onPwr_lregions (f : PowerSt → PowerSt) : (s.onPwr f).lregions = s.lregions := rfl
@[simp] theorem State.onPwr_regions (f : PowerSt → PowerSt) : (s.onPwr f).regions = s.regions := rfl
@[simp] theorem State.onPwr_set (f : PowerSt → PowerSt) : (s.onPwr f).set = s.set := rfl
@[simp] theorem State.onPwr_grd (f : PowerSt → PowerSt) : (s.onPwr f).grd = s.grd := rfl
@[simp] theorem State.onPwr_num (f : PowerSt → PowerSt) : (s.onPwr f).num = s.num := rfl
@[simp] theorem State.onPwr_run (f : PowerSt → PowerSt) : (s.onPwr f).run = s.run := rfl
@[simp] theorem State.onPwr_brg (f : PowerSt → PowerSt) : (s.onPwr f).brg = s.brg := rfl
@[simp] theorem State.onPwr_stg (f : PowerSt → PowerSt) : (s.onPwr f).stg = s.stg := rfl
@[simp] theorem State.onPwr_cfg (f : PowerSt → PowerSt) : (s.onPwr f).cfg = s.cfg := rfl
@[simp] theorem State.onPwr_bat (f : PowerSt → PowerSt) : (s.onPwr f).bat = s.bat := rfl
@[simp] theorem State.onPwr_net (f : PowerSt → PowerSt) : (s.onPwr f).net = s.net := rfl
@[simp] theorem State.onPwr_store (f : PowerSt → PowerSt) : (s.onPwr f).store = s.store := rfl
@[simp] theorem State.onPwr_orc (f : PowerSt → PowerSt) : (s.onPwr f).orc = s.orc := rfl
@[simp] theorem State.onPwr_prs (f : PowerSt → PowerSt) : (s.onPwr f).prs = s.prs := rfl
@[simp] theorem State.onPwr_dma (f : PowerSt → PowerSt) : (s.onPwr f).dma = s.dma := rfl
@[simp] theorem State.onPwr_eng (f : PowerSt → PowerSt) : (s.onPwr f).eng = s.eng := rfl
@[simp] theorem State.onPwr_flt (f : PowerSt → PowerSt) : (s.onPwr f).flt = s.flt := rfl
@[simp] theorem State.onPwr_log (f : PowerSt → PowerSt) : (s.onPwr f).log = s.log := rfl
@[simp] theorem State.onPwr_pwr (f : PowerSt → PowerSt) : (s.onPwr f).pwr = f s.pwr := rfl
@[simp] theorem State.onPwr_keys (f : PowerSt → PowerSt) : (s.onPwr f).keys = s.keys := rfl
@[simp] theorem State.onPwr_meter (f : PowerSt → PowerSt) : (s.onPwr f).meter = s.meter := rfl
@[simp] theorem State.onPwr_mir (f : PowerSt → PowerSt) : (s.onPwr f).mir = s.mir := rfl
@[simp] theorem State.onPwr_out (f : PowerSt → PowerSt) : (s.onPwr f).out = s.out := rfl

@[simp] theorem State.onKeys_pending (f : KeySt → KeySt) : (s.onKeys f).pending = s.pending := rfl
@[simp] theorem State.onKeys_time (f : KeySt → KeySt) : (s.onKeys f).time = s.time := rfl
@[simp] theorem State.onKeys_free (f : KeySt → KeySt) : (s.onKeys f).free = s.free := rfl
@[simp] theorem State.onKeys_host (f : KeySt → KeySt) : (s.onKeys f).host = s.host := rfl
@[simp] theorem State.onKeys_sram (f : KeySt → KeySt) : (s.onKeys f).sram = s.sram := rfl
@[simp] theorem State.onKeys_cores (f : KeySt → KeySt) : (s.onKeys f).cores = s.cores := rfl
@[simp] theorem State.onKeys_lregions (f : KeySt → KeySt) : (s.onKeys f).lregions = s.lregions := rfl
@[simp] theorem State.onKeys_regions (f : KeySt → KeySt) : (s.onKeys f).regions = s.regions := rfl
@[simp] theorem State.onKeys_set (f : KeySt → KeySt) : (s.onKeys f).set = s.set := rfl
@[simp] theorem State.onKeys_grd (f : KeySt → KeySt) : (s.onKeys f).grd = s.grd := rfl
@[simp] theorem State.onKeys_num (f : KeySt → KeySt) : (s.onKeys f).num = s.num := rfl
@[simp] theorem State.onKeys_run (f : KeySt → KeySt) : (s.onKeys f).run = s.run := rfl
@[simp] theorem State.onKeys_brg (f : KeySt → KeySt) : (s.onKeys f).brg = s.brg := rfl
@[simp] theorem State.onKeys_stg (f : KeySt → KeySt) : (s.onKeys f).stg = s.stg := rfl
@[simp] theorem State.onKeys_cfg (f : KeySt → KeySt) : (s.onKeys f).cfg = s.cfg := rfl
@[simp] theorem State.onKeys_bat (f : KeySt → KeySt) : (s.onKeys f).bat = s.bat := rfl
@[simp] theorem State.onKeys_net (f : KeySt → KeySt) : (s.onKeys f).net = s.net := rfl
@[simp] theorem State.onKeys_store (f : KeySt → KeySt) : (s.onKeys f).store = s.store := rfl
@[simp] theorem State.onKeys_orc (f : KeySt → KeySt) : (s.onKeys f).orc = s.orc := rfl
@[simp] theorem State.onKeys_prs (f : KeySt → KeySt) : (s.onKeys f).prs = s.prs := rfl
@[simp] theorem State.onKeys_dma (f : KeySt → KeySt) : (s.onKeys f).dma = s.dma := rfl
@[simp] theorem State.onKeys_eng (f : KeySt → KeySt) : (s.onKeys f).eng = s.eng := rfl
@[simp] theorem State.onKeys_flt (f : KeySt → KeySt) : (s.onKeys f).flt = s.flt := rfl
@[simp] theorem State.onKeys_log (f : KeySt → KeySt) : (s.onKeys f).log = s.log := rfl
@[simp] theorem State.onKeys_pwr (f : KeySt → KeySt) : (s.onKeys f).pwr = s.pwr := rfl
@[simp] theorem State.onKeys_keys (f : KeySt → KeySt) : (s.onKeys f).keys = f s.keys := rfl
@[simp] theorem State.onKeys_meter (f : KeySt → KeySt) : (s.onKeys f).meter = s.meter := rfl
@[simp] theorem State.onKeys_mir (f : KeySt → KeySt) : (s.onKeys f).mir = s.mir := rfl
@[simp] theorem State.onKeys_out (f : KeySt → KeySt) : (s.onKeys f).out = s.out := rfl

@[simp] theorem State.onMeter_pending (f : MeterSt → MeterSt) : (s.onMeter f).pending = s.pending := rfl
@[simp] theorem State.onMeter_time (f : MeterSt → MeterSt) : (s.onMeter f).time = s.time := rfl
@[simp] theorem State.onMeter_free (f : MeterSt → MeterSt) : (s.onMeter f).free = s.free := rfl
@[simp] theorem State.onMeter_host (f : MeterSt → MeterSt) : (s.onMeter f).host = s.host := rfl
@[simp] theorem State.onMeter_sram (f : MeterSt → MeterSt) : (s.onMeter f).sram = s.sram := rfl
@[simp] theorem State.onMeter_cores (f : MeterSt → MeterSt) : (s.onMeter f).cores = s.cores := rfl
@[simp] theorem State.onMeter_lregions (f : MeterSt → MeterSt) : (s.onMeter f).lregions = s.lregions := rfl
@[simp] theorem State.onMeter_regions (f : MeterSt → MeterSt) : (s.onMeter f).regions = s.regions := rfl
@[simp] theorem State.onMeter_set (f : MeterSt → MeterSt) : (s.onMeter f).set = s.set := rfl
@[simp] theorem State.onMeter_grd (f : MeterSt → MeterSt) : (s.onMeter f).grd = s.grd := rfl
@[simp] theorem State.onMeter_num (f : MeterSt → MeterSt) : (s.onMeter f).num = s.num := rfl
@[simp] theorem State.onMeter_run (f : MeterSt → MeterSt) : (s.onMeter f).run = s.run := rfl
@[simp] theorem State.onMeter_brg (f : MeterSt → MeterSt) : (s.onMeter f).brg = s.brg := rfl
@[simp] theorem State.onMeter_stg (f : MeterSt → MeterSt) : (s.onMeter f).stg = s.stg := rfl
@[simp] theorem State.onMeter_cfg (f : MeterSt → MeterSt) : (s.onMeter f).cfg = s.cfg := rfl
@[simp] theorem State.onMeter_bat (f : MeterSt → MeterSt) : (s.onMeter f).bat = s.bat := rfl
@[simp] theorem State.onMeter_net (f : MeterSt → MeterSt) : (s.onMeter f).net = s.net := rfl
@[simp] theorem State.onMeter_store (f : MeterSt → MeterSt) : (s.onMeter f).store = s.store := rfl
@[simp] theorem State.onMeter_orc (f : MeterSt → MeterSt) : (s.onMeter f).orc = s.orc := rfl
@[simp] theorem State.onMeter_prs (f : MeterSt → MeterSt) : (s.onMeter f).prs = s.prs := rfl
@[simp] theorem State.onMeter_dma (f : MeterSt → MeterSt) : (s.onMeter f).dma = s.dma := rfl
@[simp] theorem State.onMeter_eng (f : MeterSt → MeterSt) : (s.onMeter f).eng = s.eng := rfl
@[simp] theorem State.onMeter_flt (f : MeterSt → MeterSt) : (s.onMeter f).flt = s.flt := rfl
@[simp] theorem State.onMeter_log (f : MeterSt → MeterSt) : (s.onMeter f).log = s.log := rfl
@[simp] theorem State.onMeter_pwr (f : MeterSt → MeterSt) : (s.onMeter f).pwr = s.pwr := rfl
@[simp] theorem State.onMeter_keys (f : MeterSt → MeterSt) : (s.onMeter f).keys = s.keys := rfl
@[simp] theorem State.onMeter_meter (f : MeterSt → MeterSt) : (s.onMeter f).meter = f s.meter := rfl
@[simp] theorem State.onMeter_mir (f : MeterSt → MeterSt) : (s.onMeter f).mir = s.mir := rfl
@[simp] theorem State.onMeter_out (f : MeterSt → MeterSt) : (s.onMeter f).out = s.out := rfl

@[simp] theorem State.onMir_pending (f : MirrorSt → MirrorSt) : (s.onMir f).pending = s.pending := rfl
@[simp] theorem State.onMir_time (f : MirrorSt → MirrorSt) : (s.onMir f).time = s.time := rfl
@[simp] theorem State.onMir_free (f : MirrorSt → MirrorSt) : (s.onMir f).free = s.free := rfl
@[simp] theorem State.onMir_host (f : MirrorSt → MirrorSt) : (s.onMir f).host = s.host := rfl
@[simp] theorem State.onMir_sram (f : MirrorSt → MirrorSt) : (s.onMir f).sram = s.sram := rfl
@[simp] theorem State.onMir_cores (f : MirrorSt → MirrorSt) : (s.onMir f).cores = s.cores := rfl
@[simp] theorem State.onMir_lregions (f : MirrorSt → MirrorSt) : (s.onMir f).lregions = s.lregions := rfl
@[simp] theorem State.onMir_regions (f : MirrorSt → MirrorSt) : (s.onMir f).regions = s.regions := rfl
@[simp] theorem State.onMir_set (f : MirrorSt → MirrorSt) : (s.onMir f).set = s.set := rfl
@[simp] theorem State.onMir_grd (f : MirrorSt → MirrorSt) : (s.onMir f).grd = s.grd := rfl
@[simp] theorem State.onMir_num (f : MirrorSt → MirrorSt) : (s.onMir f).num = s.num := rfl
@[simp] theorem State.onMir_run (f : MirrorSt → MirrorSt) : (s.onMir f).run = s.run := rfl
@[simp] theorem State.onMir_brg (f : MirrorSt → MirrorSt) : (s.onMir f).brg = s.brg := rfl
@[simp] theorem State.onMir_stg (f : MirrorSt → MirrorSt) : (s.onMir f).stg = s.stg := rfl
@[simp] theorem State.onMir_cfg (f : MirrorSt → MirrorSt) : (s.onMir f).cfg = s.cfg := rfl
@[simp] theorem State.onMir_bat (f : MirrorSt → MirrorSt) : (s.onMir f).bat = s.bat := rfl
@[simp] theorem State.onMir_net (f : MirrorSt → MirrorSt) : (s.onMir f).net = s.net := rfl
@[simp] theorem State.onMir_store (f : MirrorSt → MirrorSt) : (s.onMir f).store = s.store := rfl
@[simp] theorem State.onMir_orc (f : MirrorSt → MirrorSt) : (s.onMir f).orc = s.orc := rfl
@[simp] theorem State.onMir_prs (f : MirrorSt → MirrorSt) : (s.onMir f).prs = s.prs := rfl
@[simp] theorem State.onMir_dma (f : MirrorSt → MirrorSt) : (s.onMir f).dma = s.dma := rfl
@[simp] theorem State.onMir_eng (f : MirrorSt → MirrorSt) : (s.onMir f).eng = s.eng := rfl
@[simp] theorem State.onMir_flt (f : MirrorSt → MirrorSt) : (s.onMir f).flt = s.flt := rfl
@[simp] theorem State.onMir_log (f : MirrorSt → MirrorSt) : (s.onMir f).log = s.log := rfl
@[simp] theorem State.onMir_pwr (f : MirrorSt → MirrorSt) : (s.onMir f).pwr = s.pwr := rfl
@[simp] theorem State.onMir_keys (f : MirrorSt → MirrorSt) : (s.onMir f).keys = s.keys := rfl
@[simp] theorem State.onMir_meter (f : MirrorSt → MirrorSt) : (s.onMir f).meter = s.meter := rfl
@[simp] theorem State.onMir_mir (f : MirrorSt → MirrorSt) : (s.onMir f).mir = f s.mir := rfl
@[simp] theorem State.onMir_out (f : MirrorSt → MirrorSt) : (s.onMir f).out = s.out := rfl

@[simp] theorem State.onGrd_pending (f : GuardSt → GuardSt) : (s.onGrd f).pending = s.pending := rfl
@[simp] theorem State.onGrd_time (f : GuardSt → GuardSt) : (s.onGrd f).time = s.time := rfl
@[simp] theorem State.onGrd_free (f : GuardSt → GuardSt) : (s.onGrd f).free = s.free := rfl
@[simp] theorem State.onGrd_host (f : GuardSt → GuardSt) : (s.onGrd f).host = s.host := rfl
@[simp] theorem State.onGrd_sram (f : GuardSt → GuardSt) : (s.onGrd f).sram = s.sram := rfl
@[simp] theorem State.onGrd_cores (f : GuardSt → GuardSt) : (s.onGrd f).cores = s.cores := rfl
@[simp] theorem State.onGrd_lregions (f : GuardSt → GuardSt) : (s.onGrd f).lregions = s.lregions := rfl
@[simp] theorem State.onGrd_regions (f : GuardSt → GuardSt) : (s.onGrd f).regions = s.regions := rfl
@[simp] theorem State.onGrd_set (f : GuardSt → GuardSt) : (s.onGrd f).set = s.set := rfl
@[simp] theorem State.onGrd_grd (f : GuardSt → GuardSt) : (s.onGrd f).grd = f s.grd := rfl
@[simp] theorem State.onGrd_num (f : GuardSt → GuardSt) : (s.onGrd f).num = s.num := rfl
@[simp] theorem State.onGrd_run (f : GuardSt → GuardSt) : (s.onGrd f).run = s.run := rfl
@[simp] theorem State.onGrd_brg (f : GuardSt → GuardSt) : (s.onGrd f).brg = s.brg := rfl
@[simp] theorem State.onGrd_stg (f : GuardSt → GuardSt) : (s.onGrd f).stg = s.stg := rfl
@[simp] theorem State.onGrd_cfg (f : GuardSt → GuardSt) : (s.onGrd f).cfg = s.cfg := rfl
@[simp] theorem State.onGrd_bat (f : GuardSt → GuardSt) : (s.onGrd f).bat = s.bat := rfl
@[simp] theorem State.onGrd_net (f : GuardSt → GuardSt) : (s.onGrd f).net = s.net := rfl
@[simp] theorem State.onGrd_store (f : GuardSt → GuardSt) : (s.onGrd f).store = s.store := rfl
@[simp] theorem State.onGrd_orc (f : GuardSt → GuardSt) : (s.onGrd f).orc = s.orc := rfl
@[simp] theorem State.onGrd_prs (f : GuardSt → GuardSt) : (s.onGrd f).prs = s.prs := rfl
@[simp] theorem State.onGrd_dma (f : GuardSt → GuardSt) : (s.onGrd f).dma = s.dma := rfl
@[simp] theorem State.onGrd_eng (f : GuardSt → GuardSt) : (s.onGrd f).eng = s.eng := rfl
@[simp] theorem State.onGrd_flt (f : GuardSt → GuardSt) : (s.onGrd f).flt = s.flt := rfl
@[simp] theorem State.onGrd_log (f : GuardSt → GuardSt) : (s.onGrd f).log = s.log := rfl
@[simp] theorem State.onGrd_pwr (f : GuardSt → GuardSt) : (s.onGrd f).pwr = s.pwr := rfl
@[simp] theorem State.onGrd_keys (f : GuardSt → GuardSt) : (s.onGrd f).keys = s.keys := rfl
@[simp] theorem State.onGrd_meter (f : GuardSt → GuardSt) : (s.onGrd f).meter = s.meter := rfl
@[simp] theorem State.onGrd_mir (f : GuardSt → GuardSt) : (s.onGrd f).mir = s.mir := rfl
@[simp] theorem State.onGrd_out (f : GuardSt → GuardSt) : (s.onGrd f).out = s.out := rfl

@[simp] theorem State.onCore_pending (r c : Nat) (f : CoreSt → CoreSt) : (s.onCore r c f).pending = s.pending := rfl
@[simp] theorem State.onCore_time (r c : Nat) (f : CoreSt → CoreSt) : (s.onCore r c f).time = s.time := rfl
@[simp] theorem State.onCore_free (r c : Nat) (f : CoreSt → CoreSt) : (s.onCore r c f).free = s.free := rfl
@[simp] theorem State.onCore_host (r c : Nat) (f : CoreSt → CoreSt) : (s.onCore r c f).host = s.host := rfl
@[simp] theorem State.onCore_sram (r c : Nat) (f : CoreSt → CoreSt) : (s.onCore r c f).sram = s.sram := rfl
@[simp] theorem State.onCore_cores (r c : Nat) (f : CoreSt → CoreSt) : (s.onCore r c f).cores = s.cores.upd {} (coreKey r c) f := rfl
@[simp] theorem State.onCore_lregions (r c : Nat) (f : CoreSt → CoreSt) : (s.onCore r c f).lregions = s.lregions := rfl
@[simp] theorem State.onCore_regions (r c : Nat) (f : CoreSt → CoreSt) : (s.onCore r c f).regions = s.regions := rfl
@[simp] theorem State.onCore_set (r c : Nat) (f : CoreSt → CoreSt) : (s.onCore r c f).set = s.set := rfl
@[simp] theorem State.onCore_grd (r c : Nat) (f : CoreSt → CoreSt) : (s.onCore r c f).grd = s.grd := rfl
@[simp] theorem State.onCore_num (r c : Nat) (f : CoreSt → CoreSt) : (s.onCore r c f).num = s.num := rfl
@[simp] theorem State.onCore_run (r c : Nat) (f : CoreSt → CoreSt) : (s.onCore r c f).run = s.run := rfl
@[simp] theorem State.onCore_brg (r c : Nat) (f : CoreSt → CoreSt) : (s.onCore r c f).brg = s.brg := rfl
@[simp] theorem State.onCore_stg (r c : Nat) (f : CoreSt → CoreSt) : (s.onCore r c f).stg = s.stg := rfl
@[simp] theorem State.onCore_cfg (r c : Nat) (f : CoreSt → CoreSt) : (s.onCore r c f).cfg = s.cfg := rfl
@[simp] theorem State.onCore_bat (r c : Nat) (f : CoreSt → CoreSt) : (s.onCore r c f).bat = s.bat := rfl
@[simp] theorem State.onCore_net (r c : Nat) (f : CoreSt → CoreSt) : (s.onCore r c f).net = s.net := rfl
@[simp] theorem State.onCore_store (r c : Nat) (f : CoreSt → CoreSt) : (s.onCore r c f).store = s.store := rfl
@[simp] theorem State.onCore_orc (r c : Nat) (f : CoreSt → CoreSt) : (s.onCore r c f).orc = s.orc := rfl
@[simp] theorem State.onCore_prs (r c : Nat) (f : CoreSt → CoreSt) : (s.onCore r c f).prs = s.prs := rfl
@[simp] theorem State.onCore_dma (r c : Nat) (f : CoreSt → CoreSt) : (s.onCore r c f).dma = s.dma := rfl
@[simp] theorem State.onCore_eng (r c : Nat) (f : CoreSt → CoreSt) : (s.onCore r c f).eng = s.eng := rfl
@[simp] theorem State.onCore_flt (r c : Nat) (f : CoreSt → CoreSt) : (s.onCore r c f).flt = s.flt := rfl
@[simp] theorem State.onCore_log (r c : Nat) (f : CoreSt → CoreSt) : (s.onCore r c f).log = s.log := rfl
@[simp] theorem State.onCore_pwr (r c : Nat) (f : CoreSt → CoreSt) : (s.onCore r c f).pwr = s.pwr := rfl
@[simp] theorem State.onCore_keys (r c : Nat) (f : CoreSt → CoreSt) : (s.onCore r c f).keys = s.keys := rfl
@[simp] theorem State.onCore_meter (r c : Nat) (f : CoreSt → CoreSt) : (s.onCore r c f).meter = s.meter := rfl
@[simp] theorem State.onCore_mir (r c : Nat) (f : CoreSt → CoreSt) : (s.onCore r c f).mir = s.mir := rfl
@[simp] theorem State.onCore_out (r c : Nat) (f : CoreSt → CoreSt) : (s.onCore r c f).out = s.out := rfl

@[simp] theorem State.onLreg_pending (r : Nat) (f : LRegionSt → LRegionSt) : (s.onLreg r f).pending = s.pending := rfl
@[simp] theorem State.onLreg_time (r : Nat) (f : LRegionSt → LRegionSt) : (s.onLreg r f).time = s.time := rfl
@[simp] theorem State.onLreg_free (r : Nat) (f : LRegionSt → LRegionSt) : (s.onLreg r f).free = s.free := rfl
@[simp] theorem State.onLreg_host (r : Nat) (f : LRegionSt → LRegionSt) : (s.onLreg r f).host = s.host := rfl
@[simp] theorem State.onLreg_sram (r : Nat) (f : LRegionSt → LRegionSt) : (s.onLreg r f).sram = s.sram := rfl
@[simp] theorem State.onLreg_cores (r : Nat) (f : LRegionSt → LRegionSt) : (s.onLreg r f).cores = s.cores := rfl
@[simp] theorem State.onLreg_lregions (r : Nat) (f : LRegionSt → LRegionSt) : (s.onLreg r f).lregions = s.lregions.upd {} r f := rfl
@[simp] theorem State.onLreg_regions (r : Nat) (f : LRegionSt → LRegionSt) : (s.onLreg r f).regions = s.regions := rfl
@[simp] theorem State.onLreg_set (r : Nat) (f : LRegionSt → LRegionSt) : (s.onLreg r f).set = s.set := rfl
@[simp] theorem State.onLreg_grd (r : Nat) (f : LRegionSt → LRegionSt) : (s.onLreg r f).grd = s.grd := rfl
@[simp] theorem State.onLreg_num (r : Nat) (f : LRegionSt → LRegionSt) : (s.onLreg r f).num = s.num := rfl
@[simp] theorem State.onLreg_run (r : Nat) (f : LRegionSt → LRegionSt) : (s.onLreg r f).run = s.run := rfl
@[simp] theorem State.onLreg_brg (r : Nat) (f : LRegionSt → LRegionSt) : (s.onLreg r f).brg = s.brg := rfl
@[simp] theorem State.onLreg_stg (r : Nat) (f : LRegionSt → LRegionSt) : (s.onLreg r f).stg = s.stg := rfl
@[simp] theorem State.onLreg_cfg (r : Nat) (f : LRegionSt → LRegionSt) : (s.onLreg r f).cfg = s.cfg := rfl
@[simp] theorem State.onLreg_bat (r : Nat) (f : LRegionSt → LRegionSt) : (s.onLreg r f).bat = s.bat := rfl
@[simp] theorem State.onLreg_net (r : Nat) (f : LRegionSt → LRegionSt) : (s.onLreg r f).net = s.net := rfl
@[simp] theorem State.onLreg_store (r : Nat) (f : LRegionSt → LRegionSt) : (s.onLreg r f).store = s.store := rfl
@[simp] theorem State.onLreg_orc (r : Nat) (f : LRegionSt → LRegionSt) : (s.onLreg r f).orc = s.orc := rfl
@[simp] theorem State.onLreg_prs (r : Nat) (f : LRegionSt → LRegionSt) : (s.onLreg r f).prs = s.prs := rfl
@[simp] theorem State.onLreg_dma (r : Nat) (f : LRegionSt → LRegionSt) : (s.onLreg r f).dma = s.dma := rfl
@[simp] theorem State.onLreg_eng (r : Nat) (f : LRegionSt → LRegionSt) : (s.onLreg r f).eng = s.eng := rfl
@[simp] theorem State.onLreg_flt (r : Nat) (f : LRegionSt → LRegionSt) : (s.onLreg r f).flt = s.flt := rfl
@[simp] theorem State.onLreg_log (r : Nat) (f : LRegionSt → LRegionSt) : (s.onLreg r f).log = s.log := rfl
@[simp] theorem State.onLreg_pwr (r : Nat) (f : LRegionSt → LRegionSt) : (s.onLreg r f).pwr = s.pwr := rfl
@[simp] theorem State.onLreg_keys (r : Nat) (f : LRegionSt → LRegionSt) : (s.onLreg r f).keys = s.keys := rfl
@[simp] theorem State.onLreg_meter (r : Nat) (f : LRegionSt → LRegionSt) : (s.onLreg r f).meter = s.meter := rfl
@[simp] theorem State.onLreg_mir (r : Nat) (f : LRegionSt → LRegionSt) : (s.onLreg r f).mir = s.mir := rfl
@[simp] theorem State.onLreg_out (r : Nat) (f : LRegionSt → LRegionSt) : (s.onLreg r f).out = s.out := rfl

@[simp] theorem State.onReg_pending (p : Nat) (f : RegionSt → RegionSt) : (s.onReg p f).pending = s.pending := rfl
@[simp] theorem State.onReg_time (p : Nat) (f : RegionSt → RegionSt) : (s.onReg p f).time = s.time := rfl
@[simp] theorem State.onReg_free (p : Nat) (f : RegionSt → RegionSt) : (s.onReg p f).free = s.free := rfl
@[simp] theorem State.onReg_host (p : Nat) (f : RegionSt → RegionSt) : (s.onReg p f).host = s.host := rfl
@[simp] theorem State.onReg_sram (p : Nat) (f : RegionSt → RegionSt) : (s.onReg p f).sram = s.sram := rfl
@[simp] theorem State.onReg_cores (p : Nat) (f : RegionSt → RegionSt) : (s.onReg p f).cores = s.cores := rfl
@[simp] theorem State.onReg_lregions (p : Nat) (f : RegionSt → RegionSt) : (s.onReg p f).lregions = s.lregions := rfl
@[simp] theorem State.onReg_regions (p : Nat) (f : RegionSt → RegionSt) : (s.onReg p f).regions = s.regions.upd {} p f := rfl
@[simp] theorem State.onReg_set (p : Nat) (f : RegionSt → RegionSt) : (s.onReg p f).set = s.set := rfl
@[simp] theorem State.onReg_grd (p : Nat) (f : RegionSt → RegionSt) : (s.onReg p f).grd = s.grd := rfl
@[simp] theorem State.onReg_num (p : Nat) (f : RegionSt → RegionSt) : (s.onReg p f).num = s.num := rfl
@[simp] theorem State.onReg_run (p : Nat) (f : RegionSt → RegionSt) : (s.onReg p f).run = s.run := rfl
@[simp] theorem State.onReg_brg (p : Nat) (f : RegionSt → RegionSt) : (s.onReg p f).brg = s.brg := rfl
@[simp] theorem State.onReg_stg (p : Nat) (f : RegionSt → RegionSt) : (s.onReg p f).stg = s.stg := rfl
@[simp] theorem State.onReg_cfg (p : Nat) (f : RegionSt → RegionSt) : (s.onReg p f).cfg = s.cfg := rfl
@[simp] theorem State.onReg_bat (p : Nat) (f : RegionSt → RegionSt) : (s.onReg p f).bat = s.bat := rfl
@[simp] theorem State.onReg_net (p : Nat) (f : RegionSt → RegionSt) : (s.onReg p f).net = s.net := rfl
@[simp] theorem State.onReg_store (p : Nat) (f : RegionSt → RegionSt) : (s.onReg p f).store = s.store := rfl
@[simp] theorem State.onReg_orc (p : Nat) (f : RegionSt → RegionSt) : (s.onReg p f).orc = s.orc := rfl
@[simp] theorem State.onReg_prs (p : Nat) (f : RegionSt → RegionSt) : (s.onReg p f).prs = s.prs := rfl
@[simp] theorem State.onReg_dma (p : Nat) (f : RegionSt → RegionSt) : (s.onReg p f).dma = s.dma := rfl
@[simp] theorem State.onReg_eng (p : Nat) (f : RegionSt → RegionSt) : (s.onReg p f).eng = s.eng := rfl
@[simp] theorem State.onReg_flt (p : Nat) (f : RegionSt → RegionSt) : (s.onReg p f).flt = s.flt := rfl
@[simp] theorem State.onReg_log (p : Nat) (f : RegionSt → RegionSt) : (s.onReg p f).log = s.log := rfl
@[simp] theorem State.onReg_pwr (p : Nat) (f : RegionSt → RegionSt) : (s.onReg p f).pwr = s.pwr := rfl
@[simp] theorem State.onReg_keys (p : Nat) (f : RegionSt → RegionSt) : (s.onReg p f).keys = s.keys := rfl
@[simp] theorem State.onReg_meter (p : Nat) (f : RegionSt → RegionSt) : (s.onReg p f).meter = s.meter := rfl
@[simp] theorem State.onReg_mir (p : Nat) (f : RegionSt → RegionSt) : (s.onReg p f).mir = s.mir := rfl
@[simp] theorem State.onReg_out (p : Nat) (f : RegionSt → RegionSt) : (s.onReg p f).out = s.out := rfl

@[simp] theorem State.onEng_pending (e : Nat) (f : EngineSt → EngineSt) : (s.onEng e f).pending = s.pending := rfl
@[simp] theorem State.onEng_time (e : Nat) (f : EngineSt → EngineSt) : (s.onEng e f).time = s.time := rfl
@[simp] theorem State.onEng_free (e : Nat) (f : EngineSt → EngineSt) : (s.onEng e f).free = s.free := rfl
@[simp] theorem State.onEng_host (e : Nat) (f : EngineSt → EngineSt) : (s.onEng e f).host = s.host := rfl
@[simp] theorem State.onEng_sram (e : Nat) (f : EngineSt → EngineSt) : (s.onEng e f).sram = s.sram := rfl
@[simp] theorem State.onEng_cores (e : Nat) (f : EngineSt → EngineSt) : (s.onEng e f).cores = s.cores := rfl
@[simp] theorem State.onEng_lregions (e : Nat) (f : EngineSt → EngineSt) : (s.onEng e f).lregions = s.lregions := rfl
@[simp] theorem State.onEng_regions (e : Nat) (f : EngineSt → EngineSt) : (s.onEng e f).regions = s.regions := rfl
@[simp] theorem State.onEng_set (e : Nat) (f : EngineSt → EngineSt) : (s.onEng e f).set = s.set := rfl
@[simp] theorem State.onEng_grd (e : Nat) (f : EngineSt → EngineSt) : (s.onEng e f).grd = s.grd := rfl
@[simp] theorem State.onEng_num (e : Nat) (f : EngineSt → EngineSt) : (s.onEng e f).num = s.num := rfl
@[simp] theorem State.onEng_run (e : Nat) (f : EngineSt → EngineSt) : (s.onEng e f).run = s.run := rfl
@[simp] theorem State.onEng_brg (e : Nat) (f : EngineSt → EngineSt) : (s.onEng e f).brg = s.brg := rfl
@[simp] theorem State.onEng_stg (e : Nat) (f : EngineSt → EngineSt) : (s.onEng e f).stg = s.stg := rfl
@[simp] theorem State.onEng_cfg (e : Nat) (f : EngineSt → EngineSt) : (s.onEng e f).cfg = s.cfg := rfl
@[simp] theorem State.onEng_bat (e : Nat) (f : EngineSt → EngineSt) : (s.onEng e f).bat = s.bat := rfl
@[simp] theorem State.onEng_net (e : Nat) (f : EngineSt → EngineSt) : (s.onEng e f).net = s.net := rfl
@[simp] theorem State.onEng_store (e : Nat) (f : EngineSt → EngineSt) : (s.onEng e f).store = s.store := rfl
@[simp] theorem State.onEng_orc (e : Nat) (f : EngineSt → EngineSt) : (s.onEng e f).orc = s.orc := rfl
@[simp] theorem State.onEng_prs (e : Nat) (f : EngineSt → EngineSt) : (s.onEng e f).prs = s.prs := rfl
@[simp] theorem State.onEng_dma (e : Nat) (f : EngineSt → EngineSt) : (s.onEng e f).dma = s.dma := rfl
@[simp] theorem State.onEng_eng (e : Nat) (f : EngineSt → EngineSt) : (s.onEng e f).eng = s.eng.upd {} e f := rfl
@[simp] theorem State.onEng_flt (e : Nat) (f : EngineSt → EngineSt) : (s.onEng e f).flt = s.flt := rfl
@[simp] theorem State.onEng_log (e : Nat) (f : EngineSt → EngineSt) : (s.onEng e f).log = s.log := rfl
@[simp] theorem State.onEng_pwr (e : Nat) (f : EngineSt → EngineSt) : (s.onEng e f).pwr = s.pwr := rfl
@[simp] theorem State.onEng_keys (e : Nat) (f : EngineSt → EngineSt) : (s.onEng e f).keys = s.keys := rfl
@[simp] theorem State.onEng_meter (e : Nat) (f : EngineSt → EngineSt) : (s.onEng e f).meter = s.meter := rfl
@[simp] theorem State.onEng_mir (e : Nat) (f : EngineSt → EngineSt) : (s.onEng e f).mir = s.mir := rfl
@[simp] theorem State.onEng_out (e : Nat) (f : EngineSt → EngineSt) : (s.onEng e f).out = s.out := rfl

@[simp] theorem State.onChan_pending (k : Nat) (f : DmaSt → DmaSt) : (s.onChan k f).pending = s.pending := rfl
@[simp] theorem State.onChan_time (k : Nat) (f : DmaSt → DmaSt) : (s.onChan k f).time = s.time := rfl
@[simp] theorem State.onChan_free (k : Nat) (f : DmaSt → DmaSt) : (s.onChan k f).free = s.free := rfl
@[simp] theorem State.onChan_host (k : Nat) (f : DmaSt → DmaSt) : (s.onChan k f).host = s.host := rfl
@[simp] theorem State.onChan_sram (k : Nat) (f : DmaSt → DmaSt) : (s.onChan k f).sram = s.sram := rfl
@[simp] theorem State.onChan_cores (k : Nat) (f : DmaSt → DmaSt) : (s.onChan k f).cores = s.cores := rfl
@[simp] theorem State.onChan_lregions (k : Nat) (f : DmaSt → DmaSt) : (s.onChan k f).lregions = s.lregions := rfl
@[simp] theorem State.onChan_regions (k : Nat) (f : DmaSt → DmaSt) : (s.onChan k f).regions = s.regions := rfl
@[simp] theorem State.onChan_set (k : Nat) (f : DmaSt → DmaSt) : (s.onChan k f).set = s.set := rfl
@[simp] theorem State.onChan_grd (k : Nat) (f : DmaSt → DmaSt) : (s.onChan k f).grd = s.grd := rfl
@[simp] theorem State.onChan_num (k : Nat) (f : DmaSt → DmaSt) : (s.onChan k f).num = s.num := rfl
@[simp] theorem State.onChan_run (k : Nat) (f : DmaSt → DmaSt) : (s.onChan k f).run = s.run := rfl
@[simp] theorem State.onChan_brg (k : Nat) (f : DmaSt → DmaSt) : (s.onChan k f).brg = s.brg := rfl
@[simp] theorem State.onChan_stg (k : Nat) (f : DmaSt → DmaSt) : (s.onChan k f).stg = s.stg := rfl
@[simp] theorem State.onChan_cfg (k : Nat) (f : DmaSt → DmaSt) : (s.onChan k f).cfg = s.cfg := rfl
@[simp] theorem State.onChan_bat (k : Nat) (f : DmaSt → DmaSt) : (s.onChan k f).bat = s.bat := rfl
@[simp] theorem State.onChan_net (k : Nat) (f : DmaSt → DmaSt) : (s.onChan k f).net = s.net := rfl
@[simp] theorem State.onChan_store (k : Nat) (f : DmaSt → DmaSt) : (s.onChan k f).store = s.store := rfl
@[simp] theorem State.onChan_orc (k : Nat) (f : DmaSt → DmaSt) : (s.onChan k f).orc = s.orc := rfl
@[simp] theorem State.onChan_prs (k : Nat) (f : DmaSt → DmaSt) : (s.onChan k f).prs = s.prs := rfl
@[simp] theorem State.onChan_dma (k : Nat) (f : DmaSt → DmaSt) : (s.onChan k f).dma = s.dma.upd {} k f := rfl
@[simp] theorem State.onChan_eng (k : Nat) (f : DmaSt → DmaSt) : (s.onChan k f).eng = s.eng := rfl
@[simp] theorem State.onChan_flt (k : Nat) (f : DmaSt → DmaSt) : (s.onChan k f).flt = s.flt := rfl
@[simp] theorem State.onChan_log (k : Nat) (f : DmaSt → DmaSt) : (s.onChan k f).log = s.log := rfl
@[simp] theorem State.onChan_pwr (k : Nat) (f : DmaSt → DmaSt) : (s.onChan k f).pwr = s.pwr := rfl
@[simp] theorem State.onChan_keys (k : Nat) (f : DmaSt → DmaSt) : (s.onChan k f).keys = s.keys := rfl
@[simp] theorem State.onChan_meter (k : Nat) (f : DmaSt → DmaSt) : (s.onChan k f).meter = s.meter := rfl
@[simp] theorem State.onChan_mir (k : Nat) (f : DmaSt → DmaSt) : (s.onChan k f).mir = s.mir := rfl
@[simp] theorem State.onChan_out (k : Nat) (f : DmaSt → DmaSt) : (s.onChan k f).out = s.out := rfl

@[simp] theorem State.onHq_pending (q : Nat) (f : HostQ → HostQ) : (s.onHq q f).pending = s.pending := rfl
@[simp] theorem State.onHq_time (q : Nat) (f : HostQ → HostQ) : (s.onHq q f).time = s.time := rfl
@[simp] theorem State.onHq_free (q : Nat) (f : HostQ → HostQ) : (s.onHq q f).free = s.free := rfl
@[simp] theorem State.onHq_host (q : Nat) (f : HostQ → HostQ) : (s.onHq q f).host = s.host := rfl
@[simp] theorem State.onHq_sram (q : Nat) (f : HostQ → HostQ) : (s.onHq q f).sram = s.sram := rfl
@[simp] theorem State.onHq_cores (q : Nat) (f : HostQ → HostQ) : (s.onHq q f).cores = s.cores := rfl
@[simp] theorem State.onHq_lregions (q : Nat) (f : HostQ → HostQ) : (s.onHq q f).lregions = s.lregions := rfl
@[simp] theorem State.onHq_regions (q : Nat) (f : HostQ → HostQ) : (s.onHq q f).regions = s.regions := rfl
@[simp] theorem State.onHq_set (q : Nat) (f : HostQ → HostQ) : (s.onHq q f).set = s.set := rfl
@[simp] theorem State.onHq_grd (q : Nat) (f : HostQ → HostQ) : (s.onHq q f).grd = s.grd := rfl
@[simp] theorem State.onHq_num (q : Nat) (f : HostQ → HostQ) : (s.onHq q f).num = s.num := rfl
@[simp] theorem State.onHq_run (q : Nat) (f : HostQ → HostQ) : (s.onHq q f).run = s.run := rfl
@[simp] theorem State.onHq_brg (q : Nat) (f : HostQ → HostQ) : (s.onHq q f).brg = { s.brg with hq := s.brg.hq.upd {} q f } := rfl
@[simp] theorem State.onHq_stg (q : Nat) (f : HostQ → HostQ) : (s.onHq q f).stg = s.stg := rfl
@[simp] theorem State.onHq_cfg (q : Nat) (f : HostQ → HostQ) : (s.onHq q f).cfg = s.cfg := rfl
@[simp] theorem State.onHq_bat (q : Nat) (f : HostQ → HostQ) : (s.onHq q f).bat = s.bat := rfl
@[simp] theorem State.onHq_net (q : Nat) (f : HostQ → HostQ) : (s.onHq q f).net = s.net := rfl
@[simp] theorem State.onHq_store (q : Nat) (f : HostQ → HostQ) : (s.onHq q f).store = s.store := rfl
@[simp] theorem State.onHq_orc (q : Nat) (f : HostQ → HostQ) : (s.onHq q f).orc = s.orc := rfl
@[simp] theorem State.onHq_prs (q : Nat) (f : HostQ → HostQ) : (s.onHq q f).prs = s.prs := rfl
@[simp] theorem State.onHq_dma (q : Nat) (f : HostQ → HostQ) : (s.onHq q f).dma = s.dma := rfl
@[simp] theorem State.onHq_eng (q : Nat) (f : HostQ → HostQ) : (s.onHq q f).eng = s.eng := rfl
@[simp] theorem State.onHq_flt (q : Nat) (f : HostQ → HostQ) : (s.onHq q f).flt = s.flt := rfl
@[simp] theorem State.onHq_log (q : Nat) (f : HostQ → HostQ) : (s.onHq q f).log = s.log := rfl
@[simp] theorem State.onHq_pwr (q : Nat) (f : HostQ → HostQ) : (s.onHq q f).pwr = s.pwr := rfl
@[simp] theorem State.onHq_keys (q : Nat) (f : HostQ → HostQ) : (s.onHq q f).keys = s.keys := rfl
@[simp] theorem State.onHq_meter (q : Nat) (f : HostQ → HostQ) : (s.onHq q f).meter = s.meter := rfl
@[simp] theorem State.onHq_mir (q : Nat) (f : HostQ → HostQ) : (s.onHq q f).mir = s.mir := rfl
@[simp] theorem State.onHq_out (q : Nat) (f : HostQ → HostQ) : (s.onHq q f).out = s.out := rfl

@[simp] theorem State.complete_pending (h : CmdHdr) (st : Byte) (a b c : U64) : (s.complete h st a b c).pending = s.pending := rfl
@[simp] theorem State.complete_time (h : CmdHdr) (st : Byte) (a b c : U64) : (s.complete h st a b c).time = s.time := rfl
@[simp] theorem State.complete_free (h : CmdHdr) (st : Byte) (a b c : U64) : (s.complete h st a b c).free = s.free := rfl
@[simp] theorem State.complete_host (h : CmdHdr) (st : Byte) (a b c : U64) : (s.complete h st a b c).host = s.host := rfl
@[simp] theorem State.complete_sram (h : CmdHdr) (st : Byte) (a b c : U64) : (s.complete h st a b c).sram = s.sram := rfl
@[simp] theorem State.complete_cores (h : CmdHdr) (st : Byte) (a b c : U64) : (s.complete h st a b c).cores = s.cores := rfl
@[simp] theorem State.complete_lregions (h : CmdHdr) (st : Byte) (a b c : U64) : (s.complete h st a b c).lregions = s.lregions := rfl
@[simp] theorem State.complete_regions (h : CmdHdr) (st : Byte) (a b c : U64) : (s.complete h st a b c).regions = s.regions := rfl
@[simp] theorem State.complete_set (h : CmdHdr) (st : Byte) (a b c : U64) : (s.complete h st a b c).set = s.set := rfl
@[simp] theorem State.complete_grd (h : CmdHdr) (st : Byte) (a b c : U64) : (s.complete h st a b c).grd = s.grd := rfl
@[simp] theorem State.complete_num (h : CmdHdr) (st : Byte) (a b c : U64) : (s.complete h st a b c).num = s.num := rfl
@[simp] theorem State.complete_run (h : CmdHdr) (st : Byte) (a b c : U64) : (s.complete h st a b c).run = s.run := rfl
@[simp] theorem State.complete_stg (h : CmdHdr) (st : Byte) (a b c : U64) : (s.complete h st a b c).stg = s.stg := rfl
@[simp] theorem State.complete_cfg (h : CmdHdr) (st : Byte) (a b c : U64) : (s.complete h st a b c).cfg = s.cfg := rfl
@[simp] theorem State.complete_bat (h : CmdHdr) (st : Byte) (a b c : U64) : (s.complete h st a b c).bat = s.bat := rfl
@[simp] theorem State.complete_net (h : CmdHdr) (st : Byte) (a b c : U64) : (s.complete h st a b c).net = s.net := rfl
@[simp] theorem State.complete_store (h : CmdHdr) (st : Byte) (a b c : U64) : (s.complete h st a b c).store = s.store := rfl
@[simp] theorem State.complete_orc (h : CmdHdr) (st : Byte) (a b c : U64) : (s.complete h st a b c).orc = s.orc := rfl
@[simp] theorem State.complete_prs (h : CmdHdr) (st : Byte) (a b c : U64) : (s.complete h st a b c).prs = s.prs := rfl
@[simp] theorem State.complete_dma (h : CmdHdr) (st : Byte) (a b c : U64) : (s.complete h st a b c).dma = s.dma := rfl
@[simp] theorem State.complete_eng (h : CmdHdr) (st : Byte) (a b c : U64) : (s.complete h st a b c).eng = s.eng := rfl
@[simp] theorem State.complete_flt (h : CmdHdr) (st : Byte) (a b c : U64) : (s.complete h st a b c).flt = s.flt := rfl
@[simp] theorem State.complete_log (h : CmdHdr) (st : Byte) (a b c : U64) : (s.complete h st a b c).log = s.log := rfl
@[simp] theorem State.complete_pwr (h : CmdHdr) (st : Byte) (a b c : U64) : (s.complete h st a b c).pwr = s.pwr := rfl
@[simp] theorem State.complete_keys (h : CmdHdr) (st : Byte) (a b c : U64) : (s.complete h st a b c).keys = s.keys := rfl
@[simp] theorem State.complete_meter (h : CmdHdr) (st : Byte) (a b c : U64) : (s.complete h st a b c).meter = s.meter := rfl
@[simp] theorem State.complete_mir (h : CmdHdr) (st : Byte) (a b c : U64) : (s.complete h st a b c).mir = s.mir := rfl
@[simp] theorem State.complete_out (h : CmdHdr) (st : Byte) (a b c : U64) : (s.complete h st a b c).out = s.out := rfl

@[simp] theorem State.done0_pending (h : CmdHdr) (st : Byte) : (s.done0 h st).pending = s.pending := rfl
@[simp] theorem State.done0_time (h : CmdHdr) (st : Byte) : (s.done0 h st).time = s.time := rfl
@[simp] theorem State.done0_free (h : CmdHdr) (st : Byte) : (s.done0 h st).free = s.free := rfl
@[simp] theorem State.done0_host (h : CmdHdr) (st : Byte) : (s.done0 h st).host = s.host := rfl
@[simp] theorem State.done0_sram (h : CmdHdr) (st : Byte) : (s.done0 h st).sram = s.sram := rfl
@[simp] theorem State.done0_cores (h : CmdHdr) (st : Byte) : (s.done0 h st).cores = s.cores := rfl
@[simp] theorem State.done0_lregions (h : CmdHdr) (st : Byte) : (s.done0 h st).lregions = s.lregions := rfl
@[simp] theorem State.done0_regions (h : CmdHdr) (st : Byte) : (s.done0 h st).regions = s.regions := rfl
@[simp] theorem State.done0_set (h : CmdHdr) (st : Byte) : (s.done0 h st).set = s.set := rfl
@[simp] theorem State.done0_grd (h : CmdHdr) (st : Byte) : (s.done0 h st).grd = s.grd := rfl
@[simp] theorem State.done0_num (h : CmdHdr) (st : Byte) : (s.done0 h st).num = s.num := rfl
@[simp] theorem State.done0_run (h : CmdHdr) (st : Byte) : (s.done0 h st).run = s.run := rfl
@[simp] theorem State.done0_stg (h : CmdHdr) (st : Byte) : (s.done0 h st).stg = s.stg := rfl
@[simp] theorem State.done0_cfg (h : CmdHdr) (st : Byte) : (s.done0 h st).cfg = s.cfg := rfl
@[simp] theorem State.done0_bat (h : CmdHdr) (st : Byte) : (s.done0 h st).bat = s.bat := rfl
@[simp] theorem State.done0_net (h : CmdHdr) (st : Byte) : (s.done0 h st).net = s.net := rfl
@[simp] theorem State.done0_store (h : CmdHdr) (st : Byte) : (s.done0 h st).store = s.store := rfl
@[simp] theorem State.done0_orc (h : CmdHdr) (st : Byte) : (s.done0 h st).orc = s.orc := rfl
@[simp] theorem State.done0_prs (h : CmdHdr) (st : Byte) : (s.done0 h st).prs = s.prs := rfl
@[simp] theorem State.done0_dma (h : CmdHdr) (st : Byte) : (s.done0 h st).dma = s.dma := rfl
@[simp] theorem State.done0_eng (h : CmdHdr) (st : Byte) : (s.done0 h st).eng = s.eng := rfl
@[simp] theorem State.done0_flt (h : CmdHdr) (st : Byte) : (s.done0 h st).flt = s.flt := rfl
@[simp] theorem State.done0_log (h : CmdHdr) (st : Byte) : (s.done0 h st).log = s.log := rfl
@[simp] theorem State.done0_pwr (h : CmdHdr) (st : Byte) : (s.done0 h st).pwr = s.pwr := rfl
@[simp] theorem State.done0_keys (h : CmdHdr) (st : Byte) : (s.done0 h st).keys = s.keys := rfl
@[simp] theorem State.done0_meter (h : CmdHdr) (st : Byte) : (s.done0 h st).meter = s.meter := rfl
@[simp] theorem State.done0_mir (h : CmdHdr) (st : Byte) : (s.done0 h st).mir = s.mir := rfl
@[simp] theorem State.done0_out (h : CmdHdr) (st : Byte) : (s.done0 h st).out = s.out := rfl

@[simp] theorem State.alert_pending (bit : Nat) : (s.alert bit).pending = s.pending := rfl
@[simp] theorem State.alert_time (bit : Nat) : (s.alert bit).time = s.time := rfl
@[simp] theorem State.alert_free (bit : Nat) : (s.alert bit).free = s.free := rfl
@[simp] theorem State.alert_host (bit : Nat) : (s.alert bit).host = s.host := rfl
@[simp] theorem State.alert_sram (bit : Nat) : (s.alert bit).sram = s.sram := rfl
@[simp] theorem State.alert_cores (bit : Nat) : (s.alert bit).cores = s.cores := rfl
@[simp] theorem State.alert_lregions (bit : Nat) : (s.alert bit).lregions = s.lregions := rfl
@[simp] theorem State.alert_regions (bit : Nat) : (s.alert bit).regions = s.regions := rfl
@[simp] theorem State.alert_set (bit : Nat) : (s.alert bit).set = s.set := rfl
@[simp] theorem State.alert_grd (bit : Nat) : (s.alert bit).grd = s.grd := rfl
@[simp] theorem State.alert_num (bit : Nat) : (s.alert bit).num = s.num := rfl
@[simp] theorem State.alert_run (bit : Nat) : (s.alert bit).run = s.run := rfl
@[simp] theorem State.alert_brg (bit : Nat) : (s.alert bit).brg = s.brg := rfl
@[simp] theorem State.alert_stg (bit : Nat) : (s.alert bit).stg = s.stg := rfl
@[simp] theorem State.alert_cfg (bit : Nat) : (s.alert bit).cfg = s.cfg := rfl
@[simp] theorem State.alert_bat (bit : Nat) : (s.alert bit).bat = s.bat := rfl
@[simp] theorem State.alert_net (bit : Nat) : (s.alert bit).net = s.net := rfl
@[simp] theorem State.alert_store (bit : Nat) : (s.alert bit).store = s.store := rfl
@[simp] theorem State.alert_orc (bit : Nat) : (s.alert bit).orc = s.orc := rfl
@[simp] theorem State.alert_prs (bit : Nat) : (s.alert bit).prs = s.prs := rfl
@[simp] theorem State.alert_dma (bit : Nat) : (s.alert bit).dma = s.dma := rfl
@[simp] theorem State.alert_eng (bit : Nat) : (s.alert bit).eng = s.eng := rfl
@[simp] theorem State.alert_flt (bit : Nat) : (s.alert bit).flt = s.flt := rfl
@[simp] theorem State.alert_log (bit : Nat) : (s.alert bit).log = s.log := rfl
@[simp] theorem State.alert_pwr (bit : Nat) : (s.alert bit).pwr = { s.pwr with alert := s.pwr.alert ||| (1#10 <<< bit) } := rfl
@[simp] theorem State.alert_keys (bit : Nat) : (s.alert bit).keys = s.keys := rfl
@[simp] theorem State.alert_meter (bit : Nat) : (s.alert bit).meter = s.meter := rfl
@[simp] theorem State.alert_mir (bit : Nat) : (s.alert bit).mir = s.mir := rfl
@[simp] theorem State.alert_out (bit : Nat) : (s.alert bit).out = s.out := rfl

@[simp] theorem State.logHealth_pending (h : HealthRec) : (s.logHealth h).pending = s.pending := rfl
@[simp] theorem State.logHealth_time (h : HealthRec) : (s.logHealth h).time = s.time := rfl
@[simp] theorem State.logHealth_free (h : HealthRec) : (s.logHealth h).free = s.free := rfl
@[simp] theorem State.logHealth_host (h : HealthRec) : (s.logHealth h).host = s.host := rfl
@[simp] theorem State.logHealth_sram (h : HealthRec) : (s.logHealth h).sram = s.sram := rfl
@[simp] theorem State.logHealth_cores (h : HealthRec) : (s.logHealth h).cores = s.cores := rfl
@[simp] theorem State.logHealth_lregions (h : HealthRec) : (s.logHealth h).lregions = s.lregions := rfl
@[simp] theorem State.logHealth_regions (h : HealthRec) : (s.logHealth h).regions = s.regions := rfl
@[simp] theorem State.logHealth_set (h : HealthRec) : (s.logHealth h).set = s.set := rfl
@[simp] theorem State.logHealth_grd (h : HealthRec) : (s.logHealth h).grd = s.grd := rfl
@[simp] theorem State.logHealth_num (h : HealthRec) : (s.logHealth h).num = s.num := rfl
@[simp] theorem State.logHealth_run (h : HealthRec) : (s.logHealth h).run = s.run := rfl
@[simp] theorem State.logHealth_brg (h : HealthRec) : (s.logHealth h).brg = s.brg := rfl
@[simp] theorem State.logHealth_stg (h : HealthRec) : (s.logHealth h).stg = s.stg := rfl
@[simp] theorem State.logHealth_cfg (h : HealthRec) : (s.logHealth h).cfg = s.cfg := rfl
@[simp] theorem State.logHealth_bat (h : HealthRec) : (s.logHealth h).bat = s.bat := rfl
@[simp] theorem State.logHealth_net (h : HealthRec) : (s.logHealth h).net = s.net := rfl
@[simp] theorem State.logHealth_store (h : HealthRec) : (s.logHealth h).store = s.store := rfl
@[simp] theorem State.logHealth_orc (h : HealthRec) : (s.logHealth h).orc = s.orc := rfl
@[simp] theorem State.logHealth_prs (h : HealthRec) : (s.logHealth h).prs = s.prs := rfl
@[simp] theorem State.logHealth_dma (h : HealthRec) : (s.logHealth h).dma = s.dma := rfl
@[simp] theorem State.logHealth_eng (h : HealthRec) : (s.logHealth h).eng = s.eng := rfl
@[simp] theorem State.logHealth_flt (h : HealthRec) : (s.logHealth h).flt = s.flt := rfl
@[simp] theorem State.logHealth_pwr (h : HealthRec) : (s.logHealth h).pwr = s.pwr := rfl
@[simp] theorem State.logHealth_keys (h : HealthRec) : (s.logHealth h).keys = s.keys := rfl
@[simp] theorem State.logHealth_meter (h : HealthRec) : (s.logHealth h).meter = s.meter := rfl
@[simp] theorem State.logHealth_mir (h : HealthRec) : (s.logHealth h).mir = s.mir := rfl
@[simp] theorem State.logHealth_out (h : HealthRec) : (s.logHealth h).out = s.out := rfl

@[simp] theorem State.emitOut_pending (o : Out) : (s.emitOut o).pending = s.pending := rfl
@[simp] theorem State.emitOut_time (o : Out) : (s.emitOut o).time = s.time := rfl
@[simp] theorem State.emitOut_free (o : Out) : (s.emitOut o).free = s.free := rfl
@[simp] theorem State.emitOut_host (o : Out) : (s.emitOut o).host = s.host := rfl
@[simp] theorem State.emitOut_sram (o : Out) : (s.emitOut o).sram = s.sram := rfl
@[simp] theorem State.emitOut_cores (o : Out) : (s.emitOut o).cores = s.cores := rfl
@[simp] theorem State.emitOut_lregions (o : Out) : (s.emitOut o).lregions = s.lregions := rfl
@[simp] theorem State.emitOut_regions (o : Out) : (s.emitOut o).regions = s.regions := rfl
@[simp] theorem State.emitOut_set (o : Out) : (s.emitOut o).set = s.set := rfl
@[simp] theorem State.emitOut_grd (o : Out) : (s.emitOut o).grd = s.grd := rfl
@[simp] theorem State.emitOut_num (o : Out) : (s.emitOut o).num = s.num := rfl
@[simp] theorem State.emitOut_run (o : Out) : (s.emitOut o).run = s.run := rfl
@[simp] theorem State.emitOut_brg (o : Out) : (s.emitOut o).brg = s.brg := rfl
@[simp] theorem State.emitOut_stg (o : Out) : (s.emitOut o).stg = s.stg := rfl
@[simp] theorem State.emitOut_cfg (o : Out) : (s.emitOut o).cfg = s.cfg := rfl
@[simp] theorem State.emitOut_bat (o : Out) : (s.emitOut o).bat = s.bat := rfl
@[simp] theorem State.emitOut_net (o : Out) : (s.emitOut o).net = s.net := rfl
@[simp] theorem State.emitOut_store (o : Out) : (s.emitOut o).store = s.store := rfl
@[simp] theorem State.emitOut_orc (o : Out) : (s.emitOut o).orc = s.orc := rfl
@[simp] theorem State.emitOut_prs (o : Out) : (s.emitOut o).prs = s.prs := rfl
@[simp] theorem State.emitOut_dma (o : Out) : (s.emitOut o).dma = s.dma := rfl
@[simp] theorem State.emitOut_eng (o : Out) : (s.emitOut o).eng = s.eng := rfl
@[simp] theorem State.emitOut_flt (o : Out) : (s.emitOut o).flt = s.flt := rfl
@[simp] theorem State.emitOut_log (o : Out) : (s.emitOut o).log = s.log := rfl
@[simp] theorem State.emitOut_pwr (o : Out) : (s.emitOut o).pwr = s.pwr := rfl
@[simp] theorem State.emitOut_keys (o : Out) : (s.emitOut o).keys = s.keys := rfl
@[simp] theorem State.emitOut_meter (o : Out) : (s.emitOut o).meter = s.meter := rfl
@[simp] theorem State.emitOut_mir (o : Out) : (s.emitOut o).mir = s.mir := rfl
@[simp] theorem State.emitOut_out (o : Out) : (s.emitOut o).out = s.out ++ [o] := rfl

@[simp] theorem State.writeHost_pending (a : Nat) (b : List Byte) : (s.writeHost a b).pending = s.pending := rfl
@[simp] theorem State.writeHost_time (a : Nat) (b : List Byte) : (s.writeHost a b).time = s.time := rfl
@[simp] theorem State.writeHost_free (a : Nat) (b : List Byte) : (s.writeHost a b).free = s.free := rfl
@[simp] theorem State.writeHost_host (a : Nat) (b : List Byte) : (s.writeHost a b).host = writeMem s.host a b := rfl
@[simp] theorem State.writeHost_sram (a : Nat) (b : List Byte) : (s.writeHost a b).sram = s.sram := rfl
@[simp] theorem State.writeHost_cores (a : Nat) (b : List Byte) : (s.writeHost a b).cores = s.cores := rfl
@[simp] theorem State.writeHost_lregions (a : Nat) (b : List Byte) : (s.writeHost a b).lregions = s.lregions := rfl
@[simp] theorem State.writeHost_regions (a : Nat) (b : List Byte) : (s.writeHost a b).regions = s.regions := rfl
@[simp] theorem State.writeHost_set (a : Nat) (b : List Byte) : (s.writeHost a b).set = s.set := rfl
@[simp] theorem State.writeHost_grd (a : Nat) (b : List Byte) : (s.writeHost a b).grd = s.grd := rfl
@[simp] theorem State.writeHost_num (a : Nat) (b : List Byte) : (s.writeHost a b).num = s.num := rfl
@[simp] theorem State.writeHost_run (a : Nat) (b : List Byte) : (s.writeHost a b).run = s.run := rfl
@[simp] theorem State.writeHost_brg (a : Nat) (b : List Byte) : (s.writeHost a b).brg = s.brg := rfl
@[simp] theorem State.writeHost_stg (a : Nat) (b : List Byte) : (s.writeHost a b).stg = s.stg := rfl
@[simp] theorem State.writeHost_cfg (a : Nat) (b : List Byte) : (s.writeHost a b).cfg = s.cfg := rfl
@[simp] theorem State.writeHost_bat (a : Nat) (b : List Byte) : (s.writeHost a b).bat = s.bat := rfl
@[simp] theorem State.writeHost_net (a : Nat) (b : List Byte) : (s.writeHost a b).net = s.net := rfl
@[simp] theorem State.writeHost_store (a : Nat) (b : List Byte) : (s.writeHost a b).store = s.store := rfl
@[simp] theorem State.writeHost_orc (a : Nat) (b : List Byte) : (s.writeHost a b).orc = s.orc := rfl
@[simp] theorem State.writeHost_prs (a : Nat) (b : List Byte) : (s.writeHost a b).prs = s.prs := rfl
@[simp] theorem State.writeHost_dma (a : Nat) (b : List Byte) : (s.writeHost a b).dma = s.dma := rfl
@[simp] theorem State.writeHost_eng (a : Nat) (b : List Byte) : (s.writeHost a b).eng = s.eng := rfl
@[simp] theorem State.writeHost_flt (a : Nat) (b : List Byte) : (s.writeHost a b).flt = s.flt := rfl
@[simp] theorem State.writeHost_log (a : Nat) (b : List Byte) : (s.writeHost a b).log = s.log := rfl
@[simp] theorem State.writeHost_pwr (a : Nat) (b : List Byte) : (s.writeHost a b).pwr = s.pwr := rfl
@[simp] theorem State.writeHost_keys (a : Nat) (b : List Byte) : (s.writeHost a b).keys = s.keys := rfl
@[simp] theorem State.writeHost_meter (a : Nat) (b : List Byte) : (s.writeHost a b).meter = s.meter := rfl
@[simp] theorem State.writeHost_mir (a : Nat) (b : List Byte) : (s.writeHost a b).mir = s.mir := rfl
@[simp] theorem State.writeHost_out (a : Nat) (b : List Byte) : (s.writeHost a b).out = s.out := rfl

@[simp] theorem State.writeSram_pending (r c off : Nat) (b : List Byte) : (s.writeSram r c off b).pending = s.pending := rfl
@[simp] theorem State.writeSram_time (r c off : Nat) (b : List Byte) : (s.writeSram r c off b).time = s.time := rfl
@[simp] theorem State.writeSram_free (r c off : Nat) (b : List Byte) : (s.writeSram r c off b).free = s.free := rfl
@[simp] theorem State.writeSram_host (r c off : Nat) (b : List Byte) : (s.writeSram r c off b).host = s.host := rfl
@[simp] theorem State.writeSram_sram (r c off : Nat) (b : List Byte) : (s.writeSram r c off b).sram = writeMem s.sram (s.sramBase r c + off) b := rfl
@[simp] theorem State.writeSram_cores (r c off : Nat) (b : List Byte) : (s.writeSram r c off b).cores = s.cores := rfl
@[simp] theorem State.writeSram_lregions (r c off : Nat) (b : List Byte) : (s.writeSram r c off b).lregions = s.lregions := rfl
@[simp] theorem State.writeSram_regions (r c off : Nat) (b : List Byte) : (s.writeSram r c off b).regions = s.regions := rfl
@[simp] theorem State.writeSram_set (r c off : Nat) (b : List Byte) : (s.writeSram r c off b).set = s.set := rfl
@[simp] theorem State.writeSram_grd (r c off : Nat) (b : List Byte) : (s.writeSram r c off b).grd = s.grd := rfl
@[simp] theorem State.writeSram_num (r c off : Nat) (b : List Byte) : (s.writeSram r c off b).num = s.num := rfl
@[simp] theorem State.writeSram_run (r c off : Nat) (b : List Byte) : (s.writeSram r c off b).run = s.run := rfl
@[simp] theorem State.writeSram_brg (r c off : Nat) (b : List Byte) : (s.writeSram r c off b).brg = s.brg := rfl
@[simp] theorem State.writeSram_stg (r c off : Nat) (b : List Byte) : (s.writeSram r c off b).stg = s.stg := rfl
@[simp] theorem State.writeSram_cfg (r c off : Nat) (b : List Byte) : (s.writeSram r c off b).cfg = s.cfg := rfl
@[simp] theorem State.writeSram_bat (r c off : Nat) (b : List Byte) : (s.writeSram r c off b).bat = s.bat := rfl
@[simp] theorem State.writeSram_net (r c off : Nat) (b : List Byte) : (s.writeSram r c off b).net = s.net := rfl
@[simp] theorem State.writeSram_store (r c off : Nat) (b : List Byte) : (s.writeSram r c off b).store = s.store := rfl
@[simp] theorem State.writeSram_orc (r c off : Nat) (b : List Byte) : (s.writeSram r c off b).orc = s.orc := rfl
@[simp] theorem State.writeSram_prs (r c off : Nat) (b : List Byte) : (s.writeSram r c off b).prs = s.prs := rfl
@[simp] theorem State.writeSram_dma (r c off : Nat) (b : List Byte) : (s.writeSram r c off b).dma = s.dma := rfl
@[simp] theorem State.writeSram_eng (r c off : Nat) (b : List Byte) : (s.writeSram r c off b).eng = s.eng := rfl
@[simp] theorem State.writeSram_flt (r c off : Nat) (b : List Byte) : (s.writeSram r c off b).flt = s.flt := rfl
@[simp] theorem State.writeSram_log (r c off : Nat) (b : List Byte) : (s.writeSram r c off b).log = s.log := rfl
@[simp] theorem State.writeSram_pwr (r c off : Nat) (b : List Byte) : (s.writeSram r c off b).pwr = s.pwr := rfl
@[simp] theorem State.writeSram_keys (r c off : Nat) (b : List Byte) : (s.writeSram r c off b).keys = s.keys := rfl
@[simp] theorem State.writeSram_meter (r c off : Nat) (b : List Byte) : (s.writeSram r c off b).meter = s.meter := rfl
@[simp] theorem State.writeSram_mir (r c off : Nat) (b : List Byte) : (s.writeSram r c off b).mir = s.mir := rfl
@[simp] theorem State.writeSram_out (r c off : Nat) (b : List Byte) : (s.writeSram r c off b).out = s.out := rfl

/-! Reading back what an update has written. -/

@[simp] theorem State.hq_onHq_self (q : Nat) (f : HostQ → HostQ) : (s.onHq q f).hq q = f (s.hq q) := Tab.get_upd_self ({} : HostQ) s.brg.hq q f
theorem State.hq_onHq_ne {q j : Nat} (f : HostQ → HostQ) (h : j ≠ q) : (s.onHq q f).hq j = s.hq j := Tab.get_upd_ne ({} : HostQ) s.brg.hq f h
@[simp] theorem State.core_onCore_self (r c : Nat) (f : CoreSt → CoreSt) : (s.onCore r c f).core r c = f (s.core r c) := Tab.get_upd_self ({} : CoreSt) s.cores _ f
@[simp] theorem State.lreg_onLreg_self (r : Nat) (f : LRegionSt → LRegionSt) : (s.onLreg r f).lreg r = f (s.lreg r) := Tab.get_upd_self ({} : LRegionSt) s.lregions r f
theorem State.lreg_onLreg_ne {r j : Nat} (f : LRegionSt → LRegionSt) (h : j ≠ r) : (s.onLreg r f).lreg j = s.lreg j := Tab.get_upd_ne ({} : LRegionSt) s.lregions f h
@[simp] theorem State.reg_onReg_self (p : Nat) (f : RegionSt → RegionSt) : (s.onReg p f).reg p = f (s.reg p) := Tab.get_upd_self ({} : RegionSt) s.regions p f
theorem State.reg_onReg_ne {p j : Nat} (f : RegionSt → RegionSt) (h : j ≠ p) : (s.onReg p f).reg j = s.reg j := Tab.get_upd_ne ({} : RegionSt) s.regions f h
@[simp] theorem State.engine_onEng_self (e : Nat) (f : EngineSt → EngineSt) : (s.onEng e f).engine e = f (s.engine e) := Tab.get_upd_self ({} : EngineSt) s.eng e f
theorem State.engine_onEng_ne {e j : Nat} (f : EngineSt → EngineSt) (h : j ≠ e) : (s.onEng e f).engine j = s.engine j := Tab.get_upd_ne ({} : EngineSt) s.eng f h
@[simp] theorem State.chan_onChan_self (k : Nat) (f : DmaSt → DmaSt) : (s.onChan k f).chan k = f (s.chan k) := Tab.get_upd_self ({} : DmaSt) s.dma k f
theorem State.chan_onChan_ne {k j : Nat} (f : DmaSt → DmaSt) (h : j ≠ k) : (s.onChan k f).chan j = s.chan j := Tab.get_upd_ne ({} : DmaSt) s.dma f h

/-! Entries of the tables through every update of another part, and where the part is the same. -/

@[simp] theorem State.core_onRun (f : RunSt → RunSt) (i j : Nat) : (s.onRun f).core i j = s.core i j := rfl
@[simp] theorem State.lreg_onRun (f : RunSt → RunSt) (i : Nat) : (s.onRun f).lreg i = s.lreg i := rfl
@[simp] theorem State.reg_onRun (f : RunSt → RunSt) (i : Nat) : (s.onRun f).reg i = s.reg i := rfl
@[simp] theorem State.engine_onRun (f : RunSt → RunSt) (i : Nat) : (s.onRun f).engine i = s.engine i := rfl
@[simp] theorem State.chan_onRun (f : RunSt → RunSt) (i : Nat) : (s.onRun f).chan i = s.chan i := rfl
@[simp] theorem State.hq_onRun (f : RunSt → RunSt) (i : Nat) : (s.onRun f).hq i = s.hq i := rfl
@[simp] theorem State.core_onNum (f : NumSt → NumSt) (i j : Nat) : (s.onNum f).core i j = s.core i j := rfl
@[simp] theorem State.lreg_onNum (f : NumSt → NumSt) (i : Nat) : (s.onNum f).lreg i = s.lreg i := rfl
@[simp] theorem State.reg_onNum (f : NumSt → NumSt) (i : Nat) : (s.onNum f).reg i = s.reg i := rfl
@[simp] theorem State.engine_onNum (f : NumSt → NumSt) (i : Nat) : (s.onNum f).engine i = s.engine i := rfl
@[simp] theorem State.chan_onNum (f : NumSt → NumSt) (i : Nat) : (s.onNum f).chan i = s.chan i := rfl
@[simp] theorem State.hq_onNum (f : NumSt → NumSt) (i : Nat) : (s.onNum f).hq i = s.hq i := rfl
@[simp] theorem State.core_onSet (f : Settings → Settings) (i j : Nat) : (s.onSet f).core i j = s.core i j := rfl
@[simp] theorem State.lreg_onSet (f : Settings → Settings) (i : Nat) : (s.onSet f).lreg i = s.lreg i := rfl
@[simp] theorem State.reg_onSet (f : Settings → Settings) (i : Nat) : (s.onSet f).reg i = s.reg i := rfl
@[simp] theorem State.engine_onSet (f : Settings → Settings) (i : Nat) : (s.onSet f).engine i = s.engine i := rfl
@[simp] theorem State.chan_onSet (f : Settings → Settings) (i : Nat) : (s.onSet f).chan i = s.chan i := rfl
@[simp] theorem State.hq_onSet (f : Settings → Settings) (i : Nat) : (s.onSet f).hq i = s.hq i := rfl
@[simp] theorem State.core_onBrg (f : BridgeSt → BridgeSt) (i j : Nat) : (s.onBrg f).core i j = s.core i j := rfl
@[simp] theorem State.lreg_onBrg (f : BridgeSt → BridgeSt) (i : Nat) : (s.onBrg f).lreg i = s.lreg i := rfl
@[simp] theorem State.reg_onBrg (f : BridgeSt → BridgeSt) (i : Nat) : (s.onBrg f).reg i = s.reg i := rfl
@[simp] theorem State.engine_onBrg (f : BridgeSt → BridgeSt) (i : Nat) : (s.onBrg f).engine i = s.engine i := rfl
@[simp] theorem State.chan_onBrg (f : BridgeSt → BridgeSt) (i : Nat) : (s.onBrg f).chan i = s.chan i := rfl
@[simp] theorem State.core_onStg (f : StagingSt → StagingSt) (i j : Nat) : (s.onStg f).core i j = s.core i j := rfl
@[simp] theorem State.lreg_onStg (f : StagingSt → StagingSt) (i : Nat) : (s.onStg f).lreg i = s.lreg i := rfl
@[simp] theorem State.reg_onStg (f : StagingSt → StagingSt) (i : Nat) : (s.onStg f).reg i = s.reg i := rfl
@[simp] theorem State.engine_onStg (f : StagingSt → StagingSt) (i : Nat) : (s.onStg f).engine i = s.engine i := rfl
@[simp] theorem State.chan_onStg (f : StagingSt → StagingSt) (i : Nat) : (s.onStg f).chan i = s.chan i := rfl
@[simp] theorem State.hq_onStg (f : StagingSt → StagingSt) (i : Nat) : (s.onStg f).hq i = s.hq i := rfl
@[simp] theorem State.core_onCfg (f : ConfigSt → ConfigSt) (i j : Nat) : (s.onCfg f).core i j = s.core i j := rfl
@[simp] theorem State.lreg_onCfg (f : ConfigSt → ConfigSt) (i : Nat) : (s.onCfg f).lreg i = s.lreg i := rfl
@[simp] theorem State.reg_onCfg (f : ConfigSt → ConfigSt) (i : Nat) : (s.onCfg f).reg i = s.reg i := rfl
@[simp] theorem State.engine_onCfg (f : ConfigSt → ConfigSt) (i : Nat) : (s.onCfg f).engine i = s.engine i := rfl
@[simp] theorem State.chan_onCfg (f : ConfigSt → ConfigSt) (i : Nat) : (s.onCfg f).chan i = s.chan i := rfl
@[simp] theorem State.hq_onCfg (f : ConfigSt → ConfigSt) (i : Nat) : (s.onCfg f).hq i = s.hq i := rfl
@[simp] theorem State.core_onBat (f : BattenSt → BattenSt) (i j : Nat) : (s.onBat f).core i j = s.core i j := rfl
@[simp] theorem State.lreg_onBat (f : BattenSt → BattenSt) (i : Nat) : (s.onBat f).lreg i = s.lreg i := rfl
@[simp] theorem State.reg_onBat (f : BattenSt → BattenSt) (i : Nat) : (s.onBat f).reg i = s.reg i := rfl
@[simp] theorem State.engine_onBat (f : BattenSt → BattenSt) (i : Nat) : (s.onBat f).engine i = s.engine i := rfl
@[simp] theorem State.chan_onBat (f : BattenSt → BattenSt) (i : Nat) : (s.onBat f).chan i = s.chan i := rfl
@[simp] theorem State.hq_onBat (f : BattenSt → BattenSt) (i : Nat) : (s.onBat f).hq i = s.hq i := rfl
@[simp] theorem State.core_onNet (f : NetSt → NetSt) (i j : Nat) : (s.onNet f).core i j = s.core i j := rfl
@[simp] theorem State.lreg_onNet (f : NetSt → NetSt) (i : Nat) : (s.onNet f).lreg i = s.lreg i := rfl
@[simp] theorem State.reg_onNet (f : NetSt → NetSt) (i : Nat) : (s.onNet f).reg i = s.reg i := rfl
@[simp] theorem State.engine_onNet (f : NetSt → NetSt) (i : Nat) : (s.onNet f).engine i = s.engine i := rfl
@[simp] theorem State.chan_onNet (f : NetSt → NetSt) (i : Nat) : (s.onNet f).chan i = s.chan i := rfl
@[simp] theorem State.hq_onNet (f : NetSt → NetSt) (i : Nat) : (s.onNet f).hq i = s.hq i := rfl
@[simp] theorem State.core_onStore (f : StoreSt → StoreSt) (i j : Nat) : (s.onStore f).core i j = s.core i j := rfl
@[simp] theorem State.lreg_onStore (f : StoreSt → StoreSt) (i : Nat) : (s.onStore f).lreg i = s.lreg i := rfl
@[simp] theorem State.reg_onStore (f : StoreSt → StoreSt) (i : Nat) : (s.onStore f).reg i = s.reg i := rfl
@[simp] theorem State.engine_onStore (f : StoreSt → StoreSt) (i : Nat) : (s.onStore f).engine i = s.engine i := rfl
@[simp] theorem State.chan_onStore (f : StoreSt → StoreSt) (i : Nat) : (s.onStore f).chan i = s.chan i := rfl
@[simp] theorem State.hq_onStore (f : StoreSt → StoreSt) (i : Nat) : (s.onStore f).hq i = s.hq i := rfl
@[simp] theorem State.core_onOrc (f : OrchardSt → OrchardSt) (i j : Nat) : (s.onOrc f).core i j = s.core i j := rfl
@[simp] theorem State.lreg_onOrc (f : OrchardSt → OrchardSt) (i : Nat) : (s.onOrc f).lreg i = s.lreg i := rfl
@[simp] theorem State.reg_onOrc (f : OrchardSt → OrchardSt) (i : Nat) : (s.onOrc f).reg i = s.reg i := rfl
@[simp] theorem State.engine_onOrc (f : OrchardSt → OrchardSt) (i : Nat) : (s.onOrc f).engine i = s.engine i := rfl
@[simp] theorem State.chan_onOrc (f : OrchardSt → OrchardSt) (i : Nat) : (s.onOrc f).chan i = s.chan i := rfl
@[simp] theorem State.hq_onOrc (f : OrchardSt → OrchardSt) (i : Nat) : (s.onOrc f).hq i = s.hq i := rfl
@[simp] theorem State.core_onPrs (f : PressSt → PressSt) (i j : Nat) : (s.onPrs f).core i j = s.core i j := rfl
@[simp] theorem State.lreg_onPrs (f : PressSt → PressSt) (i : Nat) : (s.onPrs f).lreg i = s.lreg i := rfl
@[simp] theorem State.reg_onPrs (f : PressSt → PressSt) (i : Nat) : (s.onPrs f).reg i = s.reg i := rfl
@[simp] theorem State.engine_onPrs (f : PressSt → PressSt) (i : Nat) : (s.onPrs f).engine i = s.engine i := rfl
@[simp] theorem State.chan_onPrs (f : PressSt → PressSt) (i : Nat) : (s.onPrs f).chan i = s.chan i := rfl
@[simp] theorem State.hq_onPrs (f : PressSt → PressSt) (i : Nat) : (s.onPrs f).hq i = s.hq i := rfl
@[simp] theorem State.core_onFlt (f : FaultSt → FaultSt) (i j : Nat) : (s.onFlt f).core i j = s.core i j := rfl
@[simp] theorem State.lreg_onFlt (f : FaultSt → FaultSt) (i : Nat) : (s.onFlt f).lreg i = s.lreg i := rfl
@[simp] theorem State.reg_onFlt (f : FaultSt → FaultSt) (i : Nat) : (s.onFlt f).reg i = s.reg i := rfl
@[simp] theorem State.engine_onFlt (f : FaultSt → FaultSt) (i : Nat) : (s.onFlt f).engine i = s.engine i := rfl
@[simp] theorem State.chan_onFlt (f : FaultSt → FaultSt) (i : Nat) : (s.onFlt f).chan i = s.chan i := rfl
@[simp] theorem State.hq_onFlt (f : FaultSt → FaultSt) (i : Nat) : (s.onFlt f).hq i = s.hq i := rfl
@[simp] theorem State.core_onPwr (f : PowerSt → PowerSt) (i j : Nat) : (s.onPwr f).core i j = s.core i j := rfl
@[simp] theorem State.lreg_onPwr (f : PowerSt → PowerSt) (i : Nat) : (s.onPwr f).lreg i = s.lreg i := rfl
@[simp] theorem State.reg_onPwr (f : PowerSt → PowerSt) (i : Nat) : (s.onPwr f).reg i = s.reg i := rfl
@[simp] theorem State.engine_onPwr (f : PowerSt → PowerSt) (i : Nat) : (s.onPwr f).engine i = s.engine i := rfl
@[simp] theorem State.chan_onPwr (f : PowerSt → PowerSt) (i : Nat) : (s.onPwr f).chan i = s.chan i := rfl
@[simp] theorem State.hq_onPwr (f : PowerSt → PowerSt) (i : Nat) : (s.onPwr f).hq i = s.hq i := rfl
@[simp] theorem State.core_onKeys (f : KeySt → KeySt) (i j : Nat) : (s.onKeys f).core i j = s.core i j := rfl
@[simp] theorem State.lreg_onKeys (f : KeySt → KeySt) (i : Nat) : (s.onKeys f).lreg i = s.lreg i := rfl
@[simp] theorem State.reg_onKeys (f : KeySt → KeySt) (i : Nat) : (s.onKeys f).reg i = s.reg i := rfl
@[simp] theorem State.engine_onKeys (f : KeySt → KeySt) (i : Nat) : (s.onKeys f).engine i = s.engine i := rfl
@[simp] theorem State.chan_onKeys (f : KeySt → KeySt) (i : Nat) : (s.onKeys f).chan i = s.chan i := rfl
@[simp] theorem State.hq_onKeys (f : KeySt → KeySt) (i : Nat) : (s.onKeys f).hq i = s.hq i := rfl
@[simp] theorem State.core_onMeter (f : MeterSt → MeterSt) (i j : Nat) : (s.onMeter f).core i j = s.core i j := rfl
@[simp] theorem State.lreg_onMeter (f : MeterSt → MeterSt) (i : Nat) : (s.onMeter f).lreg i = s.lreg i := rfl
@[simp] theorem State.reg_onMeter (f : MeterSt → MeterSt) (i : Nat) : (s.onMeter f).reg i = s.reg i := rfl
@[simp] theorem State.engine_onMeter (f : MeterSt → MeterSt) (i : Nat) : (s.onMeter f).engine i = s.engine i := rfl
@[simp] theorem State.chan_onMeter (f : MeterSt → MeterSt) (i : Nat) : (s.onMeter f).chan i = s.chan i := rfl
@[simp] theorem State.hq_onMeter (f : MeterSt → MeterSt) (i : Nat) : (s.onMeter f).hq i = s.hq i := rfl
@[simp] theorem State.core_onMir (f : MirrorSt → MirrorSt) (i j : Nat) : (s.onMir f).core i j = s.core i j := rfl
@[simp] theorem State.lreg_onMir (f : MirrorSt → MirrorSt) (i : Nat) : (s.onMir f).lreg i = s.lreg i := rfl
@[simp] theorem State.reg_onMir (f : MirrorSt → MirrorSt) (i : Nat) : (s.onMir f).reg i = s.reg i := rfl
@[simp] theorem State.engine_onMir (f : MirrorSt → MirrorSt) (i : Nat) : (s.onMir f).engine i = s.engine i := rfl
@[simp] theorem State.chan_onMir (f : MirrorSt → MirrorSt) (i : Nat) : (s.onMir f).chan i = s.chan i := rfl
@[simp] theorem State.hq_onMir (f : MirrorSt → MirrorSt) (i : Nat) : (s.onMir f).hq i = s.hq i := rfl
@[simp] theorem State.core_onGrd (f : GuardSt → GuardSt) (i j : Nat) : (s.onGrd f).core i j = s.core i j := rfl
@[simp] theorem State.lreg_onGrd (f : GuardSt → GuardSt) (i : Nat) : (s.onGrd f).lreg i = s.lreg i := rfl
@[simp] theorem State.reg_onGrd (f : GuardSt → GuardSt) (i : Nat) : (s.onGrd f).reg i = s.reg i := rfl
@[simp] theorem State.engine_onGrd (f : GuardSt → GuardSt) (i : Nat) : (s.onGrd f).engine i = s.engine i := rfl
@[simp] theorem State.chan_onGrd (f : GuardSt → GuardSt) (i : Nat) : (s.onGrd f).chan i = s.chan i := rfl
@[simp] theorem State.hq_onGrd (f : GuardSt → GuardSt) (i : Nat) : (s.onGrd f).hq i = s.hq i := rfl
@[simp] theorem State.lreg_onCore (r c : Nat) (f : CoreSt → CoreSt) (i : Nat) : (s.onCore r c f).lreg i = s.lreg i := rfl
@[simp] theorem State.reg_onCore (r c : Nat) (f : CoreSt → CoreSt) (i : Nat) : (s.onCore r c f).reg i = s.reg i := rfl
@[simp] theorem State.engine_onCore (r c : Nat) (f : CoreSt → CoreSt) (i : Nat) : (s.onCore r c f).engine i = s.engine i := rfl
@[simp] theorem State.chan_onCore (r c : Nat) (f : CoreSt → CoreSt) (i : Nat) : (s.onCore r c f).chan i = s.chan i := rfl
@[simp] theorem State.hq_onCore (r c : Nat) (f : CoreSt → CoreSt) (i : Nat) : (s.onCore r c f).hq i = s.hq i := rfl
@[simp] theorem State.core_onLreg (r : Nat) (f : LRegionSt → LRegionSt) (i j : Nat) : (s.onLreg r f).core i j = s.core i j := rfl
@[simp] theorem State.reg_onLreg (r : Nat) (f : LRegionSt → LRegionSt) (i : Nat) : (s.onLreg r f).reg i = s.reg i := rfl
@[simp] theorem State.engine_onLreg (r : Nat) (f : LRegionSt → LRegionSt) (i : Nat) : (s.onLreg r f).engine i = s.engine i := rfl
@[simp] theorem State.chan_onLreg (r : Nat) (f : LRegionSt → LRegionSt) (i : Nat) : (s.onLreg r f).chan i = s.chan i := rfl
@[simp] theorem State.hq_onLreg (r : Nat) (f : LRegionSt → LRegionSt) (i : Nat) : (s.onLreg r f).hq i = s.hq i := rfl
@[simp] theorem State.core_onReg (p : Nat) (f : RegionSt → RegionSt) (i j : Nat) : (s.onReg p f).core i j = s.core i j := rfl
@[simp] theorem State.lreg_onReg (p : Nat) (f : RegionSt → RegionSt) (i : Nat) : (s.onReg p f).lreg i = s.lreg i := rfl
@[simp] theorem State.engine_onReg (p : Nat) (f : RegionSt → RegionSt) (i : Nat) : (s.onReg p f).engine i = s.engine i := rfl
@[simp] theorem State.chan_onReg (p : Nat) (f : RegionSt → RegionSt) (i : Nat) : (s.onReg p f).chan i = s.chan i := rfl
@[simp] theorem State.hq_onReg (p : Nat) (f : RegionSt → RegionSt) (i : Nat) : (s.onReg p f).hq i = s.hq i := rfl
@[simp] theorem State.core_onEng (e : Nat) (f : EngineSt → EngineSt) (i j : Nat) : (s.onEng e f).core i j = s.core i j := rfl
@[simp] theorem State.lreg_onEng (e : Nat) (f : EngineSt → EngineSt) (i : Nat) : (s.onEng e f).lreg i = s.lreg i := rfl
@[simp] theorem State.reg_onEng (e : Nat) (f : EngineSt → EngineSt) (i : Nat) : (s.onEng e f).reg i = s.reg i := rfl
@[simp] theorem State.chan_onEng (e : Nat) (f : EngineSt → EngineSt) (i : Nat) : (s.onEng e f).chan i = s.chan i := rfl
@[simp] theorem State.hq_onEng (e : Nat) (f : EngineSt → EngineSt) (i : Nat) : (s.onEng e f).hq i = s.hq i := rfl
@[simp] theorem State.core_onChan (k : Nat) (f : DmaSt → DmaSt) (i j : Nat) : (s.onChan k f).core i j = s.core i j := rfl
@[simp] theorem State.lreg_onChan (k : Nat) (f : DmaSt → DmaSt) (i : Nat) : (s.onChan k f).lreg i = s.lreg i := rfl
@[simp] theorem State.reg_onChan (k : Nat) (f : DmaSt → DmaSt) (i : Nat) : (s.onChan k f).reg i = s.reg i := rfl
@[simp] theorem State.engine_onChan (k : Nat) (f : DmaSt → DmaSt) (i : Nat) : (s.onChan k f).engine i = s.engine i := rfl
@[simp] theorem State.hq_onChan (k : Nat) (f : DmaSt → DmaSt) (i : Nat) : (s.onChan k f).hq i = s.hq i := rfl
@[simp] theorem State.core_onHq (q : Nat) (f : HostQ → HostQ) (i j : Nat) : (s.onHq q f).core i j = s.core i j := rfl
@[simp] theorem State.lreg_onHq (q : Nat) (f : HostQ → HostQ) (i : Nat) : (s.onHq q f).lreg i = s.lreg i := rfl
@[simp] theorem State.reg_onHq (q : Nat) (f : HostQ → HostQ) (i : Nat) : (s.onHq q f).reg i = s.reg i := rfl
@[simp] theorem State.engine_onHq (q : Nat) (f : HostQ → HostQ) (i : Nat) : (s.onHq q f).engine i = s.engine i := rfl
@[simp] theorem State.chan_onHq (q : Nat) (f : HostQ → HostQ) (i : Nat) : (s.onHq q f).chan i = s.chan i := rfl
@[simp] theorem State.core_complete (h : CmdHdr) (st : Byte) (a b c : U64) (i j : Nat) : (s.complete h st a b c).core i j = s.core i j := rfl
@[simp] theorem State.lreg_complete (h : CmdHdr) (st : Byte) (a b c : U64) (i : Nat) : (s.complete h st a b c).lreg i = s.lreg i := rfl
@[simp] theorem State.reg_complete (h : CmdHdr) (st : Byte) (a b c : U64) (i : Nat) : (s.complete h st a b c).reg i = s.reg i := rfl
@[simp] theorem State.engine_complete (h : CmdHdr) (st : Byte) (a b c : U64) (i : Nat) : (s.complete h st a b c).engine i = s.engine i := rfl
@[simp] theorem State.chan_complete (h : CmdHdr) (st : Byte) (a b c : U64) (i : Nat) : (s.complete h st a b c).chan i = s.chan i := rfl
@[simp] theorem State.core_done0 (h : CmdHdr) (st : Byte) (i j : Nat) : (s.done0 h st).core i j = s.core i j := rfl
@[simp] theorem State.lreg_done0 (h : CmdHdr) (st : Byte) (i : Nat) : (s.done0 h st).lreg i = s.lreg i := rfl
@[simp] theorem State.reg_done0 (h : CmdHdr) (st : Byte) (i : Nat) : (s.done0 h st).reg i = s.reg i := rfl
@[simp] theorem State.engine_done0 (h : CmdHdr) (st : Byte) (i : Nat) : (s.done0 h st).engine i = s.engine i := rfl
@[simp] theorem State.chan_done0 (h : CmdHdr) (st : Byte) (i : Nat) : (s.done0 h st).chan i = s.chan i := rfl
@[simp] theorem State.core_alert (bit : Nat) (i j : Nat) : (s.alert bit).core i j = s.core i j := rfl
@[simp] theorem State.lreg_alert (bit : Nat) (i : Nat) : (s.alert bit).lreg i = s.lreg i := rfl
@[simp] theorem State.reg_alert (bit : Nat) (i : Nat) : (s.alert bit).reg i = s.reg i := rfl
@[simp] theorem State.engine_alert (bit : Nat) (i : Nat) : (s.alert bit).engine i = s.engine i := rfl
@[simp] theorem State.chan_alert (bit : Nat) (i : Nat) : (s.alert bit).chan i = s.chan i := rfl
@[simp] theorem State.hq_alert (bit : Nat) (i : Nat) : (s.alert bit).hq i = s.hq i := rfl
@[simp] theorem State.core_logHealth (h : HealthRec) (i j : Nat) : (s.logHealth h).core i j = s.core i j := rfl
@[simp] theorem State.lreg_logHealth (h : HealthRec) (i : Nat) : (s.logHealth h).lreg i = s.lreg i := rfl
@[simp] theorem State.reg_logHealth (h : HealthRec) (i : Nat) : (s.logHealth h).reg i = s.reg i := rfl
@[simp] theorem State.engine_logHealth (h : HealthRec) (i : Nat) : (s.logHealth h).engine i = s.engine i := rfl
@[simp] theorem State.chan_logHealth (h : HealthRec) (i : Nat) : (s.logHealth h).chan i = s.chan i := rfl
@[simp] theorem State.hq_logHealth (h : HealthRec) (i : Nat) : (s.logHealth h).hq i = s.hq i := rfl
@[simp] theorem State.core_emitOut (o : Out) (i j : Nat) : (s.emitOut o).core i j = s.core i j := rfl
@[simp] theorem State.lreg_emitOut (o : Out) (i : Nat) : (s.emitOut o).lreg i = s.lreg i := rfl
@[simp] theorem State.reg_emitOut (o : Out) (i : Nat) : (s.emitOut o).reg i = s.reg i := rfl
@[simp] theorem State.engine_emitOut (o : Out) (i : Nat) : (s.emitOut o).engine i = s.engine i := rfl
@[simp] theorem State.chan_emitOut (o : Out) (i : Nat) : (s.emitOut o).chan i = s.chan i := rfl
@[simp] theorem State.hq_emitOut (o : Out) (i : Nat) : (s.emitOut o).hq i = s.hq i := rfl
@[simp] theorem State.core_writeHost (a : Nat) (b : List Byte) (i j : Nat) : (s.writeHost a b).core i j = s.core i j := rfl
@[simp] theorem State.lreg_writeHost (a : Nat) (b : List Byte) (i : Nat) : (s.writeHost a b).lreg i = s.lreg i := rfl
@[simp] theorem State.reg_writeHost (a : Nat) (b : List Byte) (i : Nat) : (s.writeHost a b).reg i = s.reg i := rfl
@[simp] theorem State.engine_writeHost (a : Nat) (b : List Byte) (i : Nat) : (s.writeHost a b).engine i = s.engine i := rfl
@[simp] theorem State.chan_writeHost (a : Nat) (b : List Byte) (i : Nat) : (s.writeHost a b).chan i = s.chan i := rfl
@[simp] theorem State.hq_writeHost (a : Nat) (b : List Byte) (i : Nat) : (s.writeHost a b).hq i = s.hq i := rfl
@[simp] theorem State.core_writeSram (r c off : Nat) (b : List Byte) (i j : Nat) : (s.writeSram r c off b).core i j = s.core i j := rfl
@[simp] theorem State.lreg_writeSram (r c off : Nat) (b : List Byte) (i : Nat) : (s.writeSram r c off b).lreg i = s.lreg i := rfl
@[simp] theorem State.reg_writeSram (r c off : Nat) (b : List Byte) (i : Nat) : (s.writeSram r c off b).reg i = s.reg i := rfl
@[simp] theorem State.engine_writeSram (r c off : Nat) (b : List Byte) (i : Nat) : (s.writeSram r c off b).engine i = s.engine i := rfl
@[simp] theorem State.chan_writeSram (r c off : Nat) (b : List Byte) (i : Nat) : (s.writeSram r c off b).chan i = s.chan i := rfl
@[simp] theorem State.hq_writeSram (r c off : Nat) (b : List Byte) (i : Nat) : (s.writeSram r c off b).hq i = s.hq i := rfl
theorem State.core_same {s t : State} (e : t.cores = s.cores) (i j : Nat) : t.core i j = s.core i j := by unfold State.core; rw [e]
theorem State.lreg_same {s t : State} (e : t.lregions = s.lregions) (i : Nat) : t.lreg i = s.lreg i := by unfold State.lreg; rw [e]
theorem State.reg_same {s t : State} (e : t.regions = s.regions) (i : Nat) : t.reg i = s.reg i := by unfold State.reg; rw [e]
theorem State.engine_same {s t : State} (e : t.eng = s.eng) (i : Nat) : t.engine i = s.engine i := by unfold State.engine; rw [e]
theorem State.chan_same {s t : State} (e : t.dma = s.dma) (i : Nat) : t.chan i = s.chan i := by unfold State.chan; rw [e]
theorem State.hq_same {s t : State} (e : t.brg = s.brg) (i : Nat) : t.hq i = s.hq i := by unfold State.hq; rw [e]

end Sys2Proof.Machine
end

