-- ==== Sys2Proof/Laws/Ops.lean ====
section
/-! SUPPORT. What each shared operation does, said once: completions, the health log, events, counters, packets. -/

namespace Sys2Proof.Machine

/-! Frames. -/

theorem onlyChanges_refl (l : List Part) (s : State) : onlyChanges l s s := ⟨fun p _ => by cases p <;> rfl⟩

theorem onlyChanges_trans {l : List Part} {s t u : State} (h : onlyChanges l s t) (g : onlyChanges l t u) : onlyChanges l s u := by
  constructor; intro p hp; have a := h.same p hp; have b := g.same p hp; cases p <;> exact b.trans a

theorem onlyChanges_mono {l m : List Part} {s t : State} (h : onlyChanges l s t) (hm : ∀ p, p ∈ l → p ∈ m) : onlyChanges m s t :=
  ⟨fun p hp => h.same p fun hl => hp (hm p hl)⟩

/-! What a frame says of each part. -/

theorem onlyChanges_pending {l : List Part} {s t : State} (h : onlyChanges l s t) (n : Part.pending ∉ l) : t.pending = s.pending := h.same .pending n
theorem onlyChanges_time {l : List Part} {s t : State} (h : onlyChanges l s t) (n : Part.time ∉ l) : t.time = s.time := h.same .time n
theorem onlyChanges_free {l : List Part} {s t : State} (h : onlyChanges l s t) (n : Part.free ∉ l) : t.free = s.free := h.same .free n
theorem onlyChanges_host {l : List Part} {s t : State} (h : onlyChanges l s t) (n : Part.host ∉ l) : t.host = s.host := h.same .host n
theorem onlyChanges_sram {l : List Part} {s t : State} (h : onlyChanges l s t) (n : Part.sram ∉ l) : t.sram = s.sram := h.same .sram n
theorem onlyChanges_cores {l : List Part} {s t : State} (h : onlyChanges l s t) (n : Part.cores ∉ l) : t.cores = s.cores := h.same .cores n
theorem onlyChanges_lregions {l : List Part} {s t : State} (h : onlyChanges l s t) (n : Part.lregions ∉ l) : t.lregions = s.lregions := h.same .lregions n
theorem onlyChanges_regions {l : List Part} {s t : State} (h : onlyChanges l s t) (n : Part.regions ∉ l) : t.regions = s.regions := h.same .regions n
theorem onlyChanges_set {l : List Part} {s t : State} (h : onlyChanges l s t) (n : Part.settings ∉ l) : t.set = s.set := h.same .settings n
theorem onlyChanges_grd {l : List Part} {s t : State} (h : onlyChanges l s t) (n : Part.grd ∉ l) : t.grd = s.grd := h.same .grd n
theorem onlyChanges_num {l : List Part} {s t : State} (h : onlyChanges l s t) (n : Part.num ∉ l) : t.num = s.num := h.same .num n
theorem onlyChanges_run {l : List Part} {s t : State} (h : onlyChanges l s t) (n : Part.run ∉ l) : t.run = s.run := h.same .run n
theorem onlyChanges_brg {l : List Part} {s t : State} (h : onlyChanges l s t) (n : Part.brg ∉ l) : t.brg = s.brg := h.same .brg n
theorem onlyChanges_stg {l : List Part} {s t : State} (h : onlyChanges l s t) (n : Part.stg ∉ l) : t.stg = s.stg := h.same .stg n
theorem onlyChanges_cfg {l : List Part} {s t : State} (h : onlyChanges l s t) (n : Part.cfg ∉ l) : t.cfg = s.cfg := h.same .cfg n
theorem onlyChanges_bat {l : List Part} {s t : State} (h : onlyChanges l s t) (n : Part.bat ∉ l) : t.bat = s.bat := h.same .bat n
theorem onlyChanges_net {l : List Part} {s t : State} (h : onlyChanges l s t) (n : Part.net ∉ l) : t.net = s.net := h.same .net n
theorem onlyChanges_store {l : List Part} {s t : State} (h : onlyChanges l s t) (n : Part.store ∉ l) : t.store = s.store := h.same .store n
theorem onlyChanges_orc {l : List Part} {s t : State} (h : onlyChanges l s t) (n : Part.orc ∉ l) : t.orc = s.orc := h.same .orc n
theorem onlyChanges_prs {l : List Part} {s t : State} (h : onlyChanges l s t) (n : Part.prs ∉ l) : t.prs = s.prs := h.same .prs n
theorem onlyChanges_dma {l : List Part} {s t : State} (h : onlyChanges l s t) (n : Part.dma ∉ l) : t.dma = s.dma := h.same .dma n
theorem onlyChanges_eng {l : List Part} {s t : State} (h : onlyChanges l s t) (n : Part.eng ∉ l) : t.eng = s.eng := h.same .eng n
theorem onlyChanges_flt {l : List Part} {s t : State} (h : onlyChanges l s t) (n : Part.flt ∉ l) : t.flt = s.flt := h.same .flt n
theorem onlyChanges_log {l : List Part} {s t : State} (h : onlyChanges l s t) (n : Part.log ∉ l) : t.log = s.log := h.same .log n
theorem onlyChanges_pwr {l : List Part} {s t : State} (h : onlyChanges l s t) (n : Part.pwr ∉ l) : t.pwr = s.pwr := h.same .pwr n
theorem onlyChanges_keys {l : List Part} {s t : State} (h : onlyChanges l s t) (n : Part.keys ∉ l) : t.keys = s.keys := h.same .keys n
theorem onlyChanges_meter {l : List Part} {s t : State} (h : onlyChanges l s t) (n : Part.meter ∉ l) : t.meter = s.meter := h.same .meter n
theorem onlyChanges_mir {l : List Part} {s t : State} (h : onlyChanges l s t) (n : Part.mir ∉ l) : t.mir = s.mir := h.same .mir n
theorem onlyChanges_out {l : List Part} {s t : State} (h : onlyChanges l s t) (n : Part.out ∉ l) : t.out = s.out := h.same .out n

/-! Frames of the updates of one part. -/

theorem onRun_changes (s : State) (f : RunSt → RunSt) : onlyChanges [.run] s (s.onRun f) := by constructor; intro p hp; cases p <;> first | rfl | (exfalso; revert hp; decide)
theorem onNum_changes (s : State) (f : NumSt → NumSt) : onlyChanges [.num] s (s.onNum f) := by constructor; intro p hp; cases p <;> first | rfl | (exfalso; revert hp; decide)
theorem onSet_changes (s : State) (f : Settings → Settings) : onlyChanges [.settings] s (s.onSet f) := by constructor; intro p hp; cases p <;> first | rfl | (exfalso; revert hp; decide)
theorem onBrg_changes (s : State) (f : BridgeSt → BridgeSt) : onlyChanges [.brg] s (s.onBrg f) := by constructor; intro p hp; cases p <;> first | rfl | (exfalso; revert hp; decide)
theorem onStg_changes (s : State) (f : StagingSt → StagingSt) : onlyChanges [.stg] s (s.onStg f) := by constructor; intro p hp; cases p <;> first | rfl | (exfalso; revert hp; decide)
theorem onCfg_changes (s : State) (f : ConfigSt → ConfigSt) : onlyChanges [.cfg] s (s.onCfg f) := by constructor; intro p hp; cases p <;> first | rfl | (exfalso; revert hp; decide)
theorem onBat_changes (s : State) (f : BattenSt → BattenSt) : onlyChanges [.bat] s (s.onBat f) := by constructor; intro p hp; cases p <;> first | rfl | (exfalso; revert hp; decide)
theorem onNet_changes (s : State) (f : NetSt → NetSt) : onlyChanges [.net] s (s.onNet f) := by constructor; intro p hp; cases p <;> first | rfl | (exfalso; revert hp; decide)
theorem onStore_changes (s : State) (f : StoreSt → StoreSt) : onlyChanges [.store] s (s.onStore f) := by constructor; intro p hp; cases p <;> first | rfl | (exfalso; revert hp; decide)
theorem onOrc_changes (s : State) (f : OrchardSt → OrchardSt) : onlyChanges [.orc] s (s.onOrc f) := by constructor; intro p hp; cases p <;> first | rfl | (exfalso; revert hp; decide)
theorem onPrs_changes (s : State) (f : PressSt → PressSt) : onlyChanges [.prs] s (s.onPrs f) := by constructor; intro p hp; cases p <;> first | rfl | (exfalso; revert hp; decide)
theorem onFlt_changes (s : State) (f : FaultSt → FaultSt) : onlyChanges [.flt] s (s.onFlt f) := by constructor; intro p hp; cases p <;> first | rfl | (exfalso; revert hp; decide)
theorem onPwr_changes (s : State) (f : PowerSt → PowerSt) : onlyChanges [.pwr] s (s.onPwr f) := by constructor; intro p hp; cases p <;> first | rfl | (exfalso; revert hp; decide)
theorem onKeys_changes (s : State) (f : KeySt → KeySt) : onlyChanges [.keys] s (s.onKeys f) := by constructor; intro p hp; cases p <;> first | rfl | (exfalso; revert hp; decide)
theorem onMeter_changes (s : State) (f : MeterSt → MeterSt) : onlyChanges [.meter] s (s.onMeter f) := by constructor; intro p hp; cases p <;> first | rfl | (exfalso; revert hp; decide)
theorem onMir_changes (s : State) (f : MirrorSt → MirrorSt) : onlyChanges [.mir] s (s.onMir f) := by constructor; intro p hp; cases p <;> first | rfl | (exfalso; revert hp; decide)
theorem onGrd_changes (s : State) (f : GuardSt → GuardSt) : onlyChanges [.grd] s (s.onGrd f) := by constructor; intro p hp; cases p <;> first | rfl | (exfalso; revert hp; decide)
theorem onLreg_changes (s : State) (r : Nat) (f : LRegionSt → LRegionSt) : onlyChanges [.lregions] s (s.onLreg r f) := by constructor; intro p hp; cases p <;> first | rfl | (exfalso; revert hp; decide)
theorem onReg_changes (s : State) (r : Nat) (f : RegionSt → RegionSt) : onlyChanges [.regions] s (s.onReg r f) := by constructor; intro p hp; cases p <;> first | rfl | (exfalso; revert hp; decide)
theorem onEng_changes (s : State) (r : Nat) (f : EngineSt → EngineSt) : onlyChanges [.eng] s (s.onEng r f) := by constructor; intro p hp; cases p <;> first | rfl | (exfalso; revert hp; decide)
theorem onChan_changes (s : State) (r : Nat) (f : DmaSt → DmaSt) : onlyChanges [.dma] s (s.onChan r f) := by constructor; intro p hp; cases p <;> first | rfl | (exfalso; revert hp; decide)
theorem onHq_changes (s : State) (r : Nat) (f : HostQ → HostQ) : onlyChanges [.brg] s (s.onHq r f) := by constructor; intro p hp; cases p <;> first | rfl | (exfalso; revert hp; decide)
theorem onCores_changes (s : State) (f : CoreSt → CoreSt) : onlyChanges [.cores] s (s.onCores f) := by constructor; intro p hp; cases p <;> first | rfl | (exfalso; revert hp; decide)
theorem onLregs_changes (s : State) (f : LRegionSt → LRegionSt) : onlyChanges [.lregions] s (s.onLregs f) := by constructor; intro p hp; cases p <;> first | rfl | (exfalso; revert hp; decide)
theorem onRouters_changes (s : State) (f : RouterSt → RouterSt) : onlyChanges [.net] s (s.onRouters f) := by constructor; intro p hp; cases p <;> first | rfl | (exfalso; revert hp; decide)
theorem onCore_changes (s : State) (r c : Nat) (f : CoreSt → CoreSt) : onlyChanges [.cores] s (s.onCore r c f) := by constructor; intro p hp; cases p <;> first | rfl | (exfalso; revert hp; decide)
theorem writeHost_changes (s : State) (a : Nat) (b : List Byte) : onlyChanges [.host] s (s.writeHost a b) := by constructor; intro p hp; cases p <;> first | rfl | (exfalso; revert hp; decide)
theorem writeSram_changes (s : State) (r c o : Nat) (b : List Byte) : onlyChanges [.sram] s (s.writeSram r c o b) := by constructor; intro p hp; cases p <;> first | rfl | (exfalso; revert hp; decide)
theorem writeStore_changes (s : State) (r c o : Nat) (b : List Byte) : onlyChanges [.store] s (s.writeStore r c o b) := onStore_changes _ _
theorem emitOut_changes (s : State) (o : Out) : onlyChanges [.out] s (s.emitOut o) := by constructor; intro p hp; cases p <;> first | rfl | (exfalso; revert hp; decide)
theorem fresh_changes (s : State) : onlyChanges [.free] s s.fresh.2 := by constructor; intro p hp; cases p <;> first | rfl | (exfalso; revert hp; decide)

theorem onlyChanges_step {l m : List Part} {s t u : State} (h : onlyChanges l s t) (g : onlyChanges m t u) (e : (m.all fun p => l.contains p) = true) : onlyChanges l s u :=
  onlyChanges_trans h (onlyChanges_mono g fun p hp => by simpa using List.all_eq_true.mp e p hp)

theorem onlyChanges_ite {l : List Part} {s a b : State} {c : Prop} [Decidable c] (h : onlyChanges l s a) (g : onlyChanges l s b) : onlyChanges l s (if c then a else b) := by
  split <;> assumption

/-- What every round of a fold leaves alone, the fold leaves alone. -/
theorem foldl_changes {α : Type} (l : List Part) (f : State → α → State) (h : ∀ s a, onlyChanges l s (f s a)) (xs : List α) (s : State) :
    onlyChanges l s (xs.foldl f s) := by
  induction xs generalizing s with
  | nil => exact onlyChanges_refl _ _
  | cons x xs ih => exact onlyChanges_trans (h s x) (ih _)

theorem onlyChanges_foldl {α : Type} {l : List Part} {s u : State} (h : onlyChanges l s u) (f : State → α → State) (g : ∀ s a, onlyChanges l s (f s a)) (xs : List α) :
    onlyChanges l s (xs.foldl f u) := onlyChanges_trans h (foldl_changes l f g xs u)

/-- Settings taking effect change the settings alone (R364). -/
theorem applyStaged_changes (s : State) (p : Nat → Bool) : onlyChanges [.settings] s (s.applyStaged p) := by
  unfold State.applyStaged
  apply foldl_changes
  intro s a
  split
  · exact onlyChanges_trans (onSet_changes _ _) (onSet_changes _ _)
  · exact onlyChanges_refl _ _

theorem microBoundary_changes (s : State) : onlyChanges [.settings] s s.microBoundary := applyStaged_changes _ _

/-- A discarded write is counted in the settings and changes nothing else (R362). -/
theorem discardWrite_changes (s : State) (a c : Nat) (m : Bool) : onlyChanges [.settings] s (s.discardWrite a c m) := onSet_changes _ _

/-! Completions. -/

/-- A completion joins its completion queue and changes nothing else (R343). -/
theorem completes_complete (s u : State) (h : CmdHdr) (st : Byte) (a b c : U64) (e : u.brg = s.brg) : completes s (u.complete h st a b c) h st a b c := by
  have hq (q : Nat) : u.hq q = s.hq q := by simp [State.hq, e]
  constructor
  · simp [State.complete, State.waiting, hq]
  · intro q hn; simp only [State.complete]; rw [State.hq_onHq_ne _ _ hn, hq]

theorem completes_done0 (s u : State) (h : CmdHdr) (st : Byte) (e : u.brg = s.brg) : completes s (u.done0 h st) h st 0 0 0 := completes_complete s u h st 0 0 0 e

theorem done0_changes (s : State) (h : CmdHdr) (st : Byte) : onlyChanges [.brg] s (s.done0 h st) := onHq_changes _ _ _

theorem complete_changes (s : State) (h : CmdHdr) (st : Byte) (a b c : U64) : onlyChanges [.brg] s (s.complete h st a b c) := by
  constructor; intro p hp; cases p <;> first | rfl | (exfalso; revert hp; decide)

/-- A command that stores a record and completes: the completion, the bytes stored, and the frame (R347). -/
theorem writeHost_complete (s : State) (h : CmdHdr) (n : Nat) (b : List Byte) (st : Byte) (x y z : U64) :
    completes s ((s.writeHost n b).complete h st x y z) h st x y z ∧ stores s.host ((s.writeHost n b).complete h st x y z).host n b ∧
    onlyChanges [.host, .brg] s ((s.writeHost n b).complete h st x y z) :=
  ⟨completes_complete _ _ _ _ _ _ _ (State.writeHost_brg ..), writeMem_stores _ _ _,
    onlyChanges_trans (onlyChanges_mono (writeHost_changes _ _ _) (by simp)) (onlyChanges_mono (complete_changes _ _ _ _ _ _) (by simp))⟩

theorem badHdr_eq {h : CmdHdr} (e : h.cid ≠ 0xFFFF) : badHdr h = false := decide_eq_false e

theorem bufferOk_eq {a : U64} {n : Nat} (h : a.toNat % 64 = 0) (e : a.toNat + n ≤ 2 ^ 64) : bufferOk a n = true := by
  unfold bufferOk; rw [decide_eq_true h, decide_eq_true e]; rfl

/-! The health log (R301). -/

/-- A record takes the next sequence number and is the newest held. -/
theorem logHealth_recs (s : State) (h : HealthRec) (n : s.log.recs.length < 65536) :
    (s.logHealth h).log.recs = s.log.recs ++ [⟨s.time, s.run.step, h, if s.log.seq = 0xFFFFFFFF then 1 else s.log.seq + 1⟩] := by
  simp only [State.logHealth, List.length_append, List.length_singleton]
  rw [if_neg (by omega)]

theorem logHealth_changes (s : State) (h : HealthRec) : onlyChanges [.log] s (s.logHealth h) := by
  constructor; intro p hp; cases p <;> first | rfl | (exfalso; revert hp; decide)

/-! Events (R356, R357). -/

/-- An event changes the run part, the bridge's queues and the alert register alone. -/
theorem postEvent_changes (s : State) (code : Nat) (a b : U64) : onlyChanges [.run, .brg, .pwr] s (s.postEvent code a b) := by
  constructor; intro p hp
  unfold State.postEvent
  cases p <;> first
    | (exfalso; revert hp; decide)
    | (simp only [Part.same]; repeat' split) <;> rfl

/-- After an event its code is pending with the results given. -/
theorem postEvent_pends (s : State) (code : Nat) (a b : U64) :
    ((s.postEvent code a b).run.events.get {} code).pend = true ∧ ((s.postEvent code a b).run.events.get {} code).res1 = a ∧
    ((s.postEvent code a b).run.events.get {} code).res0 = b := by
  unfold State.postEvent
  dsimp only
  split <;> split <;> simp [State.alert]

theorem event_changes (s : State) (code : Nat) (a : U64) : onlyChanges [.run, .brg, .pwr] s (s.event code a) := postEvent_changes s code a _

theorem alert_changes (s : State) (bit : Nat) : onlyChanges [.pwr] s (s.alert bit) := by
  constructor; intro p hp; cases p <;> first | rfl | (exfalso; revert hp; decide)

/-! Counters (R95, R97). -/

theorem syncOvf_changes (s : State) (r c k : Nat) : onlyChanges [.regions] s (s.syncOvf r c k) := by
  unfold State.syncOvf
  split
  · exact onlyChanges_refl _ _
  · exact onReg_changes _ _ _

/-- An illegal operation halts its core and reports it (R24, R278). -/
theorem illegal_changes (s : State) (r c k : Nat) : onlyChanges [.cores, .bat] s (s.illegal r c k) :=
  onlyChanges_trans (onlyChanges_mono (onCore_changes _ _ _ _) (by simp)) (onlyChanges_mono (onBat_changes _ _) (by simp))

@[simp] theorem illegal_ctr (s : State) (r c k j : Nat) : (s.illegal r c k).ctr r c j = s.ctr r c j := by
  simp [State.ctr, State.core, State.illegal]

@[simp] theorem syncOvf_core (s : State) (r c k q d : Nat) : (s.syncOvf r c k).core q d = s.core q d := by
  unfold State.syncOvf; split <;> simp [State.core]

/-- A core's counter grows by `n`, or stays at 65,535. -/
theorem addCtr_ctr (s : State) (r c k n : Nat) : (s.addCtr r c k n).ctr r c k = min (s.ctr r c k + n) 65535 := by
  unfold State.addCtr
  simp only
  split
  · rename_i h; simp only [State.ctr, State.core_onCore_self, Tab.get_set_self] at h ⊢; omega
  · rename_i h
    have e : (((s.onCore r c fun x => { x with ctrs := x.ctrs.set 0 k 65535 }).syncOvf r c k).illegal r c (ctrPoint k)).ctr r c k = 65535 := by
      rw [illegal_ctr]; simp [State.ctr]
    rw [e]; omega

/-- Counters, cores, regions and the batten network are all that an addition changes. -/
theorem addCtr_changes (s : State) (r c k n : Nat) : onlyChanges [.cores, .regions, .bat] s (s.addCtr r c k n) := by
  unfold State.addCtr
  simp only
  split
  · exact onlyChanges_mono (onCore_changes _ _ _ _) (by simp)
  · exact onlyChanges_trans (onlyChanges_trans (onlyChanges_mono (onCore_changes _ _ _ _) (by simp)) (onlyChanges_mono (syncOvf_changes _ _ _ _) (by simp)))
      (onlyChanges_mono (illegal_changes _ _ _ _) (by simp))

/-! The same, as links of a chain of updates. -/

theorem onRun_in {L : List Part} {s₀ u₀ : State} {f : RunSt → RunSt} (hk : onlyChanges L s₀ u₀) (he : ([.run].all fun p => L.contains p) = true) : onlyChanges L s₀ (u₀.onRun f) := onlyChanges_step hk (onRun_changes ..) he
theorem onNum_in {L : List Part} {s₀ u₀ : State} {f : NumSt → NumSt} (hk : onlyChanges L s₀ u₀) (he : ([.num].all fun p => L.contains p) = true) : onlyChanges L s₀ (u₀.onNum f) := onlyChanges_step hk (onNum_changes ..) he
theorem onSet_in {L : List Part} {s₀ u₀ : State} {f : Settings → Settings} (hk : onlyChanges L s₀ u₀) (he : ([.settings].all fun p => L.contains p) = true) : onlyChanges L s₀ (u₀.onSet f) := onlyChanges_step hk (onSet_changes ..) he
theorem onBrg_in {L : List Part} {s₀ u₀ : State} {f : BridgeSt → BridgeSt} (hk : onlyChanges L s₀ u₀) (he : ([.brg].all fun p => L.contains p) = true) : onlyChanges L s₀ (u₀.onBrg f) := onlyChanges_step hk (onBrg_changes ..) he
theorem onStg_in {L : List Part} {s₀ u₀ : State} {f : StagingSt → StagingSt} (hk : onlyChanges L s₀ u₀) (he : ([.stg].all fun p => L.contains p) = true) : onlyChanges L s₀ (u₀.onStg f) := onlyChanges_step hk (onStg_changes ..) he
theorem onCfg_in {L : List Part} {s₀ u₀ : State} {f : ConfigSt → ConfigSt} (hk : onlyChanges L s₀ u₀) (he : ([.cfg].all fun p => L.contains p) = true) : onlyChanges L s₀ (u₀.onCfg f) := onlyChanges_step hk (onCfg_changes ..) he
theorem onBat_in {L : List Part} {s₀ u₀ : State} {f : BattenSt → BattenSt} (hk : onlyChanges L s₀ u₀) (he : ([.bat].all fun p => L.contains p) = true) : onlyChanges L s₀ (u₀.onBat f) := onlyChanges_step hk (onBat_changes ..) he
theorem onNet_in {L : List Part} {s₀ u₀ : State} {f : NetSt → NetSt} (hk : onlyChanges L s₀ u₀) (he : ([.net].all fun p => L.contains p) = true) : onlyChanges L s₀ (u₀.onNet f) := onlyChanges_step hk (onNet_changes ..) he
theorem onStore_in {L : List Part} {s₀ u₀ : State} {f : StoreSt → StoreSt} (hk : onlyChanges L s₀ u₀) (he : ([.store].all fun p => L.contains p) = true) : onlyChanges L s₀ (u₀.onStore f) := onlyChanges_step hk (onStore_changes ..) he
theorem onOrc_in {L : List Part} {s₀ u₀ : State} {f : OrchardSt → OrchardSt} (hk : onlyChanges L s₀ u₀) (he : ([.orc].all fun p => L.contains p) = true) : onlyChanges L s₀ (u₀.onOrc f) := onlyChanges_step hk (onOrc_changes ..) he
theorem onPrs_in {L : List Part} {s₀ u₀ : State} {f : PressSt → PressSt} (hk : onlyChanges L s₀ u₀) (he : ([.prs].all fun p => L.contains p) = true) : onlyChanges L s₀ (u₀.onPrs f) := onlyChanges_step hk (onPrs_changes ..) he
theorem onFlt_in {L : List Part} {s₀ u₀ : State} {f : FaultSt → FaultSt} (hk : onlyChanges L s₀ u₀) (he : ([.flt].all fun p => L.contains p) = true) : onlyChanges L s₀ (u₀.onFlt f) := onlyChanges_step hk (onFlt_changes ..) he
theorem onPwr_in {L : List Part} {s₀ u₀ : State} {f : PowerSt → PowerSt} (hk : onlyChanges L s₀ u₀) (he : ([.pwr].all fun p => L.contains p) = true) : onlyChanges L s₀ (u₀.onPwr f) := onlyChanges_step hk (onPwr_changes ..) he
theorem onKeys_in {L : List Part} {s₀ u₀ : State} {f : KeySt → KeySt} (hk : onlyChanges L s₀ u₀) (he : ([.keys].all fun p => L.contains p) = true) : onlyChanges L s₀ (u₀.onKeys f) := onlyChanges_step hk (onKeys_changes ..) he
theorem onMeter_in {L : List Part} {s₀ u₀ : State} {f : MeterSt → MeterSt} (hk : onlyChanges L s₀ u₀) (he : ([.meter].all fun p => L.contains p) = true) : onlyChanges L s₀ (u₀.onMeter f) := onlyChanges_step hk (onMeter_changes ..) he
theorem onMir_in {L : List Part} {s₀ u₀ : State} {f : MirrorSt → MirrorSt} (hk : onlyChanges L s₀ u₀) (he : ([.mir].all fun p => L.contains p) = true) : onlyChanges L s₀ (u₀.onMir f) := onlyChanges_step hk (onMir_changes ..) he
theorem onGrd_in {L : List Part} {s₀ u₀ : State} {f : GuardSt → GuardSt} (hk : onlyChanges L s₀ u₀) (he : ([.grd].all fun p => L.contains p) = true) : onlyChanges L s₀ (u₀.onGrd f) := onlyChanges_step hk (onGrd_changes ..) he
theorem onLreg_in {L : List Part} {s₀ u₀ : State} {r : Nat} {f : LRegionSt → LRegionSt} (hk : onlyChanges L s₀ u₀) (he : ([.lregions].all fun p => L.contains p) = true) : onlyChanges L s₀ (u₀.onLreg r f) := onlyChanges_step hk (onLreg_changes ..) he
theorem onReg_in {L : List Part} {s₀ u₀ : State} {r : Nat} {f : RegionSt → RegionSt} (hk : onlyChanges L s₀ u₀) (he : ([.regions].all fun p => L.contains p) = true) : onlyChanges L s₀ (u₀.onReg r f) := onlyChanges_step hk (onReg_changes ..) he
theorem onEng_in {L : List Part} {s₀ u₀ : State} {r : Nat} {f : EngineSt → EngineSt} (hk : onlyChanges L s₀ u₀) (he : ([.eng].all fun p => L.contains p) = true) : onlyChanges L s₀ (u₀.onEng r f) := onlyChanges_step hk (onEng_changes ..) he
theorem onChan_in {L : List Part} {s₀ u₀ : State} {r : Nat} {f : DmaSt → DmaSt} (hk : onlyChanges L s₀ u₀) (he : ([.dma].all fun p => L.contains p) = true) : onlyChanges L s₀ (u₀.onChan r f) := onlyChanges_step hk (onChan_changes ..) he
theorem onHq_in {L : List Part} {s₀ u₀ : State} {r : Nat} {f : HostQ → HostQ} (hk : onlyChanges L s₀ u₀) (he : ([.brg].all fun p => L.contains p) = true) : onlyChanges L s₀ (u₀.onHq r f) := onlyChanges_step hk (onHq_changes ..) he
theorem onCores_in {L : List Part} {s₀ u₀ : State} {f : CoreSt → CoreSt} (hk : onlyChanges L s₀ u₀) (he : ([.cores].all fun p => L.contains p) = true) : onlyChanges L s₀ (u₀.onCores f) := onlyChanges_step hk (onCores_changes ..) he
theorem onLregs_in {L : List Part} {s₀ u₀ : State} {f : LRegionSt → LRegionSt} (hk : onlyChanges L s₀ u₀) (he : ([.lregions].all fun p => L.contains p) = true) : onlyChanges L s₀ (u₀.onLregs f) := onlyChanges_step hk (onLregs_changes ..) he
theorem onRouters_in {L : List Part} {s₀ u₀ : State} {f : RouterSt → RouterSt} (hk : onlyChanges L s₀ u₀) (he : ([.net].all fun p => L.contains p) = true) : onlyChanges L s₀ (u₀.onRouters f) := onlyChanges_step hk (onRouters_changes ..) he
theorem onCore_in {L : List Part} {s₀ u₀ : State} {r c : Nat} {f : CoreSt → CoreSt} (hk : onlyChanges L s₀ u₀) (he : ([.cores].all fun p => L.contains p) = true) : onlyChanges L s₀ (u₀.onCore r c f) := onlyChanges_step hk (onCore_changes ..) he
theorem writeHost_in {L : List Part} {s₀ u₀ : State} {a : Nat} {b : List Byte} (hk : onlyChanges L s₀ u₀) (he : ([.host].all fun p => L.contains p) = true) : onlyChanges L s₀ (u₀.writeHost a b) := onlyChanges_step hk (writeHost_changes ..) he
theorem writeSram_in {L : List Part} {s₀ u₀ : State} {r c o : Nat} {b : List Byte} (hk : onlyChanges L s₀ u₀) (he : ([.sram].all fun p => L.contains p) = true) : onlyChanges L s₀ (u₀.writeSram r c o b) := onlyChanges_step hk (writeSram_changes ..) he
theorem writeStore_in {L : List Part} {s₀ u₀ : State} {r c o : Nat} {b : List Byte} (hk : onlyChanges L s₀ u₀) (he : ([.store].all fun p => L.contains p) = true) : onlyChanges L s₀ (u₀.writeStore r c o b) := onlyChanges_step hk (writeStore_changes ..) he
theorem emitOut_in {L : List Part} {s₀ u₀ : State} {o : Out} (hk : onlyChanges L s₀ u₀) (he : ([.out].all fun p => L.contains p) = true) : onlyChanges L s₀ (u₀.emitOut o) := onlyChanges_step hk (emitOut_changes ..) he
theorem complete_in {L : List Part} {s₀ u₀ : State} {h : CmdHdr} {st : Byte} {a b c : U64} (hk : onlyChanges L s₀ u₀) (he : ([.brg].all fun p => L.contains p) = true) : onlyChanges L s₀ (u₀.complete h st a b c) := onlyChanges_step hk (complete_changes ..) he
theorem done0_in {L : List Part} {s₀ u₀ : State} {h : CmdHdr} {st : Byte} (hk : onlyChanges L s₀ u₀) (he : ([.brg].all fun p => L.contains p) = true) : onlyChanges L s₀ (u₀.done0 h st) := onlyChanges_step hk (done0_changes ..) he
theorem logHealth_in {L : List Part} {s₀ u₀ : State} {h : HealthRec} (hk : onlyChanges L s₀ u₀) (he : ([.log].all fun p => L.contains p) = true) : onlyChanges L s₀ (u₀.logHealth h) := onlyChanges_step hk (logHealth_changes ..) he
theorem postEvent_in {L : List Part} {s₀ u₀ : State} {code : Nat} {a b : U64} (hk : onlyChanges L s₀ u₀) (he : ([.run, .brg, .pwr].all fun p => L.contains p) = true) : onlyChanges L s₀ (u₀.postEvent code a b) := onlyChanges_step hk (postEvent_changes ..) he
theorem event_in {L : List Part} {s₀ u₀ : State} {code : Nat} {a : U64} (hk : onlyChanges L s₀ u₀) (he : ([.run, .brg, .pwr].all fun p => L.contains p) = true) : onlyChanges L s₀ (u₀.event code a) := onlyChanges_step hk (event_changes ..) he
theorem alert_in {L : List Part} {s₀ u₀ : State} {bit : Nat} (hk : onlyChanges L s₀ u₀) (he : ([.pwr].all fun p => L.contains p) = true) : onlyChanges L s₀ (u₀.alert bit) := onlyChanges_step hk (alert_changes ..) he
theorem syncOvf_in {L : List Part} {s₀ u₀ : State} {r c k : Nat} (hk : onlyChanges L s₀ u₀) (he : ([.regions].all fun p => L.contains p) = true) : onlyChanges L s₀ (u₀.syncOvf r c k) := onlyChanges_step hk (syncOvf_changes ..) he
theorem illegal_in {L : List Part} {s₀ u₀ : State} {r c k : Nat} (hk : onlyChanges L s₀ u₀) (he : ([.cores, .bat].all fun p => L.contains p) = true) : onlyChanges L s₀ (u₀.illegal r c k) := onlyChanges_step hk (illegal_changes ..) he
theorem addCtr_in {L : List Part} {s₀ u₀ : State} {r c k n : Nat} (hk : onlyChanges L s₀ u₀) (he : ([.cores, .regions, .bat].all fun p => L.contains p) = true) : onlyChanges L s₀ (u₀.addCtr r c k n) := onlyChanges_step hk (addCtr_changes ..) he
theorem applyStaged_in {L : List Part} {s₀ u₀ : State} {p : Nat → Bool} (hk : onlyChanges L s₀ u₀) (he : ([.settings].all fun p => L.contains p) = true) : onlyChanges L s₀ (u₀.applyStaged p) := onlyChanges_step hk (applyStaged_changes ..) he
theorem microBoundary_in {L : List Part} {s₀ u₀ : State} (hk : onlyChanges L s₀ u₀) (he : ([.settings].all fun p => L.contains p) = true) : onlyChanges L s₀ (u₀.microBoundary) := onlyChanges_step hk (microBoundary_changes ..) he
theorem discardWrite_in {L : List Part} {s₀ u₀ : State} {a c : Nat} {m : Bool} (hk : onlyChanges L s₀ u₀) (he : ([.settings].all fun p => L.contains p) = true) : onlyChanges L s₀ (u₀.discardWrite a c m) := onlyChanges_step hk (discardWrite_changes ..) he

end Sys2Proof.Machine
end

