-- ==== Sys2Proof/Laws/Frames.lean ====
section
/-! SUPPORT. What each operation on the state may change: `foo_changes` names the parts, `foo_in` is the same as a link of a chain of updates. -/

namespace Sys2Proof.Machine

/-! Ops -/

theorem setStamp_changes (s : State) (r bank line : Nat) (v : Byte) : onlyChanges [.store] s (s.setStamp r bank line v) := by
  unfold State.setStamp
  repeat' first | (with_reducible first | exact onlyChanges_refl _ _ | apply onStore_in | decide) | extract_lets
theorem setStamp_in {L : List Part} {s₀ u₀ : State} {r bank line : Nat} {v : Byte} (hk : onlyChanges L s₀ u₀) (he : ([.store].all fun p => L.contains p) = true) : onlyChanges L s₀ (u₀.setStamp r bank line v) := onlyChanges_step hk (setStamp_changes ..) he

theorem count_changes (s : State) (p off n : Nat) : onlyChanges [.regions] s (s.count p off n) := by
  unfold State.count
  repeat' first | (with_reducible first | exact onlyChanges_refl _ _ | apply onReg_in | decide) | extract_lets
theorem count_in {L : List Part} {s₀ u₀ : State} {p off n : Nat} (hk : onlyChanges L s₀ u₀) (he : ([.regions].all fun p => L.contains p) = true) : onlyChanges L s₀ (u₀.count p off n) := onlyChanges_step hk (count_changes ..) he

theorem countL_changes (s : State) (r off n : Nat) : onlyChanges [.regions] s (s.countL r off n) := by
  unfold State.countL
  repeat' first | (with_reducible first | exact onlyChanges_refl _ _ | apply count_in | decide) | extract_lets | split
theorem countL_in {L : List Part} {s₀ u₀ : State} {r off n : Nat} (hk : onlyChanges L s₀ u₀) (he : ([.regions].all fun p => L.contains p) = true) : onlyChanges L s₀ (u₀.countL r off n) := onlyChanges_step hk (countL_changes ..) he

theorem addSiCtr_changes (s : State) (r k n : Nat) : onlyChanges [.lregions, .regions, .bat] s (s.addSiCtr r k n) := by
  unfold State.addSiCtr
  repeat' first | (with_reducible first | exact onlyChanges_refl _ _ | apply onlyChanges_ite | apply onLreg_in | apply syncOvf_in | apply onBat_in | decide) | extract_lets | split | dsimp +zetaDelta only
theorem addSiCtr_in {L : List Part} {s₀ u₀ : State} {r k n : Nat} (hk : onlyChanges L s₀ u₀) (he : ([.lregions, .regions, .bat].all fun p => L.contains p) = true) : onlyChanges L s₀ (u₀.addSiCtr r k n) := onlyChanges_step hk (addSiCtr_changes ..) he

theorem addTok_changes (s : State) (r c t n : Nat) : onlyChanges [.cores, .regions, .bat] s (s.addTok r c t n) := by
  unfold State.addTok
  repeat' first | (with_reducible first | exact onlyChanges_refl _ _ | apply addCtr_in | decide) | extract_lets | split
theorem addTok_in {L : List Part} {s₀ u₀ : State} {r c t n : Nat} (hk : onlyChanges L s₀ u₀) (he : ([.cores, .regions, .bat].all fun p => L.contains p) = true) : onlyChanges L s₀ (u₀.addTok r c t n) := onlyChanges_step hk (addTok_changes ..) he

theorem takeWaits_changes (s : State) (r c : Nat) (ws : List Wait) : onlyChanges [.cores] s (s.takeWaits r c ws) := by
  unfold State.takeWaits
  repeat' first | (with_reducible first | exact onlyChanges_refl _ _ | apply onCore_in | refine onlyChanges_foldl ?_ _ (fun _ _ => ?_) _ | decide) | extract_lets
theorem takeWaits_in {L : List Part} {s₀ u₀ : State} {r c : Nat} {ws : List Wait} (hk : onlyChanges L s₀ u₀) (he : ([.cores].all fun p => L.contains p) = true) : onlyChanges L s₀ (u₀.takeWaits r c ws) := onlyChanges_step hk (takeWaits_changes ..) he

theorem takeSiWaits_changes (s : State) (r : Nat) (ws : List Wait) : onlyChanges [.lregions] s (s.takeSiWaits r ws) := by
  unfold State.takeSiWaits
  repeat' first | (with_reducible first | exact onlyChanges_refl _ _ | apply onLreg_in | refine onlyChanges_foldl ?_ _ (fun _ _ => ?_) _ | decide) | extract_lets
theorem takeSiWaits_in {L : List Part} {s₀ u₀ : State} {r : Nat} {ws : List Wait} (hk : onlyChanges L s₀ u₀) (he : ([.lregions].all fun p => L.contains p) = true) : onlyChanges L s₀ (u₀.takeSiWaits r ws) := onlyChanges_step hk (takeSiWaits_changes ..) he

theorem sendEmits_changes (s : State) (es : List Emit) : onlyChanges [.bat] s (s.sendEmits es) := by
  unfold State.sendEmits
  repeat' first | (with_reducible first | exact onlyChanges_refl _ _ | apply onBat_in | decide) | extract_lets
theorem sendEmits_in {L : List Part} {s₀ u₀ : State} {es : List Emit} (hk : onlyChanges L s₀ u₀) (he : ([.bat].all fun p => L.contains p) = true) : onlyChanges L s₀ (u₀.sendEmits es) := onlyChanges_step hk (sendEmits_changes ..) he

/-! Settings -/

theorem stageWrite_changes (s : State) (addr : Nat) (v : U32) (mbus : Bool) : onlyChanges [.settings] s (s.stageWrite addr v mbus) := by
  unfold State.stageWrite
  repeat' first | (with_reducible first | exact onlyChanges_refl _ _ | apply onSet_in | decide) | extract_lets
theorem stageWrite_in {L : List Part} {s₀ u₀ : State} {addr : Nat} {v : U32} {mbus : Bool} (hk : onlyChanges L s₀ u₀) (he : ([.settings].all fun p => L.contains p) = true) : onlyChanges L s₀ (u₀.stageWrite addr v mbus) := onlyChanges_step hk (stageWrite_changes ..) he

theorem putActive_changes (s : State) (addr : Nat) (v : U32) : onlyChanges [.settings] s (s.putActive addr v) := by
  unfold State.putActive
  repeat' first | (with_reducible first | exact onlyChanges_refl _ _ | apply onSet_in | decide) | extract_lets
theorem putActive_in {L : List Part} {s₀ u₀ : State} {addr : Nat} {v : U32} (hk : onlyChanges L s₀ u₀) (he : ([.settings].all fun p => L.contains p) = true) : onlyChanges L s₀ (u₀.putActive addr v) := onlyChanges_step hk (putActive_changes ..) he

theorem clockFrom_changes (s : State) (p : Nat) : onlyChanges [.regions, .log] s (s.clockFrom p) := by
  unfold State.clockFrom
  repeat' first | (with_reducible first | exact onlyChanges_refl _ _ | apply onlyChanges_ite | apply onReg_in | apply logHealth_in | decide) | extract_lets | split | dsimp +zetaDelta only
theorem clockFrom_in {L : List Part} {s₀ u₀ : State} {p : Nat} (hk : onlyChanges L s₀ u₀) (he : ([.regions, .log].all fun p => L.contains p) = true) : onlyChanges L s₀ (u₀.clockFrom p) := onlyChanges_step hk (clockFrom_changes ..) he

theorem askClock_changes (s : State) (p k flow : Nat) : onlyChanges [.regions] s (s.askClock p k flow) := by
  unfold State.askClock
  repeat' first | (with_reducible first | exact onlyChanges_refl _ _ | apply onlyChanges_ite | apply onReg_in | decide) | extract_lets | split | dsimp +zetaDelta only
theorem askClock_in {L : List Part} {s₀ u₀ : State} {p k flow : Nat} (hk : onlyChanges L s₀ u₀) (he : ([.regions].all fun p => L.contains p) = true) : onlyChanges L s₀ (u₀.askClock p k flow) := onlyChanges_step hk (askClock_changes ..) he

theorem stepBoundaryRegion_changes (s : State) (p : Nat) : onlyChanges [.regions, .settings, .log] s (s.stepBoundaryRegion p) := by
  unfold State.stepBoundaryRegion
  repeat' first | (with_reducible first | exact onlyChanges_refl _ _ | apply onlyChanges_ite | apply askClock_in | apply applyStaged_in | apply clockFrom_in | decide) | extract_lets | split | dsimp +zetaDelta only
theorem stepBoundaryRegion_in {L : List Part} {s₀ u₀ : State} {p : Nat} (hk : onlyChanges L s₀ u₀) (he : ([.regions, .settings, .log].all fun p => L.contains p) = true) : onlyChanges L s₀ (u₀.stepBoundaryRegion p) := onlyChanges_step hk (stepBoundaryRegion_changes ..) he

theorem dropStaged_changes (s : State) : onlyChanges [.regions, .settings] s (s.dropStaged) := by
  unfold State.dropStaged
  repeat' first | (with_reducible first | exact onlyChanges_refl _ _ | apply discardWrite_in | apply onReg_in | apply onSet_in | refine onlyChanges_foldl ?_ _ (fun _ _ => ?_) _ | decide) | extract_lets | dsimp +zetaDelta only
theorem dropStaged_in {L : List Part} {s₀ u₀ : State} (hk : onlyChanges L s₀ u₀) (he : ([.regions, .settings].all fun p => L.contains p) = true) : onlyChanges L s₀ (u₀.dropStaged) := onlyChanges_step hk (dropStaged_changes ..) he

theorem moveSettings_changes (s : State) (lost promoted : Nat) : onlyChanges [.regions, .settings] s (s.moveSettings lost promoted) := by
  unfold State.moveSettings
  repeat' first | (with_reducible first | exact onlyChanges_refl _ _ | apply onlyChanges_ite | apply discardWrite_in | apply onSet_in | apply onReg_in | apply putActive_in | refine onlyChanges_foldl ?_ _ (fun _ _ => ?_) _ | decide) | extract_lets | split | dsimp +zetaDelta only
theorem moveSettings_in {L : List Part} {s₀ u₀ : State} {lost promoted : Nat} (hk : onlyChanges L s₀ u₀) (he : ([.regions, .settings].all fun p => L.contains p) = true) : onlyChanges L s₀ (u₀.moveSettings lost promoted) := onlyChanges_step hk (moveSettings_changes ..) he

/-! Operands -/

theorem writeElem_changes (s : State) (r c : Nat) (f32 : Bool) (off v : Nat) : onlyChanges [.sram] s (s.writeElem r c f32 off v) := by
  unfold State.writeElem
  repeat' first | (with_reducible first | exact onlyChanges_refl _ _ | apply onlyChanges_ite | apply writeSram_in | decide) | split
theorem writeElem_in {L : List Part} {s₀ u₀ : State} {r c : Nat} {f32 : Bool} {off v : Nat} (hk : onlyChanges L s₀ u₀) (he : ([.sram].all fun p => L.contains p) = true) : onlyChanges L s₀ (u₀.writeElem r c f32 off v) := onlyChanges_step hk (writeElem_changes ..) he

/-! Flags -/

theorem sticky_changes (s : State) (r c mb : Nat) (grad : Bool) (f : BitVec 4) : onlyChanges [.cores] s (s.sticky r c mb grad f) := by
  unfold State.sticky
  repeat' first | (with_reducible first | exact onlyChanges_refl _ _ | apply onlyChanges_ite | apply onCore_in | decide) | extract_lets | split
theorem sticky_in {L : List Part} {s₀ u₀ : State} {r c mb : Nat} {grad : Bool} {f : BitVec 4} (hk : onlyChanges L s₀ u₀) (he : ([.cores].all fun p => L.contains p) = true) : onlyChanges L s₀ (u₀.sticky r c mb grad f) := onlyChanges_step hk (sticky_changes ..) he

theorem numDropped_changes (s : State) (p pc : Nat) : onlyChanges [.regions] s (s.numDropped p pc) := by
  unfold State.numDropped
  repeat' first | (with_reducible first | exact onlyChanges_refl _ _ | apply onReg_in | decide) | extract_lets
theorem numDropped_in {L : List Part} {s₀ u₀ : State} {p pc : Nat} (hk : onlyChanges L s₀ u₀) (he : ([.regions].all fun p => L.contains p) = true) : onlyChanges L s₀ (u₀.numDropped p pc) := onlyChanges_step hk (numDropped_changes ..) he

theorem sendRecord_changes (s : State) (r c mb : Nat) (tileId w0 w1 : U32) : onlyChanges [.cores, .regions, .bat] s (s.sendRecord r c mb tileId w0 w1) := by
  unfold State.sendRecord
  repeat' first | (with_reducible first | exact onlyChanges_refl _ _ | apply onlyChanges_ite | apply sticky_in | apply numDropped_in | apply onBat_in | decide) | extract_lets | split | dsimp +zetaDelta only
theorem sendRecord_in {L : List Part} {s₀ u₀ : State} {r c mb : Nat} {tileId w0 w1 : U32} (hk : onlyChanges L s₀ u₀) (he : ([.cores, .regions, .bat].all fun p => L.contains p) = true) : onlyChanges L s₀ (u₀.sendRecord r c mb tileId w0 w1) := onlyChanges_step hk (sendRecord_changes ..) he

/-! Ready -/

theorem mbFire_changes (s : State) (r : Nat) : onlyChanges [.lregions, .bat] s (s.mbFire r) := by
  unfold State.mbFire
  repeat' first | (with_reducible first | exact onlyChanges_refl _ _ | apply onLreg_in | apply onBat_in | decide) | extract_lets | dsimp +zetaDelta only
theorem mbFire_in {L : List Part} {s₀ u₀ : State} {r : Nat} (hk : onlyChanges L s₀ u₀) (he : ([.lregions, .bat].all fun p => L.contains p) = true) : onlyChanges L s₀ (u₀.mbFire r) := onlyChanges_step hk (mbFire_changes ..) he

theorem mbNote_changes (s : State) (r kind core index pos : Nat) : onlyChanges [.lregions, .bat] s (s.mbNote r kind core index pos) := by
  unfold State.mbNote
  repeat' first | (with_reducible first | exact onlyChanges_refl _ _ | apply onlyChanges_ite | apply mbFire_in | decide) | split
theorem mbNote_in {L : List Part} {s₀ u₀ : State} {r kind core index pos : Nat} (hk : onlyChanges L s₀ u₀) (he : ([.lregions, .bat].all fun p => L.contains p) = true) : onlyChanges L s₀ (u₀.mbNote r kind core index pos) := onlyChanges_step hk (mbNote_changes ..) he

theorem onCtx_changes (s : State) (r c j : Nat) (f : CtxSt → CtxSt) : onlyChanges [.cores] s (s.onCtx r c j f) := by
  unfold State.onCtx
  repeat' first | (with_reducible first | exact onlyChanges_refl _ _ | apply onCore_in | decide) | extract_lets
theorem onCtx_in {L : List Part} {s₀ u₀ : State} {r c j : Nat} {f : CtxSt → CtxSt} (hk : onlyChanges L s₀ u₀) (he : ([.cores].all fun p => L.contains p) = true) : onlyChanges L s₀ (u₀.onCtx r c j f) := onlyChanges_step hk (onCtx_changes ..) he

theorem noteArrival_changes (s : State) (r c k n : Nat) : onlyChanges [.cores] s (s.noteArrival r c k n) := by
  unfold State.noteArrival
  repeat' first | (with_reducible first | exact onlyChanges_refl _ _ | apply onlyChanges_ite | apply onCore_in | decide) | extract_lets | split | dsimp +zetaDelta only
theorem noteArrival_in {L : List Part} {s₀ u₀ : State} {r c k n : Nat} (hk : onlyChanges L s₀ u₀) (he : ([.cores].all fun p => L.contains p) = true) : onlyChanges L s₀ (u₀.noteArrival r c k n) := onlyChanges_step hk (noteArrival_changes ..) he

theorem arrive_changes (s : State) (r c k n : Nat) : onlyChanges [.cores, .regions, .bat] s (s.arrive r c k n) := by
  unfold State.arrive
  repeat' first | (with_reducible first | exact onlyChanges_refl _ _ | apply onlyChanges_ite | apply addCtr_in | apply noteArrival_in | decide) | extract_lets | split | dsimp +zetaDelta only
theorem arrive_in {L : List Part} {s₀ u₀ : State} {r c k n : Nat} (hk : onlyChanges L s₀ u₀) (he : ([.cores, .regions, .bat].all fun p => L.contains p) = true) : onlyChanges L s₀ (u₀.arrive r c k n) := onlyChanges_step hk (arrive_changes ..) he

theorem arriveTok_changes (s : State) (r c t n : Nat) : onlyChanges [.cores, .regions, .bat] s (s.arriveTok r c t n) := by
  unfold State.arriveTok
  repeat' first | (with_reducible first | exact onlyChanges_refl _ _ | apply arrive_in | decide) | extract_lets | split
theorem arriveTok_in {L : List Part} {s₀ u₀ : State} {r c t n : Nat} (hk : onlyChanges L s₀ u₀) (he : ([.cores, .regions, .bat].all fun p => L.contains p) = true) : onlyChanges L s₀ (u₀.arriveTok r c t n) := onlyChanges_step hk (arriveTok_changes ..) he

theorem mbProgress_changes (s : State) (r k : Nat) : onlyChanges [.lregions, .bat] s (s.mbProgress r k) := by
  induction k generalizing s with
  | zero => exact onlyChanges_refl _ _
  | succ k ih =>
    unfold State.mbProgress
    extract_lets
    with_reducible apply onlyChanges_ite
    · exact onlyChanges_trans (onBat_in (onLreg_in (onlyChanges_refl _ _) (by decide)) (by decide)) (ih _)
    · exact onlyChanges_refl _ _
theorem progress_changes (s : State) (r : Nat) : onlyChanges [.lregions, .bat] s (s.progress r) := mbProgress_changes s r _
theorem progress_in {L : List Part} {s₀ u₀ : State} {r : Nat} (hk : onlyChanges L s₀ u₀) (he : ([.lregions, .bat].all fun p => L.contains p) = true) : onlyChanges L s₀ (u₀.progress r) := onlyChanges_step hk (progress_changes ..) he

/-! Numeric -/

theorem ringInsert_changes (s : State) (x : NumRec) : onlyChanges [.num] s (s.ringInsert x) := by
  unfold State.ringInsert
  repeat' first | (with_reducible first | exact onlyChanges_refl _ _ | apply onlyChanges_ite | apply onNum_in | decide) | extract_lets | split
theorem ringInsert_in {L : List Part} {s₀ u₀ : State} {x : NumRec} (hk : onlyChanges L s₀ u₀) (he : ([.num].all fun p => L.contains p) = true) : onlyChanges L s₀ (u₀.ringInsert x) := onlyChanges_step hk (ringInsert_changes ..) he

theorem gradSummary_changes (s : State) (f : BitVec 4) : onlyChanges [.lregions, .num] s (s.gradSummary f) := by
  unfold State.gradSummary
  repeat' first | (with_reducible first | exact onlyChanges_refl _ _ | apply onlyChanges_ite | apply onNum_in | apply onLreg_in | refine onlyChanges_foldl ?_ _ (fun _ _ => ?_) _ | decide) | extract_lets | split | dsimp +zetaDelta only
theorem gradSummary_in {L : List Part} {s₀ u₀ : State} {f : BitVec 4} (hk : onlyChanges L s₀ u₀) (he : ([.lregions, .num].all fun p => L.contains p) = true) : onlyChanges L s₀ (u₀.gradSummary f) := onlyChanges_step hk (gradSummary_changes ..) he

theorem triggerHold_changes (s : State) (mb : Nat) (numeric : Bool) : onlyChanges [.num] s (s.triggerHold mb numeric) := by
  unfold State.triggerHold
  repeat' first | (with_reducible first | exact onlyChanges_refl _ _ | apply onlyChanges_ite | apply onNum_in | decide) | extract_lets | split
theorem triggerHold_in {L : List Part} {s₀ u₀ : State} {mb : Nat} {numeric : Bool} (hk : onlyChanges L s₀ u₀) (he : ([.num].all fun p => L.contains p) = true) : onlyChanges L s₀ (u₀.triggerHold mb numeric) := onlyChanges_step hk (triggerHold_changes ..) he

theorem maybeHold_changes (s : State) (f : BitVec 4) (grad : Bool) (mb : Nat) : onlyChanges [.num] s (s.maybeHold f grad mb) := by
  unfold State.maybeHold
  repeat' first | (with_reducible first | exact onlyChanges_refl _ _ | apply onlyChanges_ite | apply triggerHold_in | decide) | split
theorem maybeHold_in {L : List Part} {s₀ u₀ : State} {f : BitVec 4} {grad : Bool} {mb : Nat} (hk : onlyChanges L s₀ u₀) (he : ([.num].all fun p => L.contains p) = true) : onlyChanges L s₀ (u₀.maybeHold f grad mb) := onlyChanges_step hk (maybeHold_changes ..) he

theorem finishHolds_changes (s : State) (all_ : Bool) (res0 res1 : U64) : onlyChanges [.run, .brg] s (s.finishHolds all_ res0 res1) := by
  unfold State.finishHolds
  repeat' first | (with_reducible first | exact onlyChanges_refl _ _ | apply onRun_in | apply complete_in | refine onlyChanges_foldl ?_ _ (fun _ _ => ?_) _ | decide) | extract_lets | dsimp +zetaDelta only
theorem finishHolds_in {L : List Part} {s₀ u₀ : State} {all_ : Bool} {res0 res1 : U64} (hk : onlyChanges L s₀ u₀) (he : ([.run, .brg].all fun p => L.contains p) = true) : onlyChanges L s₀ (u₀.finishHolds all_ res0 res1) := onlyChanges_step hk (finishHolds_changes ..) he

theorem writeCons_changes (s : State) (v : U32) (mbus : Bool) : onlyChanges [.settings, .num, .log] s (s.writeCons v mbus) := by
  unfold State.writeCons
  repeat' first | (with_reducible first | exact onlyChanges_refl _ _ | apply onlyChanges_ite | apply discardWrite_in | apply onNum_in | apply logHealth_in | decide) | extract_lets | split
theorem writeCons_in {L : List Part} {s₀ u₀ : State} {v : U32} {mbus : Bool} (hk : onlyChanges L s₀ u₀) (he : ([.settings, .num, .log].all fun p => L.contains p) = true) : onlyChanges L s₀ (u₀.writeCons v mbus) := onlyChanges_step hk (writeCons_changes ..) he

/-! Store -/

theorem sendStore_changes (s : State) (r : Nat) (ps : List Packet) : onlyChanges [.lregions] s (s.sendStore r ps) := by
  unfold State.sendStore
  repeat' first | (with_reducible first | exact onlyChanges_refl _ _ | apply onLreg_in | decide) | extract_lets
theorem sendStore_in {L : List Part} {s₀ u₀ : State} {r : Nat} {ps : List Packet} (hk : onlyChanges L s₀ u₀) (he : ([.lregions].all fun p => L.contains p) = true) : onlyChanges L s₀ (u₀.sendStore r ps) := onlyChanges_step hk (sendStore_changes ..) he

theorem resDiscard_changes (s : State) (lr bank line : Nat) : onlyChanges [.store, .log] s (s.resDiscard lr bank line) := by
  unfold State.resDiscard
  repeat' first | (with_reducible first | exact onlyChanges_refl _ _ | apply onStore_in | apply logHealth_in | decide) | extract_lets
theorem resDiscard_in {L : List Part} {s₀ u₀ : State} {lr bank line : Nat} (hk : onlyChanges L s₀ u₀) (he : ([.store, .log].all fun p => L.contains p) = true) : onlyChanges L s₀ (u₀.resDiscard lr bank line) := onlyChanges_step hk (resDiscard_changes ..) he

theorem snoop_changes (s : State) (lr bank line : Nat) : onlyChanges [.store, .out] s (s.snoop lr bank line) := by
  unfold State.snoop
  repeat' first | (with_reducible first | exact onlyChanges_refl _ _ | apply onStore_in | apply emitOut_in | decide) | extract_lets | split
theorem snoop_in {L : List Part} {s₀ u₀ : State} {lr bank line : Nat} (hk : onlyChanges L s₀ u₀) (he : ([.store, .out].all fun p => L.contains p) = true) : onlyChanges L s₀ (u₀.snoop lr bank line) := onlyChanges_step hk (snoop_changes ..) he

theorem queueDelta_changes (s : State) (r bank line : Nat) (data : List Byte) (stamp : Byte) (m : Option Nat) (p : Nat × Nat × Nat) : onlyChanges [.lregions, .net] s (s.queueDelta r bank line data stamp m p) := by
  unfold State.queueDelta
  repeat' first | (with_reducible first | exact onlyChanges_refl _ _ | apply onlyChanges_ite | apply onNet_in | apply onLreg_in | apply sendStore_in | decide) | extract_lets | split | dsimp +zetaDelta only
theorem queueDelta_in {L : List Part} {s₀ u₀ : State} {r bank line : Nat} {data : List Byte} {stamp : Byte} {m : Option Nat} {p : Nat × Nat × Nat} (hk : onlyChanges L s₀ u₀) (he : ([.lregions, .net].all fun p => L.contains p) = true) : onlyChanges L s₀ (u₀.queueDelta r bank line data stamp m p) := onlyChanges_step hk (queueDelta_changes ..) he

theorem outerDeltas_changes (s : State) (r bank line : Nat) (data : List Byte) (stamp : Byte) : onlyChanges [.lregions, .net] s (s.outerDeltas r bank line data stamp) := by
  unfold State.outerDeltas
  repeat' first | (with_reducible first | exact onlyChanges_refl _ _ | apply queueDelta_in | refine onlyChanges_foldl ?_ _ (fun _ _ => ?_) _ | decide) | extract_lets
theorem outerDeltas_in {L : List Part} {s₀ u₀ : State} {r bank line : Nat} {data : List Byte} {stamp : Byte} (hk : onlyChanges L s₀ u₀) (he : ([.lregions, .net].all fun p => L.contains p) = true) : onlyChanges L s₀ (u₀.outerDeltas r bank line data stamp) := onlyChanges_step hk (outerDeltas_changes ..) he

theorem orcWritten_changes (s : State) (r bank line : Nat) : onlyChanges [.orc] s (s.orcWritten r bank line) := by
  unfold State.orcWritten
  repeat' first | (with_reducible first | exact onlyChanges_refl _ _ | apply onlyChanges_ite | apply onOrc_in | decide) | extract_lets | split | dsimp +zetaDelta only
theorem orcWritten_in {L : List Part} {s₀ u₀ : State} {r bank line : Nat} (hk : onlyChanges L s₀ u₀) (he : ([.orc].all fun p => L.contains p) = true) : onlyChanges L s₀ (u₀.orcWritten r bank line) := onlyChanges_step hk (orcWritten_changes ..) he

theorem changeLine_changes (s : State) (r bank line : Nat) (data : List Byte) (stamp : Byte) : onlyChanges [.lregions, .net, .store, .orc] s (s.changeLine r bank line data stamp) := by
  unfold State.changeLine
  repeat' first | (with_reducible first | exact onlyChanges_refl _ _ | apply onlyChanges_ite | apply writeStore_in | apply setStamp_in | apply queueDelta_in | apply outerDeltas_in | apply orcWritten_in | decide) | extract_lets | split | dsimp +zetaDelta only
theorem changeLine_in {L : List Part} {s₀ u₀ : State} {r bank line : Nat} {data : List Byte} {stamp : Byte} (hk : onlyChanges L s₀ u₀) (he : ([.lregions, .net, .store, .orc].all fun p => L.contains p) = true) : onlyChanges L s₀ (u₀.changeLine r bank line data stamp) := onlyChanges_step hk (changeLine_changes ..) he

theorem writeLinePart_changes (s : State) (r bank line off : Nat) (b : List Byte) : onlyChanges [.lregions, .net, .store, .orc] s (s.writeLinePart r bank line off b) := by
  unfold State.writeLinePart
  repeat' first | (with_reducible first | exact onlyChanges_refl _ _ | apply changeLine_in | decide)
theorem writeLinePart_in {L : List Part} {s₀ u₀ : State} {r bank line off : Nat} {b : List Byte} (hk : onlyChanges L s₀ u₀) (he : ([.lregions, .net, .store, .orc].all fun p => L.contains p) = true) : onlyChanges L s₀ (u₀.writeLinePart r bank line off b) := onlyChanges_step hk (writeLinePart_changes ..) he

theorem writeExchange_changes (s : State) (r bank line off : Nat) (b : List Byte) : onlyChanges [.lregions, .net, .store, .orc, .out] s (s.writeExchange r bank line off b) := by
  unfold State.writeExchange
  repeat' first | (with_reducible first | exact onlyChanges_refl _ _ | apply snoop_in | apply writeLinePart_in | decide)
theorem writeExchange_in {L : List Part} {s₀ u₀ : State} {r bank line off : Nat} {b : List Byte} (hk : onlyChanges L s₀ u₀) (he : ([.lregions, .net, .store, .orc, .out].all fun p => L.contains p) = true) : onlyChanges L s₀ (u₀.writeExchange r bank line off b) := onlyChanges_step hk (writeExchange_changes ..) he

theorem deltaAcked_changes (s : State) (r tag : Nat) : onlyChanges [.lregions] s (s.deltaAcked r tag) := by
  unfold State.deltaAcked
  repeat' first | (with_reducible first | exact onlyChanges_refl _ _ | apply onlyChanges_ite | apply onLreg_in | apply sendStore_in | decide) | extract_lets | split | dsimp +zetaDelta only
theorem deltaAcked_in {L : List Part} {s₀ u₀ : State} {r tag : Nat} (hk : onlyChanges L s₀ u₀) (he : ([.lregions].all fun p => L.contains p) = true) : onlyChanges L s₀ (u₀.deltaAcked r tag) := onlyChanges_step hk (deltaAcked_changes ..) he

theorem ackDelta_changes (s : State) (r : Nat) (e : DeltaEntry) : onlyChanges [.lregions, .bat] s (s.ackDelta r e) := by
  unfold State.ackDelta
  repeat' first | (with_reducible first | exact onlyChanges_refl _ _ | apply onlyChanges_ite | apply sendEmits_in | apply sendStore_in | decide) | split
theorem ackDelta_in {L : List Part} {s₀ u₀ : State} {r : Nat} {e : DeltaEntry} (hk : onlyChanges L s₀ u₀) (he : ([.lregions, .bat].all fun p => L.contains p) = true) : onlyChanges L s₀ (u₀.ackDelta r e) := onlyChanges_step hk (ackDelta_changes ..) he

theorem applyDelta_changes (s : State) (r : Nat) (e : DeltaEntry) (d : List Byte) : onlyChanges [.lregions, .bat, .store] s (s.applyDelta r e d) := by
  unfold State.applyDelta
  repeat' first | (with_reducible first | exact onlyChanges_refl _ _ | apply writeStore_in | apply setStamp_in | apply ackDelta_in | decide) | extract_lets | dsimp +zetaDelta only
theorem applyDelta_in {L : List Part} {s₀ u₀ : State} {r : Nat} {e : DeltaEntry} {d : List Byte} (hk : onlyChanges L s₀ u₀) (he : ([.lregions, .bat, .store].all fun p => L.contains p) = true) : onlyChanges L s₀ (u₀.applyDelta r e d) := onlyChanges_step hk (applyDelta_changes ..) he

theorem takeDelta_changes (s : State) (r : Nat) (p : Packet) : onlyChanges [.lregions, .bat, .store] s (s.takeDelta r p) := by
  unfold State.takeDelta
  repeat' first | (with_reducible first | exact onlyChanges_refl _ _ | apply onLreg_in | apply applyDelta_in | decide) | extract_lets | split | dsimp +zetaDelta only
theorem takeDelta_in {L : List Part} {s₀ u₀ : State} {r : Nat} {p : Packet} (hk : onlyChanges L s₀ u₀) (he : ([.lregions, .bat, .store].all fun p => L.contains p) = true) : onlyChanges L s₀ (u₀.takeDelta r p) := onlyChanges_step hk (takeDelta_changes ..) he

theorem takeStore_changes {s t : State} {r : Nat} {p : Packet → Bool} {x : Packet} (h : s.takeStore r p = some (x, t)) : onlyChanges [.lregions] s t := by
  unfold State.takeStore at h
  split at h
  · simp only [Option.some.injEq, Prod.mk.injEq] at h; obtain ⟨-, rfl⟩ := h; exact onLreg_changes ..
  · split at h
    · simp only [Option.some.injEq, Prod.mk.injEq] at h; obtain ⟨-, rfl⟩ := h; exact onLreg_changes ..
    · cases h
theorem deltaArrival_changes (s : State) (r : Nat) : onlyChanges [.lregions, .bat, .store] s (s.deltaArrival r) := by
  unfold State.deltaArrival
  split
  · exact onlyChanges_refl _ _
  · rename_i h
    have k := onlyChanges_step (l := [.lregions, .bat, .store]) (onlyChanges_refl _ s) (takeStore_changes h) (by decide)
    split
    · exact deltaAcked_in k (by decide)
    · exact takeDelta_in k (by decide)
theorem deltaArrival_in {L : List Part} {s₀ u₀ : State} {r : Nat} (hk : onlyChanges L s₀ u₀) (he : ([.lregions, .bat, .store].all fun p => L.contains p) = true) : onlyChanges L s₀ (u₀.deltaArrival r) := onlyChanges_step hk (deltaArrival_changes ..) he

theorem sendUnitRecord_changes (s : State) (r unit : Nat) (tileId w0 w1 : U32) : onlyChanges [.bat] s (s.sendUnitRecord r unit tileId w0 w1) := by
  unfold State.sendUnitRecord
  repeat' first | (with_reducible first | exact onlyChanges_refl _ _ | apply onlyChanges_ite | apply onBat_in | decide) | extract_lets | split | dsimp +zetaDelta only
theorem sendUnitRecord_in {L : List Part} {s₀ u₀ : State} {r unit : Nat} {tileId w0 w1 : U32} (hk : onlyChanges L s₀ u₀) (he : ([.bat].all fun p => L.contains p) = true) : onlyChanges L s₀ (u₀.sendUnitRecord r unit tileId w0 w1) := onlyChanges_step hk (sendUnitRecord_changes ..) he

theorem writeWorking_changes (s : State) (r : Nat) (sh : Shard) (j : Nat) (m : List Byte) : onlyChanges [.store] s (s.writeWorking r sh j m) := by
  unfold State.writeWorking
  repeat' first | (with_reducible first | exact onlyChanges_refl _ _ | apply writeStore_in | apply setStamp_in | decide) | extract_lets | split
theorem writeWorking_in {L : List Part} {s₀ u₀ : State} {r : Nat} {sh : Shard} {j : Nat} {m : List Byte} (hk : onlyChanges L s₀ u₀) (he : ([.store].all fun p => L.contains p) = true) : onlyChanges L s₀ (u₀.writeWorking r sh j m) := onlyChanges_step hk (writeWorking_changes ..) he

theorem writeMaster_changes (s : State) (r : Nat) (sh : Shard) (j : Nat) (m : List Byte) : onlyChanges [.lregions, .net, .store, .orc] s (s.writeMaster r sh j m) := by
  unfold State.writeMaster
  repeat' first | (with_reducible first | exact onlyChanges_refl _ _ | apply writeLinePart_in | apply writeWorking_in | decide) | extract_lets | split
theorem writeMaster_in {L : List Part} {s₀ u₀ : State} {r : Nat} {sh : Shard} {j : Nat} {m : List Byte} (hk : onlyChanges L s₀ u₀) (he : ([.lregions, .net, .store, .orc].all fun p => L.contains p) = true) : onlyChanges L s₀ (u₀.writeMaster r sh j m) := onlyChanges_step hk (writeMaster_changes ..) he

theorem corrected_changes (s : State) (p bank line sym : Nat) : onlyChanges [.store] s (s.corrected p bank line sym) := by
  unfold State.corrected
  repeat' first | (with_reducible first | exact onlyChanges_refl _ _ | apply onlyChanges_ite | apply onStore_in | decide) | extract_lets | split | dsimp +zetaDelta only
theorem corrected_in {L : List Part} {s₀ u₀ : State} {p bank line sym : Nat} (hk : onlyChanges L s₀ u₀) (he : ([.store].all fun p => L.contains p) = true) : onlyChanges L s₀ (u₀.corrected p bank line sym) := onlyChanges_step hk (corrected_changes ..) he

/-! Batten -/

theorem deliverEmit_changes (s : State) (e : Emit) : onlyChanges [.cores, .lregions, .regions, .run, .bat, .dma] s (s.deliverEmit e) := by
  unfold State.deliverEmit
  repeat' first | (with_reducible first | exact onlyChanges_refl _ _ | apply onlyChanges_ite | apply onRun_in | apply count_in | apply arrive_in | apply deltaAcked_in | apply addSiCtr_in | apply onChan_in | apply syncOvf_in | apply illegal_in | refine onlyChanges_foldl ?_ _ (fun _ _ => ?_) _ | decide) | extract_lets | split | dsimp +zetaDelta only
theorem deliverEmit_in {L : List Part} {s₀ u₀ : State} {e : Emit} (hk : onlyChanges L s₀ u₀) (he : ([.cores, .lregions, .regions, .run, .bat, .dma].all fun p => L.contains p) = true) : onlyChanges L s₀ (u₀.deliverEmit e) := onlyChanges_step hk (deliverEmit_changes ..) he

theorem takeEmit_changes (s : State) (i : Nat) : onlyChanges [.cores, .lregions, .regions, .run, .bat, .dma] s (s.takeEmit i) := by
  unfold State.takeEmit
  repeat' first | (with_reducible first | exact onlyChanges_refl _ _ | apply onBat_in | apply deliverEmit_in | decide) | extract_lets | split
theorem takeEmit_in {L : List Part} {s₀ u₀ : State} {i : Nat} (hk : onlyChanges L s₀ u₀) (he : ([.cores, .lregions, .regions, .run, .bat, .dma].all fun p => L.contains p) = true) : onlyChanges L s₀ (u₀.takeEmit i) := onlyChanges_step hk (takeEmit_changes ..) he

theorem report_changes (s : State) (f : FaultRep) : onlyChanges [.bat] s (s.report f) := by
  unfold State.report
  repeat' first | (with_reducible first | exact onlyChanges_refl _ _ | apply onBat_in | decide) | extract_lets
theorem report_in {L : List Part} {s₀ u₀ : State} {f : FaultRep} (hk : onlyChanges L s₀ u₀) (he : ([.bat].all fun p => L.contains p) = true) : onlyChanges L s₀ (u₀.report f) := onlyChanges_step hk (report_changes ..) he

theorem reportCore_changes (s : State) (p pc cls : Nat) : onlyChanges [.bat] s (s.reportCore p pc cls) := by
  unfold State.reportCore
  repeat' first | (with_reducible first | exact onlyChanges_refl _ _ | apply onlyChanges_ite | apply report_in | decide) | split
theorem reportCore_in {L : List Part} {s₀ u₀ : State} {p pc cls : Nat} (hk : onlyChanges L s₀ u₀) (he : ([.bat].all fun p => L.contains p) = true) : onlyChanges L s₀ (u₀.reportCore p pc cls) := onlyChanges_step hk (reportCore_changes ..) he

theorem sendGroup_changes (s : State) (r c port t : Nat) (g : List Byte) : onlyChanges [.cores] s (s.sendGroup r c port t g) := by
  unfold State.sendGroup
  repeat' first | (with_reducible first | exact onlyChanges_refl _ _ | apply onCore_in | decide) | extract_lets | split
theorem sendGroup_in {L : List Part} {s₀ u₀ : State} {r c port t : Nat} {g : List Byte} (hk : onlyChanges L s₀ u₀) (he : ([.cores].all fun p => L.contains p) = true) : onlyChanges L s₀ (u₀.sendGroup r c port t g) := onlyChanges_step hk (sendGroup_changes ..) he

theorem passEntry_changes (s : State) (r c k : Nat) : onlyChanges [.cores, .regions] s (s.passEntry r c k) := by
  unfold State.passEntry
  repeat' first | (with_reducible first | exact onlyChanges_refl _ _ | apply onlyChanges_ite | apply onCore_in | apply count_in | decide) | extract_lets | split | dsimp +zetaDelta only
theorem passEntry_in {L : List Part} {s₀ u₀ : State} {r c k : Nat} (hk : onlyChanges L s₀ u₀) (he : ([.cores, .regions].all fun p => L.contains p) = true) : onlyChanges L s₀ (u₀.passEntry r c k) := onlyChanges_step hk (passEntry_changes ..) he

theorem netEvent_changes (s : State) (p cluster port : Nat) (rtx : Bool) : onlyChanges [.regions] s (s.netEvent p cluster port rtx) := by
  unfold State.netEvent
  repeat' first | (with_reducible first | exact onlyChanges_refl _ _ | apply onlyChanges_ite | apply onReg_in | decide) | extract_lets | split | dsimp +zetaDelta only
theorem netEvent_in {L : List Part} {s₀ u₀ : State} {p cluster port : Nat} {rtx : Bool} (hk : onlyChanges L s₀ u₀) (he : ([.regions].all fun p => L.contains p) = true) : onlyChanges L s₀ (u₀.netEvent p cluster port rtx) := onlyChanges_step hk (netEvent_changes ..) he

theorem runEntry_changes (s : State) (r c : Nat) (b : BeatEntry) (t : Nat) (err : LinkErr) : onlyChanges [.sram, .cores, .regions, .bat, .store] s (s.runEntry r c b t err) := by
  unfold State.runEntry
  repeat' first | (with_reducible first | exact onlyChanges_refl _ _ | apply onlyChanges_ite | apply sendGroup_in | apply arriveTok_in | apply onCore_in | apply reportCore_in | apply corrected_in | apply netEvent_in | apply writeSram_in | decide) | extract_lets | split | dsimp +zetaDelta only
theorem runEntry_in {L : List Part} {s₀ u₀ : State} {r c : Nat} {b : BeatEntry} {t : Nat} {err : LinkErr} (hk : onlyChanges L s₀ u₀) (he : ([.sram, .cores, .regions, .bat, .store].all fun p => L.contains p) = true) : onlyChanges L s₀ (u₀.runEntry r c b t err) := onlyChanges_step hk (runEntry_changes ..) he

/-! Faults -/

theorem startRewind_changes (s : State) : onlyChanges [.run, .flt] s (s.startRewind) := by
  unfold State.startRewind
  repeat' first | (with_reducible first | exact onlyChanges_refl _ _ | apply onlyChanges_ite | apply onFlt_in | apply onRun_in | decide) | extract_lets | split
theorem startRewind_in {L : List Part} {s₀ u₀ : State} (hk : onlyChanges L s₀ u₀) (he : ([.run, .flt].all fun p => L.contains p) = true) : onlyChanges L s₀ (u₀.startRewind) := onlyChanges_step hk (startRewind_changes ..) he

theorem discardSlab_changes (s : State) : onlyChanges [.cores, .lregions, .bat, .net, .eng] s s.discardSlab := by
  constructor; intro p hp; cases p <;> first | rfl | (exfalso; revert hp; decide)
theorem discardSlab_in {L : List Part} {s₀ u₀ : State} (hk : onlyChanges L s₀ u₀) (he : ([.cores, .lregions, .bat, .net, .eng].all fun p => L.contains p) = true) : onlyChanges L s₀ u₀.discardSlab := onlyChanges_step hk (discardSlab_changes ..) he

theorem restore_changes (s : State) : onlyChanges [.sram, .cores, .lregions, .num, .run, .dma, .flt] s s.restore := by
  unfold State.restore
  split
  · exact onlyChanges_refl _ _
  · extract_lets
    refine onFlt_in (onNum_in (onRun_in (onlyChanges_foldl ?_ _ (fun _ _ => onLreg_in (onlyChanges_refl _ _) (by decide)) _) (by decide)) (by decide)) (by decide)
    constructor; intro p hp; cases p <;> first | rfl | (exfalso; revert hp; decide)
theorem restore_in {L : List Part} {s₀ u₀ : State} (hk : onlyChanges L s₀ u₀) (he : ([.sram, .cores, .lregions, .num, .run, .dma, .flt].all fun p => L.contains p) = true) : onlyChanges L s₀ (u₀.restore) := onlyChanges_step hk (restore_changes ..) he

theorem holdFor_changes (s : State) (cause : Nat) : onlyChanges [.run] s (s.holdFor cause) := by
  unfold State.holdFor
  repeat' first | (with_reducible first | exact onlyChanges_refl _ _ | apply onlyChanges_ite | apply onRun_in | decide) | extract_lets | split | dsimp +zetaDelta only
theorem holdFor_in {L : List Part} {s₀ u₀ : State} {cause : Nat} (hk : onlyChanges L s₀ u₀) (he : ([.run].all fun p => L.contains p) = true) : onlyChanges L s₀ (u₀.holdFor cause) := onlyChanges_step hk (holdFor_changes ..) he

theorem rejoin_changes (s : State) : onlyChanges [.flt] s s.rejoin := by
  unfold State.rejoin
  repeat' first | (with_reducible first | exact onlyChanges_refl _ _ | apply onlyChanges_ite | apply onFlt_in | decide) | extract_lets | split | dsimp +zetaDelta only
theorem rejoin_in {L : List Part} {s₀ u₀ : State} (hk : onlyChanges L s₀ u₀) (he : ([.flt].all fun p => L.contains p) = true) : onlyChanges L s₀ u₀.rejoin := onlyChanges_step hk (rejoin_changes ..) he

theorem partnerLoss_changes (s : State) (m : Nat) : onlyChanges [.run, .brg, .flt, .log, .pwr] s (s.partnerLoss m) := by
  unfold State.partnerLoss
  repeat' first | (with_reducible first | exact onlyChanges_refl _ _ | apply onlyChanges_ite | apply logHealth_in | apply event_in | apply onFlt_in | apply holdFor_in | apply startRewind_in | apply rejoin_in | decide) | extract_lets | split | dsimp +zetaDelta only
theorem partnerLoss_in {L : List Part} {s₀ u₀ : State} {m : Nat} (hk : onlyChanges L s₀ u₀) (he : ([.run, .brg, .flt, .log, .pwr].all fun p => L.contains p) = true) : onlyChanges L s₀ (u₀.partnerLoss m) := onlyChanges_step hk (partnerLoss_changes ..) he

theorem sparesExhausted_changes (s : State) : onlyChanges [.run, .brg, .flt, .log, .pwr] s (s.sparesExhausted) := by
  unfold State.sparesExhausted
  repeat' first | (with_reducible first | exact onlyChanges_refl _ _ | apply logHealth_in | apply event_in | apply onFlt_in | apply holdFor_in | decide) | extract_lets | dsimp +zetaDelta only
theorem sparesExhausted_in {L : List Part} {s₀ u₀ : State} (hk : onlyChanges L s₀ u₀) (he : ([.run, .brg, .flt, .log, .pwr].all fun p => L.contains p) = true) : onlyChanges L s₀ (u₀.sparesExhausted) := onlyChanges_step hk (sparesExhausted_changes ..) he

theorem stateLost_changes (s : State) (shards : List (Nat × Nat)) : onlyChanges [.run, .brg, .flt, .log, .pwr] s (s.stateLost shards) := by
  unfold State.stateLost
  repeat' first | (with_reducible first | exact onlyChanges_refl _ _ | apply logHealth_in | apply event_in | apply onFlt_in | apply holdFor_in | refine onlyChanges_foldl ?_ _ (fun _ _ => ?_) _ | decide) | extract_lets | dsimp +zetaDelta only
theorem stateLost_in {L : List Part} {s₀ u₀ : State} {shards : List (Nat × Nat)} (hk : onlyChanges L s₀ u₀) (he : ([.run, .brg, .flt, .log, .pwr].all fun p => L.contains p) = true) : onlyChanges L s₀ (u₀.stateLost shards) := onlyChanges_step hk (stateLost_changes ..) he

/-! Orchard -/

theorem noteWear_changes (s : State) : onlyChanges [.orc, .log] s s.noteWear := by
  unfold State.noteWear
  repeat' first | (with_reducible first | exact onlyChanges_refl _ _ | apply onlyChanges_ite | apply logHealth_in | apply onOrc_in | decide) | extract_lets | split | dsimp +zetaDelta only
theorem noteWear_in {L : List Part} {s₀ u₀ : State} (hk : onlyChanges L s₀ u₀) (he : ([.orc, .log].all fun p => L.contains p) = true) : onlyChanges L s₀ u₀.noteWear := onlyChanges_step hk (noteWear_changes ..) he

theorem writeBack_changes (s : State) (r : Nat) (t : OrcTable) (o : Nat × Nat × Nat × Nat) (x : OrcRow) : onlyChanges [.orc, .log] s (s.writeBack r t o x) := by
  unfold State.writeBack
  repeat' first | (with_reducible first | exact onlyChanges_refl _ _ | apply onlyChanges_ite | apply onOrc_in | apply noteWear_in | decide) | extract_lets | split | dsimp +zetaDelta only
theorem writeBack_in {L : List Part} {s₀ u₀ : State} {r : Nat} {t : OrcTable} {o : Nat × Nat × Nat × Nat} {x : OrcRow} (hk : onlyChanges L s₀ u₀) (he : ([.orc, .log].all fun p => L.contains p) = true) : onlyChanges L s₀ (u₀.writeBack r t o x) := onlyChanges_step hk (writeBack_changes ..) he

theorem writeVectors_changes (s : State) (r : Nat) (t : OrcTable) (o : Nat × Nat × Nat × Nat) (row place : Nat) : onlyChanges [.sram] s (s.writeVectors r t o row place) := by
  unfold State.writeVectors
  repeat' first | (with_reducible first | exact onlyChanges_refl _ _ | apply writeSram_in | refine onlyChanges_foldl ?_ _ (fun _ _ => ?_) _ | decide) | extract_lets | split | dsimp +zetaDelta only
theorem writeVectors_in {L : List Part} {s₀ u₀ : State} {r : Nat} {t : OrcTable} {o : Nat × Nat × Nat × Nat} {row place : Nat} (hk : onlyChanges L s₀ u₀) (he : ([.sram].all fun p => L.contains p) = true) : onlyChanges L s₀ (u₀.writeVectors r t o row place) := onlyChanges_step hk (writeVectors_changes ..) he

theorem loseDie_changes (s : State) (die cls : Nat) : onlyChanges [.run, .brg, .orc, .flt, .log, .pwr] s (s.loseDie die cls) := by
  unfold State.loseDie
  repeat' first | (with_reducible first | exact onlyChanges_refl _ _ | apply onlyChanges_ite | apply onOrc_in | apply logHealth_in | apply sparesExhausted_in | decide) | extract_lets | split | dsimp +zetaDelta only
theorem loseDie_in {L : List Part} {s₀ u₀ : State} {die cls : Nat} (hk : onlyChanges L s₀ u₀) (he : ([.run, .brg, .orc, .flt, .log, .pwr].all fun p => L.contains p) = true) : onlyChanges L s₀ (u₀.loseDie die cls) := onlyChanges_step hk (loseDie_changes ..) he

/-! Lane -/

theorem onLane_changes (s : State) (e l : Nat) (f : LaneSt → LaneSt) : onlyChanges [.eng] s (s.onLane e l f) := by
  unfold State.onLane
  repeat' first | (with_reducible first | exact onlyChanges_refl _ _ | apply onEng_in | decide) | extract_lets
theorem onLane_in {L : List Part} {s₀ u₀ : State} {e l : Nat} {f : LaneSt → LaneSt} (hk : onlyChanges L s₀ u₀) (he : ([.eng].all fun p => L.contains p) = true) : onlyChanges L s₀ (u₀.onLane e l f) := onlyChanges_step hk (onLane_changes ..) he

theorem onLink_changes (s : State) (e j : Nat) (f : LinkSt → LinkSt) : onlyChanges [.eng] s (s.onLink e j f) := by
  unfold State.onLink
  repeat' first | (with_reducible first | exact onlyChanges_refl _ _ | apply onEng_in | decide) | extract_lets
theorem onLink_in {L : List Part} {s₀ u₀ : State} {e j : Nat} {f : LinkSt → LinkSt} (hk : onlyChanges L s₀ u₀) (he : ([.eng].all fun p => L.contains p) = true) : onlyChanges L s₀ (u₀.onLink e j f) := onlyChanges_step hk (onLink_changes ..) he

theorem linkDown_changes (s : State) (e j : Nat) : onlyChanges [.eng, .log] s (s.linkDown e j) := by
  unfold State.linkDown
  repeat' first | (with_reducible first | exact onlyChanges_refl _ _ | apply onlyChanges_ite | apply onLink_in | apply logHealth_in | decide) | extract_lets | split | dsimp +zetaDelta only
theorem linkDown_in {L : List Part} {s₀ u₀ : State} {e j : Nat} (hk : onlyChanges L s₀ u₀) (he : ([.eng, .log].all fun p => L.contains p) = true) : onlyChanges L s₀ (u₀.linkDown e j) := onlyChanges_step hk (linkDown_changes ..) he

theorem linkWake_changes (s : State) (e j : Nat) : onlyChanges [.eng] s (s.linkWake e j) := by
  unfold State.linkWake
  repeat' first | (with_reducible first | exact onlyChanges_refl _ _ | apply onlyChanges_ite | apply onLink_in | decide) | extract_lets | split
theorem linkWake_in {L : List Part} {s₀ u₀ : State} {e j : Nat} (hk : onlyChanges L s₀ u₀) (he : ([.eng].all fun p => L.contains p) = true) : onlyChanges L s₀ (u₀.linkWake e j) := onlyChanges_step hk (linkWake_changes ..) he

theorem linkStarve_changes (s : State) (e j : Nat) : onlyChanges [.eng, .log] s (s.linkStarve e j) := by
  unfold State.linkStarve
  repeat' first | (with_reducible first | exact onlyChanges_refl _ _ | apply onlyChanges_ite | apply linkDown_in | decide) | split
theorem linkStarve_in {L : List Part} {s₀ u₀ : State} {e j : Nat} (hk : onlyChanges L s₀ u₀) (he : ([.eng, .log].all fun p => L.contains p) = true) : onlyChanges L s₀ (u₀.linkStarve e j) := onlyChanges_step hk (linkStarve_changes ..) he

theorem keepFrame_changes (s : State) (e j : Nat) (f : SentFrame) : onlyChanges [.eng] s (s.keepFrame e j f) := by
  unfold State.keepFrame
  repeat' first | (with_reducible first | exact onlyChanges_refl _ _ | apply onlyChanges_ite | apply onLink_in | decide) | extract_lets | split | dsimp +zetaDelta only
theorem keepFrame_in {L : List Part} {s₀ u₀ : State} {e j : Nat} {f : SentFrame} (hk : onlyChanges L s₀ u₀) (he : ([.eng].all fun p => L.contains p) = true) : onlyChanges L s₀ (u₀.keepFrame e j f) := onlyChanges_step hk (keepFrame_changes ..) he

theorem linkAnnounce_changes (s : State) (e j : Nat) : onlyChanges [.eng, .out] s (s.linkAnnounce e j) := by
  unfold State.linkAnnounce
  repeat' first | (with_reducible first | exact onlyChanges_refl _ _ | apply onlyChanges_ite | apply keepFrame_in | apply onLink_in | apply emitOut_in | decide) | extract_lets | split | dsimp +zetaDelta only
theorem linkAnnounce_in {L : List Part} {s₀ u₀ : State} {e j : Nat} (hk : onlyChanges L s₀ u₀) (he : ([.eng, .out].all fun p => L.contains p) = true) : onlyChanges L s₀ (u₀.linkAnnounce e j) := onlyChanges_step hk (linkAnnounce_changes ..) he

theorem setLane_changes (s : State) (e l : Nat) (f : LaneSt → LaneSt) : onlyChanges [.eng, .log, .out] s (s.setLane e l f) := by
  unfold State.setLane
  repeat' first | (with_reducible first | exact onlyChanges_refl _ _ | apply onlyChanges_ite | apply onLane_in | apply linkStarve_in | apply linkWake_in | apply linkAnnounce_in | decide) | extract_lets | split | dsimp +zetaDelta only
theorem setLane_in {L : List Part} {s₀ u₀ : State} {e l : Nat} {f : LaneSt → LaneSt} (hk : onlyChanges L s₀ u₀) (he : ([.eng, .log, .out].all fun p => L.contains p) = true) : onlyChanges L s₀ (u₀.setLane e l f) := onlyChanges_step hk (setLane_changes ..) he

theorem retireLane_changes (s : State) (e l errs partnerErrs : Nat) : onlyChanges [.eng, .log, .out] s (s.retireLane e l errs partnerErrs) := by
  unfold State.retireLane
  repeat' first | (with_reducible first | exact onlyChanges_refl _ _ | apply onlyChanges_ite | apply setLane_in | apply onEng_in | apply logHealth_in | decide) | extract_lets | split | dsimp +zetaDelta only
theorem retireLane_in {L : List Part} {s₀ u₀ : State} {e l errs partnerErrs : Nat} (hk : onlyChanges L s₀ u₀) (he : ([.eng, .log, .out].all fun p => L.contains p) = true) : onlyChanges L s₀ (u₀.retireLane e l errs partnerErrs) := onlyChanges_step hk (retireLane_changes ..) he

theorem failAttempt_changes (s : State) (e l errs partnerErrs : Nat) : onlyChanges [.eng, .log, .out] s (s.failAttempt e l errs partnerErrs) := by
  unfold State.failAttempt
  repeat' first | (with_reducible first | exact onlyChanges_refl _ _ | apply onlyChanges_ite | apply setLane_in | apply retireLane_in | decide) | extract_lets | split | dsimp +zetaDelta only
theorem failAttempt_in {L : List Part} {s₀ u₀ : State} {e l errs partnerErrs : Nat} (hk : onlyChanges L s₀ u₀) (he : ([.eng, .log, .out].all fun p => L.contains p) = true) : onlyChanges L s₀ (u₀.failAttempt e l errs partnerErrs) := onlyChanges_step hk (failAttempt_changes ..) he

theorem darken_changes (s : State) (e l : Nat) : onlyChanges [.eng, .log, .out] s (s.darken e l) := by
  unfold State.darken
  repeat' first | (with_reducible first | exact onlyChanges_refl _ _ | apply onlyChanges_ite | apply setLane_in | decide) | extract_lets | split | dsimp +zetaDelta only
theorem darken_in {L : List Part} {s₀ u₀ : State} {e l : Nat} (hk : onlyChanges L s₀ u₀) (he : ([.eng, .log, .out].all fun p => L.contains p) = true) : onlyChanges L s₀ (u₀.darken e l) := onlyChanges_step hk (darken_changes ..) he

/-! Link -/

theorem resend_changes (s : State) (e j : Nat) (fs : List SentFrame) : onlyChanges [.out] s (s.resend e j fs) := by
  unfold State.resend
  repeat' first | (with_reducible first | exact onlyChanges_refl _ _ | apply onlyChanges_ite | apply emitOut_in | refine onlyChanges_foldl ?_ _ (fun _ _ => ?_) _ | decide) | extract_lets | split | dsimp +zetaDelta only
theorem resend_in {L : List Part} {s₀ u₀ : State} {e j : Nat} {fs : List SentFrame} (hk : onlyChanges L s₀ u₀) (he : ([.out].all fun p => L.contains p) = true) : onlyChanges L s₀ (u₀.resend e j fs) := onlyChanges_step hk (resend_changes ..) he

theorem replayLink_changes (s : State) (e j : Nat) : onlyChanges [.eng, .log, .out] s (s.replayLink e j) := by
  unfold State.replayLink
  repeat' first | (with_reducible first | exact onlyChanges_refl _ _ | apply onlyChanges_ite | apply linkDown_in | apply linkWake_in | apply onLink_in | apply onEng_in | apply resend_in | decide) | extract_lets | split | dsimp +zetaDelta only
theorem replayLink_in {L : List Part} {s₀ u₀ : State} {e j : Nat} (hk : onlyChanges L s₀ u₀) (he : ([.eng, .log, .out].all fun p => L.contains p) = true) : onlyChanges L s₀ (u₀.replayLink e j) := onlyChanges_step hk (replayLink_changes ..) he

theorem retireMarked_changes (s : State) (e j : Nat) : onlyChanges [.eng, .log, .out] s (s.retireMarked e j) := by
  unfold State.retireMarked
  repeat' first | (with_reducible first | exact onlyChanges_refl _ _ | apply onlyChanges_ite | apply retireLane_in | refine onlyChanges_foldl ?_ _ (fun _ _ => ?_) _ | decide) | extract_lets | split | dsimp +zetaDelta only
theorem retireMarked_in {L : List Part} {s₀ u₀ : State} {e j : Nat} (hk : onlyChanges L s₀ u₀) (he : ([.eng, .log, .out].all fun p => L.contains p) = true) : onlyChanges L s₀ (u₀.retireMarked e j) := onlyChanges_step hk (retireMarked_changes ..) he

theorem identified_changes (s : State) (e j : Nat) (f : IdFrame) : onlyChanges [.eng, .flt] s (s.identified e j f) := by
  unfold State.identified
  repeat' first | (with_reducible first | exact onlyChanges_refl _ _ | apply onlyChanges_ite | apply onFlt_in | apply onLink_in | apply onEng_in | refine onlyChanges_foldl ?_ _ (fun _ _ => ?_) _ | decide) | extract_lets | split | dsimp +zetaDelta only
theorem identified_in {L : List Part} {s₀ u₀ : State} {e j : Nat} {f : IdFrame} (hk : onlyChanges L s₀ u₀) (he : ([.eng, .flt].all fun p => L.contains p) = true) : onlyChanges L s₀ (u₀.identified e j f) := onlyChanges_step hk (identified_changes ..) he

theorem redeclareLink_changes (s : State) (old : Option LinkDecl) (e : Engine) (j : Nat) : onlyChanges [.eng, .log, .out] s (s.redeclareLink old e j) := by
  unfold State.redeclareLink
  repeat' first | (with_reducible first | exact onlyChanges_refl _ _ | apply onlyChanges_ite | apply onLink_in | apply emitOut_in | apply linkStarve_in | apply linkWake_in | decide) | extract_lets | split | dsimp +zetaDelta only
theorem redeclareLink_in {L : List Part} {s₀ u₀ : State} {old : Option LinkDecl} {e : Engine} {j : Nat} (hk : onlyChanges L s₀ u₀) (he : ([.eng, .log, .out].all fun p => L.contains p) = true) : onlyChanges L s₀ (u₀.redeclareLink old e j) := onlyChanges_step hk (redeclareLink_changes ..) he

theorem declareLinks_changes (s : State) (c : LinkCourse) : onlyChanges [.cfg, .eng, .log, .out] s (s.declareLinks c) := by
  unfold State.declareLinks
  repeat' first | (with_reducible first | exact onlyChanges_refl _ _ | apply onlyChanges_ite | apply onCfg_in | apply redeclareLink_in | refine onlyChanges_foldl ?_ _ (fun _ _ => ?_) _ | decide) | extract_lets | split | dsimp +zetaDelta only
theorem declareLinks_in {L : List Part} {s₀ u₀ : State} {c : LinkCourse} (hk : onlyChanges L s₀ u₀) (he : ([.cfg, .eng, .log, .out].all fun p => L.contains p) = true) : onlyChanges L s₀ (u₀.declareLinks c) := onlyChanges_step hk (declareLinks_changes ..) he

theorem askReplay_changes (s : State) (e j : Nat) : onlyChanges [.eng, .out] s (s.askReplay e j) := by
  unfold State.askReplay
  repeat' first | (with_reducible first | exact onlyChanges_refl _ _ | apply onlyChanges_ite | apply onLink_in | apply emitOut_in | decide) | extract_lets | split | dsimp +zetaDelta only
theorem askReplay_in {L : List Part} {s₀ u₀ : State} {e j : Nat} (hk : onlyChanges L s₀ u₀) (he : ([.eng, .out].all fun p => L.contains p) = true) : onlyChanges L s₀ (u₀.askReplay e j) := onlyChanges_step hk (askReplay_changes ..) he

theorem ackFrame_changes (s : State) (e j : Nat) : onlyChanges [.eng, .out] s (s.ackFrame e j) := by
  unfold State.ackFrame
  repeat' first | (with_reducible first | exact onlyChanges_refl _ _ | apply onlyChanges_ite | apply onLink_in | apply emitOut_in | decide) | extract_lets | split | dsimp +zetaDelta only
theorem ackFrame_in {L : List Part} {s₀ u₀ : State} {e j : Nat} (hk : onlyChanges L s₀ u₀) (he : ([.eng, .out].all fun p => L.contains p) = true) : onlyChanges L s₀ (u₀.ackFrame e j) := onlyChanges_step hk (ackFrame_changes ..) he

theorem sendOn_changes (s : State) (e j : Nat) (f : SentFrame) (out : U16 → U16 → List Nat → Frame) : onlyChanges [.eng, .out] s (s.sendOn e j f out) := by
  unfold State.sendOn
  repeat' first | (with_reducible first | exact onlyChanges_refl _ _ | apply onlyChanges_ite | apply keepFrame_in | apply onLink_in | apply emitOut_in | decide) | extract_lets | split | dsimp +zetaDelta only
theorem sendOn_in {L : List Part} {s₀ u₀ : State} {e j : Nat} {f : SentFrame} {out : U16 → U16 → List Nat → Frame} (hk : onlyChanges L s₀ u₀) (he : ([.eng, .out].all fun p => L.contains p) = true) : onlyChanges L s₀ (u₀.sendOn e j f out) := onlyChanges_step hk (sendOn_changes ..) he

theorem sendTAck_changes (s : State) (e j : Nat) (a : TAck) : onlyChanges [.eng, .out] s (s.sendTAck e j a) := by
  unfold State.sendTAck
  repeat' first | (with_reducible first | exact onlyChanges_refl _ _ | apply onlyChanges_ite | apply onLink_in | apply sendOn_in | decide) | extract_lets | split | dsimp +zetaDelta only
theorem sendTAck_in {L : List Part} {s₀ u₀ : State} {e j : Nat} {a : TAck} (hk : onlyChanges L s₀ u₀) (he : ([.eng, .out].all fun p => L.contains p) = true) : onlyChanges L s₀ (u₀.sendTAck e j a) := onlyChanges_step hk (sendTAck_changes ..) he

theorem tryAck_changes (s : State) (e : Nat) (a : TAck) : onlyChanges [.eng, .out] s (s.tryAck e a) := by
  unfold State.tryAck
  repeat' first | (with_reducible first | exact onlyChanges_refl _ _ | apply onlyChanges_ite | apply onEng_in | apply sendTAck_in | decide) | extract_lets | split | dsimp +zetaDelta only
theorem tryAck_in {L : List Part} {s₀ u₀ : State} {e : Nat} {a : TAck} (hk : onlyChanges L s₀ u₀) (he : ([.eng, .out].all fun p => L.contains p) = true) : onlyChanges L s₀ (u₀.tryAck e a) := onlyChanges_step hk (tryAck_changes ..) he

theorem flushAcks_changes (s : State) (e : Nat) : onlyChanges [.eng, .out] s (s.flushAcks e) := by
  unfold State.flushAcks
  repeat' first | (with_reducible first | exact onlyChanges_refl _ _ | apply onlyChanges_ite | apply tryAck_in | refine onlyChanges_foldl ?_ _ (fun _ _ => ?_) _ | decide) | extract_lets | split | dsimp +zetaDelta only
theorem flushAcks_in {L : List Part} {s₀ u₀ : State} {e : Nat} (hk : onlyChanges L s₀ u₀) (he : ([.eng, .out].all fun p => L.contains p) = true) : onlyChanges L s₀ (u₀.flushAcks e) := onlyChanges_step hk (flushAcks_changes ..) he

theorem putAck_changes (s : State) (e : Nat) (a : TAck) : onlyChanges [.eng, .out] s (s.putAck e a) := by
  unfold State.putAck
  repeat' first | (with_reducible first | exact onlyChanges_refl _ _ | apply onlyChanges_ite | apply onEng_in | apply flushAcks_in | decide) | extract_lets | split | dsimp +zetaDelta only
theorem putAck_in {L : List Part} {s₀ u₀ : State} {e : Nat} {a : TAck} (hk : onlyChanges L s₀ u₀) (he : ([.eng, .out].all fun p => L.contains p) = true) : onlyChanges L s₀ (u₀.putAck e a) := onlyChanges_step hk (putAck_changes ..) he

theorem onTx_changes (s : State) (e k : Nat) (f : TxStream → TxStream) : onlyChanges [.eng] s (s.onTx e k f) := by
  unfold State.onTx
  repeat' first | (with_reducible first | exact onlyChanges_refl _ _ | apply onEng_in | decide) | extract_lets
theorem onTx_in {L : List Part} {s₀ u₀ : State} {e k : Nat} {f : TxStream → TxStream} (hk : onlyChanges L s₀ u₀) (he : ([.eng].all fun p => L.contains p) = true) : onlyChanges L s₀ (u₀.onTx e k f) := onlyChanges_step hk (onTx_changes ..) he

theorem takeAck_changes (s : State) (e : Nat) (a : TAck) : onlyChanges [.eng, .log, .out] s (s.takeAck e a) := by
  unfold State.takeAck
  repeat' first | (with_reducible first | exact onlyChanges_refl _ _ | apply onlyChanges_ite | apply logHealth_in | apply onTx_in | apply putAck_in | decide) | extract_lets | split | dsimp +zetaDelta only
theorem takeAck_in {L : List Part} {s₀ u₀ : State} {e : Nat} {a : TAck} (hk : onlyChanges L s₀ u₀) (he : ([.eng, .log, .out].all fun p => L.contains p) = true) : onlyChanges L s₀ (u₀.takeAck e a) := onlyChanges_step hk (takeAck_changes ..) he

theorem freeBuf_changes (s : State) (e j vc : Nat) : onlyChanges [.eng] s (s.freeBuf e j vc) := by
  unfold State.freeBuf
  repeat' first | (with_reducible first | exact onlyChanges_refl _ _ | apply onlyChanges_ite | apply onLink_in | decide) | extract_lets | split | dsimp +zetaDelta only
theorem freeBuf_in {L : List Part} {s₀ u₀ : State} {e j vc : Nat} (hk : onlyChanges L s₀ u₀) (he : ([.eng].all fun p => L.contains p) = true) : onlyChanges L s₀ (u₀.freeBuf e j vc) := onlyChanges_step hk (freeBuf_changes ..) he

theorem takeFlits_changes (s : State) (e j : Nat) (l : List (BitVec 256)) (x : PktName) : onlyChanges [.eng, .log, .out] s (s.takeFlits e j l x) := by
  unfold State.takeFlits
  repeat' first | (with_reducible first | exact onlyChanges_refl _ _ | apply onlyChanges_ite | apply takeAck_in | apply freeBuf_in | apply onEng_in | decide) | extract_lets | split | dsimp +zetaDelta only
theorem takeFlits_in {L : List Part} {s₀ u₀ : State} {e j : Nat} {l : List (BitVec 256)} {x : PktName} (hk : onlyChanges L s₀ u₀) (he : ([.eng, .log, .out].all fun p => L.contains p) = true) : onlyChanges L s₀ (u₀.takeFlits e j l x) := onlyChanges_step hk (takeFlits_changes ..) he

theorem takeData_changes (s : State) (e j : Nat) (f : Frame) : onlyChanges [.eng, .log, .out] s (s.takeData e j f) := by
  unfold State.takeData
  repeat' first | (with_reducible first | exact onlyChanges_refl _ _ | apply onlyChanges_ite | apply takeFlits_in | apply onLink_in | refine onlyChanges_foldl ?_ _ (fun _ _ => ?_) _ | decide) | extract_lets | split | dsimp +zetaDelta only
theorem takeData_in {L : List Part} {s₀ u₀ : State} {e j : Nat} {f : Frame} (hk : onlyChanges L s₀ u₀) (he : ([.eng, .log, .out].all fun p => L.contains p) = true) : onlyChanges L s₀ (u₀.takeData e j f) := onlyChanges_step hk (takeData_changes ..) he

theorem takeFrame_changes (s : State) (e j : Nat) (f : Frame) : onlyChanges [.eng, .log, .out] s (s.takeFrame e j f) := by
  unfold State.takeFrame
  repeat' first | (with_reducible first | exact onlyChanges_refl _ _ | apply onlyChanges_ite | apply onLink_in | apply takeData_in | apply ackFrame_in | apply askReplay_in | decide) | extract_lets | split | dsimp +zetaDelta only
theorem takeFrame_in {L : List Part} {s₀ u₀ : State} {e j : Nat} {f : Frame} (hk : onlyChanges L s₀ u₀) (he : ([.eng, .log, .out].all fun p => L.contains p) = true) : onlyChanges L s₀ (u₀.takeFrame e j f) := onlyChanges_step hk (takeFrame_changes ..) he

/-! Context -/

theorem startApply_changes (s : State) : onlyChanges [.stg] s (s.startApply) := by
  unfold State.startApply
  repeat' first | (with_reducible first | exact onlyChanges_refl _ _ | apply onlyChanges_ite | apply onStg_in | decide) | extract_lets | split
theorem startApply_in {L : List Part} {s₀ u₀ : State} (hk : onlyChanges L s₀ u₀) (he : ([.stg].all fun p => L.contains p) = true) : onlyChanges L s₀ (u₀.startApply) := onlyChanges_step hk (startApply_changes ..) he

theorem beginStep_changes (s : State) : onlyChanges [.run, .store] s (s.beginStep) := by
  unfold State.beginStep
  repeat' first | (with_reducible first | exact onlyChanges_refl _ _ | apply onStore_in | apply onRun_in | decide) | extract_lets | dsimp +zetaDelta only
theorem beginStep_in {L : List Part} {s₀ u₀ : State} (hk : onlyChanges L s₀ u₀) (he : ([.run, .store].all fun p => L.contains p) = true) : onlyChanges L s₀ (u₀.beginStep) := onlyChanges_step hk (beginStep_changes ..) he

theorem tryBegin_changes (s : State) : onlyChanges [.run, .store] s (s.tryBegin) := by
  unfold State.tryBegin
  repeat' first | (with_reducible first | exact onlyChanges_refl _ _ | apply onlyChanges_ite | apply beginStep_in | decide) | split
theorem tryBegin_in {L : List Part} {s₀ u₀ : State} (hk : onlyChanges L s₀ u₀) (he : ([.run, .store].all fun p => L.contains p) = true) : onlyChanges L s₀ (u₀.tryBegin) := onlyChanges_step hk (tryBegin_changes ..) he

theorem stopHere_changes (s : State) : onlyChanges [.run] s (s.stopHere) := by
  unfold State.stopHere
  repeat' first | (with_reducible first | exact onlyChanges_refl _ _ | apply onRun_in | decide) | extract_lets
theorem stopHere_in {L : List Part} {s₀ u₀ : State} (hk : onlyChanges L s₀ u₀) (he : ([.run].all fun p => L.contains p) = true) : onlyChanges L s₀ (u₀.stopHere) := onlyChanges_step hk (stopHere_changes ..) he

theorem stopAtLimit_changes (s : State) : onlyChanges [.run, .brg, .pwr] s (s.stopAtLimit) := by
  unfold State.stopAtLimit
  repeat' first | (with_reducible first | exact onlyChanges_refl _ _ | apply stopHere_in | apply event_in | decide)
theorem stopAtLimit_in {L : List Part} {s₀ u₀ : State} (hk : onlyChanges L s₀ u₀) (he : ([.run, .brg, .pwr].all fun p => L.contains p) = true) : onlyChanges L s₀ (u₀.stopAtLimit) := onlyChanges_step hk (stopAtLimit_changes ..) he

theorem foreignLine_in {L : List Part} {s₀ u₀ : State} (hk : onlyChanges L s₀ u₀) (he : ([.free].all fun p => L.contains p) = true) : onlyChanges L s₀ u₀.foreignLine.2 := onlyChanges_step hk (fresh_changes _) he

theorem writeSnap_changes (s : State) (runB : Bool) : onlyChanges [.free, .lregions, .net, .store, .orc] s (s.writeSnap runB) := by
  unfold State.writeSnap
  repeat' first | (with_reducible first | exact onlyChanges_refl _ _ | apply onlyChanges_ite | apply foreignLine_in | apply writeLinePart_in | refine onlyChanges_foldl ?_ _ (fun _ _ => ?_) _ | decide) | extract_lets | split | dsimp +zetaDelta only
theorem writeSnap_in {L : List Part} {s₀ u₀ : State} {runB : Bool} (hk : onlyChanges L s₀ u₀) (he : ([.free, .lregions, .net, .store, .orc].all fun p => L.contains p) = true) : onlyChanges L s₀ (u₀.writeSnap runB) := onlyChanges_step hk (writeSnap_changes ..) he

theorem settleSnap_changes (s : State) : onlyChanges [.flt] s s.settleSnap := by
  unfold State.settleSnap
  repeat' first | (with_reducible first | exact onlyChanges_refl _ _ | apply onlyChanges_ite | apply onFlt_in | decide) | extract_lets | split | dsimp +zetaDelta only
theorem settleSnap_in {L : List Part} {s₀ u₀ : State} (hk : onlyChanges L s₀ u₀) (he : ([.flt].all fun p => L.contains p) = true) : onlyChanges L s₀ u₀.settleSnap := onlyChanges_step hk (settleSnap_changes ..) he

theorem boundarySnap_changes (s : State) : onlyChanges [.free, .lregions, .net, .store, .orc, .flt] s s.boundarySnap := by
  unfold State.boundarySnap
  repeat' first | (with_reducible first | exact onlyChanges_refl _ _ | apply onlyChanges_ite | apply writeSnap_in | apply onFlt_in | apply settleSnap_in | decide) | extract_lets | split | dsimp +zetaDelta only
theorem boundarySnap_in {L : List Part} {s₀ u₀ : State} (hk : onlyChanges L s₀ u₀) (he : ([.free, .lregions, .net, .store, .orc, .flt].all fun p => L.contains p) = true) : onlyChanges L s₀ u₀.boundarySnap := onlyChanges_step hk (boundarySnap_changes ..) he

theorem askClocks_changes (s : State) : onlyChanges [.regions] s s.askClocks := by
  unfold State.askClocks
  repeat' first | (with_reducible first | exact onlyChanges_refl _ _ | apply onlyChanges_ite | apply askClock_in | refine onlyChanges_foldl ?_ _ (fun _ _ => ?_) _ | decide) | extract_lets | split | dsimp +zetaDelta only
theorem askClocks_in {L : List Part} {s₀ u₀ : State} (hk : onlyChanges L s₀ u₀) (he : ([.regions].all fun p => L.contains p) = true) : onlyChanges L s₀ u₀.askClocks := onlyChanges_step hk (askClocks_changes ..) he

theorem stepBoundaryModule_changes (s : State) : onlyChanges [.regions, .settings] s s.stepBoundaryModule := by
  unfold State.stepBoundaryModule
  repeat' first | (with_reducible first | exact onlyChanges_refl _ _ | apply onlyChanges_ite | apply applyStaged_in | apply askClocks_in | decide) | extract_lets | split | dsimp +zetaDelta only
theorem stepBoundaryModule_in {L : List Part} {s₀ u₀ : State} (hk : onlyChanges L s₀ u₀) (he : ([.regions, .settings].all fun p => L.contains p) = true) : onlyChanges L s₀ u₀.stepBoundaryModule := onlyChanges_step hk (stepBoundaryModule_changes ..) he

theorem sendTokens_changes (s : State) : onlyChanges [.regions, .settings, .num, .run, .flt] s s.sendTokens := by
  unfold State.sendTokens
  repeat' first | (with_reducible first | exact onlyChanges_refl _ _ | apply onlyChanges_ite | apply stepBoundaryModule_in | apply onNum_in | apply onRun_in | decide) | extract_lets | split | dsimp +zetaDelta only
theorem sendTokens_in {L : List Part} {s₀ u₀ : State} (hk : onlyChanges L s₀ u₀) (he : ([.regions, .settings, .num, .run, .flt].all fun p => L.contains p) = true) : onlyChanges L s₀ u₀.sendTokens := onlyChanges_step hk (sendTokens_changes ..) he

theorem crossBoundary_changes (s : State) : onlyChanges [.free, .lregions, .regions, .settings, .num, .run, .net, .store, .orc, .flt] s s.crossBoundary := by
  unfold State.crossBoundary
  repeat' first | (with_reducible first | exact onlyChanges_refl _ _ | apply onlyChanges_ite | apply boundarySnap_in | apply sendTokens_in | apply tryBegin_in | decide) | extract_lets | split | dsimp +zetaDelta only
theorem crossBoundary_in {L : List Part} {s₀ u₀ : State} (hk : onlyChanges L s₀ u₀) (he : ([.free, .lregions, .regions, .settings, .num, .run, .net, .store, .orc, .flt].all fun p => L.contains p) = true) : onlyChanges L s₀ u₀.crossBoundary := onlyChanges_step hk (crossBoundary_changes ..) he

theorem goOn_changes (s : State) : onlyChanges [.free, .lregions, .regions, .settings, .num, .run, .brg, .stg, .net, .store, .orc, .flt, .pwr] s s.goOn := by
  unfold State.goOn
  repeat' first | (with_reducible first | exact onlyChanges_refl _ _ | apply onlyChanges_ite | apply startApply_in | apply stopAtLimit_in | apply tryBegin_in | apply crossBoundary_in | decide) | extract_lets | split | dsimp +zetaDelta only
theorem goOn_in {L : List Part} {s₀ u₀ : State} (hk : onlyChanges L s₀ u₀) (he : ([.free, .lregions, .regions, .settings, .num, .run, .brg, .stg, .net, .store, .orc, .flt, .pwr].all fun p => L.contains p) = true) : onlyChanges L s₀ u₀.goOn := onlyChanges_step hk (goOn_changes ..) he

theorem settleStop_changes (s : State) : onlyChanges [.run, .brg] s (s.settleStop) := by
  unfold State.settleStop
  repeat' first | (with_reducible first | exact onlyChanges_refl _ _ | apply onlyChanges_ite | apply stopHere_in | apply finishHolds_in | decide) | split
theorem settleStop_in {L : List Part} {s₀ u₀ : State} (hk : onlyChanges L s₀ u₀) (he : ([.run, .brg].all fun p => L.contains p) = true) : onlyChanges L s₀ (u₀.settleStop) := onlyChanges_step hk (settleStop_changes ..) he

theorem advance_changes (s : State) : onlyChanges [.free, .lregions, .regions, .settings, .num, .run, .brg, .stg, .net, .store, .orc, .flt, .pwr] s s.advance := by
  unfold State.advance
  repeat' first | (with_reducible first | exact onlyChanges_refl _ _ | apply onlyChanges_ite | apply settleStop_in | apply goOn_in | decide) | extract_lets | split | dsimp +zetaDelta only
theorem advance_in {L : List Part} {s₀ u₀ : State} (hk : onlyChanges L s₀ u₀) (he : ([.free, .lregions, .regions, .settings, .num, .run, .brg, .stg, .net, .store, .orc, .flt, .pwr].all fun p => L.contains p) = true) : onlyChanges L s₀ u₀.advance := onlyChanges_step hk (advance_changes ..) he

theorem issueCtx_changes (s : State) (r c j : Nat) (i : CtxInstr) : onlyChanges [.cores, .lregions, .bat] s (s.issueCtx r c j i) := by
  unfold State.issueCtx
  repeat' first | (with_reducible first | exact onlyChanges_refl _ _ | apply takeWaits_in | apply onCore_in | apply mbNote_in | apply onCtx_in | apply advance_in | apply sendEmits_in | decide) | extract_lets | dsimp +zetaDelta only
theorem issueCtx_in {L : List Part} {s₀ u₀ : State} {r c j : Nat} {i : CtxInstr} (hk : onlyChanges L s₀ u₀) (he : ([.cores, .lregions, .bat].all fun p => L.contains p) = true) : onlyChanges L s₀ (u₀.issueCtx r c j i) := onlyChanges_step hk (issueCtx_changes ..) he

theorem rejectOp_changes (s : State) (rp : Nat) (p : Packet) : onlyChanges [.cores, .regions, .bat, .log] s (s.rejectOp rp p) := by
  unfold State.rejectOp
  repeat' first | (with_reducible first | exact onlyChanges_refl _ _ | apply onlyChanges_ite | apply count_in | apply logHealth_in | apply illegal_in | decide) | extract_lets | split | dsimp +zetaDelta only
theorem rejectOp_in {L : List Part} {s₀ u₀ : State} {rp : Nat} {p : Packet} (hk : onlyChanges L s₀ u₀) (he : ([.cores, .regions, .bat, .log].all fun p => L.contains p) = true) : onlyChanges L s₀ (u₀.rejectOp rp p) := onlyChanges_step hk (rejectOp_changes ..) he

theorem issueOp_changes (s : State) (r c : Nat) (i : CtxInstr) (x : Issue) : onlyChanges [.cores, .lregions, .regions, .bat, .net, .log] s (s.issueOp r c i x) := by
  unfold State.issueOp
  repeat' first | (with_reducible first | exact onlyChanges_refl _ _ | apply onlyChanges_ite | apply issueCtx_in | apply onNet_in | apply rejectOp_in | apply onCore_in | apply arriveTok_in | apply onCtx_in | decide) | extract_lets | split | dsimp +zetaDelta only
theorem issueOp_in {L : List Part} {s₀ u₀ : State} {r c : Nat} {i : CtxInstr} {x : Issue} (hk : onlyChanges L s₀ u₀) (he : ([.cores, .lregions, .regions, .bat, .net, .log].all fun p => L.contains p) = true) : onlyChanges L s₀ (u₀.issueOp r c i x) := onlyChanges_step hk (issueOp_changes ..) he

theorem execRmo_changes (s : State) (r c op : Nat) : onlyChanges [.cores, .lregions, .regions, .bat, .net, .log] s (s.execRmo r c op) := by
  unfold State.execRmo
  repeat' first | (with_reducible first | exact onlyChanges_refl _ _ | apply onlyChanges_ite | apply issueOp_in | apply progress_in | apply illegal_in | decide) | extract_lets | split | dsimp +zetaDelta only
theorem execRmo_in {L : List Part} {s₀ u₀ : State} {r c op : Nat} (hk : onlyChanges L s₀ u₀) (he : ([.cores, .lregions, .regions, .bat, .net, .log].all fun p => L.contains p) = true) : onlyChanges L s₀ (u₀.execRmo r c op) := onlyChanges_step hk (execRmo_changes ..) he

theorem execRmoOrReserved_changes (s : State) (r c op : Nat) : onlyChanges [.cores, .lregions, .regions, .bat, .net, .log] s (s.execRmoOrReserved r c op) := by
  unfold State.execRmoOrReserved
  repeat' first | (with_reducible first | exact onlyChanges_refl _ _ | apply onlyChanges_ite | apply illegal_in | apply execRmo_in | decide) | extract_lets | split | dsimp +zetaDelta only
theorem execRmoOrReserved_in {L : List Part} {s₀ u₀ : State} {r c op : Nat} (hk : onlyChanges L s₀ u₀) (he : ([.cores, .lregions, .regions, .bat, .net, .log].all fun p => L.contains p) = true) : onlyChanges L s₀ (u₀.execRmoOrReserved r c op) := onlyChanges_step hk (execRmoOrReserved_changes ..) he

/-! Remote -/

theorem sendCore_changes (s : State) (r c : Nat) (ps : List Packet) : onlyChanges [.cores] s (s.sendCore r c ps) := by
  unfold State.sendCore
  repeat' first | (with_reducible first | exact onlyChanges_refl _ _ | apply onCore_in | decide) | extract_lets
theorem sendCore_in {L : List Part} {s₀ u₀ : State} {r c : Nat} {ps : List Packet} (hk : onlyChanges L s₀ u₀) (he : ([.cores].all fun p => L.contains p) = true) : onlyChanges L s₀ (u₀.sendCore r c ps) := onlyChanges_step hk (sendCore_changes ..) he

theorem applyCore_changes (s : State) (r c : Nat) (p : Packet) : onlyChanges [.sram, .cores, .regions, .bat] s (s.applyCore r c p) := by
  unfold State.applyCore
  extract_lets off
  split
  · have k : onlyChanges [.sram, .cores, .regions, .bat] s (s.writeSram r c off p.payload) := writeSram_in (onlyChanges_refl _ _) (by decide)
    exact onlyChanges_ite (sendCore_in (arriveTok_in k (by decide)) (by decide)) k
  · exact sendCore_in (arriveTok_in (onlyChanges_refl _ _) (by decide)) (by decide)
  · split
    exact sendCore_in (arriveTok_in (writeSram_in (onlyChanges_refl _ _) (by decide)) (by decide)) (by decide)
  · dsimp only
    have k : onlyChanges [.sram, .cores, .regions, .bat] s ((s.writeSram r c off (reduceBytes p.kind (s.readSram r c off p.payload.length) p.payload).1).arriveTok r c p.ttok p.count) := arriveTok_in (writeSram_in (onlyChanges_refl _ _) (by decide)) (by decide)
    exact onlyChanges_ite k (onlyChanges_foldl (onCore_in k (by decide)) _ (fun _ _ => sendRecord_in (onlyChanges_refl _ _) (by decide)) _)
theorem applyCore_in {L : List Part} {s₀ u₀ : State} {r c : Nat} {p : Packet} (hk : onlyChanges L s₀ u₀) (he : ([.sram, .cores, .regions, .bat].all fun p => L.contains p) = true) : onlyChanges L s₀ (u₀.applyCore r c p) := onlyChanges_step hk (applyCore_changes ..) he

theorem rejectFirst_changes (s : State) (r : Nat) (p : Packet) : onlyChanges [.cores, .regions, .bat, .log] s (s.rejectFirst r p) := by
  unfold State.rejectFirst
  repeat' first | (with_reducible first | exact onlyChanges_refl _ _ | apply onlyChanges_ite | apply rejectOp_in | decide) | split
theorem rejectFirst_in {L : List Part} {s₀ u₀ : State} {r : Nat} {p : Packet} (hk : onlyChanges L s₀ u₀) (he : ([.cores, .regions, .bat, .log].all fun p => L.contains p) = true) : onlyChanges L s₀ (u₀.rejectFirst r p) := onlyChanges_step hk (rejectFirst_changes ..) he

theorem opAtCore_changes (s : State) (r c : Nat) (p : Packet) : onlyChanges [.sram, .cores, .regions, .bat, .log] s (s.opAtCore r c p) := by
  unfold State.opAtCore
  repeat' first | (with_reducible first | exact onlyChanges_refl _ _ | apply onlyChanges_ite | apply applyCore_in | apply rejectFirst_in | decide) | split
theorem opAtCore_in {L : List Part} {s₀ u₀ : State} {r c : Nat} {p : Packet} (hk : onlyChanges L s₀ u₀) (he : ([.sram, .cores, .regions, .bat, .log].all fun p => L.contains p) = true) : onlyChanges L s₀ (u₀.opAtCore r c p) := onlyChanges_step hk (opAtCore_changes ..) he

theorem finishOp_changes (s : State) (r c j : Nat) (o : Outst) : onlyChanges [.cores, .lregions, .regions, .bat] s (s.finishOp r c j o) := by
  unfold State.finishOp
  repeat' first | (with_reducible first | exact onlyChanges_refl _ _ | apply onCtx_in | apply arriveTok_in | apply progress_in | decide) | extract_lets | dsimp +zetaDelta only
theorem finishOp_in {L : List Part} {s₀ u₀ : State} {r c j : Nat} {o : Outst} (hk : onlyChanges L s₀ u₀) (he : ([.cores, .lregions, .regions, .bat].all fun p => L.contains p) = true) : onlyChanges L s₀ (u₀.finishOp r c j o) := onlyChanges_step hk (finishOp_changes ..) he

/-! Transport -/

theorem writeLog_changes (s : State) (m a n : Nat) : onlyChanges [.free, .lregions, .net, .store, .orc] s (s.writeLog m a n) := by
  unfold State.writeLog
  repeat' first | (with_reducible first | exact onlyChanges_refl _ _ | apply onlyChanges_ite | apply foreignLine_in | apply writeLinePart_in | refine onlyChanges_foldl ?_ _ (fun _ _ => ?_) _ | decide) | extract_lets | split | dsimp +zetaDelta only
theorem writeLog_in {L : List Part} {s₀ u₀ : State} {m a n : Nat} (hk : onlyChanges L s₀ u₀) (he : ([.free, .lregions, .net, .store, .orc].all fun p => L.contains p) = true) : onlyChanges L s₀ (u₀.writeLog m a n) := onlyChanges_step hk (writeLog_changes ..) he

theorem logItem_changes (s : State) (x : LogItem) : onlyChanges [.free, .lregions, .net, .store, .orc, .flt, .log] s (s.logItem x) := by
  unfold State.logItem
  repeat' first | (with_reducible first | exact onlyChanges_refl _ _ | apply onlyChanges_ite | apply writeLog_in | apply onFlt_in | apply logHealth_in | decide) | extract_lets | split | dsimp +zetaDelta only
theorem logItem_in {L : List Part} {s₀ u₀ : State} {x : LogItem} (hk : onlyChanges L s₀ u₀) (he : ([.free, .lregions, .net, .store, .orc, .flt, .log].all fun p => L.contains p) = true) : onlyChanges L s₀ (u₀.logItem x) := onlyChanges_step hk (logItem_changes ..) he

theorem enterSlab_changes (s : State) (e : Nat) (p : Packet) : onlyChanges [.eng] s (s.enterSlab e p) := by
  unfold State.enterSlab
  repeat' first | (with_reducible first | exact onlyChanges_refl _ _ | apply onEng_in | decide) | extract_lets
theorem enterSlab_in {L : List Part} {s₀ u₀ : State} {e : Nat} {p : Packet} (hk : onlyChanges L s₀ u₀) (he : ([.eng].all fun p => L.contains p) = true) : onlyChanges L s₀ (u₀.enterSlab e p) := onlyChanges_step hk (enterSlab_changes ..) he

theorem layoutStale_changes (s : State) (p : Packet) : onlyChanges [.cfg, .log] s (s.layoutStale p) := by
  unfold State.layoutStale
  repeat' first | (with_reducible first | exact onlyChanges_refl _ _ | apply onCfg_in | apply logHealth_in | decide) | extract_lets
theorem layoutStale_in {L : List Part} {s₀ u₀ : State} {p : Packet} (hk : onlyChanges L s₀ u₀) (he : ([.cfg, .log].all fun p => L.contains p) = true) : onlyChanges L s₀ (u₀.layoutStale p) := onlyChanges_step hk (layoutStale_changes ..) he

theorem passIn_changes (s : State) (e : Nat) (p : Packet) : onlyChanges [.free, .cores, .lregions, .regions, .cfg, .bat, .net, .store, .orc, .eng, .flt, .log] s (s.passIn e p) := by
  unfold State.passIn
  repeat' first | (with_reducible first | exact onlyChanges_refl _ _ | apply onlyChanges_ite | apply layoutStale_in | apply rejectOp_in | apply logItem_in | apply onFlt_in | apply enterSlab_in | decide) | extract_lets | split | dsimp +zetaDelta only
theorem passIn_in {L : List Part} {s₀ u₀ : State} {e : Nat} {p : Packet} (hk : onlyChanges L s₀ u₀) (he : ([.free, .cores, .lregions, .regions, .cfg, .bat, .net, .store, .orc, .eng, .flt, .log].all fun p => L.contains p) = true) : onlyChanges L s₀ (u₀.passIn e p) := onlyChanges_step hk (passIn_changes ..) he

theorem onRx_changes (s : State) (e k : Nat) (f : RxStream → RxStream) : onlyChanges [.eng] s (s.onRx e k f) := by
  unfold State.onRx
  repeat' first | (with_reducible first | exact onlyChanges_refl _ _ | apply onEng_in | decide) | extract_lets
theorem onRx_in {L : List Part} {s₀ u₀ : State} {e k : Nat} {f : RxStream → RxStream} (hk : onlyChanges L s₀ u₀) (he : ([.eng].all fun p => L.contains p) = true) : onlyChanges L s₀ (u₀.onRx e k f) := onlyChanges_step hk (onRx_changes ..) he

theorem sendAck_changes (s : State) (e : Nat) (p : Packet) : onlyChanges [.eng, .out] s (s.sendAck e p) := by
  unfold State.sendAck
  repeat' first | (with_reducible first | exact onlyChanges_refl _ _ | apply onlyChanges_ite | apply putAck_in | decide) | extract_lets | split | dsimp +zetaDelta only
theorem sendAck_in {L : List Part} {s₀ u₀ : State} {e : Nat} {p : Packet} (hk : onlyChanges L s₀ u₀) (he : ([.eng, .out].all fun p => L.contains p) = true) : onlyChanges L s₀ (u₀.sendAck e p) := onlyChanges_step hk (sendAck_changes ..) he

theorem orcProgress_changes (s : State) (r : Nat) (t : OrcTable) (o : Nat × Nat × Nat × Nat) (n : Nat) : onlyChanges [.sram, .lregions, .bat] s (s.orcProgress r t o n) := by
  induction n generalizing s with
  | zero => exact onlyChanges_refl _ _
  | succ n ih =>
    unfold State.orcProgress
    dsimp only
    split
    · exact onlyChanges_trans (onLreg_in (sendEmits_in (onlyChanges_foldl (onlyChanges_refl _ _) _ (fun _ _ => writeVectors_in (onlyChanges_refl _ _) (by decide)) _) (by decide)) (by decide)) (ih _)
    · exact onlyChanges_refl _ _
theorem orcProgress_in {L : List Part} {s₀ u₀ : State} {r : Nat} {t : OrcTable} {o : Nat × Nat × Nat × Nat} {n : Nat} (hk : onlyChanges L s₀ u₀) (he : ([.sram, .lregions, .bat].all fun p => L.contains p) = true) : onlyChanges L s₀ (u₀.orcProgress r t o n) := onlyChanges_step hk (orcProgress_changes ..) he

theorem drainRx_changes (s : State) (e k n : Nat) : onlyChanges [.free, .cores, .lregions, .regions, .cfg, .bat, .net, .store, .orc, .eng, .flt, .log] s (s.drainRx e k n) := by
  induction n generalizing s with
  | zero => exact onlyChanges_refl _ _
  | succ n ih =>
    unfold State.drainRx
    extract_lets
    split
    · exact onlyChanges_refl _ _
    · exact onlyChanges_trans (passIn_in (onRx_in (onlyChanges_refl _ _) (by decide)) (by decide)) (ih _)
theorem drainRx_in {L : List Part} {s₀ u₀ : State} {e k n : Nat} (hk : onlyChanges L s₀ u₀) (he : ([.free, .cores, .lregions, .regions, .cfg, .bat, .net, .store, .orc, .eng, .flt, .log].all fun p => L.contains p) = true) : onlyChanges L s₀ (u₀.drainRx e k n) := onlyChanges_step hk (drainRx_changes ..) he

theorem streamPacket_changes (s : State) (e : Nat) (p : Packet) : onlyChanges [.free, .cores, .lregions, .regions, .cfg, .bat, .net, .store, .orc, .eng, .flt, .log, .out] s (s.streamPacket e p) := by
  unfold State.streamPacket
  repeat' first | (with_reducible first | exact onlyChanges_refl _ _ | apply onlyChanges_ite | apply onEng_in | apply sendAck_in | apply onRx_in | apply drainRx_in | apply passIn_in | decide) | extract_lets | split | dsimp +zetaDelta only
theorem streamPacket_in {L : List Part} {s₀ u₀ : State} {e : Nat} {p : Packet} (hk : onlyChanges L s₀ u₀) (he : ([.free, .cores, .lregions, .regions, .cfg, .bat, .net, .store, .orc, .eng, .flt, .log, .out].all fun p => L.contains p) = true) : onlyChanges L s₀ (u₀.streamPacket e p) := onlyChanges_step hk (streamPacket_changes ..) he

theorem countXep_changes (s : State) : onlyChanges [.cfg] s (s.countXep) := by
  unfold State.countXep
  repeat' first | (with_reducible first | exact onlyChanges_refl _ _ | apply onCfg_in | decide) | extract_lets
theorem countXep_in {L : List Part} {s₀ u₀ : State} (hk : onlyChanges L s₀ u₀) (he : ([.cfg].all fun p => L.contains p) = true) : onlyChanges L s₀ (u₀.countXep) := onlyChanges_step hk (countXep_changes ..) he

theorem olderPacket_changes (s : State) (e : Nat) (p : Packet) : onlyChanges [.free, .cores, .lregions, .regions, .cfg, .bat, .net, .store, .orc, .eng, .flt, .log, .out] s (s.olderPacket e p) := by
  unfold State.olderPacket
  repeat' first | (with_reducible first | exact onlyChanges_refl _ _ | apply onlyChanges_ite | apply countXep_in | apply sendAck_in | apply onRx_in | apply drainRx_in | decide) | extract_lets | split | dsimp +zetaDelta only
theorem olderPacket_in {L : List Part} {s₀ u₀ : State} {e : Nat} {p : Packet} (hk : onlyChanges L s₀ u₀) (he : ([.free, .cores, .lregions, .regions, .cfg, .bat, .net, .store, .orc, .eng, .flt, .log, .out].all fun p => L.contains p) = true) : onlyChanges L s₀ (u₀.olderPacket e p) := onlyChanges_step hk (olderPacket_changes ..) he

theorem ownPacket_changes (s : State) (e : Nat) (p : Packet) : onlyChanges [.free, .cores, .lregions, .regions, .cfg, .bat, .net, .store, .orc, .eng, .flt, .log, .out] s (s.ownPacket e p) := by
  unfold State.ownPacket
  repeat' first | (with_reducible first | exact onlyChanges_refl _ _ | apply onlyChanges_ite | apply logHealth_in | apply streamPacket_in | apply onRx_in | apply countXep_in | apply olderPacket_in | decide) | extract_lets | split | dsimp +zetaDelta only
theorem ownPacket_in {L : List Part} {s₀ u₀ : State} {e : Nat} {p : Packet} (hk : onlyChanges L s₀ u₀) (he : ([.free, .cores, .lregions, .regions, .cfg, .bat, .net, .store, .orc, .eng, .flt, .log, .out].all fun p => L.contains p) = true) : onlyChanges L s₀ (u₀.ownPacket e p) := onlyChanges_step hk (ownPacket_changes ..) he

theorem forwardPacket_changes (s : State) (e : Nat) (p : Packet) : onlyChanges [.cfg, .eng, .log] s (s.forwardPacket e p) := by
  unfold State.forwardPacket
  repeat' first | (with_reducible first | exact onlyChanges_refl _ _ | apply onlyChanges_ite | apply logHealth_in | apply enterSlab_in | apply onCfg_in | apply layoutStale_in | decide) | extract_lets | split | dsimp +zetaDelta only
theorem forwardPacket_in {L : List Part} {s₀ u₀ : State} {e : Nat} {p : Packet} (hk : onlyChanges L s₀ u₀) (he : ([.cfg, .eng, .log].all fun p => L.contains p) = true) : onlyChanges L s₀ (u₀.forwardPacket e p) := onlyChanges_step hk (forwardPacket_changes ..) he

theorem releaseHeld_changes (s : State) : onlyChanges [.eng] s (s.releaseHeld) := by
  unfold State.releaseHeld
  repeat' first | (with_reducible first | exact onlyChanges_refl _ _ | apply onEng_in | refine onlyChanges_foldl ?_ _ (fun _ _ => ?_) _ | decide) | extract_lets | dsimp +zetaDelta only
theorem releaseHeld_in {L : List Part} {s₀ u₀ : State} (hk : onlyChanges L s₀ u₀) (he : ([.eng].all fun p => L.contains p) = true) : onlyChanges L s₀ (u₀.releaseHeld) := onlyChanges_step hk (releaseHeld_changes ..) he

theorem sendFrame_changes (s : State) (e j : Nat) (p : Packet) : onlyChanges [.eng, .out] s (s.sendFrame e j p) := by
  unfold State.sendFrame
  repeat' first | (with_reducible first | exact onlyChanges_refl _ _ | apply onlyChanges_ite | apply onLink_in | apply sendOn_in | decide) | extract_lets | split | dsimp +zetaDelta only
theorem sendFrame_in {L : List Part} {s₀ u₀ : State} {e j : Nat} {p : Packet} (hk : onlyChanges L s₀ u₀) (he : ([.eng, .out].all fun p => L.contains p) = true) : onlyChanges L s₀ (u₀.sendFrame e j p) := onlyChanges_step hk (sendFrame_changes ..) he

theorem retransmit_changes (s : State) (e : Nat) (p : Packet) : onlyChanges [.eng, .out] s (s.retransmit e p) := by
  unfold State.retransmit
  repeat' first | (with_reducible first | exact onlyChanges_refl _ _ | apply onlyChanges_ite | apply onEng_in | apply sendFrame_in | decide) | extract_lets | split
theorem retransmit_in {L : List Part} {s₀ u₀ : State} {e : Nat} {p : Packet} (hk : onlyChanges L s₀ u₀) (he : ([.eng, .out].all fun p => L.contains p) = true) : onlyChanges L s₀ (u₀.retransmit e p) := onlyChanges_step hk (retransmit_changes ..) he

/-! Press -/

theorem setPhase_changes (s : State) (r k : Nat) (p : ShardPhase) : onlyChanges [.lregions] s (s.setPhase r k p) := by
  unfold State.setPhase
  repeat' first | (with_reducible first | exact onlyChanges_refl _ _ | apply onLreg_in | decide) | extract_lets
theorem setPhase_in {L : List Part} {s₀ u₀ : State} {r k : Nat} {p : ShardPhase} (hk : onlyChanges L s₀ u₀) (he : ([.lregions].all fun p => L.contains p) = true) : onlyChanges L s₀ (u₀.setPhase r k p) := onlyChanges_step hk (setPhase_changes ..) he

theorem writePart_changes (s : State) (r : Nat) (sh : Shard) (k j part : Nat) (b : List Byte) : onlyChanges [.lregions, .net, .store, .orc] s (s.writePart r sh k j part b) := by
  unfold State.writePart
  repeat' first | (with_reducible first | exact onlyChanges_refl _ _ | apply onlyChanges_ite | apply writeLinePart_in | apply onLreg_in | decide) | extract_lets | split | dsimp +zetaDelta only
theorem writePart_in {L : List Part} {s₀ u₀ : State} {r : Nat} {sh : Shard} {k j part : Nat} {b : List Byte} (hk : onlyChanges L s₀ u₀) (he : ([.lregions, .net, .store, .orc].all fun p => L.contains p) = true) : onlyChanges L s₀ (u₀.writePart r sh k j part b) := onlyChanges_step hk (writePart_changes ..) he

theorem contribRecord_changes (s : State) (r : Nat) (p : Packet) (f : RFlags) : onlyChanges [.lregions, .bat] s (s.contribRecord r p f) := by
  unfold State.contribRecord
  repeat' first | (with_reducible first | exact onlyChanges_refl _ _ | apply onlyChanges_ite | apply onLreg_in | apply sendUnitRecord_in | refine onlyChanges_foldl ?_ _ (fun _ _ => ?_) _ | decide) | extract_lets | split | dsimp +zetaDelta only
theorem contribRecord_in {L : List Part} {s₀ u₀ : State} {r : Nat} {p : Packet} {f : RFlags} (hk : onlyChanges L s₀ u₀) (he : ([.lregions, .bat].all fun p => L.contains p) = true) : onlyChanges L s₀ (u₀.contribRecord r p f) := onlyChanges_step hk (contribRecord_changes ..) he

theorem contribTok_changes (s : State) (r : Nat) (p : Packet) : onlyChanges [.lregions, .regions, .bat] s (s.contribTok r p) := by
  unfold State.contribTok
  repeat' first | (with_reducible first | exact onlyChanges_refl _ _ | apply addSiCtr_in | apply count_in | decide) | extract_lets | split
theorem contribTok_in {L : List Part} {s₀ u₀ : State} {r : Nat} {p : Packet} (hk : onlyChanges L s₀ u₀) (he : ([.lregions, .regions, .bat].all fun p => L.contains p) = true) : onlyChanges L s₀ (u₀.contribTok r p) := onlyChanges_step hk (contribTok_changes ..) he

theorem contribute_changes (s : State) (r k j : Nat) (sh : Shard) (p : Packet) : onlyChanges [.lregions, .regions, .cfg, .bat, .net, .store, .orc, .prs, .log] s (s.contribute r k j sh p) := by
  unfold State.contribute
  repeat' first | (with_reducible first | exact onlyChanges_refl _ _ | apply onlyChanges_ite | apply onCfg_in | apply logHealth_in | apply onPrs_in | apply contribRecord_in | apply onLreg_in | apply contribTok_in | apply writePart_in | decide) | extract_lets | split | dsimp +zetaDelta only
theorem contribute_in {L : List Part} {s₀ u₀ : State} {r k j : Nat} {sh : Shard} {p : Packet} (hk : onlyChanges L s₀ u₀) (he : ([.lregions, .regions, .cfg, .bat, .net, .store, .orc, .prs, .log].all fun p => L.contains p) = true) : onlyChanges L s₀ (u₀.contribute r k j sh p) := onlyChanges_step hk (contribute_changes ..) he

theorem writeCopy_changes (s : State) (r : Nat) (sh : Shard) (copy j : Nat) (b : List Byte) : onlyChanges [.lregions, .net, .store, .orc] s (s.writeCopy r sh copy j b) := by
  unfold State.writeCopy
  repeat' first | (with_reducible first | exact onlyChanges_refl _ _ | apply writeLinePart_in | decide) | extract_lets | split
theorem writeCopy_in {L : List Part} {s₀ u₀ : State} {r : Nat} {sh : Shard} {copy j : Nat} {b : List Byte} (hk : onlyChanges L s₀ u₀) (he : ([.lregions, .net, .store, .orc].all fun p => L.contains p) = true) : onlyChanges L s₀ (u₀.writeCopy r sh copy j b) := onlyChanges_step hk (writeCopy_changes ..) he

theorem writeOuts_changes (s : State) (r : Nat) (sh : Shard) (g : Group) (j : Nat) (os : List ParamOut) : onlyChanges [.lregions, .net, .store, .orc] s (s.writeOuts r sh g j os) := by
  unfold State.writeOuts
  repeat' first | (with_reducible first | exact onlyChanges_refl _ _ | apply onlyChanges_ite | apply writeMaster_in | apply writeCopy_in | refine onlyChanges_foldl ?_ _ (fun _ _ => ?_) _ | decide) | extract_lets | split | dsimp +zetaDelta only
theorem writeOuts_in {L : List Part} {s₀ u₀ : State} {r : Nat} {sh : Shard} {g : Group} {j : Nat} {os : List ParamOut} (hk : onlyChanges L s₀ u₀) (he : ([.lregions, .net, .store, .orc].all fun p => L.contains p) = true) : onlyChanges L s₀ (u₀.writeOuts r sh g j os) := onlyChanges_step hk (writeOuts_changes ..) he

theorem sendShardRecord_changes (s : State) (r k : Nat) (t : Tally) : onlyChanges [.bat] s (s.sendShardRecord r k t) := by
  unfold State.sendShardRecord
  repeat' first | (with_reducible first | exact onlyChanges_refl _ _ | apply onlyChanges_ite | apply onBat_in | decide) | extract_lets | split | dsimp +zetaDelta only
theorem sendShardRecord_in {L : List Part} {s₀ u₀ : State} {r k : Nat} {t : Tally} (hk : onlyChanges L s₀ u₀) (he : ([.bat].all fun p => L.contains p) = true) : onlyChanges L s₀ (u₀.sendShardRecord r k t) := onlyChanges_step hk (sendShardRecord_changes ..) he

theorem writeHeader_changes (s : State) (r : Nat) (sh : Shard) (t : Nat) (fp : Option (BitVec 128)) : onlyChanges [.lregions, .net, .store, .orc] s (s.writeHeader r sh t fp) := by
  unfold State.writeHeader
  repeat' first | (with_reducible first | exact onlyChanges_refl _ _ | apply writeLinePart_in | decide) | extract_lets | dsimp +zetaDelta only
theorem writeHeader_in {L : List Part} {s₀ u₀ : State} {r : Nat} {sh : Shard} {t : Nat} {fp : Option (BitVec 128)} (hk : onlyChanges L s₀ u₀) (he : ([.lregions, .net, .store, .orc].all fun p => L.contains p) = true) : onlyChanges L s₀ (u₀.writeHeader r sh t fp) := onlyChanges_step hk (writeHeader_changes ..) he

theorem sendFpAt_changes (s : State) (r k : Nat) (n : U64) (fp : BitVec 128) : onlyChanges [.prs, .out] s (s.sendFpAt r k n fp) := by
  unfold State.sendFpAt
  repeat' first | (with_reducible first | exact onlyChanges_refl _ _ | apply onlyChanges_ite | apply emitOut_in | apply onPrs_in | refine onlyChanges_foldl ?_ _ (fun _ _ => ?_) _ | decide) | extract_lets | split | dsimp +zetaDelta only
theorem sendFpAt_in {L : List Part} {s₀ u₀ : State} {r k : Nat} {n : U64} {fp : BitVec 128} (hk : onlyChanges L s₀ u₀) (he : ([.prs, .out].all fun p => L.contains p) = true) : onlyChanges L s₀ (u₀.sendFpAt r k n fp) := onlyChanges_step hk (sendFpAt_changes ..) he

theorem sendFp_changes (s : State) (r k : Nat) (fp : BitVec 128) : onlyChanges [.prs, .out] s (s.sendFp r k fp) := by
  unfold State.sendFp
  repeat' first | (with_reducible first | exact onlyChanges_refl _ _ | apply onlyChanges_ite | apply sendFpAt_in | decide) | extract_lets | split | dsimp +zetaDelta only
theorem sendFp_in {L : List Part} {s₀ u₀ : State} {r k : Nat} {fp : BitVec 128} (hk : onlyChanges L s₀ u₀) (he : ([.prs, .out].all fun p => L.contains p) = true) : onlyChanges L s₀ (u₀.sendFp r k fp) := onlyChanges_step hk (sendFp_changes ..) he

theorem consume_changes (s : State) (r k : Nat) (sh : Shard) : onlyChanges [.lregions] s (s.consume r k sh) := by
  unfold State.consume
  repeat' first | (with_reducible first | exact onlyChanges_refl _ _ | apply onLreg_in | decide) | extract_lets
theorem consume_in {L : List Part} {s₀ u₀ : State} {r k : Nat} {sh : Shard} (hk : onlyChanges L s₀ u₀) (he : ([.lregions].all fun p => L.contains p) = true) : onlyChanges L s₀ (u₀.consume r k sh) := onlyChanges_step hk (consume_changes ..) he

theorem endShard_changes (s : State) (r k : Nat) (sh : Shard) (p : ShardPhase) (ready : Bool) : onlyChanges [.lregions, .bat] s (s.endShard r k sh p ready) := by
  unfold State.endShard
  repeat' first | (with_reducible first | exact onlyChanges_refl _ _ | apply onlyChanges_ite | apply consume_in | apply setPhase_in | apply sendEmits_in | decide) | extract_lets | split | dsimp +zetaDelta only
theorem endShard_in {L : List Part} {s₀ u₀ : State} {r k : Nat} {sh : Shard} {p : ShardPhase} {ready : Bool} (hk : onlyChanges L s₀ u₀) (he : ([.lregions, .bat].all fun p => L.contains p) = true) : onlyChanges L s₀ (u₀.endShard r k sh p ready) := onlyChanges_step hk (endShard_changes ..) he

theorem updateLines_changes (s : State) (r : Nat) (sh : Shard) (g : Group) (k : PressConst) (trust : Fp) (n j : Nat) (t : Tally) : onlyChanges [.lregions, .net, .store, .orc] s (s.updateLines r sh g k trust n j t).1 := by
  induction n generalizing s j t with
  | zero => exact onlyChanges_refl _ _
  | succ n ih =>
    unfold State.updateLines
    split
    · exact onlyChanges_trans (writeOuts_in (onlyChanges_refl _ _) (by decide)) (ih _ _ _)
    · exact ih _ _ _
theorem updateShard_changes (s : State) (r k : Nat) (sh : Shard) (phi : Fp) (groupTrust : Option Fp) : onlyChanges [.lregions, .bat, .net, .store, .orc, .prs, .out] s (s.updateShard r k sh phi groupTrust) := by
  unfold State.updateShard
  extract_lets g t c trust
  have hu := updateLines_changes s r sh g c trust sh.nlines 0 {}
  generalize s.updateLines r sh g c trust sh.nlines 0 {} = q at hu
  obtain ⟨u, ta⟩ := q
  have hv : onlyChanges [.lregions, .bat, .net, .store, .orc, .prs, .out] s u := onlyChanges_mono hu (by simp)
  dsimp only
  split
  · repeat' first | exact hv | (with_reducible apply endShard_in; case he => decide) | (with_reducible apply sendShardRecord_in; case he => decide) | (with_reducible apply writeHeader_in; case he => decide) | (with_reducible apply onPrs_in; case he => decide) | (with_reducible apply sendFp_in; case he => decide) | dsimp +zetaDelta only
  · repeat' first | exact hv | (with_reducible apply endShard_in; case he => decide) | (with_reducible apply sendShardRecord_in; case he => decide) | (with_reducible apply writeHeader_in; case he => decide) | (with_reducible apply onPrs_in; case he => decide) | (with_reducible apply sendFp_in; case he => decide) | dsimp +zetaDelta only
theorem updateShard_in {L : List Part} {s₀ u₀ : State} {r k : Nat} {sh : Shard} {phi : Fp} {groupTrust : Option Fp} (hk : onlyChanges L s₀ u₀) (he : ([.lregions, .bat, .net, .store, .orc, .prs, .out].all fun p => L.contains p) = true) : onlyChanges L s₀ (u₀.updateShard r k sh phi groupTrust) := onlyChanges_step hk (updateShard_changes ..) he

theorem resolveFp_changes (s : State) (r k : Nat) (n : U64) (sh : Shard) : onlyChanges [.bat, .prs] s (s.resolveFp r k n sh) := by
  unfold State.resolveFp
  repeat' first | (with_reducible first | exact onlyChanges_refl _ _ | apply onlyChanges_ite | apply onPrs_in | apply sendEmits_in | decide) | extract_lets | split | dsimp +zetaDelta only
theorem resolveFp_in {L : List Part} {s₀ u₀ : State} {r k : Nat} {n : U64} {sh : Shard} (hk : onlyChanges L s₀ u₀) (he : ([.bat, .prs].all fun p => L.contains p) = true) : onlyChanges L s₀ (u₀.resolveFp r k n sh) := onlyChanges_step hk (resolveFp_changes ..) he

theorem fresh_in {L : List Part} {s₀ u₀ : State} (hk : onlyChanges L s₀ u₀) (he : ([.free].all fun p => L.contains p) = true) : onlyChanges L s₀ u₀.fresh.2 := onlyChanges_step hk (fresh_changes _) he

theorem fetchShard_changes (s : State) (r k : Nat) (sh : Shard) : onlyChanges [.free, .lregions, .bat, .net, .store, .orc] s (s.fetchShard r k sh) := by
  unfold State.fetchShard
  repeat' first | (with_reducible first | exact onlyChanges_refl _ _ | apply onlyChanges_ite | apply foreignLine_in | apply writeCopy_in | apply writeMaster_in | apply writeLinePart_in | apply sendShardRecord_in | refine onlyChanges_foldl ?_ _ (fun _ _ => ?_) _ | decide) | extract_lets | split | dsimp +zetaDelta only
theorem fetchShard_in {L : List Part} {s₀ u₀ : State} {r k : Nat} {sh : Shard} (hk : onlyChanges L s₀ u₀) (he : ([.free, .lregions, .bat, .net, .store, .orc].all fun p => L.contains p) = true) : onlyChanges L s₀ (u₀.fetchShard r k sh) := onlyChanges_step hk (fetchShard_changes ..) he

theorem checkSheaf_changes (s : State) (r : Nat) (t : Tally) (x : Nat × Nat) : onlyChanges [.store] s (s.checkSheaf r t x).1 := by
  unfold State.checkSheaf
  have k (d : List Byte) (st : Byte) : onlyChanges [.store] s (((s.writeStore r x.1 (x.2 * 2048) d).setStamp r x.1 x.2 st).onStore fun q => { q with rebuild := sat32 q.rebuild 1 }) :=
    onStore_in (setStamp_in (writeStore_in (onlyChanges_refl _ _) (by decide)) (by decide)) (by decide)
  split
  · exact onlyChanges_refl _ _
  · dsimp only
    split
    · exact onlyChanges_refl _ _
    · split
      · exact k _ _
      · exact writeWorking_in (k _ _) (by decide)
theorem checkSheafs_changes (s : State) (r k : Nat) (sh : Shard) : onlyChanges [.bat, .store] s (s.checkSheafs r k sh) := by
  unfold State.checkSheafs
  dsimp only
  refine sendShardRecord_in ?_ (by decide)
  have h : ∀ (xs : List (Nat × Nat)) (a : State × Tally), onlyChanges [.bat, .store] s a.1 → onlyChanges [.bat, .store] s (xs.foldl (fun a l => a.1.checkSheaf r a.2 l) a).1 := by
    intro xs
    induction xs with
    | nil => exact fun _ h => h
    | cons x xs ih => exact fun a h => ih _ (onlyChanges_step h (checkSheaf_changes ..) (by decide))
  exact h _ _ (onlyChanges_refl _ _)
theorem checkSheafs_in {L : List Part} {s₀ u₀ : State} {r k : Nat} {sh : Shard} (hk : onlyChanges L s₀ u₀) (he : ([.bat, .store].all fun p => L.contains p) = true) : onlyChanges L s₀ (u₀.checkSheafs r k sh) := onlyChanges_step hk (checkSheafs_changes ..) he

theorem endMismatch_changes (s : State) (r k : Nat) : onlyChanges [.log] s (s.endMismatch r k) := by
  unfold State.endMismatch
  repeat' first | (with_reducible first | exact onlyChanges_refl _ _ | apply onlyChanges_ite | apply logHealth_in | decide) | extract_lets | split | dsimp +zetaDelta only
theorem endMismatch_in {L : List Part} {s₀ u₀ : State} {r k : Nat} (hk : onlyChanges L s₀ u₀) (he : ([.log].all fun p => L.contains p) = true) : onlyChanges L s₀ (u₀.endMismatch r k) := onlyChanges_step hk (endMismatch_changes ..) he

theorem noteMismatch_changes (s : State) (r k : Nat) (l : List (Nat × BitVec 128)) : onlyChanges [.prs, .flt, .log] s (s.noteMismatch r k l) := by
  unfold State.noteMismatch
  repeat' first | (with_reducible first | exact onlyChanges_refl _ _ | apply onlyChanges_ite | apply onFlt_in | apply onPrs_in | apply logHealth_in | refine onlyChanges_foldl ?_ _ (fun _ _ => ?_) _ | decide) | extract_lets | split | dsimp +zetaDelta only
theorem noteMismatch_in {L : List Part} {s₀ u₀ : State} {r k : Nat} {l : List (Nat × BitVec 128)} (hk : onlyChanges L s₀ u₀) (he : ([.prs, .flt, .log].all fun p => L.contains p) = true) : onlyChanges L s₀ (u₀.noteMismatch r k l) := onlyChanges_step hk (noteMismatch_changes ..) he

theorem resolveMismatch_changes (s : State) (r k : Nat) (n : U64) (sh : Shard) (own : BitVec 128) (l : List (Nat × BitVec 128)) : onlyChanges [.free, .lregions, .bat, .net, .store, .orc, .prs, .log, .out] s (s.resolveMismatch r k n sh own l) := by
  unfold State.resolveMismatch
  repeat' first | (with_reducible first | exact onlyChanges_refl _ _ | apply onlyChanges_ite | apply endMismatch_in | apply resolveFp_in | apply fetchShard_in | apply checkSheafs_in | apply onPrs_in | apply sendFpAt_in | decide) | extract_lets | split | dsimp +zetaDelta only
theorem resolveMismatch_in {L : List Part} {s₀ u₀ : State} {r k : Nat} {n : U64} {sh : Shard} {own : BitVec 128} {l : List (Nat × BitVec 128)} (hk : onlyChanges L s₀ u₀) (he : ([.free, .lregions, .bat, .net, .store, .orc, .prs, .log, .out].all fun p => L.contains p) = true) : onlyChanges L s₀ (u₀.resolveMismatch r k n sh own l) := onlyChanges_step hk (resolveMismatch_changes ..) he

theorem compareFps_changes (s : State) (r k : Nat) (n : U64) (sh : Shard) : onlyChanges [.free, .lregions, .bat, .net, .store, .orc, .prs, .flt, .log, .out] s (s.compareFps r k n sh) := by
  unfold State.compareFps
  repeat' first | (with_reducible first | exact onlyChanges_refl _ _ | apply onlyChanges_ite | apply endMismatch_in | apply resolveFp_in | apply noteMismatch_in | apply resolveMismatch_in | decide) | extract_lets | split | dsimp +zetaDelta only
theorem compareFps_in {L : List Part} {s₀ u₀ : State} {r k : Nat} {n : U64} {sh : Shard} (hk : onlyChanges L s₀ u₀) (he : ([.free, .lregions, .bat, .net, .store, .orc, .prs, .flt, .log, .out].all fun p => L.contains p) = true) : onlyChanges L s₀ (u₀.compareFps r k n sh) := onlyChanges_step hk (compareFps_changes ..) he

/-! Dma -/

theorem endChan_changes (s : State) (k : Nat) (status : Byte) : onlyChanges [.dma] s (s.endChan k status) := by
  unfold State.endChan
  repeat' first | (with_reducible first | exact onlyChanges_refl _ _ | apply onlyChanges_ite | apply onChan_in | decide) | extract_lets | split
theorem endChan_in {L : List Part} {s₀ u₀ : State} {k : Nat} {status : Byte} (hk : onlyChanges L s₀ u₀) (he : ([.dma].all fun p => L.contains p) = true) : onlyChanges L s₀ (u₀.endChan k status) := onlyChanges_step hk (endChan_changes ..) he

theorem chanSend_changes (s : State) (k : Nat) (p : Packet) : onlyChanges [.dma] s (s.chanSend k p) := by
  unfold State.chanSend
  repeat' first | (with_reducible first | exact onlyChanges_refl _ _ | apply onChan_in | decide) | extract_lets
theorem chanSend_in {L : List Part} {s₀ u₀ : State} {k : Nat} {p : Packet} (hk : onlyChanges L s₀ u₀) (he : ([.dma].all fun p => L.contains p) = true) : onlyChanges L s₀ (u₀.chanSend k p) := onlyChanges_step hk (chanSend_changes ..) he

theorem askOne_changes (s : State) (k : Nat) : onlyChanges [.dma] s (s.askOne k) := by
  unfold State.askOne
  repeat' first | (with_reducible first | exact onlyChanges_refl _ _ | apply onlyChanges_ite | apply onChan_in | apply chanSend_in | decide) | extract_lets | split | dsimp +zetaDelta only
theorem askOne_in {L : List Part} {s₀ u₀ : State} {k : Nat} (hk : onlyChanges L s₀ u₀) (he : ([.dma].all fun p => L.contains p) = true) : onlyChanges L s₀ (u₀.askOne k) := onlyChanges_step hk (askOne_changes ..) he

theorem loopN_changes (l : List Part) (f : Nat → State → State) (h : ∀ n s, onlyChanges l s (f n s)) (n : Nat) (s : State) : onlyChanges l s (loopN f n s) := by
  induction n with
  | zero => exact onlyChanges_refl _ _
  | succ n ih => exact onlyChanges_trans ih (h n _)
theorem askMore_changes (s : State) (k : Nat) : onlyChanges [.dma] s (s.askMore k) := loopN_changes _ _ (fun _ _ => askOne_changes _ _) _ _
theorem askMore_in {L : List Part} {s₀ u₀ : State} {k : Nat} (hk : onlyChanges L s₀ u₀) (he : ([.dma].all fun p => L.contains p) = true) : onlyChanges L s₀ (u₀.askMore k) := onlyChanges_step hk (askMore_changes ..) he

theorem rejectChan_changes (s : State) (k : Nat) (a : U64) (kind : Nat) : onlyChanges [.cores, .regions, .bat, .dma, .log] s (s.rejectChan k a kind) := by
  unfold State.rejectChan
  repeat' first | (with_reducible first | exact onlyChanges_refl _ _ | apply onlyChanges_ite | apply rejectOp_in | apply endChan_in | decide) | split
theorem rejectChan_in {L : List Part} {s₀ u₀ : State} {k : Nat} {a : U64} {kind : Nat} (hk : onlyChanges L s₀ u₀) (he : ([.cores, .regions, .bat, .dma, .log].all fun p => L.contains p) = true) : onlyChanges L s₀ (u₀.rejectChan k a kind) := onlyChanges_step hk (rejectChan_changes ..) he

theorem rejectDma_changes (s : State) (r : Nat) (p : Packet) : onlyChanges [.cores, .regions, .bat, .dma, .log] s (s.rejectDma r p) := by
  unfold State.rejectDma
  repeat' first | (with_reducible first | exact onlyChanges_refl _ _ | apply onlyChanges_ite | apply rejectOp_in | apply onChan_in | decide) | extract_lets | split | dsimp +zetaDelta only
theorem rejectDma_in {L : List Part} {s₀ u₀ : State} {r : Nat} {p : Packet} (hk : onlyChanges L s₀ u₀) (he : ([.cores, .regions, .bat, .dma, .log].all fun p => L.contains p) = true) : onlyChanges L s₀ (u₀.rejectDma r p) := onlyChanges_step hk (rejectDma_changes ..) he

theorem chanWrite_changes (s : State) (k : Nat) (x : Desc) (off : Nat) (b : List Byte) (last : Bool) : onlyChanges [.host, .dma] s (s.chanWrite k x off b last) := by
  unfold State.chanWrite
  repeat' first | (with_reducible first | exact onlyChanges_refl _ _ | apply onlyChanges_ite | apply writeHost_in | apply onChan_in | apply chanSend_in | decide) | extract_lets | split
theorem chanWrite_in {L : List Part} {s₀ u₀ : State} {k : Nat} {x : Desc} {off : Nat} {b : List Byte} {last : Bool} (hk : onlyChanges L s₀ u₀) (he : ([.host, .dma].all fun p => L.contains p) = true) : onlyChanges L s₀ (u₀.chanWrite k x off b last) := onlyChanges_step hk (chanWrite_changes ..) he

theorem noteMover_changes (s : State) (k n : Nat) : onlyChanges [.regions, .dma] s (s.noteMover k n) := by
  unfold State.noteMover
  repeat' first | (with_reducible first | exact onlyChanges_refl _ _ | apply onlyChanges_ite | apply countL_in | apply onChan_in | refine onlyChanges_foldl ?_ _ (fun _ _ => ?_) _ | decide) | extract_lets | split | dsimp +zetaDelta only
theorem noteMover_in {L : List Part} {s₀ u₀ : State} {k n : Nat} (hk : onlyChanges L s₀ u₀) (he : ([.regions, .dma].all fun p => L.contains p) = true) : onlyChanges L s₀ (u₀.noteMover k n) := onlyChanges_step hk (noteMover_changes ..) he

theorem abortChan_changes (s : State) (c : Nat) : onlyChanges [.brg, .dma] s (s.abortChan c) := by
  unfold State.abortChan
  repeat' first | (with_reducible first | exact onlyChanges_refl _ _ | apply onlyChanges_ite | apply onHq_in | apply onChan_in | decide) | extract_lets | split | dsimp +zetaDelta only
theorem abortChan_in {L : List Part} {s₀ u₀ : State} {c : Nat} (hk : onlyChanges L s₀ u₀) (he : ([.brg, .dma].all fun p => L.contains p) = true) : onlyChanges L s₀ (u₀.abortChan c) := onlyChanges_step hk (abortChan_changes ..) he

/-! Beacon -/

theorem judgeDisagreement_changes (s : State) : onlyChanges [.run, .brg, .stg, .pwr] s (s.judgeDisagreement) := by
  unfold State.judgeDisagreement
  repeat' first | (with_reducible first | exact onlyChanges_refl _ _ | apply onlyChanges_ite | apply onStg_in | apply event_in | decide) | extract_lets | split | dsimp +zetaDelta only
theorem judgeDisagreement_in {L : List Part} {s₀ u₀ : State} (hk : onlyChanges L s₀ u₀) (he : ([.run, .brg, .stg, .pwr].all fun p => L.contains p) = true) : onlyChanges L s₀ (u₀.judgeDisagreement) := onlyChanges_step hk (judgeDisagreement_changes ..) he

theorem logBeacon_changes (s : State) (e j what : Nat) (m : U16) : onlyChanges [.log] s (s.logBeacon e j what m) := by
  unfold State.logBeacon
  repeat' first | (with_reducible first | exact onlyChanges_refl _ _ | apply logHealth_in | decide)
theorem logBeacon_in {L : List Part} {s₀ u₀ : State} {e j what : Nat} {m : U16} (hk : onlyChanges L s₀ u₀) (he : ([.log].all fun p => L.contains p) = true) : onlyChanges L s₀ (u₀.logBeacon e j what m) := onlyChanges_step hk (logBeacon_changes ..) he

/-! Network -/

theorem recomputeRoutes_changes (s : State) : onlyChanges [.net] s (s.recomputeRoutes) := by
  unfold State.recomputeRoutes
  repeat' first | (with_reducible first | exact onlyChanges_refl _ _ | apply onlyChanges_ite | apply onNet_in | refine onlyChanges_foldl ?_ _ (fun _ _ => ?_) _ | decide) | extract_lets | split | dsimp +zetaDelta only
theorem recomputeRoutes_in {L : List Part} {s₀ u₀ : State} (hk : onlyChanges L s₀ u₀) (he : ([.net].all fun p => L.contains p) = true) : onlyChanges L s₀ (u₀.recomputeRoutes) := onlyChanges_step hk (recomputeRoutes_changes ..) he

theorem onRouter_changes (s : State) (n : Nat) (f : RouterSt → RouterSt) : onlyChanges [.net] s (s.onRouter n f) := by
  unfold State.onRouter
  repeat' first | (with_reducible first | exact onlyChanges_refl _ _ | apply onNet_in | decide) | extract_lets
theorem onRouter_in {L : List Part} {s₀ u₀ : State} {n : Nat} {f : RouterSt → RouterSt} (hk : onlyChanges L s₀ u₀) (he : ([.net].all fun p => L.contains p) = true) : onlyChanges L s₀ (u₀.onRouter n f) := onlyChanges_step hk (onRouter_changes ..) he

theorem reach_changes (s : State) (n key : Nat) (p : Packet) : onlyChanges [.regions, .net] s (s.reach n key p) := by
  unfold State.reach
  repeat' first | (with_reducible first | exact onlyChanges_refl _ _ | apply onlyChanges_ite | apply onRouter_in | apply count_in | decide) | extract_lets | split | dsimp +zetaDelta only
theorem reach_in {L : List Part} {s₀ u₀ : State} {n key : Nat} {p : Packet} (hk : onlyChanges L s₀ u₀) (he : ([.regions, .net].all fun p => L.contains p) = true) : onlyChanges L s₀ (u₀.reach n key p) := onlyChanges_step hk (reach_changes ..) he

theorem letIn_changes (s : State) (n port : Nat) (p : Packet) : onlyChanges [.regions, .net, .log] s (s.letIn n port p) := by
  unfold State.letIn
  repeat' first | (with_reducible first | exact onlyChanges_refl _ _ | apply onlyChanges_ite | apply onNet_in | apply logHealth_in | apply reach_in | decide) | extract_lets | split | dsimp +zetaDelta only
theorem letIn_in {L : List Part} {s₀ u₀ : State} {n port : Nat} {p : Packet} (hk : onlyChanges L s₀ u₀) (he : ([.regions, .net, .log].all fun p => L.contains p) = true) : onlyChanges L s₀ (u₀.letIn n port p) := onlyChanges_step hk (letIn_changes ..) he

theorem offer_in {L : List Part} {s₀ u₀ : State} {n port : Nat} {p : Packet} {take : State → State} (hk : onlyChanges L s₀ u₀) (he : ([.cores, .regions, .bat, .net, .log].all fun p => L.contains p) = true) (ht : onlyChanges L s₀ (take u₀)) : onlyChanges L s₀ (u₀.offer n port p take) := by
  unfold State.offer
  split
  · exact onlyChanges_step ht (rejectOp_changes ..) (by simp only [List.all_eq_true] at he ⊢; intro q hq; exact he q (by revert q; decide))
  · split
    · exact onlyChanges_step ht (letIn_changes ..) (by simp only [List.all_eq_true] at he ⊢; intro q hq; exact he q (by revert q; decide))
    · exact hk

theorem injectCores_changes (s : State) (n r : Nat) : onlyChanges [.cores, .lregions, .regions, .bat, .net, .log] s (s.injectCores n r) := by
  unfold State.injectCores
  repeat' first | (with_reducible first | exact onlyChanges_refl _ _ | apply offer_in | apply onCore_in | apply progress_in | refine onlyChanges_foldl ?_ _ (fun _ _ => ?_) _ | decide) | extract_lets | split
theorem injectCores_in {L : List Part} {s₀ u₀ : State} {n r : Nat} (hk : onlyChanges L s₀ u₀) (he : ([.cores, .lregions, .regions, .bat, .net, .log].all fun p => L.contains p) = true) : onlyChanges L s₀ (u₀.injectCores n r) := onlyChanges_step hk (injectCores_changes ..) he

theorem injectStore_changes (s : State) (n r : Nat) : onlyChanges [.cores, .lregions, .regions, .bat, .net, .log] s (s.injectStore n r) := by
  unfold State.injectStore
  repeat' first | (with_reducible first | exact onlyChanges_refl _ _ | apply offer_in | apply onLreg_in | decide) | extract_lets | split
theorem injectStore_in {L : List Part} {s₀ u₀ : State} {n r : Nat} (hk : onlyChanges L s₀ u₀) (he : ([.cores, .lregions, .regions, .bat, .net, .log].all fun p => L.contains p) = true) : onlyChanges L s₀ (u₀.injectStore n r) := onlyChanges_step hk (injectStore_changes ..) he

theorem injectDma_changes (s : State) (n r : Nat) : onlyChanges [.cores, .regions, .bat, .net, .dma, .log] s (s.injectDma n r) := by
  unfold State.injectDma
  repeat' first | (with_reducible first | exact onlyChanges_refl _ _ | apply onlyChanges_ite | apply offer_in | apply onChan_in | refine onlyChanges_foldl ?_ _ (fun _ _ => ?_) _ | decide) | extract_lets | split | dsimp +zetaDelta only
theorem injectDma_in {L : List Part} {s₀ u₀ : State} {n r : Nat} (hk : onlyChanges L s₀ u₀) (he : ([.cores, .regions, .bat, .net, .dma, .log].all fun p => L.contains p) = true) : onlyChanges L s₀ (u₀.injectDma n r) := onlyChanges_step hk (injectDma_changes ..) he

theorem injectLink_changes (s : State) (n : Nat) : onlyChanges [.cores, .regions, .bat, .net, .eng, .log] s (s.injectLink n) := by
  unfold State.injectLink
  repeat' first | (with_reducible first | exact onlyChanges_refl _ _ | apply onlyChanges_ite | apply offer_in | apply onEng_in | decide) | extract_lets | split | dsimp +zetaDelta only
theorem injectLink_in {L : List Part} {s₀ u₀ : State} {n : Nat} (hk : onlyChanges L s₀ u₀) (he : ([.cores, .regions, .bat, .net, .eng, .log].all fun p => L.contains p) = true) : onlyChanges L s₀ (u₀.injectLink n) := onlyChanges_step hk (injectLink_changes ..) he

theorem injectHost_changes (s : State) (n : Nat) : onlyChanges [.cores, .regions, .bat, .net, .dma, .log] s (s.injectHost n) := by
  unfold State.injectHost
  repeat' first | (with_reducible first | exact onlyChanges_refl _ _ | apply onlyChanges_ite | apply offer_in | apply onChan_in | refine onlyChanges_foldl ?_ _ (fun _ _ => ?_) _ | decide) | extract_lets | split
theorem injectHost_in {L : List Part} {s₀ u₀ : State} {n : Nat} (hk : onlyChanges L s₀ u₀) (he : ([.cores, .regions, .bat, .net, .dma, .log].all fun p => L.contains p) = true) : onlyChanges L s₀ (u₀.injectHost n) := onlyChanges_step hk (injectHost_changes ..) he

theorem inject_changes (s : State) (n : Nat) : onlyChanges [.cores, .lregions, .regions, .bat, .net, .dma, .eng, .log] s (s.inject n) := by
  unfold State.inject
  repeat' first | (with_reducible first | exact onlyChanges_refl _ _ | apply onlyChanges_ite | apply injectLink_in | apply injectHost_in | apply injectCores_in | apply injectStore_in | apply injectDma_in | decide) | extract_lets | split | dsimp +zetaDelta only
theorem inject_in {L : List Part} {s₀ u₀ : State} {n : Nat} (hk : onlyChanges L s₀ u₀) (he : ([.cores, .lregions, .regions, .bat, .net, .dma, .eng, .log].all fun p => L.contains p) = true) : onlyChanges L s₀ (u₀.inject n) := onlyChanges_step hk (inject_changes ..) he

theorem releaseLog_changes (s : State) (m n : Nat) : onlyChanges [.eng, .flt] s (s.releaseLog m n) := by
  induction n generalizing s with
  | zero => exact onlyChanges_refl _ _
  | succ n ih =>
    unfold State.releaseLog
    split
    · exact onlyChanges_refl _ _
    · split
      · exact onlyChanges_refl _ _
      · extract_lets s1 s2
        have k : onlyChanges [.eng, .flt] s s1 := onFlt_in (onlyChanges_refl _ _) (by decide)
        exact onlyChanges_trans (onlyChanges_ite k (enterSlab_in k (by decide))) (ih _)
theorem releaseLog_in {L : List Part} {s₀ u₀ : State} {m n : Nat} (hk : onlyChanges L s₀ u₀) (he : ([.eng, .flt].all fun p => L.contains p) = true) : onlyChanges L s₀ (u₀.releaseLog m n) := onlyChanges_step hk (releaseLog_changes ..) he

theorem suppress_changes (s : State) (m : Nat) (p : Packet) (x : LogItem) : onlyChanges [.eng, .flt] s (s.suppress m p x) := by
  unfold State.suppress
  repeat' first | (with_reducible first | exact onlyChanges_refl _ _ | apply onlyChanges_ite | apply onFlt_in | apply releaseLog_in | decide) | extract_lets | split | dsimp +zetaDelta only
theorem suppress_in {L : List Part} {s₀ u₀ : State} {m : Nat} {p : Packet} {x : LogItem} (hk : onlyChanges L s₀ u₀) (he : ([.eng, .flt].all fun p => L.contains p) = true) : onlyChanges L s₀ (u₀.suppress m p x) := onlyChanges_step hk (suppress_changes ..) he

theorem sendStream_changes (s : State) (e j slot : Nat) (p : Packet) : onlyChanges [.free, .lregions, .net, .store, .orc, .eng, .flt, .log, .out] s (s.sendStream e j slot p) := by
  unfold State.sendStream
  repeat' first | (with_reducible first | exact onlyChanges_refl _ _ | apply onlyChanges_ite | apply onTx_in | apply sendFrame_in | apply logItem_in | decide) | extract_lets | split | dsimp +zetaDelta only
theorem sendStream_in {L : List Part} {s₀ u₀ : State} {e j slot : Nat} {p : Packet} (hk : onlyChanges L s₀ u₀) (he : ([.free, .lregions, .net, .store, .orc, .eng, .flt, .log, .out].all fun p => L.contains p) = true) : onlyChanges L s₀ (u₀.sendStream e j slot p) := onlyChanges_step hk (sendStream_changes ..) he

theorem leave_changes (s : State) (n : Nat) (p : Packet) : onlyChanges [.free, .cores, .lregions, .regions, .bat, .net, .store, .orc, .eng, .flt, .log, .out] s (s.leave n p) := by
  unfold State.leave
  repeat' first | (with_reducible first | exact onlyChanges_refl _ _ | apply onlyChanges_ite | apply sendFrame_in | apply suppress_in | apply rejectOp_in | apply sendStream_in | decide) | extract_lets | split | dsimp +zetaDelta only
theorem leave_in {L : List Part} {s₀ u₀ : State} {n : Nat} {p : Packet} (hk : onlyChanges L s₀ u₀) (he : ([.free, .cores, .lregions, .regions, .bat, .net, .store, .orc, .eng, .flt, .log, .out].all fun p => L.contains p) = true) : onlyChanges L s₀ (u₀.leave n p) := onlyChanges_step hk (leave_changes ..) he

theorem deliver_changes (s : State) (n out : Nat) (p : Packet) : onlyChanges [.cores, .lregions, .dma] s (s.deliver n out p) := by
  unfold State.deliver
  repeat' first | (with_reducible first | exact onlyChanges_refl _ _ | apply onlyChanges_ite | apply onChan_in | apply onCore_in | apply deltaAcked_in | apply onLreg_in | decide) | extract_lets | split
theorem deliver_in {L : List Part} {s₀ u₀ : State} {n out : Nat} {p : Packet} (hk : onlyChanges L s₀ u₀) (he : ([.cores, .lregions, .dma].all fun p => L.contains p) = true) : onlyChanges L s₀ (u₀.deliver n out p) := onlyChanges_step hk (deliver_changes ..) he

theorem cross_changes (s : State) (n out : Nat) (p : Packet) : onlyChanges [.free, .cores, .lregions, .regions, .bat, .net, .store, .orc, .dma, .eng, .flt, .log, .out] s (s.cross n out p) := by
  unfold State.cross
  repeat' first | (with_reducible first | exact onlyChanges_refl _ _ | apply onlyChanges_ite | apply reach_in | apply leave_in | apply deliver_in | decide) | extract_lets | split | dsimp +zetaDelta only
theorem cross_in {L : List Part} {s₀ u₀ : State} {n out : Nat} {p : Packet} (hk : onlyChanges L s₀ u₀) (he : ([.free, .cores, .lregions, .regions, .bat, .net, .store, .orc, .dma, .eng, .flt, .log, .out].all fun p => L.contains p) = true) : onlyChanges L s₀ (u₀.cross n out p) := onlyChanges_step hk (cross_changes ..) he

theorem noteFlits_changes (s : State) (n out : Nat) (p : Packet) : onlyChanges [.regions, .net] s (s.noteFlits n out p) := by
  unfold State.noteFlits
  repeat' first | (with_reducible first | exact onlyChanges_refl _ _ | apply onlyChanges_ite | apply onRouter_in | apply count_in | decide) | extract_lets | split | dsimp +zetaDelta only
theorem noteFlits_in {L : List Part} {s₀ u₀ : State} {n out : Nat} {p : Packet} (hk : onlyChanges L s₀ u₀) (he : ([.regions, .net].all fun p => L.contains p) = true) : onlyChanges L s₀ (u₀.noteFlits n out p) := onlyChanges_step hk (noteFlits_changes ..) he

theorem noteSent_changes (s : State) (n out key : Nat) (p : Packet) : onlyChanges [.regions, .net] s (s.noteSent n out key p) := by
  unfold State.noteSent
  repeat' first | (with_reducible first | exact onlyChanges_refl _ _ | apply onlyChanges_ite | apply onRouter_in | apply noteFlits_in | decide) | extract_lets | split | dsimp +zetaDelta only
theorem noteSent_in {L : List Part} {s₀ u₀ : State} {n out key : Nat} {p : Packet} (hk : onlyChanges L s₀ u₀) (he : ([.regions, .net].all fun p => L.contains p) = true) : onlyChanges L s₀ (u₀.noteSent n out key p) := onlyChanges_step hk (noteSent_changes ..) he

theorem retryOutput_changes (s : State) (n out key : Nat) (p : Packet) : onlyChanges [.regions, .bat, .net] s (s.retryOutput n out key p) := by
  unfold State.retryOutput
  dsimp only
  repeat' first | (with_reducible first | exact onlyChanges_refl _ _ | apply onlyChanges_ite | apply onRouter_in | apply noteFlits_in | apply report_in | apply netEvent_in | apply noteFlits_in | apply onRouter_in | decide) | extract_lets | split | dsimp +zetaDelta only
theorem retryOutput_in {L : List Part} {s₀ u₀ : State} {n out key : Nat} {p : Packet} (hk : onlyChanges L s₀ u₀) (he : ([.regions, .bat, .net].all fun p => L.contains p) = true) : onlyChanges L s₀ (u₀.retryOutput n out key p) := onlyChanges_step hk (retryOutput_changes ..) he

/-! FaultReports -/

theorem reportRegion_changes (s : State) (p cls : Nat) : onlyChanges [.bat] s (s.reportRegion p cls) := by
  unfold State.reportRegion
  repeat' first | (with_reducible first | exact onlyChanges_refl _ _ | apply onlyChanges_ite | apply report_in | decide) | split
theorem reportRegion_in {L : List Part} {s₀ u₀ : State} {p cls : Nat} (hk : onlyChanges L s₀ u₀) (he : ([.bat].all fun p => L.contains p) = true) : onlyChanges L s₀ (u₀.reportRegion p cls) := onlyChanges_step hk (reportRegion_changes ..) he

theorem abandonStep_changes (s : State) : onlyChanges [.sram, .cores, .lregions, .regions, .num, .run, .bat, .net, .store, .eng, .flt] s s.abandonStep := by
  unfold State.abandonStep
  extract_lets q s1 s2 s3 s4 s5 s6 s7 s8
  have k1 : onlyChanges [.sram, .cores, .lregions, .regions, .num, .run, .bat, .net, .store, .eng, .flt] s s1 := discardSlab_in (onlyChanges_refl _ _) (by decide)
  have k2 : onlyChanges [.sram, .cores, .lregions, .regions, .num, .run, .bat, .net, .store, .eng, .flt] s s2 := onlyChanges_ite (onStore_in k1 (by decide)) k1
  have k3 : onlyChanges [.sram, .cores, .lregions, .regions, .num, .run, .bat, .net, .store, .eng, .flt] s s3 := onlyChanges_foldl k2 _ (fun s r => by split <;> first | exact onlyChanges_refl _ _ | exact onReg_in (onlyChanges_refl _ _) (by decide)) _
  have k5 : onlyChanges [.sram, .cores, .lregions, .regions, .num, .run, .bat, .net, .store, .eng, .flt] s s5 := onLregs_in (onCores_in k3 (by decide)) (by decide)
  have k6 : onlyChanges [.sram, .cores, .lregions, .regions, .num, .run, .bat, .net, .store, .eng, .flt] s s6 := by
    refine onlyChanges_trans k5 ?_
    have kk : ∀ o : Option Snapshot, onlyChanges [.sram, .cores, .lregions, .regions, .num, .run, .bat, .net, .store, .eng, .flt] s5 (match o with | none => s5 | some q => { s5 with sram := s5.restoreSram q }) := by
      intro o
      cases o with
      | none => exact onlyChanges_refl _ _
      | some q => constructor; intro p hp; cases p <;> first | rfl | (exfalso; revert hp; decide)
    exact kk q
  exact onRun_in (onNum_in (onFlt_in k6 (by decide)) (by decide)) (by decide)
theorem abandonStep_in {L : List Part} {s₀ u₀ : State} (hk : onlyChanges L s₀ u₀) (he : ([.sram, .cores, .lregions, .regions, .num, .run, .bat, .net, .store, .eng, .flt].all fun p => L.contains p) = true) : onlyChanges L s₀ u₀.abandonStep := onlyChanges_step hk (abandonStep_changes ..) he

theorem exchangeGone_changes (s : State) : onlyChanges [.sram, .cores, .lregions, .regions, .num, .run, .bat, .net, .store, .eng, .flt, .log] s s.exchangeGone := by
  unfold State.exchangeGone
  repeat' first | (with_reducible first | exact onlyChanges_refl _ _ | apply onlyChanges_ite | apply logHealth_in | apply abandonStep_in | apply onRun_in | apply onFlt_in | decide) | extract_lets | split | dsimp +zetaDelta only
theorem exchangeGone_in {L : List Part} {s₀ u₀ : State} (hk : onlyChanges L s₀ u₀) (he : ([.sram, .cores, .lregions, .regions, .num, .run, .bat, .net, .store, .eng, .flt, .log].all fun p => L.contains p) = true) : onlyChanges L s₀ u₀.exchangeGone := onlyChanges_step hk (exchangeGone_changes ..) he

theorem secondMember_changes (s : State) (r : Nat) : onlyChanges [.sram, .cores, .lregions, .regions, .num, .run, .brg, .bat, .net, .store, .eng, .flt, .log, .pwr] s (s.secondMember r) := by
  unfold State.secondMember
  repeat' first | (with_reducible first | exact onlyChanges_refl _ _ | apply onlyChanges_ite | apply exchangeGone_in | apply stateLost_in | decide) | extract_lets | split | dsimp +zetaDelta only
theorem secondMember_in {L : List Part} {s₀ u₀ : State} {r : Nat} (hk : onlyChanges L s₀ u₀) (he : ([.sram, .cores, .lregions, .regions, .num, .run, .brg, .bat, .net, .store, .eng, .flt, .log, .pwr].all fun p => L.contains p) = true) : onlyChanges L s₀ (u₀.secondMember r) := onlyChanges_step hk (secondMember_changes ..) he

theorem dropDeltasOf_changes (s : State) (r : Nat) : onlyChanges [.lregions, .net] s (s.dropDeltasOf r) := by
  unfold State.dropDeltasOf
  repeat' first | (with_reducible first | exact onlyChanges_refl _ _ | apply onlyChanges_ite | apply onLregs_in | apply onRouters_in | apply onLreg_in | decide) | extract_lets | split | dsimp +zetaDelta only
theorem dropDeltasOf_in {L : List Part} {s₀ u₀ : State} {r : Nat} (hk : onlyChanges L s₀ u₀) (he : ([.lregions, .net].all fun p => L.contains p) = true) : onlyChanges L s₀ (u₀.dropDeltasOf r) := onlyChanges_step hk (dropDeltasOf_changes ..) he

theorem promote_changes (s : State) (p r b : Nat) : onlyChanges [.lregions, .cfg, .net, .store, .flt, .log] s (s.promote p r b) := by
  unfold State.promote
  repeat' first | (with_reducible first | exact onlyChanges_refl _ _ | apply onlyChanges_ite | apply onCfg_in | apply logHealth_in | apply onFlt_in | apply dropDeltasOf_in | apply onStore_in | decide) | extract_lets | split | dsimp +zetaDelta only
theorem promote_in {L : List Part} {s₀ u₀ : State} {p r b : Nat} (hk : onlyChanges L s₀ u₀) (he : ([.lregions, .cfg, .net, .store, .flt, .log].all fun p => L.contains p) = true) : onlyChanges L s₀ (u₀.promote p r b) := onlyChanges_step hk (promote_changes ..) he

theorem loseRegion_changes (s : State) (p : Nat) (half : Option Nat) : onlyChanges [.sram, .cores, .lregions, .regions, .settings, .num, .run, .brg, .cfg, .bat, .net, .store, .eng, .flt, .log, .pwr] s (s.loseRegion p half) := by
  unfold State.loseRegion
  repeat' first | (with_reducible first | exact onlyChanges_refl _ _ | apply onlyChanges_ite | apply onReg_in | apply recomputeRoutes_in | apply sparesExhausted_in | apply onStore_in | apply secondMember_in | apply moveSettings_in | apply promote_in | decide) | extract_lets | split | dsimp +zetaDelta only
theorem loseRegion_in {L : List Part} {s₀ u₀ : State} {p : Nat} {half : Option Nat} (hk : onlyChanges L s₀ u₀) (he : ([.sram, .cores, .lregions, .regions, .settings, .num, .run, .brg, .cfg, .bat, .net, .store, .eng, .flt, .log, .pwr].all fun p => L.contains p) = true) : onlyChanges L s₀ (u₀.loseRegion p half) := onlyChanges_step hk (loseRegion_changes ..) he

theorem absorb_changes (s : State) (f : FaultRep) : onlyChanges [.run, .brg, .flt, .log, .pwr] s (s.absorb f) := by
  unfold State.absorb
  repeat' first | (with_reducible first | exact onlyChanges_refl _ _ | apply onlyChanges_ite | apply onFlt_in | apply startRewind_in | apply rejoin_in | apply sparesExhausted_in | decide) | extract_lets | split | dsimp +zetaDelta only
theorem absorb_in {L : List Part} {s₀ u₀ : State} {f : FaultRep} (hk : onlyChanges L s₀ u₀) (he : ([.run, .brg, .flt, .log, .pwr].all fun p => L.contains p) = true) : onlyChanges L s₀ (u₀.absorb f) := onlyChanges_step hk (absorb_changes ..) he

theorem loseCore_changes (s : State) (f : FaultRep) (p pc : Nat) : onlyChanges [.sram, .cores, .lregions, .regions, .settings, .num, .run, .brg, .cfg, .bat, .net, .store, .eng, .flt, .log, .pwr] s (s.loseCore f p pc) := by
  unfold State.loseCore
  repeat' first | (with_reducible first | exact onlyChanges_refl _ _ | apply onlyChanges_ite | apply onFlt_in | apply loseRegion_in | apply absorb_in | decide) | extract_lets | split | dsimp +zetaDelta only
theorem loseCore_in {L : List Part} {s₀ u₀ : State} {f : FaultRep} {p pc : Nat} (hk : onlyChanges L s₀ u₀) (he : ([.sram, .cores, .lregions, .regions, .settings, .num, .run, .brg, .cfg, .bat, .net, .store, .eng, .flt, .log, .pwr].all fun p => L.contains p) = true) : onlyChanges L s₀ (u₀.loseCore f p pc) := onlyChanges_step hk (loseCore_changes ..) he

theorem takeReport_changes (s : State) (f : FaultRep) : onlyChanges [.sram, .cores, .lregions, .regions, .settings, .num, .run, .brg, .cfg, .bat, .net, .store, .eng, .flt, .log, .pwr] s (s.takeReport f) := by
  unfold State.takeReport
  repeat' first | (with_reducible first | exact onlyChanges_refl _ _ | apply onlyChanges_ite | apply logHealth_in | apply loseCore_in | apply loseRegion_in | apply absorb_in | decide) | extract_lets | split | dsimp +zetaDelta only
theorem takeReport_in {L : List Part} {s₀ u₀ : State} {f : FaultRep} (hk : onlyChanges L s₀ u₀) (he : ([.sram, .cores, .lregions, .regions, .settings, .num, .run, .brg, .cfg, .bat, .net, .store, .eng, .flt, .log, .pwr].all fun p => L.contains p) = true) : onlyChanges L s₀ (u₀.takeReport f) := onlyChanges_step hk (takeReport_changes ..) he

theorem imageFault_changes (s : State) (x : IllegalRep) : onlyChanges [.run, .brg, .flt, .log, .pwr] s (s.imageFault x) := by
  unfold State.imageFault
  repeat' first | (with_reducible first | exact onlyChanges_refl _ _ | apply onlyChanges_ite | apply logHealth_in | apply event_in | apply onFlt_in | apply holdFor_in | apply startRewind_in | apply rejoin_in | decide) | extract_lets | split | dsimp +zetaDelta only
theorem imageFault_in {L : List Part} {s₀ u₀ : State} {x : IllegalRep} (hk : onlyChanges L s₀ u₀) (he : ([.run, .brg, .flt, .log, .pwr].all fun p => L.contains p) = true) : onlyChanges L s₀ (u₀.imageFault x) := onlyChanges_step hk (imageFault_changes ..) he

theorem loadSlots_changes (s : State) (r : Nat) (c : CoreCourse) : onlyChanges [.free, .sram] s (s.loadSlots r c) := by
  unfold State.loadSlots
  repeat' first | (with_reducible first | exact onlyChanges_refl _ _ | apply onlyChanges_ite | apply foreignLine_in | apply writeSram_in | refine onlyChanges_foldl ?_ _ (fun _ _ => ?_) _ | decide) | extract_lets | split | dsimp +zetaDelta only
theorem loadSlots_in {L : List Part} {s₀ u₀ : State} {r : Nat} {c : CoreCourse} (hk : onlyChanges L s₀ u₀) (he : ([.free, .sram].all fun p => L.contains p) = true) : onlyChanges L s₀ (u₀.loadSlots r c) := onlyChanges_step hk (loadSlots_changes ..) he

theorem possibleFault_changes (s : State) (x : IllegalRep) (digestOk : Bool) : onlyChanges [.free, .sram, .cores, .lregions, .regions, .settings, .num, .run, .brg, .cfg, .bat, .net, .store, .eng, .flt, .log, .pwr] s (s.possibleFault x digestOk) := by
  unfold State.possibleFault
  repeat' first | (with_reducible first | exact onlyChanges_refl _ _ | apply onlyChanges_ite | apply loadSlots_in | apply logHealth_in | apply onFlt_in | apply startRewind_in | apply rejoin_in | apply takeReport_in | decide) | extract_lets | split | dsimp +zetaDelta only
theorem possibleFault_in {L : List Part} {s₀ u₀ : State} {x : IllegalRep} {digestOk : Bool} (hk : onlyChanges L s₀ u₀) (he : ([.free, .sram, .cores, .lregions, .regions, .settings, .num, .run, .brg, .cfg, .bat, .net, .store, .eng, .flt, .log, .pwr].all fun p => L.contains p) = true) : onlyChanges L s₀ (u₀.possibleFault x digestOk) := onlyChanges_step hk (possibleFault_changes ..) he

/-! Boundary -/

theorem clearStep_changes (s : State) : onlyChanges [.cores, .lregions, .num, .orc, .prs, .flt] s s.clearStep := by
  unfold State.clearStep
  repeat' first | (with_reducible first | exact onlyChanges_refl _ _ | apply onlyChanges_ite | apply onOrc_in | apply onCores_in | apply onLregs_in | apply onPrs_in | apply onNum_in | apply onFlt_in | decide) | extract_lets | split | dsimp +zetaDelta only
theorem clearStep_in {L : List Part} {s₀ u₀ : State} (hk : onlyChanges L s₀ u₀) (he : ([.cores, .lregions, .num, .orc, .prs, .flt].all fun p => L.contains p) = true) : onlyChanges L s₀ u₀.clearStep := onlyChanges_step hk (clearStep_changes ..) he

theorem endRerun_changes (s : State) : onlyChanges [.run] s (s.endRerun) := by
  unfold State.endRerun
  repeat' first | (with_reducible first | exact onlyChanges_refl _ _ | apply onRun_in | decide) | extract_lets
theorem endRerun_in {L : List Part} {s₀ u₀ : State} (hk : onlyChanges L s₀ u₀) (he : ([.run].all fun p => L.contains p) = true) : onlyChanges L s₀ (u₀.endRerun) := onlyChanges_step hk (endRerun_changes ..) he

theorem updateScale_changes (s : State) : onlyChanges [.prs] s (s.updateScale) := by
  unfold State.updateScale
  repeat' first | (with_reducible first | exact onlyChanges_refl _ _ | apply onlyChanges_ite | apply onPrs_in | decide) | extract_lets | split | dsimp +zetaDelta only
theorem updateScale_in {L : List Part} {s₀ u₀ : State} (hk : onlyChanges L s₀ u₀) (he : ([.prs].all fun p => L.contains p) = true) : onlyChanges L s₀ (u₀.updateScale) := onlyChanges_step hk (updateScale_changes ..) he

theorem clearHold_changes (s : State) : onlyChanges [.lregions, .num] s (s.clearHold) := by
  unfold State.clearHold
  repeat' first | (with_reducible first | exact onlyChanges_refl _ _ | apply onLregs_in | apply onNum_in | decide) | extract_lets | dsimp +zetaDelta only
theorem clearHold_in {L : List Part} {s₀ u₀ : State} (hk : onlyChanges L s₀ u₀) (he : ([.lregions, .num].all fun p => L.contains p) = true) : onlyChanges L s₀ (u₀.clearHold) := onlyChanges_step hk (clearHold_changes ..) he

theorem afterCommit_changes (s : State) : onlyChanges [.free, .lregions, .regions, .settings, .num, .run, .brg, .stg, .net, .store, .orc, .flt, .pwr] s s.afterCommit := by
  unfold State.afterCommit
  repeat' first | (with_reducible first | exact onlyChanges_refl _ _ | apply onlyChanges_ite | apply onRun_in | apply finishHolds_in | apply clearHold_in | apply event_in | apply advance_in | decide) | extract_lets | split | dsimp +zetaDelta only
theorem afterCommit_in {L : List Part} {s₀ u₀ : State} (hk : onlyChanges L s₀ u₀) (he : ([.free, .lregions, .regions, .settings, .num, .run, .brg, .stg, .net, .store, .orc, .flt, .pwr].all fun p => L.contains p) = true) : onlyChanges L s₀ u₀.afterCommit := onlyChanges_step hk (afterCommit_changes ..) he

theorem latchCounts_changes (s : State) (p : Nat) : onlyChanges [.regions] s (s.latchCounts p) := by
  unfold State.latchCounts
  repeat' first | (with_reducible first | exact onlyChanges_refl _ _ | apply onlyChanges_ite | apply onReg_in | decide) | extract_lets | split | dsimp +zetaDelta only
theorem latchCounts_in {L : List Part} {s₀ u₀ : State} {p : Nat} (hk : onlyChanges L s₀ u₀) (he : ([.regions].all fun p => L.contains p) = true) : onlyChanges L s₀ (u₀.latchCounts p) := onlyChanges_step hk (latchCounts_changes ..) he

theorem writeScale_changes (s : State) (r : Nat) : onlyChanges [.sram, .bat] s (s.writeScale r) := by
  unfold State.writeScale
  repeat' first | (with_reducible first | exact onlyChanges_refl _ _ | apply writeSram_in | apply sendEmits_in | refine onlyChanges_foldl ?_ _ (fun _ _ => ?_) _ | decide) | extract_lets | split | dsimp +zetaDelta only
theorem writeScale_in {L : List Part} {s₀ u₀ : State} {r : Nat} (hk : onlyChanges L s₀ u₀) (he : ([.sram, .bat].all fun p => L.contains p) = true) : onlyChanges L s₀ (u₀.writeScale r) := onlyChanges_step hk (writeScale_changes ..) he

theorem evalSchedules_changes (s : State) (r : Nat) : onlyChanges [.lregions] s (s.evalSchedules r) := by
  unfold State.evalSchedules
  repeat' first | (with_reducible first | exact onlyChanges_refl _ _ | apply onLreg_in | decide) | extract_lets
theorem evalSchedules_in {L : List Part} {s₀ u₀ : State} {r : Nat} (hk : onlyChanges L s₀ u₀) (he : ([.lregions].all fun p => L.contains p) = true) : onlyChanges L s₀ (u₀.evalSchedules r) := onlyChanges_step hk (evalSchedules_changes ..) he

theorem latchOnce_changes (s : State) (r p : Nat) : onlyChanges [.lregions, .regions] s (s.latchOnce r p) := by
  unfold State.latchOnce
  repeat' first | (with_reducible first | exact onlyChanges_refl _ _ | apply onlyChanges_ite | apply latchCounts_in | apply onLreg_in | decide) | extract_lets | split
theorem latchOnce_in {L : List Part} {s₀ u₀ : State} {r p : Nat} (hk : onlyChanges L s₀ u₀) (he : ([.lregions, .regions].all fun p => L.contains p) = true) : onlyChanges L s₀ (u₀.latchOnce r p) := onlyChanges_step hk (latchOnce_changes ..) he

theorem takeToken_changes (s : State) (r : Nat) : onlyChanges [.sram, .lregions, .regions, .settings, .bat, .log] s (s.takeToken r) := by
  unfold State.takeToken
  repeat' first | (with_reducible first | exact onlyChanges_refl _ _ | apply onlyChanges_ite | apply stepBoundaryRegion_in | apply latchOnce_in | apply evalSchedules_in | apply onLreg_in | apply writeScale_in | decide) | extract_lets | split | dsimp +zetaDelta only
theorem takeToken_in {L : List Part} {s₀ u₀ : State} {r : Nat} (hk : onlyChanges L s₀ u₀) (he : ([.sram, .lregions, .regions, .settings, .bat, .log].all fun p => L.contains p) = true) : onlyChanges L s₀ (u₀.takeToken r) := onlyChanges_step hk (takeToken_changes ..) he

/-! Move -/

theorem moveLine_changes (s : State) (r : Nat) (sh : Shard) (or_ : Nat) (old : Option Shard) (copy j : Nat) : onlyChanges [.free, .lregions, .cfg, .net, .store, .orc] s (s.moveLine r sh or_ old copy j) := by
  unfold State.moveLine
  repeat' first | (with_reducible first | exact onlyChanges_refl _ _ | apply onlyChanges_ite | apply foreignLine_in | apply onCfg_in | apply writeMaster_in | apply writeCopy_in | decide) | extract_lets | split | dsimp +zetaDelta only
theorem moveLine_in {L : List Part} {s₀ u₀ : State} {r : Nat} {sh : Shard} {or_ : Nat} {old : Option Shard} {copy j : Nat} (hk : onlyChanges L s₀ u₀) (he : ([.free, .lregions, .cfg, .net, .store, .orc].all fun p => L.contains p) = true) : onlyChanges L s₀ (u₀.moveLine r sh or_ old copy j) := onlyChanges_step hk (moveLine_changes ..) he

theorem moveLines_changes (s : State) (r : Nat) (sh : Shard) (or_ : Nat) (old : Option Shard) : onlyChanges [.free, .lregions, .cfg, .net, .store, .orc] s (s.moveLines r sh or_ old) := by
  unfold State.moveLines
  repeat' first | (with_reducible first | exact onlyChanges_refl _ _ | apply onlyChanges_ite | apply moveLine_in | refine onlyChanges_foldl ?_ _ (fun _ _ => ?_) _ | decide) | extract_lets | split
theorem moveLines_in {L : List Part} {s₀ u₀ : State} {r : Nat} {sh : Shard} {or_ : Nat} {old : Option Shard} (hk : onlyChanges L s₀ u₀) (he : ([.free, .lregions, .cfg, .net, .store, .orc].all fun p => L.contains p) = true) : onlyChanges L s₀ (u₀.moveLines r sh or_ old) := onlyChanges_step hk (moveLines_changes ..) he

/-! HostQueue -/

theorem refuseIndex_changes (s : State) (q : Nat) (v : U32) : onlyChanges [.brg, .log] s (s.refuseIndex q v) := by
  unfold State.refuseIndex
  repeat' first | (with_reducible first | exact onlyChanges_refl _ _ | apply onHq_in | apply onBrg_in | apply logHealth_in | decide) | extract_lets
theorem refuseIndex_in {L : List Part} {s₀ u₀ : State} {q : Nat} {v : U32} (hk : onlyChanges L s₀ u₀) (he : ([.brg, .log].all fun p => L.contains p) = true) : onlyChanges L s₀ (u₀.refuseIndex q v) := onlyChanges_step hk (refuseIndex_changes ..) he

theorem itemWritten_changes (s : State) (q : Nat) (x : CqItem) : onlyChanges [.run, .brg, .bat] s (s.itemWritten q x) := by
  unfold State.itemWritten
  repeat' first | (with_reducible first | exact onlyChanges_refl _ _ | apply onlyChanges_ite | apply onRun_in | apply sendEmits_in | apply onHq_in | decide) | extract_lets | split | dsimp +zetaDelta only
theorem itemWritten_in {L : List Part} {s₀ u₀ : State} {q : Nat} {x : CqItem} (hk : onlyChanges L s₀ u₀) (he : ([.run, .brg, .bat].all fun p => L.contains p) = true) : onlyChanges L s₀ (u₀.itemWritten q x) := onlyChanges_step hk (itemWritten_changes ..) he

theorem sendMsix_changes (s : State) (q : Nat) : onlyChanges [.brg, .out] s (s.sendMsix q) := by
  unfold State.sendMsix
  repeat' first | (with_reducible first | exact onlyChanges_refl _ _ | apply emitOut_in | apply onHq_in | decide) | extract_lets
theorem sendMsix_in {L : List Part} {s₀ u₀ : State} {q : Nat} (hk : onlyChanges L s₀ u₀) (he : ([.brg, .out].all fun p => L.contains p) = true) : onlyChanges L s₀ (u₀.sendMsix q) := onlyChanges_step hk (sendMsix_changes ..) he

/-! Reset -/

theorem resetBridge_changes (s : State) : onlyChanges [.dma] s s.resetBridge := by
  unfold State.resetBridge
  repeat' first | (with_reducible first | exact onlyChanges_refl _ _ | apply onlyChanges_ite | apply onChan_in | apply endChan_in | refine onlyChanges_foldl ?_ _ (fun _ _ => ?_) _ | decide) | extract_lets | split | dsimp +zetaDelta only
theorem resetBridge_in {L : List Part} {s₀ u₀ : State} (hk : onlyChanges L s₀ u₀) (he : ([.dma].all fun p => L.contains p) = true) : onlyChanges L s₀ u₀.resetBridge := onlyChanges_step hk (resetBridge_changes ..) he

theorem endCommands_changes (s : State) : onlyChanges [.run, .brg] s (s.endCommands) := by
  unfold State.endCommands
  repeat' first | (with_reducible first | exact onlyChanges_refl _ _ | apply onRun_in | apply done0_in | refine onlyChanges_foldl ?_ _ (fun _ _ => ?_) _ | decide) | extract_lets | dsimp +zetaDelta only
theorem endCommands_in {L : List Part} {s₀ u₀ : State} (hk : onlyChanges L s₀ u₀) (he : ([.run, .brg].all fun p => L.contains p) = true) : onlyChanges L s₀ (u₀.endCommands) := onlyChanges_step hk (endCommands_changes ..) he

theorem clearCompute_changes (s : State) : onlyChanges [.cores, .lregions, .grd, .num, .run, .stg, .cfg, .bat, .prs, .dma, .eng, .flt] s s.clearCompute := by
  constructor; intro p hp; cases p <;> first | (exfalso; revert hp; decide) | rfl
theorem clearCompute_in {L : List Part} {s₀ u₀ : State} (hk : onlyChanges L s₀ u₀) (he : ([.cores, .lregions, .grd, .num, .run, .stg, .cfg, .bat, .prs, .dma, .eng, .flt].all fun p => L.contains p) = true) : onlyChanges L s₀ (u₀.clearCompute) := onlyChanges_step hk (clearCompute_changes ..) he

theorem idleRegions_changes (s : State) : onlyChanges [.regions] s (s.idleRegions) := by
  unfold State.idleRegions
  repeat' first | (with_reducible first | exact onlyChanges_refl _ _ | apply onReg_in | refine onlyChanges_foldl ?_ _ (fun _ _ => ?_) _ | decide) | extract_lets
theorem idleRegions_in {L : List Part} {s₀ u₀ : State} (hk : onlyChanges L s₀ u₀) (he : ([.regions].all fun p => L.contains p) = true) : onlyChanges L s₀ (u₀.idleRegions) := onlyChanges_step hk (idleRegions_changes ..) he

theorem clearTraffic_changes (s : State) : onlyChanges [.net, .store, .orc] s (s.clearTraffic) := by
  unfold State.clearTraffic
  repeat' first | (with_reducible first | exact onlyChanges_refl _ _ | apply onOrc_in | apply onStore_in | apply onNet_in | apply recomputeRoutes_in | decide) | extract_lets
theorem clearTraffic_in {L : List Part} {s₀ u₀ : State} (hk : onlyChanges L s₀ u₀) (he : ([.net, .store, .orc].all fun p => L.contains p) = true) : onlyChanges L s₀ (u₀.clearTraffic) := onlyChanges_step hk (clearTraffic_changes ..) he

theorem applyGather_changes (s : State) (k : Nat) : onlyChanges [.lregions, .brg, .net, .store, .orc] s (s.applyGather k) := by
  unfold State.applyGather
  repeat' first | (with_reducible first | exact onlyChanges_refl _ _ | apply onlyChanges_ite | apply onBrg_in | apply changeLine_in | refine onlyChanges_foldl ?_ _ (fun _ _ => ?_) _ | decide) | extract_lets | split | dsimp +zetaDelta only
theorem applyGather_in {L : List Part} {s₀ u₀ : State} {k : Nat} (hk : onlyChanges L s₀ u₀) (he : ([.lregions, .brg, .net, .store, .orc].all fun p => L.contains p) = true) : onlyChanges L s₀ (u₀.applyGather k) := onlyChanges_step hk (applyGather_changes ..) he

theorem applyGathered_changes (s : State) : onlyChanges [.lregions, .brg, .net, .store, .orc] s s.applyGathered := by
  unfold State.applyGathered
  repeat' first | (with_reducible first | exact onlyChanges_refl _ _ | apply onlyChanges_ite | apply applyGather_in | refine onlyChanges_foldl ?_ _ (fun _ _ => ?_) _ | decide) | extract_lets | split | dsimp +zetaDelta only
theorem applyGathered_in {L : List Part} {s₀ u₀ : State} (hk : onlyChanges L s₀ u₀) (he : ([.lregions, .brg, .net, .store, .orc].all fun p => L.contains p) = true) : onlyChanges L s₀ u₀.applyGathered := onlyChanges_step hk (applyGathered_changes ..) he

theorem computeReset_changes (s : State) : onlyChanges [.cores, .lregions, .regions, .grd, .num, .run, .brg, .stg, .cfg, .bat, .net, .store, .orc, .prs, .dma, .eng, .flt, .log] s s.computeReset := by
  unfold State.computeReset
  repeat' first | (with_reducible first | exact onlyChanges_refl _ _ | apply onlyChanges_ite | apply applyGathered_in | apply resetBridge_in | apply clearCompute_in | apply idleRegions_in | apply clearTraffic_in | apply logHealth_in | decide) | extract_lets | split | dsimp +zetaDelta only
theorem computeReset_in {L : List Part} {s₀ u₀ : State} (hk : onlyChanges L s₀ u₀) (he : ([.cores, .lregions, .regions, .grd, .num, .run, .brg, .stg, .cfg, .bat, .net, .store, .orc, .prs, .dma, .eng, .flt, .log].all fun p => L.contains p) = true) : onlyChanges L s₀ u₀.computeReset := onlyChanges_step hk (computeReset_changes ..) he

theorem volatileLost_changes (s : State) : onlyChanges [.time, .sram, .cores, .lregions, .regions, .settings, .grd, .num, .run, .brg, .stg, .cfg, .bat, .net, .store, .orc, .prs, .dma, .eng, .flt, .pwr, .keys, .mir] s s.volatileLost := by
  constructor; intro p hp; cases p <;> first | (exfalso; revert hp; decide) | rfl
theorem volatileLost_in {L : List Part} {s₀ u₀ : State} (hk : onlyChanges L s₀ u₀) (he : ([.time, .sram, .cores, .lregions, .regions, .settings, .grd, .num, .run, .brg, .stg, .cfg, .bat, .net, .store, .orc, .prs, .dma, .eng, .flt, .pwr, .keys, .mir].all fun p => L.contains p) = true) : onlyChanges L s₀ (u₀.volatileLost) := onlyChanges_step hk (volatileLost_changes ..) he

theorem openClass_changes (s : State) (detail : Nat) : onlyChanges [.free, .log] s (s.openClass detail) := by
  unfold State.openClass
  repeat' first | (with_reducible first | exact onlyChanges_refl _ _ | apply fresh_in | apply logHealth_in | apply fresh_in | decide) | extract_lets | split | dsimp +zetaDelta only
theorem openClass_in {L : List Part} {s₀ u₀ : State} {detail : Nat} (hk : onlyChanges L s₀ u₀) (he : ([.free, .log].all fun p => L.contains p) = true) : onlyChanges L s₀ (u₀.openClass detail) := onlyChanges_step hk (openClass_changes ..) he

theorem quiesceNow_changes (s : State) : onlyChanges [.time, .free, .sram, .cores, .lregions, .regions, .settings, .grd, .num, .run, .brg, .stg, .cfg, .bat, .net, .store, .orc, .prs, .dma, .eng, .flt, .log, .pwr, .keys, .mir, .out] s (s.quiesceNow) := by
  unfold State.quiesceNow
  repeat' first | (with_reducible first | exact onlyChanges_refl _ _ | apply emitOut_in | apply openClass_in | apply volatileLost_in | decide)
theorem quiesceNow_in {L : List Part} {s₀ u₀ : State} (hk : onlyChanges L s₀ u₀) (he : ([.time, .free, .sram, .cores, .lregions, .regions, .settings, .grd, .num, .run, .brg, .stg, .cfg, .bat, .net, .store, .orc, .prs, .dma, .eng, .flt, .log, .pwr, .keys, .mir, .out].all fun p => L.contains p) = true) : onlyChanges L s₀ (u₀.quiesceNow) := onlyChanges_step hk (quiesceNow_changes ..) he

/-! Apply -/

theorem applyLatch_changes (s : State) (r : Nat) : onlyChanges [.lregions, .regions] s (s.applyLatch r) := by
  unfold State.applyLatch
  repeat' first | (with_reducible first | exact onlyChanges_refl _ _ | apply onlyChanges_ite | apply latchCounts_in | apply onLreg_in | decide) | extract_lets | split | dsimp +zetaDelta only
theorem applyLatch_in {L : List Part} {s₀ u₀ : State} {r : Nat} (hk : onlyChanges L s₀ u₀) (he : ([.lregions, .regions].all fun p => L.contains p) = true) : onlyChanges L s₀ (u₀.applyLatch r) := onlyChanges_step hk (applyLatch_changes ..) he

theorem loadFault_changes (s : State) (r : Nat) : onlyChanges [.bat] s (s.loadFault r) := by
  unfold State.loadFault
  repeat' first | (with_reducible first | exact onlyChanges_refl _ _ | apply onlyChanges_ite | apply report_in | decide) | extract_lets | split
theorem loadFault_in {L : List Part} {s₀ u₀ : State} {r : Nat} (hk : onlyChanges L s₀ u₀) (he : ([.bat].all fun p => L.contains p) = true) : onlyChanges L s₀ (u₀.loadFault r) := onlyChanges_step hk (loadFault_changes ..) he

theorem startCore_changes (s : State) (r : Nat) (c : CoreCourse) : onlyChanges [.free, .sram, .cores] s (s.startCore r c) := by
  unfold State.startCore
  repeat' first | (with_reducible first | exact onlyChanges_refl _ _ | apply onlyChanges_ite | apply loadSlots_in | apply onCore_in | refine onlyChanges_foldl ?_ _ (fun _ _ => ?_) _ | decide) | extract_lets | split | dsimp +zetaDelta only
theorem startCore_in {L : List Part} {s₀ u₀ : State} {r : Nat} {c : CoreCourse} (hk : onlyChanges L s₀ u₀) (he : ([.free, .sram, .cores].all fun p => L.contains p) = true) : onlyChanges L s₀ (u₀.startCore r c) := onlyChanges_step hk (startCore_changes ..) he

theorem startRegion_changes (s : State) (r : Nat) (rc : RegionCourse) : onlyChanges [.free, .sram, .cores, .lregions, .bat, .dma] s (s.startRegion r rc) := by
  unfold State.startRegion
  repeat' first | (with_reducible first | exact onlyChanges_refl _ _ | apply onlyChanges_ite | apply startCore_in | apply onLreg_in | apply onChan_in | refine onlyChanges_foldl ?_ _ (fun _ _ => ?_) _ | decide) | extract_lets | split | dsimp +zetaDelta only
theorem startRegion_in {L : List Part} {s₀ u₀ : State} {r : Nat} {rc : RegionCourse} (hk : onlyChanges L s₀ u₀) (he : ([.free, .sram, .cores, .lregions, .bat, .dma].all fun p => L.contains p) = true) : onlyChanges L s₀ (u₀.startRegion r rc) := onlyChanges_step hk (startRegion_changes ..) he

theorem startClocks_changes (s : State) (mc : ModeCourse) : onlyChanges [.regions, .settings] s (s.startClocks mc) := by
  unfold State.startClocks
  repeat' first | (with_reducible first | exact onlyChanges_refl _ _ | apply onReg_in | apply putActive_in | refine onlyChanges_foldl ?_ _ (fun _ _ => ?_) _ | decide) | extract_lets | split | dsimp +zetaDelta only
theorem startClocks_in {L : List Part} {s₀ u₀ : State} {mc : ModeCourse} (hk : onlyChanges L s₀ u₀) (he : ([.regions, .settings].all fun p => L.contains p) = true) : onlyChanges L s₀ (u₀.startClocks mc) := onlyChanges_step hk (startClocks_changes ..) he

theorem modeSettings_changes (s : State) (mc : ModeCourse) : onlyChanges [.settings] s (s.modeSettings mc) := by
  unfold State.modeSettings
  repeat' first | (with_reducible first | exact onlyChanges_refl _ _ | apply onlyChanges_ite | apply putActive_in | refine onlyChanges_foldl ?_ _ (fun _ _ => ?_) _ | decide) | extract_lets | split | dsimp +zetaDelta only
theorem modeSettings_in {L : List Part} {s₀ u₀ : State} {mc : ModeCourse} (hk : onlyChanges L s₀ u₀) (he : ([.settings].all fun p => L.contains p) = true) : onlyChanges L s₀ (u₀.modeSettings mc) := onlyChanges_step hk (modeSettings_changes ..) he

theorem epochSettings_changes (s : State) (l : List (Nat × U32)) (w : List Pending) : onlyChanges [.settings] s (s.epochSettings l w) := by
  unfold State.epochSettings
  repeat' first | (with_reducible first | exact onlyChanges_refl _ _ | apply putActive_in | refine onlyChanges_foldl ?_ _ (fun _ _ => ?_) _ | decide) | extract_lets | dsimp +zetaDelta only
theorem epochSettings_in {L : List Part} {s₀ u₀ : State} {l : List (Nat × U32)} {w : List Pending} (hk : onlyChanges L s₀ u₀) (he : ([.settings].all fun p => L.contains p) = true) : onlyChanges L s₀ (u₀.epochSettings l w) := onlyChanges_step hk (epochSettings_changes ..) he

theorem identityMap_changes (s : State) : onlyChanges [.cfg, .log] s (s.identityMap) := by
  unfold State.identityMap
  repeat' first | (with_reducible first | exact onlyChanges_refl _ _ | apply onlyChanges_ite | apply onCfg_in | apply logHealth_in | refine onlyChanges_foldl ?_ _ (fun _ _ => ?_) _ | decide) | extract_lets | split | dsimp +zetaDelta only
theorem identityMap_in {L : List Part} {s₀ u₀ : State} (hk : onlyChanges L s₀ u₀) (he : ([.cfg, .log].all fun p => L.contains p) = true) : onlyChanges L s₀ (u₀.identityMap) := onlyChanges_step hk (identityMap_changes ..) he

theorem switchOff_changes (s : State) (p : Nat) : onlyChanges [.regions] s (s.switchOff p) := by
  unfold State.switchOff
  repeat' first | (with_reducible first | exact onlyChanges_refl _ _ | apply onReg_in | decide) | extract_lets
theorem switchOff_in {L : List Part} {s₀ u₀ : State} {p : Nat} (hk : onlyChanges L s₀ u₀) (he : ([.regions].all fun p => L.contains p) = true) : onlyChanges L s₀ (u₀.switchOff p) := onlyChanges_step hk (switchOff_changes ..) he

theorem darkenSpares_changes (s : State) (mc : ModeCourse) : onlyChanges [.regions] s (s.darkenSpares mc) := by
  unfold State.darkenSpares
  repeat' first | (with_reducible first | exact onlyChanges_refl _ _ | apply onlyChanges_ite | apply switchOff_in | refine onlyChanges_foldl ?_ _ (fun _ _ => ?_) _ | decide) | extract_lets | split | dsimp +zetaDelta only
theorem darkenSpares_in {L : List Part} {s₀ u₀ : State} {mc : ModeCourse} (hk : onlyChanges L s₀ u₀) (he : ([.regions].all fun p => L.contains p) = true) : onlyChanges L s₀ (u₀.darkenSpares mc) := onlyChanges_step hk (darkenSpares_changes ..) he

theorem coldRelocate_changes (s : State) : onlyChanges [.regions, .cfg, .store, .flt, .log] s s.coldRelocate := by
  unfold State.coldRelocate
  repeat' first | (with_reducible first | exact onlyChanges_refl _ _ | apply onlyChanges_ite | apply onReg_in | apply onCfg_in | apply onFlt_in | apply logHealth_in | apply onStore_in | refine onlyChanges_foldl ?_ _ (fun _ _ => ?_) _ | decide) | extract_lets | split | dsimp +zetaDelta only
theorem coldRelocate_in {L : List Part} {s₀ u₀ : State} (hk : onlyChanges L s₀ u₀) (he : ([.regions, .cfg, .store, .flt, .log].all fun p => L.contains p) = true) : onlyChanges L s₀ u₀.coldRelocate := onlyChanges_step hk (coldRelocate_changes ..) he

theorem coldStart_changes (s : State) (i : Image) : onlyChanges [.regions, .run, .cfg, .store, .orc, .prs, .flt, .log] s (s.coldStart i) := by
  unfold State.coldStart
  repeat' first | (with_reducible first | exact onlyChanges_refl _ _ | apply onlyChanges_ite | apply identityMap_in | apply darkenSpares_in | apply onStore_in | apply onOrc_in | apply onPrs_in | apply onFlt_in | apply coldRelocate_in | apply onRun_in | decide) | extract_lets | split | dsimp +zetaDelta only
theorem coldStart_in {L : List Part} {s₀ u₀ : State} {i : Image} (hk : onlyChanges L s₀ u₀) (he : ([.regions, .run, .cfg, .store, .orc, .prs, .flt, .log].all fun p => L.contains p) = true) : onlyChanges L s₀ (u₀.coldStart i) := onlyChanges_step hk (coldStart_changes ..) he

theorem takePartners_changes (s : State) : onlyChanges [.cfg, .flt] s (s.takePartners) := by
  unfold State.takePartners
  repeat' first | (with_reducible first | exact onlyChanges_refl _ _ | apply onCfg_in | apply onFlt_in | decide) | extract_lets | split
theorem takePartners_in {L : List Part} {s₀ u₀ : State} (hk : onlyChanges L s₀ u₀) (he : ([.cfg, .flt].all fun p => L.contains p) = true) : onlyChanges L s₀ (u₀.takePartners) := onlyChanges_step hk (takePartners_changes ..) he

theorem takeConfig_changes (s : State) (i : Image) : onlyChanges [.cfg] s (s.takeConfig i) := by
  unfold State.takeConfig
  repeat' first | (with_reducible first | exact onlyChanges_refl _ _ | apply onlyChanges_ite | apply onCfg_in | decide) | extract_lets | split | dsimp +zetaDelta only
theorem takeConfig_in {L : List Part} {s₀ u₀ : State} {i : Image} (hk : onlyChanges L s₀ u₀) (he : ([.cfg].all fun p => L.contains p) = true) : onlyChanges L s₀ (u₀.takeConfig i) := onlyChanges_step hk (takeConfig_changes ..) he

theorem loadScale_changes (s : State) (i : Image) : onlyChanges [.prs] s (s.loadScale i) := by
  unfold State.loadScale
  repeat' first | (with_reducible first | exact onlyChanges_refl _ _ | apply onlyChanges_ite | apply onPrs_in | decide) | extract_lets | split | dsimp +zetaDelta only
theorem loadScale_in {L : List Part} {s₀ u₀ : State} {i : Image} (hk : onlyChanges L s₀ u₀) (he : ([.prs].all fun p => L.contains p) = true) : onlyChanges L s₀ (u₀.loadScale i) := onlyChanges_step hk (loadScale_changes ..) he

theorem sendMarker_changes (s : State) : onlyChanges [.mir] s (s.sendMarker) := by
  unfold State.sendMarker
  repeat' first | (with_reducible first | exact onlyChanges_refl _ _ | apply onMir_in | decide) | extract_lets | dsimp +zetaDelta only
theorem sendMarker_in {L : List Part} {s₀ u₀ : State} (hk : onlyChanges L s₀ u₀) (he : ([.mir].all fun p => L.contains p) = true) : onlyChanges L s₀ (u₀.sendMarker) := onlyChanges_step hk (sendMarker_changes ..) he

theorem completeArm_changes (s : State) : onlyChanges [.run, .brg] s (s.completeArm) := by
  unfold State.completeArm
  repeat' first | (with_reducible first | exact onlyChanges_refl _ _ | apply onRun_in | apply done0_in | decide) | extract_lets | split | dsimp +zetaDelta only
theorem completeArm_in {L : List Part} {s₀ u₀ : State} (hk : onlyChanges L s₀ u₀) (he : ([.run, .brg].all fun p => L.contains p) = true) : onlyChanges L s₀ (u₀.completeArm) := onlyChanges_step hk (completeArm_changes ..) he

theorem releaseContributions_changes (s : State) : onlyChanges [.eng, .flt] s (s.releaseContributions) := by
  unfold State.releaseContributions
  repeat' first | (with_reducible first | exact onlyChanges_refl _ _ | apply onFlt_in | apply enterSlab_in | refine onlyChanges_foldl ?_ _ (fun _ _ => ?_) _ | decide) | extract_lets | dsimp +zetaDelta only
theorem releaseContributions_in {L : List Part} {s₀ u₀ : State} (hk : onlyChanges L s₀ u₀) (he : ([.eng, .flt].all fun p => L.contains p) = true) : onlyChanges L s₀ (u₀.releaseContributions) := onlyChanges_step hk (releaseContributions_changes ..) he

theorem releaseLogs_changes (s : State) : onlyChanges [.eng, .flt] s (s.releaseLogs) := by
  unfold State.releaseLogs
  repeat' first | (with_reducible first | exact onlyChanges_refl _ _ | apply releaseLog_in | apply releaseLog_in | refine onlyChanges_foldl ?_ _ (fun _ _ => ?_) _ | decide) | extract_lets
theorem releaseLogs_in {L : List Part} {s₀ u₀ : State} (hk : onlyChanges L s₀ u₀) (he : ([.eng, .flt].all fun p => L.contains p) = true) : onlyChanges L s₀ (u₀.releaseLogs) := onlyChanges_step hk (releaseLogs_changes ..) he

theorem resetNow_changes (s : State) : onlyChanges [.cores, .lregions, .regions, .grd, .num, .run, .brg, .stg, .cfg, .bat, .net, .store, .orc, .prs, .dma, .eng, .flt, .log] s (s.resetNow) := by
  unfold State.resetNow
  repeat' first | (with_reducible first | exact onlyChanges_refl _ _ | apply onRun_in | apply endCommands_in | apply computeReset_in | apply done0_in | decide) | extract_lets | split | dsimp +zetaDelta only
theorem resetNow_in {L : List Part} {s₀ u₀ : State} (hk : onlyChanges L s₀ u₀) (he : ([.cores, .lregions, .regions, .grd, .num, .run, .brg, .stg, .cfg, .bat, .net, .store, .orc, .prs, .dma, .eng, .flt, .log].all fun p => L.contains p) = true) : onlyChanges L s₀ (u₀.resetNow) := onlyChanges_step hk (resetNow_changes ..) he

theorem advanceAgain_changes (s : State) : onlyChanges [.free, .lregions, .regions, .settings, .num, .run, .brg, .stg, .net, .store, .orc, .eng, .flt, .pwr] s s.advanceAgain := by
  unfold State.advanceAgain
  repeat' first | (with_reducible first | exact onlyChanges_refl _ _ | apply onlyChanges_ite | apply advance_in | apply releaseContributions_in | apply releaseLogs_in | decide) | extract_lets | split | dsimp +zetaDelta only
theorem advanceAgain_in {L : List Part} {s₀ u₀ : State} (hk : onlyChanges L s₀ u₀) (he : ([.free, .lregions, .regions, .settings, .num, .run, .brg, .stg, .net, .store, .orc, .eng, .flt, .pwr].all fun p => L.contains p) = true) : onlyChanges L s₀ u₀.advanceAgain := onlyChanges_step hk (advanceAgain_changes ..) he

theorem afterApply_changes (s : State) : onlyChanges [.free, .cores, .lregions, .regions, .settings, .grd, .num, .run, .brg, .stg, .cfg, .bat, .net, .store, .orc, .prs, .dma, .eng, .flt, .log, .pwr] s s.afterApply := by
  unfold State.afterApply
  repeat' first | (with_reducible first | exact onlyChanges_refl _ _ | apply onlyChanges_ite | apply resetNow_in | apply boundarySnap_in | apply advanceAgain_in | decide) | extract_lets | split | dsimp +zetaDelta only
theorem afterApply_in {L : List Part} {s₀ u₀ : State} (hk : onlyChanges L s₀ u₀) (he : ([.free, .cores, .lregions, .regions, .settings, .grd, .num, .run, .brg, .stg, .cfg, .bat, .net, .store, .orc, .prs, .dma, .eng, .flt, .log, .pwr].all fun p => L.contains p) = true) : onlyChanges L s₀ u₀.afterApply := onlyChanges_step hk (afterApply_changes ..) he

theorem emptyStage_changes (s : State) : onlyChanges [.stg] s (s.emptyStage) := by
  unfold State.emptyStage
  repeat' first | (with_reducible first | exact onlyChanges_refl _ _ | apply onStg_in | decide) | extract_lets
theorem emptyStage_in {L : List Part} {s₀ u₀ : State} (hk : onlyChanges L s₀ u₀) (he : ([.stg].all fun p => L.contains p) = true) : onlyChanges L s₀ (u₀.emptyStage) := onlyChanges_step hk (emptyStage_changes ..) he

theorem applyImage_changes (s : State) (i : Image) (cold : Bool) : onlyChanges [.free, .sram, .cores, .lregions, .regions, .settings, .run, .cfg, .bat, .net, .store, .orc, .prs, .dma, .eng, .flt, .log, .out] s (s.applyImage i cold) := by
  unfold State.applyImage
  repeat' first | (with_reducible first | exact onlyChanges_refl _ _ | apply onlyChanges_ite | apply dropStaged_in | apply takeConfig_in | apply coldStart_in | apply startRegion_in | apply startClocks_in | apply modeSettings_in | apply epochSettings_in | apply takePartners_in | apply onRun_in | apply loadScale_in | apply declareLinks_in | apply recomputeRoutes_in | apply onCfg_in | refine onlyChanges_foldl ?_ _ (fun _ _ => ?_) _ | decide) | extract_lets | split | dsimp +zetaDelta only
theorem applyImage_in {L : List Part} {s₀ u₀ : State} {i : Image} {cold : Bool} (hk : onlyChanges L s₀ u₀) (he : ([.free, .sram, .cores, .lregions, .regions, .settings, .run, .cfg, .bat, .net, .store, .orc, .prs, .dma, .eng, .flt, .log, .out].all fun p => L.contains p) = true) : onlyChanges L s₀ (u₀.applyImage i cold) := onlyChanges_step hk (applyImage_changes ..) he

/-! Recovery -/

theorem repair_changes (s : State) (f : FaultRep) : onlyChanges [.free, .sram, .flt] s (s.repair f) := by
  unfold State.repair
  repeat' first | (with_reducible first | exact onlyChanges_refl _ _ | apply onlyChanges_ite | apply onFlt_in | apply loadSlots_in | refine onlyChanges_foldl ?_ _ (fun _ _ => ?_) _ | decide) | extract_lets | split | dsimp +zetaDelta only
theorem repair_in {L : List Part} {s₀ u₀ : State} {f : FaultRep} (hk : onlyChanges L s₀ u₀) (he : ([.free, .sram, .flt].all fun p => L.contains p) = true) : onlyChanges L s₀ (u₀.repair f) := onlyChanges_step hk (repair_changes ..) he

theorem logRepairs_changes (s : State) : onlyChanges [.log] s (s.logRepairs) := by
  unfold State.logRepairs
  repeat' first | (with_reducible first | exact onlyChanges_refl _ _ | apply logHealth_in | refine onlyChanges_foldl ?_ _ (fun _ _ => ?_) _ | decide) | extract_lets | dsimp +zetaDelta only
theorem logRepairs_in {L : List Part} {s₀ u₀ : State} (hk : onlyChanges L s₀ u₀) (he : ([.log].all fun p => L.contains p) = true) : onlyChanges L s₀ (u₀.logRepairs) := onlyChanges_step hk (logRepairs_changes ..) he

theorem askHold_changes (s : State) : onlyChanges [.num, .run] s (s.askHold) := by
  unfold State.askHold
  repeat' first | (with_reducible first | exact onlyChanges_refl _ _ | apply onlyChanges_ite | apply onRun_in | apply triggerHold_in | decide) | extract_lets | split | dsimp +zetaDelta only
theorem askHold_in {L : List Part} {s₀ u₀ : State} (hk : onlyChanges L s₀ u₀) (he : ([.num, .run].all fun p => L.contains p) = true) : onlyChanges L s₀ (u₀.askHold) := onlyChanges_step hk (askHold_changes ..) he

theorem readyAgain_changes (s : State) : onlyChanges [.bat] s s.readyAgain := by
  unfold State.readyAgain
  repeat' first | (with_reducible first | exact onlyChanges_refl _ _ | apply onlyChanges_ite | apply sendEmits_in | refine onlyChanges_foldl ?_ _ (fun _ _ => ?_) _ | decide) | extract_lets | split | dsimp +zetaDelta only
theorem readyAgain_in {L : List Part} {s₀ u₀ : State} (hk : onlyChanges L s₀ u₀) (he : ([.bat].all fun p => L.contains p) = true) : onlyChanges L s₀ u₀.readyAgain := onlyChanges_step hk (readyAgain_changes ..) he

theorem resume_changes (s : State) : onlyChanges [.free, .sram, .lregions, .regions, .settings, .num, .run, .brg, .stg, .bat, .net, .store, .orc, .eng, .flt, .log, .pwr] s s.resume := by
  unfold State.resume
  repeat' first | (with_reducible first | exact onlyChanges_refl _ _ | apply onlyChanges_ite | apply logRepairs_in | apply onFlt_in | apply writeScale_in | apply readyAgain_in | apply releaseContributions_in | apply releaseLogs_in | apply askHold_in | apply advance_in | refine onlyChanges_foldl ?_ _ (fun _ _ => ?_) _ | decide) | extract_lets | split | dsimp +zetaDelta only
theorem resume_in {L : List Part} {s₀ u₀ : State} (hk : onlyChanges L s₀ u₀) (he : ([.free, .sram, .lregions, .regions, .settings, .num, .run, .brg, .stg, .bat, .net, .store, .orc, .eng, .flt, .log, .pwr].all fun p => L.contains p) = true) : onlyChanges L s₀ u₀.resume := onlyChanges_step hk (resume_changes ..) he

theorem rowWorking_changes (s : State) (r : Nat) (t : OrcTable) (o : Nat × Nat × Nat × Nat) (pos : Nat) : onlyChanges [.store] s (s.rowWorking r t o pos) := by
  unfold State.rowWorking
  repeat' first | (with_reducible first | exact onlyChanges_refl _ _ | apply onlyChanges_ite | apply writeStore_in | apply setStamp_in | refine onlyChanges_foldl ?_ _ (fun _ _ => ?_) _ | decide) | extract_lets | split | dsimp +zetaDelta only
theorem rowWorking_in {L : List Part} {s₀ u₀ : State} {r : Nat} {t : OrcTable} {o : Nat × Nat × Nat × Nat} {pos : Nat} (hk : onlyChanges L s₀ u₀) (he : ([.store].all fun p => L.contains p) = true) : onlyChanges L s₀ (u₀.rowWorking r t o pos) := onlyChanges_step hk (rowWorking_changes ..) he

theorem rowRecord_changes (s : State) (r : Nat) (t : OrcTable) (o : Nat × Nat × Nat × Nat) (pos : Nat) : onlyChanges [.bat] s (s.rowRecord r t o pos) := by
  unfold State.rowRecord
  repeat' first | (with_reducible first | exact onlyChanges_refl _ _ | apply onlyChanges_ite | apply sendShardRecord_in | refine onlyChanges_foldl ?_ _ (fun _ _ => ?_) _ | decide) | extract_lets | split | dsimp +zetaDelta only
theorem rowRecord_in {L : List Part} {s₀ u₀ : State} {r : Nat} {t : OrcTable} {o : Nat × Nat × Nat × Nat} {pos : Nat} (hk : onlyChanges L s₀ u₀) (he : ([.bat].all fun p => L.contains p) = true) : onlyChanges L s₀ (u₀.rowRecord r t o pos) := onlyChanges_step hk (rowRecord_changes ..) he

theorem countRebuilt_changes (s : State) (n : Nat) : onlyChanges [.store] s (s.countRebuilt n) := by
  unfold State.countRebuilt
  repeat' first | (with_reducible first | exact onlyChanges_refl _ _ | apply onlyChanges_ite | apply onStore_in | decide) | extract_lets | split | dsimp +zetaDelta only
theorem countRebuilt_in {L : List Part} {s₀ u₀ : State} {n : Nat} (hk : onlyChanges L s₀ u₀) (he : ([.store].all fun p => L.contains p) = true) : onlyChanges L s₀ (u₀.countRebuilt n) := onlyChanges_step hk (countRebuilt_changes ..) he

theorem regenerateRow_changes (s : State) (r bank line : Nat) : onlyChanges [.bat, .store] s (s.regenerateRow r bank line) := by
  unfold State.regenerateRow
  repeat' first | (with_reducible first | exact onlyChanges_refl _ _ | apply onlyChanges_ite | apply rowWorking_in | apply countRebuilt_in | apply rowRecord_in | decide) | extract_lets | split | dsimp +zetaDelta only
theorem regenerateRow_in {L : List Part} {s₀ u₀ : State} {r bank line : Nat} (hk : onlyChanges L s₀ u₀) (he : ([.bat, .store].all fun p => L.contains p) = true) : onlyChanges L s₀ (u₀.regenerateRow r bank line) := onlyChanges_step hk (regenerateRow_changes ..) he

theorem regenerate_changes (s : State) (r bank line : Nat) (d : List Byte) : onlyChanges [.bat, .store] s (s.regenerate r bank line d) := by
  unfold State.regenerate
  repeat' first | (with_reducible first | exact onlyChanges_refl _ _ | apply onlyChanges_ite | apply regenerateRow_in | apply writeWorking_in | apply countRebuilt_in | apply sendShardRecord_in | decide) | extract_lets | split | dsimp +zetaDelta only
theorem regenerate_in {L : List Part} {s₀ u₀ : State} {r bank line : Nat} {d : List Byte} (hk : onlyChanges L s₀ u₀) (he : ([.bat, .store].all fun p => L.contains p) = true) : onlyChanges L s₀ (u₀.regenerate r bank line d) := onlyChanges_step hk (regenerate_changes ..) he

theorem closeRebuild_changes (s : State) (r : Nat) : onlyChanges [.store, .flt] s (s.closeRebuild r) := by
  unfold State.closeRebuild
  repeat' first | (with_reducible first | exact onlyChanges_refl _ _ | apply onlyChanges_ite | apply onFlt_in | apply onStore_in | decide) | extract_lets | split | dsimp +zetaDelta only
theorem closeRebuild_in {L : List Part} {s₀ u₀ : State} {r : Nat} (hk : onlyChanges L s₀ u₀) (he : ([.store, .flt].all fun p => L.contains p) = true) : onlyChanges L s₀ (u₀.closeRebuild r) := onlyChanges_step hk (closeRebuild_changes ..) he

theorem writeRebuilt_changes (s : State) (c : RebuildChain) : onlyChanges [.bat, .store, .flt] s (s.writeRebuilt c) := by
  unfold State.writeRebuilt
  repeat' first | (with_reducible first | exact onlyChanges_refl _ _ | apply onlyChanges_ite | apply writeStore_in | apply setStamp_in | apply onFlt_in | apply countRebuilt_in | apply closeRebuild_in | apply writeStore_in | apply setStamp_in | apply onFlt_in | apply countRebuilt_in | apply regenerate_in | apply closeRebuild_in | decide) | extract_lets | split | dsimp +zetaDelta only
theorem writeRebuilt_in {L : List Part} {s₀ u₀ : State} {c : RebuildChain} (hk : onlyChanges L s₀ u₀) (he : ([.bat, .store, .flt].all fun p => L.contains p) = true) : onlyChanges L s₀ (u₀.writeRebuilt c) := onlyChanges_step hk (writeRebuilt_changes ..) he

theorem beyondSheaf_changes (s : State) (h : Sheaf) (j : Nat) : onlyChanges [.sram, .cores, .lregions, .regions, .num, .run, .brg, .bat, .net, .store, .eng, .flt, .log, .pwr] s (s.beyondSheaf h j) := by
  unfold State.beyondSheaf
  repeat' first | (with_reducible first | exact onlyChanges_refl _ _ | apply onlyChanges_ite | apply exchangeGone_in | apply stateLost_in | decide) | extract_lets | split | dsimp +zetaDelta only
theorem beyondSheaf_in {L : List Part} {s₀ u₀ : State} {h : Sheaf} {j : Nat} (hk : onlyChanges L s₀ u₀) (he : ([.sram, .cores, .lregions, .regions, .num, .run, .brg, .bat, .net, .store, .eng, .flt, .log, .pwr].all fun p => L.contains p) = true) : onlyChanges L s₀ (u₀.beyondSheaf h j) := onlyChanges_step hk (beyondSheaf_changes ..) he

theorem chainStep_changes (s : State) (h : Sheaf) (m line : Nat) (c : RebuildChain) : onlyChanges [.free, .sram, .cores, .lregions, .regions, .num, .run, .brg, .bat, .net, .store, .eng, .flt, .log, .pwr] s (s.chainStep h m line c) := by
  unfold State.chainStep
  repeat' first | (with_reducible first | exact onlyChanges_refl _ _ | apply onlyChanges_ite | apply beyondSheaf_in | apply foreignLine_in | apply fresh_in | apply writeRebuilt_in | apply onFlt_in | decide) | extract_lets | split | dsimp +zetaDelta only
theorem chainStep_in {L : List Part} {s₀ u₀ : State} {h : Sheaf} {m line : Nat} {c : RebuildChain} (hk : onlyChanges L s₀ u₀) (he : ([.free, .sram, .cores, .lregions, .regions, .num, .run, .brg, .bat, .net, .store, .eng, .flt, .log, .pwr].all fun p => L.contains p) = true) : onlyChanges L s₀ (u₀.chainStep h m line c) := onlyChanges_step hk (chainStep_changes ..) he

/-! Feed -/

theorem endFeed_changes (s : State) (h : CmdHdr) (n : U64) : onlyChanges [.free, .lregions, .regions, .settings, .num, .run, .brg, .stg, .net, .store, .orc, .flt, .pwr] s (s.endFeed h n) := by
  unfold State.endFeed
  repeat' first | (with_reducible first | exact onlyChanges_refl _ _ | apply onlyChanges_ite | apply done0_in | apply onStore_in | apply complete_in | apply advance_in | decide) | extract_lets | split | dsimp +zetaDelta only
theorem endFeed_in {L : List Part} {s₀ u₀ : State} {h : CmdHdr} {n : U64} (hk : onlyChanges L s₀ u₀) (he : ([.free, .lregions, .regions, .settings, .num, .run, .brg, .stg, .net, .store, .orc, .flt, .pwr].all fun p => L.contains p) = true) : onlyChanges L s₀ (u₀.endFeed h n) := onlyChanges_step hk (endFeed_changes ..) he

theorem settleFeed_changes (s : State) (x : CmdHdr × U64) : onlyChanges [.free, .lregions, .regions, .settings, .num, .run, .brg, .stg, .net, .store, .orc, .flt, .pwr] s (s.settleFeed x) := by
  unfold State.settleFeed
  repeat' first | (with_reducible first | exact onlyChanges_refl _ _ | apply onlyChanges_ite | apply onRun_in | apply endFeed_in | decide) | extract_lets | split | dsimp +zetaDelta only
theorem settleFeed_in {L : List Part} {s₀ u₀ : State} {x : CmdHdr × U64} (hk : onlyChanges L s₀ u₀) (he : ([.free, .lregions, .regions, .settings, .num, .run, .brg, .stg, .net, .store, .orc, .flt, .pwr].all fun p => L.contains p) = true) : onlyChanges L s₀ (u₀.settleFeed x) := onlyChanges_step hk (settleFeed_changes ..) he

theorem settleFeeds_changes (s : State) : onlyChanges [.free, .lregions, .regions, .settings, .num, .run, .brg, .stg, .net, .store, .orc, .flt, .pwr] s s.settleFeeds := by
  unfold State.settleFeeds
  repeat' first | (with_reducible first | exact onlyChanges_refl _ _ | apply onlyChanges_ite | apply settleFeed_in | refine onlyChanges_foldl ?_ _ (fun _ _ => ?_) _ | decide) | extract_lets | split | dsimp +zetaDelta only
theorem settleFeeds_in {L : List Part} {s₀ u₀ : State} (hk : onlyChanges L s₀ u₀) (he : ([.free, .lregions, .regions, .settings, .num, .run, .brg, .stg, .net, .store, .orc, .flt, .pwr].all fun p => L.contains p) = true) : onlyChanges L s₀ u₀.settleFeeds := onlyChanges_step hk (settleFeeds_changes ..) he

theorem runBatchFeed_changes (s : State) (h : CmdHdr) (n : U64) : onlyChanges [.free, .lregions, .regions, .settings, .num, .run, .brg, .stg, .net, .store, .orc, .flt, .pwr] s (s.runBatchFeed h n) := by
  unfold State.runBatchFeed
  repeat' first | (with_reducible first | exact onlyChanges_refl _ _ | apply onlyChanges_ite | apply done0_in | apply endFeed_in | apply onRun_in | decide) | extract_lets | split | dsimp +zetaDelta only
theorem runBatchFeed_in {L : List Part} {s₀ u₀ : State} {h : CmdHdr} {n : U64} (hk : onlyChanges L s₀ u₀) (he : ([.free, .lregions, .regions, .settings, .num, .run, .brg, .stg, .net, .store, .orc, .flt, .pwr].all fun p => L.contains p) = true) : onlyChanges L s₀ (u₀.runBatchFeed h n) := onlyChanges_step hk (runBatchFeed_changes ..) he

/-! ClockPower -/

theorem inletLost_changes (s : State) (mv : U16) : onlyChanges [.time, .free, .sram, .cores, .lregions, .regions, .settings, .grd, .num, .run, .brg, .stg, .cfg, .bat, .net, .store, .orc, .prs, .dma, .eng, .flt, .log, .pwr, .keys, .mir, .out] s (s.inletLost mv) := by
  unfold State.inletLost
  repeat' first | (with_reducible first | exact onlyChanges_refl _ _ | apply onlyChanges_ite | apply onPwr_in | apply quiesceNow_in | apply alert_in | decide) | extract_lets | split | dsimp +zetaDelta only
theorem inletLost_in {L : List Part} {s₀ u₀ : State} {mv : U16} (hk : onlyChanges L s₀ u₀) (he : ([.time, .free, .sram, .cores, .lregions, .regions, .settings, .grd, .num, .run, .brg, .stg, .cfg, .bat, .net, .store, .orc, .prs, .dma, .eng, .flt, .log, .pwr, .keys, .mir, .out].all fun p => L.contains p) = true) : onlyChanges L s₀ (u₀.inletLost mv) := onlyChanges_step hk (inletLost_changes ..) he

theorem setDuties_changes (s : State) : onlyChanges [.regions] s (s.setDuties) := by
  unfold State.setDuties
  repeat' first | (with_reducible first | exact onlyChanges_refl _ _ | apply onReg_in | refine onlyChanges_foldl ?_ _ (fun _ _ => ?_) _ | decide) | extract_lets | dsimp +zetaDelta only
theorem setDuties_in {L : List Part} {s₀ u₀ : State} (hk : onlyChanges L s₀ u₀) (he : ([.regions].all fun p => L.contains p) = true) : onlyChanges L s₀ (u₀.setDuties) := onlyChanges_step hk (setDuties_changes ..) he

/-! BringUp -/

theorem retireRegion_changes (s : State) (p : Nat) : onlyChanges [.regions] s (s.retireRegion p) := by
  unfold State.retireRegion
  repeat' first | (with_reducible first | exact onlyChanges_refl _ _ | apply onReg_in | decide) | extract_lets
theorem retireRegion_in {L : List Part} {s₀ u₀ : State} {p : Nat} (hk : onlyChanges L s₀ u₀) (he : ([.regions].all fun p => L.contains p) = true) : onlyChanges L s₀ (u₀.retireRegion p) := onlyChanges_step hk (retireRegion_changes ..) he

theorem badCore_changes (s : State) (p pc : Nat) : onlyChanges [.regions, .flt] s (s.badCore p pc) := by
  unfold State.badCore
  repeat' first | (with_reducible first | exact onlyChanges_refl _ _ | apply onlyChanges_ite | apply onFlt_in | apply retireRegion_in | decide) | extract_lets | split | dsimp +zetaDelta only
theorem badCore_in {L : List Part} {s₀ u₀ : State} {p pc : Nat} (hk : onlyChanges L s₀ u₀) (he : ([.regions, .flt].all fun p => L.contains p) = true) : onlyChanges L s₀ (u₀.badCore p pc) := onlyChanges_step hk (badCore_changes ..) he

theorem powerRegions_changes (s : State) : onlyChanges [.regions, .flt] s (s.powerRegions) := by
  unfold State.powerRegions
  repeat' first | (with_reducible first | exact onlyChanges_refl _ _ | apply onReg_in | apply onFlt_in | refine onlyChanges_foldl ?_ _ (fun _ _ => ?_) _ | decide) | extract_lets | dsimp +zetaDelta only
theorem powerRegions_in {L : List Part} {s₀ u₀ : State} (hk : onlyChanges L s₀ u₀) (he : ([.regions, .flt].all fun p => L.contains p) = true) : onlyChanges L s₀ (u₀.powerRegions) := onlyChanges_step hk (powerRegions_changes ..) he

theorem powerEngines_changes (s : State) : onlyChanges [.eng] s (s.powerEngines) := by
  unfold State.powerEngines
  repeat' first | (with_reducible first | exact onlyChanges_refl _ _ | apply onEng_in | refine onlyChanges_foldl ?_ _ (fun _ _ => ?_) _ | decide) | extract_lets
theorem powerEngines_in {L : List Part} {s₀ u₀ : State} (hk : onlyChanges L s₀ u₀) (he : ([.eng].all fun p => L.contains p) = true) : onlyChanges L s₀ (u₀.powerEngines) := onlyChanges_step hk (powerEngines_changes ..) he

theorem toStage_changes (s : State) (n : Nat) : onlyChanges [.pwr] s (s.toStage n) := by
  unfold State.toStage
  repeat' first | (with_reducible first | exact onlyChanges_refl _ _ | apply onPwr_in | decide) | extract_lets
theorem toStage_in {L : List Part} {s₀ u₀ : State} {n : Nat} (hk : onlyChanges L s₀ u₀) (he : ([.pwr].all fun p => L.contains p) = true) : onlyChanges L s₀ (u₀.toStage n) := onlyChanges_step hk (toStage_changes ..) he

/-! Meter -/

theorem export__changes (s : State) (f : ExportFrame) : onlyChanges [.mir] s (s.export_ f) := by
  unfold State.export_
  repeat' first | (with_reducible first | exact onlyChanges_refl _ _ | apply onMir_in | decide) | extract_lets
theorem export__in {L : List Part} {s₀ u₀ : State} {f : ExportFrame} (hk : onlyChanges L s₀ u₀) (he : ([.mir].all fun p => L.contains p) = true) : onlyChanges L s₀ (u₀.export_ f) := onlyChanges_step hk (export__changes ..) he

theorem writeRecord_changes (s : State) (kind evt merges : Nat) (mtime : U64) : onlyChanges [.meter, .mir] s (s.writeRecord kind evt merges mtime) := by
  unfold State.writeRecord
  repeat' first | (with_reducible first | exact onlyChanges_refl _ _ | apply onlyChanges_ite | apply onMeter_in | apply export__in | decide) | extract_lets | split | dsimp +zetaDelta only
theorem writeRecord_in {L : List Part} {s₀ u₀ : State} {kind evt merges : Nat} {mtime : U64} (hk : onlyChanges L s₀ u₀) (he : ([.meter, .mir].all fun p => L.contains p) = true) : onlyChanges L s₀ (u₀.writeRecord kind evt merges mtime) := onlyChanges_step hk (writeRecord_changes ..) he

theorem sendAgain_changes (s : State) (n : Nat) (r : MeterRec) : onlyChanges [.meter, .mir] s (s.sendAgain n r) := by
  unfold State.sendAgain
  repeat' first | (with_reducible first | exact onlyChanges_refl _ _ | apply onMeter_in | apply export__in | decide) | extract_lets
theorem sendAgain_in {L : List Part} {s₀ u₀ : State} {n : Nat} {r : MeterRec} (hk : onlyChanges L s₀ u₀) (he : ([.meter, .mir].all fun p => L.contains p) = true) : onlyChanges L s₀ (u₀.sendAgain n r) := onlyChanges_step hk (sendAgain_changes ..) he

/-! Sag -/

theorem noteCoincidence_changes (s : State) (x : Nat × U64) : onlyChanges [.run, .brg, .flt, .log, .pwr] s (s.noteCoincidence x) := by
  unfold State.noteCoincidence
  repeat' first | (with_reducible first | exact onlyChanges_refl _ _ | apply onlyChanges_ite | apply onFlt_in | apply logHealth_in | apply event_in | decide) | extract_lets | split | dsimp +zetaDelta only
theorem noteCoincidence_in {L : List Part} {s₀ u₀ : State} {x : Nat × U64} (hk : onlyChanges L s₀ u₀) (he : ([.run, .brg, .flt, .log, .pwr].all fun p => L.contains p) = true) : onlyChanges L s₀ (u₀.noteCoincidence x) := onlyChanges_step hk (noteCoincidence_changes ..) he

theorem judgeSags_changes (s : State) : onlyChanges [.run, .brg, .flt, .log, .pwr] s (s.judgeSags) := by
  unfold State.judgeSags
  repeat' first | (with_reducible first | exact onlyChanges_refl _ _ | apply noteCoincidence_in | refine onlyChanges_foldl ?_ _ (fun _ _ => ?_) _ | decide) | extract_lets
theorem judgeSags_in {L : List Part} {s₀ u₀ : State} (hk : onlyChanges L s₀ u₀) (he : ([.run, .brg, .flt, .log, .pwr].all fun p => L.contains p) = true) : onlyChanges L s₀ (u₀.judgeSags) := onlyChanges_step hk (judgeSags_changes ..) he

/-! Vector -/

theorem readStream_changes (s old : State) (r c : Nat) (f32 : Bool) (off : Nat) (scalar : Bool) : onlyChanges [.free] s (s.readStream old r c f32 off scalar).2 := by
  unfold State.readStream
  extract_lets
  split
  · exact onlyChanges_refl _ _
  · exact fresh_changes s
theorem readInputs_changes (old : State) (r c : Nat) (ch : Chain) (f row col : Nat) (xs : List Stream) (s : State) (vs : List VVal) (fl : VFlags) :
    onlyChanges [.free] s (old.readInputs r c ch f row col xs s vs fl).2.2 := by
  induction xs generalizing s vs fl with
  | nil => exact onlyChanges_refl _ _
  | cons x xs ih => exact onlyChanges_trans (readStream_changes s old ..) (ih _ _ _)
theorem runLanes_changes (old : State) (r c : Nat) (ch : Chain) (f : Nat) (xs : List (Option (Nat × Nat))) (s : State) (fl : VFlags) :
    onlyChanges [.free] s (old.runLanes r c ch f xs s fl).2.2 := by
  induction xs generalizing s fl with
  | nil => exact onlyChanges_refl _ _
  | cons x xs ih =>
    match x with
    | none => exact ih s fl
    | some (a, b) => exact onlyChanges_trans (readInputs_changes old r c ch f a b _ s [] fl) (ih _ _)
theorem runGroup_changes (old : State) (r c : Nat) (ch : Chain) (f g total : Nat) (q : State × VProg) : onlyChanges [.free, .sram] q.1 (old.runGroup r c ch f g total q).1 := by
  obtain ⟨s, p⟩ := q
  have h := onlyChanges_mono (m := [.free, .sram]) (runLanes_changes old r c ch f (laneGroup ch (g / groupCols ch) (g % groupCols ch)) s {}) (by simp)
  unfold State.runGroup
  dsimp only
  split
  · exact h
  · exact onlyChanges_foldl h _ (fun _ _ => writeSram_in (onlyChanges_refl _ _) (by decide)) _
theorem loopN_runGroup (old : State) (r c : Nat) (ch : Chain) (f total n : Nat) (q : State × VProg) :
    onlyChanges [.free, .sram] q.1 (loopN (old.runGroup r c ch f · total) n q).1 := by
  induction n with
  | zero => exact onlyChanges_refl _ _
  | succ n ih => exact onlyChanges_trans ih (runGroup_changes old r c ch f n total _)

theorem issueChain_changes (s : State) (r c i : Nat) (ch : Chain) (f : Nat) : onlyChanges [.free, .sram, .cores, .lregions, .regions, .bat] s (s.issueChain r c i ch f) := by
  unfold State.issueChain
  extract_lets pr s1 total
  have k1 : onlyChanges [.free, .sram, .cores, .lregions, .regions, .bat] s s1 := mbNote_in (takeWaits_in (onlyChanges_refl _ _) (by decide)) (by decide)
  have hq := loopN_runGroup s1 r c ch f total total (s1, {})
  generalize loopN (s1.runGroup r c ch f · total) total (s1, {}) = q at hq
  obtain ⟨u, p⟩ := q
  have k2 : onlyChanges [.free, .sram, .cores, .lregions, .regions, .bat] s u := onlyChanges_step k1 hq (by decide)
  dsimp only
  exact count_in (count_in (onCore_in k2 (by decide)) (by decide)) (by decide)
theorem issueChain_in {L : List Part} {s₀ u₀ : State} {r c i : Nat} {ch : Chain} {f : Nat} (hk : onlyChanges L s₀ u₀) (he : ([.free, .sram, .cores, .lregions, .regions, .bat].all fun p => L.contains p) = true) : onlyChanges L s₀ (u₀.issueChain r c i ch f) := onlyChanges_step hk (issueChain_changes ..) he

/-! Matrix -/

theorem issueTile_changes (s : State) (r c i : Nat) (o : TileOp) (f : Nat) : onlyChanges [.cores, .lregions, .regions, .bat] s (s.issueTile r c i o f) := by
  unfold State.issueTile
  repeat' first | (with_reducible first | exact onlyChanges_refl _ _ | apply onlyChanges_ite | apply takeWaits_in | apply mbNote_in | apply onCore_in | apply count_in | apply sendEmits_in | apply progress_in | decide) | extract_lets | split | dsimp +zetaDelta only
theorem issueTile_in {L : List Part} {s₀ u₀ : State} {r c i : Nat} {o : TileOp} {f : Nat} (hk : onlyChanges L s₀ u₀) (he : ([.cores, .lregions, .regions, .bat].all fun p => L.contains p) = true) : onlyChanges L s₀ (u₀.issueTile r c i o f) := onlyChanges_step hk (issueTile_changes ..) he

theorem writeDrain_changes (s : State) (r c : Nat) (o : TileOp) (f : Nat) (ds : List Drained) : onlyChanges [.sram] s (s.writeDrain r c o f ds) := by
  unfold State.writeDrain
  apply loopN_changes
  intro n u
  split
  · exact onlyChanges_refl _ _
  · extract_lets
    exact writeElem_in (onlyChanges_ite (writeElem_in (onlyChanges_refl _ _) (by decide)) (onlyChanges_refl _ _)) (by decide)
theorem writeDrain_in {L : List Part} {s₀ u₀ : State} {r c : Nat} {o : TileOp} {f : Nat} {ds : List Drained} (hk : onlyChanges L s₀ u₀) (he : ([.sram].all fun p => L.contains p) = true) : onlyChanges L s₀ (u₀.writeDrain r c o f ds) := onlyChanges_step hk (writeDrain_changes ..) he

theorem freeSet_changes (s : State) (r c : Nat) (a : AccSet) : onlyChanges [.cores] s (s.freeSet r c a) := by
  unfold State.freeSet
  repeat' first | (with_reducible first | exact onlyChanges_refl _ _ | apply onlyChanges_ite | apply onCore_in | decide) | extract_lets | split | dsimp +zetaDelta only
theorem freeSet_in {L : List Part} {s₀ u₀ : State} {r c : Nat} {a : AccSet} (hk : onlyChanges L s₀ u₀) (he : ([.cores].all fun p => L.contains p) = true) : onlyChanges L s₀ (u₀.freeSet r c a) := onlyChanges_step hk (freeSet_changes ..) he

theorem drainSet_changes (s : State) (r c : Nat) (a : AccSet) (o : TileOp) : onlyChanges [.sram, .cores, .lregions, .regions, .bat] s (s.drainSet r c a o) := by
  unfold State.drainSet
  repeat' first | (with_reducible first | exact onlyChanges_refl _ _ | apply onlyChanges_ite | apply writeDrain_in | apply freeSet_in | apply sendRecord_in | apply sendEmits_in | apply progress_in | decide) | extract_lets | split | dsimp +zetaDelta only
theorem drainSet_in {L : List Part} {s₀ u₀ : State} {r c : Nat} {a : AccSet} {o : TileOp} (hk : onlyChanges L s₀ u₀) (he : ([.sram, .cores, .lregions, .regions, .bat].all fun p => L.contains p) = true) : onlyChanges L s₀ (u₀.drainSet r c a o) := onlyChanges_step hk (drainSet_changes ..) he

/-! ImageCheck -/

theorem stageChecked_changes (s : State) (i : Image) : onlyChanges [.stg] s (s.stageChecked i) := by
  unfold State.stageChecked
  repeat' first | (with_reducible first | exact onlyChanges_refl _ _ | apply onlyChanges_ite | apply onStg_in | decide) | extract_lets | split | dsimp +zetaDelta only
theorem stageChecked_in {L : List Part} {s₀ u₀ : State} {i : Image} (hk : onlyChanges L s₀ u₀) (he : ([.stg].all fun p => L.contains p) = true) : onlyChanges L s₀ (u₀.stageChecked i) := onlyChanges_step hk (stageChecked_changes ..) he

/-! RegRead -/

theorem clearMod_changes (s : State) (a : Nat) : onlyChanges [.settings, .grd, .num, .brg, .stg, .cfg, .store, .orc, .prs, .flt, .pwr, .mir] s (s.clearMod a) := by
  unfold State.clearMod
  repeat' first | (with_reducible first | exact onlyChanges_refl _ _ | apply onlyChanges_ite | apply onSet_in | apply onGrd_in | apply onNum_in | apply onCfg_in | apply onStg_in | apply onFlt_in | apply onPwr_in | apply onStore_in | apply onOrc_in | apply onPrs_in | apply onMir_in | apply onHq_in | decide) | extract_lets | split
theorem clearMod_in {L : List Part} {s₀ u₀ : State} {a : Nat} (hk : onlyChanges L s₀ u₀) (he : ([.settings, .grd, .num, .brg, .stg, .cfg, .store, .orc, .prs, .flt, .pwr, .mir].all fun p => L.contains p) = true) : onlyChanges L s₀ (u₀.clearMod a) := onlyChanges_step hk (clearMod_changes ..) he

theorem clearRc_changes (s : State) (a : Nat) : onlyChanges [.regions, .settings, .grd, .num, .brg, .stg, .cfg, .store, .orc, .prs, .eng, .flt, .pwr, .mir] s (s.clearRc a) := by
  unfold State.clearRc
  repeat' first | (with_reducible first | exact onlyChanges_refl _ _ | apply onlyChanges_ite | apply onReg_in | apply onEng_in | apply clearMod_in | decide) | extract_lets | split
theorem clearRc_in {L : List Part} {s₀ u₀ : State} {a : Nat} (hk : onlyChanges L s₀ u₀) (he : ([.regions, .settings, .grd, .num, .brg, .stg, .cfg, .store, .orc, .prs, .eng, .flt, .pwr, .mir].all fun p => L.contains p) = true) : onlyChanges L s₀ (u₀.clearRc a) := onlyChanges_step hk (clearRc_changes ..) he

/-! Guard -/

theorem guardResult_changes (s : State) (g : Guard) (code : Nat) : onlyChanges [.grd] s (s.guardResult g code) := by
  unfold State.guardResult
  repeat' first | (with_reducible first | exact onlyChanges_refl _ _ | apply onGrd_in | decide) | extract_lets
theorem guardResult_in {L : List Part} {s₀ u₀ : State} {g : Guard} {code : Nat} (hk : onlyChanges L s₀ u₀) (he : ([.grd].all fun p => L.contains p) = true) : onlyChanges L s₀ (u₀.guardResult g code) := onlyChanges_step hk (guardResult_changes ..) he

theorem guardWrite_changes (s : State) (g : Guard) (v : U32) : onlyChanges [.settings, .grd] s (s.guardWrite g v) := by
  unfold State.guardWrite
  repeat' first | (with_reducible first | exact onlyChanges_refl _ _ | apply onlyChanges_ite | apply discardWrite_in | apply guardResult_in | apply onGrd_in | decide) | extract_lets | split | dsimp +zetaDelta only
theorem guardWrite_in {L : List Part} {s₀ u₀ : State} {g : Guard} {v : U32} (hk : onlyChanges L s₀ u₀) (he : ([.settings, .grd].all fun p => L.contains p) = true) : onlyChanges L s₀ (u₀.guardWrite g v) := onlyChanges_step hk (guardWrite_changes ..) he

theorem guardAct_changes (s : State) (g : Guard) (v : U32) : onlyChanges [.sram, .cores, .lregions, .regions, .settings, .grd, .num, .run, .brg, .cfg, .bat, .net, .store, .eng, .flt, .log, .pwr] s (s.guardAct g v) := by
  unfold State.guardAct
  repeat' first | (with_reducible first | exact onlyChanges_refl _ _ | apply onlyChanges_ite | apply guardResult_in | apply takeReport_in | decide) | extract_lets | split | dsimp +zetaDelta only
theorem guardAct_in {L : List Part} {s₀ u₀ : State} {g : Guard} {v : U32} (hk : onlyChanges L s₀ u₀) (he : ([.sram, .cores, .lregions, .regions, .settings, .grd, .num, .run, .brg, .cfg, .bat, .net, .store, .eng, .flt, .log, .pwr].all fun p => L.contains p) = true) : onlyChanges L s₀ (u₀.guardAct g v) := onlyChanges_step hk (guardAct_changes ..) he

theorem guardConfirm_changes (s : State) (g : Guard) (comp : U32) : onlyChanges [.sram, .cores, .lregions, .regions, .settings, .grd, .num, .run, .brg, .cfg, .bat, .net, .store, .eng, .flt, .log, .pwr] s (s.guardConfirm g comp) := by
  unfold State.guardConfirm
  repeat' first | (with_reducible first | exact onlyChanges_refl _ _ | apply onlyChanges_ite | apply discardWrite_in | apply guardAct_in | apply guardResult_in | decide) | extract_lets | split | dsimp +zetaDelta only
theorem guardConfirm_in {L : List Part} {s₀ u₀ : State} {g : Guard} {comp : U32} (hk : onlyChanges L s₀ u₀) (he : ([.sram, .cores, .lregions, .regions, .settings, .grd, .num, .run, .brg, .cfg, .bat, .net, .store, .eng, .flt, .log, .pwr].all fun p => L.contains p) = true) : onlyChanges L s₀ (u₀.guardConfirm g comp) := onlyChanges_step hk (guardConfirm_changes ..) he

/-! Registers -/

theorem stageEpoch_changes (s : State) (a : Nat) (v : U32) (mbus : Bool) : onlyChanges [.stg] s (s.stageEpoch a v mbus) := by
  unfold State.stageEpoch
  repeat' first | (with_reducible first | exact onlyChanges_refl _ _ | apply onStg_in | decide) | extract_lets
theorem stageEpoch_in {L : List Part} {s₀ u₀ : State} {a : Nat} {v : U32} {mbus : Bool} (hk : onlyChanges L s₀ u₀) (he : ([.stg].all fun p => L.contains p) = true) : onlyChanges L s₀ (u₀.stageEpoch a v mbus) := onlyChanges_step hk (stageEpoch_changes ..) he

theorem writeSetting_changes (s : State) (d : RegDesc) (a : Nat) (v : U32) (mbus : Bool) : onlyChanges [.settings, .stg] s (s.writeSetting d a v mbus) := by
  unfold State.writeSetting
  repeat' first | (with_reducible first | exact onlyChanges_refl _ _ | apply onlyChanges_ite | apply discardWrite_in | apply putActive_in | apply stageEpoch_in | apply stageWrite_in | decide) | extract_lets | split
theorem writeSetting_in {L : List Part} {s₀ u₀ : State} {d : RegDesc} {a : Nat} {v : U32} {mbus : Bool} (hk : onlyChanges L s₀ u₀) (he : ([.settings, .stg].all fun p => L.contains p) = true) : onlyChanges L s₀ (u₀.writeSetting d a v mbus) := onlyChanges_step hk (writeSetting_changes ..) he

theorem writeClk_changes (s : State) (v : U32) (mbus : Bool) : onlyChanges [.settings] s (s.writeClk v mbus) := by
  unfold State.writeClk
  repeat' first | (with_reducible first | exact onlyChanges_refl _ _ | apply onlyChanges_ite | apply discardWrite_in | apply stageWrite_in | decide) | extract_lets | split | dsimp +zetaDelta only
theorem writeClk_in {L : List Part} {s₀ u₀ : State} {v : U32} {mbus : Bool} (hk : onlyChanges L s₀ u₀) (he : ([.settings].all fun p => L.contains p) = true) : onlyChanges L s₀ (u₀.writeClk v mbus) := onlyChanges_step hk (writeClk_changes ..) he

theorem writeFset_changes (s : State) (p : Nat) (v : U32) : onlyChanges [.settings] s (s.writeFset p v) := by
  unfold State.writeFset
  repeat' first | (with_reducible first | exact onlyChanges_refl _ _ | apply onlyChanges_ite | apply discardWrite_in | apply stageWrite_in | decide) | extract_lets | split | dsimp +zetaDelta only
theorem writeFset_in {L : List Part} {s₀ u₀ : State} {p : Nat} {v : U32} (hk : onlyChanges L s₀ u₀) (he : ([.settings].all fun p => L.contains p) = true) : onlyChanges L s₀ (u₀.writeFset p v) := onlyChanges_step hk (writeFset_changes ..) he

theorem writeGrant_changes (s : State) (p : Nat) (v : U32) : onlyChanges [.regions, .settings] s (s.writeGrant p v) := by
  unfold State.writeGrant
  repeat' first | (with_reducible first | exact onlyChanges_refl _ _ | apply onlyChanges_ite | apply discardWrite_in | apply onReg_in | decide) | extract_lets | split | dsimp +zetaDelta only
theorem writeGrant_in {L : List Part} {s₀ u₀ : State} {p : Nat} {v : U32} (hk : onlyChanges L s₀ u₀) (he : ([.regions, .settings].all fun p => L.contains p) = true) : onlyChanges L s₀ (u₀.writeGrant p v) := onlyChanges_step hk (writeGrant_changes ..) he

theorem writeLock_changes (s : State) (v : U32) : onlyChanges [.settings] s (s.writeLock v) := by
  unfold State.writeLock
  repeat' first | (with_reducible first | exact onlyChanges_refl _ _ | apply onlyChanges_ite | apply discardWrite_in | apply onSet_in | decide) | extract_lets | split
theorem writeLock_in {L : List Part} {s₀ u₀ : State} {v : U32} (hk : onlyChanges L s₀ u₀) (he : ([.settings].all fun p => L.contains p) = true) : onlyChanges L s₀ (u₀.writeLock v) := onlyChanges_step hk (writeLock_changes ..) he

theorem writeDbg_changes (s : State) (v : U32) : onlyChanges [.settings, .keys] s (s.writeDbg v) := by
  unfold State.writeDbg
  repeat' first | (with_reducible first | exact onlyChanges_refl _ _ | apply onlyChanges_ite | apply discardWrite_in | apply onKeys_in | decide) | extract_lets | split
theorem writeDbg_in {L : List Part} {s₀ u₀ : State} {v : U32} (hk : onlyChanges L s₀ u₀) (he : ([.settings, .keys].all fun p => L.contains p) = true) : onlyChanges L s₀ (u₀.writeDbg v) := onlyChanges_step hk (writeDbg_changes ..) he

theorem mirrorOp_changes (s : State) (f : MirrorSt → MirrorSt) : onlyChanges [.settings, .mir] s (s.mirrorOp f) := by
  unfold State.mirrorOp
  repeat' first | (with_reducible first | exact onlyChanges_refl _ _ | apply onlyChanges_ite | apply discardWrite_in | apply onMir_in | decide) | split
theorem mirrorOp_in {L : List Part} {s₀ u₀ : State} {f : MirrorSt → MirrorSt} (hk : onlyChanges L s₀ u₀) (he : ([.settings, .mir].all fun p => L.contains p) = true) : onlyChanges L s₀ (u₀.mirrorOp f) := onlyChanges_step hk (mirrorOp_changes ..) he

theorem writeMtrCfg_changes (s : State) (v : U32) : onlyChanges [.settings, .mir] s (s.writeMtrCfg v) := by
  unfold State.writeMtrCfg
  repeat' first | (with_reducible first | exact onlyChanges_refl _ _ | apply onlyChanges_ite | apply discardWrite_in | apply mirrorOp_in | decide) | split
theorem writeMtrCfg_in {L : List Part} {s₀ u₀ : State} {v : U32} (hk : onlyChanges L s₀ u₀) (he : ([.settings, .mir].all fun p => L.contains p) = true) : onlyChanges L s₀ (u₀.writeMtrCfg v) := onlyChanges_step hk (writeMtrCfg_changes ..) he

theorem writeReadOnly_changes (s : State) (a : Nat) (mbus : Bool) : onlyChanges [.settings] s (s.writeReadOnly a mbus) := by
  unfold State.writeReadOnly
  repeat' first | (with_reducible first | exact onlyChanges_refl _ _ | apply onlyChanges_ite | apply discardWrite_in | decide) | split
theorem writeReadOnly_in {L : List Part} {s₀ u₀ : State} {a : Nat} {mbus : Bool} (hk : onlyChanges L s₀ u₀) (he : ([.settings].all fun p => L.contains p) = true) : onlyChanges L s₀ (u₀.writeReadOnly a mbus) := onlyChanges_step hk (writeReadOnly_changes ..) he

theorem writeNowhere_changes (s : State) (a : Nat) : onlyChanges [.log] s (s.writeNowhere a) := by
  unfold State.writeNowhere
  repeat' first | (with_reducible first | exact onlyChanges_refl _ _ | apply logHealth_in | decide)
theorem writeNowhere_in {L : List Part} {s₀ u₀ : State} {a : Nat} (hk : onlyChanges L s₀ u₀) (he : ([.log].all fun p => L.contains p) = true) : onlyChanges L s₀ (u₀.writeNowhere a) := onlyChanges_step hk (writeNowhere_changes ..) he

theorem opt_ite {c : Prop} [Decidable c] {L : List Part} {s x t : State} {o : Option State} (h : (if c then some x else o) = some t) (hx : onlyChanges L s x)
    (ho : o = some t → onlyChanges L s t) : onlyChanges L s t := by
  split at h
  · exact Option.some.inj h ▸ hx
  · exact ho h

theorem rejectAccess_changes (s : State) : onlyChanges [.brg] s (s.rejectAccess) := by
  unfold State.rejectAccess
  repeat' first | (with_reducible first | exact onlyChanges_refl _ _ | apply onBrg_in | decide) | extract_lets
theorem rejectAccess_in {L : List Part} {s₀ u₀ : State} (hk : onlyChanges L s₀ u₀) (he : ([.brg].all fun p => L.contains p) = true) : onlyChanges L s₀ (u₀.rejectAccess) := onlyChanges_step hk (rejectAccess_changes ..) he

theorem loseStaged_changes (s : State) (a : Nat) : onlyChanges [.regions, .settings, .stg] s (s.loseStaged a) := by
  unfold State.loseStaged
  repeat' first | (with_reducible first | exact onlyChanges_refl _ _ | apply onlyChanges_ite | apply onSet_in | apply onStg_in | decide) | extract_lets | split | dsimp +zetaDelta only
theorem loseStaged_in {L : List Part} {s₀ u₀ : State} {a : Nat} (hk : onlyChanges L s₀ u₀) (he : ([.regions, .settings, .stg].all fun p => L.contains p) = true) : onlyChanges L s₀ (u₀.loseStaged a) := onlyChanges_step hk (loseStaged_changes ..) he

theorem reloadCopy_changes (s : State) (a : Nat) : onlyChanges [.settings, .log] s (s.reloadCopy a) := by
  unfold State.reloadCopy
  repeat' first | (with_reducible first | exact onlyChanges_refl _ _ | apply onlyChanges_ite | apply onSet_in | apply logHealth_in | decide) | extract_lets | split | dsimp +zetaDelta only
theorem reloadCopy_in {L : List Part} {s₀ u₀ : State} {a : Nat} (hk : onlyChanges L s₀ u₀) (he : ([.settings, .log].all fun p => L.contains p) = true) : onlyChanges L s₀ (u₀.reloadCopy a) := onlyChanges_step hk (reloadCopy_changes ..) he

/-! Afist -/

theorem putExchange_changes (s : State) (r bank line : Nat) (d : List Byte) : onlyChanges [.lregions, .net, .store, .orc, .out] s (s.putExchange r bank line d) := by
  unfold State.putExchange
  repeat' first | (with_reducible first | exact onlyChanges_refl _ _ | apply onlyChanges_ite | apply writeExchange_in | decide) | extract_lets | split | dsimp +zetaDelta only
theorem putExchange_in {L : List Part} {s₀ u₀ : State} {r bank line : Nat} {d : List Byte} (hk : onlyChanges L s₀ u₀) (he : ([.lregions, .net, .store, .orc, .out].all fun p => L.contains p) = true) : onlyChanges L s₀ (u₀.putExchange r bank line d) := onlyChanges_step hk (putExchange_changes ..) he

theorem writeCopies_changes (s : State) : onlyChanges [.lregions, .net, .store, .orc, .out] s s.writeCopies := by
  unfold State.writeCopies
  repeat' first | (with_reducible first | exact onlyChanges_refl _ _ | apply onlyChanges_ite | apply putExchange_in | refine onlyChanges_foldl ?_ _ (fun _ _ => ?_) _ | decide) | extract_lets | split | dsimp +zetaDelta only
theorem writeCopies_in {L : List Part} {s₀ u₀ : State} (hk : onlyChanges L s₀ u₀) (he : ([.lregions, .net, .store, .orc, .out].all fun p => L.contains p) = true) : onlyChanges L s₀ u₀.writeCopies := onlyChanges_step hk (writeCopies_changes ..) he

theorem takeChunk_changes (s : State) (reshard : Bool) (ioff : U64) (data : List Byte) : onlyChanges [.lregions, .stg, .net, .store, .orc, .out] s (s.takeChunk reshard ioff data) := by
  unfold State.takeChunk
  repeat' first | (with_reducible first | exact onlyChanges_refl _ _ | apply onlyChanges_ite | apply onStg_in | apply writeCopies_in | decide) | extract_lets | split | dsimp +zetaDelta only
theorem takeChunk_in {L : List Part} {s₀ u₀ : State} {reshard : Bool} {ioff : U64} {data : List Byte} (hk : onlyChanges L s₀ u₀) (he : ([.lregions, .stg, .net, .store, .orc, .out].all fun p => L.contains p) = true) : onlyChanges L s₀ (u₀.takeChunk reshard ioff data) := onlyChanges_step hk (takeChunk_changes ..) he

theorem runStage_changes (s : State) (reshard : Bool) (h : CmdHdr) (haddr : U64) (hlen : U32) (ioff : U64) : onlyChanges [.lregions, .brg, .stg, .net, .store, .orc, .out] s (s.runStage reshard h haddr hlen ioff) := by
  unfold State.runStage
  repeat' first | (with_reducible first | exact onlyChanges_refl _ _ | apply onlyChanges_ite | apply done0_in | apply takeChunk_in | decide) | extract_lets | split | dsimp +zetaDelta only
theorem runStage_in {L : List Part} {s₀ u₀ : State} {reshard : Bool} {h : CmdHdr} {haddr : U64} {hlen : U32} {ioff : U64} (hk : onlyChanges L s₀ u₀) (he : ([.lregions, .brg, .stg, .net, .store, .orc, .out].all fun p => L.contains p) = true) : onlyChanges L s₀ (u₀.runStage reshard h haddr hlen ioff) := onlyChanges_step hk (runStage_changes ..) he

theorem runCheck_changes (s : State) (h : CmdHdr) : onlyChanges [.run, .brg, .stg] s (s.runCheck h) := by
  unfold State.runCheck
  repeat' first | (with_reducible first | exact onlyChanges_refl _ _ | apply onlyChanges_ite | apply done0_in | apply onStg_in | apply onRun_in | decide) | extract_lets | split
theorem runCheck_in {L : List Part} {s₀ u₀ : State} {h : CmdHdr} (hk : onlyChanges L s₀ u₀) (he : ([.run, .brg, .stg].all fun p => L.contains p) = true) : onlyChanges L s₀ (u₀.runCheck h) := onlyChanges_step hk (runCheck_changes ..) he

theorem stopCheck_changes (s : State) : onlyChanges [.run, .brg] s (s.stopCheck) := by
  unfold State.stopCheck
  repeat' first | (with_reducible first | exact onlyChanges_refl _ _ | apply onRun_in | apply done0_in | decide) | extract_lets | split
theorem stopCheck_in {L : List Part} {s₀ u₀ : State} (hk : onlyChanges L s₀ u₀) (he : ([.run, .brg].all fun p => L.contains p) = true) : onlyChanges L s₀ (u₀.stopCheck) := onlyChanges_step hk (stopCheck_changes ..) he

theorem runAbandon_changes (s : State) (h : CmdHdr) : onlyChanges [.run, .brg, .stg] s (s.runAbandon h) := by
  unfold State.runAbandon
  repeat' first | (with_reducible first | exact onlyChanges_refl _ _ | apply onlyChanges_ite | apply done0_in | apply stopCheck_in | apply emptyStage_in | decide) | split
theorem runAbandon_in {L : List Part} {s₀ u₀ : State} {h : CmdHdr} (hk : onlyChanges L s₀ u₀) (he : ([.run, .brg, .stg].all fun p => L.contains p) = true) : onlyChanges L s₀ (u₀.runAbandon h) := onlyChanges_step hk (runAbandon_changes ..) he

theorem acceptArm_changes (s : State) (h : CmdHdr) (b : U64) (e : U32) : onlyChanges [.free, .sram, .cores, .lregions, .regions, .settings, .num, .run, .brg, .stg, .bat, .net, .store, .orc, .eng, .flt, .pwr] s (s.acceptArm h b e) := by
  unfold State.acceptArm
  repeat' first | (with_reducible first | exact onlyChanges_refl _ _ | apply onlyChanges_ite | apply onStg_in | apply startApply_in | apply abandonStep_in | apply advance_in | apply onRun_in | apply done0_in | decide) | extract_lets | split | dsimp +zetaDelta only
theorem acceptArm_in {L : List Part} {s₀ u₀ : State} {h : CmdHdr} {b : U64} {e : U32} (hk : onlyChanges L s₀ u₀) (he : ([.free, .sram, .cores, .lregions, .regions, .settings, .num, .run, .brg, .stg, .bat, .net, .store, .orc, .eng, .flt, .pwr].all fun p => L.contains p) = true) : onlyChanges L s₀ (u₀.acceptArm h b e) := onlyChanges_step hk (acceptArm_changes ..) he

theorem runArm_changes (s : State) (h : CmdHdr) (b : U64) (e : U32) (haddr : U64) : onlyChanges [.free, .sram, .cores, .lregions, .regions, .settings, .num, .run, .brg, .stg, .bat, .net, .store, .orc, .eng, .flt, .pwr] s (s.runArm h b e haddr) := by
  unfold State.runArm
  repeat' first | (with_reducible first | exact onlyChanges_refl _ _ | apply onlyChanges_ite | apply done0_in | apply onStg_in | apply acceptArm_in | decide) | extract_lets | split | dsimp +zetaDelta only
theorem runArm_in {L : List Part} {s₀ u₀ : State} {h : CmdHdr} {b : U64} {e : U32} {haddr : U64} (hk : onlyChanges L s₀ u₀) (he : ([.free, .sram, .cores, .lregions, .regions, .settings, .num, .run, .brg, .stg, .bat, .net, .store, .orc, .eng, .flt, .pwr].all fun p => L.contains p) = true) : onlyChanges L s₀ (u₀.runArm h b e haddr) := onlyChanges_step hk (runArm_changes ..) he

theorem releaseHold_changes (s : State) : onlyChanges [.lregions, .num, .run, .bat] s (s.releaseHold) := by
  unfold State.releaseHold
  repeat' first | (with_reducible first | exact onlyChanges_refl _ _ | apply onlyChanges_ite | apply clearHold_in | apply onRun_in | apply progress_in | refine onlyChanges_foldl ?_ _ (fun _ _ => ?_) _ | decide) | extract_lets | split | dsimp +zetaDelta only
theorem releaseHold_in {L : List Part} {s₀ u₀ : State} (hk : onlyChanges L s₀ u₀) (he : ([.lregions, .num, .run, .bat].all fun p => L.contains p) = true) : onlyChanges L s₀ (u₀.releaseHold) := onlyChanges_step hk (releaseHold_changes ..) he

theorem replayHeld_changes (s : State) : onlyChanges [.run, .flt] s (s.replayHeld) := by
  unfold State.replayHeld
  repeat' first | (with_reducible first | exact onlyChanges_refl _ _ | apply onlyChanges_ite | apply onRun_in | apply onFlt_in | decide) | extract_lets | split
theorem replayHeld_in {L : List Part} {s₀ u₀ : State} (hk : onlyChanges L s₀ u₀) (he : ([.run, .flt].all fun p => L.contains p) = true) : onlyChanges L s₀ (u₀.replayHeld) := onlyChanges_step hk (replayHeld_changes ..) he

theorem runStep_changes (s : State) (h : CmdHdr) (limit : U64) : onlyChanges [.free, .lregions, .regions, .settings, .num, .run, .brg, .stg, .bat, .net, .store, .orc, .flt, .pwr] s (s.runStep h limit) := by
  unfold State.runStep
  repeat' first | (with_reducible first | exact onlyChanges_refl _ _ | apply onlyChanges_ite | apply done0_in | apply onRun_in | apply replayHeld_in | apply releaseHold_in | apply advance_in | decide) | extract_lets | split | dsimp +zetaDelta only
theorem runStep_in {L : List Part} {s₀ u₀ : State} {h : CmdHdr} {limit : U64} (hk : onlyChanges L s₀ u₀) (he : ([.free, .lregions, .regions, .settings, .num, .run, .brg, .stg, .bat, .net, .store, .orc, .flt, .pwr].all fun p => L.contains p) = true) : onlyChanges L s₀ (u₀.runStep h limit) := onlyChanges_step hk (runStep_changes ..) he

theorem holdResults_changes (s : State) (h : CmdHdr) : onlyChanges [.free, .brg] s (s.holdResults h) := by
  unfold State.holdResults
  refine onlyChanges_ite (complete_in (onlyChanges_refl _ _) (by decide)) (onlyChanges_ite (complete_in (onlyChanges_refl _ _) (by decide)) ?_)
  exact complete_in (fresh_in (onlyChanges_refl _ _) (by decide)) (by decide)
theorem holdResults_in {L : List Part} {s₀ u₀ : State} {h : CmdHdr} (hk : onlyChanges L s₀ u₀) (he : ([.free, .brg].all fun p => L.contains p) = true) : onlyChanges L s₀ (u₀.holdResults h) := onlyChanges_step hk (holdResults_changes ..) he

theorem waitHold_changes (s : State) (h : CmdHdr) (at_ : Byte) : onlyChanges [.run] s (s.waitHold h at_) := by
  unfold State.waitHold
  repeat' first | (with_reducible first | exact onlyChanges_refl _ _ | apply onRun_in | decide) | extract_lets
theorem waitHold_in {L : List Part} {s₀ u₀ : State} {h : CmdHdr} {at_ : Byte} (hk : onlyChanges L s₀ u₀) (he : ([.run].all fun p => L.contains p) = true) : onlyChanges L s₀ (u₀.waitHold h at_) := onlyChanges_step hk (waitHold_changes ..) he

theorem askStop_changes (s : State) : onlyChanges [.run] s (s.askStop) := by
  unfold State.askStop
  repeat' first | (with_reducible first | exact onlyChanges_refl _ _ | apply onRun_in | decide) | extract_lets
theorem askStop_in {L : List Part} {s₀ u₀ : State} (hk : onlyChanges L s₀ u₀) (he : ([.run].all fun p => L.contains p) = true) : onlyChanges L s₀ (u₀.askStop) := onlyChanges_step hk (askStop_changes ..) he

theorem runHold_changes (s : State) (h : CmdHdr) (at_ : Byte) : onlyChanges [.free, .lregions, .regions, .settings, .num, .run, .brg, .stg, .net, .store, .orc, .flt, .pwr] s (s.runHold h at_) := by
  unfold State.runHold
  repeat' first | (with_reducible first | exact onlyChanges_refl _ _ | apply onlyChanges_ite | apply done0_in | apply holdResults_in | apply askStop_in | apply waitHold_in | apply advance_in | apply onRun_in | apply triggerHold_in | decide) | extract_lets | split | dsimp +zetaDelta only
theorem runHold_in {L : List Part} {s₀ u₀ : State} {h : CmdHdr} {at_ : Byte} (hk : onlyChanges L s₀ u₀) (he : ([.free, .lregions, .regions, .settings, .num, .run, .brg, .stg, .net, .store, .orc, .flt, .pwr].all fun p => L.contains p) = true) : onlyChanges L s₀ (u₀.runHold h at_) := onlyChanges_step hk (runHold_changes ..) he

theorem runReset_changes (s : State) (h : CmdHdr) : onlyChanges [.cores, .lregions, .regions, .grd, .num, .run, .brg, .stg, .cfg, .bat, .net, .store, .orc, .prs, .dma, .eng, .flt, .log] s (s.runReset h) := by
  unfold State.runReset
  repeat' first | (with_reducible first | exact onlyChanges_refl _ _ | apply onlyChanges_ite | apply done0_in | apply endCommands_in | apply onRun_in | apply computeReset_in | decide) | extract_lets | split | dsimp +zetaDelta only
theorem runReset_in {L : List Part} {s₀ u₀ : State} {h : CmdHdr} (hk : onlyChanges L s₀ u₀) (he : ([.cores, .lregions, .regions, .grd, .num, .run, .brg, .stg, .cfg, .bat, .net, .store, .orc, .prs, .dma, .eng, .flt, .log].all fun p => L.contains p) = true) : onlyChanges L s₀ (u₀.runReset h) := onlyChanges_step hk (runReset_changes ..) he

/-! Report -/

theorem runIdentify_changes (s : State) (h : CmdHdr) (haddr : U64) : onlyChanges [.host, .brg] s (s.runIdentify h haddr) := by
  unfold State.runIdentify
  repeat' first | (with_reducible first | exact onlyChanges_refl _ _ | apply onlyChanges_ite | apply done0_in | apply writeHost_in | decide) | split
theorem runIdentify_in {L : List Part} {s₀ u₀ : State} {h : CmdHdr} {haddr : U64} (hk : onlyChanges L s₀ u₀) (he : ([.host, .brg].all fun p => L.contains p) = true) : onlyChanges L s₀ (u₀.runIdentify h haddr) := onlyChanges_step hk (runIdentify_changes ..) he

theorem runAttest_changes (s : State) (h : CmdHdr) (haddr : U64) (nonce : BitVec 256) (hlen : U32) : onlyChanges [.host, .brg] s (s.runAttest h haddr nonce hlen) := by
  unfold State.runAttest
  repeat' first | (with_reducible first | exact onlyChanges_refl _ _ | apply onlyChanges_ite | apply done0_in | apply writeHost_in | apply complete_in | decide) | split | dsimp +zetaDelta only
theorem runAttest_in {L : List Part} {s₀ u₀ : State} {h : CmdHdr} {haddr : U64} {nonce : BitVec 256} {hlen : U32} (hk : onlyChanges L s₀ u₀) (he : ([.host, .brg].all fun p => L.contains p) = true) : onlyChanges L s₀ (u₀.runAttest h haddr nonce hlen) := onlyChanges_step hk (runAttest_changes ..) he

theorem runHealthRead_changes (s : State) (h : CmdHdr) (haddr : U64) (sel : Byte) (fromSeq count : U32) : onlyChanges [.host, .brg] s (s.runHealthRead h haddr sel fromSeq count) := by
  unfold State.runHealthRead
  repeat' first | (with_reducible first | exact onlyChanges_refl _ _ | apply onlyChanges_ite | apply done0_in | apply writeHost_in | apply complete_in | decide) | extract_lets | split | dsimp +zetaDelta only
theorem runHealthRead_in {L : List Part} {s₀ u₀ : State} {h : CmdHdr} {haddr : U64} {sel : Byte} {fromSeq count : U32} (hk : onlyChanges L s₀ u₀) (he : ([.host, .brg].all fun p => L.contains p) = true) : onlyChanges L s₀ (u₀.runHealthRead h haddr sel fromSeq count) := onlyChanges_step hk (runHealthRead_changes ..) he

theorem runLinkStatus_changes (s : State) (h : CmdHdr) (haddr : U64) (engmask : U16) : onlyChanges [.host, .brg] s (s.runLinkStatus h haddr engmask) := by
  unfold State.runLinkStatus
  repeat' first | (with_reducible first | exact onlyChanges_refl _ _ | apply onlyChanges_ite | apply done0_in | apply writeHost_in | decide) | extract_lets | split | dsimp +zetaDelta only
theorem runLinkStatus_in {L : List Part} {s₀ u₀ : State} {h : CmdHdr} {haddr : U64} {engmask : U16} (hk : onlyChanges L s₀ u₀) (he : ([.host, .brg].all fun p => L.contains p) = true) : onlyChanges L s₀ (u₀.runLinkStatus h haddr engmask) := onlyChanges_step hk (runLinkStatus_changes ..) he

theorem runRingRead_changes (s : State) (h : CmdHdr) (haddr : U64) (maxN : U16) (adv : Byte) : onlyChanges [.host, .num, .brg] s (s.runRingRead h haddr maxN adv) := by
  unfold State.runRingRead
  repeat' first | (with_reducible first | exact onlyChanges_refl _ _ | apply onlyChanges_ite | apply done0_in | apply writeHost_in | apply onNum_in | apply complete_in | decide) | extract_lets | split | dsimp +zetaDelta only
theorem runRingRead_in {L : List Part} {s₀ u₀ : State} {h : CmdHdr} {haddr : U64} {maxN : U16} {adv : Byte} (hk : onlyChanges L s₀ u₀) (he : ([.host, .num, .brg].all fun p => L.contains p) = true) : onlyChanges L s₀ (u₀.runRingRead h haddr maxN adv) := onlyChanges_step hk (runRingRead_changes ..) he

theorem runMirrorRead_changes (s : State) (h : CmdHdr) (haddr fromSeq : U64) (count : U32) : onlyChanges [.host, .brg] s (s.runMirrorRead h haddr fromSeq count) := by
  unfold State.runMirrorRead
  repeat' first | (with_reducible first | exact onlyChanges_refl _ _ | apply onlyChanges_ite | apply done0_in | apply writeHost_in | apply complete_in | decide) | extract_lets | split | dsimp +zetaDelta only
theorem runMirrorRead_in {L : List Part} {s₀ u₀ : State} {h : CmdHdr} {haddr fromSeq : U64} {count : U32} (hk : onlyChanges L s₀ u₀) (he : ([.host, .brg].all fun p => L.contains p) = true) : onlyChanges L s₀ (u₀.runMirrorRead h haddr fromSeq count) := onlyChanges_step hk (runMirrorRead_changes ..) he

/-! KeySlots -/

theorem runPartnerSet_changes (s : State) (h : CmdHdr) (ps : List (U16 × U32)) : onlyChanges [.brg, .stg] s (s.runPartnerSet h ps) := by
  unfold State.runPartnerSet
  repeat' first | (with_reducible first | exact onlyChanges_refl _ _ | apply onlyChanges_ite | apply done0_in | apply onStg_in | decide) | extract_lets | split
theorem runPartnerSet_in {L : List Part} {s₀ u₀ : State} {h : CmdHdr} {ps : List (U16 × U32)} (hk : onlyChanges L s₀ u₀) (he : ([.brg, .stg].all fun p => L.contains p) = true) : onlyChanges L s₀ (u₀.runPartnerSet h ps) := onlyChanges_step hk (runPartnerSet_changes ..) he

theorem runDomainSet_changes (s : State) (h : CmdHdr) (own : U16) (ds : List (U16 × U16)) : onlyChanges [.brg, .cfg] s (s.runDomainSet h own ds) := by
  unfold State.runDomainSet
  repeat' first | (with_reducible first | exact onlyChanges_refl _ _ | apply onlyChanges_ite | apply done0_in | apply onCfg_in | decide) | extract_lets | split
theorem runDomainSet_in {L : List Part} {s₀ u₀ : State} {h : CmdHdr} {own : U16} {ds : List (U16 × U16)} (hk : onlyChanges L s₀ u₀) (he : ([.brg, .cfg].all fun p => L.contains p) = true) : onlyChanges L s₀ (u₀.runDomainSet h own ds) := onlyChanges_step hk (runDomainSet_changes ..) he

theorem keysChanged_changes (s : State) : onlyChanges [.stg] s (s.keysChanged) := by
  unfold State.keysChanged
  repeat' first | (with_reducible first | exact onlyChanges_refl _ _ | apply onlyChanges_ite | apply onStg_in | decide) | split
theorem keysChanged_in {L : List Part} {s₀ u₀ : State} (hk : onlyChanges L s₀ u₀) (he : ([.stg].all fun p => L.contains p) = true) : onlyChanges L s₀ (u₀.keysChanged) := onlyChanges_step hk (keysChanged_changes ..) he

theorem runEnrol_changes (s : State) (h : CmdHdr) (haddr : U64) (slot : Byte) : onlyChanges [.regions, .brg, .stg, .keys] s (s.runEnrol h haddr slot) := by
  unfold State.runEnrol
  repeat' first | (with_reducible first | exact onlyChanges_refl _ _ | apply onlyChanges_ite | apply done0_in | apply onKeys_in | apply count_in | apply keysChanged_in | decide) | extract_lets | split | dsimp +zetaDelta only
theorem runEnrol_in {L : List Part} {s₀ u₀ : State} {h : CmdHdr} {haddr : U64} {slot : Byte} (hk : onlyChanges L s₀ u₀) (he : ([.regions, .brg, .stg, .keys].all fun p => L.contains p) = true) : onlyChanges L s₀ (u₀.runEnrol h haddr slot) := onlyChanges_step hk (runEnrol_changes ..) he

theorem runLock_changes (s : State) (h : CmdHdr) (mask : U32) : onlyChanges [.settings, .brg] s (s.runLock h mask) := by
  unfold State.runLock
  repeat' first | (with_reducible first | exact onlyChanges_refl _ _ | apply onlyChanges_ite | apply done0_in | apply onSet_in | apply complete_in | decide) | extract_lets | split | dsimp +zetaDelta only
theorem runLock_in {L : List Part} {s₀ u₀ : State} {h : CmdHdr} {mask : U32} (hk : onlyChanges L s₀ u₀) (he : ([.settings, .brg].all fun p => L.contains p) = true) : onlyChanges L s₀ (u₀.runLock h mask) := onlyChanges_step hk (runLock_changes ..) he

/-! Param -/

theorem runParamRead_changes (s : State) (h : CmdHdr) (haddr : U64) (lregion copy : Byte) (shard : U16) (fline nln : U32) : onlyChanges [.host, .brg] s (s.runParamRead h haddr lregion copy shard fline nln) := by
  unfold State.runParamRead
  repeat' first | (with_reducible first | exact onlyChanges_refl _ _ | apply onlyChanges_ite | apply done0_in | apply writeHost_in | apply complete_in | decide) | extract_lets | split | dsimp +zetaDelta only
theorem runParamRead_in {L : List Part} {s₀ u₀ : State} {h : CmdHdr} {haddr : U64} {lregion copy : Byte} {shard : U16} {fline nln : U32} (hk : onlyChanges L s₀ u₀) (he : ([.host, .brg].all fun p => L.contains p) = true) : onlyChanges L s₀ (u₀.runParamRead h haddr lregion copy shard fline nln) := onlyChanges_step hk (runParamRead_changes ..) he

theorem writeParam_changes (s : State) (r : Nat) (sh : Shard) (c j : Nat) (d : List Byte) : onlyChanges [.lregions, .net, .store, .orc] s (s.writeParam r sh c j d) := by
  unfold State.writeParam
  repeat' first | (with_reducible first | exact onlyChanges_refl _ _ | apply onlyChanges_ite | apply onStore_in | apply writeMaster_in | apply writeLinePart_in | apply writeCopy_in | decide) | extract_lets | split | dsimp +zetaDelta only
theorem writeParam_in {L : List Part} {s₀ u₀ : State} {r : Nat} {sh : Shard} {c j : Nat} {d : List Byte} (hk : onlyChanges L s₀ u₀) (he : ([.lregions, .net, .store, .orc].all fun p => L.contains p) = true) : onlyChanges L s₀ (u₀.writeParam r sh c j d) := onlyChanges_step hk (writeParam_changes ..) he

theorem writeParams_changes (s : State) (r k : Nat) (sh : Shard) (c j n : Nat) (b : List Byte) : onlyChanges [.lregions, .bat, .net, .store, .orc] s (s.writeParams r k sh c j n b) := by
  unfold State.writeParams
  repeat' first | (with_reducible first | exact onlyChanges_refl _ _ | apply onlyChanges_ite | apply writeParam_in | apply sendShardRecord_in | refine onlyChanges_foldl ?_ _ (fun _ _ => ?_) _ | decide) | extract_lets | split | dsimp +zetaDelta only
theorem writeParams_in {L : List Part} {s₀ u₀ : State} {r k : Nat} {sh : Shard} {c j n : Nat} {b : List Byte} (hk : onlyChanges L s₀ u₀) (he : ([.lregions, .bat, .net, .store, .orc].all fun p => L.contains p) = true) : onlyChanges L s₀ (u₀.writeParams r k sh c j n b) := onlyChanges_step hk (writeParams_changes ..) he

theorem runParamWrite_changes (s : State) (h : CmdHdr) (haddr : U64) (lregion copy : Byte) (shard : U16) (fline nln : U32) : onlyChanges [.lregions, .brg, .bat, .net, .store, .orc] s (s.runParamWrite h haddr lregion copy shard fline nln) := by
  unfold State.runParamWrite
  repeat' first | (with_reducible first | exact onlyChanges_refl _ _ | apply onlyChanges_ite | apply done0_in | apply writeParams_in | apply complete_in | decide) | extract_lets | split | dsimp +zetaDelta only
theorem runParamWrite_in {L : List Part} {s₀ u₀ : State} {h : CmdHdr} {haddr : U64} {lregion copy : Byte} {shard : U16} {fline nln : U32} (hk : onlyChanges L s₀ u₀) (he : ([.lregions, .brg, .bat, .net, .store, .orc].all fun p => L.contains p) = true) : onlyChanges L s₀ (u₀.runParamWrite h haddr lregion copy shard fline nln) := onlyChanges_step hk (runParamWrite_changes ..) he

theorem flushOrchard_changes (s : State) : onlyChanges [.orc, .log] s s.flushOrchard := by
  unfold State.flushOrchard
  repeat' first | (with_reducible first | exact onlyChanges_refl _ _ | apply onlyChanges_ite | apply writeBack_in | refine onlyChanges_foldl ?_ _ (fun _ _ => ?_) _ | decide) | extract_lets | split | dsimp +zetaDelta only
theorem flushOrchard_in {L : List Part} {s₀ u₀ : State} (hk : onlyChanges L s₀ u₀) (he : ([.orc, .log].all fun p => L.contains p) = true) : onlyChanges L s₀ u₀.flushOrchard := onlyChanges_step hk (flushOrchard_changes ..) he

theorem writeStaging_changes (s : State) (k : Nat) (b : List Byte) : onlyChanges [.lregions, .net, .store, .orc, .out] s (s.writeStaging k b) := by
  unfold State.writeStaging
  repeat' first | (with_reducible first | exact onlyChanges_refl _ _ | apply writeExchange_in | refine onlyChanges_foldl ?_ _ (fun _ _ => ?_) _ | decide) | extract_lets | split
theorem writeStaging_in {L : List Part} {s₀ u₀ : State} {k : Nat} {b : List Byte} (hk : onlyChanges L s₀ u₀) (he : ([.lregions, .net, .store, .orc, .out].all fun p => L.contains p) = true) : onlyChanges L s₀ (u₀.writeStaging k b) := onlyChanges_step hk (writeStaging_changes ..) he

theorem runExport_changes (s : State) (h : CmdHdr) (haddr : U64) (dest flush : Byte) (hlen : U64) : onlyChanges [.host, .lregions, .brg, .net, .store, .orc, .log, .out] s (s.runExport h haddr dest flush hlen) := by
  unfold State.runExport
  repeat' first | (with_reducible first | exact onlyChanges_refl _ _ | apply onlyChanges_ite | apply done0_in | apply flushOrchard_in | apply writeHost_in | apply writeStaging_in | apply complete_in | decide) | extract_lets | split | dsimp +zetaDelta only
theorem runExport_in {L : List Part} {s₀ u₀ : State} {h : CmdHdr} {haddr : U64} {dest flush : Byte} {hlen : U64} (hk : onlyChanges L s₀ u₀) (he : ([.host, .lregions, .brg, .net, .store, .orc, .log, .out].all fun p => L.contains p) = true) : onlyChanges L s₀ (u₀.runExport h haddr dest flush hlen) := onlyChanges_step hk (runExport_changes ..) he

theorem ckWrite_changes (s : State) (b : List Byte) (p : Nat × Nat × Nat × Shard) : onlyChanges [.lregions, .bat, .net, .store, .orc] s (s.ckWrite b p) := by
  have key : ∀ (f : State × Nat → Nat → State × Nat) (_ : ∀ a c, onlyChanges [.lregions, .bat, .net, .store, .orc] a.1 (f a c).1) (xs : List Nat) (a : State × Nat), onlyChanges [.lregions, .bat, .net, .store, .orc] a.1 (xs.foldl f a).1 := by
    intro f hf xs
    induction xs with
    | nil => exact fun a => onlyChanges_refl _ _
    | cons x xs ih => exact fun a => onlyChanges_trans (hf a x) (ih _)
  exact key (fun (a : State × Nat) c => (a.1.writeParams p.2.1 p.2.2.1 p.2.2.2 c 0 (a.1.paramLines p.2.1 p.2.2.2 c).length (b.drop a.2), a.2 + 2048 * (a.1.paramLines p.2.1 p.2.2.2 c).length))
    (fun _ _ => writeParams_changes ..) _ (s, p.1 + 16)
theorem ckWrite_in {L : List Part} {s₀ u₀ : State} {b : List Byte} {p : Nat × Nat × Nat × Shard} (hk : onlyChanges L s₀ u₀) (he : ([.lregions, .bat, .net, .store, .orc].all fun p => L.contains p) = true) : onlyChanges L s₀ (u₀.ckWrite b p) := onlyChanges_step hk (ckWrite_changes ..) he

theorem restoreScale_changes (s : State) (v : Nat) : onlyChanges [.prs] s (s.restoreScale v) := by
  unfold State.restoreScale
  repeat' first | (with_reducible first | exact onlyChanges_refl _ _ | apply onlyChanges_ite | apply onPrs_in | decide) | extract_lets | split
theorem restoreScale_in {L : List Part} {s₀ u₀ : State} {v : Nat} (hk : onlyChanges L s₀ u₀) (he : ([.prs].all fun p => L.contains p) = true) : onlyChanges L s₀ (u₀.restoreScale v) := onlyChanges_step hk (restoreScale_changes ..) he

theorem runImport_changes (s : State) (h : CmdHdr) (haddr : U64) (src : Byte) (sline : U32) (hlen : U64) : onlyChanges [.lregions, .brg, .bat, .net, .store, .orc, .prs] s (s.runImport h haddr src sline hlen) := by
  unfold State.runImport
  repeat' first | (with_reducible first | exact onlyChanges_refl _ _ | apply onlyChanges_ite | apply done0_in | apply ckWrite_in | apply restoreScale_in | apply complete_in | refine onlyChanges_foldl ?_ _ (fun _ _ => ?_) _ | decide) | extract_lets | split | dsimp +zetaDelta only
theorem runImport_in {L : List Part} {s₀ u₀ : State} {h : CmdHdr} {haddr : U64} {src : Byte} {sline : U32} {hlen : U64} (hk : onlyChanges L s₀ u₀) (he : ([.lregions, .brg, .bat, .net, .store, .orc, .prs].all fun p => L.contains p) = true) : onlyChanges L s₀ (u₀.runImport h haddr src sline hlen) := onlyChanges_step hk (runImport_changes ..) he

/-! Command -/

theorem runLaneOp_changes (s : State) (x : InHand) : onlyChanges [.free, .host, .sram, .cores, .lregions, .regions, .settings, .num, .run, .brg, .stg, .cfg, .bat, .net, .store, .orc, .prs, .eng, .flt, .log, .pwr, .keys, .out] s (s.runLaneOp x) := by
  unfold State.runLaneOp
  repeat' first | (with_reducible first | exact onlyChanges_refl _ _ | apply onlyChanges_ite | apply runStage_in | apply runCheck_in | apply runArm_in | apply runAbandon_in | apply runStep_in | apply runParamRead_in | apply runParamWrite_in | apply runExport_in | apply runImport_in | apply runPartnerSet_in | apply runDomainSet_in | apply runEnrol_in | apply runLock_in | decide) | extract_lets | split | dsimp +zetaDelta only
theorem runLaneOp_in {L : List Part} {s₀ u₀ : State} {x : InHand} (hk : onlyChanges L s₀ u₀) (he : ([.free, .host, .sram, .cores, .lregions, .regions, .settings, .num, .run, .brg, .stg, .cfg, .bat, .net, .store, .orc, .prs, .eng, .flt, .log, .pwr, .keys, .out].all fun p => L.contains p) = true) : onlyChanges L s₀ (u₀.runLaneOp x) := onlyChanges_step hk (runLaneOp_changes ..) he

theorem runOtherOp_changes (s : State) (x : InHand) : onlyChanges [.free, .host, .cores, .lregions, .regions, .settings, .grd, .num, .run, .brg, .stg, .cfg, .bat, .net, .store, .orc, .prs, .dma, .eng, .flt, .log, .pwr] s (s.runOtherOp x) := by
  unfold State.runOtherOp
  repeat' first | (with_reducible first | exact onlyChanges_refl _ _ | apply runIdentify_in | apply runAttest_in | apply runHealthRead_in | apply runLinkStatus_in | apply runHold_in | apply runBatchFeed_in | apply runReset_in | apply runRingRead_in | apply runMirrorRead_in | decide) | extract_lets | split
theorem runOtherOp_in {L : List Part} {s₀ u₀ : State} {x : InHand} (hk : onlyChanges L s₀ u₀) (he : ([.free, .host, .cores, .lregions, .regions, .settings, .grd, .num, .run, .brg, .stg, .cfg, .bat, .net, .store, .orc, .prs, .dma, .eng, .flt, .log, .pwr].all fun p => L.contains p) = true) : onlyChanges L s₀ (u₀.runOtherOp x) := onlyChanges_step hk (runOtherOp_changes ..) he

theorem runEntryOp_changes (s : State) (x : InHand) : onlyChanges [.free, .host, .sram, .cores, .lregions, .regions, .settings, .grd, .num, .run, .brg, .stg, .cfg, .bat, .net, .store, .orc, .prs, .dma, .eng, .flt, .log, .pwr, .keys, .out] s (s.runEntryOp x) := by
  unfold State.runEntryOp
  repeat' first | (with_reducible first | exact onlyChanges_refl _ _ | apply onlyChanges_ite | apply done0_in | apply onRun_in | apply runLaneOp_in | apply runOtherOp_in | decide) | extract_lets | split | dsimp +zetaDelta only
theorem runEntryOp_in {L : List Part} {s₀ u₀ : State} {x : InHand} (hk : onlyChanges L s₀ u₀) (he : ([.free, .host, .sram, .cores, .lregions, .regions, .settings, .grd, .num, .run, .brg, .stg, .cfg, .bat, .net, .store, .orc, .prs, .dma, .eng, .flt, .log, .pwr, .keys, .out].all fun p => L.contains p) = true) : onlyChanges L s₀ (u₀.runEntryOp x) := onlyChanges_step hk (runEntryOp_changes ..) he

theorem acceptEntry_changes (s : State) (x : InHand) : onlyChanges [.free, .host, .sram, .cores, .lregions, .regions, .settings, .grd, .num, .run, .brg, .stg, .cfg, .bat, .net, .store, .orc, .prs, .dma, .eng, .flt, .log, .pwr, .keys, .out] s (s.acceptEntry x) := by
  unfold State.acceptEntry
  repeat' first | (with_reducible first | exact onlyChanges_refl _ _ | apply onlyChanges_ite | apply onRun_in | apply runEntryOp_in | apply done0_in | decide) | extract_lets | split
theorem acceptEntry_in {L : List Part} {s₀ u₀ : State} {x : InHand} (hk : onlyChanges L s₀ u₀) (he : ([.free, .host, .sram, .cores, .lregions, .regions, .settings, .grd, .num, .run, .brg, .stg, .cfg, .bat, .net, .store, .orc, .prs, .dma, .eng, .flt, .log, .pwr, .keys, .out].all fun p => L.contains p) = true) : onlyChanges L s₀ (u₀.acceptEntry x) := onlyChanges_step hk (acceptEntry_changes ..) he

theorem train_changes (s : State) (e l : Nat) : onlyChanges [.free, .out] s (s.train e l) := by
  unfold State.train
  repeat' first | (with_reducible first | exact onlyChanges_refl _ _ | apply onlyChanges_ite | apply fresh_in | apply emitOut_in | decide) | extract_lets | split | dsimp +zetaDelta only
theorem train_in {L : List Part} {s₀ u₀ : State} {e l : Nat} (hk : onlyChanges L s₀ u₀) (he : ([.free, .out].all fun p => L.contains p) = true) : onlyChanges L s₀ (u₀.train e l) := onlyChanges_step hk (train_changes ..) he

theorem countUnc_changes (s : State) (e unc : Nat) : onlyChanges [.eng] s (s.countUnc e unc) := by
  unfold State.countUnc
  repeat' first | (with_reducible first | exact onlyChanges_refl _ _ | apply onlyChanges_ite | apply onEng_in | decide) | extract_lets | split | dsimp +zetaDelta only
theorem countUnc_in {L : List Part} {s₀ u₀ : State} {e unc : Nat} (hk : onlyChanges L s₀ u₀) (he : ([.eng].all fun p => L.contains p) = true) : onlyChanges L s₀ (u₀.countUnc e unc) := onlyChanges_step hk (countUnc_changes ..) he

theorem flushHold_changes (s : State) (k : Nat) (x : Desc) (last : Bool) : onlyChanges [.host, .dma] s (s.flushHold k x last) := by
  unfold State.flushHold
  repeat' first | (with_reducible first | exact onlyChanges_refl _ _ | apply onlyChanges_ite | apply chanWrite_in | apply onChan_in | decide) | extract_lets | split | dsimp +zetaDelta only
theorem flushHold_in {L : List Part} {s₀ u₀ : State} {k : Nat} {x : Desc} {last : Bool} (hk : onlyChanges L s₀ u₀) (he : ([.host, .dma].all fun p => L.contains p) = true) : onlyChanges L s₀ (u₀.flushHold k x last) := onlyChanges_step hk (flushHold_changes ..) he

theorem mendLine_changes (s : State) (r bank line : Nat) (d : List Byte) (st : Byte) : onlyChanges [.bat, .store] s (s.mendLine r bank line d st) := by
  unfold State.mendLine
  repeat' first | (with_reducible first | exact onlyChanges_refl _ _ | apply onlyChanges_ite | apply writeStore_in | apply setStamp_in | apply regenerateRow_in | apply writeWorking_in | apply sendShardRecord_in | decide) | extract_lets | split | dsimp +zetaDelta only
theorem mendLine_in {L : List Part} {s₀ u₀ : State} {r bank line : Nat} {d : List Byte} {st : Byte} (hk : onlyChanges L s₀ u₀) (he : ([.bat, .store].all fun p => L.contains p) = true) : onlyChanges L s₀ (u₀.mendLine r bank line d st) := onlyChanges_step hk (mendLine_changes ..) he

theorem takeOrdered_changes {s t : State} {r : Nat} {p : Packet → Bool} {x : Packet} (h : s.takeOrdered r p = some (x, t)) : onlyChanges [.lregions] s t := by
  unfold State.takeOrdered at h
  split at h
  · simp only [Option.some.injEq, Prod.mk.injEq] at h; obtain ⟨-, rfl⟩ := h; exact onLreg_changes ..
  · split at h
    · simp only [Option.some.injEq, Prod.mk.injEq] at h; obtain ⟨-, rfl⟩ := h; exact onLreg_changes ..
    · cases h
theorem mendWorking_changes {s t : State} {r bank line : Nat} (h : s.mendWorking r bank line = some t) : onlyChanges [.store] s t := by
  unfold State.mendWorking at h
  split at h
  · cases h; exact writeStore_in (onlyChanges_refl _ _) (by decide)
  · obtain ⟨x, -, rfl⟩ := Option.map_eq_some_iff.mp h
    exact rowWorking_changes ..
theorem makeRoom_changes {s t : State} {r : Nat} {b : OrcTable} {o : Nat × Nat × Nat × Nat} {x : Nat} (h : s.makeRoom r b o = some (x, t)) : onlyChanges [.orc, .log] s t := by
  unfold State.makeRoom at h
  dsimp only at h
  split at h
  · cases h; exact onlyChanges_refl _ _
  · split at h
    · cases h
    · simp only [Option.some.injEq, Prod.mk.injEq] at h
      obtain ⟨-, rfl⟩ := h
      exact onOrc_in (onlyChanges_ite (writeBack_in (onlyChanges_refl _ _) (by decide)) (onlyChanges_refl _ _)) (by decide)
theorem gatherWrite_changes (s : State) (r bank line off : Nat) (b : List Byte) : onlyChanges [.brg] s (s.gatherWrite r bank line off b) := by
  unfold State.gatherWrite
  repeat' first | (with_reducible first | exact onlyChanges_refl _ _ | apply onlyChanges_ite | apply onBrg_in | decide) | extract_lets | split | dsimp +zetaDelta only
theorem gatherWrite_in {L : List Part} {s₀ u₀ : State} {r bank line off : Nat} {b : List Byte} (hk : onlyChanges L s₀ u₀) (he : ([.brg].all fun p => L.contains p) = true) : onlyChanges L s₀ (u₀.gatherWrite r bank line off b) := onlyChanges_step hk (gatherWrite_changes ..) he

theorem lineFound_changes (s : State) (p bank line : Nat) : onlyChanges [.log] s (s.lineFound p bank line) := by
  unfold State.lineFound
  repeat' first | (with_reducible first | exact onlyChanges_refl _ _ | apply onlyChanges_ite | apply logHealth_in | decide) | extract_lets | split | dsimp +zetaDelta only
theorem lineFound_in {L : List Part} {s₀ u₀ : State} {p bank line : Nat} (hk : onlyChanges L s₀ u₀) (he : ([.log].all fun p => L.contains p) = true) : onlyChanges L s₀ (u₀.lineFound p bank line) := onlyChanges_step hk (lineFound_changes ..) he

theorem compareWaiting_changes (s : State) : onlyChanges [.free, .lregions, .bat, .net, .store, .orc, .prs, .flt, .log, .out] s s.compareWaiting := by
  unfold State.compareWaiting
  repeat' first | (with_reducible first | exact onlyChanges_refl _ _ | apply onlyChanges_ite | apply compareFps_in | refine onlyChanges_foldl ?_ _ (fun _ _ => ?_) _ | decide) | extract_lets | split | dsimp +zetaDelta only
theorem compareWaiting_in {L : List Part} {s₀ u₀ : State} (hk : onlyChanges L s₀ u₀) (he : ([.free, .lregions, .bat, .net, .store, .orc, .prs, .flt, .log, .out].all fun p => L.contains p) = true) : onlyChanges L s₀ u₀.compareWaiting := onlyChanges_step hk (compareWaiting_changes ..) he

theorem countWritten_changes (s : State) (k : Nat) (p : Packet) : onlyChanges [.regions] s (s.countWritten k p) := by
  unfold State.countWritten
  repeat' first | (with_reducible first | exact onlyChanges_refl _ _ | apply onlyChanges_ite | apply countL_in | decide) | extract_lets | split | dsimp +zetaDelta only
theorem countWritten_in {L : List Part} {s₀ u₀ : State} {k : Nat} {p : Packet} (hk : onlyChanges L s₀ u₀) (he : ([.regions].all fun p => L.contains p) = true) : onlyChanges L s₀ (u₀.countWritten k p) := onlyChanges_step hk (countWritten_changes ..) he

theorem resumeChan_changes (s : State) (c : Nat) : onlyChanges [.dma] s (s.resumeChan c) := by
  unfold State.resumeChan
  repeat' first | (with_reducible first | exact onlyChanges_refl _ _ | apply onlyChanges_ite | apply onChan_in | decide) | extract_lets | split | dsimp +zetaDelta only
theorem resumeChan_in {L : List Part} {s₀ u₀ : State} {c : Nat} (hk : onlyChanges L s₀ u₀) (he : ([.dma].all fun p => L.contains p) = true) : onlyChanges L s₀ (u₀.resumeChan c) := onlyChanges_step hk (resumeChan_changes ..) he

theorem takeBeacon_changes (s : State) (e j : Nat) (b : Beacon) : onlyChanges [.run, .brg, .stg, .eng, .log, .pwr] s (s.takeBeacon e j b) := by
  unfold State.takeBeacon
  repeat' first | (with_reducible first | exact onlyChanges_refl _ _ | apply onlyChanges_ite | apply onLink_in | apply logBeacon_in | apply judgeDisagreement_in | decide) | extract_lets | split | dsimp +zetaDelta only
theorem takeBeacon_in {L : List Part} {s₀ u₀ : State} {e j : Nat} {b : Beacon} (hk : onlyChanges L s₀ u₀) (he : ([.run, .brg, .stg, .eng, .log, .pwr].all fun p => L.contains p) = true) : onlyChanges L s₀ (u₀.takeBeacon e j b) := onlyChanges_step hk (takeBeacon_changes ..) he

theorem createQueue_changes (s : State) (q : Nat) : onlyChanges [.brg, .dma] s (s.createQueue q) := by
  unfold State.createQueue
  repeat' first | (with_reducible first | exact onlyChanges_refl _ _ | apply onlyChanges_ite | apply onBrg_in | apply onHq_in | apply onChan_in | decide) | extract_lets | split | dsimp +zetaDelta only
theorem createQueue_in {L : List Part} {s₀ u₀ : State} {q : Nat} (hk : onlyChanges L s₀ u₀) (he : ([.brg, .dma].all fun p => L.contains p) = true) : onlyChanges L s₀ (u₀.createQueue q) := onlyChanges_step hk (createQueue_changes ..) he

theorem deleteQueue_changes (s : State) (q : Nat) : onlyChanges [.brg, .dma] s (s.deleteQueue q) := by
  unfold State.deleteQueue
  repeat' first | (with_reducible first | exact onlyChanges_refl _ _ | apply onlyChanges_ite | apply onBrg_in | apply abortChan_in | apply onHq_in | decide) | extract_lets | split | dsimp +zetaDelta only
theorem deleteQueue_in {L : List Part} {s₀ u₀ : State} {q : Nat} (hk : onlyChanges L s₀ u₀) (he : ([.brg, .dma].all fun p => L.contains p) = true) : onlyChanges L s₀ (u₀.deleteQueue q) := onlyChanges_step hk (deleteQueue_changes ..) he

theorem prodBell_changes (s : State) (q : Nat) (v : U32) : onlyChanges [.brg, .log] s (s.prodBell q v) := by
  unfold State.prodBell
  repeat' first | (with_reducible first | exact onlyChanges_refl _ _ | apply onlyChanges_ite | apply onHq_in | apply refuseIndex_in | decide) | extract_lets | split | dsimp +zetaDelta only
theorem prodBell_in {L : List Part} {s₀ u₀ : State} {q : Nat} {v : U32} (hk : onlyChanges L s₀ u₀) (he : ([.brg, .log].all fun p => L.contains p) = true) : onlyChanges L s₀ (u₀.prodBell q v) := onlyChanges_step hk (prodBell_changes ..) he

theorem consBell_changes (s : State) (q : Nat) (v : U32) : onlyChanges [.brg, .log] s (s.consBell q v) := by
  unfold State.consBell
  repeat' first | (with_reducible first | exact onlyChanges_refl _ _ | apply onlyChanges_ite | apply onHq_in | apply refuseIndex_in | decide) | extract_lets | split | dsimp +zetaDelta only
theorem consBell_in {L : List Part} {s₀ u₀ : State} {q : Nat} {v : U32} (hk : onlyChanges L s₀ u₀) (he : ([.brg, .log].all fun p => L.contains p) = true) : onlyChanges L s₀ (u₀.consBell q v) := onlyChanges_step hk (consBell_changes ..) he

theorem recomputeOuter_changes (s : State) : onlyChanges [.free, .store, .flt] s s.recomputeOuter := by
  unfold State.recomputeOuter
  repeat' first | (with_reducible first | exact onlyChanges_refl _ _ | apply onlyChanges_ite | apply onFlt_in | apply foreignLine_in | apply fresh_in | apply writeStore_in | apply setStamp_in | decide) | extract_lets | split | dsimp +zetaDelta only
theorem recomputeOuter_in {L : List Part} {s₀ u₀ : State} (hk : onlyChanges L s₀ u₀) (he : ([.free, .store, .flt].all fun p => L.contains p) = true) : onlyChanges L s₀ u₀.recomputeOuter := onlyChanges_step hk (recomputeOuter_changes ..) he

theorem writeOccasion_changes (s : State) (x : Occasion) : onlyChanges [.meter, .mir] s (s.writeOccasion x) := by
  unfold State.writeOccasion
  repeat' first | (with_reducible first | exact onlyChanges_refl _ _ | apply onlyChanges_ite | apply writeRecord_in | apply onMeter_in | decide) | extract_lets | split | dsimp +zetaDelta only
theorem writeOccasion_in {L : List Part} {s₀ u₀ : State} {x : Occasion} (hk : onlyChanges L s₀ u₀) (he : ([.meter, .mir].all fun p => L.contains p) = true) : onlyChanges L s₀ (u₀.writeOccasion x) := onlyChanges_step hk (writeOccasion_changes ..) he

theorem writeOccasions_changes (s : State) : onlyChanges [.meter, .mir] s s.writeOccasions := by
  unfold State.writeOccasions
  repeat' first | (with_reducible first | exact onlyChanges_refl _ _ | apply onlyChanges_ite | apply writeOccasion_in | apply onMeter_in | refine onlyChanges_foldl ?_ _ (fun _ _ => ?_) _ | decide) | extract_lets | split | dsimp +zetaDelta only
theorem writeOccasions_in {L : List Part} {s₀ u₀ : State} (hk : onlyChanges L s₀ u₀) (he : ([.meter, .mir].all fun p => L.contains p) = true) : onlyChanges L s₀ u₀.writeOccasions := onlyChanges_step hk (writeOccasions_changes ..) he

theorem takeReading_changes (s : State) (x : InletReading) : onlyChanges [.pwr, .meter] s (s.takeReading x) := by
  unfold State.takeReading
  repeat' first | (with_reducible first | exact onlyChanges_refl _ _ | apply onlyChanges_ite | apply onPwr_in | apply onMeter_in | decide) | extract_lets | split | dsimp +zetaDelta only
theorem takeReading_in {L : List Part} {s₀ u₀ : State} {x : InletReading} (hk : onlyChanges L s₀ u₀) (he : ([.pwr, .meter].all fun p => L.contains p) = true) : onlyChanges L s₀ (u₀.takeReading x) := onlyChanges_step hk (takeReading_changes ..) he

theorem logSensor_changes (s : State) (was now : Bool) (pair : Nat) : onlyChanges [.free, .log] s (s.logSensor was now pair) := by
  unfold State.logSensor
  repeat' first | (with_reducible first | exact onlyChanges_refl _ _ | apply onlyChanges_ite | apply openClass_in | decide) | extract_lets | split | dsimp +zetaDelta only
theorem logSensor_in {L : List Part} {s₀ u₀ : State} {was now : Bool} {pair : Nat} (hk : onlyChanges L s₀ u₀) (he : ([.free, .log].all fun p => L.contains p) = true) : onlyChanges L s₀ (u₀.logSensor was now pair) := onlyChanges_step hk (logSensor_changes ..) he

theorem hostReadAt_changes (s : State) (a : Nat) (size : BitVec 4) : onlyChanges [.regions, .settings, .grd, .num, .run, .brg, .stg, .cfg, .store, .orc, .prs, .eng, .flt, .pwr, .mir] s (s.hostReadAt a size) := by
  unfold State.hostReadAt State.hostRead
  repeat' first | (with_reducible first | exact onlyChanges_refl _ _ | apply onlyChanges_ite | apply onBrg_in | apply onRun_in | apply hostRead_in | apply clearRc_in | decide) | extract_lets | split | dsimp +zetaDelta only
theorem hostReadAt_in {L : List Part} {s₀ u₀ : State} {a : Nat} {size : BitVec 4} (hk : onlyChanges L s₀ u₀) (he : ([.regions, .settings, .grd, .num, .run, .brg, .stg, .cfg, .store, .orc, .prs, .eng, .flt, .pwr, .mir].all fun p => L.contains p) = true) : onlyChanges L s₀ (u₀.hostReadAt a size) := onlyChanges_step hk (hostReadAt_changes ..) he

theorem writeDoorbell_changes (s : State) (a : Nat) (v : U32) : onlyChanges [.brg, .log] s (s.writeDoorbell a v) := by
  unfold State.writeDoorbell
  repeat' first | (with_reducible first | exact onlyChanges_refl _ _ | apply onlyChanges_ite | apply prodBell_in | apply consBell_in | apply refuseIndex_in | decide) | extract_lets | split | dsimp +zetaDelta only
theorem writeDoorbell_in {L : List Part} {s₀ u₀ : State} {a : Nat} {v : U32} (hk : onlyChanges L s₀ u₀) (he : ([.brg, .log].all fun p => L.contains p) = true) : onlyChanges L s₀ (u₀.writeDoorbell a v) := onlyChanges_step hk (writeDoorbell_changes ..) he

theorem writeHqOp_changes (s : State) (v : U32) : onlyChanges [.settings, .brg, .dma] s (s.writeHqOp v) := by
  unfold State.writeHqOp
  repeat' first | (with_reducible first | exact onlyChanges_refl _ _ | apply onlyChanges_ite | apply discardWrite_in | apply createQueue_in | apply deleteQueue_in | decide) | extract_lets | split | dsimp +zetaDelta only
theorem writeHqOp_in {L : List Part} {s₀ u₀ : State} {v : U32} (hk : onlyChanges L s₀ u₀) (he : ([.settings, .brg, .dma].all fun p => L.contains p) = true) : onlyChanges L s₀ (u₀.writeHqOp v) := onlyChanges_step hk (writeHqOp_changes ..) he

theorem writeBdmaOp_changes (s : State) (v : U32) : onlyChanges [.settings, .brg, .dma] s (s.writeBdmaOp v) := by
  unfold State.writeBdmaOp
  repeat' first | (with_reducible first | exact onlyChanges_refl _ _ | apply onlyChanges_ite | apply discardWrite_in | apply resumeChan_in | apply abortChan_in | decide) | extract_lets | split | dsimp +zetaDelta only
theorem writeBdmaOp_in {L : List Part} {s₀ u₀ : State} {v : U32} (hk : onlyChanges L s₀ u₀) (he : ([.settings, .brg, .dma].all fun p => L.contains p) = true) : onlyChanges L s₀ (u₀.writeBdmaOp v) := onlyChanges_step hk (writeBdmaOp_changes ..) he

theorem writeSpecial_changes {s t : State} {a : Nat} {v : U32} {m : Bool} (h : s.writeSpecial a v m = some t) : onlyChanges [.sram, .cores, .lregions, .regions, .settings, .grd, .num, .run, .brg, .stg, .cfg, .bat, .net, .store, .dma, .eng, .flt, .log, .pwr, .keys, .mir] s t := by
  unfold State.writeSpecial at h
  refine opt_ite h (guardWrite_in (onlyChanges_refl _ _) (by decide)) fun h => ?_
  refine opt_ite h (guardConfirm_in (onlyChanges_refl _ _) (by decide)) fun h => ?_
  refine opt_ite h (guardWrite_in (onlyChanges_refl _ _) (by decide)) fun h => ?_
  refine opt_ite h (guardConfirm_in (onlyChanges_refl _ _) (by decide)) fun h => ?_
  refine opt_ite h (guardWrite_in (onlyChanges_refl _ _) (by decide)) fun h => ?_
  refine opt_ite h (guardConfirm_in (onlyChanges_refl _ _) (by decide)) fun h => ?_
  refine opt_ite h (writeLock_in (onlyChanges_refl _ _) (by decide)) fun h => ?_
  refine opt_ite h (writeCons_in (onlyChanges_refl _ _) (by decide)) fun h => ?_
  refine opt_ite h (writeHqOp_in (onlyChanges_refl _ _) (by decide)) fun h => ?_
  refine opt_ite h (writeBdmaOp_in (onlyChanges_refl _ _) (by decide)) fun h => ?_
  refine opt_ite h (writeClk_in (onlyChanges_refl _ _) (by decide)) fun h => ?_
  refine opt_ite h (writeMtrCfg_in (onlyChanges_refl _ _) (by decide)) fun h => ?_
  refine opt_ite h (writeDbg_in (onlyChanges_refl _ _) (by decide)) fun h => ?_
  refine opt_ite h (writeDoorbell_in (onlyChanges_refl _ _) (by decide)) fun h => ?_
  split at h
  · refine opt_ite h (writeFset_in (onlyChanges_refl _ _) (by decide)) fun h => ?_
    exact opt_ite h (writeGrant_in (onlyChanges_refl _ _) (by decide)) (fun h => absurd h (by simp))
  · cases h
theorem writeReg_changes (s : State) (a : Nat) (v : U32) (m : Bool) : onlyChanges [.sram, .cores, .lregions, .regions, .settings, .grd, .num, .run, .brg, .stg, .cfg, .bat, .net, .store, .dma, .eng, .flt, .log, .pwr, .keys, .mir] s (s.writeReg a v m) := by
  unfold State.writeReg
  split
  · exact discardWrite_in (onlyChanges_refl _ _) (by decide)
  · split
    · rename_i h; exact writeSpecial_changes h
    · split
      · exact writeSetting_in (onlyChanges_refl _ _) (by decide)
      · exact onlyChanges_ite (writeReadOnly_in (onlyChanges_refl _ _) (by decide)) (writeNowhere_in (onlyChanges_refl _ _) (by decide))
theorem writeReg_in {L : List Part} {s₀ u₀ : State} {a : Nat} {v : U32} {mbus : Bool} (hk : onlyChanges L s₀ u₀) (he : ([.sram, .cores, .lregions, .regions, .settings, .grd, .num, .run, .brg, .stg, .cfg, .bat, .net, .store, .dma, .eng, .flt, .log, .pwr, .keys, .mir].all fun p => L.contains p) = true) : onlyChanges L s₀ (u₀.writeReg a v mbus) := onlyChanges_step hk (writeReg_changes ..) he

theorem hostWrite_changes (s : State) (a : Nat) (size : BitVec 4) (data : U64) (poison : Bool) : onlyChanges [.sram, .cores, .lregions, .regions, .settings, .grd, .num, .run, .brg, .stg, .cfg, .bat, .net, .store, .dma, .eng, .flt, .log, .pwr, .keys, .mir] s (s.hostWrite a size data poison) := by
  unfold State.hostWrite
  repeat' first | (with_reducible first | exact onlyChanges_refl _ _ | apply onlyChanges_ite | apply rejectAccess_in | apply writeReg_in | decide) | extract_lets | split | dsimp +zetaDelta only
theorem hostWrite_in {L : List Part} {s₀ u₀ : State} {a : Nat} {size : BitVec 4} {data : U64} {poison : Bool} (hk : onlyChanges L s₀ u₀) (he : ([.sram, .cores, .lregions, .regions, .settings, .grd, .num, .run, .brg, .stg, .cfg, .bat, .net, .store, .dma, .eng, .flt, .log, .pwr, .keys, .mir].all fun p => L.contains p) = true) : onlyChanges L s₀ (u₀.hostWrite a size data poison) := onlyChanges_step hk (hostWrite_changes ..) he

theorem partDone_changes (s : State) (x : InHand) : onlyChanges [.free, .host, .lregions, .brg, .bat, .net, .store, .orc, .log, .out] s (s.partDone x) := by
  unfold State.partDone
  dsimp only
  repeat' first | (with_reducible first | exact onlyChanges_refl _ _ | apply onlyChanges_ite | apply fresh_in | apply done0_in | apply writeHost_in | apply complete_in | apply writeParams_in | apply flushOrchard_in | apply writeStaging_in | apply ckWrite_in | refine onlyChanges_foldl ?_ _ (fun _ _ => ?_) _ | decide) | extract_lets | split | dsimp +zetaDelta only
theorem partDone_in {L : List Part} {s₀ u₀ : State} {x : InHand} (hk : onlyChanges L s₀ u₀) (he : ([.free, .host, .lregions, .brg, .bat, .net, .store, .orc, .log, .out].all fun p => L.contains p) = true) : onlyChanges L s₀ (u₀.partDone x) := onlyChanges_step hk (partDone_changes ..) he

theorem stopLane_changes (s : State) (x : InHand) : onlyChanges [.free, .host, .lregions, .run, .brg, .bat, .net, .store, .orc, .log, .out] s (s.stopLane x) := by
  unfold State.stopLane
  repeat' first | (with_reducible first | exact onlyChanges_refl _ _ | apply onlyChanges_ite | apply onRun_in | apply partDone_in | apply done0_in | decide) | extract_lets | split | dsimp +zetaDelta only
theorem stopLane_in {L : List Part} {s₀ u₀ : State} {x : InHand} (hk : onlyChanges L s₀ u₀) (he : ([.free, .host, .lregions, .run, .brg, .bat, .net, .store, .orc, .log, .out].all fun p => L.contains p) = true) : onlyChanges L s₀ (u₀.stopLane x) := onlyChanges_step hk (stopLane_changes ..) he

theorem hostWindowWrite_changes (s : State) (o : Nat) (data : List Byte) (poison : Bool) : onlyChanges [.brg, .store, .log] s (s.hostWindowWrite o data poison) := by
  unfold State.hostWindowWrite
  repeat' first | (with_reducible first | exact onlyChanges_refl _ _ | apply onlyChanges_ite | apply rejectAccess_in | apply resDiscard_in | apply gatherWrite_in | decide) | extract_lets | split | dsimp +zetaDelta only
theorem hostWindowWrite_in {L : List Part} {s₀ u₀ : State} {o : Nat} {data : List Byte} {poison : Bool} (hk : onlyChanges L s₀ u₀) (he : ([.brg, .store, .log].all fun p => L.contains p) = true) : onlyChanges L s₀ (u₀.hostWindowWrite o data poison) := onlyChanges_step hk (hostWindowWrite_changes ..) he

theorem hostWindowRead_changes (s : State) (o len : Nat) : onlyChanges [.lregions, .run, .brg, .net, .store, .orc] s (s.hostWindowRead o len) := by
  unfold State.hostWindowRead
  repeat' first | (with_reducible first | exact onlyChanges_refl _ _ | apply onlyChanges_ite | apply onRun_in | apply rejectAccess_in | apply applyGather_in | decide) | extract_lets | split | dsimp +zetaDelta only
theorem hostWindowRead_in {L : List Part} {s₀ u₀ : State} {o len : Nat} (hk : onlyChanges L s₀ u₀) (he : ([.lregions, .run, .brg, .net, .store, .orc].all fun p => L.contains p) = true) : onlyChanges L s₀ (u₀.hostWindowRead o len) := onlyChanges_step hk (hostWindowRead_changes ..) he

theorem startBringUp_changes (s : State) : onlyChanges [.time, .pwr] s s.startBringUp := by
  unfold State.startBringUp
  split
  · constructor; intro p hp; cases p <;> first | rfl | (exfalso; revert hp; decide)
  · exact onlyChanges_refl _ _
theorem startBringUp_in {L : List Part} {s₀ u₀ : State} (hk : onlyChanges L s₀ u₀) (he : ([.time, .pwr].all fun p => L.contains p) = true) : onlyChanges L s₀ (u₀.startBringUp) := onlyChanges_step hk (startBringUp_changes ..) he

theorem partnerEngineLost_changes (s : State) (m e : Nat) : onlyChanges [.eng, .flt] s (s.partnerEngineLost m e) := by
  constructor; intro p hp; cases p <;> first | rfl | (exfalso; revert hp; decide)
theorem partnerEngineLost_in {L : List Part} {s₀ u₀ : State} {m e : Nat} (hk : onlyChanges L s₀ u₀) (he : ([.eng, .flt].all fun p => L.contains p) = true) : onlyChanges L s₀ (u₀.partnerEngineLost m e) := onlyChanges_step hk (partnerEngineLost_changes ..) he

theorem takeQueued_changes {s t : State} {r c : Nat} {p : Packet → Bool} {x : Packet} (h : s.takeQueued r c p = some (x, t)) : onlyChanges [.cores] s t := by
  unfold State.takeQueued at h
  split at h
  · split at h
    · simp only [Option.some.injEq, Prod.mk.injEq] at h; obtain ⟨-, rfl⟩ := h; exact onCore_changes ..
    · cases h
  · split at h
    · simp only [Option.some.injEq, Prod.mk.injEq] at h; obtain ⟨-, rfl⟩ := h; exact onCore_changes ..
    · cases h
  · cases h
theorem takeCore_changes {s t : State} {r c : Nat} {p : Packet → Bool} {x : Packet} (h : s.takeCore r c p = some (x, t)) : onlyChanges [.cores] s t := by
  unfold State.takeCore at h
  split at h
  · split at h
    · simp only [Option.some.injEq, Prod.mk.injEq] at h; obtain ⟨-, rfl⟩ := h; exact onCore_changes ..
    · exact takeQueued_changes h
  · exact takeQueued_changes h
theorem applyStore_in {L : List Part} {s₀ u₀ : State} {r : Nat} {direct : Bool} {p : Packet} {answer : List Packet → State → State} {unit : Nat} (hk : onlyChanges L s₀ u₀)
    (he : ([.cores, .lregions, .regions, .bat, .net, .store, .orc, .log, .out].all fun p => L.contains p) = true) (ha : ∀ ps u, onlyChanges L u (answer ps u)) :
    onlyChanges L s₀ (u₀.applyStore r direct p answer unit) := by
  have hs (m : List Part) (h : ∀ q ∈ m, q ∈ [Part.cores, .lregions, .regions, .bat, .net, .store, .orc, .log, .out]) : (m.all fun p => L.contains p) = true :=
    List.all_eq_true.mpr fun q hq => List.all_eq_true.mp he q (h q hq)
  refine onlyChanges_trans hk ?_
  have ht {u v : State} (h : onlyChanges L v u) (k : Option Nat) : onlyChanges L v (match k with | none => u | some k => u.addSiCtr r k 1) := by
    cases k with
    | none => exact h
    | some k => exact addSiCtr_in h (hs _ (by decide))
  unfold State.applyStore
  dsimp only
  split
  · exact rejectFirst_in (onlyChanges_refl _ _) (hs _ (by decide))
  · exact onlyChanges_refl _ _
  · have k := onlyChanges_ite (c := gOffset p.gaddr = p.base)
      (resDiscard_in (lr := r) (bank := gIndex p.gaddr) (line := gOffset p.gaddr / 2048) (onlyChanges_refl L u₀) (hs _ (by decide))) (onlyChanges_refl L u₀)
    exact onlyChanges_ite (onlyChanges_trans k (ha _ _)) k
  · have k1 := writeExchange_in (r := r) (bank := gIndex p.gaddr) (line := gOffset p.gaddr / 2048) (off := gOffset p.gaddr % 2048) (b := p.payload.take (2048 - gOffset p.gaddr % 2048))
      (onlyChanges_refl L u₀) (hs _ (by decide))
    have k2 := onlyChanges_ite (c := 2048 < gOffset p.gaddr % 2048 + p.payload.length)
      (writeExchange_in (r := r) (bank := gIndex p.gaddr) (line := gOffset p.gaddr / 2048 + 1) (off := 0) (b := p.payload.drop (2048 - gOffset p.gaddr % 2048)) k1 (hs _ (by decide))) k1
    refine onlyChanges_ite (onlyChanges_trans (ht (onlyChanges_refl _ _) _) (ha _ _)) (onlyChanges_ite (onlyChanges_trans (ht k2 _) (ha _ _)) k2)

theorem recoverLine_changes (s : State) (r bank line : Nat) : onlyChanges [.free, .sram, .cores, .lregions, .regions, .num, .run, .brg, .bat, .net, .store, .eng, .flt, .log, .pwr] s (s.recoverLine r bank line).1 := by
  unfold State.recoverLine
  have hf : onlyChanges [.free, .sram, .cores, .lregions, .regions, .num, .run, .brg, .bat, .net, .store, .eng, .flt, .log, .pwr] s (let (d, s) := s.foreignLine; let (st, s) := s.fresh; s.mendLine r bank line d (BitVec.ofNat 8 st)) :=
    mendLine_in (fresh_in (foreignLine_in (onlyChanges_refl _ _) (by decide)) (by decide)) (by decide)
  dsimp only
  split
  · split
    · split
      · exact onlyChanges_refl _ _
      · split
        · exact hf
        · exact beyondSheaf_in (onlyChanges_refl _ _) (by decide)
    · exact mendLine_in (onlyChanges_refl _ _) (by decide)
  · split
    · exact onlyChanges_mono (mendWorking_changes (by assumption)) (by simp)
    · split
      · exact hf
      · exact onlyChanges_refl _ _
theorem recoverLine_in {L : List Part} {s₀ u₀ : State} {r bank line : Nat} (hk : onlyChanges L s₀ u₀) (he : ([.free, .sram, .cores, .lregions, .regions, .num, .run, .brg, .bat, .net, .store, .eng, .flt, .log, .pwr].all fun p => L.contains p) = true) : onlyChanges L s₀ ((u₀.recoverLine r bank line).1) := onlyChanges_step hk (recoverLine_changes ..) he

end Sys2Proof.Machine
end

