-- ==== Sys2Proof/Laws/Commands.lean ====
section
/-! SUPPORT. What each command may change: the parts named by `execFoo_within`, where it answers a next state. -/

namespace Sys2Proof.Machine

/-- Where a command answers a next state, only the parts named change. -/
def answersWithin (l : List Part) (s : State) (a : Ans) : Prop := ∀ t, a = .next t → onlyChanges l s t

theorem answers_next {l : List Part} {s u : State} (h : onlyChanges l s u) : answersWithin l s (.next u) := fun _ e => Host.Outcome.next.inj e ▸ h
theorem answers_fault (l : List Part) (s : State) (f : Fault) : answersWithin l s (.fault f) := fun _ e => by cases e
theorem answers_refused (l : List Part) (s : State) (f : Refusal) : answersWithin l s (.refused f) := fun _ e => by cases e
theorem answers_ite {l : List Part} {s : State} {a b : Ans} {c : Prop} [Decidable c] (h : answersWithin l s a) (g : answersWithin l s b) : answersWithin l s (if c then a else b) := by
  split <;> assumption

theorem answers_overLink {l : List Part} {s : State} {c : Instr} {f : State → Ans} (h : answersWithin l s (f s)) (hb : ([.brg].all fun p => l.contains p) = true) : answersWithin l s (s.overLink c f) := by
  unfold State.overLink
  split
  · exact answers_next (onlyChanges_refl _ _)
  · split
    · exact answers_next (onBrg_in (onlyChanges_refl _ _) hb)
    · exact h
theorem answers_mono {l m : List Part} {s : State} {a : Ans} (h : answersWithin l s a) (hm : (l.all fun p => m.contains p) = true) : answersWithin m s a :=
  fun t e => onlyChanges_mono (h t e) fun p hp => by simpa using List.all_eq_true.mp hm p hp

theorem hostRead_in {L : List Part} {s u : State} {a : Nat} (h : onlyChanges L s u) (he : ([.regions, .settings, .grd, .num, .brg, .stg, .cfg, .store, .orc, .prs, .eng, .flt, .pwr, .mir].all fun p => L.contains p) = true) : onlyChanges L s (u.hostRead a).2 := clearRc_in h he

theorem execNumericRecord_within (i : Nat) (s : State) : answersWithin [.lregions, .num, .bat] s (execNumericRecord i s) := by
  unfold execNumericRecord
  repeat' first | (with_reducible first | exact answers_fault .. | exact answers_refused .. | apply answers_next | exact onlyChanges_refl _ _ | apply onlyChanges_ite | apply answers_ite | apply onBat_in | apply ringInsert_in | apply gradSummary_in | apply maybeHold_in | decide) | extract_lets | split | dsimp +zetaDelta only

theorem execNumericRecordExpiry_within (i : Nat) (s : State) : answersWithin [.regions, .bat] s (execNumericRecordExpiry i s) := by
  unfold execNumericRecordExpiry
  repeat' first | (with_reducible first | exact answers_fault .. | exact answers_refused .. | apply answers_next | exact onlyChanges_refl _ _ | apply onlyChanges_ite | apply answers_ite | apply onBat_in | apply numDropped_in | decide) | extract_lets | split | dsimp +zetaDelta only

theorem execMicroBatchReport_within (i : Nat) (s : State) : answersWithin [.lregions, .settings, .num, .bat, .flt] s (execMicroBatchReport i s) := by
  unfold execMicroBatchReport
  repeat' first | (with_reducible first | exact answers_fault .. | exact answers_refused .. | apply answers_next | exact onlyChanges_refl _ _ | apply onlyChanges_ite | apply answers_ite | apply onBat_in | apply onNum_in | apply gradSummary_in | apply maybeHold_in | apply onFlt_in | apply microBoundary_in | decide) | extract_lets | split | dsimp +zetaDelta only

theorem execHoldToken_within (r : Region) (s : State) : answersWithin [.lregions, .num, .bat] s (execHoldToken r s) := by
  unfold execHoldToken
  repeat' first | (with_reducible first | exact answers_fault .. | exact answers_refused .. | apply answers_next | exact onlyChanges_refl _ _ | apply onlyChanges_ite | apply answers_ite | apply onLreg_in | apply onNum_in | apply progress_in | decide) | extract_lets | split | dsimp +zetaDelta only

theorem execHoldReached_within (s : State) : answersWithin [.num, .run, .brg, .pwr] s (execHoldReached s) := by
  unfold execHoldReached
  repeat' first | (with_reducible first | exact answers_fault .. | exact answers_refused .. | apply answers_next | exact onlyChanges_refl _ _ | apply onlyChanges_ite | apply answers_ite | apply onNum_in | apply onRun_in | apply event_in | apply finishHolds_in | decide) | extract_lets | split | dsimp +zetaDelta only

theorem execConsumerIndexWrite_within (v : U32) (s : State) : answersWithin [.settings, .num, .brg, .log] s (execConsumerIndexWrite v s) := by
  unfold execConsumerIndexWrite
  repeat' first | (with_reducible first | exact answers_fault .. | exact answers_refused .. | apply answers_next | exact onlyChanges_refl _ _ | apply onlyChanges_ite | apply answers_ite | apply answers_overLink | apply writeCons_in | decide) | extract_lets | split | dsimp +zetaDelta only

theorem execScrub_within (r : Region) (bank : Core) (line : Nat) (found : EccRead) (s : State) : answersWithin [.store, .log] s (execScrub r bank line found s) := by
  unfold execScrub
  repeat' first | (with_reducible first | exact answers_fault .. | exact answers_refused .. | apply answers_next | exact onlyChanges_refl _ _ | apply onlyChanges_ite | apply answers_ite | apply corrected_in | apply onStore_in | apply lineFound_in | decide) | extract_lets | split | dsimp +zetaDelta only

theorem execLineRecovered_within (r : Region) (bank : Core) (line : Nat) (s : State) : answersWithin [.free, .sram, .cores, .lregions, .regions, .num, .run, .brg, .bat, .net, .store, .eng, .flt, .log, .pwr] s (execLineRecovered r bank line s) := by
  unfold execLineRecovered
  repeat' first | (with_reducible first | exact answers_fault .. | exact answers_refused .. | apply answers_next | exact onlyChanges_refl _ _ | apply onlyChanges_ite | apply answers_ite | apply recoverLine_in | apply onStore_in | apply logHealth_in | apply onBat_in | decide) | extract_lets | split | dsimp +zetaDelta only

theorem execDramRowRemap_within (r : Region) (bank : Core) (row : Nat) (s : State) : answersWithin [.store, .log] s (execDramRowRemap r bank row s) := by
  unfold execDramRowRemap
  repeat' first | (with_reducible first | exact answers_fault .. | exact answers_refused .. | apply answers_next | exact onlyChanges_refl _ _ | apply onlyChanges_ite | apply answers_ite | apply onStore_in | apply logHealth_in | decide) | extract_lets | split | dsimp +zetaDelta only

theorem execLaunchArrival_within (r : Region) (c : Core) (s : State) : answersWithin [.cores, .regions, .bat] s (execLaunchArrival r c s) := by
  unfold execLaunchArrival
  repeat' first | (with_reducible first | exact answers_fault .. | exact answers_refused .. | apply answers_next | exact onlyChanges_refl _ _ | apply onlyChanges_ite | apply answers_ite | apply onBat_in | apply count_in | apply onReg_in | apply reportCore_in | apply onCore_in | decide) | extract_lets | split | dsimp +zetaDelta only

theorem execBeatTableEntry_within (r : Region) (c : Core) (err : LinkErr) (s : State) : answersWithin [.sram, .cores, .regions, .bat, .store] s (execBeatTableEntry r c err s) := by
  unfold execBeatTableEntry
  repeat' first | (with_reducible first | exact answers_fault .. | exact answers_refused .. | apply answers_next | exact onlyChanges_refl _ _ | apply onlyChanges_ite | apply answers_ite | apply illegal_in | apply passEntry_in | apply runEntry_in | decide) | extract_lets | split | dsimp +zetaDelta only

theorem execConfigurationWrite_within (r : Region) (unit : U16) (off data : U32) (s : State) : answersWithin [.regions] s (execConfigurationWrite r unit off data s) := by
  unfold execConfigurationWrite
  repeat' first | (with_reducible first | exact answers_fault .. | exact answers_refused .. | apply answers_next | exact onlyChanges_refl _ _ | apply onlyChanges_ite | apply answers_ite | apply onReg_in | decide) | extract_lets | split | dsimp +zetaDelta only

theorem execConfigurationReadRequest_within (r : Region) (unit : U16) (off : U32) (s : State) : answersWithin [.bat] s (execConfigurationReadRequest r unit off s) := by
  unfold execConfigurationReadRequest
  repeat' first | (with_reducible first | exact answers_fault .. | exact answers_refused .. | apply answers_next | exact onlyChanges_refl _ _ | apply onlyChanges_ite | apply answers_ite | apply onBat_in | decide) | extract_lets | split | dsimp +zetaDelta only

theorem execConfigurationReadResponse_within (i : Nat) (s : State) : answersWithin [.bat] s (execConfigurationReadResponse i s) := by
  unfold execConfigurationReadResponse
  repeat' first | (with_reducible first | exact answers_fault .. | exact answers_refused .. | apply answers_next | exact onlyChanges_refl _ _ | apply onlyChanges_ite | apply answers_ite | apply onBat_in | decide) | extract_lets | split | dsimp +zetaDelta only

theorem execOrchardRowPrepare_within (r : Region) (table : Fin 64) (row : U32) (s : State) : answersWithin [.sram, .lregions, .bat, .orc, .log] s (execOrchardRowPrepare r table row s) := by
  unfold execOrchardRowPrepare
  repeat' first | (with_reducible first | exact answers_fault .. | exact answers_refused .. | apply answers_next | exact onlyChanges_refl _ _ | exact onlyChanges_step (onlyChanges_refl _ _) (makeRoom_changes (by assumption)) (by decide) | apply onlyChanges_ite | apply answers_ite | apply orcProgress_in | apply onOrc_in | apply noteWear_in | decide) | extract_lets | split | dsimp +zetaDelta only

theorem execOrchardFillComplete_within (r : Region) (table : Fin 64) (row : U32) (s : State) : answersWithin [.sram, .lregions, .bat, .net, .store, .orc] s (execOrchardFillComplete r table row s) := by
  unfold execOrchardFillComplete
  repeat' first | (with_reducible first | exact answers_fault .. | exact answers_refused .. | apply answers_next | exact onlyChanges_refl _ _ | apply onlyChanges_ite | apply answers_ite | apply writeLinePart_in | apply rowWorking_in | apply rowRecord_in | apply onOrc_in | apply orcProgress_in | refine onlyChanges_foldl ?_ _ (fun _ _ => ?_) _ | decide) | extract_lets | split | dsimp +zetaDelta only

theorem execOrchardFillTimeout_within (r : Region) (table : Fin 64) (row : U32) (s : State) : answersWithin [.free, .run, .brg, .orc, .flt, .log, .pwr] s (execOrchardFillTimeout r table row s) := by
  unfold execOrchardFillTimeout
  repeat' first | (with_reducible first | exact answers_fault .. | exact answers_refused .. | apply answers_next | exact onlyChanges_refl _ _ | apply onlyChanges_ite | apply answers_ite | apply logHealth_in | apply fresh_in | apply loseDie_in | decide) | extract_lets | split | dsimp +zetaDelta only

theorem execFlashDieLost_within (die : Fin 4) (s : State) : answersWithin [.run, .brg, .orc, .flt, .log, .pwr] s (execFlashDieLost die s) := by
  unfold execFlashDieLost
  repeat' first | (with_reducible first | exact answers_fault .. | exact answers_refused .. | apply answers_next | exact onlyChanges_refl _ _ | apply onlyChanges_ite | apply answers_ite | apply loseDie_in | decide) | extract_lets | split | dsimp +zetaDelta only

theorem execLanePowerInRange_within (e : Engine) (l : Fin 64) (s : State) : answersWithin [.eng, .log, .out] s (execLanePowerInRange e l s) := by
  unfold execLanePowerInRange
  repeat' first | (with_reducible first | exact answers_fault .. | exact answers_refused .. | apply answers_next | exact onlyChanges_refl _ _ | apply onlyChanges_ite | apply answers_ite | apply setLane_in | decide) | extract_lets | split | dsimp +zetaDelta only

theorem execReceiverOverPower_within (e : Engine) (p : LanePower) (s : State) : answersWithin [.eng, .log, .out] s (execReceiverOverPower e p s) := by
  unfold execReceiverOverPower
  repeat' first | (with_reducible first | exact answers_fault .. | exact answers_refused .. | apply answers_next | exact onlyChanges_refl _ _ | apply onlyChanges_ite | apply answers_ite | apply logHealth_in | apply darken_in | decide) | extract_lets | split | dsimp +zetaDelta only

theorem execTrainingWord_within (e : Engine) (l : Fin 64) (w : TrainWord) (s : State) : answersWithin [.free, .eng, .log, .out] s (execTrainingWord e l w s) := by
  unfold execTrainingWord
  repeat' first | (with_reducible first | exact answers_fault .. | exact answers_refused .. | apply answers_next | exact onlyChanges_refl _ _ | apply onlyChanges_ite | apply answers_ite | apply train_in | apply onLane_in | apply setLane_in | decide) | extract_lets | split | dsimp +zetaDelta only

theorem execLaneStateTimeout_within (e : Engine) (l : Fin 64) (s : State) : answersWithin [.eng, .log, .out] s (execLaneStateTimeout e l s) := by
  unfold execLaneStateTimeout
  repeat' first | (with_reducible first | exact answers_fault .. | exact answers_refused .. | apply answers_next | exact onlyChanges_refl _ _ | apply onlyChanges_ite | apply answers_ite | apply failAttempt_in | decide) | extract_lets | split | dsimp +zetaDelta only

theorem execCodewordLock_within (e : Engine) (x : LaneTags) (s : State) : answersWithin [.eng, .log, .out] s (execCodewordLock e x s) := by
  unfold execCodewordLock
  repeat' first | (with_reducible first | exact answers_fault .. | exact answers_refused .. | apply answers_next | exact onlyChanges_refl _ _ | apply onlyChanges_ite | apply answers_ite | apply setLane_in | decide) | extract_lets | split | dsimp +zetaDelta only

theorem execMeasureEnd_within (e : Engine) (l : Fin 64) (own : LaneErrs) (partnerErrs : Nat) (s : State) : answersWithin [.eng, .log, .out] s (execMeasureEnd e l own partnerErrs s) := by
  unfold execMeasureEnd
  repeat' first | (with_reducible first | exact answers_fault .. | exact answers_refused .. | apply answers_next | exact onlyChanges_refl _ _ | apply onlyChanges_ite | apply answers_ite | apply countUnc_in | apply emitOut_in | apply setLane_in | apply failAttempt_in | decide) | extract_lets | split | dsimp +zetaDelta only

theorem execErrorWindowEnd_within (e : Engine) (l : Fin 64) (own : LaneErrs) (partnerErrs : Nat) (s : State) : answersWithin [.eng, .log, .out] s (execErrorWindowEnd e l own partnerErrs s) := by
  unfold execErrorWindowEnd
  repeat' first | (with_reducible first | exact answers_fault .. | exact answers_refused .. | apply answers_next | exact onlyChanges_refl _ _ | apply onlyChanges_ite | apply answers_ite | apply countUnc_in | apply emitOut_in | apply setLane_in | decide) | extract_lets | split | dsimp +zetaDelta only

theorem execLossOfCodewordLock_within (e : Engine) (l : Fin 64) (s : State) : answersWithin [.eng, .log, .out] s (execLossOfCodewordLock e l s) := by
  unfold execLossOfCodewordLock
  repeat' first | (with_reducible first | exact answers_fault .. | exact answers_refused .. | apply answers_next | exact onlyChanges_refl _ _ | apply onlyChanges_ite | apply answers_ite | apply darken_in | decide) | extract_lets | split | dsimp +zetaDelta only

theorem execLinkReplayTimeout_within (e : Engine) (j : Fin 8) (s : State) : answersWithin [.eng, .log, .out] s (execLinkReplayTimeout e j s) := by
  unfold execLinkReplayTimeout
  repeat' first | (with_reducible first | exact answers_fault .. | exact answers_refused .. | apply answers_next | exact onlyChanges_refl _ _ | apply onlyChanges_ite | apply answers_ite | apply replayLink_in | decide) | extract_lets | split | dsimp +zetaDelta only

theorem execLinkAlign_within (e : Engine) (j : Fin 8) (heard : LaneHeard) (s : State) : answersWithin [.eng, .log, .out] s (execLinkAlign e j heard s) := by
  unfold execLinkAlign
  repeat' first | (with_reducible first | exact answers_fault .. | exact answers_refused .. | apply answers_next | exact onlyChanges_refl _ _ | apply onlyChanges_ite | apply answers_ite | apply onLink_in | apply emitOut_in | apply linkDown_in | apply linkWake_in | decide) | extract_lets | split | dsimp +zetaDelta only

theorem execLaneChangePoint_within (e : Engine) (j : Fin 8) (point : ChangePoint) (s : State) : answersWithin [.eng, .log, .out] s (execLaneChangePoint e j point s) := by
  unfold execLaneChangePoint
  repeat' first | (with_reducible first | exact answers_fault .. | exact answers_refused .. | apply answers_next | exact onlyChanges_refl _ _ | apply onlyChanges_ite | apply answers_ite | apply retireMarked_in | apply onLink_in | apply linkDown_in | apply linkWake_in | decide) | extract_lets | split | dsimp +zetaDelta only

theorem execIdentityFrame_within (e : Engine) (j : Fin 8) (f : IdFrame) (s : State) : answersWithin [.eng, .flt, .out] s (execIdentityFrame e j f s) := by
  unfold execIdentityFrame
  repeat' first | (with_reducible first | exact answers_fault .. | exact answers_refused .. | apply answers_next | exact onlyChanges_refl _ _ | apply onlyChanges_ite | apply answers_ite | apply identified_in | apply emitOut_in | decide) | extract_lets | split | dsimp +zetaDelta only

theorem execIdentifyTimeout_within (e : Engine) (j : Fin 8) (s : State) : answersWithin [.eng, .log] s (execIdentifyTimeout e j s) := by
  unfold execIdentifyTimeout
  repeat' first | (with_reducible first | exact answers_fault .. | exact answers_refused .. | apply answers_next | exact onlyChanges_refl _ _ | apply onlyChanges_ite | apply answers_ite | apply linkDown_in | apply linkWake_in | decide) | extract_lets | split | dsimp +zetaDelta only

theorem execFrameReceipt_within (e : Engine) (j : Fin 8) (f : Frame) (s : State) : answersWithin [.run, .brg, .stg, .eng, .log, .pwr, .out] s (execFrameReceipt e j f s) := by
  unfold execFrameReceipt
  repeat' first | (with_reducible first | exact answers_fault .. | exact answers_refused .. | apply answers_next | exact onlyChanges_refl _ _ | apply onlyChanges_ite | apply answers_ite | apply askReplay_in | apply onLink_in | apply linkAnnounce_in | apply replayLink_in | apply takeFrame_in | apply flushAcks_in | apply takeBeacon_in | decide) | extract_lets | split | dsimp +zetaDelta only

theorem execPut_within (r : Region) (c : Core) (s : State) : answersWithin [.cores, .lregions, .regions, .bat, .net, .log] s (execPut r c s) := by
  unfold execPut
  repeat' first | (with_reducible first | exact answers_fault .. | exact answers_refused .. | apply answers_next | exact onlyChanges_refl _ _ | apply onlyChanges_ite | apply answers_ite | apply execRmoOrReserved_in | decide) | extract_lets | split | dsimp +zetaDelta only

theorem execGet_within (r : Region) (c : Core) (s : State) : answersWithin [.cores, .lregions, .regions, .bat, .net, .log] s (execGet r c s) := by
  unfold execGet
  repeat' first | (with_reducible first | exact answers_fault .. | exact answers_refused .. | apply answers_next | exact onlyChanges_refl _ _ | apply onlyChanges_ite | apply answers_ite | apply execRmoOrReserved_in | decide) | extract_lets | split | dsimp +zetaDelta only

theorem execReduceAdd_within (r : Region) (c : Core) (s : State) : answersWithin [.cores, .lregions, .regions, .bat, .net, .log] s (execReduceAdd r c s) := by
  unfold execReduceAdd
  repeat' first | (with_reducible first | exact answers_fault .. | exact answers_refused .. | apply answers_next | exact onlyChanges_refl _ _ | apply onlyChanges_ite | apply answers_ite | apply execRmoOrReserved_in | decide) | extract_lets | split | dsimp +zetaDelta only

theorem execReduceMax_within (r : Region) (c : Core) (s : State) : answersWithin [.cores, .lregions, .regions, .bat, .net, .log] s (execReduceMax r c s) := by
  unfold execReduceMax
  repeat' first | (with_reducible first | exact answers_fault .. | exact answers_refused .. | apply answers_next | exact onlyChanges_refl _ _ | apply onlyChanges_ite | apply answers_ite | apply execRmoOrReserved_in | decide) | extract_lets | split | dsimp +zetaDelta only

theorem execReduceXor_within (r : Region) (c : Core) (s : State) : answersWithin [.cores, .lregions, .regions, .bat, .net, .log] s (execReduceXor r c s) := by
  unfold execReduceXor
  repeat' first | (with_reducible first | exact answers_fault .. | exact answers_refused .. | apply answers_next | exact onlyChanges_refl _ _ | apply onlyChanges_ite | apply answers_ite | apply execRmoOrReserved_in | decide) | extract_lets | split | dsimp +zetaDelta only

theorem execCompareAndSwap_within (r : Region) (c : Core) (s : State) : answersWithin [.cores, .lregions, .regions, .bat, .net, .log] s (execCompareAndSwap r c s) := by
  unfold execCompareAndSwap
  repeat' first | (with_reducible first | exact answers_fault .. | exact answers_refused .. | apply answers_next | exact onlyChanges_refl _ _ | apply onlyChanges_ite | apply answers_ite | apply execRmoOrReserved_in | decide) | extract_lets | split | dsimp +zetaDelta only

theorem execWait_within (r : Region) (c : Core) (s : State) : answersWithin [.cores, .lregions, .bat] s (execWait r c s) := by
  unfold execWait
  repeat' first | (with_reducible first | exact answers_fault .. | exact answers_refused .. | apply answers_next | exact onlyChanges_refl _ _ | apply onlyChanges_ite | apply answers_ite | apply issueCtx_in | apply progress_in | decide) | extract_lets | split | dsimp +zetaDelta only

theorem execEmit_within (r : Region) (c : Core) (s : State) : answersWithin [.cores, .lregions, .bat] s (execEmit r c s) := by
  unfold execEmit
  repeat' first | (with_reducible first | exact answers_fault .. | exact answers_refused .. | apply answers_next | exact onlyChanges_refl _ _ | apply onlyChanges_ite | apply answers_ite | apply issueCtx_in | apply progress_in | decide) | extract_lets | split | dsimp +zetaDelta only

theorem execLaunch_within (r : Region) (c : Core) (s : State) : answersWithin [.cores, .lregions, .bat] s (execLaunch r c s) := by
  unfold execLaunch
  repeat' first | (with_reducible first | exact answers_fault .. | exact answers_refused .. | apply answers_next | exact onlyChanges_refl _ _ | apply onlyChanges_ite | apply answers_ite | apply issueCtx_in | apply onBat_in | apply progress_in | decide) | extract_lets | split | dsimp +zetaDelta only

theorem execLoop_within (r : Region) (c : Core) (s : State) : answersWithin [.cores, .lregions, .bat] s (execLoop r c s) := by
  unfold execLoop
  repeat' first | (with_reducible first | exact answers_fault .. | exact answers_refused .. | apply answers_next | exact onlyChanges_refl _ _ | apply onlyChanges_ite | apply answers_ite | apply illegal_in | apply takeWaits_in | apply onCore_in | apply onCtx_in | apply sendEmits_in | apply progress_in | decide) | extract_lets | split | dsimp +zetaDelta only

theorem execEndProg_within (r : Region) (c : Core) (s : State) : answersWithin [.cores, .lregions, .bat] s (execEndProg r c s) := by
  unfold execEndProg
  repeat' first | (with_reducible first | exact answers_fault .. | exact answers_refused .. | apply answers_next | exact onlyChanges_refl _ _ | apply onlyChanges_ite | apply answers_ite | apply issueCtx_in | apply onCtx_in | apply progress_in | decide) | extract_lets | split | dsimp +zetaDelta only

theorem execRemoteOperationApply_within (t : Target) (s : State) : answersWithin [.sram, .cores, .lregions, .regions, .bat, .net, .store, .orc, .log, .out] s (execRemoteOperationApply t s) := by
  unfold execRemoteOperationApply
  split
  · split
    · exact answers_next (onlyChanges_refl _ _)
    · exact answers_next (opAtCore_in (onlyChanges_step (onlyChanges_refl _ _) (takeCore_changes (by assumption)) (by decide)) (by decide))
  · split
    · exact answers_next (onlyChanges_refl _ _)
    · exact answers_next (applyStore_in (onlyChanges_step (onlyChanges_refl _ _) (takeOrdered_changes (by assumption)) (by decide)) (by decide) fun _ _ => sendStore_in (onlyChanges_refl _ _) (by decide))
  · split
    · exact answers_next (onlyChanges_refl _ _)
    · refine answers_ite (answers_next (onlyChanges_refl _ _)) (answers_ite (answers_next ?_) (answers_next ?_))
      rotate_left
      · exact progress_in (applyStore_in (onCore_in (onlyChanges_refl _ _) (by decide)) (by decide) fun _ _ => onCore_in (onlyChanges_refl _ _) (by decide)) (by decide)
      exact progress_in (applyStore_in (onlyChanges_ite (countL_in (onCore_in (onlyChanges_refl _ _) (by decide)) (by decide)) (onCore_in (onlyChanges_refl _ _) (by decide))) (by decide) fun _ _ => onCore_in (onlyChanges_refl _ _) (by decide)) (by decide)

theorem execGetDataArrival_within (r : Region) (c : Core) (s : State) : answersWithin [.sram, .cores, .lregions, .regions, .bat] s (execGetDataArrival r c s) := by
  unfold execGetDataArrival
  repeat' first | (with_reducible first | exact answers_fault .. | exact answers_refused .. | apply answers_next | exact onlyChanges_refl _ _ | exact onlyChanges_step (onlyChanges_refl _ _) (takeCore_changes (by assumption)) (by decide) | apply onlyChanges_ite | apply answers_ite | apply writeSram_in | apply finishOp_in | apply onCtx_in | decide) | extract_lets | split | dsimp +zetaDelta only

theorem execPutAcknowledgement_within (r : Region) (c : Core) (s : State) : answersWithin [.cores, .lregions, .regions, .bat] s (execPutAcknowledgement r c s) := by
  unfold execPutAcknowledgement
  repeat' first | (with_reducible first | exact answers_fault .. | exact answers_refused .. | apply answers_next | exact onlyChanges_refl _ _ | exact onlyChanges_step (onlyChanges_refl _ _) (takeCore_changes (by assumption)) (by decide) | apply onlyChanges_ite | apply answers_ite | apply finishOp_in | decide) | extract_lets | split | dsimp +zetaDelta only

theorem execCompareAndSwapResult_within (r : Region) (c : Core) (s : State) : answersWithin [.sram, .cores, .lregions, .regions, .bat] s (execCompareAndSwapResult r c s) := by
  unfold execCompareAndSwapResult
  repeat' first | (with_reducible first | exact answers_fault .. | exact answers_refused .. | apply answers_next | exact onlyChanges_refl _ _ | exact onlyChanges_step (onlyChanges_refl _ _) (takeCore_changes (by assumption)) (by decide) | apply onlyChanges_ite | apply answers_ite | apply writeSram_in | apply finishOp_in | decide) | extract_lets | split | dsimp +zetaDelta only

theorem execTransportPacketAccept_within (e : Engine) (p : Packet) (s : State) : answersWithin [.free, .cores, .lregions, .regions, .cfg, .bat, .net, .store, .orc, .eng, .flt, .log, .out] s (execTransportPacketAccept e p s) := by
  unfold execTransportPacketAccept
  repeat' first | (with_reducible first | exact answers_fault .. | exact answers_refused .. | apply answers_next | exact onlyChanges_refl _ _ | apply onlyChanges_ite | apply answers_ite | apply onEng_in | apply freeBuf_in | apply logHealth_in | apply ownPacket_in | apply forwardPacket_in | decide) | extract_lets | split | dsimp +zetaDelta only

theorem execTransportAcknowledgement_within (e : Engine) (a : TAck) (s : State) : answersWithin [.eng, .log, .out] s (execTransportAcknowledgement e a s) := by
  unfold execTransportAcknowledgement
  repeat' first | (with_reducible first | exact answers_fault .. | exact answers_refused .. | apply answers_next | exact onlyChanges_refl _ _ | apply onlyChanges_ite | apply answers_ite | apply takeAck_in | decide) | extract_lets | split | dsimp +zetaDelta only

theorem execTransportRetransmission_within (e : Engine) (slot : Fin 256) (x : TxRef) (s : State) : answersWithin [.eng, .out] s (execTransportRetransmission e slot x s) := by
  unfold execTransportRetransmission
  repeat' first | (with_reducible first | exact answers_fault .. | exact answers_refused .. | apply answers_next | exact onlyChanges_refl _ _ | apply onlyChanges_ite | apply answers_ite | apply retransmit_in | decide) | extract_lets | split | dsimp +zetaDelta only

theorem execEngineLoss_within (x : LostEngine) (s : State) : answersWithin [.bat, .eng, .flt] s (execEngineLoss x s) := by
  unfold execEngineLoss
  repeat' first | (with_reducible first | exact answers_fault .. | exact answers_refused .. | apply answers_next | exact onlyChanges_refl _ _ | apply onlyChanges_ite | apply answers_ite | apply partnerEngineLost_in | apply onEng_in | apply report_in | decide) | extract_lets | split | dsimp +zetaDelta only

theorem execContributionArrival_within (r : Region) (s : State) : answersWithin [.lregions, .regions, .cfg, .bat, .net, .store, .orc, .prs, .log] s (execContributionArrival r s) := by
  unfold execContributionArrival
  repeat' first | (with_reducible first | exact answers_fault .. | exact answers_refused .. | apply answers_next | exact onlyChanges_refl _ _ | exact onlyChanges_step (onlyChanges_refl _ _) (takeStore_changes (by assumption)) (by decide) | apply onlyChanges_ite | apply answers_ite | apply contribute_in | decide) | extract_lets | split | dsimp +zetaDelta only

theorem execShardUpdate_within (r : Region) (k : Fin 4096) (s : State) : answersWithin [.free, .lregions, .bat, .net, .store, .orc, .prs, .flt, .log, .out] s (execShardUpdate r k s) := by
  unfold execShardUpdate
  repeat' first | (with_reducible first | exact answers_fault .. | exact answers_refused .. | apply answers_next | exact onlyChanges_refl _ _ | apply onlyChanges_ite | apply answers_ite | apply takeSiWaits_in | apply endShard_in | apply onPrs_in | apply sendShardRecord_in | apply updateShard_in | apply compareFps_in | decide) | extract_lets | split | dsimp +zetaDelta only

theorem execShardSum_within (r : Region) (k : Fin 4096) (s : State) : answersWithin [.lregions, .bat] s (execShardSum r k s) := by
  unfold execShardSum
  repeat' first | (with_reducible first | exact answers_fault .. | exact answers_refused .. | apply answers_next | exact onlyChanges_refl _ _ | apply onlyChanges_ite | apply answers_ite | apply setPhase_in | apply onLreg_in | apply sendShardRecord_in | decide) | extract_lets | split | dsimp +zetaDelta only

theorem execNormRecordSend_within (s : State) : answersWithin [.prs, .out] s (execNormRecordSend s) := by
  unfold execNormRecordSend
  repeat' first | (with_reducible first | exact answers_fault .. | exact answers_refused .. | apply answers_next | exact onlyChanges_refl _ _ | apply onlyChanges_ite | apply answers_ite | apply onPrs_in | apply emitOut_in | refine onlyChanges_foldl ?_ _ (fun _ _ => ?_) _ | decide) | extract_lets | split | dsimp +zetaDelta only

theorem execNormRecordArrival_within (n : NormRec) (s : State) : answersWithin [.prs, .log] s (execNormRecordArrival n s) := by
  unfold execNormRecordArrival
  repeat' first | (with_reducible first | exact answers_fault .. | exact answers_refused .. | apply answers_next | exact onlyChanges_refl _ _ | apply onlyChanges_ite | apply answers_ite | apply onPrs_in | apply logHealth_in | decide) | extract_lets | split | dsimp +zetaDelta only

theorem execNormExchangeComplete_within (s : State) : answersWithin [.prs] s (execNormExchangeComplete s) := by
  unfold execNormExchangeComplete
  repeat' first | (with_reducible first | exact answers_fault .. | exact answers_refused .. | apply answers_next | exact onlyChanges_refl _ _ | apply onlyChanges_ite | apply answers_ite | apply onPrs_in | refine onlyChanges_foldl ?_ _ (fun _ _ => ?_) _ | decide) | extract_lets | split | dsimp +zetaDelta only

theorem execNormExchangeTimeout_within (m : U16) (s : State) : answersWithin [.run, .brg, .prs, .flt, .log, .pwr] s (execNormExchangeTimeout m s) := by
  unfold execNormExchangeTimeout
  repeat' first | (with_reducible first | exact answers_fault .. | exact answers_refused .. | apply answers_next | exact onlyChanges_refl _ _ | apply onlyChanges_ite | apply answers_ite | apply onPrs_in | apply partnerLoss_in | decide) | extract_lets | split | dsimp +zetaDelta only

theorem execHeldShardUpdate_within (r : Region) (k : Fin 4096) (s : State) : answersWithin [.free, .lregions, .bat, .net, .store, .orc, .prs, .flt, .log, .out] s (execHeldShardUpdate r k s) := by
  unfold execHeldShardUpdate
  repeat' first | (with_reducible first | exact answers_fault .. | exact answers_refused .. | apply answers_next | exact onlyChanges_refl _ _ | apply onlyChanges_ite | apply answers_ite | apply takeSiWaits_in | apply endShard_in | apply updateShard_in | apply compareFps_in | decide) | extract_lets | split | dsimp +zetaDelta only

theorem execStampRefresh_within (r : Region) (s : State) : answersWithin [.lregions, .net, .store, .orc] s (execStampRefresh r s) := by
  unfold execStampRefresh
  repeat' first | (with_reducible first | exact answers_fault .. | exact answers_refused .. | apply answers_next | exact onlyChanges_refl _ _ | apply onlyChanges_ite | apply answers_ite | apply writeLinePart_in | apply onLreg_in | refine onlyChanges_foldl ?_ _ (fun _ _ => ?_) _ | decide) | extract_lets | split | dsimp +zetaDelta only

theorem execFingerprintArrival_within (m : U16) (r : Region) (k : Fin 4096) (stepNo : U64) (fp : BitVec 128) (s : State) : answersWithin [.free, .lregions, .bat, .net, .store, .orc, .prs, .flt, .log, .out] s (execFingerprintArrival m r k stepNo fp s) := by
  unfold execFingerprintArrival
  repeat' first | (with_reducible first | exact answers_fault .. | exact answers_refused .. | apply answers_next | exact onlyChanges_refl _ _ | apply onlyChanges_ite | apply answers_ite | apply onPrs_in | apply compareFps_in | decide) | extract_lets | split | dsimp +zetaDelta only

theorem execFingerprintTimeout_within (m : U16) (r : Region) (k : Fin 4096) (s : State) : answersWithin [.run, .brg, .flt, .log, .pwr] s (execFingerprintTimeout m r k s) := by
  unfold execFingerprintTimeout
  repeat' first | (with_reducible first | exact answers_fault .. | exact answers_refused .. | apply answers_next | exact onlyChanges_refl _ _ | apply onlyChanges_ite | apply answers_ite | apply partnerLoss_in | decide) | extract_lets | split | dsimp +zetaDelta only

theorem execDescriptorFetch_within (ch : Chan) (s : State) : answersWithin [.dma] s (execDescriptorFetch ch s) := by
  unfold execDescriptorFetch
  repeat' first | (with_reducible first | exact answers_fault .. | exact answers_refused .. | apply answers_next | exact onlyChanges_refl _ _ | apply onlyChanges_ite | apply answers_ite | apply onChan_in | decide) | extract_lets | split | dsimp +zetaDelta only

theorem execDescriptorRun_within (ch : Chan) (s : State) : answersWithin [.cores, .regions, .bat, .dma, .log] s (execDescriptorRun ch s) := by
  unfold execDescriptorRun
  repeat' first | (with_reducible first | exact answers_fault .. | exact answers_refused .. | apply answers_next | exact onlyChanges_refl _ _ | apply onlyChanges_ite | apply answers_ite | apply onChan_in | apply endChan_in | apply rejectChan_in | apply askMore_in | refine onlyChanges_foldl ?_ _ (fun _ _ => ?_) _ | decide) | extract_lets | split | dsimp +zetaDelta only

theorem execDmaReadRequest_within (t : Target) (s : State) : answersWithin [.cores, .lregions, .regions, .bat, .dma, .log] s (execDmaReadRequest t s) := by
  unfold execDmaReadRequest
  repeat' first | (with_reducible first | exact answers_fault .. | exact answers_refused .. | apply answers_next | exact onlyChanges_refl _ _ | exact onlyChanges_step (onlyChanges_refl _ _) (takeStore_changes (by assumption)) (by decide) | exact onlyChanges_step (onlyChanges_refl _ _) (takeCore_changes (by assumption)) (by decide) | apply onlyChanges_ite | apply answers_ite | apply sendCore_in | apply rejectDma_in | apply sendStore_in | decide) | extract_lets | split | dsimp +zetaDelta only

theorem execDmaReadData_within (ch : Chan) (s : State) : answersWithin [.host, .regions, .dma] s (execDmaReadData ch s) := by
  unfold execDmaReadData
  repeat' first | (with_reducible first | exact answers_fault .. | exact answers_refused .. | apply answers_next | exact onlyChanges_refl _ _ | apply onlyChanges_ite | apply answers_ite | apply noteMover_in | apply onChan_in | apply flushHold_in | apply chanWrite_in | apply askMore_in | decide) | extract_lets | split | dsimp +zetaDelta only

theorem execDmaWriteArrival_within (t : Target) (s : State) : answersWithin [.sram, .cores, .lregions, .regions, .bat, .net, .store, .orc, .dma, .log, .out] s (execDmaWriteArrival t s) := by
  unfold execDmaWriteArrival
  repeat' first | (with_reducible first | exact answers_fault .. | exact answers_refused .. | apply answers_next | exact onlyChanges_refl _ _ | exact onlyChanges_step (onlyChanges_refl _ _) (takeStore_changes (by assumption)) (by decide) | exact onlyChanges_step (onlyChanges_refl _ _) (takeCore_changes (by assumption)) (by decide) | apply onlyChanges_ite | apply answers_ite | apply writeSram_in | apply arriveTok_in | apply sendCore_in | apply rejectDma_in | apply resDiscard_in | apply sendStore_in | apply writeExchange_in | apply addSiCtr_in | decide) | extract_lets | split | dsimp +zetaDelta only

theorem execDmaWriteAcknowledgement_within (ch : Chan) (s : State) : answersWithin [.regions, .dma] s (execDmaWriteAcknowledgement ch s) := by
  unfold execDmaWriteAcknowledgement
  repeat' first | (with_reducible first | exact answers_fault .. | exact answers_refused .. | apply answers_next | exact onlyChanges_refl _ _ | apply onlyChanges_ite | apply answers_ite | apply onChan_in | apply countWritten_in | decide) | extract_lets | split | dsimp +zetaDelta only

theorem execDescriptorComplete_within (ch : Chan) (s : State) : answersWithin [.sram, .cores, .regions, .brg, .bat, .dma] s (execDescriptorComplete ch s) := by
  unfold execDescriptorComplete
  repeat' first | (with_reducible first | exact answers_fault .. | exact answers_refused .. | apply answers_next | exact onlyChanges_refl _ _ | apply onlyChanges_ite | apply answers_ite | apply writeSram_in | apply onChan_in | apply onReg_in | apply illegal_in | apply sendEmits_in | apply onHq_in | decide) | extract_lets | split | dsimp +zetaDelta only

theorem execBridgeDmaResume_within (c : Fin 256) (s : State) : answersWithin [.brg, .dma] s (execBridgeDmaResume c s) := by
  unfold execBridgeDmaResume
  repeat' first | (with_reducible first | exact answers_fault .. | exact answers_refused .. | apply answers_next | exact onlyChanges_refl _ _ | apply onlyChanges_ite | apply answers_ite | apply answers_overLink | apply resumeChan_in | decide) | extract_lets | split | dsimp +zetaDelta only

theorem execBridgeDmaAbort_within (c : Fin 256) (s : State) : answersWithin [.brg, .dma] s (execBridgeDmaAbort c s) := by
  unfold execBridgeDmaAbort
  repeat' first | (with_reducible first | exact answers_fault .. | exact answers_refused .. | apply answers_next | exact onlyChanges_refl _ _ | apply onlyChanges_ite | apply answers_ite | apply answers_overLink | apply abortChan_in | decide) | extract_lets | split | dsimp +zetaDelta only

theorem execHostCompletionTimeout_within (w : HostWait) (s : State) : answersWithin [.run, .brg, .dma] s (execHostCompletionTimeout w s) := by
  unfold execHostCompletionTimeout
  repeat' first | (with_reducible first | exact answers_fault .. | exact answers_refused .. | apply answers_next | exact onlyChanges_refl _ _ | apply onlyChanges_ite | apply answers_ite | apply onChan_in | apply endChan_in | apply onRun_in | apply done0_in | decide) | extract_lets | split | dsimp +zetaDelta only

theorem execBeaconSend_within (e : Engine) (j : Fin 8) (s : State) : answersWithin [.eng, .out] s (execBeaconSend e j s) := by
  unfold execBeaconSend
  repeat' first | (with_reducible first | exact answers_fault .. | exact answers_refused .. | apply answers_next | exact onlyChanges_refl _ _ | apply onlyChanges_ite | apply answers_ite | apply keepFrame_in | apply emitOut_in | decide) | extract_lets | split | dsimp +zetaDelta only

theorem execBeaconReceipt_within (e : Engine) (j : Fin 8) (f : Frame) (s : State) : answersWithin [.run, .brg, .stg, .eng, .log, .pwr] s (execBeaconReceipt e j f s) := by
  unfold execBeaconReceipt
  repeat' first | (with_reducible first | exact answers_fault .. | exact answers_refused .. | apply answers_next | exact onlyChanges_refl _ _ | apply onlyChanges_ite | apply answers_ite | apply takeBeacon_in | decide) | extract_lets | split | dsimp +zetaDelta only

theorem execBeaconMiss_within (e : Engine) (j : Fin 8) (s : State) : answersWithin [.eng, .log] s (execBeaconMiss e j s) := by
  unfold execBeaconMiss
  repeat' first | (with_reducible first | exact answers_fault .. | exact answers_refused .. | apply answers_next | exact onlyChanges_refl _ _ | apply onlyChanges_ite | apply answers_ite | apply onEng_in | apply onLink_in | apply logBeacon_in | decide) | extract_lets | split | dsimp +zetaDelta only

theorem execPacketForward_within (router : Fin 1344) (out : Fin 7) (err : LinkErr) (s : State) : answersWithin [.free, .cores, .lregions, .regions, .bat, .net, .store, .orc, .dma, .eng, .flt, .log, .out] s (execPacketForward router out err s) := by
  unfold execPacketForward
  repeat' first | (with_reducible first | exact answers_fault .. | exact answers_refused .. | apply answers_next | exact onlyChanges_refl _ _ | apply onlyChanges_ite | apply answers_ite | apply inject_in | apply count_in | apply retryOutput_in | apply noteSent_in | apply cross_in | apply netEvent_in | decide) | extract_lets | split | dsimp +zetaDelta only

theorem execLiveSignalTimeout_within (r : Region) (c : PCore) (s : State) : answersWithin [.bat] s (execLiveSignalTimeout r c s) := by
  unfold execLiveSignalTimeout
  repeat' first | (with_reducible first | exact answers_fault .. | exact answers_refused .. | apply answers_next | exact onlyChanges_refl _ _ | apply onlyChanges_ite | apply answers_ite | apply reportCore_in | decide) | extract_lets | split | dsimp +zetaDelta only

theorem execOperationDeadline_within (r : Region) (c : Core) (i : Nat) (s : State) : answersWithin [.bat] s (execOperationDeadline r c i s) := by
  unfold execOperationDeadline
  repeat' first | (with_reducible first | exact answers_fault .. | exact answers_refused .. | apply answers_next | exact onlyChanges_refl _ _ | apply onlyChanges_ite | apply answers_ite | apply reportCore_in | apply reportRegion_in | decide) | extract_lets | split | dsimp +zetaDelta only

theorem execQuiescenceWatchdog_within (s : State) : answersWithin [.bat] s (execQuiescenceWatchdog s) := by
  unfold execQuiescenceWatchdog
  repeat' first | (with_reducible first | exact answers_fault .. | exact answers_refused .. | apply answers_next | exact onlyChanges_refl _ _ | apply onlyChanges_ite | apply answers_ite | apply reportRegion_in | apply reportCore_in | decide) | extract_lets | split | dsimp +zetaDelta only

theorem execPartnerLoss_within (m : U16) (s : State) : answersWithin [.run, .brg, .flt, .log, .pwr] s (execPartnerLoss m s) := by
  unfold execPartnerLoss
  repeat' first | (with_reducible first | exact answers_fault .. | exact answers_refused .. | apply answers_next | exact onlyChanges_refl _ _ | apply onlyChanges_ite | apply answers_ite | apply partnerLoss_in | decide) | extract_lets | split | dsimp +zetaDelta only

theorem execRegionSupplyTrip_within (r : Region) (s : State) : answersWithin [.regions, .bat] s (execRegionSupplyTrip r s) := by
  unfold execRegionSupplyTrip
  repeat' first | (with_reducible first | exact answers_fault .. | exact answers_refused .. | apply answers_next | exact onlyChanges_refl _ _ | apply onlyChanges_ite | apply answers_ite | apply onReg_in | apply reportRegion_in | decide) | extract_lets | split | dsimp +zetaDelta only

theorem execRegionSupplyTrip_within_in {L : List Part} {s u : State} {r : Region} (h : onlyChanges L s u) (he : ([.regions, .bat].all fun p => L.contains p) = true) : answersWithin L s (execRegionSupplyTrip r u) :=
  fun _ e => onlyChanges_step h (execRegionSupplyTrip_within r u _ e) he

theorem execLockstepDivergence_within (s : State) : answersWithin [.run, .brg, .flt, .log, .pwr] s (execLockstepDivergence s) := by
  unfold execLockstepDivergence
  repeat' first | (with_reducible first | exact answers_fault .. | exact answers_refused .. | apply answers_next | exact onlyChanges_refl _ _ | apply onlyChanges_ite | apply answers_ite | apply onFlt_in | apply logHealth_in | apply sparesExhausted_in | decide) | extract_lets | split | dsimp +zetaDelta only

theorem execFaultReport_within (src : FaultSource) (s : State) : answersWithin [.sram, .cores, .lregions, .regions, .settings, .num, .run, .brg, .cfg, .bat, .net, .store, .eng, .flt, .log, .pwr] s (execFaultReport src s) := by
  unfold execFaultReport
  repeat' first | (with_reducible first | exact answers_fault .. | exact answers_refused .. | apply answers_next | exact onlyChanges_refl _ _ | apply onlyChanges_ite | apply answers_ite | apply takeReport_in | apply onBat_in | decide) | extract_lets | split | dsimp +zetaDelta only

theorem execIllegalOperationReport_within (i : Nat) (digestOk : Bool) (s : State) : answersWithin [.free, .sram, .cores, .lregions, .regions, .settings, .num, .run, .brg, .cfg, .bat, .net, .store, .eng, .flt, .log, .pwr] s (execIllegalOperationReport i digestOk s) := by
  unfold execIllegalOperationReport
  repeat' first | (with_reducible first | exact answers_fault .. | exact answers_refused .. | apply answers_next | exact onlyChanges_refl _ _ | apply onlyChanges_ite | apply answers_ite | apply onBat_in | apply imageFault_in | apply onLreg_in | apply possibleFault_in | decide) | extract_lets | split | dsimp +zetaDelta only

theorem execEndOfStepReport_within (r : Region) (s : State) : answersWithin [.lregions, .run] s (execEndOfStepReport r s) := by
  unfold execEndOfStepReport
  repeat' first | (with_reducible first | exact answers_fault .. | exact answers_refused .. | apply answers_next | exact onlyChanges_refl _ _ | apply onlyChanges_ite | apply answers_ite | apply onLreg_in | apply onRun_in | decide) | extract_lets | split | dsimp +zetaDelta only

theorem execStepCommit_within (s : State) : answersWithin [.free, .cores, .lregions, .regions, .settings, .num, .run, .brg, .stg, .net, .store, .orc, .prs, .flt, .pwr] s (execStepCommit s) := by
  unfold execStepCommit
  repeat' first | (with_reducible first | exact answers_fault .. | exact answers_refused .. | apply answers_next | exact onlyChanges_refl _ _ | apply onlyChanges_ite | apply answers_ite | apply onStore_in | apply updateScale_in | apply onPrs_in | apply onLregs_in | apply postEvent_in | apply onRun_in | apply clearStep_in | apply endRerun_in | apply boundarySnap_in | apply afterCommit_in | decide) | extract_lets | split | dsimp +zetaDelta only

theorem execCommitToken_within (r : Region) (s : State) : answersWithin [.sram, .lregions, .regions, .settings, .run, .bat, .log] s (execCommitToken r s) := by
  unfold execCommitToken
  repeat' first | (with_reducible first | exact answers_fault .. | exact answers_refused .. | apply answers_next | exact onlyChanges_refl _ _ | apply onlyChanges_ite | apply answers_ite | apply onRun_in | apply takeToken_in | decide) | extract_lets | split | dsimp +zetaDelta only

theorem execMoveBegin_within (r : Region) (k : Fin 4096) (s : State) : answersWithin [.free, .lregions, .cfg, .net, .store, .orc] s (execMoveBegin r k s) := by
  unfold execMoveBegin
  repeat' first | (with_reducible first | exact answers_fault .. | exact answers_refused .. | apply answers_next | exact onlyChanges_refl _ _ | apply onlyChanges_ite | apply answers_ite | apply moveLines_in | apply onCfg_in | decide) | extract_lets | split | dsimp +zetaDelta only

theorem execMoveComplete_within (r : Region) (k : Fin 4096) (s : State) : answersWithin [.free, .lregions, .regions, .settings, .num, .run, .brg, .stg, .cfg, .bat, .net, .store, .orc, .flt, .pwr] s (execMoveComplete r k s) := by
  unfold execMoveComplete
  repeat' first | (with_reducible first | exact answers_fault .. | exact answers_refused .. | apply answers_next | exact onlyChanges_refl _ _ | apply onlyChanges_ite | apply answers_ite | apply foreignLine_in | apply writeLinePart_in | apply sendShardRecord_in | apply sendEmits_in | apply onCfg_in | apply event_in | apply advance_in | decide) | extract_lets | split | dsimp +zetaDelta only

theorem execHostQueueCreate_within (q : Fin 32768) (s : State) : answersWithin [.brg, .dma] s (execHostQueueCreate q s) := by
  unfold execHostQueueCreate
  repeat' first | (with_reducible first | exact answers_fault .. | exact answers_refused .. | apply answers_next | exact onlyChanges_refl _ _ | apply onlyChanges_ite | apply answers_ite | apply answers_overLink | apply createQueue_in | decide) | extract_lets | split | dsimp +zetaDelta only

theorem execHostQueueDelete_within (q : Fin 32768) (s : State) : answersWithin [.brg, .dma] s (execHostQueueDelete q s) := by
  unfold execHostQueueDelete
  repeat' first | (with_reducible first | exact answers_fault .. | exact answers_refused .. | apply answers_next | exact onlyChanges_refl _ _ | apply onlyChanges_ite | apply answers_ite | apply answers_overLink | apply deleteQueue_in | decide) | extract_lets | split | dsimp +zetaDelta only

theorem execDbProd_within (q : Fin 32768) (v : U32) (s : State) : answersWithin [.brg, .log] s (execDbProd q v s) := by
  unfold execDbProd
  repeat' first | (with_reducible first | exact answers_fault .. | exact answers_refused .. | apply answers_next | exact onlyChanges_refl _ _ | apply onlyChanges_ite | apply answers_ite | apply answers_overLink | apply prodBell_in | decide) | extract_lets | split | dsimp +zetaDelta only

theorem execDbCons_within (q : Fin 32768) (v : U32) (s : State) : answersWithin [.brg, .log] s (execDbCons q v s) := by
  unfold execDbCons
  repeat' first | (with_reducible first | exact answers_fault .. | exact answers_refused .. | apply answers_next | exact onlyChanges_refl _ _ | apply onlyChanges_ite | apply answers_ite | apply answers_overLink | apply consBell_in | decide) | extract_lets | split | dsimp +zetaDelta only

theorem execHeaderLineReread_within (q : Fin 32768) (s : State) : answersWithin [.brg, .log] s (execHeaderLineReread q s) := by
  unfold execHeaderLineReread
  repeat' first | (with_reducible first | exact answers_fault .. | exact answers_refused .. | apply answers_next | exact onlyChanges_refl _ _ | apply onlyChanges_ite | apply answers_ite | apply onHq_in | apply refuseIndex_in | decide) | extract_lets | split | dsimp +zetaDelta only

theorem execCompletionEntryWrite_within (q : Fin 32768) (s : State) : answersWithin [.host, .run, .brg, .bat, .out] s (execCompletionEntryWrite q s) := by
  unfold execCompletionEntryWrite
  repeat' first | (with_reducible first | exact answers_fault .. | exact answers_refused .. | apply answers_next | exact onlyChanges_refl _ _ | apply onlyChanges_ite | apply answers_ite | apply writeHost_in | apply onHq_in | apply itemWritten_in | apply sendMsix_in | decide) | extract_lets | split | dsimp +zetaDelta only

theorem execMsiXCoalesceTimeout_within (q : Fin 32768) (s : State) : answersWithin [.brg, .out] s (execMsiXCoalesceTimeout q s) := by
  unfold execMsiXCoalesceTimeout
  repeat' first | (with_reducible first | exact answers_fault .. | exact answers_refused .. | apply answers_next | exact onlyChanges_refl _ _ | apply onlyChanges_ite | apply answers_ite | apply sendMsix_in | decide) | extract_lets | split | dsimp +zetaDelta only

theorem execApplyToken_within (r : Region) (s : State) : answersWithin [.lregions, .regions, .stg] s (execApplyToken r s) := by
  unfold execApplyToken
  repeat' first | (with_reducible first | exact answers_fault .. | exact answers_refused .. | apply answers_next | exact onlyChanges_refl _ _ | apply onlyChanges_ite | apply answers_ite | apply applyLatch_in | apply onStg_in | decide) | extract_lets | split | dsimp +zetaDelta only

theorem execRegionLoadComplete_within (r : Region) (digestOk : Bool) (s : State) : answersWithin [.free, .sram, .stg, .bat, .flt] s (execRegionLoadComplete r digestOk s) := by
  unfold execRegionLoadComplete
  repeat' first | (with_reducible first | exact answers_fault .. | exact answers_refused .. | apply answers_next | exact onlyChanges_refl _ _ | apply onlyChanges_ite | apply answers_ite | apply onStg_in | apply loadFault_in | apply loadSlots_in | apply onFlt_in | refine onlyChanges_foldl ?_ _ (fun _ _ => ?_) _ | decide) | extract_lets | split | dsimp +zetaDelta only

theorem execGoToken_within (s : State) : answersWithin [.free, .sram, .cores, .lregions, .regions, .settings, .grd, .num, .run, .brg, .stg, .cfg, .bat, .net, .store, .orc, .prs, .dma, .eng, .flt, .log, .pwr, .mir, .out] s (execGoToken s) := by
  unfold execGoToken
  repeat' first | (with_reducible first | exact answers_fault .. | exact answers_refused .. | apply answers_next | exact onlyChanges_refl _ _ | apply onlyChanges_ite | apply answers_ite | apply emptyStage_in | apply applyImage_in | apply writeCopies_in | apply releaseHeld_in | apply sendMarker_in | apply event_in | apply onCfg_in | apply sparesExhausted_in | apply onFlt_in | apply completeArm_in | apply afterApply_in | decide) | extract_lets | split | dsimp +zetaDelta only

theorem execRewind_within (r : Region) (s : State) : answersWithin [.flt] s (execRewind r s) := by
  unfold execRewind
  repeat' first | (with_reducible first | exact answers_fault .. | exact answers_refused .. | apply answers_next | exact onlyChanges_refl _ _ | apply onlyChanges_ite | apply answers_ite | apply onFlt_in | decide) | extract_lets | split | dsimp +zetaDelta only

theorem execDrainTimeout_within (s : State) : answersWithin [.cores, .lregions, .bat, .net, .eng, .flt] s (execDrainTimeout s) := by
  unfold execDrainTimeout
  repeat' first | (with_reducible first | exact answers_fault .. | exact answers_refused .. | apply answers_next | exact onlyChanges_refl _ _ | apply onlyChanges_ite | apply answers_ite | apply discardSlab_in | apply onFlt_in | decide) | extract_lets | split | dsimp +zetaDelta only

theorem execRewindQuiescent_within (s : State) : answersWithin [.free, .sram, .cores, .lregions, .num, .run, .bat, .net, .dma, .eng, .flt] s (execRewindQuiescent s) := by
  unfold execRewindQuiescent
  repeat' first | (with_reducible first | exact answers_fault .. | exact answers_refused .. | apply answers_next | exact onlyChanges_refl _ _ | apply onlyChanges_ite | apply answers_ite | apply discardSlab_in | apply restore_in | apply onFlt_in | apply repair_in | refine onlyChanges_foldl ?_ _ (fun _ _ => ?_) _ | decide) | extract_lets | split | dsimp +zetaDelta only

theorem execResumeToken_within (s : State) : answersWithin [.free, .sram, .lregions, .regions, .settings, .num, .run, .brg, .stg, .bat, .net, .store, .orc, .eng, .flt, .log, .pwr] s (execResumeToken s) := by
  unfold execResumeToken
  repeat' first | (with_reducible first | exact answers_fault .. | exact answers_refused .. | apply answers_next | exact onlyChanges_refl _ _ | apply onlyChanges_ite | apply answers_ite | apply resume_in | decide) | extract_lets | split | dsimp +zetaDelta only

theorem execReplayStart_within (s : State) : answersWithin [.free, .sram, .lregions, .regions, .settings, .num, .run, .brg, .stg, .bat, .net, .store, .orc, .eng, .flt, .log, .pwr] s (execReplayStart s) := by
  unfold execReplayStart
  repeat' first | (with_reducible first | exact answers_fault .. | exact answers_refused .. | apply answers_next | exact onlyChanges_refl _ _ | apply onlyChanges_ite | apply answers_ite | apply resume_in | decide) | extract_lets | split | dsimp +zetaDelta only

theorem execStandbyPowered_within (s : State) : answersWithin [.regions, .run, .brg, .net, .flt, .log, .pwr] s (execStandbyPowered s) := by
  unfold execStandbyPowered
  repeat' first | (with_reducible first | exact answers_fault .. | exact answers_refused .. | apply answers_next | exact onlyChanges_refl _ _ | apply onlyChanges_ite | apply answers_ite | apply onFlt_in | apply onReg_in | apply recomputeRoutes_in | apply sparesExhausted_in | decide) | extract_lets | split | dsimp +zetaDelta only

theorem execRebuildChainStep_within (g : Region) (sheaf line : Nat) (s : State) : answersWithin [.free, .sram, .cores, .lregions, .regions, .num, .run, .brg, .bat, .net, .store, .eng, .flt, .log, .pwr] s (execRebuildChainStep g sheaf line s) := by
  unfold execRebuildChainStep
  repeat' first | (with_reducible first | exact answers_fault .. | exact answers_refused .. | apply answers_next | exact onlyChanges_refl _ _ | apply onlyChanges_ite | apply answers_ite | apply chainStep_in | decide) | extract_lets | split | dsimp +zetaDelta only

theorem execCommitPointReport_within (r : Region) (s : State) : answersWithin [.free, .lregions, .net, .store, .orc, .flt] s (execCommitPointReport r s) := by
  unfold execCommitPointReport
  repeat' first | (with_reducible first | exact answers_fault .. | exact answers_refused .. | apply answers_next | exact onlyChanges_refl _ _ | apply onlyChanges_ite | apply answers_ite | apply onLreg_in | apply writeSnap_in | apply onFlt_in | decide) | extract_lets | split | dsimp +zetaDelta only

theorem execSnapshotSettled_within (s : State) : answersWithin [.free, .lregions, .regions, .settings, .num, .run, .brg, .stg, .net, .store, .orc, .eng, .flt, .pwr] s (execSnapshotSettled s) := by
  unfold execSnapshotSettled
  repeat' first | (with_reducible first | exact answers_fault .. | exact answers_refused .. | apply answers_next | exact onlyChanges_refl _ _ | apply onlyChanges_ite | apply answers_ite | apply settleSnap_in | apply advanceAgain_in | apply onLregs_in | apply onFlt_in | decide) | extract_lets | split | dsimp +zetaDelta only

theorem execBatchFeed_within (h : CmdHdr) (stepNo : U64) (s : State) : answersWithin [.free, .lregions, .regions, .settings, .num, .run, .brg, .stg, .net, .store, .orc, .flt, .pwr] s (execBatchFeed h stepNo s) := by
  unfold execBatchFeed
  repeat' first | (with_reducible first | exact answers_fault .. | exact answers_refused .. | apply answers_next | exact onlyChanges_refl _ _ | apply onlyChanges_ite | apply answers_ite | apply runBatchFeed_in | decide) | extract_lets | split | dsimp +zetaDelta only

theorem execDeltaPacketArrival_within (r : Region) (s : State) : answersWithin [.free, .lregions, .regions, .settings, .num, .run, .brg, .stg, .bat, .net, .store, .orc, .prs, .flt, .log, .pwr, .out] s (execDeltaPacketArrival r s) := by
  unfold execDeltaPacketArrival
  repeat' first | (with_reducible first | exact answers_fault .. | exact answers_refused .. | apply answers_next | exact onlyChanges_refl _ _ | apply onlyChanges_ite | apply answers_ite | apply deltaArrival_in | apply settleFeeds_in | apply compareWaiting_in | decide) | extract_lets | split | dsimp +zetaDelta only

theorem execEmitArrival_within (i : Nat) (s : State) : answersWithin [.free, .cores, .lregions, .regions, .settings, .num, .run, .brg, .stg, .bat, .net, .store, .orc, .prs, .dma, .flt, .log, .pwr, .out] s (execEmitArrival i s) := by
  unfold execEmitArrival
  repeat' first | (with_reducible first | exact answers_fault .. | exact answers_refused .. | apply answers_next | exact onlyChanges_refl _ _ | apply onlyChanges_ite | apply answers_ite | apply takeEmit_in | apply settleFeeds_in | apply compareWaiting_in | decide) | extract_lets | split | dsimp +zetaDelta only

theorem execPllLocked_within (r : Region) (s : State) : answersWithin [.regions] s (execPllLocked r s) := by
  unfold execPllLocked
  repeat' first | (with_reducible first | exact answers_fault .. | exact answers_refused .. | apply answers_next | exact onlyChanges_refl _ _ | apply onlyChanges_ite | apply answers_ite | apply onReg_in | decide) | extract_lets | split | dsimp +zetaDelta only

theorem execPllLockTimeout_within (r : Region) (s : State) : answersWithin [.bat] s (execPllLockTimeout r s) := by
  unfold execPllLockTimeout
  repeat' first | (with_reducible first | exact answers_fault .. | exact answers_refused .. | apply answers_next | exact onlyChanges_refl _ _ | apply onlyChanges_ite | apply answers_ite | apply reportRegion_in | decide) | extract_lets | split | dsimp +zetaDelta only

theorem execPowerFail_within (mv : U16) (s : State) : answersWithin [.time, .free, .sram, .cores, .lregions, .regions, .settings, .grd, .num, .run, .brg, .stg, .cfg, .bat, .net, .store, .orc, .prs, .dma, .eng, .flt, .log, .pwr, .keys, .mir, .out] s (execPowerFail mv s) := by
  unfold execPowerFail
  repeat' first | (with_reducible first | exact answers_fault .. | exact answers_refused .. | apply answers_next | exact onlyChanges_refl _ _ | apply onlyChanges_ite | apply answers_ite | apply inletLost_in | decide) | extract_lets | split | dsimp +zetaDelta only

theorem execOverVoltage_within (mv : U16) (s : State) : answersWithin [.time, .free, .sram, .cores, .lregions, .regions, .settings, .grd, .num, .run, .brg, .stg, .cfg, .bat, .net, .store, .orc, .prs, .dma, .eng, .flt, .log, .pwr, .keys, .mir, .out] s (execOverVoltage mv s) := by
  unfold execOverVoltage
  repeat' first | (with_reducible first | exact answers_fault .. | exact answers_refused .. | apply answers_next | exact onlyChanges_refl _ _ | apply onlyChanges_ite | apply answers_ite | apply inletLost_in | decide) | extract_lets | split | dsimp +zetaDelta only

theorem execAbsoluteOverVoltage_within (mv : U16) (s : State) : answersWithin [.time, .free, .sram, .cores, .lregions, .regions, .settings, .grd, .num, .run, .brg, .stg, .cfg, .bat, .net, .store, .orc, .prs, .dma, .eng, .flt, .log, .pwr, .keys, .mir, .out] s (execAbsoluteOverVoltage mv s) := by
  unfold execAbsoluteOverVoltage
  repeat' first | (with_reducible first | exact answers_fault .. | exact answers_refused .. | apply answers_next | exact onlyChanges_refl _ _ | apply onlyChanges_ite | apply answers_ite | apply inletLost_in | decide) | extract_lets | split | dsimp +zetaDelta only

theorem execInletRestored_within (mv : U16) (s : State) : answersWithin [.time, .pwr] s (execInletRestored mv s) := by
  unfold execInletRestored
  repeat' first | (with_reducible first | exact answers_fault .. | exact answers_refused .. | apply answers_next | exact onlyChanges_refl _ _ | apply onlyChanges_ite | apply answers_ite | apply onPwr_in | apply startBringUp_in | decide) | extract_lets | split | dsimp +zetaDelta only

theorem execGovernorTick_within (reading : InletReading) (s : State) : answersWithin [.time, .free, .sram, .cores, .lregions, .regions, .settings, .grd, .num, .run, .brg, .stg, .cfg, .bat, .net, .store, .orc, .prs, .dma, .eng, .flt, .log, .pwr, .keys, .meter, .mir, .out] s (execGovernorTick reading s) := by
  unfold execGovernorTick
  repeat' first | (with_reducible first | exact answers_fault .. | exact answers_refused .. | apply answers_next | exact onlyChanges_refl _ _ | apply onlyChanges_ite | apply answers_ite | apply takeReading_in | apply onPwr_in | apply alert_in | apply quiesceNow_in | apply setDuties_in | decide) | extract_lets | split | dsimp +zetaDelta only

theorem execThermalDutyTick_within (r : Region) (tj : Byte) (s : State) : answersWithin [.regions, .pwr] s (execThermalDutyTick r tj s) := by
  unfold execThermalDutyTick
  repeat' first | (with_reducible first | exact answers_fault .. | exact answers_refused .. | apply answers_next | exact onlyChanges_refl _ _ | apply onlyChanges_ite | apply answers_ite | apply onReg_in | apply onPwr_in | apply alert_in | apply setDuties_in | decide) | extract_lets | split | dsimp +zetaDelta only

theorem execJunctionTrip_within (r : Region) (s : State) : answersWithin [.regions, .bat, .pwr] s (execJunctionTrip r s) := by
  unfold execJunctionTrip
  repeat' first | (with_reducible first | exact answers_fault .. | exact answers_refused .. | apply answers_next | exact onlyChanges_refl _ _ | apply onlyChanges_ite | apply answers_ite | apply execRegionSupplyTrip_within_in | apply alert_in | decide) | extract_lets | split | dsimp +zetaDelta only

theorem execCoolantSample_within (flowA flowB tinA tinB : Option (BitVec 10)) (tout : BitVec 10) (s : State) : answersWithin [.free, .log, .pwr] s (execCoolantSample flowA flowB tinA tinB tout s) := by
  unfold execCoolantSample
  repeat' first | (with_reducible first | exact answers_fault .. | exact answers_refused .. | apply answers_next | exact onlyChanges_refl _ _ | apply onlyChanges_ite | apply answers_ite | apply fresh_in | apply onPwr_in | apply logSensor_in | apply alert_in | decide) | extract_lets | split | dsimp +zetaDelta only

theorem execCoolantLimit_within (s : State) : answersWithin [.time, .free, .sram, .cores, .lregions, .regions, .settings, .grd, .num, .run, .brg, .stg, .cfg, .bat, .net, .store, .orc, .prs, .dma, .eng, .flt, .log, .pwr, .keys, .mir, .out] s (execCoolantLimit s) := by
  unfold execCoolantLimit
  repeat' first | (with_reducible first | exact answers_fault .. | exact answers_refused .. | apply answers_next | exact onlyChanges_refl _ _ | apply onlyChanges_ite | apply answers_ite | apply quiesceNow_in | decide) | extract_lets | split | dsimp +zetaDelta only

theorem execPwrEnHigh_within (s : State) : answersWithin [.time, .pwr] s (execPwrEnHigh s) := by
  unfold execPwrEnHigh
  repeat' first | (with_reducible first | exact answers_fault .. | exact answers_refused .. | apply answers_next | exact onlyChanges_refl _ _ | apply onlyChanges_ite | apply answers_ite | apply onPwr_in | apply startBringUp_in | decide) | extract_lets | split | dsimp +zetaDelta only

theorem execPwrEnLow_within (s : State) : answersWithin [.time, .free, .sram, .cores, .lregions, .regions, .settings, .grd, .num, .run, .brg, .stg, .cfg, .bat, .net, .store, .orc, .prs, .dma, .eng, .flt, .log, .pwr, .keys, .mir, .out] s (execPwrEnLow s) := by
  unfold execPwrEnLow
  repeat' first | (with_reducible first | exact answers_fault .. | exact answers_refused .. | apply answers_next | exact onlyChanges_refl _ _ | apply onlyChanges_ite | apply answers_ite | apply onPwr_in | apply quiesceNow_in | decide) | extract_lets | split | dsimp +zetaDelta only

theorem execModRstN_within (s : State) : answersWithin [.time, .sram, .cores, .lregions, .regions, .settings, .grd, .num, .run, .brg, .stg, .cfg, .bat, .net, .store, .orc, .prs, .dma, .eng, .flt, .pwr, .keys, .mir] s (execModRstN s) := by
  unfold execModRstN
  repeat' first | (with_reducible first | exact answers_fault .. | exact answers_refused .. | apply answers_next | exact onlyChanges_refl _ _ | apply onlyChanges_ite | apply answers_ite | apply volatileLost_in | apply onPwr_in | decide) | extract_lets | split | dsimp +zetaDelta only

theorem execRstgl_within (s : State) : answersWithin [.pwr] s (execRstgl s) := by
  unfold execRstgl
  repeat' first | (with_reducible first | exact answers_fault .. | exact answers_refused .. | apply answers_next | exact onlyChanges_refl _ _ | apply onlyChanges_ite | apply answers_ite | apply onPwr_in | decide) | extract_lets | split | dsimp +zetaDelta only

theorem execBringUpStageEnd_within (failed : List Region) (cores : List (Region × PCore)) (s : State) : answersWithin [.regions, .net, .eng, .flt, .pwr] s (execBringUpStageEnd failed cores s) := by
  unfold execBringUpStageEnd
  repeat' first | (with_reducible first | exact answers_fault .. | exact answers_refused .. | apply answers_next | exact onlyChanges_refl _ _ | apply onlyChanges_ite | apply answers_ite | apply toStage_in | apply powerEngines_in | apply badCore_in | apply powerRegions_in | apply retireRegion_in | apply recomputeRoutes_in | apply onPwr_in | refine onlyChanges_foldl ?_ _ (fun _ _ => ?_) _ | decide) | extract_lets | split | dsimp +zetaDelta only

theorem execBringUpStageTimeout_within (coolant : Bool) (s : State) : answersWithin [.pwr] s (execBringUpStageTimeout coolant s) := by
  unfold execBringUpStageTimeout
  repeat' first | (with_reducible first | exact answers_fault .. | exact answers_refused .. | apply answers_next | exact onlyChanges_refl _ _ | apply onlyChanges_ite | apply answers_ite | apply onPwr_in | apply alert_in | decide) | extract_lets | split | dsimp +zetaDelta only

theorem execTopologyCheckPass_within (s : State) : answersWithin [.free, .lregions, .regions, .settings, .num, .run, .brg, .stg, .cfg, .net, .store, .orc, .flt, .pwr] s (execTopologyCheckPass s) := by
  unfold execTopologyCheckPass
  repeat' first | (with_reducible first | exact answers_fault .. | exact answers_refused .. | apply answers_next | exact onlyChanges_refl _ _ | apply onlyChanges_ite | apply answers_ite | apply onCfg_in | apply advance_in | decide) | extract_lets | split | dsimp +zetaDelta only

theorem execTopologyTimeout_within (s : State) : answersWithin [.run, .brg, .pwr] s (execTopologyTimeout s) := by
  unfold execTopologyTimeout
  repeat' first | (with_reducible first | exact answers_fault .. | exact answers_refused .. | apply answers_next | exact onlyChanges_refl _ _ | apply onlyChanges_ite | apply answers_ite | apply onPwr_in | apply alert_in | apply event_in | decide) | extract_lets | split | dsimp +zetaDelta only

theorem execLinkErrorCheck_within (s : State) : answersWithin [.eng, .pwr] s (execLinkErrorCheck s) := by
  unfold execLinkErrorCheck
  apply answers_next
  dsimp only
  have k : onlyChanges [.eng, .pwr] s (if s.marginalLinks.isEmpty then (s.onPwr fun p => { p with
    nmarg := min s.marginalLinks.length 255
    margLink := if p.marg then p.margLink else s.marginalLinks.headD p.margLink
    marg := p.marg || !s.marginalLinks.isEmpty }) else State.alert (s.onPwr fun p => { p with
    nmarg := min s.marginalLinks.length 255
    margLink := if p.marg then p.margLink else s.marginalLinks.headD p.margLink
    marg := p.marg || !s.marginalLinks.isEmpty }) 7) :=
    onlyChanges_ite (onPwr_in (onlyChanges_refl _ _) (by decide)) (alert_in (onPwr_in (onlyChanges_refl _ _) (by decide)) (by decide))
  refine onlyChanges_trans k ?_
  constructor; intro p hp; cases p <;> first | rfl | (exfalso; revert hp; decide)

theorem execBridgeControllerFailover_within (s : State) : answersWithin [.run, .brg, .flt, .log, .pwr] s (execBridgeControllerFailover s) := by
  unfold execBridgeControllerFailover
  repeat' first | (with_reducible first | exact answers_fault .. | exact answers_refused .. | apply answers_next | exact onlyChanges_refl _ _ | apply onlyChanges_ite | apply answers_ite | apply onBrg_in | apply logHealth_in | apply event_in | apply sparesExhausted_in | decide) | extract_lets | split | dsimp +zetaDelta only

theorem execIdeKmOverDoe_within (established : Bool) (s : State) : answersWithin [.brg] s (execIdeKmOverDoe established s) := by
  unfold execIdeKmOverDoe
  repeat' first | (with_reducible first | exact answers_fault .. | exact answers_refused .. | apply answers_next | exact onlyChanges_refl _ _ | apply onlyChanges_ite | apply answers_ite | apply onBrg_in | decide) | extract_lets | split | dsimp +zetaDelta only

theorem execIntervalRecord_within (s : State) : answersWithin [.meter] s (execIntervalRecord s) := by
  unfold execIntervalRecord
  repeat' first | (with_reducible first | exact answers_fault .. | exact answers_refused .. | apply answers_next | exact onlyChanges_refl _ _ | apply onlyChanges_ite | apply answers_ite | apply onMeter_in | decide) | extract_lets | split | dsimp +zetaDelta only

theorem execMeterPowerLost_within (mv : U16) (s : State) : answersWithin [.meter] s (execMeterPowerLost mv s) := by
  unfold execMeterPowerLost
  repeat' first | (with_reducible first | exact answers_fault .. | exact answers_refused .. | apply answers_next | exact onlyChanges_refl _ _ | apply onlyChanges_ite | apply answers_ite | apply onMeter_in | decide) | extract_lets | split | dsimp +zetaDelta only

theorem execMeterPowerRestored_within (s : State) : answersWithin [.meter] s (execMeterPowerRestored s) := by
  unfold execMeterPowerRestored
  repeat' first | (with_reducible first | exact answers_fault .. | exact answers_refused .. | apply answers_next | exact onlyChanges_refl _ _ | apply onlyChanges_ite | apply answers_ite | apply onMeter_in | decide) | extract_lets | split | dsimp +zetaDelta only

theorem execMeterStart_within (s : State) : answersWithin [.meter, .mir] s (execMeterStart s) := by
  unfold execMeterStart
  repeat' first | (with_reducible first | exact answers_fault .. | exact answers_refused .. | apply answers_next | exact onlyChanges_refl _ _ | apply onlyChanges_ite | apply answers_ite | apply onMeter_in | apply writeRecord_in | apply export__in | refine onlyChanges_foldl ?_ _ (fun _ _ => ?_) _ | decide) | extract_lets | split | dsimp +zetaDelta only

theorem execCoverOpened_within (s : State) : answersWithin [.meter] s (execCoverOpened s) := by
  unfold execCoverOpened
  repeat' first | (with_reducible first | exact answers_fault .. | exact answers_refused .. | apply answers_next | exact onlyChanges_refl _ _ | apply onlyChanges_ite | apply answers_ite | apply onMeter_in | decide) | extract_lets | split | dsimp +zetaDelta only

theorem execCoverClosed_within (s : State) : answersWithin [.meter] s (execCoverClosed s) := by
  unfold execCoverClosed
  repeat' first | (with_reducible first | exact answers_fault .. | exact answers_refused .. | apply answers_next | exact onlyChanges_refl _ _ | apply onlyChanges_ite | apply answers_ite | apply onMeter_in | decide) | extract_lets | split | dsimp +zetaDelta only

theorem execUnseated_within (s : State) : answersWithin [.time, .free, .sram, .cores, .lregions, .regions, .settings, .grd, .num, .run, .brg, .stg, .cfg, .bat, .net, .store, .orc, .prs, .dma, .eng, .flt, .log, .pwr, .keys, .meter, .mir, .out] s (execUnseated s) := by
  unfold execUnseated
  repeat' first | (with_reducible first | exact answers_fault .. | exact answers_refused .. | apply answers_next | exact onlyChanges_refl _ _ | apply onlyChanges_ite | apply answers_ite | apply onMeter_in | apply inletLost_in | decide) | extract_lets | split | dsimp +zetaDelta only

theorem execSeated_within (s : State) : answersWithin [.meter] s (execSeated s) := by
  unfold execSeated
  repeat' first | (with_reducible first | exact answers_fault .. | exact answers_refused .. | apply answers_next | exact onlyChanges_refl _ _ | apply onlyChanges_ite | apply answers_ite | apply onMeter_in | decide) | extract_lets | split | dsimp +zetaDelta only

theorem execServiceSessionBegin_within (s : State) : answersWithin [.meter] s (execServiceSessionBegin s) := by
  unfold execServiceSessionBegin
  repeat' first | (with_reducible first | exact answers_fault .. | exact answers_refused .. | apply answers_next | exact onlyChanges_refl _ _ | apply onlyChanges_ite | apply answers_ite | apply onMeter_in | decide) | extract_lets | split | dsimp +zetaDelta only

theorem execServiceSessionEnd_within (s : State) : answersWithin [.meter] s (execServiceSessionEnd s) := by
  unfold execServiceSessionEnd
  repeat' first | (with_reducible first | exact answers_fault .. | exact answers_refused .. | apply answers_next | exact onlyChanges_refl _ _ | apply onlyChanges_ite | apply answers_ite | apply onMeter_in | decide) | extract_lets | split | dsimp +zetaDelta only

theorem execMeterTimeAdjust_within (t : U64) (s : State) : answersWithin [.meter] s (execMeterTimeAdjust t s) := by
  unfold execMeterTimeAdjust
  repeat' first | (with_reducible first | exact answers_fault .. | exact answers_refused .. | apply answers_next | exact onlyChanges_refl _ _ | apply onlyChanges_ite | apply answers_ite | apply onMeter_in | decide) | extract_lets | split | dsimp +zetaDelta only

theorem execTamperClear_within (s : State) : answersWithin [.meter] s (execTamperClear s) := by
  unfold execTamperClear
  repeat' first | (with_reducible first | exact answers_fault .. | exact answers_refused .. | apply answers_next | exact onlyChanges_refl _ _ | apply onlyChanges_ite | apply answers_ite | apply onMeter_in | decide) | extract_lets | split | dsimp +zetaDelta only

theorem execButtonPress_within (s : State) : answersWithin [.meter] s (execButtonPress s) := by
  unfold execButtonPress
  repeat' first | (with_reducible first | exact answers_fault .. | exact answers_refused .. | apply answers_next | exact onlyChanges_refl _ _ | apply onlyChanges_ite | apply answers_ite | apply onMeter_in | decide) | extract_lets | split | dsimp +zetaDelta only

theorem execDisplayTimeout_within (s : State) : answersWithin [.meter] s (execDisplayTimeout s) := by
  unfold execDisplayTimeout
  repeat' first | (with_reducible first | exact answers_fault .. | exact answers_refused .. | apply answers_next | exact onlyChanges_refl _ _ | apply onlyChanges_ite | apply answers_ite | apply onMeter_in | decide) | extract_lets | split | dsimp +zetaDelta only

theorem execChannelComparison_within (a b : U32) (s : State) : answersWithin [.meter] s (execChannelComparison a b s) := by
  unfold execChannelComparison
  repeat' first | (with_reducible first | exact answers_fault .. | exact answers_refused .. | apply answers_next | exact onlyChanges_refl _ _ | apply onlyChanges_ite | apply answers_ite | apply onMeter_in | decide) | extract_lets | split | dsimp +zetaDelta only

theorem execSagBegin_within (mv : U16) (s : State) : answersWithin [.meter, .mir] s (execSagBegin mv s) := by
  unfold execSagBegin
  repeat' first | (with_reducible first | exact answers_fault .. | exact answers_refused .. | apply answers_next | exact onlyChanges_refl _ _ | apply onlyChanges_ite | apply answers_ite | apply onMeter_in | apply export__in | decide) | extract_lets | split | dsimp +zetaDelta only

theorem execSagEnd_within (_dur : U32) (_low : U16) (s : State) : answersWithin [.meter] s (execSagEnd _dur _low s) := by
  unfold execSagEnd
  repeat' first | (with_reducible first | exact answers_fault .. | exact answers_refused .. | apply answers_next | exact onlyChanges_refl _ _ | apply onlyChanges_ite | apply answers_ite | apply onMeter_in | decide) | extract_lets | split | dsimp +zetaDelta only

theorem execStatusFrame_within (s : State) : answersWithin [.mir] s (execStatusFrame s) := by
  unfold execStatusFrame
  repeat' first | (with_reducible first | exact answers_fault .. | exact answers_refused .. | apply answers_next | exact onlyChanges_refl _ _ | apply onlyChanges_ite | apply answers_ite | apply export__in | decide) | extract_lets | split | dsimp +zetaDelta only

theorem execIdentityFrameExport_within (s : State) : answersWithin [.mir] s (execIdentityFrameExport s) := by
  unfold execIdentityFrameExport
  repeat' first | (with_reducible first | exact answers_fault .. | exact answers_refused .. | apply answers_next | exact onlyChanges_refl _ _ | apply onlyChanges_ite | apply answers_ite | apply export__in | decide) | extract_lets | split | dsimp +zetaDelta only

theorem execBackfill_within (s : State) : answersWithin [.meter, .mir] s (execBackfill s) := by
  unfold execBackfill
  repeat' first | (with_reducible first | exact answers_fault .. | exact answers_refused .. | apply answers_next | exact onlyChanges_refl _ _ | apply onlyChanges_ite | apply answers_ite | apply sendAgain_in | decide) | extract_lets | split | dsimp +zetaDelta only

theorem execMarkerReceipt_within (i : Nat) (intact : Bool) (s : State) : answersWithin [.meter, .mir] s (execMarkerReceipt i intact s) := by
  unfold execMarkerReceipt
  repeat' first | (with_reducible first | exact answers_fault .. | exact answers_refused .. | apply answers_next | exact onlyChanges_refl _ _ | apply onlyChanges_ite | apply answers_ite | apply onMir_in | apply onMeter_in | decide) | extract_lets | split | dsimp +zetaDelta only

theorem execMarkerHoldEnd_within (s : State) : answersWithin [.meter] s (execMarkerHoldEnd s) := by
  unfold execMarkerHoldEnd
  repeat' first | (with_reducible first | exact answers_fault .. | exact answers_refused .. | apply answers_next | exact onlyChanges_refl _ _ | apply onlyChanges_ite | apply answers_ite | apply onMeter_in | decide) | extract_lets | split | dsimp +zetaDelta only

theorem execSagExchangeSend_within (s : State) : answersWithin [.out] s (execSagExchangeSend s) := by
  unfold execSagExchangeSend
  repeat' first | (with_reducible first | exact answers_fault .. | exact answers_refused .. | apply answers_next | exact onlyChanges_refl _ _ | apply onlyChanges_ite | apply answers_ite | apply emitOut_in | refine onlyChanges_foldl ?_ _ (fun _ _ => ?_) _ | decide) | extract_lets | split | dsimp +zetaDelta only

theorem execSagExchangeRecord_within (x : SagRec) (s : State) : answersWithin [.run, .brg, .flt, .log, .pwr] s (execSagExchangeRecord x s) := by
  unfold execSagExchangeRecord
  repeat' first | (with_reducible first | exact answers_fault .. | exact answers_refused .. | apply answers_next | exact onlyChanges_refl _ _ | apply onlyChanges_ite | apply answers_ite | apply onFlt_in | apply noteCoincidence_in | decide) | extract_lets | split | dsimp +zetaDelta only

theorem execExportFrameReceipt_within (i : Nat) (intact : Bool) (s : State) : answersWithin [.run, .brg, .flt, .log, .pwr, .mir] s (execExportFrameReceipt i intact s) := by
  unfold execExportFrameReceipt
  repeat' first | (with_reducible first | exact answers_fault .. | exact answers_refused .. | apply answers_next | exact onlyChanges_refl _ _ | apply onlyChanges_ite | apply answers_ite | apply onMir_in | apply onFlt_in | apply judgeSags_in | decide) | extract_lets | split | dsimp +zetaDelta only

theorem execExportLost_within (s : State) : answersWithin [.run, .brg, .pwr, .mir] s (execExportLost s) := by
  unfold execExportLost
  repeat' first | (with_reducible first | exact answers_fault .. | exact answers_refused .. | apply answers_next | exact onlyChanges_refl _ _ | apply onlyChanges_ite | apply answers_ite | apply onMir_in | apply alert_in | apply event_in | decide) | extract_lets | split | dsimp +zetaDelta only

theorem execVectorChainIssue_within (r : Region) (c : Core) (s : State) : answersWithin [.free, .sram, .cores, .lregions, .regions, .bat] s (execVectorChainIssue r c s) := by
  unfold execVectorChainIssue
  repeat' first | (with_reducible first | exact answers_fault .. | exact answers_refused .. | apply answers_next | exact onlyChanges_refl _ _ | apply onlyChanges_ite | apply answers_ite | apply issueChain_in | apply illegal_in | decide) | extract_lets | split | dsimp +zetaDelta only

theorem execVectorChainComplete_within (r : Region) (c : Core) (s : State) : answersWithin [.sram, .cores, .lregions, .regions, .bat] s (execVectorChainComplete r c s) := by
  unfold execVectorChainComplete
  repeat' first | (with_reducible first | exact answers_fault .. | exact answers_refused .. | apply answers_next | exact onlyChanges_refl _ _ | apply onlyChanges_ite | apply answers_ite | apply writeSram_in | apply onCore_in | apply sendRecord_in | apply sendEmits_in | apply progress_in | refine onlyChanges_foldl ?_ _ (fun _ _ => ?_) _ | decide) | extract_lets | split | dsimp +zetaDelta only

theorem execTileOperationIssue_within (r : Region) (c : Core) (s : State) : answersWithin [.cores, .lregions, .regions, .bat] s (execTileOperationIssue r c s) := by
  unfold execTileOperationIssue
  repeat' first | (with_reducible first | exact answers_fault .. | exact answers_refused .. | apply answers_next | exact onlyChanges_refl _ _ | apply onlyChanges_ite | apply answers_ite | apply issueTile_in | apply illegal_in | decide) | extract_lets | split | dsimp +zetaDelta only

theorem execTileDrain_within (r : Region) (c : Core) (s : State) : answersWithin [.sram, .cores, .lregions, .regions, .bat] s (execTileDrain r c s) := by
  unfold execTileDrain
  repeat' first | (with_reducible first | exact answers_fault .. | exact answers_refused .. | apply answers_next | exact onlyChanges_refl _ _ | apply onlyChanges_ite | apply answers_ite | apply drainSet_in | decide) | extract_lets | split | dsimp +zetaDelta only

theorem execImageCheckEnd_within (s : State) : answersWithin [.run, .brg, .stg] s (execImageCheckEnd s) := by
  unfold execImageCheckEnd
  repeat' first | (with_reducible first | exact answers_fault .. | exact answers_refused .. | apply answers_next | exact onlyChanges_refl _ _ | apply onlyChanges_ite | apply answers_ite | apply stageChecked_in | apply onStg_in | apply onRun_in | apply complete_in | decide) | extract_lets | split | dsimp +zetaDelta only

theorem execClearOnRead_within (addr : BitVec 26) (size : BitVec 4) (s : State) : answersWithin [.regions, .settings, .grd, .num, .run, .brg, .stg, .cfg, .store, .orc, .prs, .eng, .flt, .pwr, .mir] s (execClearOnRead addr size s) := by
  unfold execClearOnRead
  repeat' first | (with_reducible first | exact answers_fault .. | exact answers_refused .. | apply answers_next | exact onlyChanges_refl _ _ | apply onlyChanges_ite | apply answers_ite | apply answers_overLink | apply hostReadAt_in | decide) | extract_lets | split | dsimp +zetaDelta only

theorem execGuardValueWrite_within (g : Guard) (v : U32) (s : State) : answersWithin [.settings, .grd, .brg] s (execGuardValueWrite g v s) := by
  unfold execGuardValueWrite
  repeat' first | (with_reducible first | exact answers_fault .. | exact answers_refused .. | apply answers_next | exact onlyChanges_refl _ _ | apply onlyChanges_ite | apply answers_ite | apply answers_overLink | apply guardWrite_in | decide) | extract_lets | split | dsimp +zetaDelta only

theorem execCtlGrdFence_within (comp : U32) (s : State) : answersWithin [.sram, .cores, .lregions, .regions, .settings, .grd, .num, .run, .brg, .cfg, .bat, .net, .store, .eng, .flt, .log, .pwr] s (execCtlGrdFence comp s) := by
  unfold execCtlGrdFence
  repeat' first | (with_reducible first | exact answers_fault .. | exact answers_refused .. | apply answers_next | exact onlyChanges_refl _ _ | apply onlyChanges_ite | apply answers_ite | apply answers_overLink | apply guardConfirm_in | decide) | extract_lets | split | dsimp +zetaDelta only

theorem execCtlGrdRpwr_within (comp : U32) (s : State) : answersWithin [.sram, .cores, .lregions, .regions, .settings, .grd, .num, .run, .brg, .cfg, .bat, .net, .store, .eng, .flt, .log, .pwr] s (execCtlGrdRpwr comp s) := by
  unfold execCtlGrdRpwr
  repeat' first | (with_reducible first | exact answers_fault .. | exact answers_refused .. | apply answers_next | exact onlyChanges_refl _ _ | apply onlyChanges_ite | apply answers_ite | apply answers_overLink | apply guardConfirm_in | decide) | extract_lets | split | dsimp +zetaDelta only

theorem execCtlGrdPromo_within (comp : U32) (s : State) : answersWithin [.sram, .cores, .lregions, .regions, .settings, .grd, .num, .run, .brg, .cfg, .bat, .net, .store, .eng, .flt, .log, .pwr] s (execCtlGrdPromo comp s) := by
  unfold execCtlGrdPromo
  repeat' first | (with_reducible first | exact answers_fault .. | exact answers_refused .. | apply answers_next | exact onlyChanges_refl _ _ | apply onlyChanges_ite | apply answers_ite | apply answers_overLink | apply guardConfirm_in | decide) | extract_lets | split | dsimp +zetaDelta only

theorem execGuardConfirmTimeout_within (s : State) : answersWithin [.grd] s (execGuardConfirmTimeout s) := by
  unfold execGuardConfirmTimeout
  repeat' first | (with_reducible first | exact answers_fault .. | exact answers_refused .. | apply answers_next | exact onlyChanges_refl _ _ | apply onlyChanges_ite | apply answers_ite | apply guardResult_in | decide) | extract_lets | split | dsimp +zetaDelta only

theorem execCtlClkWrite_within (v : U32) (s : State) : answersWithin [.settings, .brg] s (execCtlClkWrite v s) := by
  unfold execCtlClkWrite
  repeat' first | (with_reducible first | exact answers_fault .. | exact answers_refused .. | apply answers_next | exact onlyChanges_refl _ _ | apply onlyChanges_ite | apply answers_ite | apply answers_overLink | apply writeClk_in | decide) | extract_lets | split | dsimp +zetaDelta only

theorem execFsetWrite_within (r : Region) (v : U32) (s : State) : answersWithin [.settings, .brg] s (execFsetWrite r v s) := by
  unfold execFsetWrite
  repeat' first | (with_reducible first | exact answers_fault .. | exact answers_refused .. | apply answers_next | exact onlyChanges_refl _ _ | apply onlyChanges_ite | apply answers_ite | apply answers_overLink | apply writeFset_in | decide) | extract_lets | split | dsimp +zetaDelta only

theorem execGrant_within (r : Region) (v : U32) (s : State) : answersWithin [.regions, .settings, .brg] s (execGrant r v s) := by
  unfold execGrant
  repeat' first | (with_reducible first | exact answers_fault .. | exact answers_refused .. | apply answers_next | exact onlyChanges_refl _ _ | apply onlyChanges_ite | apply answers_ite | apply answers_overLink | apply writeGrant_in | decide) | extract_lets | split | dsimp +zetaDelta only

theorem execLockBitWrite_within (v : U32) (s : State) : answersWithin [.settings, .brg] s (execLockBitWrite v s) := by
  unfold execLockBitWrite
  repeat' first | (with_reducible first | exact answers_fault .. | exact answers_refused .. | apply answers_next | exact onlyChanges_refl _ _ | apply onlyChanges_ite | apply answers_ite | apply answers_overLink | apply writeLock_in | decide) | extract_lets | split | dsimp +zetaDelta only

theorem execCtlDbgWrite_within (v : U32) (s : State) : answersWithin [.settings, .brg, .keys] s (execCtlDbgWrite v s) := by
  unfold execCtlDbgWrite
  repeat' first | (with_reducible first | exact answers_fault .. | exact answers_refused .. | apply answers_next | exact onlyChanges_refl _ _ | apply onlyChanges_ite | apply answers_ite | apply answers_overLink | apply writeDbg_in | decide) | extract_lets | split | dsimp +zetaDelta only

theorem execOverwriteOldest_within (s : State) : answersWithin [.settings, .brg, .mir] s (execOverwriteOldest s) := by
  unfold execOverwriteOldest
  repeat' first | (with_reducible first | exact answers_fault .. | exact answers_refused .. | apply answers_next | exact onlyChanges_refl _ _ | apply onlyChanges_ite | apply answers_ite | apply answers_overLink | apply mirrorOp_in | decide) | extract_lets | split | dsimp +zetaDelta only

theorem execStopAtFull_within (s : State) : answersWithin [.settings, .brg, .mir] s (execStopAtFull s) := by
  unfold execStopAtFull
  repeat' first | (with_reducible first | exact answers_fault .. | exact answers_refused .. | apply answers_next | exact onlyChanges_refl _ _ | apply onlyChanges_ite | apply answers_ite | apply answers_overLink | apply mirrorOp_in | decide) | extract_lets | split | dsimp +zetaDelta only

theorem execClearTheMirror_within (s : State) : answersWithin [.settings, .brg, .mir] s (execClearTheMirror s) := by
  unfold execClearTheMirror
  repeat' first | (with_reducible first | exact answers_fault .. | exact answers_refused .. | apply answers_next | exact onlyChanges_refl _ _ | apply onlyChanges_ite | apply answers_ite | apply answers_overLink | apply mirrorOp_in | decide) | extract_lets | split | dsimp +zetaDelta only

theorem execRegisterWrite_within (addr : BitVec 26) (size : BitVec 4) (data : U64) (poison : Bool) (s : State) : answersWithin [.sram, .cores, .lregions, .regions, .settings, .grd, .num, .run, .brg, .stg, .cfg, .bat, .net, .store, .dma, .eng, .flt, .log, .pwr, .keys, .mir] s (execRegisterWrite addr size data poison s) := by
  unfold execRegisterWrite
  repeat' first | (with_reducible first | exact answers_fault .. | exact answers_refused .. | apply answers_next | exact onlyChanges_refl _ _ | apply onlyChanges_ite | apply answers_ite | apply answers_overLink | apply hostWrite_in | decide) | extract_lets | split | dsimp +zetaDelta only

theorem execManagementBusWrite_within (index : Byte) (data : Option U32) (s : State) : answersWithin [.free, .sram, .cores, .lregions, .regions, .settings, .grd, .num, .run, .brg, .stg, .cfg, .bat, .net, .store, .dma, .eng, .flt, .log, .pwr, .keys, .mir] s (execManagementBusWrite index data s) := by
  unfold execManagementBusWrite
  repeat' first | (with_reducible first | exact answers_fault .. | exact answers_refused .. | apply answers_next | exact onlyChanges_refl _ _ | apply onlyChanges_ite | apply answers_ite | apply onPwr_in | apply openClass_in | apply writeReg_in | decide) | extract_lets | split | dsimp +zetaDelta only

theorem execManagementBusClockStuck_within (s : State) : answersWithin [.pwr] s (execManagementBusClockStuck s) := by
  unfold execManagementBusClockStuck
  repeat' first | (with_reducible first | exact answers_fault .. | exact answers_refused .. | apply answers_next | exact onlyChanges_refl _ _ | apply onlyChanges_ite | apply answers_ite | apply onPwr_in | decide) | extract_lets | split | dsimp +zetaDelta only

theorem execConfigurationParityScrub_within (site : ParitySite) (s : State) : answersWithin [.regions, .settings, .stg, .bat, .log] s (execConfigurationParityScrub site s) := by
  unfold execConfigurationParityScrub
  repeat' first | (with_reducible first | exact answers_fault .. | exact answers_refused .. | apply answers_next | exact onlyChanges_refl _ _ | apply onlyChanges_ite | apply answers_ite | apply reportCore_in | apply reportRegion_in | apply loseStaged_in | apply reloadCopy_in | decide) | extract_lets | split | dsimp +zetaDelta only

theorem execImageStage_within (h : CmdHdr) (haddr : U64) (hlen : U32) (ioff : U64) (s : State) : answersWithin [.lregions, .brg, .stg, .net, .store, .orc, .out] s (execImageStage h haddr hlen ioff s) := by
  unfold execImageStage
  repeat' first | (with_reducible first | exact answers_fault .. | exact answers_refused .. | apply answers_next | exact onlyChanges_refl _ _ | apply onlyChanges_ite | apply answers_ite | apply runStage_in | decide) | extract_lets | split | dsimp +zetaDelta only

theorem execReshard_within (h : CmdHdr) (haddr : U64) (hlen : U32) (ioff : U64) (s : State) : answersWithin [.lregions, .brg, .stg, .net, .store, .orc, .out] s (execReshard h haddr hlen ioff s) := by
  unfold execReshard
  repeat' first | (with_reducible first | exact answers_fault .. | exact answers_refused .. | apply answers_next | exact onlyChanges_refl _ _ | apply onlyChanges_ite | apply answers_ite | apply runStage_in | decide) | extract_lets | split | dsimp +zetaDelta only

theorem execImageCheck_within (h : CmdHdr) (s : State) : answersWithin [.run, .brg, .stg] s (execImageCheck h s) := by
  unfold execImageCheck
  repeat' first | (with_reducible first | exact answers_fault .. | exact answers_refused .. | apply answers_next | exact onlyChanges_refl _ _ | apply onlyChanges_ite | apply answers_ite | apply runCheck_in | decide) | extract_lets | split | dsimp +zetaDelta only

theorem execImageAbandon_within (h : CmdHdr) (s : State) : answersWithin [.run, .brg, .stg] s (execImageAbandon h s) := by
  unfold execImageAbandon
  repeat' first | (with_reducible first | exact answers_fault .. | exact answers_refused .. | apply answers_next | exact onlyChanges_refl _ _ | apply onlyChanges_ite | apply answers_ite | apply runAbandon_in | decide) | extract_lets | split | dsimp +zetaDelta only

theorem execImageArm_within (h : CmdHdr) (b : U64) (e : U32) (haddr : U64) (s : State) : answersWithin [.free, .sram, .cores, .lregions, .regions, .settings, .num, .run, .brg, .stg, .bat, .net, .store, .orc, .eng, .flt, .pwr] s (execImageArm h b e haddr s) := by
  unfold execImageArm
  repeat' first | (with_reducible first | exact answers_fault .. | exact answers_refused .. | apply answers_next | exact onlyChanges_refl _ _ | apply onlyChanges_ite | apply answers_ite | apply runArm_in | decide) | extract_lets | split | dsimp +zetaDelta only

theorem execStepRun_within (h : CmdHdr) (limit : U64) (s : State) : answersWithin [.free, .lregions, .regions, .settings, .num, .run, .brg, .stg, .bat, .net, .store, .orc, .flt, .pwr] s (execStepRun h limit s) := by
  unfold execStepRun
  repeat' first | (with_reducible first | exact answers_fault .. | exact answers_refused .. | apply answers_next | exact onlyChanges_refl _ _ | apply onlyChanges_ite | apply answers_ite | apply runStep_in | decide) | extract_lets | split | dsimp +zetaDelta only

theorem execStepHold_within (h : CmdHdr) (at_ : Byte) (s : State) : answersWithin [.free, .lregions, .regions, .settings, .num, .run, .brg, .stg, .net, .store, .orc, .flt, .pwr] s (execStepHold h at_ s) := by
  unfold execStepHold
  repeat' first | (with_reducible first | exact answers_fault .. | exact answers_refused .. | apply answers_next | exact onlyChanges_refl _ _ | apply onlyChanges_ite | apply answers_ite | apply runHold_in | decide) | extract_lets | split | dsimp +zetaDelta only

theorem execComputeReset_within (h : CmdHdr) (s : State) : answersWithin [.cores, .lregions, .regions, .grd, .num, .run, .brg, .stg, .cfg, .bat, .net, .store, .orc, .prs, .dma, .eng, .flt, .log] s (execComputeReset h s) := by
  unfold execComputeReset
  repeat' first | (with_reducible first | exact answers_fault .. | exact answers_refused .. | apply answers_next | exact onlyChanges_refl _ _ | apply onlyChanges_ite | apply answers_ite | apply runReset_in | decide) | extract_lets | split | dsimp +zetaDelta only

theorem execIdentify_within (h : CmdHdr) (haddr : U64) (s : State) : answersWithin [.host, .brg] s (execIdentify h haddr s) := by
  unfold execIdentify
  repeat' first | (with_reducible first | exact answers_fault .. | exact answers_refused .. | apply answers_next | exact onlyChanges_refl _ _ | apply onlyChanges_ite | apply answers_ite | apply runIdentify_in | decide) | extract_lets | split | dsimp +zetaDelta only

theorem execAttest_within (h : CmdHdr) (haddr : U64) (nonce : BitVec 256) (hlen : U32) (s : State) : answersWithin [.host, .brg] s (execAttest h haddr nonce hlen s) := by
  unfold execAttest
  repeat' first | (with_reducible first | exact answers_fault .. | exact answers_refused .. | apply answers_next | exact onlyChanges_refl _ _ | apply onlyChanges_ite | apply answers_ite | apply runAttest_in | decide) | extract_lets | split | dsimp +zetaDelta only

theorem execHealthRead_within (h : CmdHdr) (haddr : U64) (sel : Byte) (fromSeq count : U32) (s : State) : answersWithin [.host, .brg] s (execHealthRead h haddr sel fromSeq count s) := by
  unfold execHealthRead
  repeat' first | (with_reducible first | exact answers_fault .. | exact answers_refused .. | apply answers_next | exact onlyChanges_refl _ _ | apply onlyChanges_ite | apply answers_ite | apply runHealthRead_in | decide) | extract_lets | split | dsimp +zetaDelta only

theorem execLinkStatus_within (h : CmdHdr) (haddr : U64) (engmask : U16) (s : State) : answersWithin [.host, .brg] s (execLinkStatus h haddr engmask s) := by
  unfold execLinkStatus
  repeat' first | (with_reducible first | exact answers_fault .. | exact answers_refused .. | apply answers_next | exact onlyChanges_refl _ _ | apply onlyChanges_ite | apply answers_ite | apply runLinkStatus_in | decide) | extract_lets | split | dsimp +zetaDelta only

theorem execNumericRingRead_within (h : CmdHdr) (haddr : U64) (maxN : U16) (adv : Byte) (s : State) : answersWithin [.host, .num, .brg] s (execNumericRingRead h haddr maxN adv s) := by
  unfold execNumericRingRead
  repeat' first | (with_reducible first | exact answers_fault .. | exact answers_refused .. | apply answers_next | exact onlyChanges_refl _ _ | apply onlyChanges_ite | apply answers_ite | apply runRingRead_in | decide) | extract_lets | split | dsimp +zetaDelta only

theorem execMeterMirrorRead_within (h : CmdHdr) (haddr fromSeq : U64) (count : U32) (s : State) : answersWithin [.host, .brg] s (execMeterMirrorRead h haddr fromSeq count s) := by
  unfold execMeterMirrorRead
  repeat' first | (with_reducible first | exact answers_fault .. | exact answers_refused .. | apply answers_next | exact onlyChanges_refl _ _ | apply onlyChanges_ite | apply answers_ite | apply runMirrorRead_in | decide) | extract_lets | split | dsimp +zetaDelta only

theorem execPartnerSet_within (h : CmdHdr) (partners : List (U16 × U32)) (s : State) : answersWithin [.brg, .stg] s (execPartnerSet h partners s) := by
  unfold execPartnerSet
  repeat' first | (with_reducible first | exact answers_fault .. | exact answers_refused .. | apply answers_next | exact onlyChanges_refl _ _ | apply onlyChanges_ite | apply answers_ite | apply runPartnerSet_in | decide) | extract_lets | split | dsimp +zetaDelta only

theorem execFeedDomainSet_within (h : CmdHdr) (own : U16) (domains : List (U16 × U16)) (s : State) : answersWithin [.brg, .cfg] s (execFeedDomainSet h own domains s) := by
  unfold execFeedDomainSet
  repeat' first | (with_reducible first | exact answers_fault .. | exact answers_refused .. | apply answers_next | exact onlyChanges_refl _ _ | apply onlyChanges_ite | apply answers_ite | apply runDomainSet_in | decide) | extract_lets | split | dsimp +zetaDelta only

theorem execKeyEnrol_within (h : CmdHdr) (haddr : U64) (slot : Byte) (s : State) : answersWithin [.regions, .brg, .stg, .keys] s (execKeyEnrol h haddr slot s) := by
  unfold execKeyEnrol
  repeat' first | (with_reducible first | exact answers_fault .. | exact answers_refused .. | apply answers_next | exact onlyChanges_refl _ _ | apply onlyChanges_ite | apply answers_ite | apply runEnrol_in | decide) | extract_lets | split | dsimp +zetaDelta only

theorem execLock_within (h : CmdHdr) (mask : U32) (s : State) : answersWithin [.settings, .brg] s (execLock h mask s) := by
  unfold execLock
  repeat' first | (with_reducible first | exact answers_fault .. | exact answers_refused .. | apply answers_next | exact onlyChanges_refl _ _ | apply onlyChanges_ite | apply answers_ite | apply runLock_in | decide) | extract_lets | split | dsimp +zetaDelta only

theorem execParamRead_within (h : CmdHdr) (haddr : U64) (lregion copy : Byte) (shard : U16) (fline nln : U32) (s : State) : answersWithin [.host, .brg] s (execParamRead h haddr lregion copy shard fline nln s) := by
  unfold execParamRead
  repeat' first | (with_reducible first | exact answers_fault .. | exact answers_refused .. | apply answers_next | exact onlyChanges_refl _ _ | apply onlyChanges_ite | apply answers_ite | apply runParamRead_in | decide) | extract_lets | split | dsimp +zetaDelta only

theorem execParamWrite_within (h : CmdHdr) (haddr : U64) (lregion copy : Byte) (shard : U16) (fline nln : U32) (s : State) : answersWithin [.lregions, .brg, .bat, .net, .store, .orc] s (execParamWrite h haddr lregion copy shard fline nln s) := by
  unfold execParamWrite
  repeat' first | (with_reducible first | exact answers_fault .. | exact answers_refused .. | apply answers_next | exact onlyChanges_refl _ _ | apply onlyChanges_ite | apply answers_ite | apply runParamWrite_in | decide) | extract_lets | split | dsimp +zetaDelta only

theorem execCheckpointExport_within (h : CmdHdr) (haddr : U64) (dest flush : Byte) (hlen : U64) (s : State) : answersWithin [.host, .lregions, .brg, .net, .store, .orc, .log, .out] s (execCheckpointExport h haddr dest flush hlen s) := by
  unfold execCheckpointExport
  repeat' first | (with_reducible first | exact answers_fault .. | exact answers_refused .. | apply answers_next | exact onlyChanges_refl _ _ | apply onlyChanges_ite | apply answers_ite | apply runExport_in | decide) | extract_lets | split | dsimp +zetaDelta only

theorem execCheckpointImport_within (h : CmdHdr) (haddr : U64) (src : Byte) (sline : U32) (hlen : U64) (s : State) : answersWithin [.lregions, .brg, .bat, .net, .store, .orc, .prs] s (execCheckpointImport h haddr src sline hlen s) := by
  unfold execCheckpointImport
  repeat' first | (with_reducible first | exact answers_fault .. | exact answers_refused .. | apply answers_next | exact onlyChanges_refl _ _ | apply onlyChanges_ite | apply answers_ite | apply runImport_in | decide) | extract_lets | split | dsimp +zetaDelta only

theorem execCommandFetch_within (s : State) : answersWithin [.free, .host, .sram, .cores, .lregions, .regions, .settings, .grd, .num, .run, .brg, .stg, .cfg, .bat, .net, .store, .orc, .prs, .dma, .eng, .flt, .log, .pwr, .keys, .out] s (execCommandFetch s) := by
  unfold execCommandFetch
  repeat' first | (with_reducible first | exact answers_fault .. | exact answers_refused .. | apply answers_next | exact onlyChanges_refl _ _ | apply onlyChanges_ite | apply answers_ite | apply onHq_in | apply onRun_in | apply acceptEntry_in | decide) | extract_lets | split | dsimp +zetaDelta only

theorem execLaneCommandStart_within (s : State) : answersWithin [.free, .host, .sram, .cores, .lregions, .regions, .settings, .grd, .num, .run, .brg, .stg, .cfg, .bat, .net, .store, .orc, .prs, .dma, .eng, .flt, .log, .pwr, .keys, .out] s (execLaneCommandStart s) := by
  unfold execLaneCommandStart
  repeat' first | (with_reducible first | exact answers_fault .. | exact answers_refused .. | apply answers_next | exact onlyChanges_refl _ _ | apply onlyChanges_ite | apply answers_ite | apply onRun_in | apply runEntryOp_in | decide) | extract_lets | split | dsimp +zetaDelta only

theorem execCommandTimeout_within (h : CmdHdr) (s : State) : answersWithin [.free, .host, .lregions, .run, .brg, .stg, .bat, .net, .store, .orc, .log, .out] s (execCommandTimeout h s) := by
  unfold execCommandTimeout
  repeat' first | (with_reducible first | exact answers_fault .. | exact answers_refused .. | apply answers_next | exact onlyChanges_refl _ _ | apply onlyChanges_ite | apply answers_ite | apply stopLane_in | apply onStg_in | apply onRun_in | apply done0_in | decide) | extract_lets | split | dsimp +zetaDelta only

theorem execWindowWrite_within (off : BitVec 40) (data : List Byte) (poison : Bool) (s : State) : answersWithin [.brg, .store, .log] s (execWindowWrite off data poison s) := by
  unfold execWindowWrite
  repeat' first | (with_reducible first | exact answers_fault .. | exact answers_refused .. | apply answers_next | exact onlyChanges_refl _ _ | apply onlyChanges_ite | apply answers_ite | apply answers_overLink | apply hostWindowWrite_in | decide) | extract_lets | split | dsimp +zetaDelta only

theorem execWindowRead_within (off : BitVec 40) (len : Nat) (s : State) : answersWithin [.lregions, .run, .brg, .net, .store, .orc] s (execWindowRead off len s) := by
  unfold execWindowRead
  repeat' first | (with_reducible first | exact answers_fault .. | exact answers_refused .. | apply answers_next | exact onlyChanges_refl _ _ | apply onlyChanges_ite | apply answers_ite | apply answers_overLink | apply hostWindowRead_in | decide) | extract_lets | split | dsimp +zetaDelta only

/-- A delayed access changes what its own command may change (R335). -/
theorem performAccess_changes (s : State) (c : Instr) : onlyChanges [.sram, .cores, .lregions, .regions, .settings, .grd, .num, .run, .brg, .stg, .cfg, .bat, .net, .store, .orc, .prs, .dma, .eng, .flt, .log, .pwr, .keys, .mir] s (s.performAccess c) := by
  have h (a : Ans) (h : answersWithin [.sram, .cores, .lregions, .regions, .settings, .grd, .num, .run, .brg, .stg, .cfg, .bat, .net, .store, .orc, .prs, .dma, .eng, .flt, .log, .pwr, .keys, .mir] s a) : onlyChanges [.sram, .cores, .lregions, .regions, .settings, .grd, .num, .run, .brg, .stg, .cfg, .bat, .net, .store, .orc, .prs, .dma, .eng, .flt, .log, .pwr, .keys, .mir] s (nextOr s a) := by
    unfold nextOr; split
    · exact h _ rfl
    · exact onlyChanges_refl _ _
  unfold State.performAccess
  refine h _ ?_
  cases c
  case hostQueueCreate => exact answers_mono (execHostQueueCreate_within _ _) (by decide)
  case hostQueueDelete => exact answers_mono (execHostQueueDelete_within _ _) (by decide)
  case dbProd => exact answers_mono (execDbProd_within _ _ _) (by decide)
  case dbCons => exact answers_mono (execDbCons_within _ _ _) (by decide)
  case bridgeDmaResume => exact answers_mono (execBridgeDmaResume_within _ _) (by decide)
  case bridgeDmaAbort => exact answers_mono (execBridgeDmaAbort_within _ _) (by decide)
  case consumerIndexWrite => exact answers_mono (execConsumerIndexWrite_within _ _) (by decide)
  case overwriteOldest => exact answers_mono (execOverwriteOldest_within _) (by decide)
  case stopAtFull => exact answers_mono (execStopAtFull_within _) (by decide)
  case clearTheMirror => exact answers_mono (execClearTheMirror_within _) (by decide)
  case guardValueWrite => exact answers_mono (execGuardValueWrite_within _ _ _) (by decide)
  case ctlGrdFence => exact answers_mono (execCtlGrdFence_within _ _) (by decide)
  case ctlGrdRpwr => exact answers_mono (execCtlGrdRpwr_within _ _) (by decide)
  case ctlGrdPromo => exact answers_mono (execCtlGrdPromo_within _ _) (by decide)
  case lockBitWrite => exact answers_mono (execLockBitWrite_within _ _) (by decide)
  case ctlClkWrite => exact answers_mono (execCtlClkWrite_within _ _) (by decide)
  case fsetWrite => exact answers_mono (execFsetWrite_within _ _ _) (by decide)
  case grant => exact answers_mono (execGrant_within _ _ _) (by decide)
  case ctlDbgWrite => exact answers_mono (execCtlDbgWrite_within _ _) (by decide)
  case registerWrite => exact answers_mono (execRegisterWrite_within _ _ _ _ _) (by decide)
  case clearOnRead => exact answers_mono (execClearOnRead_within _ _ _) (by decide)
  case windowWrite => exact answers_mono (execWindowWrite_within _ _ _ _) (by decide)
  case windowRead => exact answers_mono (execWindowRead_within _ _ _) (by decide)
  all_goals exact answers_next (onlyChanges_refl _ _)

theorem performAccess_in {L : List Part} {s₀ u₀ : State} {c : Instr} (hk : onlyChanges L s₀ u₀) (he : ([.sram, .cores, .lregions, .regions, .settings, .grd, .num, .run, .brg, .stg, .cfg, .bat, .net, .store, .orc, .prs, .dma, .eng, .flt, .log, .pwr, .keys, .mir].all fun p => L.contains p) = true) : onlyChanges L s₀ (u₀.performAccess c) := onlyChanges_step hk (performAccess_changes ..) he

theorem execCxlLinkRecovered_within (s : State) : answersWithin [.sram, .cores, .lregions, .regions, .settings, .grd, .num, .run, .brg, .stg, .cfg, .bat, .net, .store, .orc, .prs, .dma, .eng, .flt, .log, .pwr, .keys, .mir] s (execCxlLinkRecovered s) := by
  unfold execCxlLinkRecovered
  refine answers_ite (answers_next (onlyChanges_refl _ _)) (answers_next ?_)
  exact onlyChanges_foldl (logHealth_in (onBrg_in (onlyChanges_refl _ _) (by decide)) (by decide)) _ (fun _ _ => performAccess_in (onlyChanges_refl _ _) (by decide)) _

end Sys2Proof.Machine
end

