-- ==== Sys2Proof/Laws/Canonical.lean ====
section
/-! SUPPORT. Every operation and every command keeps the four byte memories in canonical form. -/

namespace Sys2Proof.Machine

/-! The canonical form of the memories. -/

/-- A change of other parts keeps the form. -/
theorem memWf_step {m : List Part} {u t : State} (h : u.memWf) (g : onlyChanges m u t) (e : (m.all fun p => ! ([Part.host, .sram, .store, .orc].contains p)) = true) : t.memWf := by
  have hp (p : Part) (k : p ∈ [Part.host, .sram, .store, .orc]) : p.same u t := g.same p fun hm => by
    have := List.all_eq_true.mp e p hm
    simp only [Bool.not_eq_true', List.contains_eq_mem, decide_eq_false_iff_not] at this
    exact this k
  have e1 : t.host = u.host := hp .host (by decide)
  have e2 : t.sram = u.sram := hp .sram (by decide)
  have e3 : t.store = u.store := hp .store (by decide)
  have e4 : t.orc = u.orc := hp .orc (by decide)
  unfold State.memWf
  rw [e1, e2, e3, e4]
  exact h

theorem memWf_ite {c : Prop} [Decidable c] {a b : State} (h : a.memWf) (g : b.memWf) : (if c then a else b).memWf := by split <;> assumption

theorem memWf_foldl {α : Type} {f : State → α → State} {u : State} (h : u.memWf) (g : ∀ s a, State.memWf s → (f s a).memWf) (xs : List α) : (xs.foldl f u).memWf := by
  induction xs generalizing u with
  | nil => exact h
  | cons x xs ih => exact ih (g _ _ h)

theorem memWf_onStore {s : State} {f : StoreSt → StoreSt} (h : s.memWf) (g : ∀ x : StoreSt, x.mem.wf = true → (f x).mem.wf = true) : (s.onStore f).memWf := ⟨h.1, h.2.1, g _ h.2.2.1, h.2.2.2⟩
theorem memWf_onOrc {s : State} {f : OrchardSt → OrchardSt} (h : s.memWf) (g : ∀ x : OrchardSt, x.flash.wf = true → (f x).flash.wf = true) : (s.onOrc f).memWf := ⟨h.1, h.2.1, h.2.2.1, g _ h.2.2.2⟩
theorem writeHost_wf {s : State} {a : Nat} {b : List Byte} (h : s.memWf) : (s.writeHost a b).memWf := ⟨wf_writeMem _ _ _ h.1, h.2⟩
theorem writeSram_wf {s : State} {r c o : Nat} {b : List Byte} (h : s.memWf) : (s.writeSram r c o b).memWf := ⟨h.1, wf_writeMem _ _ _ h.2.1, h.2.2⟩
theorem writeStore_wf {s : State} {r c o : Nat} {b : List Byte} (h : s.memWf) : (s.writeStore r c o b).memWf := memWf_onStore h fun _ k => wf_writeMem _ _ _ k

theorem onRun_wf {u₀ : State} {f : RunSt → RunSt} (hw : u₀.memWf) : (u₀.onRun f).memWf := memWf_step hw (onRun_changes ..) (by decide)
theorem onNum_wf {u₀ : State} {f : NumSt → NumSt} (hw : u₀.memWf) : (u₀.onNum f).memWf := memWf_step hw (onNum_changes ..) (by decide)
theorem onSet_wf {u₀ : State} {f : Settings → Settings} (hw : u₀.memWf) : (u₀.onSet f).memWf := memWf_step hw (onSet_changes ..) (by decide)
theorem onBrg_wf {u₀ : State} {f : BridgeSt → BridgeSt} (hw : u₀.memWf) : (u₀.onBrg f).memWf := memWf_step hw (onBrg_changes ..) (by decide)
theorem onStg_wf {u₀ : State} {f : StagingSt → StagingSt} (hw : u₀.memWf) : (u₀.onStg f).memWf := memWf_step hw (onStg_changes ..) (by decide)
theorem onCfg_wf {u₀ : State} {f : ConfigSt → ConfigSt} (hw : u₀.memWf) : (u₀.onCfg f).memWf := memWf_step hw (onCfg_changes ..) (by decide)
theorem onBat_wf {u₀ : State} {f : BattenSt → BattenSt} (hw : u₀.memWf) : (u₀.onBat f).memWf := memWf_step hw (onBat_changes ..) (by decide)
theorem onNet_wf {u₀ : State} {f : NetSt → NetSt} (hw : u₀.memWf) : (u₀.onNet f).memWf := memWf_step hw (onNet_changes ..) (by decide)
theorem onPrs_wf {u₀ : State} {f : PressSt → PressSt} (hw : u₀.memWf) : (u₀.onPrs f).memWf := memWf_step hw (onPrs_changes ..) (by decide)
theorem onFlt_wf {u₀ : State} {f : FaultSt → FaultSt} (hw : u₀.memWf) : (u₀.onFlt f).memWf := memWf_step hw (onFlt_changes ..) (by decide)
theorem onPwr_wf {u₀ : State} {f : PowerSt → PowerSt} (hw : u₀.memWf) : (u₀.onPwr f).memWf := memWf_step hw (onPwr_changes ..) (by decide)
theorem onKeys_wf {u₀ : State} {f : KeySt → KeySt} (hw : u₀.memWf) : (u₀.onKeys f).memWf := memWf_step hw (onKeys_changes ..) (by decide)
theorem onMeter_wf {u₀ : State} {f : MeterSt → MeterSt} (hw : u₀.memWf) : (u₀.onMeter f).memWf := memWf_step hw (onMeter_changes ..) (by decide)
theorem onMir_wf {u₀ : State} {f : MirrorSt → MirrorSt} (hw : u₀.memWf) : (u₀.onMir f).memWf := memWf_step hw (onMir_changes ..) (by decide)
theorem onGrd_wf {u₀ : State} {f : GuardSt → GuardSt} (hw : u₀.memWf) : (u₀.onGrd f).memWf := memWf_step hw (onGrd_changes ..) (by decide)
theorem onLreg_wf {u₀ : State} {r : Nat} {f : LRegionSt → LRegionSt} (hw : u₀.memWf) : (u₀.onLreg r f).memWf := memWf_step hw (onLreg_changes ..) (by decide)
theorem onReg_wf {u₀ : State} {r : Nat} {f : RegionSt → RegionSt} (hw : u₀.memWf) : (u₀.onReg r f).memWf := memWf_step hw (onReg_changes ..) (by decide)
theorem onEng_wf {u₀ : State} {r : Nat} {f : EngineSt → EngineSt} (hw : u₀.memWf) : (u₀.onEng r f).memWf := memWf_step hw (onEng_changes ..) (by decide)
theorem onChan_wf {u₀ : State} {r : Nat} {f : DmaSt → DmaSt} (hw : u₀.memWf) : (u₀.onChan r f).memWf := memWf_step hw (onChan_changes ..) (by decide)
theorem onHq_wf {u₀ : State} {r : Nat} {f : HostQ → HostQ} (hw : u₀.memWf) : (u₀.onHq r f).memWf := memWf_step hw (onHq_changes ..) (by decide)
theorem onCores_wf {u₀ : State} {f : CoreSt → CoreSt} (hw : u₀.memWf) : (u₀.onCores f).memWf := memWf_step hw (onCores_changes ..) (by decide)
theorem onLregs_wf {u₀ : State} {f : LRegionSt → LRegionSt} (hw : u₀.memWf) : (u₀.onLregs f).memWf := memWf_step hw (onLregs_changes ..) (by decide)
theorem onRouters_wf {u₀ : State} {f : RouterSt → RouterSt} (hw : u₀.memWf) : (u₀.onRouters f).memWf := memWf_step hw (onRouters_changes ..) (by decide)
theorem onCore_wf {u₀ : State} {r c : Nat} {f : CoreSt → CoreSt} (hw : u₀.memWf) : (u₀.onCore r c f).memWf := memWf_step hw (onCore_changes ..) (by decide)
theorem emitOut_wf {u₀ : State} {o : Out} (hw : u₀.memWf) : (u₀.emitOut o).memWf := memWf_step hw (emitOut_changes ..) (by decide)
theorem complete_wf {u₀ : State} {h : CmdHdr} {st : Byte} {a b c : U64} (hw : u₀.memWf) : (u₀.complete h st a b c).memWf := memWf_step hw (complete_changes ..) (by decide)
theorem done0_wf {u₀ : State} {h : CmdHdr} {st : Byte} (hw : u₀.memWf) : (u₀.done0 h st).memWf := memWf_step hw (done0_changes ..) (by decide)
theorem logHealth_wf {u₀ : State} {h : HealthRec} (hw : u₀.memWf) : (u₀.logHealth h).memWf := memWf_step hw (logHealth_changes ..) (by decide)
theorem postEvent_wf {u₀ : State} {code : Nat} {a b : U64} (hw : u₀.memWf) : (u₀.postEvent code a b).memWf := memWf_step hw (postEvent_changes ..) (by decide)
theorem event_wf {u₀ : State} {code : Nat} {a : U64} (hw : u₀.memWf) : (u₀.event code a).memWf := memWf_step hw (event_changes ..) (by decide)
theorem alert_wf {u₀ : State} {bit : Nat} (hw : u₀.memWf) : (u₀.alert bit).memWf := memWf_step hw (alert_changes ..) (by decide)
theorem syncOvf_wf {u₀ : State} {r c k : Nat} (hw : u₀.memWf) : (u₀.syncOvf r c k).memWf := memWf_step hw (syncOvf_changes ..) (by decide)
theorem illegal_wf {u₀ : State} {r c k : Nat} (hw : u₀.memWf) : (u₀.illegal r c k).memWf := memWf_step hw (illegal_changes ..) (by decide)
theorem addCtr_wf {u₀ : State} {r c k n : Nat} (hw : u₀.memWf) : (u₀.addCtr r c k n).memWf := memWf_step hw (addCtr_changes ..) (by decide)
theorem applyStaged_wf {u₀ : State} {p : Nat → Bool} (hw : u₀.memWf) : (u₀.applyStaged p).memWf := memWf_step hw (applyStaged_changes ..) (by decide)
theorem stepBoundaryModule_wf {u₀ : State} (hw : u₀.memWf) : (u₀.stepBoundaryModule).memWf := memWf_step hw (stepBoundaryModule_changes ..) (by decide)
theorem microBoundary_wf {u₀ : State} (hw : u₀.memWf) : (u₀.microBoundary).memWf := memWf_step hw (microBoundary_changes ..) (by decide)
theorem discardWrite_wf {u₀ : State} {a c : Nat} {m : Bool} (hw : u₀.memWf) : (u₀.discardWrite a c m).memWf := memWf_step hw (discardWrite_changes ..) (by decide)
theorem fresh_wf {s : State} (hw : s.memWf) : s.fresh.2.memWf := memWf_step hw (fresh_changes ..) (by decide)
theorem foreignLine_wf {s : State} (hw : s.memWf) : s.foreignLine.2.memWf := memWf_step hw (fresh_changes ..) (by decide)

theorem State.memWf_mk {s : State} (h1 : s.host.wf = true) (h2 : s.sram.wf = true) (h3 : s.store.mem.wf = true) (h4 : s.orc.flash.wf = true) : s.memWf := ⟨h1, h2, h3, h4⟩

theorem setStamp_wf {s : State} {r bank line : Nat} {v : Byte} (hw : s.memWf) : (s.setStamp r bank line v).memWf := by
  unfold State.setStamp
  repeat' first | (with_reducible first | assumption | apply memWf_ite) | with_reducible refine memWf_onStore ?_ (fun _ h => by first | exact h | exact wf_writeMem _ _ _ h | exact Memory.wf_set _ _ _ h) | extract_lets | split | dsimp +zetaDelta only

theorem count_wf {s : State} {p off n : Nat} (hw : s.memWf) : (s.count p off n).memWf := memWf_step hw (count_changes ..) (by decide)

theorem countL_wf {s : State} {r off n : Nat} (hw : s.memWf) : (s.countL r off n).memWf := memWf_step hw (countL_changes ..) (by decide)

theorem addSiCtr_wf {s : State} {r k n : Nat} (hw : s.memWf) : (s.addSiCtr r k n).memWf := memWf_step hw (addSiCtr_changes ..) (by decide)

theorem addTok_wf {s : State} {r c t n : Nat} (hw : s.memWf) : (s.addTok r c t n).memWf := memWf_step hw (addTok_changes ..) (by decide)

theorem takeWaits_wf {s : State} {r c : Nat} {ws : List Wait} (hw : s.memWf) : (s.takeWaits r c ws).memWf := memWf_step hw (takeWaits_changes ..) (by decide)

theorem takeSiWaits_wf {s : State} {r : Nat} {ws : List Wait} (hw : s.memWf) : (s.takeSiWaits r ws).memWf := memWf_step hw (takeSiWaits_changes ..) (by decide)

theorem sendEmits_wf {s : State} {es : List Emit} (hw : s.memWf) : (s.sendEmits es).memWf := memWf_step hw (sendEmits_changes ..) (by decide)

theorem stageWrite_wf {s : State} {addr : Nat} {v : U32} {mbus : Bool} (hw : s.memWf) : (s.stageWrite addr v mbus).memWf := memWf_step hw (stageWrite_changes ..) (by decide)

theorem putActive_wf {s : State} {addr : Nat} {v : U32} (hw : s.memWf) : (s.putActive addr v).memWf := memWf_step hw (putActive_changes ..) (by decide)

theorem clockFrom_wf {s : State} {p : Nat} (hw : s.memWf) : (s.clockFrom p).memWf := memWf_step hw (clockFrom_changes ..) (by decide)

theorem stepBoundaryRegion_wf {s : State} {p : Nat} (hw : s.memWf) : (s.stepBoundaryRegion p).memWf := memWf_step hw (stepBoundaryRegion_changes ..) (by decide)

theorem dropStaged_wf {s : State} (hw : s.memWf) : (s.dropStaged).memWf := memWf_step hw (dropStaged_changes ..) (by decide)

theorem moveSettings_wf {s : State} {lost promoted : Nat} (hw : s.memWf) : (s.moveSettings lost promoted).memWf := memWf_step hw (moveSettings_changes ..) (by decide)

theorem writeElem_wf {s : State} {r c : Nat} {f32 : Bool} {off v : Nat} (hw : s.memWf) : (s.writeElem r c f32 off v).memWf := by
  unfold State.writeElem
  repeat' first | (with_reducible first | assumption | apply memWf_ite | apply writeSram_wf) | extract_lets | split | dsimp +zetaDelta only

theorem sticky_wf {s : State} {r c mb : Nat} {grad : Bool} {f : BitVec 4} (hw : s.memWf) : (s.sticky r c mb grad f).memWf := memWf_step hw (sticky_changes ..) (by decide)

theorem numDropped_wf {s : State} {p pc : Nat} (hw : s.memWf) : (s.numDropped p pc).memWf := memWf_step hw (numDropped_changes ..) (by decide)

theorem sendRecord_wf {s : State} {r c mb : Nat} {tileId w0 w1 : U32} (hw : s.memWf) : (s.sendRecord r c mb tileId w0 w1).memWf := memWf_step hw (sendRecord_changes ..) (by decide)

theorem mbFire_wf {s : State} {r : Nat} (hw : s.memWf) : (s.mbFire r).memWf := memWf_step hw (mbFire_changes ..) (by decide)

theorem mbNote_wf {s : State} {r kind core index pos : Nat} (hw : s.memWf) : (s.mbNote r kind core index pos).memWf := memWf_step hw (mbNote_changes ..) (by decide)

theorem onCtx_wf {s : State} {r c j : Nat} {f : CtxSt → CtxSt} (hw : s.memWf) : (s.onCtx r c j f).memWf := memWf_step hw (onCtx_changes ..) (by decide)

theorem arrive_wf {s : State} {r c k n : Nat} (hw : s.memWf) : (s.arrive r c k n).memWf := memWf_step hw (arrive_changes ..) (by decide)

theorem arriveTok_wf {s : State} {r c t n : Nat} (hw : s.memWf) : (s.arriveTok r c t n).memWf := memWf_step hw (arriveTok_changes ..) (by decide)

theorem progress_wf {s : State} {r : Nat} (hw : s.memWf) : (s.progress r).memWf := memWf_step hw (progress_changes ..) (by decide)

theorem ringInsert_wf {s : State} {x : NumRec} (hw : s.memWf) : (s.ringInsert x).memWf := memWf_step hw (ringInsert_changes ..) (by decide)

theorem gradSummary_wf {s : State} {f : BitVec 4} (hw : s.memWf) : (s.gradSummary f).memWf := memWf_step hw (gradSummary_changes ..) (by decide)

theorem triggerHold_wf {s : State} {mb : Nat} {numeric : Bool} (hw : s.memWf) : (s.triggerHold mb numeric).memWf := memWf_step hw (triggerHold_changes ..) (by decide)

theorem maybeHold_wf {s : State} {f : BitVec 4} {grad : Bool} {mb : Nat} (hw : s.memWf) : (s.maybeHold f grad mb).memWf := memWf_step hw (maybeHold_changes ..) (by decide)

theorem finishHolds_wf {s : State} {all_ : Bool} {res0 res1 : U64} (hw : s.memWf) : (s.finishHolds all_ res0 res1).memWf := memWf_step hw (finishHolds_changes ..) (by decide)

theorem writeCons_wf {s : State} {v : U32} {mbus : Bool} (hw : s.memWf) : (s.writeCons v mbus).memWf := memWf_step hw (writeCons_changes ..) (by decide)

theorem sendStore_wf {s : State} {r : Nat} {ps : List Packet} (hw : s.memWf) : (s.sendStore r ps).memWf := memWf_step hw (sendStore_changes ..) (by decide)

theorem resDiscard_wf {s : State} {lr bank line : Nat} (hw : s.memWf) : (s.resDiscard lr bank line).memWf := by
  unfold State.resDiscard
  repeat' first | (with_reducible first | assumption | apply memWf_ite | apply logHealth_wf) | with_reducible refine memWf_onStore ?_ (fun _ h => by first | exact h | exact wf_writeMem _ _ _ h | exact Memory.wf_set _ _ _ h) | extract_lets | split | dsimp +zetaDelta only

theorem snoop_wf {s : State} {lr bank line : Nat} (hw : s.memWf) : (s.snoop lr bank line).memWf := by
  unfold State.snoop
  repeat' first | (with_reducible first | assumption | apply memWf_ite | apply emitOut_wf) | with_reducible refine memWf_onStore ?_ (fun _ h => by first | exact h | exact wf_writeMem _ _ _ h | exact Memory.wf_set _ _ _ h) | extract_lets | split | dsimp +zetaDelta only

theorem queueDelta_wf {s : State} {r bank line : Nat} {data : List Byte} {stamp : Byte} {m : Option Nat} {p : Nat × Nat × Nat} (hw : s.memWf) : (s.queueDelta r bank line data stamp m p).memWf := memWf_step hw (queueDelta_changes ..) (by decide)

theorem outerDeltas_wf {s : State} {r bank line : Nat} {data : List Byte} {stamp : Byte} (hw : s.memWf) : (s.outerDeltas r bank line data stamp).memWf := memWf_step hw (outerDeltas_changes ..) (by decide)

theorem orcWritten_wf {s : State} {r bank line : Nat} (hw : s.memWf) : (s.orcWritten r bank line).memWf := by
  unfold State.orcWritten
  repeat' first | (with_reducible first | assumption | apply memWf_ite) | with_reducible refine memWf_onOrc ?_ (fun _ h => by first | exact h | exact wf_writeMem _ _ _ h | exact Memory.wf_set _ _ _ h) | extract_lets | split | dsimp +zetaDelta only

theorem changeLine_wf {s : State} {r bank line : Nat} {data : List Byte} {stamp : Byte} (hw : s.memWf) : (s.changeLine r bank line data stamp).memWf := by
  unfold State.changeLine
  repeat' first | (with_reducible first | assumption | apply memWf_ite | apply writeStore_wf | apply setStamp_wf | apply queueDelta_wf | apply outerDeltas_wf | apply orcWritten_wf) | extract_lets | split | dsimp +zetaDelta only

theorem writeLinePart_wf {s : State} {r bank line off : Nat} {b : List Byte} (hw : s.memWf) : (s.writeLinePart r bank line off b).memWf := by
  unfold State.writeLinePart
  repeat' first | (with_reducible first | assumption | apply memWf_ite | apply changeLine_wf) | extract_lets | split | dsimp +zetaDelta only

theorem writeExchange_wf {s : State} {r bank line off : Nat} {b : List Byte} (hw : s.memWf) : (s.writeExchange r bank line off b).memWf := by
  unfold State.writeExchange
  repeat' first | (with_reducible first | assumption | apply memWf_ite | apply snoop_wf | apply writeLinePart_wf) | extract_lets | split | dsimp +zetaDelta only

theorem deltaAcked_wf {s : State} {r tag : Nat} (hw : s.memWf) : (s.deltaAcked r tag).memWf := memWf_step hw (deltaAcked_changes ..) (by decide)

theorem ackDelta_wf {s : State} {r : Nat} {e : DeltaEntry} (hw : s.memWf) : (s.ackDelta r e).memWf := memWf_step hw (ackDelta_changes ..) (by decide)

theorem applyDelta_wf {s : State} {r : Nat} {e : DeltaEntry} {d : List Byte} (hw : s.memWf) : (s.applyDelta r e d).memWf := by
  unfold State.applyDelta
  repeat' first | (with_reducible first | assumption | apply memWf_ite | apply writeStore_wf | apply setStamp_wf | apply ackDelta_wf) | extract_lets | split | dsimp +zetaDelta only

theorem takeDelta_wf {s : State} {r : Nat} {p : Packet} (hw : s.memWf) : (s.takeDelta r p).memWf := by
  unfold State.takeDelta
  repeat' first | (with_reducible first | assumption | apply memWf_ite | apply onLreg_wf | apply applyDelta_wf) | extract_lets | split | dsimp +zetaDelta only

theorem deltaArrival_wf {s : State} {r : Nat} (hw : s.memWf) : (s.deltaArrival r).memWf := by
  unfold State.deltaArrival
  split
  · exact hw
  · rename_i he
    have hu := memWf_step hw (takeStore_changes he) (by decide)
    exact memWf_ite (deltaAcked_wf hu) (takeDelta_wf hu)

theorem sendUnitRecord_wf {s : State} {r unit : Nat} {tileId w0 w1 : U32} (hw : s.memWf) : (s.sendUnitRecord r unit tileId w0 w1).memWf := memWf_step hw (sendUnitRecord_changes ..) (by decide)

theorem writeWorking_wf {s : State} {r : Nat} {sh : Shard} {j : Nat} {m : List Byte} (hw : s.memWf) : (s.writeWorking r sh j m).memWf := by
  unfold State.writeWorking
  repeat' first | (with_reducible first | assumption | apply memWf_ite | apply writeStore_wf | apply setStamp_wf) | extract_lets | split | dsimp +zetaDelta only

theorem writeMaster_wf {s : State} {r : Nat} {sh : Shard} {j : Nat} {m : List Byte} (hw : s.memWf) : (s.writeMaster r sh j m).memWf := by
  unfold State.writeMaster
  repeat' first | (with_reducible first | assumption | apply memWf_ite | apply writeLinePart_wf | apply writeWorking_wf) | extract_lets | split | dsimp +zetaDelta only

theorem eccEvent_mem (x : StoreSt) (p b : Nat) : (x.eccEvent p b).mem = x.mem := by unfold StoreSt.eccEvent; split <;> rfl

theorem corrected_wf {s : State} {p bank line sym : Nat} (hw : s.memWf) : (s.corrected p bank line sym).memWf := by
  unfold State.corrected
  exact memWf_onStore hw fun x h => by dsimp only; rw [eccEvent_mem]; exact h

theorem deliverEmit_wf {s : State} {e : Emit} (hw : s.memWf) : (s.deliverEmit e).memWf := memWf_step hw (deliverEmit_changes ..) (by decide)

theorem takeEmit_wf {s : State} {i : Nat} (hw : s.memWf) : (s.takeEmit i).memWf := memWf_step hw (takeEmit_changes ..) (by decide)

theorem report_wf {s : State} {f : FaultRep} (hw : s.memWf) : (s.report f).memWf := memWf_step hw (report_changes ..) (by decide)

theorem reportCore_wf {s : State} {p pc cls : Nat} (hw : s.memWf) : (s.reportCore p pc cls).memWf := memWf_step hw (reportCore_changes ..) (by decide)

theorem sendGroup_wf {s : State} {r c port t : Nat} {g : List Byte} (hw : s.memWf) : (s.sendGroup r c port t g).memWf := memWf_step hw (sendGroup_changes ..) (by decide)

theorem passEntry_wf {s : State} {r c k : Nat} (hw : s.memWf) : (s.passEntry r c k).memWf := memWf_step hw (passEntry_changes ..) (by decide)

theorem netEvent_wf {s : State} {p cluster port : Nat} {rtx : Bool} (hw : s.memWf) : (s.netEvent p cluster port rtx).memWf := memWf_step hw (netEvent_changes ..) (by decide)

theorem runEntry_wf {s : State} {r c : Nat} {b : BeatEntry} {t : Nat} {err : LinkErr} (hw : s.memWf) : (s.runEntry r c b t err).memWf := by
  unfold State.runEntry
  repeat' first | (with_reducible first | assumption | apply memWf_ite | apply sendGroup_wf | apply arriveTok_wf | apply onCore_wf | apply reportCore_wf | apply netEvent_wf | apply writeSram_wf) | extract_lets | split | dsimp +zetaDelta only

theorem startRewind_wf {s : State} (hw : s.memWf) : (s.startRewind).memWf := memWf_step hw (startRewind_changes ..) (by decide)

theorem discardSlab_wf {s : State} (hw : s.memWf) : (s.discardSlab).memWf := memWf_step hw (discardSlab_changes ..) (by decide)

theorem restoreSram_wf (s : State) (q : Snapshot) : Memory.wf (s.restoreSram q) = true := by
  have key {α : Type} (f : Memory → α → Memory) (hf : ∀ t a, t.wf = true → (f t a).wf = true) (xs : List α) (t : Memory) (h : t.wf = true) : (xs.foldl f t).wf = true := by
    induction xs generalizing t with
    | nil => exact h
    | cons x xs ih => exact ih _ (hf _ _ h)
  unfold State.restoreSram
  refine key _ (fun t a h => Memory.wf_set _ _ _ h) _ _ (key _ (fun t a h => ?_) _ _ rfl)
  split
  · exact Memory.wf_set _ _ _ h
  · split
    · exact h
    · exact Memory.wf_set _ _ _ h

theorem restore_wf {s : State} (hw : s.memWf) : s.restore.memWf := by
  unfold State.restore
  split
  · exact hw
  · extract_lets d cores s1 s2 s3
    have k1 : s1.memWf := ⟨hw.1, restoreSram_wf _ _, hw.2.2.1, hw.2.2.2⟩
    have k2 : s2.memWf := memWf_foldl k1 (fun _ _ h => onLreg_wf h) _
    exact onFlt_wf (onNum_wf (onRun_wf k2))

theorem holdFor_wf {s : State} {cause : Nat} (hw : s.memWf) : (s.holdFor cause).memWf := memWf_step hw (holdFor_changes ..) (by decide)

theorem partnerLoss_wf {s : State} {m : Nat} (hw : s.memWf) : (s.partnerLoss m).memWf := memWf_step hw (partnerLoss_changes ..) (by decide)

theorem sparesExhausted_wf {s : State} (hw : s.memWf) : (s.sparesExhausted).memWf := memWf_step hw (sparesExhausted_changes ..) (by decide)

theorem stateLost_wf {s : State} {shards : List (Nat × Nat)} (hw : s.memWf) : (s.stateLost shards).memWf := memWf_step hw (stateLost_changes ..) (by decide)

theorem noteWear_wf {s : State} (hw : s.memWf) : (s.noteWear).memWf := by
  unfold State.noteWear
  repeat' first | (with_reducible first | assumption | apply memWf_ite | apply logHealth_wf) | with_reducible refine memWf_onOrc ?_ (fun _ h => by first | exact h | exact wf_writeMem _ _ _ h | exact Memory.wf_set _ _ _ h) | extract_lets | split | dsimp +zetaDelta only

theorem writeBack_wf {s : State} {r : Nat} {t : OrcTable} {o : Nat × Nat × Nat × Nat} {x : OrcRow} (hw : s.memWf) : (s.writeBack r t o x).memWf := by
  unfold State.writeBack
  repeat' first | (with_reducible first | assumption | apply memWf_ite | apply noteWear_wf) | with_reducible refine memWf_onOrc ?_ (fun _ h => by first | exact h | exact wf_writeMem _ _ _ h | exact Memory.wf_set _ _ _ h) | extract_lets | split | dsimp +zetaDelta only

theorem writeVectors_wf {s : State} {r : Nat} {t : OrcTable} {o : Nat × Nat × Nat × Nat} {row place : Nat} (hw : s.memWf) : (s.writeVectors r t o row place).memWf := by
  unfold State.writeVectors
  repeat' first | (with_reducible first | assumption | apply memWf_ite | apply writeSram_wf | refine memWf_foldl ?_ (fun _ _ _ => ?_) _) | extract_lets | split | dsimp +zetaDelta only

theorem loseDie_wf {s : State} {die cls : Nat} (hw : s.memWf) : (s.loseDie die cls).memWf := by
  unfold State.loseDie
  repeat' first | (with_reducible first | assumption | apply memWf_ite | apply logHealth_wf | apply sparesExhausted_wf) | with_reducible refine memWf_onOrc ?_ (fun _ h => by first | exact h | exact wf_writeMem _ _ _ h | exact Memory.wf_set _ _ _ h) | extract_lets | split | dsimp +zetaDelta only

theorem onLane_wf {s : State} {e l : Nat} {f : LaneSt → LaneSt} (hw : s.memWf) : (s.onLane e l f).memWf := memWf_step hw (onLane_changes ..) (by decide)

theorem onLink_wf {s : State} {e j : Nat} {f : LinkSt → LinkSt} (hw : s.memWf) : (s.onLink e j f).memWf := memWf_step hw (onLink_changes ..) (by decide)

theorem linkDown_wf {s : State} {e j : Nat} (hw : s.memWf) : (s.linkDown e j).memWf := memWf_step hw (linkDown_changes ..) (by decide)

theorem linkWake_wf {s : State} {e j : Nat} (hw : s.memWf) : (s.linkWake e j).memWf := memWf_step hw (linkWake_changes ..) (by decide)

theorem linkStarve_wf {s : State} {e j : Nat} (hw : s.memWf) : (s.linkStarve e j).memWf := memWf_step hw (linkStarve_changes ..) (by decide)

theorem setLane_wf {s : State} {e l : Nat} {f : LaneSt → LaneSt} (hw : s.memWf) : (s.setLane e l f).memWf := memWf_step hw (setLane_changes ..) (by decide)

theorem retireLane_wf {s : State} {e l errs partnerErrs : Nat} (hw : s.memWf) : (s.retireLane e l errs partnerErrs).memWf := memWf_step hw (retireLane_changes ..) (by decide)

theorem failAttempt_wf {s : State} {e l errs partnerErrs : Nat} (hw : s.memWf) : (s.failAttempt e l errs partnerErrs).memWf := memWf_step hw (failAttempt_changes ..) (by decide)

theorem darken_wf {s : State} {e l : Nat} (hw : s.memWf) : (s.darken e l).memWf := memWf_step hw (darken_changes ..) (by decide)

theorem keepFrame_wf {s : State} {e j : Nat} {f : SentFrame} (hw : s.memWf) : (s.keepFrame e j f).memWf := memWf_step hw (keepFrame_changes ..) (by decide)

theorem resend_wf {s : State} {e j : Nat} {fs : List SentFrame} (hw : s.memWf) : (s.resend e j fs).memWf := memWf_step hw (resend_changes ..) (by decide)

theorem replayLink_wf {s : State} {e j : Nat} (hw : s.memWf) : (s.replayLink e j).memWf := memWf_step hw (replayLink_changes ..) (by decide)

theorem retireMarked_wf {s : State} {e j : Nat} (hw : s.memWf) : (s.retireMarked e j).memWf := memWf_step hw (retireMarked_changes ..) (by decide)

theorem identified_wf {s : State} {e j : Nat} {f : IdFrame} (hw : s.memWf) : (s.identified e j f).memWf := memWf_step hw (identified_changes ..) (by decide)

theorem redeclareLink_wf {s : State} {old : Option LinkDecl} {e : Engine} {j : Nat} (hw : s.memWf) : (s.redeclareLink old e j).memWf := memWf_step hw (redeclareLink_changes ..) (by decide)

theorem declareLinks_wf {s : State} {c : LinkCourse} (hw : s.memWf) : (s.declareLinks c).memWf := memWf_step hw (declareLinks_changes ..) (by decide)

theorem askReplay_wf {s : State} {e j : Nat} (hw : s.memWf) : (s.askReplay e j).memWf := memWf_step hw (askReplay_changes ..) (by decide)

theorem takeFrame_wf {s : State} {e j : Nat} {f : Frame} (hw : s.memWf) : (s.takeFrame e j f).memWf := memWf_step hw (takeFrame_changes ..) (by decide)

theorem issueCtx_wf {s : State} {r c j : Nat} {i : CtxInstr} (hw : s.memWf) : (s.issueCtx r c j i).memWf := memWf_step hw (issueCtx_changes ..) (by decide)

theorem rejectOp_wf {s : State} {rp : Nat} {p : Packet} (hw : s.memWf) : (s.rejectOp rp p).memWf := memWf_step hw (rejectOp_changes ..) (by decide)

theorem issueOp_wf {s : State} {r c : Nat} {i : CtxInstr} {x : Issue} (hw : s.memWf) : (s.issueOp r c i x).memWf := memWf_step hw (issueOp_changes ..) (by decide)

theorem execRmo_wf {s : State} {r c op : Nat} (hw : s.memWf) : (s.execRmo r c op).memWf := memWf_step hw (execRmo_changes ..) (by decide)

theorem execRmoOrReserved_wf {s : State} {r c op : Nat} (hw : s.memWf) : (s.execRmoOrReserved r c op).memWf := memWf_step hw (execRmoOrReserved_changes ..) (by decide)

theorem sendCore_wf {s : State} {r c : Nat} {ps : List Packet} (hw : s.memWf) : (s.sendCore r c ps).memWf := memWf_step hw (sendCore_changes ..) (by decide)

theorem applyCore_wf {s : State} {r c : Nat} {p : Packet} (hw : s.memWf) : (s.applyCore r c p).memWf := by
  unfold State.applyCore
  repeat' first | (with_reducible first | assumption | apply memWf_ite | apply writeSram_wf | apply arriveTok_wf | apply sendCore_wf | apply onCore_wf | apply sendRecord_wf | refine memWf_foldl ?_ (fun _ _ _ => ?_) _) | extract_lets | split | dsimp +zetaDelta only

theorem rejectFirst_wf {s : State} {r : Nat} {p : Packet} (hw : s.memWf) : (s.rejectFirst r p).memWf := memWf_step hw (rejectFirst_changes ..) (by decide)

theorem opAtCore_wf {s : State} {r c : Nat} {p : Packet} (hw : s.memWf) : (s.opAtCore r c p).memWf := by
  unfold State.opAtCore
  repeat' first | (with_reducible first | assumption | apply memWf_ite | apply applyCore_wf | apply rejectFirst_wf) | extract_lets | split | dsimp +zetaDelta only

theorem applyStore_wf {s : State} {r : Nat} {direct : Bool} {p : Packet} {answer : List Packet → State → State} {unit : Nat} (ha : ∀ ps u, State.memWf u → (answer ps u).memWf) (hw : s.memWf) :
    (s.applyStore r direct p answer unit).memWf := by
  have ht {u : State} (h : u.memWf) (k : Option Nat) : (match k with | none => u | some k => u.addSiCtr r k 1).memWf := by
    cases k with
    | none => exact h
    | some k => exact addSiCtr_wf h
  unfold State.applyStore
  dsimp only
  split
  · exact rejectFirst_wf hw
  · exact hw
  · have k := memWf_ite (c := gOffset p.gaddr = p.base) (resDiscard_wf (lr := r) (bank := gIndex p.gaddr) (line := gOffset p.gaddr / 2048) hw) hw
    exact memWf_ite (ha _ _ k) k
  · have k := memWf_ite (c := 2048 < gOffset p.gaddr % 2048 + p.payload.length)
      (writeExchange_wf (r := r) (bank := gIndex p.gaddr) (line := gOffset p.gaddr / 2048 + 1) (off := 0) (b := p.payload.drop (2048 - gOffset p.gaddr % 2048))
        (writeExchange_wf (r := r) (bank := gIndex p.gaddr) (line := gOffset p.gaddr / 2048) (off := gOffset p.gaddr % 2048) (b := p.payload.take (2048 - gOffset p.gaddr % 2048)) hw))
      (writeExchange_wf (r := r) (bank := gIndex p.gaddr) (line := gOffset p.gaddr / 2048) (off := gOffset p.gaddr % 2048) (b := p.payload.take (2048 - gOffset p.gaddr % 2048)) hw)
    exact memWf_ite (ha _ _ (ht hw _)) (memWf_ite (ha _ _ (ht k _)) k)

theorem finishOp_wf {s : State} {r c j : Nat} {o : Outst} (hw : s.memWf) : (s.finishOp r c j o).memWf := memWf_step hw (finishOp_changes ..) (by decide)

theorem writeLog_wf {s : State} {m a n : Nat} (hw : s.memWf) : (s.writeLog m a n).memWf := by
  unfold State.writeLog
  repeat' first | (with_reducible first | assumption | apply memWf_ite | apply foreignLine_wf | apply writeLinePart_wf | refine memWf_foldl ?_ (fun _ _ _ => ?_) _) | extract_lets | split | dsimp +zetaDelta only

theorem logItem_wf {s : State} {x : LogItem} (hw : s.memWf) : (s.logItem x).memWf := by
  unfold State.logItem
  repeat' first | (with_reducible first | assumption | apply memWf_ite | apply writeLog_wf | apply onFlt_wf | apply logHealth_wf) | extract_lets | split | dsimp +zetaDelta only

theorem enterSlab_wf {s : State} {e : Nat} {p : Packet} (hw : s.memWf) : (s.enterSlab e p).memWf := memWf_step hw (enterSlab_changes ..) (by decide)

theorem layoutStale_wf {s : State} {p : Packet} (hw : s.memWf) : (s.layoutStale p).memWf := memWf_step hw (layoutStale_changes ..) (by decide)

theorem passIn_wf {s : State} {e : Nat} {p : Packet} (hw : s.memWf) : (s.passIn e p).memWf := by
  unfold State.passIn
  repeat' first | (with_reducible first | assumption | apply memWf_ite | apply layoutStale_wf | apply rejectOp_wf | apply logItem_wf | apply onFlt_wf | apply enterSlab_wf) | extract_lets | split | dsimp +zetaDelta only

theorem onRx_wf {s : State} {e k : Nat} {f : RxStream → RxStream} (hw : s.memWf) : (s.onRx e k f).memWf := memWf_step hw (onRx_changes ..) (by decide)

theorem sendAck_wf {s : State} {e : Nat} {p : Packet} (hw : s.memWf) : (s.sendAck e p).memWf := memWf_step hw (sendAck_changes ..) (by decide)

theorem drainRx_wf {s : State} {e k n : Nat} (hw : s.memWf) : (s.drainRx e k n).memWf := by
  induction n generalizing s with
  | zero => exact hw
  | succ n ih =>
    unfold State.drainRx
    dsimp only
    split
    · exact hw
    · exact ih (passIn_wf (onRx_wf hw))

theorem streamPacket_wf {s : State} {e : Nat} {p : Packet} (hw : s.memWf) : (s.streamPacket e p).memWf := by
  unfold State.streamPacket
  exact memWf_ite (sendAck_wf (onEng_wf hw)) (memWf_ite hw (sendAck_wf (memWf_ite (drainRx_wf (onRx_wf (onRx_wf hw))) (passIn_wf (onRx_wf hw)))))

theorem countXep_wf {s : State} (hw : s.memWf) : (s.countXep).memWf := memWf_step hw (countXep_changes ..) (by decide)

theorem olderPacket_wf {s : State} {e : Nat} {p : Packet} (hw : s.memWf) : (s.olderPacket e p).memWf := by
  unfold State.olderPacket
  exact memWf_ite (sendAck_wf (countXep_wf hw)) (sendAck_wf (drainRx_wf (onRx_wf (countXep_wf hw))))

theorem ownPacket_wf {s : State} {e : Nat} {p : Packet} (hw : s.memWf) : (s.ownPacket e p).memWf := by
  unfold State.ownPacket
  repeat' first | (with_reducible first | assumption | apply memWf_ite | apply logHealth_wf | apply streamPacket_wf | apply onRx_wf | apply countXep_wf | apply olderPacket_wf) | extract_lets | split | dsimp +zetaDelta only

theorem forwardPacket_wf {s : State} {e : Nat} {p : Packet} (hw : s.memWf) : (s.forwardPacket e p).memWf := memWf_step hw (forwardPacket_changes ..) (by decide)

theorem releaseHeld_wf {s : State} (hw : s.memWf) : (s.releaseHeld).memWf := memWf_step hw (releaseHeld_changes ..) (by decide)

theorem onTx_wf {s : State} {e k : Nat} {f : TxStream → TxStream} (hw : s.memWf) : (s.onTx e k f).memWf := memWf_step hw (onTx_changes ..) (by decide)

theorem sendFrame_wf {s : State} {e j : Nat} {p : Packet} (hw : s.memWf) : (s.sendFrame e j p).memWf := memWf_step hw (sendFrame_changes ..) (by decide)

theorem retransmit_wf {s : State} {e : Nat} {p : Packet} (hw : s.memWf) : (s.retransmit e p).memWf := memWf_step hw (retransmit_changes ..) (by decide)

theorem setPhase_wf {s : State} {r k : Nat} {p : ShardPhase} (hw : s.memWf) : (s.setPhase r k p).memWf := memWf_step hw (setPhase_changes ..) (by decide)

theorem writePart_wf {s : State} {r : Nat} {sh : Shard} {k j part : Nat} {b : List Byte} (hw : s.memWf) : (s.writePart r sh k j part b).memWf := by
  unfold State.writePart
  repeat' first | (with_reducible first | assumption | apply memWf_ite | apply writeLinePart_wf | apply onLreg_wf) | extract_lets | split | dsimp +zetaDelta only

theorem contribRecord_wf {s : State} {r : Nat} {p : Packet} {f : RFlags} (hw : s.memWf) : (s.contribRecord r p f).memWf := memWf_step hw (contribRecord_changes ..) (by decide)

theorem contribTok_wf {s : State} {r : Nat} {p : Packet} (hw : s.memWf) : (s.contribTok r p).memWf := memWf_step hw (contribTok_changes ..) (by decide)

theorem contribute_wf {s : State} {r k j : Nat} {sh : Shard} {p : Packet} (hw : s.memWf) : (s.contribute r k j sh p).memWf := by
  unfold State.contribute
  repeat' first | (with_reducible first | assumption | apply memWf_ite | apply onCfg_wf | apply logHealth_wf | apply onPrs_wf | apply contribRecord_wf | apply onLreg_wf | apply contribTok_wf | apply writePart_wf) | extract_lets | split | dsimp +zetaDelta only

theorem writeCopy_wf {s : State} {r : Nat} {sh : Shard} {copy j : Nat} {b : List Byte} (hw : s.memWf) : (s.writeCopy r sh copy j b).memWf := by
  unfold State.writeCopy
  repeat' first | (with_reducible first | assumption | apply memWf_ite | apply writeLinePart_wf) | extract_lets | split | dsimp +zetaDelta only

theorem writeOuts_wf {s : State} {r : Nat} {sh : Shard} {g : Group} {j : Nat} {os : List ParamOut} (hw : s.memWf) : (s.writeOuts r sh g j os).memWf := by
  unfold State.writeOuts
  repeat' first | (with_reducible first | assumption | apply memWf_ite | apply writeMaster_wf | apply writeCopy_wf | refine memWf_foldl ?_ (fun _ _ _ => ?_) _) | extract_lets | split | dsimp +zetaDelta only

theorem sendShardRecord_wf {s : State} {r k : Nat} {t : Tally} (hw : s.memWf) : (s.sendShardRecord r k t).memWf := memWf_step hw (sendShardRecord_changes ..) (by decide)

theorem writeHeader_wf {s : State} {r : Nat} {sh : Shard} {t : Nat} {fp : Option (BitVec 128)} (hw : s.memWf) : (s.writeHeader r sh t fp).memWf := by
  unfold State.writeHeader
  repeat' first | (with_reducible first | assumption | apply memWf_ite | apply writeLinePart_wf) | extract_lets | split | dsimp +zetaDelta only

theorem sendFp_wf {s : State} {r k : Nat} {fp : BitVec 128} (hw : s.memWf) : (s.sendFp r k fp).memWf := memWf_step hw (sendFp_changes ..) (by decide)

theorem consume_wf {s : State} {r k : Nat} {sh : Shard} (hw : s.memWf) : (s.consume r k sh).memWf := memWf_step hw (consume_changes ..) (by decide)

theorem endShard_wf {s : State} {r k : Nat} {sh : Shard} {p : ShardPhase} {ready : Bool} (hw : s.memWf) : (s.endShard r k sh p ready).memWf := memWf_step hw (endShard_changes ..) (by decide)

theorem updateLines_wf {s : State} {r : Nat} {sh : Shard} {g : Group} {k : PressConst} {trust : Fp} {n j : Nat} {t : Tally} (hw : s.memWf) : (s.updateLines r sh g k trust n j t).1.memWf := by
  induction n generalizing s j t with
  | zero => exact hw
  | succ n ih =>
    unfold State.updateLines
    split
    · exact ih (writeOuts_wf hw)
    · exact ih hw

theorem updateShard_wf {s : State} {r k : Nat} {sh : Shard} {phi : Fp} {groupTrust : Option Fp} (hw : s.memWf) : (s.updateShard r k sh phi groupTrust).memWf := by
  unfold State.updateShard
  extract_lets g t c trust
  have hu : (s.updateLines r sh g c trust sh.nlines 0 {}).1.memWf := updateLines_wf hw
  generalize s.updateLines r sh g c trust sh.nlines 0 {} = q at hu
  obtain ⟨u, ta⟩ := q
  dsimp only
  split
  · exact endShard_wf (sendShardRecord_wf (writeHeader_wf (onPrs_wf hu)))
  · exact endShard_wf (sendFp_wf (sendShardRecord_wf (writeHeader_wf (onPrs_wf hu))))

theorem resolveFp_wf {s : State} {r k : Nat} {n : U64} {sh : Shard} (hw : s.memWf) : (s.resolveFp r k n sh).memWf := memWf_step hw (resolveFp_changes ..) (by decide)

theorem fetchShard_wf {s : State} {r k : Nat} {sh : Shard} (hw : s.memWf) : (s.fetchShard r k sh).memWf := by
  unfold State.fetchShard
  repeat' first | (with_reducible first | assumption | apply memWf_ite | apply foreignLine_wf | apply writeCopy_wf | apply writeMaster_wf | apply writeLinePart_wf | apply sendShardRecord_wf | refine memWf_foldl ?_ (fun _ _ _ => ?_) _) | extract_lets | split | dsimp +zetaDelta only

theorem checkSheaf_wf {s : State} {r : Nat} {t : Tally} {x : Nat × Nat} (hw : s.memWf) : (s.checkSheaf r t x).1.memWf := by
  unfold State.checkSheaf
  have k (d : List Byte) (st : Byte) : (((s.writeStore r x.1 (x.2 * 2048) d).setStamp r x.1 x.2 st).onStore fun q => { q with rebuild := sat32 q.rebuild 1 }).memWf :=
    memWf_onStore (setStamp_wf (writeStore_wf hw)) fun _ h => h
  split
  · exact hw
  · dsimp only
    split
    · exact hw
    · split
      · exact k _ _
      · exact writeWorking_wf (k _ _)

theorem checkSheafs_wf {s : State} {r k : Nat} {sh : Shard} (hw : s.memWf) : (s.checkSheafs r k sh).memWf := by
  unfold State.checkSheafs
  dsimp only
  refine sendShardRecord_wf ?_
  have h : ∀ (xs : List (Nat × Nat)) (a : State × Tally), a.1.memWf → (xs.foldl (fun a l => a.1.checkSheaf r a.2 l) a).1.memWf := by
    intro xs
    induction xs with
    | nil => exact fun _ h => h
    | cons x xs ih => exact fun a h => ih _ (checkSheaf_wf h)
  exact h _ _ hw

theorem endMismatch_wf {s : State} {r k : Nat} (hw : s.memWf) : (s.endMismatch r k).memWf := memWf_step hw (endMismatch_changes ..) (by decide)

theorem noteMismatch_wf {s : State} {r k : Nat} {l : List (Nat × BitVec 128)} (hw : s.memWf) : (s.noteMismatch r k l).memWf := memWf_step hw (noteMismatch_changes ..) (by decide)

theorem sendFpAt_wf {s : State} {r k : Nat} {n : U64} {fp : BitVec 128} (hw : s.memWf) : (s.sendFpAt r k n fp).memWf := memWf_step hw (sendFpAt_changes ..) (by decide)

theorem resolveMismatch_wf {s : State} {r k : Nat} {n : U64} {sh : Shard} {own : BitVec 128} {l : List (Nat × BitVec 128)} (hw : s.memWf) : (s.resolveMismatch r k n sh own l).memWf := by
  unfold State.resolveMismatch
  repeat' first | (with_reducible first | assumption | apply memWf_ite | apply endMismatch_wf | apply resolveFp_wf | apply fetchShard_wf | apply checkSheafs_wf | apply onPrs_wf | apply sendFpAt_wf) | extract_lets | split | dsimp +zetaDelta only

theorem compareFps_wf {s : State} {r k : Nat} {n : U64} {sh : Shard} (hw : s.memWf) : (s.compareFps r k n sh).memWf := by
  unfold State.compareFps
  repeat' first | (with_reducible first | assumption | apply memWf_ite | apply endMismatch_wf | apply resolveFp_wf | apply noteMismatch_wf | apply resolveMismatch_wf) | extract_lets | split | dsimp +zetaDelta only

theorem endChan_wf {s : State} {k : Nat} {status : Byte} (hw : s.memWf) : (s.endChan k status).memWf := memWf_step hw (endChan_changes ..) (by decide)

theorem chanSend_wf {s : State} {k : Nat} {p : Packet} (hw : s.memWf) : (s.chanSend k p).memWf := memWf_step hw (chanSend_changes ..) (by decide)

theorem askOne_wf {s : State} {k : Nat} (hw : s.memWf) : (s.askOne k).memWf := memWf_step hw (askOne_changes ..) (by decide)

theorem askMore_wf {s : State} {k : Nat} (hw : s.memWf) : (s.askMore k).memWf := memWf_step hw (askMore_changes ..) (by decide)

theorem rejectChan_wf {s : State} {k : Nat} {a : U64} {kind : Nat} (hw : s.memWf) : (s.rejectChan k a kind).memWf := memWf_step hw (rejectChan_changes ..) (by decide)

theorem rejectDma_wf {s : State} {r : Nat} {p : Packet} (hw : s.memWf) : (s.rejectDma r p).memWf := memWf_step hw (rejectDma_changes ..) (by decide)

theorem chanWrite_wf {s : State} {k : Nat} {x : Desc} {off : Nat} {b : List Byte} {last : Bool} (hw : s.memWf) : (s.chanWrite k x off b last).memWf := by
  unfold State.chanWrite
  repeat' first | (with_reducible first | assumption | apply memWf_ite | apply writeHost_wf | apply onChan_wf | apply chanSend_wf) | extract_lets | split | dsimp +zetaDelta only

theorem noteMover_wf {s : State} {k n : Nat} (hw : s.memWf) : (s.noteMover k n).memWf := memWf_step hw (noteMover_changes ..) (by decide)

theorem abortChan_wf {s : State} {c : Nat} (hw : s.memWf) : (s.abortChan c).memWf := memWf_step hw (abortChan_changes ..) (by decide)

theorem judgeDisagreement_wf {s : State} (hw : s.memWf) : (s.judgeDisagreement).memWf := memWf_step hw (judgeDisagreement_changes ..) (by decide)

theorem logBeacon_wf {s : State} {e j what : Nat} {m : U16} (hw : s.memWf) : (s.logBeacon e j what m).memWf := memWf_step hw (logBeacon_changes ..) (by decide)

theorem recomputeRoutes_wf {s : State} (hw : s.memWf) : (s.recomputeRoutes).memWf := memWf_step hw (recomputeRoutes_changes ..) (by decide)

theorem onRouter_wf {s : State} {n : Nat} {f : RouterSt → RouterSt} (hw : s.memWf) : (s.onRouter n f).memWf := memWf_step hw (onRouter_changes ..) (by decide)

theorem reach_wf {s : State} {n key : Nat} {p : Packet} (hw : s.memWf) : (s.reach n key p).memWf := memWf_step hw (reach_changes ..) (by decide)

theorem letIn_wf {s : State} {n port : Nat} {p : Packet} (hw : s.memWf) : (s.letIn n port p).memWf := memWf_step hw (letIn_changes ..) (by decide)

theorem offer_wf {s : State} {n port : Nat} {p : Packet} {take : State → State} (hw : s.memWf) (ht : (take s).memWf) : (s.offer n port p take).memWf := by
  unfold State.offer
  exact memWf_ite (rejectOp_wf ht) (memWf_ite (letIn_wf ht) hw)

theorem injectCores_wf {s : State} {n r : Nat} (hw : s.memWf) : (s.injectCores n r).memWf := memWf_step hw (injectCores_changes ..) (by decide)

theorem injectStore_wf {s : State} {n r : Nat} (hw : s.memWf) : (s.injectStore n r).memWf := memWf_step hw (injectStore_changes ..) (by decide)

theorem injectDma_wf {s : State} {n r : Nat} (hw : s.memWf) : (s.injectDma n r).memWf := memWf_step hw (injectDma_changes ..) (by decide)

theorem injectLink_wf {s : State} {n : Nat} (hw : s.memWf) : (s.injectLink n).memWf := memWf_step hw (injectLink_changes ..) (by decide)

theorem injectHost_wf {s : State} {n : Nat} (hw : s.memWf) : (s.injectHost n).memWf := memWf_step hw (injectHost_changes ..) (by decide)

theorem inject_wf {s : State} {n : Nat} (hw : s.memWf) : (s.inject n).memWf := memWf_step hw (inject_changes ..) (by decide)

theorem suppress_wf {s : State} {m : Nat} {p : Packet} {x : LogItem} (hw : s.memWf) : (s.suppress m p x).memWf := memWf_step hw (suppress_changes ..) (by decide)

theorem sendStream_wf {s : State} {e j slot : Nat} {p : Packet} (hw : s.memWf) : (s.sendStream e j slot p).memWf := by
  unfold State.sendStream
  repeat' first | (with_reducible first | assumption | apply memWf_ite | apply onTx_wf | apply sendFrame_wf | apply logItem_wf) | extract_lets | split | dsimp +zetaDelta only

theorem leave_wf {s : State} {n : Nat} {p : Packet} (hw : s.memWf) : (s.leave n p).memWf := by
  unfold State.leave
  repeat' first | (with_reducible first | assumption | apply memWf_ite | apply sendFrame_wf | apply suppress_wf | apply rejectOp_wf | apply sendStream_wf) | extract_lets | split | dsimp +zetaDelta only

theorem deliver_wf {s : State} {n out : Nat} {p : Packet} (hw : s.memWf) : (s.deliver n out p).memWf := memWf_step hw (deliver_changes ..) (by decide)

theorem cross_wf {s : State} {n out : Nat} {p : Packet} (hw : s.memWf) : (s.cross n out p).memWf := by
  unfold State.cross
  repeat' first | (with_reducible first | assumption | apply memWf_ite | apply reach_wf | apply leave_wf | apply deliver_wf) | extract_lets | split | dsimp +zetaDelta only

theorem noteSent_wf {s : State} {n out key : Nat} {p : Packet} (hw : s.memWf) : (s.noteSent n out key p).memWf := memWf_step hw (noteSent_changes ..) (by decide)

theorem retryOutput_wf {s : State} {n out key : Nat} {p : Packet} (hw : s.memWf) : (s.retryOutput n out key p).memWf := memWf_step hw (retryOutput_changes ..) (by decide)

theorem reportRegion_wf {s : State} {p cls : Nat} (hw : s.memWf) : (s.reportRegion p cls).memWf := memWf_step hw (reportRegion_changes ..) (by decide)

theorem abandonStep_wf {s : State} (hw : s.memWf) : s.abandonStep.memWf := by
  unfold State.abandonStep
  extract_lets q s1 s2 s3 s4 s5 s6 s7 s8
  have k2 : s2.memWf := memWf_ite (memWf_onStore (discardSlab_wf hw) fun _ h => h) (discardSlab_wf hw)
  have k3 : s3.memWf := memWf_foldl k2 (fun _ _ h => by split <;> first | exact h | exact onReg_wf h) _
  have k5 : s5.memWf := onLregs_wf (onCores_wf k3)
  have k6 : s6.memWf := by
    show (match q with | none => s5 | some q => { s5 with sram := s5.restoreSram q }).memWf
    clear_value q
    cases q with
    | none => exact k5
    | some q => exact ⟨k5.1, restoreSram_wf _ _, k5.2.2⟩
  exact onRun_wf (onNum_wf (onFlt_wf k6))

theorem exchangeGone_wf {s : State} (hw : s.memWf) : (s.exchangeGone).memWf := by
  unfold State.exchangeGone
  repeat' first | (with_reducible first | assumption | apply memWf_ite | apply logHealth_wf | apply abandonStep_wf | apply onRun_wf | apply onFlt_wf) | extract_lets | split | dsimp +zetaDelta only

theorem secondMember_wf {s : State} {r : Nat} (hw : s.memWf) : (s.secondMember r).memWf := by
  unfold State.secondMember
  repeat' first | (with_reducible first | assumption | apply memWf_ite | apply exchangeGone_wf | apply stateLost_wf) | extract_lets | split | dsimp +zetaDelta only

theorem dropDeltasOf_wf {s : State} {r : Nat} (hw : s.memWf) : (s.dropDeltasOf r).memWf := memWf_step hw (dropDeltasOf_changes ..) (by decide)

theorem promote_wf {s : State} {p r b : Nat} (hw : s.memWf) : (s.promote p r b).memWf := by
  unfold State.promote
  repeat' first | (with_reducible first | assumption | apply memWf_ite | apply onCfg_wf | apply logHealth_wf | apply onFlt_wf | apply dropDeltasOf_wf) | with_reducible refine memWf_onStore ?_ (fun _ h => by first | exact h | exact wf_writeMem _ _ _ h | exact Memory.wf_set _ _ _ h) | extract_lets | split | dsimp +zetaDelta only

theorem loseRegion_wf {s : State} {p : Nat} {half : Option Nat} (hw : s.memWf) : (s.loseRegion p half).memWf := by
  unfold State.loseRegion
  repeat' first | (with_reducible first | assumption | apply memWf_ite | apply onReg_wf | apply recomputeRoutes_wf | apply sparesExhausted_wf | apply secondMember_wf | apply moveSettings_wf | apply promote_wf) | with_reducible refine memWf_onStore ?_ (fun _ h => by first | exact h | exact wf_writeMem _ _ _ h | exact Memory.wf_set _ _ _ h) | extract_lets | split | dsimp +zetaDelta only

theorem absorb_wf {s : State} {f : FaultRep} (hw : s.memWf) : (s.absorb f).memWf := memWf_step hw (absorb_changes ..) (by decide)

theorem loseCore_wf {s : State} {f : FaultRep} {p pc : Nat} (hw : s.memWf) : (s.loseCore f p pc).memWf := by
  unfold State.loseCore
  repeat' first | (with_reducible first | assumption | apply memWf_ite | apply onFlt_wf | apply loseRegion_wf | apply absorb_wf) | extract_lets | split | dsimp +zetaDelta only

theorem takeReport_wf {s : State} {f : FaultRep} (hw : s.memWf) : (s.takeReport f).memWf := by
  unfold State.takeReport
  repeat' first | (with_reducible first | assumption | apply memWf_ite | apply logHealth_wf | apply loseCore_wf | apply loseRegion_wf | apply absorb_wf) | extract_lets | split | dsimp +zetaDelta only

theorem imageFault_wf {s : State} {x : IllegalRep} (hw : s.memWf) : (s.imageFault x).memWf := memWf_step hw (imageFault_changes ..) (by decide)

theorem rejoin_wf {s : State} (hw : s.memWf) : (s.rejoin).memWf := memWf_step hw (rejoin_changes ..) (by decide)

theorem loadSlots_wf {s : State} {r : Nat} {c : CoreCourse} (hw : s.memWf) : (s.loadSlots r c).memWf := by
  unfold State.loadSlots
  repeat' first | (with_reducible first | assumption | apply memWf_ite | apply foreignLine_wf | apply writeSram_wf | refine memWf_foldl ?_ (fun _ _ _ => ?_) _) | extract_lets | split | dsimp +zetaDelta only

theorem possibleFault_wf {s : State} {x : IllegalRep} {digestOk : Bool} (hw : s.memWf) : (s.possibleFault x digestOk).memWf := by
  unfold State.possibleFault
  repeat' first | (with_reducible first | assumption | apply memWf_ite | apply loadSlots_wf | apply logHealth_wf | apply onFlt_wf | apply startRewind_wf | apply rejoin_wf | apply takeReport_wf) | extract_lets | split | dsimp +zetaDelta only

theorem clearStep_wf {s : State} (hw : s.memWf) : s.clearStep.memWf := by
  unfold State.clearStep
  exact onFlt_wf (onNum_wf (onPrs_wf (onLregs_wf (onCores_wf (memWf_onOrc hw fun _ h => h)))))

theorem endRerun_wf {s : State} (hw : s.memWf) : (s.endRerun).memWf := memWf_step hw (endRerun_changes ..) (by decide)

theorem writeSnap_wf {s : State} {runB : Bool} (hw : s.memWf) : (s.writeSnap runB).memWf := by
  unfold State.writeSnap
  repeat' first | (with_reducible first | assumption | apply memWf_ite | apply foreignLine_wf | apply writeLinePart_wf | refine memWf_foldl ?_ (fun _ _ _ => ?_) _) | extract_lets | split | dsimp +zetaDelta only

theorem settleSnap_wf {s : State} (hw : s.memWf) : (s.settleSnap).memWf := memWf_step hw (settleSnap_changes ..) (by decide)

theorem boundarySnap_wf {s : State} (hw : s.memWf) : (s.boundarySnap).memWf := by
  unfold State.boundarySnap
  repeat' first | (with_reducible first | assumption | apply memWf_ite | apply writeSnap_wf | apply onFlt_wf | apply settleSnap_wf) | extract_lets | split | dsimp +zetaDelta only

theorem sendTokens_wf {s : State} (hw : s.memWf) : (s.sendTokens).memWf := memWf_step hw (sendTokens_changes ..) (by decide)

theorem beginStep_wf {s : State} (hw : s.memWf) : (s.beginStep).memWf := by
  unfold State.beginStep
  repeat' first | (with_reducible first | assumption | apply memWf_ite | apply onRun_wf) | with_reducible refine memWf_onStore ?_ (fun _ h => by first | exact h | exact wf_writeMem _ _ _ h | exact Memory.wf_set _ _ _ h) | extract_lets | split | dsimp +zetaDelta only

theorem tryBegin_wf {s : State} (hw : s.memWf) : (s.tryBegin).memWf := by
  unfold State.tryBegin
  repeat' first | (with_reducible first | assumption | apply memWf_ite | apply beginStep_wf) | extract_lets | split | dsimp +zetaDelta only

theorem startApply_wf {s : State} (hw : s.memWf) : (s.startApply).memWf := memWf_step hw (startApply_changes ..) (by decide)

theorem stopHere_wf {s : State} (hw : s.memWf) : (s.stopHere).memWf := memWf_step hw (stopHere_changes ..) (by decide)

theorem stopAtLimit_wf {s : State} (hw : s.memWf) : (s.stopAtLimit).memWf := memWf_step hw (stopAtLimit_changes ..) (by decide)

theorem settleStop_wf {s : State} (hw : s.memWf) : (s.settleStop).memWf := memWf_step hw (settleStop_changes ..) (by decide)

theorem crossBoundary_wf {s : State} (hw : s.memWf) : (s.crossBoundary).memWf := by
  unfold State.crossBoundary
  repeat' first | (with_reducible first | assumption | apply memWf_ite | apply boundarySnap_wf | apply sendTokens_wf | apply tryBegin_wf) | extract_lets | split | dsimp +zetaDelta only

theorem goOn_wf {s : State} (hw : s.memWf) : (s.goOn).memWf := by
  unfold State.goOn
  repeat' first | (with_reducible first | assumption | apply memWf_ite | apply startApply_wf | apply stopAtLimit_wf | apply tryBegin_wf | apply crossBoundary_wf) | extract_lets | split | dsimp +zetaDelta only

theorem advance_wf {s : State} (hw : s.memWf) : (s.advance).memWf := by
  unfold State.advance
  repeat' first | (with_reducible first | assumption | apply memWf_ite | apply settleStop_wf | apply goOn_wf) | extract_lets | split | dsimp +zetaDelta only

theorem updateScale_wf {s : State} (hw : s.memWf) : (s.updateScale).memWf := memWf_step hw (updateScale_changes ..) (by decide)

theorem clearHold_wf {s : State} (hw : s.memWf) : (s.clearHold).memWf := memWf_step hw (clearHold_changes ..) (by decide)

theorem afterCommit_wf {s : State} (hw : s.memWf) : (s.afterCommit).memWf := by
  unfold State.afterCommit
  repeat' first | (with_reducible first | assumption | apply memWf_ite | apply onRun_wf | apply finishHolds_wf | apply clearHold_wf | apply event_wf | apply advance_wf) | extract_lets | split | dsimp +zetaDelta only

theorem latchCounts_wf {s : State} {p : Nat} (hw : s.memWf) : (s.latchCounts p).memWf := memWf_step hw (latchCounts_changes ..) (by decide)

theorem writeScale_wf {s : State} {r : Nat} (hw : s.memWf) : (s.writeScale r).memWf := by
  unfold State.writeScale
  repeat' first | (with_reducible first | assumption | apply memWf_ite | apply writeSram_wf | apply sendEmits_wf | refine memWf_foldl ?_ (fun _ _ _ => ?_) _) | extract_lets | split | dsimp +zetaDelta only

theorem evalSchedules_wf {s : State} {r : Nat} (hw : s.memWf) : (s.evalSchedules r).memWf := memWf_step hw (evalSchedules_changes ..) (by decide)

theorem latchOnce_wf {s : State} {r p : Nat} (hw : s.memWf) : (s.latchOnce r p).memWf := memWf_step hw (latchOnce_changes ..) (by decide)

theorem takeToken_wf {s : State} {r : Nat} (hw : s.memWf) : (s.takeToken r).memWf := by
  unfold State.takeToken
  repeat' first | (with_reducible first | assumption | apply memWf_ite | apply stepBoundaryRegion_wf | apply latchOnce_wf | apply evalSchedules_wf | apply onLreg_wf | apply writeScale_wf) | extract_lets | split | dsimp +zetaDelta only

theorem moveLine_wf {s : State} {r : Nat} {sh : Shard} {or_ : Nat} {old : Option Shard} {copy j : Nat} (hw : s.memWf) : (s.moveLine r sh or_ old copy j).memWf := by
  unfold State.moveLine
  repeat' first | (with_reducible first | assumption | apply memWf_ite | apply foreignLine_wf | apply onCfg_wf | apply writeMaster_wf | apply writeCopy_wf) | extract_lets | split | dsimp +zetaDelta only

theorem moveLines_wf {s : State} {r : Nat} {sh : Shard} {or_ : Nat} {old : Option Shard} (hw : s.memWf) : (s.moveLines r sh or_ old).memWf := by
  unfold State.moveLines
  repeat' first | (with_reducible first | assumption | apply memWf_ite | apply moveLine_wf | refine memWf_foldl ?_ (fun _ _ _ => ?_) _) | extract_lets | split | dsimp +zetaDelta only

theorem refuseIndex_wf {s : State} {q : Nat} {v : U32} (hw : s.memWf) : (s.refuseIndex q v).memWf := memWf_step hw (refuseIndex_changes ..) (by decide)

theorem itemWritten_wf {s : State} {q : Nat} {x : CqItem} (hw : s.memWf) : (s.itemWritten q x).memWf := memWf_step hw (itemWritten_changes ..) (by decide)

theorem sendMsix_wf {s : State} {q : Nat} (hw : s.memWf) : (s.sendMsix q).memWf := memWf_step hw (sendMsix_changes ..) (by decide)

theorem resetBridge_wf {s : State} (hw : s.memWf) : (s.resetBridge).memWf := memWf_step hw (resetBridge_changes ..) (by decide)

theorem endCommands_wf {s : State} (hw : s.memWf) : (s.endCommands).memWf := memWf_step hw (endCommands_changes ..) (by decide)

theorem clearCompute_wf {s : State} (hw : s.memWf) : (s.clearCompute).memWf := memWf_step hw (clearCompute_changes ..) (by decide)

theorem idleRegions_wf {s : State} (hw : s.memWf) : (s.idleRegions).memWf := memWf_step hw (idleRegions_changes ..) (by decide)

theorem clearTraffic_wf {s : State} (hw : s.memWf) : (s.clearTraffic).memWf := by
  unfold State.clearTraffic
  repeat' first | (with_reducible first | assumption | apply memWf_ite | apply onNet_wf | apply recomputeRoutes_wf) | with_reducible refine memWf_onStore ?_ (fun _ h => by first | exact h | exact wf_writeMem _ _ _ h | exact Memory.wf_set _ _ _ h) | with_reducible refine memWf_onOrc ?_ (fun _ h => by first | exact h | exact wf_writeMem _ _ _ h | exact Memory.wf_set _ _ _ h) | extract_lets | split | dsimp +zetaDelta only

theorem applyGather_wf {s : State} {k : Nat} (hw : s.memWf) : (s.applyGather k).memWf := by
  unfold State.applyGather
  repeat' first | (with_reducible first | assumption | apply memWf_ite | apply onBrg_wf | apply changeLine_wf | refine memWf_foldl ?_ (fun _ _ _ => ?_) _) | extract_lets | split | dsimp +zetaDelta only

theorem applyGathered_wf {s : State} (hw : s.memWf) : (s.applyGathered).memWf := by
  unfold State.applyGathered
  repeat' first | (with_reducible first | assumption | apply memWf_ite | apply applyGather_wf | refine memWf_foldl ?_ (fun _ _ _ => ?_) _) | extract_lets | split | dsimp +zetaDelta only

theorem computeReset_wf {s : State} (hw : s.memWf) : (s.computeReset).memWf := by
  unfold State.computeReset
  repeat' first | (with_reducible first | assumption | apply memWf_ite | apply applyGathered_wf | apply resetBridge_wf | apply clearCompute_wf | apply idleRegions_wf | apply clearTraffic_wf | apply logHealth_wf) | extract_lets | split | dsimp +zetaDelta only

theorem volatileLost_wf {s : State} (hw : s.memWf) : s.volatileLost.memWf := ⟨hw.1, rfl, rfl, hw.2.2.2⟩

theorem startBringUp_wf {s : State} (hw : s.memWf) : (s.startBringUp).memWf := memWf_step hw (startBringUp_changes ..) (by decide)

theorem openClass_wf {s : State} {detail : Nat} (hw : s.memWf) : (s.openClass detail).memWf := memWf_step hw (openClass_changes ..) (by decide)

theorem quiesceNow_wf {s : State} (hw : s.memWf) : (s.quiesceNow).memWf := by
  unfold State.quiesceNow
  repeat' first | (with_reducible first | assumption | apply memWf_ite | apply emitOut_wf | apply openClass_wf | apply volatileLost_wf) | extract_lets | split | dsimp +zetaDelta only

theorem applyLatch_wf {s : State} {r : Nat} (hw : s.memWf) : (s.applyLatch r).memWf := memWf_step hw (applyLatch_changes ..) (by decide)

theorem loadFault_wf {s : State} {r : Nat} (hw : s.memWf) : (s.loadFault r).memWf := memWf_step hw (loadFault_changes ..) (by decide)

theorem startCore_wf {s : State} {r : Nat} {c : CoreCourse} (hw : s.memWf) : (s.startCore r c).memWf := by
  unfold State.startCore
  repeat' first | (with_reducible first | assumption | apply memWf_ite | apply loadSlots_wf | apply onCore_wf | refine memWf_foldl ?_ (fun _ _ _ => ?_) _) | extract_lets | split | dsimp +zetaDelta only

theorem startRegion_wf {s : State} {r : Nat} {rc : RegionCourse} (hw : s.memWf) : (s.startRegion r rc).memWf := by
  unfold State.startRegion
  repeat' first | (with_reducible first | assumption | apply memWf_ite | apply startCore_wf | apply onLreg_wf | apply onChan_wf | refine memWf_foldl ?_ (fun _ _ _ => ?_) _) | extract_lets | split | dsimp +zetaDelta only

theorem startClocks_wf {s : State} {mc : ModeCourse} (hw : s.memWf) : (s.startClocks mc).memWf := memWf_step hw (startClocks_changes ..) (by decide)

theorem modeSettings_wf {s : State} {mc : ModeCourse} (hw : s.memWf) : (s.modeSettings mc).memWf := memWf_step hw (modeSettings_changes ..) (by decide)

theorem epochSettings_wf {s : State} {l : List (Nat × U32)} {w : List Pending} (hw : s.memWf) : (s.epochSettings l w).memWf := memWf_step hw (epochSettings_changes ..) (by decide)

theorem identityMap_wf {s : State} (hw : s.memWf) : (s.identityMap).memWf := memWf_step hw (identityMap_changes ..) (by decide)

theorem switchOff_wf {s : State} {p : Nat} (hw : s.memWf) : (s.switchOff p).memWf := memWf_step hw (switchOff_changes ..) (by decide)

theorem darkenSpares_wf {s : State} {mc : ModeCourse} (hw : s.memWf) : (s.darkenSpares mc).memWf := memWf_step hw (darkenSpares_changes ..) (by decide)

theorem coldRelocate_wf {s : State} (hw : s.memWf) : (s.coldRelocate).memWf := by
  unfold State.coldRelocate
  repeat' first | (with_reducible first | assumption | apply memWf_ite | apply onReg_wf | apply onCfg_wf | apply onFlt_wf | apply logHealth_wf | refine memWf_foldl ?_ (fun _ _ _ => ?_) _) | with_reducible refine memWf_onStore ?_ (fun _ h => by first | exact h | exact wf_writeMem _ _ _ h | exact Memory.wf_set _ _ _ h) | extract_lets | split | dsimp +zetaDelta only

theorem coldStart_wf {s : State} {i : Image} (hw : s.memWf) : (s.coldStart i).memWf := by
  unfold State.coldStart
  repeat' first | (with_reducible first | assumption | apply memWf_ite | apply identityMap_wf | apply darkenSpares_wf | apply onPrs_wf | apply onFlt_wf | apply coldRelocate_wf | apply onRun_wf) | with_reducible refine memWf_onStore ?_ (fun _ h => by first | exact h | exact wf_writeMem _ _ _ h | exact Memory.wf_set _ _ _ h) | with_reducible refine memWf_onOrc ?_ (fun _ h => by first | exact h | exact wf_writeMem _ _ _ h | exact Memory.wf_set _ _ _ h) | extract_lets | split | dsimp +zetaDelta only

theorem takePartners_wf {s : State} (hw : s.memWf) : (s.takePartners).memWf := memWf_step hw (takePartners_changes ..) (by decide)

theorem takeConfig_wf {s : State} {i : Image} (hw : s.memWf) : (s.takeConfig i).memWf := memWf_step hw (takeConfig_changes ..) (by decide)

theorem loadScale_wf {s : State} {i : Image} (hw : s.memWf) : (s.loadScale i).memWf := memWf_step hw (loadScale_changes ..) (by decide)

theorem sendMarker_wf {s : State} (hw : s.memWf) : (s.sendMarker).memWf := memWf_step hw (sendMarker_changes ..) (by decide)

theorem completeArm_wf {s : State} (hw : s.memWf) : (s.completeArm).memWf := memWf_step hw (completeArm_changes ..) (by decide)

theorem releaseContributions_wf {s : State} (hw : s.memWf) : (s.releaseContributions).memWf := memWf_step hw (releaseContributions_changes ..) (by decide)

theorem releaseLogs_wf {s : State} (hw : s.memWf) : (s.releaseLogs).memWf := memWf_step hw (releaseLogs_changes ..) (by decide)

theorem resetNow_wf {s : State} (hw : s.memWf) : (s.resetNow).memWf := by
  unfold State.resetNow
  repeat' first | (with_reducible first | assumption | apply memWf_ite | apply onRun_wf | apply endCommands_wf | apply computeReset_wf | apply done0_wf) | extract_lets | split | dsimp +zetaDelta only

theorem advanceAgain_wf {s : State} (hw : s.memWf) : (s.advanceAgain).memWf := by
  unfold State.advanceAgain
  repeat' first | (with_reducible first | assumption | apply memWf_ite | apply advance_wf | apply releaseContributions_wf | apply releaseLogs_wf) | extract_lets | split | dsimp +zetaDelta only

theorem afterApply_wf {s : State} (hw : s.memWf) : (s.afterApply).memWf := by
  unfold State.afterApply
  repeat' first | (with_reducible first | assumption | apply memWf_ite | apply resetNow_wf | apply boundarySnap_wf | apply advanceAgain_wf) | extract_lets | split | dsimp +zetaDelta only

theorem emptyStage_wf {s : State} (hw : s.memWf) : (s.emptyStage).memWf := memWf_step hw (emptyStage_changes ..) (by decide)

theorem applyImage_wf {s : State} {i : Image} {cold : Bool} (hw : s.memWf) : (s.applyImage i cold).memWf := by
  unfold State.applyImage
  repeat' first | (with_reducible first | assumption | apply memWf_ite | apply dropStaged_wf | apply takeConfig_wf | apply coldStart_wf | apply startRegion_wf | apply startClocks_wf | apply modeSettings_wf | apply epochSettings_wf | apply takePartners_wf | apply onRun_wf | apply loadScale_wf | apply declareLinks_wf | apply recomputeRoutes_wf | apply onCfg_wf | refine memWf_foldl ?_ (fun _ _ _ => ?_) _) | extract_lets | split | dsimp +zetaDelta only

theorem repair_wf {s : State} {f : FaultRep} (hw : s.memWf) : (s.repair f).memWf := by
  unfold State.repair
  repeat' first | (with_reducible first | assumption | apply memWf_ite | apply onFlt_wf | apply loadSlots_wf | refine memWf_foldl ?_ (fun _ _ _ => ?_) _) | extract_lets | split | dsimp +zetaDelta only

theorem logRepairs_wf {s : State} (hw : s.memWf) : (s.logRepairs).memWf := memWf_step hw (logRepairs_changes ..) (by decide)

theorem askHold_wf {s : State} (hw : s.memWf) : (s.askHold).memWf := memWf_step hw (askHold_changes ..) (by decide)

theorem readyAgain_wf {s : State} (hw : s.memWf) : (s.readyAgain).memWf := memWf_step hw (readyAgain_changes ..) (by decide)

theorem resume_wf {s : State} (hw : s.memWf) : (s.resume).memWf := by
  unfold State.resume
  repeat' first | (with_reducible first | assumption | apply memWf_ite | apply logRepairs_wf | apply onFlt_wf | apply writeScale_wf | apply readyAgain_wf | apply releaseContributions_wf | apply releaseLogs_wf | apply askHold_wf | apply advance_wf | refine memWf_foldl ?_ (fun _ _ _ => ?_) _) | extract_lets | split | dsimp +zetaDelta only

theorem rowWorking_wf {s : State} {r : Nat} {t : OrcTable} {o : Nat × Nat × Nat × Nat} {pos : Nat} (hw : s.memWf) : (s.rowWorking r t o pos).memWf := by
  unfold State.rowWorking
  repeat' first | (with_reducible first | assumption | apply memWf_ite | apply writeStore_wf | apply setStamp_wf | refine memWf_foldl ?_ (fun _ _ _ => ?_) _) | extract_lets | split | dsimp +zetaDelta only

theorem countRebuilt_wf {s : State} {n : Nat} (hw : s.memWf) : (s.countRebuilt n).memWf := by
  unfold State.countRebuilt
  repeat' first | (with_reducible first | assumption | apply memWf_ite) | with_reducible refine memWf_onStore ?_ (fun _ h => by first | exact h | exact wf_writeMem _ _ _ h | exact Memory.wf_set _ _ _ h) | extract_lets | split | dsimp +zetaDelta only

theorem rowRecord_wf {s : State} {r : Nat} {t : OrcTable} {o : Nat × Nat × Nat × Nat} {pos : Nat} (hw : s.memWf) : (s.rowRecord r t o pos).memWf := memWf_step hw (rowRecord_changes ..) (by decide)

theorem regenerateRow_wf {s : State} {r bank line : Nat} (hw : s.memWf) : (s.regenerateRow r bank line).memWf := by
  unfold State.regenerateRow
  repeat' first | (with_reducible first | assumption | apply memWf_ite | apply rowWorking_wf | apply countRebuilt_wf | apply rowRecord_wf) | extract_lets | split | dsimp +zetaDelta only

theorem regenerate_wf {s : State} {r bank line : Nat} {d : List Byte} (hw : s.memWf) : (s.regenerate r bank line d).memWf := by
  unfold State.regenerate
  repeat' first | (with_reducible first | assumption | apply memWf_ite | apply regenerateRow_wf | apply writeWorking_wf | apply countRebuilt_wf | apply sendShardRecord_wf) | extract_lets | split | dsimp +zetaDelta only

theorem closeRebuild_wf {s : State} {r : Nat} (hw : s.memWf) : (s.closeRebuild r).memWf := by
  unfold State.closeRebuild
  repeat' first | (with_reducible first | assumption | apply memWf_ite | apply onFlt_wf) | with_reducible refine memWf_onStore ?_ (fun _ h => by first | exact h | exact wf_writeMem _ _ _ h | exact Memory.wf_set _ _ _ h) | extract_lets | split | dsimp +zetaDelta only

theorem writeRebuilt_wf {s : State} {c : RebuildChain} (hw : s.memWf) : (s.writeRebuilt c).memWf := by
  unfold State.writeRebuilt
  exact closeRebuild_wf (regenerate_wf (countRebuilt_wf (onFlt_wf (setStamp_wf (writeStore_wf hw)))))

theorem beyondSheaf_wf {s : State} {h : Sheaf} {j : Nat} (hw : s.memWf) : (s.beyondSheaf h j).memWf := by
  unfold State.beyondSheaf
  repeat' first | (with_reducible first | assumption | apply memWf_ite | apply exchangeGone_wf | apply stateLost_wf) | extract_lets | split | dsimp +zetaDelta only

theorem chainStep_wf {s : State} {h : Sheaf} {m line : Nat} {c : RebuildChain} (hw : s.memWf) : (s.chainStep h m line c).memWf := by
  unfold State.chainStep
  repeat' first | (with_reducible first | assumption | apply memWf_ite | apply beyondSheaf_wf | apply foreignLine_wf | apply fresh_wf | apply writeRebuilt_wf | apply onFlt_wf) | extract_lets | split | dsimp +zetaDelta only

theorem endFeed_wf {s : State} {h : CmdHdr} {n : U64} (hw : s.memWf) : (s.endFeed h n).memWf := by
  unfold State.endFeed
  repeat' first | (with_reducible first | assumption | apply memWf_ite | apply done0_wf | apply complete_wf | apply advance_wf) | with_reducible refine memWf_onStore ?_ (fun _ h => by first | exact h | exact wf_writeMem _ _ _ h | exact Memory.wf_set _ _ _ h) | extract_lets | split | dsimp +zetaDelta only

theorem settleFeed_wf {s : State} {x : CmdHdr × U64} (hw : s.memWf) : (s.settleFeed x).memWf := by
  unfold State.settleFeed
  repeat' first | (with_reducible first | assumption | apply memWf_ite | apply onRun_wf | apply endFeed_wf) | extract_lets | split | dsimp +zetaDelta only

theorem settleFeeds_wf {s : State} (hw : s.memWf) : (s.settleFeeds).memWf := by
  unfold State.settleFeeds
  repeat' first | (with_reducible first | assumption | apply memWf_ite | apply settleFeed_wf | refine memWf_foldl ?_ (fun _ _ _ => ?_) _) | extract_lets | split | dsimp +zetaDelta only

theorem runBatchFeed_wf {s : State} {h : CmdHdr} {n : U64} (hw : s.memWf) : (s.runBatchFeed h n).memWf := by
  unfold State.runBatchFeed
  repeat' first | (with_reducible first | assumption | apply memWf_ite | apply done0_wf | apply endFeed_wf | apply onRun_wf) | extract_lets | split | dsimp +zetaDelta only

theorem inletLost_wf {s : State} {mv : U16} (hw : s.memWf) : (s.inletLost mv).memWf := by
  unfold State.inletLost
  repeat' first | (with_reducible first | assumption | apply memWf_ite | apply onPwr_wf | apply quiesceNow_wf | apply alert_wf) | extract_lets | split | dsimp +zetaDelta only

theorem setDuties_wf {s : State} (hw : s.memWf) : (s.setDuties).memWf := memWf_step hw (setDuties_changes ..) (by decide)

theorem retireRegion_wf {s : State} {p : Nat} (hw : s.memWf) : (s.retireRegion p).memWf := memWf_step hw (retireRegion_changes ..) (by decide)

theorem badCore_wf {s : State} {p pc : Nat} (hw : s.memWf) : (s.badCore p pc).memWf := memWf_step hw (badCore_changes ..) (by decide)

theorem powerRegions_wf {s : State} (hw : s.memWf) : (s.powerRegions).memWf := memWf_step hw (powerRegions_changes ..) (by decide)

theorem powerEngines_wf {s : State} (hw : s.memWf) : (s.powerEngines).memWf := memWf_step hw (powerEngines_changes ..) (by decide)

theorem toStage_wf {s : State} {n : Nat} (hw : s.memWf) : (s.toStage n).memWf := memWf_step hw (toStage_changes ..) (by decide)

theorem export__wf {s : State} {f : ExportFrame} (hw : s.memWf) : (s.export_ f).memWf := memWf_step hw (export__changes ..) (by decide)

theorem writeRecord_wf {s : State} {kind evt merges : Nat} {mtime : U64} (hw : s.memWf) : (s.writeRecord kind evt merges mtime).memWf := memWf_step hw (writeRecord_changes ..) (by decide)

theorem sendAgain_wf {s : State} {n : Nat} {r : MeterRec} (hw : s.memWf) : (s.sendAgain n r).memWf := memWf_step hw (sendAgain_changes ..) (by decide)

theorem noteCoincidence_wf {s : State} {x : Nat × U64} (hw : s.memWf) : (s.noteCoincidence x).memWf := memWf_step hw (noteCoincidence_changes ..) (by decide)

theorem judgeSags_wf {s : State} (hw : s.memWf) : (s.judgeSags).memWf := memWf_step hw (judgeSags_changes ..) (by decide)

theorem runGroup_wf {old : State} {r c : Nat} {ch : Chain} {f g total : Nat} {q : State × VProg} (hw : q.1.memWf) : (old.runGroup r c ch f g total q).1.memWf := by
  obtain ⟨s, p⟩ := q
  have h := memWf_step hw (runLanes_changes old r c ch f (laneGroup ch (g / groupCols ch) (g % groupCols ch)) s {}) (by decide)
  unfold State.runGroup
  dsimp only
  split
  · exact h
  · exact memWf_foldl h (fun _ _ k => writeSram_wf k) _

theorem loopN_runGroup_wf {old : State} {r c : Nat} {ch : Chain} {f total n : Nat} {q : State × VProg} (hw : q.1.memWf) : (loopN (old.runGroup r c ch f · total) n q).1.memWf := by
  induction n with
  | zero => exact hw
  | succ n ih => exact runGroup_wf ih

theorem issueChain_wf {s : State} {r c i : Nat} {ch : Chain} {f : Nat} (hw : s.memWf) : (s.issueChain r c i ch f).memWf := by
  unfold State.issueChain
  extract_lets pr s1 total
  have k1 : s1.memWf := mbNote_wf (takeWaits_wf hw)
  have hq : (loopN (s1.runGroup r c ch f · total) total (s1, {})).1.memWf := loopN_runGroup_wf k1
  generalize loopN (s1.runGroup r c ch f · total) total (s1, {}) = q at hq
  obtain ⟨u, p⟩ := q
  dsimp only
  exact count_wf (count_wf (onCore_wf hq))

theorem issueTile_wf {s : State} {r c i : Nat} {o : TileOp} {f : Nat} (hw : s.memWf) : (s.issueTile r c i o f).memWf := memWf_step hw (issueTile_changes ..) (by decide)

theorem writeDrain_wf {s : State} {r c : Nat} {o : TileOp} {f : Nat} {ds : List Drained} (hw : s.memWf) : (s.writeDrain r c o f ds).memWf := by
  have key (g : Nat → State → State) (hg : ∀ n s, State.memWf s → (g n s).memWf) (n : Nat) : (loopN g n s).memWf := by
    induction n with
    | zero => exact hw
    | succ n ih => exact hg _ _ ih
  unfold State.writeDrain
  refine key _ (fun n u h => ?_) _
  split
  · exact h
  · extract_lets
    exact writeElem_wf (memWf_ite (writeElem_wf h) h)

theorem freeSet_wf {s : State} {r c : Nat} {a : AccSet} (hw : s.memWf) : (s.freeSet r c a).memWf := memWf_step hw (freeSet_changes ..) (by decide)

theorem drainSet_wf {s : State} {r c : Nat} {a : AccSet} {o : TileOp} (hw : s.memWf) : (s.drainSet r c a o).memWf := by
  unfold State.drainSet
  repeat' first | (with_reducible first | assumption | apply memWf_ite | apply writeDrain_wf | apply freeSet_wf | apply sendRecord_wf | apply sendEmits_wf | apply progress_wf) | extract_lets | split | dsimp +zetaDelta only

theorem stageChecked_wf {s : State} {i : Image} (hw : s.memWf) : (s.stageChecked i).memWf := memWf_step hw (stageChecked_changes ..) (by decide)

theorem clearMod_wf {s : State} {a : Nat} (hw : s.memWf) : (s.clearMod a).memWf := by
  unfold State.clearMod
  repeat' first | (with_reducible first | assumption | apply memWf_ite | apply onSet_wf | apply onGrd_wf | apply onNum_wf | apply onCfg_wf | apply onStg_wf | apply onFlt_wf | apply onPwr_wf | apply onPrs_wf | apply onMir_wf | apply onHq_wf) | with_reducible refine memWf_onStore ?_ (fun _ h => by first | exact h | exact wf_writeMem _ _ _ h | exact Memory.wf_set _ _ _ h) | with_reducible refine memWf_onOrc ?_ (fun _ h => by first | exact h | exact wf_writeMem _ _ _ h | exact Memory.wf_set _ _ _ h) | extract_lets | split | dsimp +zetaDelta only

theorem clearRc_wf {s : State} {a : Nat} (hw : s.memWf) : (s.clearRc a).memWf := by
  unfold State.clearRc
  repeat' first | (with_reducible first | assumption | apply memWf_ite | apply onReg_wf | apply onEng_wf | apply clearMod_wf) | extract_lets | split | dsimp +zetaDelta only

theorem guardResult_wf {s : State} {g : Guard} {code : Nat} (hw : s.memWf) : (s.guardResult g code).memWf := memWf_step hw (guardResult_changes ..) (by decide)

theorem guardWrite_wf {s : State} {g : Guard} {v : U32} (hw : s.memWf) : (s.guardWrite g v).memWf := memWf_step hw (guardWrite_changes ..) (by decide)

theorem guardAct_wf {s : State} {g : Guard} {v : U32} (hw : s.memWf) : (s.guardAct g v).memWf := by
  unfold State.guardAct
  repeat' first | (with_reducible first | assumption | apply memWf_ite | apply guardResult_wf | apply takeReport_wf) | extract_lets | split | dsimp +zetaDelta only

theorem guardConfirm_wf {s : State} {g : Guard} {comp : U32} (hw : s.memWf) : (s.guardConfirm g comp).memWf := by
  unfold State.guardConfirm
  repeat' first | (with_reducible first | assumption | apply memWf_ite | apply discardWrite_wf | apply guardAct_wf | apply guardResult_wf) | extract_lets | split | dsimp +zetaDelta only

theorem stageEpoch_wf {s : State} {a : Nat} {v : U32} {mbus : Bool} (hw : s.memWf) : (s.stageEpoch a v mbus).memWf := memWf_step hw (stageEpoch_changes ..) (by decide)

theorem writeSetting_wf {s : State} {d : RegDesc} {a : Nat} {v : U32} {mbus : Bool} (hw : s.memWf) : (s.writeSetting d a v mbus).memWf := memWf_step hw (writeSetting_changes ..) (by decide)

theorem askClock_wf {s : State} {p k flow : Nat} (hw : s.memWf) : (s.askClock p k flow).memWf := memWf_step hw (askClock_changes ..) (by decide)

theorem writeClk_wf {s : State} {v : U32} {mbus : Bool} (hw : s.memWf) : (s.writeClk v mbus).memWf := memWf_step hw (writeClk_changes ..) (by decide)

theorem writeFset_wf {s : State} {p : Nat} {v : U32} (hw : s.memWf) : (s.writeFset p v).memWf := memWf_step hw (writeFset_changes ..) (by decide)

theorem writeGrant_wf {s : State} {p : Nat} {v : U32} (hw : s.memWf) : (s.writeGrant p v).memWf := memWf_step hw (writeGrant_changes ..) (by decide)

theorem writeLock_wf {s : State} {v : U32} (hw : s.memWf) : (s.writeLock v).memWf := memWf_step hw (writeLock_changes ..) (by decide)

theorem writeDbg_wf {s : State} {v : U32} (hw : s.memWf) : (s.writeDbg v).memWf := memWf_step hw (writeDbg_changes ..) (by decide)

theorem mirrorOp_wf {s : State} {f : MirrorSt → MirrorSt} (hw : s.memWf) : (s.mirrorOp f).memWf := memWf_step hw (mirrorOp_changes ..) (by decide)

theorem writeMtrCfg_wf {s : State} {v : U32} (hw : s.memWf) : (s.writeMtrCfg v).memWf := memWf_step hw (writeMtrCfg_changes ..) (by decide)

theorem writeHqOp_wf {s : State} {v : U32} (hw : s.memWf) : (s.writeHqOp v).memWf := memWf_step hw (writeHqOp_changes ..) (by decide)

theorem writeBdmaOp_wf {s : State} {v : U32} (hw : s.memWf) : (s.writeBdmaOp v).memWf := memWf_step hw (writeBdmaOp_changes ..) (by decide)

theorem writeDoorbell_wf {s : State} {a : Nat} {v : U32} (hw : s.memWf) : (s.writeDoorbell a v).memWf := memWf_step hw (writeDoorbell_changes ..) (by decide)

theorem writeReadOnly_wf {s : State} {a : Nat} {mbus : Bool} (hw : s.memWf) : (s.writeReadOnly a mbus).memWf := memWf_step hw (writeReadOnly_changes ..) (by decide)

theorem writeNowhere_wf {s : State} {a : Nat} (hw : s.memWf) : (s.writeNowhere a).memWf := memWf_step hw (writeNowhere_changes ..) (by decide)

theorem opt_ite_wf {c : Prop} [Decidable c] {x t : State} {o : Option State} (h : (if c then some x else o) = some t) (hx : x.memWf) (ho : o = some t → t.memWf) : t.memWf := by
  split at h
  · exact Option.some.inj h ▸ hx
  · exact ho h

theorem writeSpecial_wf {s t : State} {a : Nat} {v : U32} {m : Bool} (h : s.writeSpecial a v m = some t) (hw : s.memWf) : t.memWf := by
  unfold State.writeSpecial at h
  refine opt_ite_wf h (guardWrite_wf hw) fun h => ?_
  refine opt_ite_wf h (guardConfirm_wf hw) fun h => ?_
  refine opt_ite_wf h (guardWrite_wf hw) fun h => ?_
  refine opt_ite_wf h (guardConfirm_wf hw) fun h => ?_
  refine opt_ite_wf h (guardWrite_wf hw) fun h => ?_
  refine opt_ite_wf h (guardConfirm_wf hw) fun h => ?_
  refine opt_ite_wf h (writeLock_wf hw) fun h => ?_
  refine opt_ite_wf h (writeCons_wf hw) fun h => ?_
  refine opt_ite_wf h (writeHqOp_wf hw) fun h => ?_
  refine opt_ite_wf h (writeBdmaOp_wf hw) fun h => ?_
  refine opt_ite_wf h (writeClk_wf hw) fun h => ?_
  refine opt_ite_wf h (writeMtrCfg_wf hw) fun h => ?_
  refine opt_ite_wf h (writeDbg_wf hw) fun h => ?_
  refine opt_ite_wf h (writeDoorbell_wf hw) fun h => ?_
  split at h
  · refine opt_ite_wf h (writeFset_wf hw) fun h => ?_
    exact opt_ite_wf h (writeGrant_wf hw) (fun h => absurd h (by simp))
  · cases h

theorem writeReg_wf {s : State} {a : Nat} {v : U32} {m : Bool} (hw : s.memWf) : (s.writeReg a v m).memWf := by
  unfold State.writeReg
  split
  · exact discardWrite_wf hw
  · split
    · rename_i h; exact writeSpecial_wf h hw
    · split
      · exact writeSetting_wf hw
      · exact memWf_ite (writeReadOnly_wf hw) (writeNowhere_wf hw)

theorem rejectAccess_wf {s : State} (hw : s.memWf) : (s.rejectAccess).memWf := memWf_step hw (rejectAccess_changes ..) (by decide)

theorem loseStaged_wf {s : State} {a : Nat} (hw : s.memWf) : (s.loseStaged a).memWf := memWf_step hw (loseStaged_changes ..) (by decide)

theorem reloadCopy_wf {s : State} {a : Nat} (hw : s.memWf) : (s.reloadCopy a).memWf := memWf_step hw (reloadCopy_changes ..) (by decide)

theorem putExchange_wf {s : State} {r bank line : Nat} {d : List Byte} (hw : s.memWf) : (s.putExchange r bank line d).memWf := by
  unfold State.putExchange
  repeat' first | (with_reducible first | assumption | apply memWf_ite | apply writeExchange_wf) | extract_lets | split | dsimp +zetaDelta only

theorem writeCopies_wf {s : State} (hw : s.memWf) : (s.writeCopies).memWf := by
  unfold State.writeCopies
  repeat' first | (with_reducible first | assumption | apply memWf_ite | apply putExchange_wf | refine memWf_foldl ?_ (fun _ _ _ => ?_) _) | extract_lets | split | dsimp +zetaDelta only

theorem takeChunk_wf {s : State} {reshard : Bool} {ioff : U64} {data : List Byte} (hw : s.memWf) : (s.takeChunk reshard ioff data).memWf := by
  unfold State.takeChunk
  repeat' first | (with_reducible first | assumption | apply memWf_ite | apply onStg_wf | apply writeCopies_wf) | extract_lets | split | dsimp +zetaDelta only

theorem runStage_wf {s : State} {reshard : Bool} {h : CmdHdr} {haddr : U64} {hlen : U32} {ioff : U64} (hw : s.memWf) : (s.runStage reshard h haddr hlen ioff).memWf := by
  unfold State.runStage
  repeat' first | (with_reducible first | assumption | apply memWf_ite | apply done0_wf | apply takeChunk_wf) | extract_lets | split | dsimp +zetaDelta only

theorem runCheck_wf {s : State} {h : CmdHdr} (hw : s.memWf) : (s.runCheck h).memWf := memWf_step hw (runCheck_changes ..) (by decide)

theorem stopCheck_wf {s : State} (hw : s.memWf) : (s.stopCheck).memWf := memWf_step hw (stopCheck_changes ..) (by decide)

theorem runAbandon_wf {s : State} {h : CmdHdr} (hw : s.memWf) : (s.runAbandon h).memWf := memWf_step hw (runAbandon_changes ..) (by decide)

theorem acceptArm_wf {s : State} {h : CmdHdr} {b : U64} {e : U32} (hw : s.memWf) : (s.acceptArm h b e).memWf := by
  unfold State.acceptArm
  repeat' first | (with_reducible first | assumption | apply memWf_ite | apply onStg_wf | apply startApply_wf | apply abandonStep_wf | apply advance_wf | apply onRun_wf | apply done0_wf) | extract_lets | split | dsimp +zetaDelta only

theorem runArm_wf {s : State} {h : CmdHdr} {b : U64} {e : U32} {haddr : U64} (hw : s.memWf) : (s.runArm h b e haddr).memWf := by
  unfold State.runArm
  repeat' first | (with_reducible first | assumption | apply memWf_ite | apply done0_wf | apply onStg_wf | apply acceptArm_wf) | extract_lets | split | dsimp +zetaDelta only

theorem releaseHold_wf {s : State} (hw : s.memWf) : (s.releaseHold).memWf := memWf_step hw (releaseHold_changes ..) (by decide)

theorem replayHeld_wf {s : State} (hw : s.memWf) : (s.replayHeld).memWf := memWf_step hw (replayHeld_changes ..) (by decide)

theorem runStep_wf {s : State} {h : CmdHdr} {limit : U64} (hw : s.memWf) : (s.runStep h limit).memWf := by
  unfold State.runStep
  repeat' first | (with_reducible first | assumption | apply memWf_ite | apply done0_wf | apply onRun_wf | apply replayHeld_wf | apply releaseHold_wf | apply advance_wf) | extract_lets | split | dsimp +zetaDelta only

theorem holdResults_wf {s : State} {h : CmdHdr} (hw : s.memWf) : (s.holdResults h).memWf := memWf_step hw (holdResults_changes ..) (by decide)

theorem waitHold_wf {s : State} {h : CmdHdr} {at_ : Byte} (hw : s.memWf) : (s.waitHold h at_).memWf := memWf_step hw (waitHold_changes ..) (by decide)

theorem askStop_wf {s : State} (hw : s.memWf) : (s.askStop).memWf := memWf_step hw (askStop_changes ..) (by decide)

theorem runHold_wf {s : State} {h : CmdHdr} {at_ : Byte} (hw : s.memWf) : (s.runHold h at_).memWf := by
  unfold State.runHold
  repeat' first | (with_reducible first | assumption | apply memWf_ite | apply done0_wf | apply holdResults_wf | apply askStop_wf | apply waitHold_wf | apply advance_wf | apply onRun_wf | apply triggerHold_wf) | extract_lets | split | dsimp +zetaDelta only

theorem runReset_wf {s : State} {h : CmdHdr} (hw : s.memWf) : (s.runReset h).memWf := by
  unfold State.runReset
  repeat' first | (with_reducible first | assumption | apply memWf_ite | apply done0_wf | apply endCommands_wf | apply onRun_wf | apply computeReset_wf) | extract_lets | split | dsimp +zetaDelta only

theorem runIdentify_wf {s : State} {h : CmdHdr} {haddr : U64} (hw : s.memWf) : (s.runIdentify h haddr).memWf := by
  unfold State.runIdentify
  repeat' first | (with_reducible first | assumption | apply memWf_ite | apply done0_wf | apply writeHost_wf) | extract_lets | split | dsimp +zetaDelta only

theorem runAttest_wf {s : State} {h : CmdHdr} {haddr : U64} {nonce : BitVec 256} {hlen : U32} (hw : s.memWf) : (s.runAttest h haddr nonce hlen).memWf := by
  unfold State.runAttest
  repeat' first | (with_reducible first | assumption | apply memWf_ite | apply done0_wf | apply writeHost_wf | apply complete_wf) | extract_lets | split | dsimp +zetaDelta only

theorem runHealthRead_wf {s : State} {h : CmdHdr} {haddr : U64} {sel : Byte} {fromSeq count : U32} (hw : s.memWf) : (s.runHealthRead h haddr sel fromSeq count).memWf := by
  unfold State.runHealthRead
  repeat' first | (with_reducible first | assumption | apply memWf_ite | apply done0_wf | apply writeHost_wf | apply complete_wf) | extract_lets | split | dsimp +zetaDelta only

theorem runLinkStatus_wf {s : State} {h : CmdHdr} {haddr : U64} {engmask : U16} (hw : s.memWf) : (s.runLinkStatus h haddr engmask).memWf := by
  unfold State.runLinkStatus
  repeat' first | (with_reducible first | assumption | apply memWf_ite | apply done0_wf | apply writeHost_wf) | extract_lets | split | dsimp +zetaDelta only

theorem runRingRead_wf {s : State} {h : CmdHdr} {haddr : U64} {maxN : U16} {adv : Byte} (hw : s.memWf) : (s.runRingRead h haddr maxN adv).memWf := by
  unfold State.runRingRead
  repeat' first | (with_reducible first | assumption | apply memWf_ite | apply done0_wf | apply writeHost_wf | apply onNum_wf | apply complete_wf) | extract_lets | split | dsimp +zetaDelta only

theorem runMirrorRead_wf {s : State} {h : CmdHdr} {haddr fromSeq : U64} {count : U32} (hw : s.memWf) : (s.runMirrorRead h haddr fromSeq count).memWf := by
  unfold State.runMirrorRead
  repeat' first | (with_reducible first | assumption | apply memWf_ite | apply done0_wf | apply writeHost_wf | apply complete_wf) | extract_lets | split | dsimp +zetaDelta only

theorem runPartnerSet_wf {s : State} {h : CmdHdr} {ps : List (U16 × U32)} (hw : s.memWf) : (s.runPartnerSet h ps).memWf := memWf_step hw (runPartnerSet_changes ..) (by decide)

theorem runDomainSet_wf {s : State} {h : CmdHdr} {own : U16} {ds : List (U16 × U16)} (hw : s.memWf) : (s.runDomainSet h own ds).memWf := memWf_step hw (runDomainSet_changes ..) (by decide)

theorem keysChanged_wf {s : State} (hw : s.memWf) : (s.keysChanged).memWf := memWf_step hw (keysChanged_changes ..) (by decide)

theorem runEnrol_wf {s : State} {h : CmdHdr} {haddr : U64} {slot : Byte} (hw : s.memWf) : (s.runEnrol h haddr slot).memWf := memWf_step hw (runEnrol_changes ..) (by decide)

theorem runLock_wf {s : State} {h : CmdHdr} {mask : U32} (hw : s.memWf) : (s.runLock h mask).memWf := memWf_step hw (runLock_changes ..) (by decide)

theorem runParamRead_wf {s : State} {h : CmdHdr} {haddr : U64} {lregion copy : Byte} {shard : U16} {fline nln : U32} (hw : s.memWf) : (s.runParamRead h haddr lregion copy shard fline nln).memWf := by
  unfold State.runParamRead
  repeat' first | (with_reducible first | assumption | apply memWf_ite | apply done0_wf | apply writeHost_wf | apply complete_wf) | extract_lets | split | dsimp +zetaDelta only

theorem writeParam_wf {s : State} {r : Nat} {sh : Shard} {c j : Nat} {d : List Byte} (hw : s.memWf) : (s.writeParam r sh c j d).memWf := by
  unfold State.writeParam
  repeat' first | (with_reducible first | assumption | apply memWf_ite | apply writeMaster_wf | apply writeLinePart_wf | apply writeCopy_wf) | with_reducible refine memWf_onStore ?_ (fun _ h => by first | exact h | exact wf_writeMem _ _ _ h | exact Memory.wf_set _ _ _ h) | extract_lets | split | dsimp +zetaDelta only

theorem writeParams_wf {s : State} {r k : Nat} {sh : Shard} {c j n : Nat} {b : List Byte} (hw : s.memWf) : (s.writeParams r k sh c j n b).memWf := by
  unfold State.writeParams
  repeat' first | (with_reducible first | assumption | apply memWf_ite | apply writeParam_wf | apply sendShardRecord_wf | refine memWf_foldl ?_ (fun _ _ _ => ?_) _) | extract_lets | split | dsimp +zetaDelta only

theorem runParamWrite_wf {s : State} {h : CmdHdr} {haddr : U64} {lregion copy : Byte} {shard : U16} {fline nln : U32} (hw : s.memWf) : (s.runParamWrite h haddr lregion copy shard fline nln).memWf := by
  unfold State.runParamWrite
  repeat' first | (with_reducible first | assumption | apply memWf_ite | apply done0_wf | apply writeParams_wf | apply complete_wf) | extract_lets | split | dsimp +zetaDelta only

theorem flushOrchard_wf {s : State} (hw : s.memWf) : (s.flushOrchard).memWf := by
  unfold State.flushOrchard
  repeat' first | (with_reducible first | assumption | apply memWf_ite | apply writeBack_wf | refine memWf_foldl ?_ (fun _ _ _ => ?_) _) | extract_lets | split | dsimp +zetaDelta only

theorem writeStaging_wf {s : State} {k : Nat} {b : List Byte} (hw : s.memWf) : (s.writeStaging k b).memWf := by
  unfold State.writeStaging
  repeat' first | (with_reducible first | assumption | apply memWf_ite | apply writeExchange_wf | refine memWf_foldl ?_ (fun _ _ _ => ?_) _) | extract_lets | split | dsimp +zetaDelta only

theorem runExport_wf {s : State} {h : CmdHdr} {haddr : U64} {dest flush : Byte} {hlen : U64} (hw : s.memWf) : (s.runExport h haddr dest flush hlen).memWf := by
  unfold State.runExport
  repeat' first | (with_reducible first | assumption | apply memWf_ite | apply done0_wf | apply flushOrchard_wf | apply writeHost_wf | apply writeStaging_wf | apply complete_wf) | extract_lets | split | dsimp +zetaDelta only

theorem ckWrite_wf {s : State} {b : List Byte} {p : Nat × Nat × Nat × Shard} (hw : s.memWf) : (s.ckWrite b p).memWf := by
  have key : ∀ (f : State × Nat → Nat → State × Nat) (_ : ∀ a c, a.1.memWf → (f a c).1.memWf) (xs : List Nat) (a : State × Nat), a.1.memWf → (xs.foldl f a).1.memWf := by
    intro f hf xs
    induction xs with
    | nil => exact fun a h => h
    | cons x xs ih => exact fun a h => ih _ (hf a x h)
  exact key (fun (a : State × Nat) c => (a.1.writeParams p.2.1 p.2.2.1 p.2.2.2 c 0 (a.1.paramLines p.2.1 p.2.2.2 c).length (b.drop a.2), a.2 + 2048 * (a.1.paramLines p.2.1 p.2.2.2 c).length))
    (fun _ _ h => writeParams_wf h) _ (s, p.1 + 16) hw

theorem restoreScale_wf {s : State} {v : Nat} (hw : s.memWf) : (s.restoreScale v).memWf := memWf_step hw (restoreScale_changes ..) (by decide)

theorem runImport_wf {s : State} {h : CmdHdr} {haddr : U64} {src : Byte} {sline : U32} {hlen : U64} (hw : s.memWf) : (s.runImport h haddr src sline hlen).memWf := by
  unfold State.runImport
  repeat' first | (with_reducible first | assumption | apply memWf_ite | apply done0_wf | apply ckWrite_wf | apply restoreScale_wf | apply complete_wf | refine memWf_foldl ?_ (fun _ _ _ => ?_) _) | extract_lets | split | dsimp +zetaDelta only

theorem runLaneOp_wf {s : State} {x : InHand} (hw : s.memWf) : (s.runLaneOp x).memWf := by
  unfold State.runLaneOp
  repeat' first | (with_reducible first | assumption | apply memWf_ite | apply runStage_wf | apply runCheck_wf | apply runArm_wf | apply runAbandon_wf | apply runStep_wf | apply runParamRead_wf | apply runParamWrite_wf | apply runExport_wf | apply runImport_wf | apply runPartnerSet_wf | apply runDomainSet_wf | apply runEnrol_wf | apply runLock_wf) | extract_lets | split | dsimp +zetaDelta only

theorem runOtherOp_wf {s : State} {x : InHand} (hw : s.memWf) : (s.runOtherOp x).memWf := by
  unfold State.runOtherOp
  repeat' first | (with_reducible first | assumption | apply memWf_ite | apply runIdentify_wf | apply runAttest_wf | apply runHealthRead_wf | apply runLinkStatus_wf | apply runHold_wf | apply runBatchFeed_wf | apply runReset_wf | apply runRingRead_wf | apply runMirrorRead_wf) | extract_lets | split | dsimp +zetaDelta only

theorem runEntryOp_wf {s : State} {x : InHand} (hw : s.memWf) : (s.runEntryOp x).memWf := by
  unfold State.runEntryOp
  repeat' first | (with_reducible first | assumption | apply memWf_ite | apply done0_wf | apply onRun_wf | apply runLaneOp_wf | apply runOtherOp_wf) | extract_lets | split | dsimp +zetaDelta only

theorem acceptEntry_wf {s : State} {x : InHand} (hw : s.memWf) : (s.acceptEntry x).memWf := by
  unfold State.acceptEntry
  repeat' first | (with_reducible first | assumption | apply memWf_ite | apply onRun_wf | apply runEntryOp_wf | apply done0_wf) | extract_lets | split | dsimp +zetaDelta only

/-- Where a command answers a next state, that state has its memories in canonical form. -/
def keepsWf (a : Ans) : Prop := ∀ t, a = .next t → t.memWf

theorem keepsWf_next {u : State} (h : u.memWf) : keepsWf (.next u) := fun _ e => Host.Outcome.next.inj e ▸ h

theorem keepsWf_fault (f : Fault) : keepsWf (.fault f) := fun _ e => by cases e

theorem keepsWf_refused (f : Refusal) : keepsWf (.refused f) := fun _ e => by cases e

theorem keepsWf_ite {a b : Ans} {c : Prop} [Decidable c] (h : keepsWf a) (g : keepsWf b) : keepsWf (if c then a else b) := by split <;> assumption

theorem lineFound_wf {s : State} {p bank line : Nat} (hw : s.memWf) : (s.lineFound p bank line).memWf := memWf_step hw (lineFound_changes ..) (by decide)

theorem execScrub_wf (r : Region) (bank : Core) (line : Nat) (found : EccRead) (s : State) (hw : s.memWf) : keepsWf (execScrub r bank line found s) := by
  unfold execScrub
  repeat' first | (with_reducible first | assumption | exact keepsWf_fault .. | exact keepsWf_refused .. | apply keepsWf_next | apply memWf_ite | apply keepsWf_ite | apply corrected_wf | apply lineFound_wf) | with_reducible refine memWf_onStore ?_ (fun _ h => by first | exact h | exact wf_writeMem _ _ _ h | exact Memory.wf_set _ _ _ h) | extract_lets | split | dsimp +zetaDelta only

theorem mendLine_wf {s : State} {r bank line : Nat} {d : List Byte} {st : Byte} (hw : s.memWf) : (s.mendLine r bank line d st).memWf := by
  unfold State.mendLine
  repeat' first | (with_reducible first | assumption | apply memWf_ite | apply writeStore_wf | apply setStamp_wf | apply regenerateRow_wf | apply writeWorking_wf | apply sendShardRecord_wf) | extract_lets | split | dsimp +zetaDelta only

theorem mendWorking_wf {s t : State} {r bank line : Nat} (h : s.mendWorking r bank line = some t) (hw : s.memWf) : t.memWf := by
  unfold State.mendWorking at h
  split at h
  · cases h; exact writeStore_wf hw
  · obtain ⟨x, -, rfl⟩ := Option.map_eq_some_iff.mp h
    exact rowWorking_wf hw

theorem recoverLine_wf {s : State} {r bank line : Nat} (hw : s.memWf) : (s.recoverLine r bank line).1.memWf := by
  unfold State.recoverLine
  have hf : (let (d, s) := s.foreignLine; let (st, s) := s.fresh; s.mendLine r bank line d (BitVec.ofNat 8 st) : State).memWf := mendLine_wf (fresh_wf (foreignLine_wf hw))
  dsimp only
  split
  · split
    · split
      · exact hw
      · split
        · exact hf
        · exact beyondSheaf_wf hw
    · exact mendLine_wf hw
  · split
    · exact mendWorking_wf (by assumption) hw
    · split
      · exact hf
      · exact hw

theorem execLineRecovered_wf (r : Region) (bank : Core) (line : Nat) (s : State) (hw : s.memWf) : keepsWf (execLineRecovered r bank line s) := by
  unfold execLineRecovered
  extract_lets k lr x
  have h1 : x.1.memWf := by
    have hx : ∀ o : Option Nat, (match o with | none => (s, Mend.done false) | some l => s.recoverLine l bank line : State × Mend).1.memWf := by
      intro o
      cases o with
      | none => exact hw
      | some l => exact recoverLine_wf hw
    exact hx lr
  have h2 (again : Bool) (rk : Nat) : (x.1.onStore fun t =>
      let t := t.eccEvent r bank
      { t with bad := t.bad.filter (· ≠ k), eccUnc := true, rebuild := if again then sat32 t.rebuild 1 else t.rebuild
               remapDue := if t.remapDue.contains rk then t.remapDue else t.remapDue ++ [rk]
               dueSince := if t.remapDue.contains rk then t.dueSince else t.dueSince.set 0 rk x.1.time.toNat }).memWf :=
    memWf_onStore h1 fun y hy => by rw [← eccEvent_mem y r bank] at hy; exact hy
  refine keepsWf_ite (keepsWf_ite ?_ (keepsWf_next hw)) (keepsWf_next hw)
  split
  · exact keepsWf_next (memWf_ite (onBat_wf (memWf_ite (h2 _ _) (logHealth_wf (h2 _ _)))) (memWf_ite (h2 _ _) (logHealth_wf (h2 _ _))))
  · exact keepsWf_next h1

theorem execDramRowRemap_wf (r : Region) (bank : Core) (row : Nat) (s : State) (hw : s.memWf) : keepsWf (execDramRowRemap r bank row s) := by
  unfold execDramRowRemap
  repeat' first | (with_reducible first | assumption | exact keepsWf_fault .. | exact keepsWf_refused .. | apply keepsWf_next | apply memWf_ite | apply keepsWf_ite | apply logHealth_wf) | with_reducible refine memWf_onStore ?_ (fun _ h => by first | exact h | exact wf_writeMem _ _ _ h | exact Memory.wf_set _ _ _ h) | extract_lets | split | dsimp +zetaDelta only

theorem execBeatTableEntry_wf (r : Region) (c : Core) (err : LinkErr) (s : State) (hw : s.memWf) : keepsWf (execBeatTableEntry r c err s) := by
  unfold execBeatTableEntry
  repeat' first | (with_reducible first | assumption | exact keepsWf_fault .. | exact keepsWf_refused .. | apply keepsWf_next | apply memWf_ite | apply keepsWf_ite | apply illegal_wf | apply passEntry_wf | apply runEntry_wf) | extract_lets | split | dsimp +zetaDelta only

theorem makeRoom_wf {s t : State} {r : Nat} {b : OrcTable} {o : Nat × Nat × Nat × Nat} {x : Nat} (h : s.makeRoom r b o = some (x, t)) (hw : s.memWf) : t.memWf := by
  unfold State.makeRoom at h
  dsimp only at h
  split at h
  · cases h; exact hw
  · split at h
    · cases h
    · simp only [Option.some.injEq, Prod.mk.injEq] at h
      obtain ⟨-, rfl⟩ := h
      exact memWf_onOrc (memWf_ite (writeBack_wf hw) hw) fun _ h => h

theorem orcProgress_wf {s : State} {r : Nat} {t : OrcTable} {o : Nat × Nat × Nat × Nat} {n : Nat} (hw : s.memWf) : (s.orcProgress r t o n).memWf := by
  induction n generalizing s with
  | zero => exact hw
  | succ n ih =>
    unfold State.orcProgress
    dsimp only
    split
    · exact ih (onLreg_wf (sendEmits_wf (memWf_foldl hw (fun _ _ h => writeVectors_wf h) _)))
    · exact hw

theorem execOrchardRowPrepare_wf (r : Region) (table : Fin 64) (row : U32) (s : State) (hw : s.memWf) : keepsWf (execOrchardRowPrepare r table row s) := by
  unfold execOrchardRowPrepare
  split
  · exact keepsWf_next hw
  · split
    · exact keepsWf_next hw
    · refine keepsWf_ite (keepsWf_next hw) (keepsWf_ite (keepsWf_next (orcProgress_wf hw)) (keepsWf_ite ?_ (keepsWf_next hw)))
      split
      · exact keepsWf_next (orcProgress_wf (memWf_onOrc hw fun _ h => h))
      · refine keepsWf_ite (keepsWf_next hw) ?_
        split
        · exact keepsWf_next hw
        · rename_i h
          exact keepsWf_next (noteWear_wf (memWf_onOrc (makeRoom_wf h hw) fun _ h => h))

theorem execOrchardFillComplete_wf (r : Region) (table : Fin 64) (row : U32) (s : State) (hw : s.memWf) : keepsWf (execOrchardFillComplete r table row s) := by
  unfold execOrchardFillComplete
  split
  · split
    · exact keepsWf_next hw
    · exact keepsWf_next (orcProgress_wf (memWf_onOrc (rowRecord_wf (rowWorking_wf (memWf_foldl hw (fun _ _ h => writeLinePart_wf h) _))) fun _ h => h))
  · exact keepsWf_next hw

theorem execOrchardFillTimeout_wf (r : Region) (table : Fin 64) (row : U32) (s : State) (hw : s.memWf) : keepsWf (execOrchardFillTimeout r table row s) := by
  unfold execOrchardFillTimeout
  repeat' first | (with_reducible first | assumption | exact keepsWf_fault .. | exact keepsWf_refused .. | apply keepsWf_next | apply memWf_ite | apply keepsWf_ite | apply logHealth_wf | apply fresh_wf | apply loseDie_wf) | extract_lets | split | dsimp +zetaDelta only

theorem execFlashDieLost_wf (die : Fin 4) (s : State) (hw : s.memWf) : keepsWf (execFlashDieLost die s) := by
  unfold execFlashDieLost
  repeat' first | (with_reducible first | assumption | exact keepsWf_fault .. | exact keepsWf_refused .. | apply keepsWf_next | apply memWf_ite | apply keepsWf_ite | apply loseDie_wf) | extract_lets | split | dsimp +zetaDelta only

theorem execRemoteOperationApply_wf (t : Target) (s : State) (hw : s.memWf) : keepsWf (execRemoteOperationApply t s) := by
  unfold execRemoteOperationApply
  split
  · split
    · exact keepsWf_next hw
    · exact keepsWf_next (opAtCore_wf (memWf_step hw (takeCore_changes (by assumption)) (by decide)))
  · split
    · exact keepsWf_next hw
    · exact keepsWf_next (applyStore_wf (fun _ _ h => sendStore_wf h) (memWf_step hw (takeOrdered_changes (by assumption)) (by decide)))
  · split
    · exact keepsWf_next hw
    · refine keepsWf_ite (keepsWf_next hw) (keepsWf_ite (keepsWf_next (progress_wf (applyStore_wf (fun _ _ h => onCore_wf h) (memWf_ite (countL_wf (onCore_wf hw)) (onCore_wf hw))))) (keepsWf_next (progress_wf (applyStore_wf (fun _ _ h => onCore_wf h) (onCore_wf hw)))))

theorem execGetDataArrival_wf (r : Region) (c : Core) (s : State) (hw : s.memWf) : keepsWf (execGetDataArrival r c s) := by
  unfold execGetDataArrival
  repeat' first | (with_reducible first | assumption | exact keepsWf_fault .. | exact keepsWf_refused .. | apply keepsWf_next | refine memWf_step ?_ (takeCore_changes (by assumption)) (by decide) | apply memWf_ite | apply keepsWf_ite | apply writeSram_wf | apply finishOp_wf | apply onCtx_wf) | extract_lets | split | dsimp +zetaDelta only

theorem execCompareAndSwapResult_wf (r : Region) (c : Core) (s : State) (hw : s.memWf) : keepsWf (execCompareAndSwapResult r c s) := by
  unfold execCompareAndSwapResult
  repeat' first | (with_reducible first | assumption | exact keepsWf_fault .. | exact keepsWf_refused .. | apply keepsWf_next | refine memWf_step ?_ (takeCore_changes (by assumption)) (by decide) | apply memWf_ite | apply keepsWf_ite | apply writeSram_wf | apply finishOp_wf) | extract_lets | split | dsimp +zetaDelta only

theorem execContributionArrival_wf (r : Region) (s : State) (hw : s.memWf) : keepsWf (execContributionArrival r s) := by
  unfold execContributionArrival
  repeat' first | (with_reducible first | assumption | exact keepsWf_fault .. | exact keepsWf_refused .. | apply keepsWf_next | refine memWf_step ?_ (takeStore_changes (by assumption)) (by decide) | apply memWf_ite | apply keepsWf_ite | apply contribute_wf) | extract_lets | split | dsimp +zetaDelta only

theorem execShardUpdate_wf (r : Region) (k : Fin 4096) (s : State) (hw : s.memWf) : keepsWf (execShardUpdate r k s) := by
  unfold execShardUpdate
  repeat' first | (with_reducible first | assumption | exact keepsWf_fault .. | exact keepsWf_refused .. | apply keepsWf_next | apply memWf_ite | apply keepsWf_ite | apply takeSiWaits_wf | apply endShard_wf | apply onPrs_wf | apply sendShardRecord_wf | apply updateShard_wf | apply compareFps_wf) | extract_lets | split | dsimp +zetaDelta only

theorem execHeldShardUpdate_wf (r : Region) (k : Fin 4096) (s : State) (hw : s.memWf) : keepsWf (execHeldShardUpdate r k s) := by
  unfold execHeldShardUpdate
  repeat' first | (with_reducible first | assumption | exact keepsWf_fault .. | exact keepsWf_refused .. | apply keepsWf_next | apply memWf_ite | apply keepsWf_ite | apply takeSiWaits_wf | apply endShard_wf | apply updateShard_wf | apply compareFps_wf) | extract_lets | split | dsimp +zetaDelta only

theorem execStampRefresh_wf (r : Region) (s : State) (hw : s.memWf) : keepsWf (execStampRefresh r s) := by
  unfold execStampRefresh
  repeat' first | (with_reducible first | assumption | exact keepsWf_fault .. | exact keepsWf_refused .. | apply keepsWf_next | apply memWf_ite | apply keepsWf_ite | apply writeLinePart_wf | apply onLreg_wf | refine memWf_foldl ?_ (fun _ _ _ => ?_) _) | extract_lets | split | dsimp +zetaDelta only

theorem execFingerprintArrival_wf (m : U16) (r : Region) (k : Fin 4096) (stepNo : U64) (fp : BitVec 128) (s : State) (hw : s.memWf) : keepsWf (execFingerprintArrival m r k stepNo fp s) := by
  unfold execFingerprintArrival
  repeat' first | (with_reducible first | assumption | exact keepsWf_fault .. | exact keepsWf_refused .. | apply keepsWf_next | apply memWf_ite | apply keepsWf_ite | apply onPrs_wf | apply compareFps_wf) | extract_lets | split | dsimp +zetaDelta only

theorem flushHold_wf {s : State} {k : Nat} {x : Desc} {last : Bool} (hw : s.memWf) : (s.flushHold k x last).memWf := by
  unfold State.flushHold
  repeat' first | (with_reducible first | assumption | apply memWf_ite | apply chanWrite_wf | apply onChan_wf) | extract_lets | split | dsimp +zetaDelta only

theorem execDmaReadData_wf (ch : Chan) (s : State) (hw : s.memWf) : keepsWf (execDmaReadData ch s) := by
  unfold execDmaReadData
  repeat' first | (with_reducible first | assumption | exact keepsWf_fault .. | exact keepsWf_refused .. | apply keepsWf_next | apply memWf_ite | apply keepsWf_ite | apply noteMover_wf | apply onChan_wf | apply flushHold_wf | apply chanWrite_wf | apply askMore_wf) | extract_lets | split | dsimp +zetaDelta only

theorem execDmaWriteArrival_wf (t : Target) (s : State) (hw : s.memWf) : keepsWf (execDmaWriteArrival t s) := by
  unfold execDmaWriteArrival
  repeat' first | (with_reducible first | assumption | exact keepsWf_fault .. | exact keepsWf_refused .. | apply keepsWf_next | refine memWf_step ?_ (takeStore_changes (by assumption)) (by decide) | refine memWf_step ?_ (takeCore_changes (by assumption)) (by decide) | apply memWf_ite | apply keepsWf_ite | apply writeSram_wf | apply arriveTok_wf | apply sendCore_wf | apply rejectDma_wf | apply resDiscard_wf | apply sendStore_wf | apply writeExchange_wf | apply addSiCtr_wf) | extract_lets | split | dsimp +zetaDelta only

theorem execDescriptorComplete_wf (ch : Chan) (s : State) (hw : s.memWf) : keepsWf (execDescriptorComplete ch s) := by
  unfold execDescriptorComplete
  repeat' first | (with_reducible first | assumption | exact keepsWf_fault .. | exact keepsWf_refused .. | apply keepsWf_next | apply memWf_ite | apply keepsWf_ite | apply writeSram_wf | apply onChan_wf | apply onReg_wf | apply illegal_wf | apply sendEmits_wf | apply onHq_wf) | extract_lets | split | dsimp +zetaDelta only

theorem execPacketForward_wf (router : Fin 1344) (out : Fin 7) (err : LinkErr) (s : State) (hw : s.memWf) : keepsWf (execPacketForward router out err s) := by
  unfold execPacketForward
  repeat' first | (with_reducible first | assumption | exact keepsWf_fault .. | exact keepsWf_refused .. | apply keepsWf_next | apply memWf_ite | apply keepsWf_ite | apply inject_wf | apply count_wf | apply retryOutput_wf | apply noteSent_wf | apply cross_wf | apply netEvent_wf) | extract_lets | split | dsimp +zetaDelta only

theorem execFaultReport_wf (src : FaultSource) (s : State) (hw : s.memWf) : keepsWf (execFaultReport src s) := by
  unfold execFaultReport
  repeat' first | (with_reducible first | assumption | exact keepsWf_fault .. | exact keepsWf_refused .. | apply keepsWf_next | apply memWf_ite | apply keepsWf_ite | apply takeReport_wf | apply onBat_wf) | extract_lets | split | dsimp +zetaDelta only

theorem execIllegalOperationReport_wf (i : Nat) (digestOk : Bool) (s : State) (hw : s.memWf) : keepsWf (execIllegalOperationReport i digestOk s) := by
  unfold execIllegalOperationReport
  repeat' first | (with_reducible first | assumption | exact keepsWf_fault .. | exact keepsWf_refused .. | apply keepsWf_next | apply memWf_ite | apply keepsWf_ite | apply onBat_wf | apply imageFault_wf | apply onLreg_wf | apply possibleFault_wf) | extract_lets | split | dsimp +zetaDelta only

theorem execStepCommit_wf (s : State) (hw : s.memWf) : keepsWf (execStepCommit s) := by
  unfold execStepCommit
  repeat' first | (with_reducible first | assumption | exact keepsWf_fault .. | exact keepsWf_refused .. | apply keepsWf_next | apply memWf_ite | apply keepsWf_ite | apply updateScale_wf | apply onPrs_wf | apply onLregs_wf | apply postEvent_wf | apply onRun_wf | apply clearStep_wf | apply endRerun_wf | apply boundarySnap_wf | apply afterCommit_wf) | with_reducible refine memWf_onStore ?_ (fun _ h => by first | exact h | exact wf_writeMem _ _ _ h | exact Memory.wf_set _ _ _ h) | extract_lets | split | dsimp +zetaDelta only

theorem execCommitToken_wf (r : Region) (s : State) (hw : s.memWf) : keepsWf (execCommitToken r s) := by
  unfold execCommitToken
  repeat' first | (with_reducible first | assumption | exact keepsWf_fault .. | exact keepsWf_refused .. | apply keepsWf_next | apply memWf_ite | apply keepsWf_ite | apply onRun_wf | apply takeToken_wf) | extract_lets | split | dsimp +zetaDelta only

theorem execMoveBegin_wf (r : Region) (k : Fin 4096) (s : State) (hw : s.memWf) : keepsWf (execMoveBegin r k s) := by
  unfold execMoveBegin
  repeat' first | (with_reducible first | assumption | exact keepsWf_fault .. | exact keepsWf_refused .. | apply keepsWf_next | apply memWf_ite | apply keepsWf_ite | apply moveLines_wf | apply onCfg_wf) | extract_lets | split | dsimp +zetaDelta only

theorem execMoveComplete_wf (r : Region) (k : Fin 4096) (s : State) (hw : s.memWf) : keepsWf (execMoveComplete r k s) := by
  unfold execMoveComplete
  repeat' first | (with_reducible first | assumption | exact keepsWf_fault .. | exact keepsWf_refused .. | apply keepsWf_next | apply memWf_ite | apply keepsWf_ite | apply foreignLine_wf | apply writeLinePart_wf | apply sendShardRecord_wf | apply sendEmits_wf | apply onCfg_wf | apply event_wf | apply advance_wf) | extract_lets | split | dsimp +zetaDelta only

theorem execCompletionEntryWrite_wf (q : Fin 32768) (s : State) (hw : s.memWf) : keepsWf (execCompletionEntryWrite q s) := by
  unfold execCompletionEntryWrite
  repeat' first | (with_reducible first | assumption | exact keepsWf_fault .. | exact keepsWf_refused .. | apply keepsWf_next | apply memWf_ite | apply keepsWf_ite | apply writeHost_wf | apply onHq_wf | apply itemWritten_wf | apply sendMsix_wf) | extract_lets | split | dsimp +zetaDelta only

theorem execGoToken_wf (s : State) (hw : s.memWf) : keepsWf (execGoToken s) := by
  unfold execGoToken
  repeat' first | (with_reducible first | assumption | exact keepsWf_fault .. | exact keepsWf_refused .. | apply keepsWf_next | apply memWf_ite | apply keepsWf_ite | apply emptyStage_wf | apply applyImage_wf | apply writeCopies_wf | apply releaseHeld_wf | apply sendMarker_wf | apply event_wf | apply onCfg_wf | apply sparesExhausted_wf | apply onFlt_wf | apply completeArm_wf | apply afterApply_wf) | extract_lets | split | dsimp +zetaDelta only

theorem execRewindQuiescent_wf (s : State) (hw : s.memWf) : keepsWf (execRewindQuiescent s) := by
  unfold execRewindQuiescent
  repeat' first | (with_reducible first | assumption | exact keepsWf_fault .. | exact keepsWf_refused .. | apply keepsWf_next | apply memWf_ite | apply keepsWf_ite | apply discardSlab_wf | apply restore_wf | apply onFlt_wf | apply repair_wf | refine memWf_foldl ?_ (fun _ _ _ => ?_) _) | extract_lets | split | dsimp +zetaDelta only

theorem execResumeToken_wf (s : State) (hw : s.memWf) : keepsWf (execResumeToken s) := by
  unfold execResumeToken
  repeat' first | (with_reducible first | assumption | exact keepsWf_fault .. | exact keepsWf_refused .. | apply keepsWf_next | apply memWf_ite | apply keepsWf_ite | apply resume_wf) | extract_lets | split | dsimp +zetaDelta only

theorem execReplayStart_wf (s : State) (hw : s.memWf) : keepsWf (execReplayStart s) := by
  unfold execReplayStart
  repeat' first | (with_reducible first | assumption | exact keepsWf_fault .. | exact keepsWf_refused .. | apply keepsWf_next | apply memWf_ite | apply keepsWf_ite | apply resume_wf) | extract_lets | split | dsimp +zetaDelta only

theorem execRebuildChainStep_wf (g : Region) (sheaf line : Nat) (s : State) (hw : s.memWf) : keepsWf (execRebuildChainStep g sheaf line s) := by
  unfold execRebuildChainStep
  repeat' first | (with_reducible first | assumption | exact keepsWf_fault .. | exact keepsWf_refused .. | apply keepsWf_next | apply memWf_ite | apply keepsWf_ite | apply chainStep_wf) | extract_lets | split | dsimp +zetaDelta only

theorem execBatchFeed_wf (h : CmdHdr) (stepNo : U64) (s : State) (hw : s.memWf) : keepsWf (execBatchFeed h stepNo s) := by
  unfold execBatchFeed
  repeat' first | (with_reducible first | assumption | exact keepsWf_fault .. | exact keepsWf_refused .. | apply keepsWf_next | apply memWf_ite | apply keepsWf_ite | apply runBatchFeed_wf) | extract_lets | split | dsimp +zetaDelta only

theorem compareWaiting_wf {s : State} (hw : s.memWf) : (s.compareWaiting).memWf := by
  unfold State.compareWaiting
  repeat' first | (with_reducible first | assumption | apply memWf_ite | apply compareFps_wf | refine memWf_foldl ?_ (fun _ _ _ => ?_) _) | extract_lets | split | dsimp +zetaDelta only

theorem execDeltaPacketArrival_wf (r : Region) (s : State) (hw : s.memWf) : keepsWf (execDeltaPacketArrival r s) := by
  unfold execDeltaPacketArrival
  repeat' first | (with_reducible first | assumption | exact keepsWf_fault .. | exact keepsWf_refused .. | apply keepsWf_next | apply memWf_ite | apply keepsWf_ite | apply deltaArrival_wf | apply settleFeeds_wf | apply compareWaiting_wf) | extract_lets | split | dsimp +zetaDelta only

theorem execEmitArrival_wf (i : Nat) (s : State) (hw : s.memWf) : keepsWf (execEmitArrival i s) := by
  unfold execEmitArrival
  repeat' first | (with_reducible first | assumption | exact keepsWf_fault .. | exact keepsWf_refused .. | apply keepsWf_next | apply memWf_ite | apply keepsWf_ite | apply takeEmit_wf | apply settleFeeds_wf | apply compareWaiting_wf) | extract_lets | split | dsimp +zetaDelta only

theorem execPowerFail_wf (mv : U16) (s : State) (hw : s.memWf) : keepsWf (execPowerFail mv s) := by
  unfold execPowerFail
  repeat' first | (with_reducible first | assumption | exact keepsWf_fault .. | exact keepsWf_refused .. | apply keepsWf_next | apply memWf_ite | apply keepsWf_ite | apply inletLost_wf) | extract_lets | split | dsimp +zetaDelta only

theorem execOverVoltage_wf (mv : U16) (s : State) (hw : s.memWf) : keepsWf (execOverVoltage mv s) := by
  unfold execOverVoltage
  repeat' first | (with_reducible first | assumption | exact keepsWf_fault .. | exact keepsWf_refused .. | apply keepsWf_next | apply memWf_ite | apply keepsWf_ite | apply inletLost_wf) | extract_lets | split | dsimp +zetaDelta only

theorem execAbsoluteOverVoltage_wf (mv : U16) (s : State) (hw : s.memWf) : keepsWf (execAbsoluteOverVoltage mv s) := by
  unfold execAbsoluteOverVoltage
  repeat' first | (with_reducible first | assumption | exact keepsWf_fault .. | exact keepsWf_refused .. | apply keepsWf_next | apply memWf_ite | apply keepsWf_ite | apply inletLost_wf) | extract_lets | split | dsimp +zetaDelta only

theorem takeReading_wf {s : State} {x : InletReading} (hw : s.memWf) : (s.takeReading x).memWf := memWf_step hw (takeReading_changes ..) (by decide)

theorem execGovernorTick_wf (reading : InletReading) (s : State) (hw : s.memWf) : keepsWf (execGovernorTick reading s) := by
  unfold execGovernorTick
  repeat' first | (with_reducible first | assumption | exact keepsWf_fault .. | exact keepsWf_refused .. | apply keepsWf_next | apply memWf_ite | apply keepsWf_ite | apply takeReading_wf | apply onPwr_wf | apply alert_wf | apply quiesceNow_wf | apply setDuties_wf) | extract_lets | split | dsimp +zetaDelta only

theorem execCoolantLimit_wf (s : State) (hw : s.memWf) : keepsWf (execCoolantLimit s) := by
  unfold execCoolantLimit
  repeat' first | (with_reducible first | assumption | exact keepsWf_fault .. | exact keepsWf_refused .. | apply keepsWf_next | apply memWf_ite | apply keepsWf_ite | apply quiesceNow_wf) | extract_lets | split | dsimp +zetaDelta only

theorem execPwrEnLow_wf (s : State) (hw : s.memWf) : keepsWf (execPwrEnLow s) := by
  unfold execPwrEnLow
  repeat' first | (with_reducible first | assumption | exact keepsWf_fault .. | exact keepsWf_refused .. | apply keepsWf_next | apply memWf_ite | apply keepsWf_ite | apply onPwr_wf | apply quiesceNow_wf) | extract_lets | split | dsimp +zetaDelta only

theorem execModRstN_wf (s : State) (hw : s.memWf) : keepsWf (execModRstN s) := by
  unfold execModRstN
  repeat' first | (with_reducible first | assumption | exact keepsWf_fault .. | exact keepsWf_refused .. | apply keepsWf_next | apply memWf_ite | apply keepsWf_ite | apply volatileLost_wf | apply onPwr_wf) | extract_lets | split | dsimp +zetaDelta only

theorem execTopologyCheckPass_wf (s : State) (hw : s.memWf) : keepsWf (execTopologyCheckPass s) := by
  unfold execTopologyCheckPass
  repeat' first | (with_reducible first | assumption | exact keepsWf_fault .. | exact keepsWf_refused .. | apply keepsWf_next | apply memWf_ite | apply keepsWf_ite | apply onCfg_wf | apply advance_wf) | extract_lets | split | dsimp +zetaDelta only

theorem execVectorChainIssue_wf (r : Region) (c : Core) (s : State) (hw : s.memWf) : keepsWf (execVectorChainIssue r c s) := by
  unfold execVectorChainIssue
  repeat' first | (with_reducible first | assumption | exact keepsWf_fault .. | exact keepsWf_refused .. | apply keepsWf_next | apply memWf_ite | apply keepsWf_ite | apply issueChain_wf | apply illegal_wf) | extract_lets | split | dsimp +zetaDelta only

theorem execVectorChainComplete_wf (r : Region) (c : Core) (s : State) (hw : s.memWf) : keepsWf (execVectorChainComplete r c s) := by
  unfold execVectorChainComplete
  repeat' first | (with_reducible first | assumption | exact keepsWf_fault .. | exact keepsWf_refused .. | apply keepsWf_next | apply memWf_ite | apply keepsWf_ite | apply writeSram_wf | apply onCore_wf | apply sendRecord_wf | apply sendEmits_wf | apply progress_wf | refine memWf_foldl ?_ (fun _ _ _ => ?_) _) | extract_lets | split | dsimp +zetaDelta only

theorem execTileDrain_wf (r : Region) (c : Core) (s : State) (hw : s.memWf) : keepsWf (execTileDrain r c s) := by
  unfold execTileDrain
  repeat' first | (with_reducible first | assumption | exact keepsWf_fault .. | exact keepsWf_refused .. | apply keepsWf_next | apply memWf_ite | apply keepsWf_ite | apply drainSet_wf) | extract_lets | split | dsimp +zetaDelta only

theorem hostRead_wf {s : State} {a : Nat} (hw : s.memWf) : (s.hostRead a).2.memWf := clearRc_wf hw

theorem hostReadAt_wf {s : State} {a : Nat} {size : BitVec 4} (hw : s.memWf) : (s.hostReadAt a size).memWf := by
  unfold State.hostReadAt
  repeat' first | (with_reducible first | assumption | apply memWf_ite | apply onBrg_wf | apply onRun_wf | apply hostRead_wf) | extract_lets | split | dsimp +zetaDelta only

/-- An access of the host keeps the form if its own effect does. -/
theorem keepsWf_overLink {s : State} {c : Instr} {f : State → Ans} (hw : s.memWf) (h : keepsWf (f s)) : keepsWf (s.overLink c f) := by
  unfold State.overLink
  exact keepsWf_ite (keepsWf_next hw) (keepsWf_ite (keepsWf_next (onBrg_wf hw)) h)

theorem execClearOnRead_wf (addr : BitVec 26) (size : BitVec 4) (s : State) (hw : s.memWf) : keepsWf (execClearOnRead addr size s) := keepsWf_overLink hw (keepsWf_next (hostReadAt_wf hw))

theorem execCtlGrdFence_wf (comp : U32) (s : State) (hw : s.memWf) : keepsWf (execCtlGrdFence comp s) := by
  unfold execCtlGrdFence
  repeat' first | (with_reducible first | assumption | exact keepsWf_fault .. | exact keepsWf_refused .. | apply keepsWf_next | refine keepsWf_overLink hw ?_ | apply memWf_ite | apply keepsWf_ite | apply guardConfirm_wf) | extract_lets | split | dsimp +zetaDelta only

theorem execCtlGrdRpwr_wf (comp : U32) (s : State) (hw : s.memWf) : keepsWf (execCtlGrdRpwr comp s) := by
  unfold execCtlGrdRpwr
  repeat' first | (with_reducible first | assumption | exact keepsWf_fault .. | exact keepsWf_refused .. | apply keepsWf_next | refine keepsWf_overLink hw ?_ | apply memWf_ite | apply keepsWf_ite | apply guardConfirm_wf) | extract_lets | split | dsimp +zetaDelta only

theorem execCtlGrdPromo_wf (comp : U32) (s : State) (hw : s.memWf) : keepsWf (execCtlGrdPromo comp s) := by
  unfold execCtlGrdPromo
  repeat' first | (with_reducible first | assumption | exact keepsWf_fault .. | exact keepsWf_refused .. | apply keepsWf_next | refine keepsWf_overLink hw ?_ | apply memWf_ite | apply keepsWf_ite | apply guardConfirm_wf) | extract_lets | split | dsimp +zetaDelta only

theorem hostWrite_wf {s : State} {a : Nat} {size : BitVec 4} {data : U64} {poison : Bool} (hw : s.memWf) : (s.hostWrite a size data poison).memWf := by
  unfold State.hostWrite
  repeat' first | (with_reducible first | assumption | apply memWf_ite | apply rejectAccess_wf | apply writeReg_wf) | extract_lets | split | dsimp +zetaDelta only

theorem execRegisterWrite_wf (addr : BitVec 26) (size : BitVec 4) (data : U64) (poison : Bool) (s : State) (hw : s.memWf) : keepsWf (execRegisterWrite addr size data poison s) := by
  unfold execRegisterWrite
  repeat' first | (with_reducible first | assumption | exact keepsWf_fault .. | exact keepsWf_refused .. | apply keepsWf_next | refine keepsWf_overLink hw ?_ | apply memWf_ite | apply keepsWf_ite | apply hostWrite_wf) | extract_lets | split | dsimp +zetaDelta only

theorem execManagementBusWrite_wf (index : Byte) (data : Option U32) (s : State) (hw : s.memWf) : keepsWf (execManagementBusWrite index data s) := by
  unfold execManagementBusWrite
  repeat' first | (with_reducible first | assumption | exact keepsWf_fault .. | exact keepsWf_refused .. | apply keepsWf_next | apply memWf_ite | apply keepsWf_ite | apply onPwr_wf | apply openClass_wf | apply writeReg_wf) | extract_lets | split | dsimp +zetaDelta only

theorem execImageArm_wf (h : CmdHdr) (b : U64) (e : U32) (haddr : U64) (s : State) (hw : s.memWf) : keepsWf (execImageArm h b e haddr s) := by
  unfold execImageArm
  repeat' first | (with_reducible first | assumption | exact keepsWf_fault .. | exact keepsWf_refused .. | apply keepsWf_next | apply memWf_ite | apply keepsWf_ite | apply runArm_wf) | extract_lets | split | dsimp +zetaDelta only

theorem execStepRun_wf (h : CmdHdr) (limit : U64) (s : State) (hw : s.memWf) : keepsWf (execStepRun h limit s) := by
  unfold execStepRun
  repeat' first | (with_reducible first | assumption | exact keepsWf_fault .. | exact keepsWf_refused .. | apply keepsWf_next | apply memWf_ite | apply keepsWf_ite | apply runStep_wf) | extract_lets | split | dsimp +zetaDelta only

theorem execStepHold_wf (h : CmdHdr) (at_ : Byte) (s : State) (hw : s.memWf) : keepsWf (execStepHold h at_ s) := by
  unfold execStepHold
  repeat' first | (with_reducible first | assumption | exact keepsWf_fault .. | exact keepsWf_refused .. | apply keepsWf_next | apply memWf_ite | apply keepsWf_ite | apply runHold_wf) | extract_lets | split | dsimp +zetaDelta only

theorem execComputeReset_wf (h : CmdHdr) (s : State) (hw : s.memWf) : keepsWf (execComputeReset h s) := by
  unfold execComputeReset
  repeat' first | (with_reducible first | assumption | exact keepsWf_fault .. | exact keepsWf_refused .. | apply keepsWf_next | apply memWf_ite | apply keepsWf_ite | apply runReset_wf) | extract_lets | split | dsimp +zetaDelta only

theorem execIdentify_wf (h : CmdHdr) (haddr : U64) (s : State) (hw : s.memWf) : keepsWf (execIdentify h haddr s) := by
  unfold execIdentify
  repeat' first | (with_reducible first | assumption | exact keepsWf_fault .. | exact keepsWf_refused .. | apply keepsWf_next | apply memWf_ite | apply keepsWf_ite | apply runIdentify_wf) | extract_lets | split | dsimp +zetaDelta only

theorem execAttest_wf (h : CmdHdr) (haddr : U64) (nonce : BitVec 256) (hlen : U32) (s : State) (hw : s.memWf) : keepsWf (execAttest h haddr nonce hlen s) := by
  unfold execAttest
  repeat' first | (with_reducible first | assumption | exact keepsWf_fault .. | exact keepsWf_refused .. | apply keepsWf_next | apply memWf_ite | apply keepsWf_ite | apply runAttest_wf) | extract_lets | split | dsimp +zetaDelta only

theorem execHealthRead_wf (h : CmdHdr) (haddr : U64) (sel : Byte) (fromSeq count : U32) (s : State) (hw : s.memWf) : keepsWf (execHealthRead h haddr sel fromSeq count s) := by
  unfold execHealthRead
  repeat' first | (with_reducible first | assumption | exact keepsWf_fault .. | exact keepsWf_refused .. | apply keepsWf_next | apply memWf_ite | apply keepsWf_ite | apply runHealthRead_wf) | extract_lets | split | dsimp +zetaDelta only

theorem execLinkStatus_wf (h : CmdHdr) (haddr : U64) (engmask : U16) (s : State) (hw : s.memWf) : keepsWf (execLinkStatus h haddr engmask s) := by
  unfold execLinkStatus
  repeat' first | (with_reducible first | assumption | exact keepsWf_fault .. | exact keepsWf_refused .. | apply keepsWf_next | apply memWf_ite | apply keepsWf_ite | apply runLinkStatus_wf) | extract_lets | split | dsimp +zetaDelta only

theorem execNumericRingRead_wf (h : CmdHdr) (haddr : U64) (maxN : U16) (adv : Byte) (s : State) (hw : s.memWf) : keepsWf (execNumericRingRead h haddr maxN adv s) := by
  unfold execNumericRingRead
  repeat' first | (with_reducible first | assumption | exact keepsWf_fault .. | exact keepsWf_refused .. | apply keepsWf_next | apply memWf_ite | apply keepsWf_ite | apply runRingRead_wf) | extract_lets | split | dsimp +zetaDelta only

theorem execMeterMirrorRead_wf (h : CmdHdr) (haddr fromSeq : U64) (count : U32) (s : State) (hw : s.memWf) : keepsWf (execMeterMirrorRead h haddr fromSeq count s) := by
  unfold execMeterMirrorRead
  repeat' first | (with_reducible first | assumption | exact keepsWf_fault .. | exact keepsWf_refused .. | apply keepsWf_next | apply memWf_ite | apply keepsWf_ite | apply runMirrorRead_wf) | extract_lets | split | dsimp +zetaDelta only

theorem execParamRead_wf (h : CmdHdr) (haddr : U64) (lregion copy : Byte) (shard : U16) (fline nln : U32) (s : State) (hw : s.memWf) : keepsWf (execParamRead h haddr lregion copy shard fline nln s) := by
  unfold execParamRead
  repeat' first | (with_reducible first | assumption | exact keepsWf_fault .. | exact keepsWf_refused .. | apply keepsWf_next | apply memWf_ite | apply keepsWf_ite | apply runParamRead_wf) | extract_lets | split | dsimp +zetaDelta only

theorem execParamWrite_wf (h : CmdHdr) (haddr : U64) (lregion copy : Byte) (shard : U16) (fline nln : U32) (s : State) (hw : s.memWf) : keepsWf (execParamWrite h haddr lregion copy shard fline nln s) := by
  unfold execParamWrite
  repeat' first | (with_reducible first | assumption | exact keepsWf_fault .. | exact keepsWf_refused .. | apply keepsWf_next | apply memWf_ite | apply keepsWf_ite | apply runParamWrite_wf) | extract_lets | split | dsimp +zetaDelta only

theorem execCheckpointExport_wf (h : CmdHdr) (haddr : U64) (dest flush : Byte) (hlen : U64) (s : State) (hw : s.memWf) : keepsWf (execCheckpointExport h haddr dest flush hlen s) := by
  unfold execCheckpointExport
  repeat' first | (with_reducible first | assumption | exact keepsWf_fault .. | exact keepsWf_refused .. | apply keepsWf_next | apply memWf_ite | apply keepsWf_ite | apply runExport_wf) | extract_lets | split | dsimp +zetaDelta only

theorem execCheckpointImport_wf (h : CmdHdr) (haddr : U64) (src : Byte) (sline : U32) (hlen : U64) (s : State) (hw : s.memWf) : keepsWf (execCheckpointImport h haddr src sline hlen s) := by
  unfold execCheckpointImport
  repeat' first | (with_reducible first | assumption | exact keepsWf_fault .. | exact keepsWf_refused .. | apply keepsWf_next | apply memWf_ite | apply keepsWf_ite | apply runImport_wf) | extract_lets | split | dsimp +zetaDelta only

theorem execCommandFetch_wf (s : State) (hw : s.memWf) : keepsWf (execCommandFetch s) := by
  unfold execCommandFetch
  repeat' first | (with_reducible first | assumption | exact keepsWf_fault .. | exact keepsWf_refused .. | apply keepsWf_next | apply memWf_ite | apply keepsWf_ite | apply onHq_wf | apply onRun_wf | apply acceptEntry_wf) | extract_lets | split | dsimp +zetaDelta only

theorem execLaneCommandStart_wf (s : State) (hw : s.memWf) : keepsWf (execLaneCommandStart s) := by
  unfold execLaneCommandStart
  repeat' first | (with_reducible first | assumption | exact keepsWf_fault .. | exact keepsWf_refused .. | apply keepsWf_next | apply memWf_ite | apply keepsWf_ite | apply onRun_wf | apply runEntryOp_wf) | extract_lets | split | dsimp +zetaDelta only

theorem gatherWrite_wf {s : State} {r bank line off : Nat} {b : List Byte} (hw : s.memWf) : (s.gatherWrite r bank line off b).memWf := memWf_step hw (gatherWrite_changes ..) (by decide)

theorem hostWindowWrite_wf {s : State} {o : Nat} {data : List Byte} {poison : Bool} (hw : s.memWf) : (s.hostWindowWrite o data poison).memWf := by
  unfold State.hostWindowWrite
  repeat' first | (with_reducible first | assumption | apply memWf_ite | apply rejectAccess_wf | apply resDiscard_wf | apply gatherWrite_wf) | extract_lets | split | dsimp +zetaDelta only

theorem execWindowWrite_wf (off : BitVec 40) (data : List Byte) (poison : Bool) (s : State) (hw : s.memWf) : keepsWf (execWindowWrite off data poison s) := by
  unfold execWindowWrite
  repeat' first | (with_reducible first | assumption | exact keepsWf_fault .. | exact keepsWf_refused .. | apply keepsWf_next | refine keepsWf_overLink hw ?_ | apply memWf_ite | apply keepsWf_ite | apply hostWindowWrite_wf) | extract_lets | split | dsimp +zetaDelta only

theorem noteArrival_wf {s : State} {r c k n : Nat} (hw : s.memWf) : (s.noteArrival r c k n).memWf := memWf_step hw (noteArrival_changes ..) (by decide)

theorem linkAnnounce_wf {s : State} {e j : Nat} (hw : s.memWf) : (s.linkAnnounce e j).memWf := memWf_step hw (linkAnnounce_changes ..) (by decide)

theorem train_wf {s : State} {e l : Nat} (hw : s.memWf) : (s.train e l).memWf := memWf_step hw (train_changes ..) (by decide)

theorem countUnc_wf {s : State} {e unc : Nat} (hw : s.memWf) : (s.countUnc e unc).memWf := memWf_step hw (countUnc_changes ..) (by decide)

theorem freeBuf_wf {s : State} {e j vc : Nat} (hw : s.memWf) : (s.freeBuf e j vc).memWf := memWf_step hw (freeBuf_changes ..) (by decide)

theorem sendOn_wf {s : State} {e j : Nat} {f : SentFrame} {out : U16 → U16 → List Nat → Frame} (hw : s.memWf) : (s.sendOn e j f out).memWf := memWf_step hw (sendOn_changes ..) (by decide)

theorem sendTAck_wf {s : State} {e j : Nat} {a : TAck} (hw : s.memWf) : (s.sendTAck e j a).memWf := memWf_step hw (sendTAck_changes ..) (by decide)

theorem ackFrame_wf {s : State} {e j : Nat} (hw : s.memWf) : (s.ackFrame e j).memWf := memWf_step hw (ackFrame_changes ..) (by decide)

theorem tryAck_wf {s : State} {e : Nat} {a : TAck} (hw : s.memWf) : (s.tryAck e a).memWf := memWf_step hw (tryAck_changes ..) (by decide)

theorem flushAcks_wf {s : State} {e : Nat} (hw : s.memWf) : (s.flushAcks e).memWf := memWf_step hw (flushAcks_changes ..) (by decide)

theorem putAck_wf {s : State} {e : Nat} {a : TAck} (hw : s.memWf) : (s.putAck e a).memWf := memWf_step hw (putAck_changes ..) (by decide)

theorem takeAck_wf {s : State} {e : Nat} {a : TAck} (hw : s.memWf) : (s.takeAck e a).memWf := memWf_step hw (takeAck_changes ..) (by decide)

theorem takeFlits_wf {s : State} {e j : Nat} {l : List (BitVec 256)} {x : PktName} (hw : s.memWf) : (s.takeFlits e j l x).memWf := memWf_step hw (takeFlits_changes ..) (by decide)

theorem takeData_wf {s : State} {e j : Nat} {f : Frame} (hw : s.memWf) : (s.takeData e j f).memWf := memWf_step hw (takeData_changes ..) (by decide)

theorem execRegionLoadComplete_wf (r : Region) (digestOk : Bool) (s : State) (hw : s.memWf) : keepsWf (execRegionLoadComplete r digestOk s) := by
  unfold execRegionLoadComplete
  repeat' first | (with_reducible first | assumption | exact keepsWf_fault .. | exact keepsWf_refused .. | apply keepsWf_next | apply memWf_ite | apply keepsWf_ite | apply onStg_wf | apply loadFault_wf | apply loadSlots_wf | apply onFlt_wf | refine memWf_foldl ?_ (fun _ _ _ => ?_) _) | extract_lets | split | dsimp +zetaDelta only

theorem execCommitPointReport_wf (r : Region) (s : State) (hw : s.memWf) : keepsWf (execCommitPointReport r s) := by
  unfold execCommitPointReport
  repeat' first | (with_reducible first | assumption | exact keepsWf_fault .. | exact keepsWf_refused .. | apply keepsWf_next | apply memWf_ite | apply keepsWf_ite | apply onLreg_wf | apply writeSnap_wf | apply onFlt_wf) | extract_lets | split | dsimp +zetaDelta only

theorem execImageStage_wf (h : CmdHdr) (haddr : U64) (hlen : U32) (ioff : U64) (s : State) (hw : s.memWf) : keepsWf (execImageStage h haddr hlen ioff s) := by
  unfold execImageStage
  repeat' first | (with_reducible first | assumption | exact keepsWf_fault .. | exact keepsWf_refused .. | apply keepsWf_next | apply memWf_ite | apply keepsWf_ite | apply runStage_wf) | extract_lets | split | dsimp +zetaDelta only

theorem execReshard_wf (h : CmdHdr) (haddr : U64) (hlen : U32) (ioff : U64) (s : State) (hw : s.memWf) : keepsWf (execReshard h haddr hlen ioff s) := by
  unfold execReshard
  repeat' first | (with_reducible first | assumption | exact keepsWf_fault .. | exact keepsWf_refused .. | apply keepsWf_next | apply memWf_ite | apply keepsWf_ite | apply runStage_wf) | extract_lets | split | dsimp +zetaDelta only

theorem askClocks_wf {s : State} (hw : s.memWf) : (s.askClocks).memWf := memWf_step hw (askClocks_changes ..) (by decide)

theorem partnerEngineLost_wf {s : State} {m e : Nat} (hw : s.memWf) : (s.partnerEngineLost m e).memWf := memWf_step hw (partnerEngineLost_changes ..) (by decide)

theorem countWritten_wf {s : State} {k : Nat} {p : Packet} (hw : s.memWf) : (s.countWritten k p).memWf := memWf_step hw (countWritten_changes ..) (by decide)

theorem resumeChan_wf {s : State} {c : Nat} (hw : s.memWf) : (s.resumeChan c).memWf := memWf_step hw (resumeChan_changes ..) (by decide)

theorem takeBeacon_wf {s : State} {e j : Nat} {b : Beacon} (hw : s.memWf) : (s.takeBeacon e j b).memWf := memWf_step hw (takeBeacon_changes ..) (by decide)

theorem noteFlits_wf {s : State} {n out : Nat} {p : Packet} (hw : s.memWf) : (s.noteFlits n out p).memWf := memWf_step hw (noteFlits_changes ..) (by decide)

theorem createQueue_wf {s : State} {q : Nat} (hw : s.memWf) : (s.createQueue q).memWf := memWf_step hw (createQueue_changes ..) (by decide)

theorem deleteQueue_wf {s : State} {q : Nat} (hw : s.memWf) : (s.deleteQueue q).memWf := memWf_step hw (deleteQueue_changes ..) (by decide)

theorem prodBell_wf {s : State} {q : Nat} {v : U32} (hw : s.memWf) : (s.prodBell q v).memWf := memWf_step hw (prodBell_changes ..) (by decide)

theorem consBell_wf {s : State} {q : Nat} {v : U32} (hw : s.memWf) : (s.consBell q v).memWf := memWf_step hw (consBell_changes ..) (by decide)

theorem recomputeOuter_wf {s : State} (hw : s.memWf) : (s.recomputeOuter).memWf := by
  unfold State.recomputeOuter
  repeat' first | (with_reducible first | assumption | apply memWf_ite | apply onFlt_wf | apply foreignLine_wf | apply fresh_wf | apply writeStore_wf | apply setStamp_wf) | extract_lets | split | dsimp +zetaDelta only

theorem writeOccasion_wf {s : State} {x : Occasion} (hw : s.memWf) : (s.writeOccasion x).memWf := memWf_step hw (writeOccasion_changes ..) (by decide)

theorem writeOccasions_wf {s : State} (hw : s.memWf) : (s.writeOccasions).memWf := memWf_step hw (writeOccasions_changes ..) (by decide)

theorem logSensor_wf {s : State} {was now : Bool} {pair : Nat} (hw : s.memWf) : (s.logSensor was now pair).memWf := memWf_step hw (logSensor_changes ..) (by decide)

theorem partDone_wf {s : State} {x : InHand} (hw : s.memWf) : (s.partDone x).memWf := by
  have h := fresh_wf hw
  unfold State.partDone
  generalize s.fresh = q at h ⊢
  obtain ⟨v, u⟩ := q
  dsimp only at h ⊢
  split
  · split
    · exact done0_wf h
    · exact complete_wf (writeHost_wf h)
  · split
    · exact done0_wf h
    · exact complete_wf (writeParams_wf h)
  · exact done0_wf (memWf_ite (writeHost_wf (memWf_ite (flushOrchard_wf h) h)) (writeStaging_wf (memWf_ite (flushOrchard_wf h) h)))
  · exact complete_wf (memWf_foldl h (fun _ _ k => ckWrite_wf k) _)
  · exact done0_wf h

theorem stopLane_wf {s : State} {x : InHand} (hw : s.memWf) : (s.stopLane x).memWf := by
  unfold State.stopLane
  repeat' first | (with_reducible first | assumption | apply memWf_ite | apply onRun_wf | apply partDone_wf | apply done0_wf) | extract_lets | split | dsimp +zetaDelta only

theorem hostWindowRead_wf {s : State} {o len : Nat} (hw : s.memWf) : (s.hostWindowRead o len).memWf := by
  unfold State.hostWindowRead
  repeat' first | (with_reducible first | assumption | apply memWf_ite | apply onRun_wf | apply rejectAccess_wf | apply applyGather_wf) | extract_lets | split | dsimp +zetaDelta only

theorem execTransportPacketAccept_wf (e : Engine) (p : Packet) (s : State) (hw : s.memWf) : keepsWf (execTransportPacketAccept e p s) := by
  unfold execTransportPacketAccept
  repeat' first | (with_reducible first | assumption | exact keepsWf_fault .. | exact keepsWf_refused .. | apply keepsWf_next | apply memWf_ite | apply keepsWf_ite | apply onEng_wf | apply freeBuf_wf | apply logHealth_wf | apply ownPacket_wf | apply forwardPacket_wf) | extract_lets | split | dsimp +zetaDelta only

theorem execSnapshotSettled_wf (s : State) (hw : s.memWf) : keepsWf (execSnapshotSettled s) := by
  unfold execSnapshotSettled
  repeat' first | (with_reducible first | assumption | exact keepsWf_fault .. | exact keepsWf_refused .. | apply keepsWf_next | apply memWf_ite | apply keepsWf_ite | apply settleSnap_wf | apply advanceAgain_wf | apply onLregs_wf | apply onFlt_wf) | extract_lets | split | dsimp +zetaDelta only

theorem execUnseated_wf (s : State) (hw : s.memWf) : keepsWf (execUnseated s) := by
  unfold execUnseated
  repeat' first | (with_reducible first | assumption | exact keepsWf_fault .. | exact keepsWf_refused .. | apply keepsWf_next | apply memWf_ite | apply keepsWf_ite | apply onMeter_wf | apply inletLost_wf) | extract_lets | split | dsimp +zetaDelta only

theorem execCommandTimeout_wf (h : CmdHdr) (s : State) (hw : s.memWf) : keepsWf (execCommandTimeout h s) := by
  unfold execCommandTimeout
  repeat' first | (with_reducible first | assumption | exact keepsWf_fault .. | exact keepsWf_refused .. | apply keepsWf_next | apply memWf_ite | apply keepsWf_ite | apply stopLane_wf | apply onStg_wf | apply onRun_wf | apply done0_wf) | extract_lets | split | dsimp +zetaDelta only

theorem execWindowRead_wf (off : BitVec 40) (len : Nat) (s : State) (hw : s.memWf) : keepsWf (execWindowRead off len s) := by
  unfold execWindowRead
  repeat' first | (with_reducible first | assumption | exact keepsWf_fault .. | exact keepsWf_refused .. | apply keepsWf_next | refine keepsWf_overLink hw ?_ | apply memWf_ite | apply keepsWf_ite | apply hostWindowRead_wf) | extract_lets | split | dsimp +zetaDelta only

/-- A delayed access keeps the form (R335). -/
theorem performAccess_wf {s : State} {c : Instr} (hw : s.memWf) : (s.performAccess c).memWf := by
  have h (a : Ans) (h : keepsWf a) : (nextOr s a).memWf := by
    unfold nextOr; split
    · exact h _ rfl
    · exact hw
  unfold State.performAccess
  refine h _ ?_
  cases c
  case hostQueueCreate => exact fun t e => memWf_step hw (execHostQueueCreate_within _ _ t e) (by decide)
  case hostQueueDelete => exact fun t e => memWf_step hw (execHostQueueDelete_within _ _ t e) (by decide)
  case dbProd => exact fun t e => memWf_step hw (execDbProd_within _ _ _ t e) (by decide)
  case dbCons => exact fun t e => memWf_step hw (execDbCons_within _ _ _ t e) (by decide)
  case bridgeDmaResume => exact fun t e => memWf_step hw (execBridgeDmaResume_within _ _ t e) (by decide)
  case bridgeDmaAbort => exact fun t e => memWf_step hw (execBridgeDmaAbort_within _ _ t e) (by decide)
  case consumerIndexWrite => exact fun t e => memWf_step hw (execConsumerIndexWrite_within _ _ t e) (by decide)
  case overwriteOldest => exact fun t e => memWf_step hw (execOverwriteOldest_within _ t e) (by decide)
  case stopAtFull => exact fun t e => memWf_step hw (execStopAtFull_within _ t e) (by decide)
  case clearTheMirror => exact fun t e => memWf_step hw (execClearTheMirror_within _ t e) (by decide)
  case guardValueWrite => exact fun t e => memWf_step hw (execGuardValueWrite_within _ _ _ t e) (by decide)
  case ctlGrdFence => exact execCtlGrdFence_wf _ _ hw
  case ctlGrdRpwr => exact execCtlGrdRpwr_wf _ _ hw
  case ctlGrdPromo => exact execCtlGrdPromo_wf _ _ hw
  case lockBitWrite => exact fun t e => memWf_step hw (execLockBitWrite_within _ _ t e) (by decide)
  case ctlClkWrite => exact fun t e => memWf_step hw (execCtlClkWrite_within _ _ t e) (by decide)
  case fsetWrite => exact fun t e => memWf_step hw (execFsetWrite_within _ _ _ t e) (by decide)
  case grant => exact fun t e => memWf_step hw (execGrant_within _ _ _ t e) (by decide)
  case ctlDbgWrite => exact fun t e => memWf_step hw (execCtlDbgWrite_within _ _ t e) (by decide)
  case registerWrite => exact execRegisterWrite_wf _ _ _ _ _ hw
  case clearOnRead => exact execClearOnRead_wf _ _ _ hw
  case windowWrite => exact execWindowWrite_wf _ _ _ _ hw
  case windowRead => exact execWindowRead_wf _ _ _ hw
  all_goals exact keepsWf_next hw

theorem execCxlLinkRecovered_wf (s : State) (hw : s.memWf) : keepsWf (execCxlLinkRecovered s) := by
  unfold execCxlLinkRecovered
  exact keepsWf_ite (keepsWf_next hw) (keepsWf_next (memWf_foldl (logHealth_wf (onBrg_wf hw)) (fun _ _ k => performAccess_wf k) _))

end Sys2Proof.Machine
end

