-- ==== Sys2Proof/Laws/Effects.lean ====
section
/-! SUPPORT. What shared operations do to the entries of one table, said once for the proofs about the commands that use them. -/

namespace Sys2Proof.Machine

/-! Entries of a table. -/

theorem sameBut_refl {α : Type} (d : α) (k : Nat) (a : Tab α) : sameBut d k a a := fun _ _ => rfl

theorem sameBut_trans {α : Type} {d : α} {k : Nat} {a b c : Tab α} (h : sameBut d k a b) (g : sameBut d k b c) : sameBut d k a c :=
  fun j hj => (g j hj).trans (h j hj)

theorem onCore_sameBut (s : State) (r c : Nat) (f : CoreSt → CoreSt) : sameBut {} (coreKey r c) s.cores (s.onCore r c f).cores :=
  fun _ hj => Tab.get_upd_ne ({} : CoreSt) _ _ hj

theorem onLreg_sameBut (s : State) (r : Nat) (f : LRegionSt → LRegionSt) : sameBut {} r s.lregions (s.onLreg r f).lregions :=
  fun _ hj => Tab.get_upd_ne ({} : LRegionSt) _ _ hj

theorem onReg_sameBut (s : State) (r : Nat) (f : RegionSt → RegionSt) : sameBut {} r s.regions (s.onReg r f).regions :=
  fun _ hj => Tab.get_upd_ne ({} : RegionSt) _ _ hj

theorem onEng_sameBut (s : State) (e : Nat) (f : EngineSt → EngineSt) : sameBut {} e s.eng (s.onEng e f).eng :=
  fun _ hj => Tab.get_upd_ne ({} : EngineSt) _ _ hj

theorem onChan_sameBut (s : State) (k : Nat) (f : DmaSt → DmaSt) : sameBut {} k s.dma (s.onChan k f).dma :=
  fun _ hj => Tab.get_upd_ne ({} : DmaSt) _ _ hj

/-- An entry of the log is new: its sequence number moves on. -/
theorem logHealth_seq (s : State) (h : HealthRec) : (s.logHealth h).log.seq ≠ s.log.seq := by
  simp only [State.logHealth]; split <;> simp_all

/-! Micro-batches (R40, R46). -/

theorem mbProgress_keeps (s : State) (r k : Nat) : (s.mbProgress r k).bat.emits = s.bat.emits ∧ (s.mbProgress r k).bat.nums = s.bat.nums := by
  induction k generalizing s with
  | zero => exact ⟨rfl, rfl⟩
  | succ k ih =>
    unfold State.mbProgress
    simp only
    split
    · rw [(ih _).1, (ih _).2]; exact ⟨rfl, rfl⟩
    · exact ⟨rfl, rfl⟩

theorem progress_emits (s : State) (r : Nat) : (s.progress r).bat.emits = s.bat.emits := (mbProgress_keeps s r _).1

theorem progress_nums (s : State) (r : Nat) : (s.progress r).bat.nums = s.bat.nums := (mbProgress_keeps s r _).2

theorem progress_cores (s : State) (r : Nat) : (s.progress r).cores = s.cores := onlyChanges_cores (progress_changes s r) (by decide)

theorem progress_core (s : State) (r i j : Nat) : (s.progress r).core i j = s.core i j := by unfold State.core; rw [progress_cores]

theorem progress_sram (s : State) (r : Nat) : (s.progress r).sram = s.sram := onlyChanges_sram (progress_changes s r) (by decide)

theorem mbNote_emits (s : State) (r a b c d : Nat) : (s.mbNote r a b c d).bat.emits = s.bat.emits := by
  unfold State.mbNote; split <;> rfl

theorem mbNote_cores (s : State) (r a b c d : Nat) : (s.mbNote r a b c d).cores = s.cores := onlyChanges_cores (mbNote_changes s r a b c d) (by decide)

theorem mbNote_core (s : State) (r a b c d i j : Nat) : (s.mbNote r a b c d).core i j = s.core i j := by unfold State.core; rw [mbNote_cores]

/-! Numeric records (R40). -/

/-- A record leaves the units of its core, the emits and the SRAM as they are: of its core it touches the sticky flags alone. -/
theorem sendRecord_keeps (s : State) (r c mb : Nat) (i w0 w1 : U32) :
    (s.sendRecord r c mb i w0 w1).core r c = (s.sticky r c mb (recGrad w0) (recFlags w0)).core r c ∧ (s.sendRecord r c mb i w0 w1).bat.emits = s.bat.emits ∧
      (s.sendRecord r c mb i w0 w1).sram = s.sram ∧ sameBut {} (coreKey r c) s.cores (s.sendRecord r c mb i w0 w1).cores := by
  have sb : sameBut {} (coreKey r c) s.cores (s.sticky r c mb (recGrad w0) (recFlags w0)).cores := onCore_sameBut _ _ _ _
  unfold State.sendRecord
  simp only
  split
  · exact ⟨rfl, rfl, rfl, sb⟩
  · split
    · exact ⟨rfl, rfl, rfl, sb⟩
    · exact ⟨rfl, rfl, rfl, sb⟩

theorem sendRecord_accs (s : State) (r c mb : Nat) (i w0 w1 : U32) : ((s.sendRecord r c mb i w0 w1).core r c).accs = (s.core r c).accs := by
  rw [(sendRecord_keeps s r c mb i w0 w1).1]; unfold State.sticky; simp

theorem sendRecord_vec (s : State) (r c mb : Nat) (i w0 w1 : U32) : ((s.sendRecord r c mb i w0 w1).core r c).vec = (s.core r c).vec := by
  rw [(sendRecord_keeps s r c mb i w0 w1).1]; unfold State.sticky; simp

/-! Contexts (R93, R96, R252). -/

theorem ctx_onCtx_self (s : State) (r c j : Nat) (f : CtxSt → CtxSt) : (s.onCtx r c j f).ctx r c j = f (s.ctx r c j) := by
  unfold State.ctx State.onCtx
  rw [State.core_onCore_self]
  exact Tab.get_upd_self ({} : CtxSt) _ _ _

theorem ctx_onCtx_ne (s : State) (r c : Nat) {j k : Nat} (f : CtxSt → CtxSt) (h : k ≠ j) : (s.onCtx r c j f).ctx r c k = s.ctx r c k := by
  unfold State.ctx State.onCtx
  rw [State.core_onCore_self]
  exact Tab.get_upd_ne ({} : CtxSt) _ _ h

/-- The core after an issue of a context: waits taken, round robin moved, the context advanced; nothing else of it. -/
theorem issueCtx_core (s : State) (r c j : Nat) (i : CtxInstr) :
    (s.issueCtx r c j i).core r c =
      { (s.takeWaits r c i.tr.waits).core r c with lastCtx := j, ctxs := (s.core r c).ctxs.upd {} j CtxSt.advance } := by
  unfold State.issueCtx
  simp only
  show ((((s.takeWaits r c i.tr.waits).onCore r c fun x => { x with lastCtx := j }).mbNote r 0 c j _).onCtx r c j CtxSt.advance).core r c = _
  unfold State.onCtx
  rw [State.core_onCore_self, mbNote_core, State.core_onCore_self]
  unfold State.takeWaits
  rw [State.core_onCore_self]
  rfl

theorem issueCtx_emits (s : State) (r c j : Nat) (i : CtxInstr) : (s.issueCtx r c j i).bat.emits = s.bat.emits ++ i.tr.emits := by
  unfold State.issueCtx
  simp only
  refine congrArg (· ++ i.tr.emits) ?_
  show ((((s.takeWaits r c i.tr.waits).onCore r c fun x => { x with lastCtx := j }).mbNote r 0 c j _)).bat.emits = _
  rw [mbNote_emits]
  rfl

theorem issueCtx_sameBut (s : State) (r c j : Nat) (i : CtxInstr) : sameBut {} (coreKey r c) s.cores (s.issueCtx r c j i).cores := by
  unfold State.issueCtx
  simp only
  refine sameBut_trans ?_ (onCore_sameBut _ r c fun x => { x with ctxs := x.ctxs.upd {} j CtxSt.advance })
  rw [mbNote_cores]
  exact sameBut_trans (onCore_sameBut s r c _) (onCore_sameBut _ r c _)

/-! Arrivals at counters (R97, R98). -/

/-- An arrival touches the counters, readiness stamps and halt of its core alone. -/
theorem addCtr_core (s : State) (r c k n : Nat) : ∃ cs h, (s.addCtr r c k n).core r c = { s.core r c with ctrs := cs, halted := h } := by
  unfold State.addCtr
  simp only
  split
  · exact ⟨_, (s.core r c).halted, by rw [State.core_onCore_self]⟩
  · refine ⟨(s.core r c).ctrs.set 0 k 65535, true, ?_⟩
    unfold State.illegal
    rw [State.core_onBat, State.core_onCore_self, syncOvf_core, State.core_onCore_self]

theorem addCtr_sameBut (s : State) (r c k n : Nat) : sameBut {} (coreKey r c) s.cores (s.addCtr r c k n).cores := by
  unfold State.addCtr
  simp only
  split
  · exact onCore_sameBut _ _ _ _
  · refine sameBut_trans (onCore_sameBut s r c fun x => { x with ctrs := x.ctrs.set 0 k 65535 }) (sameBut_trans ?_ (onCore_sameBut _ r c fun x => { x with halted := true }))
    rw [onlyChanges_cores (syncOvf_changes _ _ _ _) (by decide)]
    exact sameBut_refl _ _ _

theorem arriveTok_core (s : State) (r c t n : Nat) :
    ∃ cs h ar cl, (s.arriveTok r c t n).core r c = { s.core r c with ctrs := cs, halted := h, arrivals := ar, clock := cl } := by
  unfold State.arriveTok
  split
  · exact ⟨_, _, _, _, rfl⟩
  · obtain ⟨cs, h, e⟩ := addCtr_core s r c ‹Nat› n
    unfold State.arrive State.noteArrival
    rw [State.core_onCore_self, e]
    exact ⟨_, _, _, _, rfl⟩

theorem arriveTok_sameBut (s : State) (r c t n : Nat) : sameBut {} (coreKey r c) s.cores (s.arriveTok r c t n).cores := by
  unfold State.arriveTok
  split
  · exact sameBut_refl _ _ _
  · unfold State.arrive State.noteArrival
    exact sameBut_trans (addCtr_sameBut _ _ _ _ _) (onCore_sameBut _ _ _ _)

/-- The counter a token names rises by the arrivals, and saturates (R97). -/
theorem arriveTok_ctr (s : State) (r c t k n : Nat) (h : tokOf t = some k) : (s.arriveTok r c t n).ctr r c k = min (s.ctr r c k + n) 65535 := by
  unfold State.arriveTok
  rw [h]
  simp only
  unfold State.arrive State.noteArrival State.ctr
  rw [State.core_onCore_self]
  exact addCtr_ctr s r c k n

theorem addCtr_emits (s : State) (r c k n : Nat) : (s.addCtr r c k n).bat.emits = s.bat.emits := by
  unfold State.addCtr
  simp only
  split
  · rfl
  · unfold State.illegal
    have h := syncOvf_changes (s.onCore r c fun x => { x with ctrs := x.ctrs.set 0 k 65535 }) r c k
    have g := congrArg BattenSt.emits (onlyChanges_bat h (by decide))
    exact g

theorem arriveTok_emits (s : State) (r c t n : Nat) : (s.arriveTok r c t n).bat.emits = s.bat.emits := by
  unfold State.arriveTok
  split
  · rfl
  · unfold State.arrive State.noteArrival
    exact addCtr_emits _ _ _ _ _

/-! Inbound queues (R99, R100). -/

theorem takeFirst_holds (p : Packet → Bool) (l t : List Packet) (x : Packet) (h : takeFirst p l = some (x, t)) : p x = true := by
  induction l generalizing t with
  | nil => cases h
  | cons a l ih =>
    unfold takeFirst at h
    split at h
    · simp only [Option.some.injEq, Prod.mk.injEq] at h
      rw [← h.1]; assumption
    · rw [Option.map_eq_some_iff] at h
      obtain ⟨y, e, h⟩ := h
      simp only [Prod.mk.injEq] at h
      exact ih y.2 (by rw [e, ← h.1])

/-- Taking a packet from a core's inbound queues changes those queues alone. -/
theorem takeCore_some {s t : State} {r c : Nat} {p : Packet → Bool} {x : Packet} (h : s.takeCore r c p = some (x, t)) :
    p x = true ∧ ∃ hi no po, t = s.onCore r c fun l => { l with inHi := hi, inNo := no, ported := po } := by
  have eta (f : CoreSt → CoreSt) (g : CoreSt → CoreSt) (e : f (s.core r c) = g (s.core r c)) : s.onCore r c f = s.onCore r c g := by
    unfold State.onCore Tab.upd
    unfold State.core at e
    rw [e]
  have q (h : s.takeQueued r c p = some (x, t)) : p x = true ∧ ∃ hi no po, t = s.onCore r c fun l => { l with inHi := hi, inNo := no, ported := po } := by
    unfold State.takeQueued at h
    split at h
    · split at h
      · rename_i e
        simp only [Option.some.injEq, Prod.mk.injEq] at h
        obtain ⟨rfl, rfl⟩ := h
        exact ⟨e, _, (s.core r c).inNo, (s.core r c).ported, eta _ _ rfl⟩
      · cases h
    · split at h
      · rename_i e
        simp only [Option.some.injEq, Prod.mk.injEq] at h
        obtain ⟨rfl, rfl⟩ := h
        exact ⟨e, (s.core r c).inHi, _, (s.core r c).ported, eta _ _ rfl⟩
      · cases h
    · cases h
  unfold State.takeCore at h
  split at h
  · split at h
    · rename_i e
      simp only [Option.some.injEq, Prod.mk.injEq] at h
      obtain ⟨rfl, rfl⟩ := h
      exact ⟨e, (s.core r c).inHi, (s.core r c).inNo, _, eta _ _ rfl⟩
    · exact q h
  · exact q h

/-- Taking a packet from a store interface's inbound queues changes those queues alone. -/
theorem takeStore_some {s t : State} {r : Nat} {p : Packet → Bool} {x : Packet} (h : s.takeStore r p = some (x, t)) :
    p x = true ∧ ∃ hi no, t = s.onLreg r fun l => { l with inHi := hi, inNo := no } := by
  have eta (f : LRegionSt → LRegionSt) (g : LRegionSt → LRegionSt) (e : f (s.lreg r) = g (s.lreg r)) : s.onLreg r f = s.onLreg r g := by
    unfold State.onLreg Tab.upd
    unfold State.lreg at e
    rw [e]
  unfold State.takeStore at h
  split at h
  · rename_i e
    simp only [Option.some.injEq, Prod.mk.injEq] at h
    obtain ⟨rfl, rfl⟩ := h
    exact ⟨takeFirst_holds _ _ _ _ e, _, (s.lreg r).inNo, eta _ _ rfl⟩
  · split at h
    · rename_i e
      simp only [Option.some.injEq, Prod.mk.injEq] at h
      obtain ⟨rfl, rfl⟩ := h
      exact ⟨takeFirst_holds _ _ _ _ e, (s.lreg r).inHi, _, eta _ _ rfl⟩
    · cases h

/-! Exchange lines (R144, R338). -/

theorem readMem_length (m : Memory) (a k : Nat) : (readMem m a k).length = k := by simp [readMem]

/-- Writing back a block with some of its bytes replaced stores those bytes alone. -/
theorem stores_overlay (m n : Memory) (a k off : Nat) (b : List Byte) (h : off + b.length ≤ k) (hs : stores m n a (overlay (readMem m a k) off b)) : stores m n (a + off) b := by
  have ol : (overlay (readMem m a k) off b).length = k := by simp [overlay, readMem_length]; omega
  intro j
  rw [hs j, ol]
  by_cases h1 : a + off ≤ j ∧ j < a + off + b.length
  · rw [if_pos h1, if_pos (by omega)]
    unfold overlay
    simp only [List.getD_eq_getElem?_getD]
    rw [List.getElem?_take, readMem_length, if_pos (by omega), List.append_assoc, List.getElem?_append_right (by simp [readMem_length]; omega), List.getElem?_append_left (by simp [readMem_length]; omega)]
    congr 2; simp [readMem_length]; omega
  · rw [if_neg h1]
    by_cases h2 : a ≤ j ∧ j < a + k
    · rw [if_pos h2]
      unfold overlay
      simp only [List.getD_eq_getElem?_getD]
      rw [List.getElem?_take, readMem_length, if_pos (by omega)]
      have rg : ∀ i, i < k → (readMem m a k)[i]? = some (Tab.get 0 m (a + i)) := by intro i hi; simp [readMem, hi]
      by_cases h3 : j < a + off
      · rw [List.append_assoc, List.getElem?_append_left (by simp [readMem_length]; omega), List.getElem?_take, if_pos (by omega), rg _ (by omega)]
        simp; congr 1; omega
      · rw [List.getElem?_append_right (by simp [readMem_length]; omega), List.getElem?_drop]
        have : off + b.length + (j - a - ((List.take off (readMem m a k) ++ b).length)) = j - a := by simp [readMem_length]; omega
        rw [this, rg _ (by omega)]; simp; congr 1; omega
    · rw [if_neg h2]

/-- Two stores that meet are one store. -/
theorem stores_append {m n k : Memory} {a : Nat} {b c : List Byte} (h : stores m n a b) (g : stores n k (a + b.length) c) : stores m k a (b ++ c) := by
  intro j
  rw [g j, h j]
  simp only [List.length_append]
  by_cases h1 : a + b.length ≤ j ∧ j < a + b.length + c.length
  · rw [if_pos h1, if_pos (by omega)]
    simp only [List.getD_eq_getElem?_getD]
    rw [List.getElem?_append_right (by omega)]
    congr 2; omega
  · rw [if_neg h1]
    by_cases h2 : a ≤ j ∧ j < a + b.length
    · rw [if_pos h2, if_pos (by omega)]
      simp only [List.getD_eq_getElem?_getD]
      rw [List.getElem?_append_left (by omega)]
    · rw [if_neg h2, if_neg (by omega)]

/-- Changing a line writes its bytes and its stamp to the store; the deltas it owes and the orchard cache are elsewhere. -/
theorem changeLine_store (s : State) (r bank line : Nat) (data : List Byte) (st : Byte) :
    (s.changeLine r bank line data st).store = ((s.writeStore r bank (line * 2048) data).setStamp r bank line st).store := by
  have h1 (u : State) (h : onlyChanges [.lregions, .net, .orc] ((s.writeStore r bank (line * 2048) data).setStamp r bank line st) u) :
      u.store = ((s.writeStore r bank (line * 2048) data).setStamp r bank line st).store := onlyChanges_store h (by decide)
  apply h1
  unfold State.changeLine
  simp only
  have base : onlyChanges [.lregions, .net, .orc] ((s.writeStore r bank (line * 2048) data).setStamp r bank line st) ((s.writeStore r bank (line * 2048) data).setStamp r bank line st) := onlyChanges_refl _ _
  generalize ((s.writeStore r bank (line * 2048) data).setStamp r bank line st) = u at *
  have mid : onlyChanges [.lregions, .net, .orc] u (if sheafedData (areaOf (s.course r) bank line) then
    (match u.sheafOf r bank line with
     | none => u
     | some (h, _, j) => u.queueDelta r bank line (xorBytes (s.readLine r bank line) data) (s.stamp r bank line ^^^ st) none (memberLine h 7 j)) else u) := by
    apply onlyChanges_ite _ base
    split
    · exact base
    · exact queueDelta_in base (by decide)
  split
  · exact orcWritten_in (outerDeltas_in mid (by decide)) (by decide)
  · exact mid

/-- Writing part of a line stores those bytes and no other byte of the store. -/
theorem writeLinePart_stores (s : State) (r bank line off : Nat) (b : List Byte) (h : off + b.length ≤ 2048) :
    stores s.store.mem (s.writeLinePart r bank line off b).store.mem (lineKey (s.column r) bank 0 * 2048 + line * 2048 + off) b := by
  have : (s.writeLinePart r bank line off b).store.mem = writeMem s.store.mem (lineKey (s.column r) bank 0 * 2048 + line * 2048) (overlay (readMem s.store.mem (lineKey (s.column r) bank 0 * 2048 + line * 2048) 2048) off b) := by
    unfold State.writeLinePart
    rw [changeLine_store]
    unfold State.setStamp State.writeStore State.readLine State.readStore
    simp only [State.onStore_store]
  rw [this]
  exact stores_overlay _ _ _ 2048 _ _ h (writeMem_stores _ _ _)

theorem writeExchange_stores (s : State) (r bank line off : Nat) (b : List Byte) (h : off + b.length ≤ 2048) :
    stores s.store.mem (s.writeExchange r bank line off b).store.mem (lineKey (s.column r) bank 0 * 2048 + line * 2048 + off) b := by
  have e : (s.snoop r bank line).store.mem = s.store.mem ∧ (s.snoop r bank line).column r = s.column r := by
    unfold State.column State.phys State.snoop
    split
    · exact ⟨rfl, rfl⟩
    · simp only [State.emitOut_store, State.onStore_store, State.emitOut_cfg, State.onStore_cfg, and_self]
  unfold State.writeExchange
  generalize s.snoop r bank line = u at e
  have := writeLinePart_stores u r bank line off b h
  rw [e.1, e.2] at this
  exact this

theorem writeExchange_column (s : State) (r bank line off : Nat) (b : List Byte) (q : Nat) : (s.writeExchange r bank line off b).column q = s.column q := by
  have := onlyChanges_cfg (writeExchange_changes s r bank line off b) (by decide)
  unfold State.column State.phys
  rw [this]

/-! Completion at the issuer (R91). -/

/-- A completed operation leaves its context's list of outstanding ones, and its local token arrives; the queues of the core stay. -/
theorem finishOp_ctx (s : State) (r c j : Nat) (o : Outst) : (s.finishOp r c j o).ctx r c j = { s.ctx r c j with outst := (s.ctx r c j).outst.filter fun y => y.tag ≠ o.tag } := by
  unfold State.finishOp State.ctx
  rw [progress_core]
  obtain ⟨a, b, d, e, h⟩ := arriveTok_core (s.onCtx r c j fun x => { x with outst := x.outst.filter fun y => y.tag ≠ o.tag }) r c o.ltok 1
  rw [h]
  exact ctx_onCtx_self s r c j _

theorem finishOp_ctr (s : State) (r c j : Nat) (o : Outst) :
    (∀ k, tokOf o.ltok = some k → (s.finishOp r c j o).ctr r c k = min (s.ctr r c k + 1) 65535) ∧ (tokOf o.ltok = none → ((s.finishOp r c j o).core r c).ctrs = (s.core r c).ctrs) := by
  unfold State.finishOp
  refine ⟨?_, ?_⟩
  · intro k hk
    unfold State.ctr
    rw [progress_core]
    show ((s.onCtx r c j _).arriveTok r c o.ltok 1).ctr r c k = _
    rw [arriveTok_ctr _ _ _ _ _ _ hk]
    unfold State.ctr State.onCtx
    rw [State.core_onCore_self]
  · intro hk
    rw [progress_core]
    unfold State.arriveTok
    rw [hk]
    unfold State.onCtx
    rw [State.core_onCore_self]

theorem finishOp_sameBut (s : State) (r c j : Nat) (o : Outst) : sameBut {} (coreKey r c) s.cores (s.finishOp r c j o).cores := by
  unfold State.finishOp
  rw [progress_cores]
  exact sameBut_trans (onCore_sameBut s r c fun x => { x with ctxs := x.ctxs.upd {} j fun x => { x with outst := x.outst.filter fun y => y.tag ≠ o.tag } }) (arriveTok_sameBut _ _ _ _ _)

theorem finishOp_sram (s : State) (r c j : Nat) (o : Outst) : (s.finishOp r c j o).sram = s.sram := onlyChanges_sram (finishOp_changes s r c j o) (by decide)

/-! Runs of stores (R177). -/

/-- A run of SRAM stores leaves every byte outside them as it was. -/
theorem foldl_writeSram_get {α : Type} (fr fc fo : α → Nat) (fb : α → List Byte) (b : Nat) (l : List α) (s : State)
    (h : ∀ w ∈ l, ¬ (s.sramBase (fr w) (fc w) + fo w ≤ b ∧ b < s.sramBase (fr w) (fc w) + fo w + (fb w).length)) :
    Tab.get (0 : Byte) (l.foldl (fun s w => s.writeSram (fr w) (fc w) (fo w) (fb w)) s).sram b = Tab.get (0 : Byte) s.sram b := by
  induction l generalizing s with
  | nil => rfl
  | cons w l ih =>
    simp only [List.foldl_cons]
    refine (ih (s.writeSram (fr w) (fc w) (fo w) (fb w)) fun y hy => h y (List.mem_cons_of_mem _ hy)).trans ?_
    have := writeMem_stores s.sram (s.sramBase (fr w) (fc w) + fo w) (fb w) b
    rw [if_neg (h w List.mem_cons_self)] at this
    exact this

/-! What a step boundary keeps of the step counter and of the step-completion event (R22, R350). -/

/-- The step counter and the event of code 1 are the same. -/
def sameStep (s t : State) : Prop := t.run.step = s.run.step ∧ t.run.events.get {} 1 = s.run.events.get {} 1

theorem sameStep_refl (s : State) : sameStep s s := ⟨rfl, rfl⟩

theorem sameStep_trans {s t u : State} (h : sameStep s t) (g : sameStep t u) : sameStep s u := ⟨g.1.trans h.1, g.2.trans h.2⟩

theorem sameStep_of {l : List Part} {s t : State} (h : onlyChanges l s t) (n : Part.run ∉ l) : sameStep s t := by
  unfold sameStep; rw [onlyChanges_run h n]; exact ⟨rfl, rfl⟩

theorem finishHolds_sameStep (s : State) (a : Bool) (x y : U64) : sameStep s (s.finishHolds a x y) := by
  unfold State.finishHolds
  simp only
  have fo : ∀ (l : List (CmdHdr × Byte)) (v : State), onlyChanges [.brg] v (l.foldl (fun s z => s.complete z.1 0 x y 0) v) := fun l v => foldl_changes _ _ (fun _ _ => complete_changes _ _ _ _ _ _) _ _
  have g := sameStep_of (fo (s.run.holds.filter fun x => a || decide (x.2 = 0)) (s.onRun fun r => { r with holds := r.holds.filter fun x => !(a || decide (x.2 = 0)) })) (by decide)
  exact g

theorem event_sameStep (s : State) (code : Nat) (x : U64) (h : code ≠ 1) : sameStep s (s.event code x) := by
  have h1 : (1 : Nat) ≠ code := Ne.symm h
  unfold State.event State.postEvent sameStep
  simp only
  split <;> split <;> simp <;> exact Tab.get_set_ne ({} : EventPend) s.run.events _ h1

theorem goOn_sameStep (s : State) : sameStep s s.goOn := by
  have tb (u : State) : sameStep u u.tryBegin := by unfold State.tryBegin State.beginStep; split <;> exact ⟨rfl, rfl⟩
  have st (u : State) : sameStep u u.sendTokens := by
    unfold State.sendTokens
    have a := sameStep_of (stepBoundaryModule_changes u) (by decide)
    exact sameStep_trans a ⟨rfl, rfl⟩
  have cb (u : State) : sameStep u u.crossBoundary := by
    unfold State.crossBoundary
    extract_lets v
    have hv : sameStep u v := by
      show sameStep u (if _ then u else u.boundarySnap)
      split
      · exact sameStep_refl _
      · exact sameStep_of (boundarySnap_changes u) (by decide)
    split
    · exact hv
    · exact sameStep_trans hv (sameStep_trans (st v) (tb _))
  unfold State.goOn
  split
  · split
    · exact sameStep_refl _
    · exact ⟨rfl, rfl⟩
  · split
    · split
      · exact sameStep_trans (t := s.stopHere) ⟨rfl, rfl⟩ (event_sameStep _ _ _ (by decide))
      · split
        · exact tb s
        · split
          · exact sameStep_refl _
          · exact cb s
    · exact sameStep_refl _

theorem advance_sameStep (s : State) : sameStep s s.advance := by
  unfold State.advance State.settleStop
  split
  · exact sameStep_refl _
  · split
    · exact sameStep_trans (sameStep_trans (t := s.stopHere) ⟨rfl, rfl⟩ (finishHolds_sameStep _ _ _ _)) (goOn_sameStep _)
    · exact goOn_sameStep _

theorem afterCommit_sameStep (s : State) : sameStep s s.afterCommit := by
  unfold State.afterCommit
  simp only
  split
  · exact sameStep_trans (t := s.onRun fun r => { r with atStep := true, stopAsked := false }) ⟨rfl, rfl⟩ (finishHolds_sameStep _ _ _ _)
  · refine sameStep_trans ?_ (advance_sameStep _)
    have a : sameStep s (if s.endHold then s.clearHold.onRun fun r => { r with stopAsked := true } else s) := by split <;> exact ⟨rfl, rfl⟩
    generalize (if s.endHold then s.clearHold.onRun fun r => { r with stopAsked := true } else s) = u at *
    split
    · exact sameStep_trans (sameStep_trans a (u := u.onRun fun r => { r with stopAsked := true }) ⟨rfl, rfl⟩) (event_sameStep _ _ _ (by decide))
    · exact a

/-! Routers (R113). -/

theorem some_of_ite {c : Prop} [Decidable c] {a m : Nat} (h : (if c then none else some a) = some m) : ¬ c ∧ a = m := by
  by_cases hc : c
  · rw [if_pos hc] at h; cases h
  · rw [if_neg hc] at h; exact ⟨hc, Option.some.inj h⟩
/-- A mesh port leads to another router. -/
theorem meshNext_ne (n k m : Nat) (h : meshNext n k = some m) : m ≠ n := by
  intro e; subst e
  unfold meshNext at h
  unfold routerAt routerRow routerCol at h
  dsimp only at h
  split at h
  · have := some_of_ite h; omega
  · have := some_of_ite h; omega
  · have := some_of_ite h; omega
  · have := some_of_ite h; omega
  · cases h

/-! Shards (R164, R166, R170, R179). -/

/-- A key whose entries are all filtered out reads as unlisted. -/
theorem get_filter_none {α : Type} (d : α) (p : Nat × α → Bool) (j : Nat) (h : ∀ v, p (j, v) = false) (t : Tab α) : Tab.get d (t.filter p) j = d := by
  induction t with
  | nil => rfl
  | cons a t ih =>
    rw [List.filter_cons]
    split
    · obtain ⟨x, v⟩ := a
      unfold Tab.get
      by_cases e : x = j
      · subst e; rename_i q; rw [h v] at q; cases q
      · rw [if_neg e]; exact ih
    · exact ih

theorem leBytes_length (n w : Nat) : (leBytes n w).length = n := by induction n generalizing w with
  | zero => rfl
  | succ n ih => simp only [leBytes, List.length_cons, ih]

/-- What was stored is read back. -/
theorem readMem_stores {m n : Memory} {a : Nat} {b : List Byte} (h : stores m n a b) : readMem n a b.length = b := by
  refine (readMem_eq (writeMem m a b) n a b.length ?_).trans (readMem_writeMem m a b)
  intro i h1 h2
  rw [h i, writeMem_stores m a b i]

/-- The ends of a shard's turn: its phase, its counts back at zero, its emits (R164, R166, R170). -/
theorem endShard_facts (s : State) (r k : Nat) (sh : Shard) (p : ShardPhase) (ready : Bool) :
    (s.endShard r k sh p ready).phase r k = p ∧ (∀ j, j < 2 ^ 24 → (s.endShard r k sh p ready).lineCount r k j = 0) ∧
      (s.endShard r k sh p ready).bat.emits = s.bat.emits ++ (if s.heldTiming then [] else sh.frees) ++ (if ready then sh.ready else []) := by
  have ht : ((s.consume r k sh).setPhase r k p).heldTiming = s.heldTiming := rfl
  have f1 : ((s.consume r k sh).setPhase r k p).phase r k = p := by
    unfold State.phase State.setPhase
    rw [State.lreg_onLreg_self]
    exact Tab.get_set_self _ _ _ _
  have f2 : ∀ j, j < 2 ^ 24 → ((s.consume r k sh).setPhase r k p).lineCount r k j = 0 := by
    intro j hj
    unfold State.lineCount State.setPhase
    rw [State.lreg_onLreg_self]
    unfold State.consume
    rw [State.lreg_onLreg_self]
    refine get_filter_none 0 _ _ ?_ _
    intro v
    unfold countKey
    have e : (k * 2 ^ 24 + j) / 2 ^ 24 = k := by omega
    show (!decide ((k * 2 ^ 24 + j) / 2 ^ 24 = k)) = false
    rw [decide_eq_true e]
    rfl
  have f3 : ((s.consume r k sh).setPhase r k p).bat.emits = s.bat.emits := rfl
  unfold State.endShard
  simp only [ht]
  generalize (s.consume r k sh).setPhase r k p = u at *
  cases s.heldTiming <;> cases ready
  · exact ⟨f1, f2, by show u.bat.emits ++ _ = _; simp [f3]⟩
  · exact ⟨f1, f2, by show u.bat.emits ++ _ ++ _ = _; simp [f3]⟩
  · exact ⟨f1, f2, by show u.bat.emits = _; simp [f3]⟩
  · exact ⟨f1, f2, by show u.bat.emits ++ _ = _; simp [f3]⟩

/-- The updated shard: its header, its phase, its counts, its emits (R166, R179). -/
theorem updateShard_facts (s : State) (r k : Nat) (sh : Shard) (phi : Fp) (gt : Option Fp) :
    (∃ fp, (s.replicaCheck = false → fp = 0) ∧ (s.updateShard r k sh phi gt).header r sh = leBytes 8 (hdrT (s.header r sh) + 1) ++ leBytes 8 s.run.step.toNat ++ leBytes 4 s.cfg.layout.toNat ++ leBytes 4 (b2n s.replicaCheck) ++ leBytes 16 fp ++ List.replicate 2008 0) ∧
    (s.updateShard r k sh phi gt).phase r k = .updated ∧ (∀ j, j < 2 ^ 24 → (s.updateShard r k sh phi gt).lineCount r k j = 0) ∧
    (s.updateShard r k sh phi gt).bat.emits = s.bat.emits ++ (if s.heldTiming then [] else sh.frees) ++ (if !s.replicaCheck || (s.partnersIn 2).isEmpty then sh.ready else []) ∧
    (s.updateShard r k sh phi gt).prs.upd = s.prs.upd + 512 * sh.nlines := by
  let g := s.pressCourse.groups.getD sh.group {}
  let n := hdrT (s.header r sh) + 1
  have dd : ∃ c trust, s.updateShard r k sh phi gt =
      let (a, ta) := s.updateLines r sh g c trust sh.nlines 0 {}
      let a := a.onPrs fun p => { p with upd := p.upd + 512 * sh.nlines }
      let fp := if a.replicaCheck then some (a.fingerprint r k sh g) else none
      let b := (a.writeHeader r sh n fp).sendShardRecord r k ta
      match fp with
      | none => b.endShard r k sh .updated true
      | some f => (b.sendFp r k f).endShard r k sh .updated (b.partnersIn 2).isEmpty := ⟨_, _, rfl⟩
  obtain ⟨c, trust, dd⟩ := dd
  rw [dd]
  clear dd
  have lf := updateLines_changes s r sh g c trust sh.nlines 0 {}
  generalize s.updateLines r sh g c trust sh.nlines 0 {} = x at lf ⊢
  obtain ⟨a0, ta⟩ := x
  simp only at lf ⊢
  have cf := onlyChanges_cfg lf (by decide)
  have rf := onlyChanges_run lf (by decide)
  have bf := onlyChanges_bat lf (by decide)
  have pf := onlyChanges_prs lf (by decide)
  have sf := onlyChanges_set lf (by decide)
  have rc : (a0.onPrs fun p => { p with upd := p.upd + 512 * sh.nlines }).replicaCheck = s.replicaCheck := by
    show a0.replicaCheck = _
    unfold State.replicaCheck State.setting; rw [sf]
  have pr : (a0.onPrs fun p => { p with upd := p.upd + 512 * sh.nlines }).prs.upd = s.prs.upd + 512 * sh.nlines := by
    show a0.prs.upd + _ = _; rw [pf]
  have cf1 : (a0.onPrs fun p => { p with upd := p.upd + 512 * sh.nlines }).cfg = s.cfg := cf
  have rf1 : (a0.onPrs fun p => { p with upd := p.upd + 512 * sh.nlines }).run = s.run := rf
  have bf1 : (a0.onPrs fun p => { p with upd := p.upd + 512 * sh.nlines }).bat = s.bat := bf
  generalize (a0.onPrs fun p => { p with upd := p.upd + 512 * sh.nlines }) = a at *
  rw [rc]
  -- the header, then what follows it
  have hd (fp : Option (BitVec 128)) : (a.writeHeader r sh n fp).header r sh =
      leBytes 8 n ++ leBytes 8 s.run.step.toNat ++ leBytes 4 s.cfg.layout.toNat ++ leBytes 4 (b2n fp.isSome) ++ leBytes 16 (fp.getD 0).toNat ++ List.replicate 2008 0 := by
    rw [← cf1, ← rf1]
    have wh : ∃ B, B = leBytes 8 n ++ leBytes 8 a.run.step.toNat ++ leBytes 4 a.cfg.layout.toNat ++ leBytes 4 (b2n fp.isSome) ++ leBytes 16 (fp.getD 0).toNat ++ List.replicate 2008 (0 : Byte) ∧
        a.writeHeader r sh n fp = a.writeLinePart r sh.hbank sh.hline 0 B := ⟨_, rfl, rfl⟩
    obtain ⟨B, hB, wh⟩ := wh
    have len : B.length = 2048 := by rw [hB]; simp only [List.length_append, leBytes_length, List.length_replicate]
    rw [← hB]
    have st := writeLinePart_stores a r sh.hbank sh.hline 0 B (by omega)
    have rd := readMem_stores st
    rw [len, Nat.add_zero] at rd
    have cl : (a.writeHeader r sh n fp).column r = a.column r := by
      have := onlyChanges_cfg (writeHeader_changes a r sh n fp) (by decide)
      unfold State.column State.phys; rw [this]
    unfold State.header State.readLine State.readStore
    rw [cl, wh]
    exact rd
  have keepH (u v : State) (h1 : v.store = u.store) (h2 : v.cfg = u.cfg) : v.header r sh = u.header r sh := by
    unfold State.header State.readLine State.readStore State.column State.phys
    rw [h1, h2]
  have fin (fp : Option (BitVec 128)) (v : State) (ready : Bool) (hv : onlyChanges [.bat, .prs, .out] (a.writeHeader r sh n fp) v) (he : v.bat.emits = (a.writeHeader r sh n fp).bat.emits) (hu : v.prs.upd = a.prs.upd) :
      (v.endShard r k sh .updated ready).header r sh = leBytes 8 n ++ leBytes 8 s.run.step.toNat ++ leBytes 4 s.cfg.layout.toNat ++ leBytes 4 (b2n fp.isSome) ++ leBytes 16 (fp.getD 0).toNat ++ List.replicate 2008 0 ∧
      (v.endShard r k sh .updated ready).phase r k = .updated ∧ (∀ j, j < 2 ^ 24 → (v.endShard r k sh .updated ready).lineCount r k j = 0) ∧
      (v.endShard r k sh .updated ready).bat.emits = s.bat.emits ++ (if s.heldTiming then [] else sh.frees) ++ (if ready then sh.ready else []) ∧
      (v.endShard r k sh .updated ready).prs.upd = s.prs.upd + 512 * sh.nlines := by
    have ec := endShard_changes v r k sh .updated ready
    obtain ⟨e1, e2, e3⟩ := endShard_facts v r k sh .updated ready
    have hc := onlyChanges_cfg (writeHeader_changes a r sh n fp) (by decide)
    have hb := onlyChanges_bat (writeHeader_changes a r sh n fp) (by decide)
    have vc := onlyChanges_cfg hv (by decide)
    have th : v.heldTiming = s.heldTiming := by
      unfold State.heldTiming State.modeCourse; rw [vc, hc, cf1]
    refine ⟨?_, e1, e2, ?_, ?_⟩
    · rw [keepH _ _ (onlyChanges_store ec (by decide)) (onlyChanges_cfg ec (by decide)), keepH _ _ (onlyChanges_store hv (by decide)) vc, hd]
    · rw [e3, he, hb, bf1, th]
    · rw [onlyChanges_prs ec (by decide), hu, pr]
  have rs (u : State) : (u.sendShardRecord r k ta).bat.emits = u.bat.emits ∧ (u.sendShardRecord r k ta).prs = u.prs := by
    unfold State.sendShardRecord; split <;> exact ⟨rfl, rfl⟩
  have hp (fp : Option (BitVec 128)) := onlyChanges_prs (writeHeader_changes a r sh n fp) (by decide)
  cases hr : s.replicaCheck with
  | false =>
    simp only [Bool.false_eq_true, if_false]
    have := fin none ((a.writeHeader r sh n none).sendShardRecord r k ta) true (sendShardRecord_in (onlyChanges_refl _ _) (by decide)) (rs _).1 (by rw [(rs _).2, hp])
    exact ⟨⟨0, fun _ => rfl, this.1⟩, this.2.1, this.2.2.1, by rw [this.2.2.2.1]; rfl, this.2.2.2.2⟩
  | true =>
    simp only [if_true]
    have sp (u : State) (f : BitVec 128) : (u.sendFp r k f).prs.upd = u.prs.upd := by
      have fold (l : List Nat) : ∀ w : State, (l.foldl (fun s m => s.emitOut (.fingerprint m r k u.run.step f)) w).prs = w.prs := by
        induction l with
        | nil => intro w; rfl
        | cons x l ih => intro w; simp only [List.foldl_cons]; exact ih _
      unfold State.sendFp State.sendFpAt
      simp only [State.onPrs_prs]
      rw [fold]
    have := fin (some (a.fingerprint r k sh g)) (((a.writeHeader r sh n (some (a.fingerprint r k sh g))).sendShardRecord r k ta).sendFp r k (a.fingerprint r k sh g))
      (((a.writeHeader r sh n (some (a.fingerprint r k sh g))).sendShardRecord r k ta).partnersIn 2).isEmpty
      (sendFp_in (sendShardRecord_in (onlyChanges_refl _ _) (by decide)) (by decide))
      (by
        have q := onlyChanges_bat (sendFp_changes ((a.writeHeader r sh n (some (a.fingerprint r k sh g))).sendShardRecord r k ta) r k (a.fingerprint r k sh g)) (by decide)
        rw [q, (rs _).1])
      (by rw [sp, (rs _).2, hp])
    have pn : (((a.writeHeader r sh n (some (a.fingerprint r k sh g))).sendShardRecord r k ta).partnersIn 2) = s.partnersIn 2 := by
      have q := onlyChanges_cfg (sendShardRecord_changes (a.writeHeader r sh n (some (a.fingerprint r k sh g))) r k ta) (by decide)
      have q2 := onlyChanges_cfg (writeHeader_changes a r sh n (some (a.fingerprint r k sh g))) (by decide)
      unfold State.partnersIn State.ownMod State.linkCourse; rw [q, q2, cf1]
    rw [pn] at this ⊢
    exact ⟨⟨_, (fun h => by cases h), this.1⟩, this.2.1, this.2.2.1, by rw [this.2.2.2.1]; rfl, this.2.2.2.2⟩

/-! What writes of a store interface touch of its region. -/

theorem syncOvf_lreg (s : State) (r c k q : Nat) : (s.syncOvf r c k).lreg q = s.lreg q := by
  unfold State.lreg; rw [onlyChanges_lregions (syncOvf_changes s r c k) (by decide)]

/-- An arrival at a store interface touches its counters alone. -/
theorem addSiCtr_lreg (s : State) (r k n : Nat) : ∃ c, (s.addSiCtr r k n).lreg r = { s.lreg r with ctrs := c } := by
  unfold State.addSiCtr
  simp only
  split
  · exact ⟨_, State.lreg_onLreg_self ..⟩
  · refine ⟨(s.lreg r).ctrs.set 0 k 65535, ?_⟩
    show ((s.onLreg r fun x => { x with ctrs := x.ctrs.set 0 k 65535 }).syncOvf r 0x3FF k).lreg r = _
    rw [syncOvf_lreg, State.lreg_onLreg_self]

theorem queueDelta_lreg (s : State) (r bank line : Nat) (data : List Byte) (st : Byte) (m : Option Nat) (p : Nat × Nat × Nat) :
    ∃ od oq, (s.queueDelta r bank line data st m p).lreg r = { s.lreg r with outDeltas := od, outq := oq } := by
  unfold State.queueDelta
  simp only
  split
  · exact ⟨_, (s.lreg r).outq, State.lreg_onLreg_self (s.onNet fun n => { n with nextTag := n.nextTag + 1 }) ..⟩
  · unfold State.sendStore
    rw [State.lreg_onLreg_self, State.lreg_onLreg_self]
    exact ⟨_, _, rfl⟩

theorem outerDeltas_lreg (s : State) (r bank line : Nat) (data : List Byte) (st : Byte) :
    ∃ od oq, (s.outerDeltas r bank line data st).lreg r = { s.lreg r with outDeltas := od, outq := oq } := by
  unfold State.outerDeltas
  generalize s.outerHolders r bank line = l
  induction l generalizing s with
  | nil => exact ⟨_, _, rfl⟩
  | cons m l ih =>
    simp only [List.foldl_cons]
    obtain ⟨a, b, e⟩ := ih (s.queueDelta r bank line data st (some m) (Config.outerPlace m r bank line))
    obtain ⟨c, d, f⟩ := queueDelta_lreg s r bank line data st (some m) (Config.outerPlace m r bank line)
    rw [e, f]
    exact ⟨_, _, rfl⟩

/-- Changing a line touches of its region the deltas it owes and the packets that carry them. -/
theorem changeLine_lreg (s : State) (r bank line : Nat) (data : List Byte) (st : Byte) :
    ∃ od oq, (s.changeLine r bank line data st).lreg r = { s.lreg r with outDeltas := od, outq := oq } := by
  unfold State.changeLine
  simp only
  have w : ((s.writeStore r bank (line * 2048) data).setStamp r bank line st).lreg r = s.lreg r := rfl
  generalize (s.writeStore r bank (line * 2048) data).setStamp r bank line st = u at *
  rw [← w]
  have nxt : ∀ x : State, (∃ od oq, x.lreg r = { u.lreg r with outDeltas := od, outq := oq }) → ∀ d t, ∃ od oq, ((x.outerDeltas r bank line d t).orcWritten r bank line).lreg r = { u.lreg r with outDeltas := od, outq := oq } := by
    intro x ⟨a, b, e⟩ d t
    obtain ⟨c, d, f⟩ := outerDeltas_lreg x r bank line d t
    have o : ∀ v : State, (v.orcWritten r bank line).lreg r = v.lreg r := by intro v; unfold State.orcWritten; split <;> rfl
    exact ⟨c, d, by rw [o, f, e]⟩
  split
  · refine nxt _ ?_ _ _
    split
    · split
      · exact ⟨_, _, rfl⟩
      · exact queueDelta_lreg ..
    · exact ⟨_, _, rfl⟩
  · split
    · split
      · exact ⟨_, _, rfl⟩
      · exact queueDelta_lreg ..
    · exact ⟨_, _, rfl⟩

theorem writeLinePart_lreg (s : State) (r bank line off : Nat) (b : List Byte) :
    ∃ od oq, (s.writeLinePart r bank line off b).lreg r = { s.lreg r with outDeltas := od, outq := oq } := by
  unfold State.writeLinePart; exact changeLine_lreg ..

/-! Rewinds, events and the loss of a partner (R281, R294, R350). -/

/-- A rewind keeps the run's state and hold cause, the partner loss and the log. -/
theorem startRewind_facts (s : State) : (s.startRewind).run.st = s.run.st ∧ (s.startRewind).run.hcause = s.run.hcause ∧ (s.startRewind).flt.partner = s.flt.partner ∧ (s.startRewind).flt.partnerMod = s.flt.partnerMod ∧
    (s.startRewind).log = s.log ∧ (s.startRewind).run.events = s.run.events ∧ (s.startRewind).out = s.out ∧
    (s.flt.phase = .none → s.run.hcause < 5 → (s.startRewind).flt.phase = .draining ∧ (s.startRewind).flt.replays = sat32 s.flt.replays 1 ∧ (s.startRewind).flt.quiet = []) := by
  unfold State.startRewind
  split
  · rename_i h
    exact ⟨rfl, rfl, rfl, rfl, rfl, rfl, rfl, fun a b => by rcases h with h | h; exact absurd a h; omega⟩
  · exact ⟨rfl, rfl, rfl, rfl, rfl, rfl, rfl, fun _ _ => ⟨rfl, rfl, rfl⟩⟩

/-- An event waits with its results: those just given. -/
theorem postEvent_pend (s : State) (code : Nat) (res1 res0 : U64) :
    ((s.postEvent code res1 res0).run.events.get {} code).pend = true ∧ ((s.postEvent code res1 res0).run.events.get {} code).res0 = res0 ∧ ((s.postEvent code res1 res0).run.events.get {} code).res1 = res1 := by
  unfold State.postEvent
  simp only
  split
  · simp only [State.onRun_run]
    rw [Tab.get_set_self ({} : EventPend)]
    exact ⟨rfl, rfl, rfl⟩
  · simp only [State.onHq_run, State.onRun_run]
    rw [Tab.get_set_self ({} : EventPend)]
    exact ⟨rfl, rfl, rfl⟩

theorem event_flt (s : State) (code : Nat) (x : U64) : (s.event code x).flt = s.flt ∧ (s.event code x).log = s.log ∧ (s.event code x).run.st = s.run.st ∧ (s.event code x).run.hcause = s.run.hcause := by
  unfold State.event State.postEvent
  simp only
  split <;> split <;> exact ⟨rfl, rfl, rfl, rfl⟩

/-- A loss met in a later phase drains the slab again; nothing else changes (R277). -/
theorem rejoin_facts (s : State) : s.rejoin.run = s.run ∧ s.rejoin.log = s.log ∧ s.rejoin.flt.partner = s.flt.partner ∧ s.rejoin.flt.partnerMod = s.flt.partnerMod ∧ s.rejoin.flt.image = s.flt.image ∧
    (s.flt.phase = .draining → s.rejoin.flt.phase = .draining) := by
  unfold State.rejoin
  split
  · exact ⟨rfl, rfl, rfl, rfl, rfl, fun _ => rfl⟩
  · exact ⟨rfl, rfl, rfl, rfl, rfl, fun h => h⟩

/-- A partner loss holds the module, tells the host which module, and starts a rewind (R294). -/
theorem partnerLoss_facts (s : State) (m : Nat) : (s.partnerLoss m).run.st = .held ∧ (s.run.hcause < 5 → (s.partnerLoss m).run.hcause = 3) ∧ (s.partnerLoss m).flt.partner = true ∧ (s.partnerLoss m).flt.partnerMod = m ∧
    (s.partnerLoss m).log.seq ≠ s.log.seq ∧ ((s.partnerLoss m).run.events.get {} 6).pend = true ∧ ((s.partnerLoss m).run.events.get {} 6).res1 = BitVec.ofNat 64 m ∧ (s.flt.phase = .none → s.run.hcause < 5 → (s.partnerLoss m).flt.phase = .draining) := by
  unfold State.partnerLoss
  simp only
  have l := logHealth_seq s { cls := 0x38, action := 10, detail := m }
  have sh : (s.logHealth { cls := 0x38, action := 10, detail := m }).run.hcause = s.run.hcause := rfl
  have sf : (s.logHealth { cls := 0x38, action := 10, detail := m }).flt = s.flt := rfl
  generalize s.logHealth { cls := 0x38, action := 10, detail := m } = a at *
  have ep := postEvent_pend a 6 (BitVec.ofNat 64 m) a.run.step
  have ef := event_flt a 6 (BitVec.ofNat 64 m)
  change ((a.event 6 (BitVec.ofNat 64 m)).run.events.get {} 6).pend = true ∧ ((a.event 6 (BitVec.ofNat 64 m)).run.events.get {} 6).res0 = _ ∧ ((a.event 6 (BitVec.ofNat 64 m)).run.events.get {} 6).res1 = _ at ep
  have eh : (a.event 6 (BitVec.ofNat 64 m)).run.hcause = a.run.hcause := ef.2.2.2
  generalize a.event 6 (BitVec.ofNat 64 m) = b at *
  have hb : ((b.onFlt fun f => { f with partner := true, partnerMod := m }).holdFor 3).run.st = .held ∧ (b.run.hcause < 5 → ((b.onFlt fun f => { f with partner := true, partnerMod := m }).holdFor 3).run.hcause = 3) ∧
      ((b.onFlt fun f => { f with partner := true, partnerMod := m }).holdFor 3).flt = { b.flt with partner := true, partnerMod := m } ∧ ((b.onFlt fun f => { f with partner := true, partnerMod := m }).holdFor 3).log = b.log ∧
      ((b.onFlt fun f => { f with partner := true, partnerMod := m }).holdFor 3).run.events = b.run.events := ⟨rfl, fun h => if_neg (fun k => Nat.not_lt.mpr k.2 h), rfl, rfl, rfl⟩
  rw [sh] at eh
  rw [eh] at hb
  generalize (b.onFlt fun f => { f with partner := true, partnerMod := m }).holdFor 3 = c at *
  obtain ⟨h1, h2, h3, h4, h5⟩ := hb
  obtain ⟨r1, r2, r3, r4, r5, r6, _, r7⟩ := startRewind_facts c
  obtain ⟨j1, j2, j3⟩ := rejoin_facts c.startRewind
  refine ⟨by rw [j1, r1, h1], fun hc => by rw [j1, r2, h2 hc], by rw [j3.1, r3, h3], by rw [j3.2.1, r4, h3], by rw [j2, r5, h4, ef.2.1]; exact l, by rw [j1, r6, h5]; exact ep.1,
    by rw [j1, r6, h5]; exact ep.2.2, ?_⟩
  intro hp hc
  exact j3.2.2.2 (r7 (by rw [h3, ← hp, ← sf, ← ef.1]) (by rw [h2 hc]; decide)).1

/-! The health log. -/

/-- A record that was logged is the last of the log. -/
theorem logHealth_last (s : State) (h : HealthRec) : ∃ x, (s.logHealth h).log.recs.getLast? = some x ∧ x.item = h ∧ x.step = s.run.step := by
  unfold State.logHealth
  simp only
  refine ⟨⟨s.time, s.run.step, h, if s.log.seq = 0xFFFFFFFF then 1 else s.log.seq + 1⟩, ?_, rfl, rfl⟩
  generalize (⟨s.time, s.run.step, h, if s.log.seq = 0xFFFFFFFF then 1 else s.log.seq + 1⟩ : LogRec) = x
  split
  · cases e : s.log.recs with
    | nil => rename_i g; rw [e] at g; simp at g
    | cons a l => simp
  · simp

/-! What a step boundary keeps of the store. -/

/-- Whether a byte lies in a commit store is said by the configuration alone. -/
theorem offSnap_cfg {s t : State} {b : Nat} (h : t.cfg = s.cfg) (o : s.offSnap b) : t.offSnap b := by
  unfold State.offSnap State.serviceRegions State.inService State.snapLines State.stepCourse State.course State.column State.phys at *
  rw [h]
  exact o

/-- A run of whole lines written leaves every byte outside them as it was, and the configuration. -/
theorem foldl_foreign_get (r : Nat) (b : Nat) (l : List (Nat × Nat)) (s : State)
    (h : ∀ x ∈ l, ¬ (lineKey (s.column r) x.1 0 * 2048 + x.2 * 2048 ≤ b ∧ b < lineKey (s.column r) x.1 0 * 2048 + x.2 * 2048 + 2048)) :
    let t := l.foldl (fun s x => let (d, s) := s.foreignLine; s.writeLinePart r x.1 x.2 0 d) s
    Tab.get (0 : Byte) t.store.mem b = Tab.get (0 : Byte) s.store.mem b ∧ t.cfg = s.cfg := by
  induction l generalizing s with
  | nil => exact ⟨rfl, rfl⟩
  | cons x l ih =>
    have c : (s.foreignLine.2.writeLinePart r x.1 x.2 0 s.foreignLine.1).cfg = s.cfg := onlyChanges_cfg (onlyChanges_trans (onlyChanges_mono (fresh_changes s) (m := [.free, .lregions, .net, .store, .orc]) (by simp)) (onlyChanges_mono (writeLinePart_changes s.foreignLine.2 r x.1 x.2 0 s.foreignLine.1) (by simp))) (by decide)
    have e : (s.foreignLine.2.writeLinePart r x.1 x.2 0 s.foreignLine.1).column r = s.column r := by unfold State.column State.phys; rw [c]
    have len : s.foreignLine.1.length = 2048 := leBytes_length _ _
    have st := writeLinePart_stores s.foreignLine.2 r x.1 x.2 0 s.foreignLine.1 (by omega) b
    have hx := h x List.mem_cons_self
    rw [len, Nat.add_zero] at st
    rw [if_neg (by exact hx)] at st
    have i := ih _ (fun y hy => by rw [e]; exact h y (List.mem_cons_of_mem _ hy))
    exact ⟨i.1.trans st, i.2.trans c⟩

/-- A snapshot's write changes the commit stores alone (R280). -/
theorem writeSnap_off (s : State) (runB : Bool) (b : Nat) (o : s.offSnap b) : Tab.get (0 : Byte) (s.writeSnap runB).store.mem b = Tab.get (0 : Byte) s.store.mem b ∧ (s.writeSnap runB).cfg = s.cfg := by
  have go : ∀ (l : List Nat) (u : State), u.cfg = s.cfg → (∀ r ∈ l, r ∈ s.serviceRegions) →
      let t := l.foldl (fun s r => (s.snapLines runB r).foldl (fun s l => let (d, s) := s.foreignLine; s.writeLinePart r l.1 l.2 0 d) s) u
      Tab.get (0 : Byte) t.store.mem b = Tab.get (0 : Byte) u.store.mem b ∧ t.cfg = s.cfg := by
    intro l
    induction l with
    | nil => exact fun u c _ => ⟨rfl, c⟩
    | cons r l ih =>
      intro u c m
      have q := foldl_foreign_get r b (u.snapLines runB r) u (by
        have o' := offSnap_cfg c o
        have mr : r ∈ u.serviceRegions := by
          have := m r List.mem_cons_self
          unfold State.serviceRegions State.inService at *
          rw [c]; exact this
        exact o' r mr runB)
      have i := ih _ (q.2.trans c) fun r hr => m r (List.mem_cons_of_mem _ hr)
      exact ⟨i.1.trans q.1, i.2⟩
  exact go _ s rfl fun _ h => h

theorem boundarySnap_off (s : State) (b : Nat) (o : s.offSnap b) : Tab.get (0 : Byte) s.boundarySnap.store.mem b = Tab.get (0 : Byte) s.store.mem b := by
  unfold State.boundarySnap
  rw [onlyChanges_store (settleSnap_changes _) (by decide)]
  exact (writeSnap_off s _ b o).1

/-- A step boundary that goes on leaves the store outside the commit stores as it is. -/
theorem goOn_off (s : State) (b : Nat) (o : s.offSnap b) : Tab.get (0 : Byte) s.goOn.store.mem b = Tab.get (0 : Byte) s.store.mem b := by
  have tb (u : State) : u.tryBegin.store.mem = u.store.mem := by unfold State.tryBegin State.beginStep; split <;> rfl
  have cb : Tab.get (0 : Byte) s.crossBoundary.store.mem b = Tab.get (0 : Byte) s.store.mem b := by
    unfold State.crossBoundary
    extract_lets v
    have hv : Tab.get (0 : Byte) v.store.mem b = Tab.get (0 : Byte) s.store.mem b := by
      show Tab.get (0 : Byte) (if _ then s else s.boundarySnap).store.mem b = _
      split
      · rfl
      · exact boundarySnap_off s b o
    split
    · exact hv
    · rw [tb, onlyChanges_store (sendTokens_changes v) (by decide), hv]
  unfold State.goOn
  split
  · split
    · rfl
    · exact congrArg (fun t : StoreSt => Tab.get (0 : Byte) t.mem b) (onlyChanges_store (startApply_changes s) (by decide))
  · split
    · split
      · exact congrArg (fun t : StoreSt => Tab.get (0 : Byte) t.mem b) (onlyChanges_store (stopAtLimit_changes s) (by decide))
      · split
        · rw [tb s]
        · split
          · rfl
          · exact cb
    · rfl

theorem advance_off (s : State) (b : Nat) (o : s.offSnap b) : Tab.get (0 : Byte) s.advance.store.mem b = Tab.get (0 : Byte) s.store.mem b := by
  unfold State.advance State.settleStop
  split
  · rfl
  · split
    · have h := finishHolds_in (all_ := true) (res0 := s.run.step - 1) (res1 := BitVec.ofNat 64 s.lastMb) (stopHere_in (onlyChanges_refl [.run, .brg] s) (by decide)) (by decide)
      exact (goOn_off _ b (offSnap_cfg (onlyChanges_cfg h (by decide)) o)).trans (congrArg (fun t : StoreSt => Tab.get (0 : Byte) t.mem b) (onlyChanges_store h (by decide)))
    · exact goOn_off s b o

/-- A settled slot's feeds leave the store outside the commit stores as it is (R153). -/
theorem settleFeeds_off (s : State) (b : Nat) (o : s.offSnap b) : Tab.get (0 : Byte) s.settleFeeds.store.mem b = Tab.get (0 : Byte) s.store.mem b := by
  have one (u : State) (x : CmdHdr × U64) (o : u.offSnap b) : Tab.get (0 : Byte) (u.settleFeed x).store.mem b = Tab.get (0 : Byte) u.store.mem b := by
    unfold State.settleFeed
    split
    · unfold State.endFeed
      simp only
      split
      · rfl
      · split
        · rfl
        · exact advance_off _ b o
    · rfl
  unfold State.settleFeeds
  generalize s.run.feeds = l
  induction l generalizing s with
  | nil => rfl
  | cons x l ih =>
    have c : (s.settleFeed x).cfg = s.cfg := onlyChanges_cfg (settleFeed_changes s x) (by decide)
    rw [List.foldl_cons, ih _ (offSnap_cfg c o), one s x o]

/-! Orchard rows and runs of lines (R156). -/

theorem writeSram_get (s : State) (r c off : Nat) (d : List Byte) (b : Nat) (h : ¬ (s.sramBase r c + off ≤ b ∧ b < s.sramBase r c + off + d.length)) :
    Tab.get (0 : Byte) (s.writeSram r c off d).sram b = Tab.get (0 : Byte) s.sram b := by
  have := writeMem_stores s.sram (s.sramBase r c + off) d b
  rw [if_neg h] at this
  exact this

theorem writeVectors_sram (s : State) (r : Nat) (t : OrcTable) (o : Nat × Nat × Nat × Nat) (row place b : Nat) (h : offVectors s t b) :
    Tab.get (0 : Byte) (s.writeVectors r t o row place).sram b = Tab.get (0 : Byte) s.sram b := by
  unfold State.writeVectors
  split
  · rfl
  · split
    · rfl
    · simp only
      rename_i l _
      generalize hA : leBytes 8 _ = A
      have al : A.length = 8 := by rw [← hA]; exact leBytes_length _ _
      have inner (q : Nat) (l : List OrcConsumer) (hl : ∀ x ∈ l, x ∈ (s.course q).orcCons ∧ x.table = t.table) : ∀ u : State, onlyChanges [.sram] s u →
          Tab.get (0 : Byte) (l.foldl (fun (s : State) x => s.writeSram q x.core (x.soff + 8 * place) A) u).sram b = Tab.get (0 : Byte) u.sram b ∧
          onlyChanges [.sram] s (l.foldl (fun (s : State) x => s.writeSram q x.core (x.soff + 8 * place) A) u) := by
        induction l with
        | nil => intro u hu; exact ⟨rfl, hu⟩
        | cons x l ih =>
          intro u hu
          rw [List.foldl_cons]
          have hx := hl x List.mem_cons_self
          have ub : u.sramBase q x.core = s.sramBase q x.core := by
            have c := onlyChanges_cfg hu (by decide)
            have g := onlyChanges_flt hu (by decide)
            unfold State.sramBase State.pcore State.phys
            rw [c, g]
          have w := writeSram_get u q x.core (x.soff + 8 * place) A b (by rw [ub, al]; exact h q x hx.1 hx.2 place)
          obtain ⟨i1, i2⟩ := ih (fun y hy => hl y (List.mem_cons_of_mem _ hy)) (u.writeSram q x.core (x.soff + 8 * place) A) (writeSram_in hu (by decide))
          exact ⟨i1.trans w, i2⟩
      have outer (l : List Nat) : ∀ u : State, onlyChanges [.sram] s u →
          Tab.get (0 : Byte) (l.foldl (fun (s : State) q => ((s.course q).orcCons.filter fun x => x.table = t.table).foldl (fun (s : State) x => s.writeSram q x.core (x.soff + 8 * place) A) s) u).sram b = Tab.get (0 : Byte) u.sram b := by
        induction l with
        | nil => intro u _; rfl
        | cons q l ih =>
          intro u hu
          rw [List.foldl_cons]
          have uc : u.course q = s.course q := by unfold State.course; rw [onlyChanges_cfg hu (by decide)]
          obtain ⟨i1, i2⟩ := inner q ((u.course q).orcCons.filter fun x => x.table = t.table) (by
            intro x hx
            rw [uc] at hx
            have := List.mem_filter.1 hx
            exact ⟨this.1, by simpa using this.2⟩) u hu
          rw [ih _ i2, i1]
      exact outer _ s (onlyChanges_refl _ _)

/-- The announcement of micro-batches writes row vectors alone (R156). -/
theorem orcProgress_sram (s : State) (r : Nat) (t : OrcTable) (o : Nat × Nat × Nat × Nat) (n b : Nat) (h : offVectors s t b) :
    Tab.get (0 : Byte) (s.orcProgress r t o n).sram b = Tab.get (0 : Byte) s.sram b := by
  have keep (u v : State) (hu : onlyChanges [.sram, .lregions, .bat] u v) (hh : offVectors u t b) : offVectors v t b := by
    have c := onlyChanges_cfg hu (by decide)
    have g := onlyChanges_flt hu (by decide)
    intro q x hx ht place
    have e1 : v.course q = u.course q := by unfold State.course; rw [c]
    have e2 : v.sramBase q x.core = u.sramBase q x.core := by unfold State.sramBase State.pcore State.phys; rw [c, g]
    rw [e2]; rw [e1] at hx
    exact hh q x hx ht place
  induction n generalizing s with
  | zero => rfl
  | succ n ih =>
    unfold State.orcProgress
    simp only
    split
    · have fold (l : List (Nat × Nat)) : ∀ u : State, offVectors u t b →
          Tab.get (0 : Byte) (l.foldl (fun (s : State) x => s.writeVectors r t o x.1 x.2) u).sram b = Tab.get (0 : Byte) u.sram b ∧ offVectors (l.foldl (fun (s : State) x => s.writeVectors r t o x.1 x.2) u) t b := by
        induction l with
        | nil => intro u hu; exact ⟨rfl, hu⟩
        | cons x l il =>
          intro u hu
          rw [List.foldl_cons]
          obtain ⟨a, c⟩ := il (u.writeVectors r t o x.1 x.2) (keep u _ (writeVectors_in (onlyChanges_refl _ _) (by decide)) hu)
          exact ⟨a.trans (writeVectors_sram u r t o x.1 x.2 b hu), c⟩
      obtain ⟨f1, f2⟩ := fold (s.ownRows r t ((s.lreg r).orcTold.get 0 t.table)) s h
      rw [ih]
      · exact f1
      · exact keep _ _ (onLreg_in (sendEmits_in (onlyChanges_refl _ _) (by decide)) (by decide)) f2
    · rfl

theorem flatMap_length_le {α β : Type} (f : α → List β) (n : Nat) (h : ∀ x, (f x).length ≤ n) (l : List α) : (l.flatMap f).length ≤ n * l.length := by
  induction l with
  | nil => simp
  | cons x l ih => rw [List.flatMap_cons, List.length_append, List.length_cons, Nat.mul_succ]; have := h x; omega

theorem workingHalf_length (old : List Byte) (h : Nat) (m : List Byte) : (workingHalf old h m).length ≤ 2048 := by
  have := flatMap_length_le (fun x => let o := blockSrc x; if o / 2048 = h then leBytes 2 (workElem m (o % 2048 / 4)).1 else (old.drop (2 * x)).take 2) 2 (by
    intro x
    simp only
    split
    · exact Nat.le_of_eq (leBytes_length _ _)
    · rw [List.length_take]; omega) (List.range 1024)
  rw [List.length_range] at this
  exact this

/-- Lines written leave every byte outside them as it was. -/
theorem foldl_lines_get (f : State → Nat × Nat → State) (r b : Nat) (s : State) (cf : ∀ u x, (f u x).column r = u.column r)
    (wr : ∀ u x, ¬ (lineKey (u.column r) x.1 0 * 2048 + x.2 * 2048 ≤ b ∧ b < lineKey (u.column r) x.1 0 * 2048 + x.2 * 2048 + 2048) → Tab.get (0 : Byte) (f u x).store.mem b = Tab.get (0 : Byte) u.store.mem b)
    (l : List (Nat × Nat)) (h : ∀ x ∈ l, ¬ (lineKey (s.column r) x.1 0 * 2048 + x.2 * 2048 ≤ b ∧ b < lineKey (s.column r) x.1 0 * 2048 + x.2 * 2048 + 2048)) :
    Tab.get (0 : Byte) (l.foldl f s).store.mem b = Tab.get (0 : Byte) s.store.mem b := by
  induction l generalizing s with
  | nil => rfl
  | cons x l ih =>
    rw [List.foldl_cons, ih _ (fun y hy => by rw [cf]; exact h y (List.mem_cons_of_mem _ hy)), wr s x (h x List.mem_cons_self)]

/-! Fills and line writes. -/

theorem writeLinePart_fills (s : State) (r bank line off : Nat) (d : List Byte) : (s.writeLinePart r bank line off d).orc.fills = s.orc.fills ∧ (s.writeLinePart r bank line off d).orc.fillCount = s.orc.fillCount := by
  unfold State.writeLinePart State.changeLine
  simp only
  have oc (u : State) : (u.orcWritten r bank line).orc.fills = u.orc.fills ∧ (u.orcWritten r bank line).orc.fillCount = u.orc.fillCount := by
    unfold State.orcWritten; split <;> exact ⟨rfl, rfl⟩
  have qd (u : State) a b c e : (u.queueDelta r bank line a b c e).orc = u.orc := onlyChanges_orc (queueDelta_changes ..) (by decide)
  have od (u : State) a b : (u.outerDeltas r bank line a b).orc = u.orc := onlyChanges_orc (outerDeltas_changes ..) (by decide)
  split
  · rw [(oc _).1, (oc _).2, od]
    split
    · split
      · exact ⟨rfl, rfl⟩
      · rw [qd]; exact ⟨rfl, rfl⟩
    · exact ⟨rfl, rfl⟩
  · split
    · split
      · exact ⟨rfl, rfl⟩
      · rw [qd]; exact ⟨rfl, rfl⟩
    · exact ⟨rfl, rfl⟩

/-! DMA channels. -/

/-- Read requests touch of a channel what waits to leave, what waits to be read and how much is asked for (R198). -/
theorem askMore_chan (s : State) (k : Nat) : (∃ b a rs, (s.askMore k).chan k = { s.chan k with buf := b, asked := a, reads := rs }) ∧ sameBut {} k s.dma (s.askMore k).dma := by
  have one (u : State) : (∃ b a rs, (u.askOne k).chan k = { u.chan k with buf := b, asked := a, reads := rs }) ∧ sameBut {} k u.dma (u.askOne k).dma := by
    unfold State.askOne
    simp only
    split
    · exact ⟨⟨_, _, _, rfl⟩, sameBut_refl _ _ _⟩
    · split
      · split
        · rw [State.chan_onChan_self]
          exact ⟨⟨_, _, _, rfl⟩, onChan_sameBut _ _ _⟩
        · unfold State.chanSend
          rw [State.chan_onChan_self, State.chan_onChan_self]
          exact ⟨⟨_, _, _, rfl⟩, sameBut_trans (onChan_sameBut _ _ _) (onChan_sameBut _ _ _)⟩
      · exact ⟨⟨_, _, _, rfl⟩, sameBut_refl _ _ _⟩
  unfold State.askMore
  generalize 16 = n
  induction n with
  | zero => exact ⟨⟨_, _, _, rfl⟩, sameBut_refl _ _ _⟩
  | succ n ih =>
    unfold loopN
    obtain ⟨⟨b, a, q, e⟩, f⟩ := ih
    obtain ⟨⟨c, d, p, g⟩, h⟩ := one (loopN (fun _ s => s.askOne k) n s)
    rw [g, e]
    exact ⟨⟨_, _, _, rfl⟩, sameBut_trans f h⟩

/-! Lanes and their links (R228 to R236). -/

theorem link_onLink_self (s : State) (e j : Nat) (f : LinkSt → LinkSt) : (s.onLink e j f).link e j = f (s.link e j) := by
  unfold State.link State.onLink
  rw [State.engine_onEng_self]
  exact Tab.get_upd_self ({} : LinkSt) _ j f

theorem link_onLink_ne (s : State) (e : Nat) {j i : Nat} (f : LinkSt → LinkSt) (h : i ≠ j) : (s.onLink e j f).link e i = s.link e i := by
  unfold State.link State.onLink
  rw [State.engine_onEng_self]
  exact Tab.get_upd_ne ({} : LinkSt) _ f h

/-- A link's change: the link itself, the other links, the rest of the engine, the other engines. -/
theorem onLink_only (s : State) (e j : Nat) (f : LinkSt → LinkSt) : linkOnly e j (f (s.link e j)) s (s.onLink e j f) :=
  ⟨link_onLink_self .., fun _ h => link_onLink_ne _ _ _ h, ⟨(s.engine e).links.upd {} j f, State.engine_onEng_self ..⟩, onEng_sameBut _ _ _⟩

/-- What is said of a link holds of any state with the same engines. -/
theorem linkOnly_same {s t u : State} {e j : Nat} {x : LinkSt} (h : linkOnly e j x s t) (hu : u.eng = t.eng) : linkOnly e j x s u := by
  have eq : ∀ i, u.engine i = t.engine i := State.engine_same hu
  obtain ⟨a, b, c, d⟩ := h
  refine ⟨?_, ?_, by rw [eq]; exact c, by rw [hu]; exact d⟩
  · unfold State.link at a ⊢; rw [eq]; exact a
  · intro i hi; have := b i hi; unfold State.link at this ⊢; rw [eq]; exact this

theorem linkOnly_trans {s t u : State} {e j : Nat} {x y : LinkSt} (h : linkOnly e j x s t) (g : linkOnly e j y t u) : linkOnly e j y s u := by
  obtain ⟨_, b, ⟨k, c⟩, d⟩ := h
  obtain ⟨g1, g2, ⟨l, g3⟩, g4⟩ := g
  exact ⟨g1, fun i hi => (g2 i hi).trans (b i hi), ⟨l, by rw [g3, c]⟩, sameBut_trans d g4⟩

theorem linkOnly_refl (s : State) (e j : Nat) : linkOnly e j (s.link e j) s s := ⟨rfl, fun _ _ => rfl, ⟨(s.engine e).links, rfl⟩, sameBut_refl _ _ _⟩

theorem linkDown_only (s : State) (e j : Nat) : linkOnly e j ((s.link e j).downed (s.link e j).aligns) s (s.linkDown e j) := by
  have h := onLink_only s e j fun x => x.downed x.aligns
  unfold State.linkDown
  dsimp only
  split
  · exact linkOnly_same h rfl
  · exact h

theorem linkDown_facts (s : State) (e j : Nat) :
    (s.linkDown e j).cfg = s.cfg ∧ (s.linkDown e j).out = s.out ∧
    ((s.link e j).st = .up → ∃ x, (s.linkDown e j).log.recs.getLast? = some x ∧ x.item.cls = 0x31 ∧ x.item.sub = e * 8 + j) := by
  refine ⟨onlyChanges_cfg (linkDown_changes s e j) (by decide), onlyChanges_out (linkDown_changes s e j) (by decide), fun hu => ?_⟩
  unfold State.linkDown
  dsimp only
  rw [if_pos hu]
  obtain ⟨x, x1, x2, _⟩ := logHealth_last (s.onLink e j fun x => x.downed x.aligns) { cls := 0x31, action := 7, sub := e * 8 + j }
  exact ⟨x, x1, by rw [x2], by rw [x2]⟩

/-- Lanes in service are read off the lanes and the declarations. -/
theorem serviceLanes_same {s t : State} (e j : Nat) (h : (t.engine e).lanes = (s.engine e).lanes) (hc : t.cfg.links = s.cfg.links) : t.serviceLanes e j = s.serviceLanes e j := by
  unfold State.serviceLanes State.linkHasFibre State.linkDecl State.engineDeclared State.lane
  rw [h, hc]

theorem minLanes_same {s t : State} (e j : Nat) (hc : t.cfg.links = s.cfg.links) : t.minLanes e j = s.minLanes e j := by
  unfold State.minLanes State.linkDecl
  rw [hc]

/-- A link that wakes starts to align; no other link changes. -/
theorem linkWake_facts (s : State) (e j : Nat) :
    linkOnly e j (if (s.link e j).st = .down ∧ (s.engine e).ok ∧ 0 < (s.serviceLanes e j).length ∧ s.minLanes e j ≤ (s.serviceLanes e j).length then
      { s.link e j with st := .align, lanes := s.serviceLanes e j } else s.link e j) s (s.linkWake e j) ∧ (s.linkWake e j).cfg = s.cfg ∧ (s.linkWake e j).log = s.log ∧
    (s.linkWake e j).out = s.out := by
  refine ⟨?_, onlyChanges_cfg (linkWake_changes s e j) (by decide), onlyChanges_log (linkWake_changes s e j) (by decide), onlyChanges_out (linkWake_changes s e j) (by decide)⟩
  unfold State.linkWake
  by_cases h : (s.link e j).st = .down ∧ (s.engine e).ok = true ∧ 0 < (s.serviceLanes e j).length ∧ s.minLanes e j ≤ (s.serviceLanes e j).length
  · rw [if_pos h, if_pos h]; exact onLink_only s e j fun x => { x with st := .align, lanes := s.serviceLanes e j }
  · rw [if_neg h, if_neg h]; exact linkOnly_refl ..

/-- A link with its lanes is not starved. -/
theorem linkStarve_none {s : State} {e j : Nat} (h : s.minLanes e j ≤ (s.serviceLanes e j).length) : s.linkStarve e j = s := by
  unfold State.linkStarve
  rw [if_neg fun g => absurd g.2 (Nat.not_lt.mpr h)]

/-- A link that is not down does not wake. -/
theorem linkWake_none {s : State} {e j : Nat} (h : (s.link e j).st ≠ .down) : s.linkWake e j = s := by
  unfold State.linkWake
  rw [if_neg fun g => h g.1]

/-- The room for one more frame is said by the engine's links alone. -/
theorem hasRoom_same {s t : State} {e : Nat} (h : (t.engine e).links = (s.engine e).links) (j : Nat) : t.hasRoom e j = s.hasRoom e j := by
  unfold State.hasRoom State.frameShare EngineSt.outstanding State.link
  rw [h]

/-- A link below the lanes it needs goes down; no other link changes. -/
theorem linkStarve_facts (s : State) (e j : Nat) :
    linkOnly e j (if (s.link e j).st ≠ .down ∧ (s.serviceLanes e j).length < s.minLanes e j then (s.link e j).downed (s.link e j).aligns else s.link e j) s (s.linkStarve e j) ∧
    (s.linkStarve e j).cfg = s.cfg ∧ (s.linkStarve e j).out = s.out := by
  refine ⟨?_, onlyChanges_cfg (linkStarve_changes s e j) (by decide), onlyChanges_out (linkStarve_changes s e j) (by decide)⟩
  unfold State.linkStarve
  by_cases h : (s.link e j).st ≠ .down ∧ (s.serviceLanes e j).length < s.minLanes e j
  · rw [if_pos h, if_pos h]; exact linkDown_only ..
  · rw [if_neg h, if_neg h]; exact linkOnly_refl ..

/-- When a link announces a change of its lanes (R233). -/
def State.tells (s : State) (e j : Nat) : Prop :=
  (s.link e j).st = .up ∧ (s.link e j).agreed = false ∧ s.hasRoom e j = true ∧ ((s.link e j).lanes ≠ s.serviceLanes e j ∨ ∃ m ∈ s.serviceLanes e j, (s.lane e m).mark = true)

theorem linkAnnounce_facts (s : State) (e j : Nat) :
    (s.tells e j → linkOnly e j (s.link e j).announced s (s.linkAnnounce e j) ∧ (s.linkAnnounce e j).out = s.out ++ [.frame e j (changeFrame (s.link e j).fseq (s.link e j).rxLast)]) ∧
    (¬ s.tells e j → s.linkAnnounce e j = s) ∧ (s.linkAnnounce e j).cfg = s.cfg ∧ (s.linkAnnounce e j).log = s.log := by
  have hc : ((s.link e j).st = .up ∧ !(s.link e j).agreed ∧ s.hasRoom e j ∧ ((s.link e j).lanes ≠ s.serviceLanes e j ∨ (s.serviceLanes e j).any fun l => (s.lane e l).mark)) ↔ s.tells e j := by
    unfold State.tells
    rw [Bool.not_eq_true', List.any_eq_true]
  refine ⟨fun h => ?_, fun h => ?_, onlyChanges_cfg (linkAnnounce_changes s e j) (by decide), onlyChanges_log (linkAnnounce_changes s e j) (by decide)⟩
  · unfold State.linkAnnounce
    dsimp only
    rw [if_pos (hc.mpr h)]
    have a := onLink_only s e j fun x => { x with outst := x.outst ++ [{ seq := x.fseq, change := true }], fseq := x.fseq + 1 }
    have g := onLink_only (s.keepFrame e j { seq := 0, change := true }) e j fun x => { x with agreed := true }
    rw [show (s.keepFrame e j { seq := 0, change := true }).link e j = _ from a.link] at g
    exact ⟨linkOnly_same (linkOnly_trans a g) rfl, rfl⟩
  · unfold State.linkAnnounce
    dsimp only
    rw [if_neg (fun g => h (hc.mp g))]

/-- A lane changes, and its link follows. -/
theorem setLane_becomes (s : State) (e l : Nat) (f : LaneSt → LaneSt) :
    laneBecomes e l (f (s.lane e l)) s (s.setLane e l f) ∧ ((s.setLane e l f).engine e).retCount = (s.engine e).retCount ∧ (s.setLane e l f).cfg = s.cfg ∧
    (∀ j, s.laneLink e l = some j → (s.link e j).st = .up → ((s.setLane e l f).serviceLanes e j).length < s.minLanes e j →
      ∃ x, (s.setLane e l f).log.recs.getLast? = some x ∧ x.item.cls = 0x31 ∧ x.item.sub = e * 8 + j) := by
  let u := s.onLane e l f
  have ue : u.engine e = { s.engine e with lanes := (s.engine e).lanes.upd {} l f } := State.engine_onEng_self ..
  have ul : u.lane e l = f (s.lane e l) := by unfold State.lane; rw [ue]; exact Tab.get_upd_self ({} : LaneSt) _ l f
  have un : sameBut {} l (s.engine e).lanes (u.engine e).lanes := by rw [ue]; exact fun _ h => Tab.get_upd_ne ({} : LaneSt) _ f h
  have uk (j : Nat) : u.link e j = s.link e j := by unfold State.link; rw [ue]
  have us : sameBut {} e s.eng u.eng := onEng_sameBut _ _ _
  have uc : u.cfg = s.cfg := rfl
  have uo : u.out = s.out := rfl
  have um : u.laneLink e l = s.laneLink e l := by unfold State.laneLink State.linkHasFibre State.linkDecl State.engineDeclared; rw [uc]
  have key : s.setLane e l f = match u.laneLink e l with | none => u | some j => ((u.linkStarve e j).linkWake e j).linkAnnounce e j := rfl
  clear_value u
  rw [um] at key
  rw [key]
  cases hj : s.laneLink e l with
  | none =>
    simp only
    exact ⟨⟨ul, un, fun j _ => uk j, (fun j h => by rw [hj] at h; cases h), (fun j h => by rw [hj] at h; cases h), (fun j h => by rw [hj] at h; cases h), (fun j h => by rw [hj] at h; cases h),
      ⟨_, _, _, ue⟩, us⟩, by rw [ue], uc, fun j h => by cases h⟩
  | some j =>
    simp only
    have vlog (hup : (u.link e j).st = .up) (hn : (u.serviceLanes e j).length < u.minLanes e j) :
        ∃ x, (u.linkStarve e j).log.recs.getLast? = some x ∧ x.item.cls = 0x31 ∧ x.item.sub = e * 8 + j := by
      unfold State.linkStarve
      rw [if_pos ⟨by rw [hup]; decide, hn⟩]
      exact (linkDown_facts u e j).2.2 hup
    have stay : s.minLanes e j ≤ (u.serviceLanes e j).length → (u.link e j).st ≠ .down → ((u.linkStarve e j).linkWake e j).hasRoom e j = s.hasRoom e j := by
      intro hn hd
      have hn' : u.minLanes e j ≤ (u.serviceLanes e j).length := by rw [minLanes_same (s := s) e j (by rw [uc])]; exact hn
      rw [linkStarve_none hn', linkWake_none hd]
      exact hasRoom_same (by rw [ue]) j
    obtain ⟨⟨v0, v1, ⟨vl, v2⟩, v3⟩, v4, v5⟩ := linkStarve_facts u e j
    generalize u.linkStarve e j = v at *
    obtain ⟨⟨w0, w1, ⟨wl, w2⟩, w3⟩, w4, w5, w6⟩ := linkWake_facts v e j
    generalize v.linkWake e j = w at *
    obtain ⟨yes, no, x4, x5⟩ := linkAnnounce_facts w e j
    have wlanes : (w.engine e).lanes = (u.engine e).lanes := by rw [w2, v2]
    have vsl : v.serviceLanes e j = u.serviceLanes e j := serviceLanes_same _ _ (by rw [v2]) (by rw [v4])
    have wsl : w.serviceLanes e j = u.serviceLanes e j := serviceLanes_same _ _ wlanes (by rw [w4, v4])
    have vm : v.minLanes e j = s.minLanes e j := minLanes_same _ _ (by rw [v4, uc])
    have um2 : u.minLanes e j = s.minLanes e j := minLanes_same _ _ (by rw [uc])
    have vok : (v.engine e).ok = (s.engine e).ok := by rw [v2, ue]
    rw [uk, um2] at v0
    rw [vsl, vm, vok] at w0
    have xf : (∀ i, i ≠ j → (w.linkAnnounce e j).link e i = w.link e i) ∧ (∃ lk, (w.linkAnnounce e j).engine e = { w.engine e with links := lk }) ∧ sameBut {} e w.eng (w.linkAnnounce e j).eng := by
      by_cases h : w.tells e j
      · obtain ⟨⟨_, a, b, c⟩, _⟩ := yes h
        exact ⟨a, b, c⟩
      · rw [no h]; exact ⟨fun _ _ => rfl, ⟨(w.engine e).links, rfl⟩, sameBut_refl _ _ _⟩
    obtain ⟨x1, ⟨xl, x2⟩, x3⟩ := xf
    have xlanes : ((w.linkAnnounce e j).engine e).lanes = (u.engine e).lanes := by rw [x2, wlanes]
    have xlane (m : Nat) : (w.linkAnnounce e j).lane e m = u.lane e m := by unfold State.lane; rw [xlanes]
    have wlane (m : Nat) : w.lane e m = u.lane e m := by unfold State.lane; rw [wlanes]
    have xsl : (w.linkAnnounce e j).serviceLanes e j = u.serviceLanes e j := serviceLanes_same _ _ xlanes (by rw [x4, w4, v4])
    refine ⟨⟨?_, ?_, ?_, ?_, ?_, ?_, ?_, ?_, ?_⟩, ?_, ?_, ?_⟩
    · rw [xlane, ul]
    · rw [xlanes]; exact un
    · intro i hi
      have : i ≠ j := fun e => hi (by rw [e, hj])
      rw [x1 i this, w1 i this, v1 i this, uk]
    · intro i hi hn
      rw [hj] at hi; cases hi
      rw [xsl] at hn
      have wd : (w.link e j).st = .down := by
        have vd : (v.link e j).st = .down := by
          rw [v0]
          by_cases hd : (s.link e j).st = .down
          · rw [if_neg (fun g => g.1 hd)]; exact hd
          · rw [if_pos ⟨hd, hn⟩]; rfl
        rw [w0, if_neg (fun g => absurd hn (by omega))]
        exact vd
      rw [no (fun g => by have := g.1; rw [wd] at this; cases this)]
      exact wd
    · intro i hi hd hk h0 hn
      rw [hj] at hi; cases hi
      rw [xsl] at h0 hn ⊢
      have hv : v.link e j = s.link e j := by rw [v0, if_neg (fun g => g.1 hd)]
      rw [hv, if_pos ⟨hd, hk, h0, hn⟩] at w0
      rw [no (fun g => by have := g.1; rw [w0] at this; cases this)]
      exact w0
    · intro i hi hn hup ha hr hch
      rw [hj] at hi; cases hi
      rw [xsl] at hn hch
      have hv : v.link e j = s.link e j := by rw [v0, if_neg (fun g => absurd hn (by omega))]
      rw [hv, if_neg (fun g => by have := g.1; rw [hup] at this; cases this)] at w0
      have tl : w.tells e j := by
        refine ⟨by rw [w0]; exact hup, by rw [w0]; exact ha, by rw [stay hn (by rw [uk, hup]; decide)]; exact hr, ?_⟩
        rw [w0, wsl]
        rcases hch with h | ⟨m, h1, h2⟩
        · exact .inl h
        · exact .inr ⟨m, h1, by rw [wlane, ← xlane]; exact h2⟩
      obtain ⟨a, b⟩ := yes tl
      exact ⟨by rw [a.link, w0], by rw [b, w6, v5, uo, w0]⟩
    · intro i hi hd hn hch
      rw [hj] at hi; cases hi
      rw [xsl] at hn hch
      have hv : v.link e j = s.link e j := by rw [v0, if_neg (fun g => absurd hn (by omega))]
      rw [hv, if_neg (fun g => hd g.1)] at w0
      have nt : ¬ w.tells e j := by
        rintro ⟨a, b, d, c⟩
        rw [w0] at a b c
        rcases hch with h | h | h | ⟨h1, h2⟩
        · exact h a
        · rw [h] at b; cases b
        · rw [stay hn (by rw [uk]; exact hd), h] at d; cases d
        · rcases c with c | ⟨m, c1, c2⟩
          · exact c (by rw [wsl]; exact h1)
          · rw [wsl] at c1
            have := h2 m c1
            rw [xlane, ← wlane, c2] at this
            cases this
      rw [no nt]
      exact ⟨w0, by rw [w6, v5, uo]⟩
    · exact ⟨(u.engine e).lanes, xl, (s.engine e).retCount, by rw [x2, w2, v2, ue]⟩
    · exact sameBut_trans us (sameBut_trans v3 (sameBut_trans w3 x3))
    · rw [x2, w2, v2, ue]
    · rw [x4, w4, v4, uc]
    · intro i hi hup hn
      cases hi
      rw [xsl] at hn
      rw [x5, w5]
      exact vlog (by rw [uk]; exact hup) (by rw [um2]; exact hn)

/-- What only the lanes say of an engine, a lane's new state says of the whole engine. -/
theorem onLane_only (s : State) (e l : Nat) (f : LaneSt → LaneSt) : laneOnly e l (f (s.lane e l)) s (s.onLane e l f) := by
  have ue : (s.onLane e l f).engine e = { s.engine e with lanes := (s.engine e).lanes.upd {} l f } := State.engine_onEng_self ..
  refine ⟨?_, ?_, ⟨_, ue⟩, onEng_sameBut _ _ _⟩
  · unfold State.lane; rw [ue]; exact Tab.get_upd_self ({} : LaneSt) _ l f
  · rw [ue]; exact fun _ h => Tab.get_upd_ne ({} : LaneSt) _ f h

/-- What is said of the lanes and links holds as well after the count of retired lanes or the log changes. -/
theorem laneBecomes_count {s t u : State} {e l : Nat} {x : LaneSt} (h : laneBecomes e l x s t) (n : Nat) (hu : u.engine e = { t.engine e with retCount := n })
    (hn : sameBut {} e t.eng u.eng) (hc : u.cfg = t.cfg) (ho : u.out = t.out) : laneBecomes e l x s u := by
  have hl : (u.engine e).lanes = (t.engine e).lanes := by rw [hu]
  have hk (j : Nat) : u.link e j = t.link e j := by unfold State.link; rw [hu]
  have hs (j : Nat) : u.serviceLanes e j = t.serviceLanes e j := serviceLanes_same _ _ hl (by rw [hc])
  have hm (m : Nat) : u.lane e m = t.lane e m := by unfold State.lane; rw [hl]
  obtain ⟨h1, h2, h3, h4, h5, h9, h6, ⟨a, b, c, h7⟩, h8⟩ := h
  refine ⟨?_, ?_, ?_, ?_, ?_, ?_, ?_, ⟨a, b, n, ?_⟩, sameBut_trans h8 hn⟩
  · rw [hm]; exact h1
  · rw [hl]; exact h2
  · intro j hj; rw [hk]; exact h3 j hj
  · intro j hj hn; rw [hs] at hn; rw [hk]; exact h4 j hj hn
  · intro j hj hd ho h0 hn; rw [hs] at h0 hn ⊢; rw [hk]; exact h5 j hj hd ho h0 hn
  · intro j hj hn hp ha hr hc; rw [hs] at hn hc; simp only [hm] at hc; rw [hk, ho]; exact h9 j hj hn hp ha hr hc
  · intro j hj hd hn hc; rw [hs] at hn hc; simp only [hm] at hc; rw [hk, ho]; exact h6 j hj hd hn hc
  · rw [hu, h7]

theorem setLane_step (s : State) (e l : Nat) (f : LaneSt → LaneSt) : (s.setLane e l f).run.step = s.run.step := by
  rw [onlyChanges_run (setLane_changes s e l f) (by decide)]

theorem retireLane_retires (s : State) (e l a b : Nat) : laneRetires e l a b s (s.retireLane e l a b) ∧ (s.retireLane e l a b).cfg = s.cfg := by
  obtain ⟨b1, b2, b3, _⟩ := setLane_becomes s e l fun x => { x with st := .retired, bad := 0, badPartner := 0, mark := false }
  have bs := setLane_step s e l fun x => { x with st := .retired, bad := 0, badPartner := 0, mark := false }
  have key : s.retireLane e l a b = ((s.setLane e l fun x => { x with st := .retired, bad := 0, badPartner := 0, mark := false }).onEng e fun x => { x with retCount := x.retCount + 1 }).logHealth
    { cls := 0x30, action := 6, sub := e * 64 + l, detail := min a 0xFFFF + 2 ^ 16 * min b 0xFFFF } := rfl
  generalize (s.setLane e l fun x => { x with st := .retired, bad := 0, badPartner := 0, mark := false }) = u at *
  rw [key]
  have ve : ((u.onEng e fun x => { x with retCount := x.retCount + 1 }).logHealth
    { cls := 0x30, action := 6, sub := e * 64 + l, detail := min a 0xFFFF + 2 ^ 16 * min b 0xFFFF }).engine e = { u.engine e with retCount := (u.engine e).retCount + 1 } := by
    rw [State.engine_logHealth, State.engine_onEng_self]
  obtain ⟨x, x1, x2, x3⟩ := logHealth_last (u.onEng e fun x => { x with retCount := x.retCount + 1 }) { cls := 0x30, action := 6, sub := e * 64 + l, detail := min a 0xFFFF + 2 ^ 16 * min b 0xFFFF }
  refine ⟨⟨laneBecomes_count b1 _ ve ?_ rfl rfl, by rw [ve, b2], ⟨x, x1, by rw [x2], by rw [x2], x3.trans bs, by rw [x2]⟩⟩, b3⟩
  exact onEng_sameBut u e fun x => { x with retCount := x.retCount + 1 }

theorem failAttempt_fails (s : State) (e l a b : Nat) : attemptFails e l a b s (s.failAttempt e l a b) := by
  unfold State.failAttempt
  split
  · rename_i h
    obtain ⟨b1, b2, _, _⟩ := setLane_becomes s e l fun x => { x with st := .equalise, fails := x.fails + 1 }
    exact ⟨fun _ => ⟨b1, b2⟩, fun g => by omega⟩
  · rename_i h
    exact ⟨fun g => by omega, fun _ => (retireLane_retires s e l a b).1⟩

/-! More of lanes. -/

theorem laneBecomes_after {s u t : State} {e l : Nat} {x y : LaneSt} (h : laneBecomes e l x u t) (g : laneOnly e l y s u) (hc : u.cfg = s.cfg) (ho : u.out = s.out) : laneBecomes e l x s t := by
  obtain ⟨g1, g2, ⟨ls, g3⟩, g4⟩ := g
  have lk (j : Nat) : u.link e j = s.link e j := by unfold State.link; rw [g3]
  have ll : u.laneLink e l = s.laneLink e l := by unfold State.laneLink State.linkHasFibre State.linkDecl State.engineDeclared; rw [hc]
  have ml (j : Nat) : u.minLanes e j = s.minLanes e j := minLanes_same _ _ (by rw [hc])
  have ok : (u.engine e).ok = (s.engine e).ok := by rw [g3]
  have hr (j : Nat) : u.hasRoom e j = s.hasRoom e j := hasRoom_same (by rw [g3]) j
  obtain ⟨a1, a2, a3, a4, a5, a9, a6, ⟨p, q, n, a7⟩, a8⟩ := h
  simp only [lk, ll, ml, ok, ho, hr] at a3 a4 a5 a9 a6
  exact ⟨a1, sameBut_trans g2 a2, a3, a4, a5, a9, a6, ⟨p, q, n, by rw [a7, g3]⟩, sameBut_trans g4 a8⟩

/-- A link that goes down logs at most one record. -/
theorem linkDown_log (s : State) (e j : Nat) : (s.linkDown e j).log = s.log ∨ ∃ h, (s.linkDown e j).log = (s.logHealth h).log := by
  unfold State.linkDown
  simp only
  split
  · exact .inr ⟨{ cls := 0x31, action := 7, sub := e * 8 + j }, rfl⟩
  · exact .inl rfl

theorem setLane_log (s : State) (e l : Nat) (f : LaneSt → LaneSt) : (s.setLane e l f).log = s.log ∨ ∃ h, (s.setLane e l f).log = (s.logHealth h).log := by
  unfold State.setLane
  simp only
  split
  · exact .inl rfl
  · rw [(linkAnnounce_facts _ _ _).2.2.2, (linkWake_facts _ _ _).2.2.1]
    unfold State.linkStarve
    split
    · exact linkDown_log (s.onLane e l f) e _
    · exact .inl rfl

/-! Links: down, replayed, acknowledged (R235, R236). -/

/-- A link that goes down, whatever its count of failed alignments, and wakes if it can. -/
theorem linkFails_of (s : State) (e j n : Nat) (u : State) (hu : linkOnly e j ((s.link e j).downed n) s u) (hc : u.cfg = s.cfg)
    (hl : (s.link e j).st = .up → ∃ x, u.log.recs.getLast? = some x ∧ x.item.cls = 0x31 ∧ x.item.sub = e * 8 + j) (hf : onlyChanges [.eng, .log] s u) : linkFails e j n s (u.linkWake e j) := by
  obtain ⟨⟨w6, w1, ⟨lk, w2⟩, w3⟩, w4, w5, _⟩ := linkWake_facts u e j
  obtain ⟨h1, h2, ⟨k, h3⟩, h4⟩ := hu
  have sl : u.serviceLanes e j = s.serviceLanes e j := serviceLanes_same _ _ (by rw [h3]) (by rw [hc])
  have ml : u.minLanes e j = s.minLanes e j := minLanes_same _ _ (by rw [hc])
  have ok : (u.engine e).ok = (s.engine e).ok := by rw [h3]
  rw [sl, ml, ok, h1] at w6
  refine ⟨⟨?_, fun i hi => (w1 i hi).trans (h2 i hi), ⟨lk, by rw [w2, h3]⟩, sameBut_trans h4 w3⟩, by rw [w5]; exact hl, linkWake_in hf (by decide)⟩
  rw [w6]
  by_cases g : (s.engine e).ok = true ∧ 0 < (s.serviceLanes e j).length ∧ s.minLanes e j ≤ (s.serviceLanes e j).length
  · rw [if_pos g, if_pos ⟨rfl, g⟩]
  · rw [if_neg g, if_neg (fun h => g h.2)]

theorem linkDown_fails (s : State) (e j : Nat) : linkFails e j (s.link e j).aligns s ((s.linkDown e j).linkWake e j) := by
  obtain ⟨d5, _, d6⟩ := linkDown_facts s e j
  exact linkFails_of s e j _ _ (linkDown_only s e j) d5 d6 (linkDown_changes ..)

theorem resend_out (s : State) (e j : Nat) (fs : List SentFrame) :
    (s.resend e j fs).out = s.out ++ (fs.flatMap fun f => (f.frames (s.link e j).rxLast).map (.frame e j)) ∧ onlyChanges [.out] s (s.resend e j fs) := by
  refine ⟨?_, resend_changes ..⟩
  unfold State.resend
  have inner (os : List Frame) (u : State) : (os.foldl (fun s o => s.emitOut (.frame e j o)) u).out = u.out ++ os.map (.frame e j) ∧ (os.foldl (fun s o => s.emitOut (.frame e j o)) u).eng = u.eng := by
    induction os generalizing u with
    | nil => simp
    | cons a l ih => rw [List.foldl_cons, (ih _).1, (ih _).2]; simp [State.emitOut]
  induction fs generalizing s with
  | nil => simp
  | cons a l ih =>
    have k : ((a.frames (s.link e j).rxLast).foldl (fun s o => s.emitOut (.frame e j o)) s).link e j = s.link e j := by
      unfold State.link; rw [State.engine_same (inner _ s).2]
    rw [List.foldl_cons, ih, (inner _ _).1, k]; simp

theorem replayLink_replays (s : State) (e j : Nat) : replays e j s (s.replayLink e j) := by
  have ne : (s.link e j).outst ≠ [] → (s.link e j).outst.isEmpty = false := by cases (s.link e j).outst <;> simp
  have anyf (h : ∀ f ∈ (s.link e j).outst, f.replays < 8) : ((s.link e j).outst.any fun f => maxReplays ≤ f.replays) = false := by
    cases c : ((s.link e j).outst.any fun f => maxReplays ≤ f.replays) with
    | false => rfl
    | true =>
      obtain ⟨f, h1, h2⟩ := List.any_eq_true.mp c
      have := h f h1
      have : maxReplays ≤ f.replays := of_decide_eq_true h2
      unfold maxReplays at this
      omega
  refine ⟨fun h => ?_, fun h => ?_, fun h g => ?_⟩
  · unfold State.replayLink; simp [h]
  · have h0 : (s.link e j).outst ≠ [] := by obtain ⟨f, hf, _⟩ := h; intro e; rw [e] at hf; cases hf
    have h1 : ((s.link e j).outst.any fun f => maxReplays ≤ f.replays) = true := by
      obtain ⟨f, h1, h2⟩ := h
      exact List.any_eq_true.mpr ⟨f, h1, decide_eq_true h2⟩
    unfold State.replayLink
    simp only [ne h0, h1, if_true, Bool.false_eq_true, if_false]
    exact linkDown_fails ..
  · have key : s.replayLink e j = ((s.onLink e j fun x => { x with outst := x.outst.map fun f => { f with replays := f.replays + 1 } }).onEng e fun x => { x with replay := sat32 x.replay 1 }).resend e j (s.link e j).outst := by
      unfold State.replayLink
      simp only [ne h, anyf g, Bool.false_eq_true, if_false]
    rw [key]
    have lo := onLink_only s e j fun x => { x with outst := x.outst.map fun f => { f with replays := f.replays + 1 } }
    let u := s.onLink e j fun x => { x with outst := x.outst.map fun f => { f with replays := f.replays + 1 } }
    have uf : onlyChanges [.eng] s u := onLink_changes ..
    let v := u.onEng e fun x => { x with replay := sat32 x.replay 1 }
    have ve : v.engine e = { u.engine e with replay := sat32 (u.engine e).replay 1 } := State.engine_onEng_self ..
    have vs : sameBut {} e u.eng v.eng := onEng_sameBut _ _ _
    have vf : onlyChanges [.eng] s v := onEng_in uf (by decide)
    have vo : v.out = s.out := onlyChanges_out vf (by decide)
    obtain ⟨o1, o2⟩ := resend_out v e j (s.link e j).outst
    have we : (v.resend e j (s.link e j).outst).eng = v.eng := onlyChanges_eng o2 (by decide)
    have wf : onlyChanges [.eng, .out] s (v.resend e j (s.link e j).outst) := onlyChanges_step (onlyChanges_mono vf (by decide)) o2 (by decide)
    change linkOnly e j { s.link e j with outst := (s.link e j).outst.map fun f => { f with replays := f.replays + 1 } } s u at lo
    have hw : ((s.onLink e j fun x => { x with outst := x.outst.map fun f => { f with replays := f.replays + 1 } }).onEng e fun x => { x with replay := sat32 x.replay 1 }).resend e j (s.link e j).outst = v.resend e j (s.link e j).outst := rfl
    rw [hw]
    generalize v.resend e j (s.link e j).outst = w at *
    clear_value v
    clear_value u
    obtain ⟨l1, l2, ⟨k, l3⟩, l4⟩ := lo
    have eq : ∀ i, w.engine i = v.engine i := State.engine_same we
    have vr : (v.link e j).rxLast = (s.link e j).rxLast := by
      have : v.link e j = u.link e j := by unfold State.link; rw [ve]
      rw [this, l1]
    refine ⟨?_, ?_, ⟨k, ?_⟩, ?_, by rw [o1, vo, vr], wf⟩
    · unfold State.link at l1 ⊢; rw [eq, ve]; exact l1
    · intro i hi
      have := l2 i hi
      unfold State.link at this ⊢
      rw [eq, ve]; exact this
    · rw [eq, ve, l3]
    · rw [we]; exact sameBut_trans l4 vs

theorem askReplay_asks (s : State) (e j : Nat) : asksReplay e j s (s.askReplay e j) := by
  refine ⟨fun h => ?_, fun h => ?_⟩
  · unfold State.askReplay; simp [h]
  · have key : s.askReplay e j = (s.onLink e j fun x => { x with nakSent := true }).emitOut (.frame e j (ackOnly (s.link e j).fseq (s.link e j).rxLast true [])) := by
      unfold State.askReplay; simp only [h]; rfl
    rw [key]
    exact ⟨linkOnly_same (onLink_only s e j fun x => { x with nakSent := true }) rfl, rfl, emitOut_in (onLink_in (onlyChanges_refl _ _) (by decide)) (by decide)⟩

/-- What a link holds of the frames received is the same in both states. -/
def rxSame (s t : State) : Prop :=
  ∀ e j, (t.link e j).rxLast = (s.link e j).rxLast ∧ (t.link e j).nakSent = (s.link e j).nakSent ∧ (t.link e j).part = (s.link e j).part ∧ (t.link e j).agreed = (s.link e j).agreed

theorem rxSame_refl (s : State) : rxSame s s := fun _ _ => ⟨rfl, rfl, rfl, rfl⟩

theorem rxSame_trans {s t u : State} (h : rxSame s t) (g : rxSame t u) : rxSame s u := fun e j =>
  ⟨(g e j).1.trans (h e j).1, (g e j).2.1.trans (h e j).2.1, (g e j).2.2.1.trans (h e j).2.2.1, (g e j).2.2.2.trans (h e j).2.2.2⟩

theorem rxSame_eng {s t : State} (h : t.eng = s.eng) : rxSame s t := fun e j => by
  unfold State.link; rw [State.engine_same h]; exact ⟨rfl, rfl, rfl, rfl⟩

theorem rxSame_onEng (s : State) (e : Nat) (f : EngineSt → EngineSt) (h : ∀ x, (f x).links = x.links) : rxSame s (s.onEng e f) := fun i j => by
  unfold State.link
  by_cases c : i = e
  · subst c; rw [State.engine_onEng_self, h]; exact ⟨rfl, rfl, rfl, rfl⟩
  · rw [show (s.onEng e f).engine i = s.engine i from Tab.get_upd_ne ({} : EngineSt) _ f c]; exact ⟨rfl, rfl, rfl, rfl⟩

theorem rxSame_onLink (s : State) (e j : Nat) (f : LinkSt → LinkSt) (h : ∀ x, (f x).rxLast = x.rxLast ∧ (f x).nakSent = x.nakSent ∧ (f x).part = x.part ∧ (f x).agreed = x.agreed) :
    rxSame s (s.onLink e j f) := fun i k => by
  by_cases c : i = e
  · subst c
    by_cases d : k = j
    · subst d; rw [link_onLink_self]; exact h _
    · rw [link_onLink_ne _ _ _ d]; exact ⟨rfl, rfl, rfl, rfl⟩
  · unfold State.link State.onLink
    rw [show (s.onEng e _).engine i = s.engine i from Tab.get_upd_ne ({} : EngineSt) _ _ c]; exact ⟨rfl, rfl, rfl, rfl⟩

theorem rxSame_onEng_in {s u : State} {e : Nat} {f : EngineSt → EngineSt} (g : rxSame s u) (h : ∀ x, (f x).links = x.links) : rxSame s (u.onEng e f) := rxSame_trans g (rxSame_onEng u e f h)

theorem rxSame_onLink_in {s u : State} {e j : Nat} {f : LinkSt → LinkSt} (g : rxSame s u) (h : ∀ x, (f x).rxLast = x.rxLast ∧ (f x).nakSent = x.nakSent ∧ (f x).part = x.part ∧ (f x).agreed = x.agreed) :
    rxSame s (u.onLink e j f) := rxSame_trans g (rxSame_onLink u e j f h)

theorem rxSame_emitOut_in {s u : State} {o : Out} (g : rxSame s u) : rxSame s (u.emitOut o) := rxSame_trans g (rxSame_eng rfl)

theorem rxSame_tryAck (s : State) (e : Nat) (a : TAck) : rxSame s (s.tryAck e a) := by
  unfold State.tryAck
  split
  · exact rxSame_refl s
  · split
    · unfold State.sendTAck State.sendOn State.keepFrame
      refine rxSame_emitOut_in (rxSame_onLink_in (rxSame_onLink_in (rxSame_onLink_in (rxSame_onEng_in (rxSame_refl s) fun _ => rfl) fun _ => ?_) fun _ => ?_) fun _ => ?_)
      all_goals exact ⟨rfl, rfl, rfl, rfl⟩
    · exact rxSame_refl s

theorem rxSame_flushAcks (s : State) (e : Nat) : rxSame s (s.flushAcks e) := by
  unfold State.flushAcks
  generalize (s.engine e).acks = l
  induction l generalizing s with
  | nil => exact rxSame_refl s
  | cons a l ih => exact rxSame_trans (rxSame_tryAck s e a) (ih _)

theorem rxSame_flushAcks_in {s u : State} {e : Nat} (g : rxSame s u) : rxSame s (u.flushAcks e) := rxSame_trans g (rxSame_flushAcks u e)

theorem rxSame_takeAck (s : State) (e : Nat) (a : TAck) : rxSame s (s.takeAck e a) := by
  unfold State.takeAck State.putAck State.onTx
  split
  · exact rxSame_eng rfl
  · split
    · exact rxSame_onEng s _ _ fun _ => rfl
    · split
      · exact rxSame_eng rfl
      · exact rxSame_flushAcks_in (rxSame_onEng s e _ fun _ => rfl)

theorem rxSame_takeFlits (s : State) (e j : Nat) (l : List (BitVec 256)) (x : PktName) : rxSame s (s.takeFlits e j l x) := by
  unfold State.takeFlits State.freeBuf
  split
  · exact rxSame_refl s
  · split
    · split
      · exact rxSame_onLink_in (rxSame_takeAck s e _) fun _ => ⟨rfl, rfl, rfl, rfl⟩
      · exact rxSame_takeAck s e _
    · exact rxSame_onEng s _ _ fun _ => rfl

/-- Packets without an acknowledgement join those that wait to be judged, in order. -/
theorem foldl_takeFlits (e j : Nat) (f : Frame) (l : List (List (BitVec 256) × Nat)) (s : State) (h : ∀ y ∈ l, ∀ a b, y.1 = a :: b → flitHkind a ≠ 1) :
    ∃ t, t = l.foldl (fun s y => s.takeFlits e j y.1 (f.names[y.2]?.getD { bytes := 32 * (y.1.length - 1) })) s ∧
    t.engine e = { s.engine e with arrived := (s.engine e).arrived ++ l.filterMap fun y => match y.1 with | [] => none | h :: l => some (j, packetOfFlits h l (f.names[y.2]?.getD { bytes := 32 * l.length })) } ∧
    sameBut {} e s.eng t.eng ∧ onlyChanges [.eng] s t := by
  induction l generalizing s with
  | nil => exact ⟨s, rfl, by simp, sameBut_refl _ _ _, onlyChanges_refl _ _⟩
  | cons y l ih =>
    have hl : ∀ z ∈ l, ∀ a b, z.1 = a :: b → flitHkind a ≠ 1 := fun z hz => h z (List.mem_cons_of_mem _ hz)
    rw [List.foldl_cons]
    cases hy : y.1 with
    | nil =>
      obtain ⟨t, t1, t2, t3, t4⟩ := ih s hl
      refine ⟨t, ?_, ?_, t3, t4⟩
      · rw [t1]; rfl
      · rw [t2, List.filterMap_cons, hy]
    | cons a b =>
      have hk := h y List.mem_cons_self a b hy
      have key : s.takeFlits e j (a :: b) (f.names[y.2]?.getD { bytes := 32 * ((a :: b).length - 1) }) =
          s.onEng e fun x => { x with arrived := x.arrived ++ [(j, packetOfFlits a b (f.names[y.2]?.getD { bytes := 32 * b.length }))] } := by
        unfold State.takeFlits
        dsimp only
        rw [if_neg hk]
        rfl
      rw [key]
      obtain ⟨t, t1, t2, t3, t4⟩ := ih (s.onEng e fun x => { x with arrived := x.arrived ++ [(j, packetOfFlits a b (f.names[y.2]?.getD { bytes := 32 * b.length }))] }) hl
      refine ⟨t, t1, ?_, sameBut_trans (onEng_sameBut _ _ _) t3, onlyChanges_trans (onEng_changes _ _ _) t4⟩
      rw [t2, State.engine_onEng_self, List.filterMap_cons, hy]
      simp

theorem takeFrame_takes (s : State) (e j : Nat) (f : Frame) : takesFrame e j f s (s.takeFrame e j f) := by
  have lead (h1 : sequenced (frameType f) = true) (h2 : frameSeq f = (s.link e j).rxLast + 1) :
      ∃ u, u = (s.onLink e j fun x => { (x.credit (frameCred f)) with rxLast := frameSeq f, nakSent := false, agreed := x.agreed || decide (frameType f = 3) }) ∧
        s.takeFrame e j f = (if frameType f = 0 then u.takeData e j f else u).ackFrame e j := by
    refine ⟨_, rfl, ?_⟩
    unfold State.takeFrame
    dsimp only
    rw [if_pos h1, if_pos h2]
  refine ⟨fun h1 h2 => ?_, fun h1 h2 h3 => ?_, fun h1 h2 => ?_, fun h1 h2 => ?_, fun h1 h2 => ?_⟩
  · obtain ⟨u, hu, hk⟩ := lead h1 h2
    have ul : u.link e j = { ((s.link e j).credit (frameCred f)) with rxLast := frameSeq f, nakSent := false, agreed := (s.link e j).agreed || decide (frameType f = 3) } := by rw [hu]; exact link_onLink_self ..
    have ack (v : State) : rxSame v (v.ackFrame e j) := by
      unfold State.ackFrame
      exact rxSame_emitOut_in (rxSame_onLink_in (rxSame_refl v) fun _ => ⟨rfl, rfl, rfl, rfl⟩)
    rw [hk]
    split
    · rename_i ht
      have data : rxSame (u.onLink e j fun x => { x with part := (cutFlits 36 ((u.link e j).part ++ frameFlits f)).2 }) (u.takeData e j f) := by
        unfold State.takeData
        dsimp only
        generalize (cutFlits 36 ((u.link e j).part ++ frameFlits f)).1.zipIdx = l
        generalize (u.onLink e j fun x => { x with part := (cutFlits 36 ((u.link e j).part ++ frameFlits f)).2 }) = v
        induction l generalizing v with
        | nil => exact rxSame_refl v
        | cons y l ih => exact rxSame_trans (fun i k => rxSame_takeFlits _ _ _ _ _ i k) (ih _)
      obtain ⟨a, b, c, d⟩ := rxSame_trans data (ack (u.takeData e j f)) e j
      rw [link_onLink_self, ul] at a b c d
      exact ⟨a, b, fun h => absurd (h.symm.trans ht) (by decide), fun _ => c⟩
    · rename_i ht
      obtain ⟨a, b, c, d⟩ := ack u e j
      rw [ul] at a b c d
      exact ⟨a, b, fun h => by rw [d]; simp [h], fun h => absurd h ht⟩
  · obtain ⟨u, hu, hk⟩ := lead h1 h2
    have uo : linkOnly e j { ((s.link e j).credit (frameCred f)) with rxLast := frameSeq f, nakSent := false, agreed := (s.link e j).agreed || decide (frameType f = 3) } s u := by
      rw [hu]; exact onLink_only s e j fun x => { (x.credit (frameCred f)) with rxLast := frameSeq f, nakSent := false, agreed := x.agreed || decide (frameType f = 3) }
    have uf : onlyChanges [.eng] s u := by rw [hu]; exact onLink_changes ..
    rw [hk]
    -- the frame's packets
    have mid : ∃ v, v = (if frameType f = 0 then u.takeData e j f else u) ∧ (v.engine e).arrived = (s.engine e).arrived ++ (if frameType f = 0 then s.framePackets e j f else []) ∧
        (v.link e j).rxLast = frameSeq f ∧ (v.link e j).cred = ((s.link e j).credit (frameCred f)).cred ∧ (v.link e j).freed = (s.link e j).freed ∧ (∀ i, i ≠ j → v.link e i = s.link e i) ∧
        (v.engine e).tx = (s.engine e).tx ∧ (v.engine e).rx = (s.engine e).rx ∧ sameBut {} e s.eng v.eng ∧ onlyChanges [.eng] s v ∧ (v.link e j).fseq = (s.link e j).fseq := by
      obtain ⟨l1, l2, ⟨k, l3⟩, l4⟩ := uo
      by_cases ht : frameType f = 0
      · rw [if_pos ht, if_pos ht]
        have pe : (u.link e j).part = (s.link e j).part := by rw [l1]; rfl
        obtain ⟨v, v1, v2, v3, v4⟩ := foldl_takeFlits e j f (cutFlits 36 ((s.link e j).part ++ frameFlits f)).1.zipIdx (u.onLink e j fun x => { x with part := (cutFlits 36 ((s.link e j).part ++ frameFlits f)).2 })
          (fun y hy a b hab hk => h3 ⟨ht, a, b, by rw [← hab]; exact (List.mem_zipIdx' hy).2 ▸ List.getElem_mem _, hk⟩)
        obtain ⟨m1, m2, ⟨q, m3⟩, m4⟩ := onLink_only u e j fun x => { x with part := (cutFlits 36 ((s.link e j).part ++ frameFlits f)).2 }
        refine ⟨v, ?_, ?_, ?_, ?_, ?_, ?_, ?_, ?_, ?_, ?_⟩
        · rw [v1]; unfold State.takeData; rw [pe]
        · rw [v2, m3, l3]; rfl
        · have : v.link e j = (u.onLink e j fun x => { x with part := (cutFlits 36 ((s.link e j).part ++ frameFlits f)).2 }).link e j := (congrArg (fun x : EngineSt => Tab.get ({} : LinkSt) x.links j) v2).trans rfl
          rw [this, m1, l1]
        · have : v.link e j = (u.onLink e j fun x => { x with part := (cutFlits 36 ((s.link e j).part ++ frameFlits f)).2 }).link e j := (congrArg (fun x : EngineSt => Tab.get ({} : LinkSt) x.links j) v2).trans rfl
          rw [this, m1, l1]
        · have : v.link e j = (u.onLink e j fun x => { x with part := (cutFlits 36 ((s.link e j).part ++ frameFlits f)).2 }).link e j := (congrArg (fun x : EngineSt => Tab.get ({} : LinkSt) x.links j) v2).trans rfl
          rw [this, m1, l1]; rfl
        · intro i hi
          have : v.link e i = (u.onLink e j fun x => { x with part := (cutFlits 36 ((s.link e j).part ++ frameFlits f)).2 }).link e i := (congrArg (fun x : EngineSt => Tab.get ({} : LinkSt) x.links i) v2).trans rfl
          rw [this, m2 i hi, l2 i hi]
        · rw [v2, m3, l3]
        · rw [v2, m3, l3]
        · exact sameBut_trans l4 (sameBut_trans m4 v3)
        · refine ⟨onlyChanges_trans uf (onlyChanges_trans (onLink_changes ..) v4), ?_⟩
          have : v.link e j = (u.onLink e j fun x => { x with part := (cutFlits 36 ((s.link e j).part ++ frameFlits f)).2 }).link e j := (congrArg (fun x : EngineSt => Tab.get ({} : LinkSt) x.links j) v2).trans rfl
          rw [this, m1, l1]; rfl
      · rw [if_neg ht, if_neg ht]
        exact ⟨u, rfl, by rw [l3]; simp, by rw [l1], by rw [l1], by rw [l1]; rfl, l2, by rw [l3], by rw [l3], l4, uf, by rw [l1]; rfl⟩
    obtain ⟨v, hv, v1, v2, v3, v4, v5, v6, v7, v8, v9, v10⟩ := mid
    rw [← hv]
    have vg : v.grants e j = s.grants e j := by
      unfold State.grants EngineSt.withholds EngineSt.poolUsed
      rw [onlyChanges_run v9 (by decide), v6, v7, v4]
    obtain ⟨m1, m2, ⟨q, m3⟩, m4⟩ := onLink_only v e j fun x => x.report (v.grants e j)
    have vo : v.out = s.out := onlyChanges_out v9 (by decide)
    unfold State.ackFrame
    have eq : ((v.onLink e j fun x => x.report (v.grants e j)).emitOut (.frame e j (ackOnly (v.link e j).fseq (v.link e j).rxLast false (v.grants e j)))).engine e = (v.onLink e j fun x => x.report (v.grants e j)).engine e := State.engine_same rfl _
    have lk (i : Nat) : ((v.onLink e j fun x => x.report (v.grants e j)).emitOut (.frame e j (ackOnly (v.link e j).fseq (v.link e j).rxLast false (v.grants e j)))).link e i = (v.onLink e j fun x => x.report (v.grants e j)).link e i := congrArg (fun x : EngineSt => Tab.get ({} : LinkSt) x.links i) eq
    refine ⟨?_, ?_, ?_, fun i hi => ?_, ?_, ?_⟩
    · rw [eq, m3]; exact v1
    · show v.out ++ [_] = _
      rw [vo, v2, vg, v10]
    · rw [lk, m1]; exact v3
    · rw [lk, m2 i hi, v5 i hi]
    · exact sameBut_trans v8 m4
    · exact emitOut_in (onLink_in (onlyChanges_mono v9 (by decide)) (by decide)) (by decide)
  · unfold State.takeFrame
    dsimp only
    rw [if_pos h1, if_neg h2]
    exact askReplay_asks ..
  · unfold State.takeFrame
    dsimp only
    rw [if_neg (by rw [h1]; decide), if_pos h2]
    exact ⟨onLink_only s e j fun x => x.credit (frameCred f), rfl⟩
  · unfold State.takeFrame
    dsimp only
    rw [if_neg (by rw [h1]; decide), if_neg h2]
    exact askReplay_asks ..

/-- The lanes of a list retire one by one; the rest of the engines is as before but for links and the count. -/
theorem foldl_retireLane (e : Nat) (ls : List Nat) (f g : State → Nat → Nat) (s : State) :
    let u := ls.foldl (fun s l => s.retireLane e l (f s l) (g s l)) s
    (∀ l, l ∈ ls → (u.lane e l).st = .retired) ∧ (∀ l, l ∉ ls → u.lane e l = s.lane e l) ∧ (u.engine e).retCount = (s.engine e).retCount + ls.length ∧
    (∃ a b n, u.engine e = { s.engine e with lanes := a, links := b, retCount := n }) ∧ sameBut {} e s.eng u.eng ∧ u.cfg = s.cfg := by
  induction ls generalizing s with
  | nil => exact ⟨fun l h => (by cases h), fun _ _ => rfl, rfl, ⟨_, _, _, rfl⟩, sameBut_refl _ _ _, rfl⟩
  | cons a t ih =>
    obtain ⟨⟨r1, r2, _⟩, r4⟩ := retireLane_retires s e a (f s a) (g s a)
    rw [List.foldl_cons]
    obtain ⟨i1, i2, i3, ⟨x, y, n, i4⟩, i5, i6⟩ := ih (s.retireLane e a (f s a) (g s a))
    obtain ⟨b1, b2, _, _, _, _, _, ⟨p, q, m, b7⟩, b8⟩ := r1
    generalize s.retireLane e a (f s a) (g s a) = v at *
    refine ⟨?_, ?_, ?_, ⟨x, y, n, by rw [i4, b7]⟩, sameBut_trans b8 i5, i6.trans r4⟩
    · intro l hl
      by_cases h : l ∈ t
      · exact i1 l h
      · rcases List.mem_cons.mp hl with e | e
        · rw [i2 l h, e, b1]
        · exact absurd e h
    · intro l hl
      have h1 : l ≠ a := fun e => hl (by rw [e]; exact List.mem_cons_self)
      have h2 : l ∉ t := fun h => hl (List.mem_cons_of_mem _ h)
      rw [i2 l h2]
      exact b2 l h1
    · rw [i3, r2, List.length_cons]; omega

/-! Applying the staged set (R263). -/

theorem identityMap_cfg (s : State) : ∃ m, s.identityMap.cfg = { s.cfg with map := m } := by
  unfold State.identityMap
  simp only
  split <;> exact ⟨_, rfl⟩

/-- The standbys that serve from a cold load on change the configuration in its region map alone. -/
theorem coldRelocate_cfg {s : State} {c : ConfigSt} (h : ∃ m, s.cfg = { c with map := m }) : ∃ m, s.coldRelocate.cfg = { c with map := m } := by
  unfold State.coldRelocate
  generalize s.serviceRegions = l
  induction l generalizing s with
  | nil => exact h
  | cons r l ih =>
    rw [List.foldl_cons]
    refine ih ?_
    obtain ⟨m, h⟩ := h
    split
    · split
      · exact ⟨m, h⟩
      · rename_i b _
        have k (u : State) (hu : u.cfg = { s.cfg with map := s.cfg.map.set none r (some b) }) : ∃ m, u.cfg = { c with map := m } := ⟨s.cfg.map.set none r (some b), by rw [hu, h]⟩
        extract_lets u v
        split
        · exact k _ rfl
        · exact k _ rfl
    · exact ⟨m, h⟩

/-- A cold load changes the configuration in its region map alone. -/
theorem coldStart_cfg (s : State) (i : Image) : ∃ m, (s.coldStart i).cfg = { s.cfg with map := m } := by
  obtain ⟨m, h⟩ := identityMap_cfg s
  have d : (s.identityMap.darkenSpares (i.mode.getD {})).cfg = s.identityMap.cfg := onlyChanges_cfg (darkenSpares_changes ..) (by decide)
  unfold State.coldStart
  simp only [State.onRun_cfg]
  refine coldRelocate_cfg ⟨m, ?_⟩
  simp only [State.onFlt_cfg, State.onPrs_cfg, State.onOrc_cfg, State.onStore_cfg]
  rw [d, h]

theorem declareLinks_cfg (s : State) (c : LinkCourse) : (s.declareLinks c).cfg = { s.cfg with links := c.links, linkMod := c.mod } := by
  unfold State.declareLinks
  simp only
  exact onlyChanges_cfg (l := [.eng, .log, .out]) (foldl_changes _ _ (fun _ _ => redeclareLink_changes _ _ _ _) _ _) (by decide)

theorem takePartners_cfg (s : State) : s.takePartners.cfg = { s.cfg with partners := s.stg.partners.getD s.cfg.partners } := by
  unfold State.takePartners
  cases s.stg.partners <;> rfl

/-- With no set armed, going on leaves the staged set alone. -/
theorem advance_stg (s : State) (h : s.stg.st ≠ .armed) : s.advance.stg = s.stg := by
  have ss : s.settleStop.stg = s.stg := onlyChanges_stg (settleStop_changes s) (by decide)
  unfold State.advance
  split
  · rfl
  · unfold State.goOn
    have na : s.settleStop.applyDue = false := by unfold State.applyDue; rw [ss]; simp [h]
    rw [na]
    simp only [Bool.false_eq_true, if_false]
    have tb (u : State) : u.tryBegin.stg = u.stg := onlyChanges_stg (tryBegin_changes u) (by decide)
    split
    · split
      · rw [onlyChanges_stg (stopAtLimit_changes _) (by decide), ss]
      · split
        · rw [tb, ss]
        · split
          · exact ss
          · rw [onlyChanges_stg (crossBoundary_changes _) (by decide), ss]
    · exact ss

/-- What follows an application with no reset waiting leaves its configuration in force. -/
theorem afterApply_keeps (s : State) (h : s.run.resetAsked = false) (g : s.stg.st ≠ .armed) :
    onlyChanges [.free, .lregions, .regions, .net, .orc, .settings, .num, .run, .brg, .stg, .store, .flt, .pwr, .eng] s s.afterApply ∧ s.afterApply.stg = s.stg := by
  have bf : onlyChanges [.free, .lregions, .net, .store, .orc, .flt] s (if s.snapStands then s else s.boundarySnap) := onlyChanges_ite (onlyChanges_refl _ _) (boundarySnap_changes s)
  unfold State.afterApply
  rw [h]
  simp only [Bool.false_eq_true, if_false]
  generalize (if s.snapStands = true then s else s.boundarySnap) = v at *
  have bs : v.stg = s.stg := onlyChanges_stg bf (by decide)
  have af := advance_changes v
  have as := advance_stg v (by rw [bs]; exact g)
  unfold State.advanceAgain
  extract_lets u
  have uf : onlyChanges [.free, .lregions, .regions, .net, .orc, .settings, .num, .run, .brg, .stg, .store, .flt, .pwr, .eng] s u := onlyChanges_step (onlyChanges_mono bf (by decide)) af (by decide)
  split
  · refine ⟨releaseLogs_in (releaseContributions_in uf (by decide)) (by decide), ?_⟩
    rw [onlyChanges_stg (releaseLogs_changes _) (by decide), onlyChanges_stg (releaseContributions_changes _) (by decide), as, bs]
  · exact ⟨uf, as.trans bs⟩

/-! Applying an image (R263). -/

/-- What applying an image puts into force (R263). -/
theorem applyImage_facts (s : State) (i : Image) (cold : Bool) :
    let must := cold || decide ((i.mode.getD {}).diag = 1)
    ∃ map, (s.applyImage i cold).cfg = { s.cfg with
        image := some i, bytes := s.stg.imageBytes, epoch := s.stg.e, root := s.stg.root, digests := s.stg.digests, load := (s.time - s.stg.applyAt).toNat
        layout := if s.stg.reshard = true then s.cfg.layout + 1 else if s.stg.full = true then BitVec.ofNat 32 i.lepoch0 else s.cfg.layout
        moves := if s.stg.reshard = true then movesOf ((s.cfg.image.getD {}).press.getD {}) (s.cfg.image.getD {}).regions (i.press.getD {}) i.regions else if s.stg.full = true then [] else s.cfg.moves, readySent := []
        oldPress := if s.stg.reshard = true then (s.cfg.image.getD {}).press else if s.stg.full = true then none else s.cfg.oldPress
        oldRegions := if s.stg.reshard = true then (s.cfg.image.getD {}).regions else if s.stg.full = true then [] else s.cfg.oldRegions
        oldRoutes := if s.stg.reshard = true then ((s.cfg.image.getD {}).link.getD {}).routes else if s.stg.full = true then [] else s.cfg.oldRoutes
        partners := s.stg.partners.getD s.cfg.partners, links := (i.link.getD {}).links, linkMod := (i.link.getD {}).mod
        topoWait := must && !(i.link.getD {}).links.isEmpty, topoOk := !(must && !(i.link.getD {}).links.isEmpty) && (s.cfg.topoOk || must), map := map } ∧
      (cold = false → map = s.cfg.map) ∧ (s.applyImage i cold).stg = s.stg ∧ (s.applyImage i cold).mir = s.mir ∧ (s.applyImage i cold).run.resetAsked = s.run.resetAsked ∧
      (s.applyImage i cold).prs.exp = if s.stg.full = true then (if (i.press.getD {}).ls.lsen = true then (i.press.getD {}).ls.e0 else 0) else s.prs.exp := by
  intro must
  unfold State.applyImage
  extract_lets a b c d mc e f g k wait
  have sa := dropStaged_changes s
  have ac : a.cfg = s.cfg := onlyChanges_cfg sa (by decide)
  have ag : a.stg = s.stg := onlyChanges_stg sa (by decide)
  have at' : a.time = s.time := onlyChanges_time sa (by decide)
  have hb : b.cfg = { a.cfg with
      image := some i, bytes := a.stg.imageBytes, epoch := a.stg.e, root := a.stg.root, digests := a.stg.digests, load := (a.time - a.stg.applyAt).toNat
      layout := if a.stg.reshard = true then a.cfg.layout + 1 else if a.stg.full = true then BitVec.ofNat 32 i.lepoch0 else a.cfg.layout
      moves := if a.stg.reshard = true then movesOf ((a.cfg.image.getD {}).press.getD {}) (a.cfg.image.getD {}).regions (i.press.getD {}) i.regions else if a.stg.full = true then [] else a.cfg.moves, readySent := []
      oldPress := if a.stg.reshard = true then (a.cfg.image.getD {}).press else if a.stg.full = true then none else a.cfg.oldPress
      oldRegions := if a.stg.reshard = true then (a.cfg.image.getD {}).regions else if a.stg.full = true then [] else a.cfg.oldRegions
      oldRoutes := if a.stg.reshard = true then ((a.cfg.image.getD {}).link.getD {}).routes else if a.stg.full = true then [] else a.cfg.oldRoutes } := rfl
  have ba : onlyChanges [.cfg] a b := takeConfig_changes a i
  rw [ac, ag, at'] at hb
  have sb : onlyChanges [.regions, .settings, .cfg] s b := onlyChanges_step (onlyChanges_mono sa (by decide)) ba (by decide)
  have bm : b.cfg.map = s.cfg.map := by rw [hb]
  clear_value b
  clear ba ac ag at' sa
  have bg : b.stg = s.stg := onlyChanges_stg sb (by decide)
  have bp : b.prs = s.prs := onlyChanges_prs sb (by decide)
  have br : b.run = s.run := onlyChanges_run sb (by decide)
  have bi : b.mir = s.mir := onlyChanges_mir sb (by decide)
  clear sb
  have hc : (∃ m, c.cfg = { b.cfg with map := m } ∧ (cold = false → m = b.cfg.map)) ∧ c.stg = b.stg ∧ c.mir = b.mir ∧ c.run.resetAsked = b.run.resetAsked ∧ c.prs.exp = b.prs.exp := by
    simp only [c]
    cases cold with
    | false => exact ⟨⟨b.cfg.map, rfl, fun _ => rfl⟩, rfl, rfl, rfl, rfl⟩
    | true =>
      simp only [if_true]
      obtain ⟨m, h⟩ := coldStart_cfg b i
      have f := coldStart_changes b i
      refine ⟨⟨m, h, fun h => by cases h⟩, onlyChanges_stg f (by decide), onlyChanges_mir f (by decide), ?_, ?_⟩
      · have x : ((b.identityMap).darkenSpares (i.mode.getD {})).run = b.run := by
          rw [onlyChanges_run (darkenSpares_changes _ _) (by decide), onlyChanges_run (identityMap_changes _) (by decide)]
        unfold State.coldStart
        simp only [State.onRun_run]
        rw [onlyChanges_run (coldRelocate_changes _) (by decide)]
        simp only [State.onFlt_run, State.onPrs_run, State.onOrc_run, State.onStore_run]
        rw [x]
      · have x : ((b.identityMap).darkenSpares (i.mode.getD {})).prs = b.prs := by
          rw [onlyChanges_prs (darkenSpares_changes _ _) (by decide), onlyChanges_prs (identityMap_changes _) (by decide)]
        unfold State.coldStart
        simp only [State.onRun_prs]
        rw [onlyChanges_prs (coldRelocate_changes _) (by decide)]
        simp only [State.onFlt_prs, State.onPrs_prs, State.onOrc_prs, State.onStore_prs]
        rw [x]
  clear_value c
  obtain ⟨⟨m, c1, c2⟩, c3, c4, c5, c6⟩ := hc
  have df : onlyChanges [.free, .sram, .cores, .lregions, .bat, .dma] c d := foldl_changes _ _ (fun _ _ => startRegion_changes _ _ _) _ _
  clear_value d
  have ef : onlyChanges [.free, .sram, .cores, .lregions, .bat, .dma, .regions, .settings] c e := epochSettings_in (modeSettings_in (startClocks_in (onlyChanges_mono df (by decide)) (by decide)) (by decide)) (by decide)
  clear_value e
  have ec : e.cfg = c.cfg := onlyChanges_cfg ef (by decide)
  have eg : e.stg = c.stg := onlyChanges_stg ef (by decide)
  have ep : e.prs = c.prs := onlyChanges_prs ef (by decide)
  have er : e.run = c.run := onlyChanges_run ef (by decide)
  have ei : e.mir = c.mir := onlyChanges_mir ef (by decide)
  clear ef df
  have fc : f.cfg = { e.cfg with partners := e.stg.partners.getD e.cfg.partners } := takePartners_cfg e
  have tf0 := takePartners_changes e
  have tf : onlyChanges [.cfg, .flt, .run] e f := onRun_in (onlyChanges_mono tf0 (by decide)) (by decide)
  have fg : f.stg = e.stg := onlyChanges_stg tf (by decide)
  have fp : f.prs = e.prs := onlyChanges_prs tf (by decide)
  have fi : f.mir = e.mir := onlyChanges_mir tf (by decide)
  have fr : f.run.resetAsked = e.run.resetAsked := by
    show e.takePartners.run.resetAsked = _
    rw [onlyChanges_run tf0 (by decide)]
  clear tf tf0
  clear_value f
  have hg : g.cfg = f.cfg ∧ g.stg = f.stg ∧ g.mir = f.mir ∧ g.run = f.run ∧ g.prs.exp = if f.stg.full = true then (if (i.press.getD {}).ls.lsen = true then (i.press.getD {}).ls.e0 else 0) else f.prs.exp := by
    simp only [g]
    split <;> exact ⟨rfl, rfl, rfl, rfl, rfl⟩
  clear_value g
  obtain ⟨g1, g2, g3, g4, g5⟩ := hg
  have kc : k.cfg = { g.cfg with links := (i.link.getD {}).links, linkMod := (i.link.getD {}).mod } := by
    rw [← declareLinks_cfg]
    exact onlyChanges_cfg (recomputeRoutes_changes _) (by decide)
  have kf : onlyChanges [.cfg, .eng, .log, .out, .net] g k := recomputeRoutes_in (onlyChanges_mono (declareLinks_changes _ _) (by decide)) (by decide)
  clear_value k
  have kg : k.stg = g.stg := onlyChanges_stg kf (by decide)
  have kp : k.prs = g.prs := onlyChanges_prs kf (by decide)
  have kr : k.run = g.run := onlyChanges_run kf (by decide)
  have ki : k.mir = g.mir := onlyChanges_mir kf (by decide)
  refine ⟨m, ?_, ?_, ?_, ?_, ?_, ?_⟩
  · rw [State.onCfg_cfg, kc, g1, fc, ec, eg, c1, c3, hb, bg]
    simp only [wait, must, mc]
    congr 1
    simp only [Bool.or_assoc]
  · intro h; rw [c2 h, bm]
  · rw [State.onCfg_stg, kg, g2, fg, eg, c3, bg]
  · rw [State.onCfg_mir, ki, g3, fi, ei, c4, bi]
  · rw [State.onCfg_run, kr, g4, fr, er, c5, br]
  · rw [State.onCfg_prs, kp, g5, fg, eg, c3, bg, fp, ep, c6, bp]

/-! The go token (R263). -/

theorem event_reset (u : State) (c : Nat) (x : U64) : (u.event c x).run.resetAsked = u.run.resetAsked := by
  unfold State.event State.postEvent
  simp only
  split <;> split <;> rfl

theorem event_other (u : State) (c : Nat) (x : U64) : (u.event c x).cfg = u.cfg ∧ (u.event c x).stg = u.stg ∧ (u.event c x).mir = u.mir ∧ (u.event c x).prs = u.prs :=
  have f := event_changes u c x
  ⟨onlyChanges_cfg f (by decide), onlyChanges_stg f (by decide), onlyChanges_mir f (by decide), onlyChanges_prs f (by decide)⟩

theorem sendMarker_facts (m : State) : ∃ k : Marker, k.epoch = m.cfg.epoch ∧ k.root = m.cfg.root.setWidth 192 ∧ m.sendMarker.mir.markers = m.mir.markers ++ [k, k, k] :=
  ⟨{ epoch := m.cfg.epoch, root := m.cfg.root.setWidth 192, step := m.run.step }, rfl, rfl, rfl⟩

theorem sparesExhausted_reset (o : State) : o.sparesExhausted.run.resetAsked = o.run.resetAsked := by
  unfold State.sparesExhausted State.holdFor
  exact event_reset (o.logHealth { cls := 0x50, action := 10 }) 8 0

/-- What the go token does once the image is applied (R263, R389). -/
theorem goTail (m : State) (moved : Bool) (h : m.run.resetAsked = false) (g : m.stg.st ≠ .armed) :
    let n := (m.releaseHeld.sendMarker).event 3 (BitVec.ofNat 64 m.cfg.epoch.toNat)
    let o := if (moved && n.cfg.moves.isEmpty) = true then (n.onCfg fun c => { c with rsDone := true }).event 5 (BitVec.ofNat 64 n.cfg.layout.toNat) else n
    let p := if o.net.unroutable.isEmpty = true then o else o.sparesExhausted
    (∃ r, p.completeArm.afterApply.cfg = { m.cfg with rsDone := r }) ∧ p.completeArm.afterApply.stg = m.stg ∧ p.completeArm.afterApply.prs = m.prs ∧
    (∃ k : Marker, k.epoch = m.cfg.epoch ∧ k.root = m.cfg.root.setWidth 192 ∧ p.completeArm.afterApply.mir.markers = m.mir.markers ++ [k, k, k]) ∧
    onlyChanges [.free, .lregions, .regions, .net, .orc, .settings, .num, .run, .brg, .stg, .store, .flt, .pwr, .eng, .mir, .cfg, .log] m p.completeArm.afterApply := by
  intro n o p
  have rf := releaseHeld_changes m
  have n3 : ∃ k : Marker, k.epoch = m.cfg.epoch ∧ k.root = m.cfg.root.setWidth 192 ∧ n.mir.markers = m.mir.markers ++ [k, k, k] := by
    obtain ⟨k, k1, k2, k3⟩ := sendMarker_facts m.releaseHeld
    refine ⟨k, by rw [k1, onlyChanges_cfg rf (by decide)], by rw [k2, onlyChanges_cfg rf (by decide)], ?_⟩
    simp only [n]
    rw [(event_other _ _ _).2.2.1, k3, onlyChanges_mir rf (by decide)]
  have nf : onlyChanges [.eng, .mir, .run, .brg, .pwr] m n := event_in (sendMarker_in (onlyChanges_mono rf (by decide)) (by decide)) (by decide)
  have n4 : n.run.resetAsked = m.run.resetAsked := by
    simp only [n]
    rw [event_reset]
    unfold State.sendMarker
    rw [State.onMir_run, onlyChanges_run rf (by decide)]
  have n1 : n.cfg = m.cfg := onlyChanges_cfg nf (by decide)
  have n2 : n.stg = m.stg := onlyChanges_stg nf (by decide)
  have n5 : n.prs = m.prs := onlyChanges_prs nf (by decide)
  clear_value n
  have ho : (∃ r, o.cfg = { n.cfg with rsDone := r }) ∧ o.stg = n.stg ∧ o.mir = n.mir ∧ o.prs = n.prs ∧ o.run.resetAsked = n.run.resetAsked ∧ onlyChanges [.cfg, .run, .brg, .pwr] n o := by
    simp only [o]
    split
    · obtain ⟨e1, e2, e3, e4⟩ := event_other (n.onCfg fun c => { c with rsDone := true }) 5 (BitVec.ofNat 64 n.cfg.layout.toNat)
      exact ⟨⟨true, e1⟩, e2, e3, e4, event_reset _ _ _, event_in (onCfg_in (onlyChanges_refl _ _) (by decide)) (by decide)⟩
    · exact ⟨⟨_, rfl⟩, rfl, rfl, rfl, rfl, onlyChanges_refl _ _⟩
  clear_value o
  obtain ⟨⟨rs, o1⟩, o2, o3, o4, o5, o6⟩ := ho
  have hp : p.cfg = o.cfg ∧ p.stg = o.stg ∧ p.mir = o.mir ∧ p.prs = o.prs ∧ p.run.resetAsked = o.run.resetAsked ∧ onlyChanges [.run, .brg, .flt, .log, .pwr] o p := by
    simp only [p]
    split
    · exact ⟨rfl, rfl, rfl, rfl, rfl, onlyChanges_refl _ _⟩
    · have ef := sparesExhausted_changes o
      exact ⟨onlyChanges_cfg ef (by decide), onlyChanges_stg ef (by decide), onlyChanges_mir ef (by decide), onlyChanges_prs ef (by decide), sparesExhausted_reset o, ef⟩
  clear_value p
  obtain ⟨p1, p2, p3, p4, p5, p6⟩ := hp
  have qf : onlyChanges [.run, .brg] p p.completeArm := completeArm_changes p
  have q5 : p.completeArm.run.resetAsked = p.run.resetAsked := by
    unfold State.completeArm
    split <;> rfl
  generalize p.completeArm = q at *
  have qs : q.stg = m.stg := by rw [onlyChanges_stg qf (by decide), p2, o2, n2]
  obtain ⟨z1, z2⟩ := afterApply_keeps q (by rw [q5, p5, o5, n4]; exact h) (by rw [qs]; exact g)
  generalize q.afterApply = t at *
  refine ⟨⟨rs, ?_⟩, by rw [z2, qs], ?_, ?_, ?_⟩
  · rw [onlyChanges_cfg z1 (by decide), onlyChanges_cfg qf (by decide), p1, o1, n1]
  · rw [onlyChanges_prs z1 (by decide), onlyChanges_prs qf (by decide), p4, o4, n5]
  · obtain ⟨k, k1, k2, k3⟩ := n3
    refine ⟨k, k1, k2, ?_⟩
    rw [onlyChanges_mir z1 (by decide), onlyChanges_mir qf (by decide), p3, o3, k3]
  · have w1 := onlyChanges_mono (m := [.free, .lregions, .regions, .net, .orc, .settings, .num, .run, .brg, .stg, .store, .flt, .pwr, .eng, .mir, .cfg, .log]) nf (by decide)
    exact onlyChanges_step (onlyChanges_step (onlyChanges_step (onlyChanges_step w1 o6 (by decide)) p6 (by decide)) qf (by decide)) z1 (by decide)

theorem emptyStage_facts (s : State) : s.emptyStage.stg = { disag := s.stg.disag, decl := s.stg.decl } ∧ s.emptyStage.cfg = s.cfg ∧ s.emptyStage.mir = s.mir ∧ s.emptyStage.run = s.run ∧ s.emptyStage.prs = s.prs := ⟨rfl, rfl, rfl, rfl, rfl⟩

/-! Reports that reach the control die (R281, R287, R288, R298). -/

/-- Spares exhausted: held, told and logged; which cores are dead, what is promoted and what is to be repaired stays (R298). -/
theorem sparesExhausted_facts (s : State) : exhausted s.sparesExhausted ∧ s.sparesExhausted.flt.dead = s.flt.dead ∧ s.sparesExhausted.flt.promos = s.flt.promos ∧ s.sparesExhausted.flt.repairs = s.flt.repairs ∧
    s.sparesExhausted.flt.logFull = s.flt.logFull ∧ s.sparesExhausted.flt.mgmtOk = s.flt.mgmtOk := by
  unfold State.sparesExhausted
  simp only
  have lf : (s.logHealth { cls := 0x50, action := 10 }).flt = s.flt := rfl
  generalize s.logHealth { cls := 0x50, action := 10 } = a at *
  have p := (postEvent_pend a 8 0 a.run.step).1
  have f := (event_flt a 8 0).1
  change ((a.event 8 0).run.events.get {} 8).pend = true at p
  generalize a.event 8 0 = b at *
  refine ⟨⟨rfl, rfl, rfl, p⟩, ?_, ?_, ?_, ?_, ?_⟩
  · show b.flt.dead = _; rw [f, lf]
  · show b.flt.promos = _; rw [f, lf]
  · show b.flt.repairs = _; rw [f, lf]
  · show b.flt.logFull = _; rw [f, lf]
  · show b.flt.mgmtOk = _; rw [f, lf]

theorem startRewind_rest (s : State) : s.startRewind.flt.dead = s.flt.dead ∧ s.startRewind.flt.promos = s.flt.promos ∧ s.startRewind.flt.repairs = s.flt.repairs ∧ s.startRewind.flt.logFull = s.flt.logFull ∧
    s.startRewind.flt.exh = s.flt.exh ∧ (s.flt.phase ≠ .none → s.startRewind = s) := by
  unfold State.startRewind
  split
  · exact ⟨rfl, rfl, rfl, rfl, rfl, fun _ => rfl⟩
  · rename_i h
    exact ⟨rfl, rfl, rfl, rfl, rfl, fun g => absurd (.inl g) h⟩

theorem absorb_absorbs (s : State) (f : FaultRep) : absorbs f s (s.absorb f) := by
  unfold State.absorb
  obtain ⟨a, ha⟩ : ∃ a, a = (s.onFlt fun x => { x with repairs := x.repairs ++ [f], since := if x.phase = .none then s.time else x.since }).startRewind := ⟨_, rfl⟩
  rw [← ha]
  extract_lets b
  obtain ⟨r1, r2, _, _, r5, _, _, r8⟩ := startRewind_facts (s.onFlt fun x => { x with repairs := x.repairs ++ [f], since := if x.phase = .none then s.time else x.since })
  obtain ⟨q1, q2, q3, q4, q5, q6⟩ := startRewind_rest (s.onFlt fun x => { x with repairs := x.repairs ++ [f], since := if x.phase = .none then s.time else x.since })
  rw [← ha] at r1 r2 r5 r8 q1 q2 q3 q4 q5
  have af : onlyChanges [.run, .brg, .flt, .log, .pwr] s a := ha ▸ startRewind_in (onFlt_in (onlyChanges_refl _ _) (by decide)) (by decide)
  change a.run.st = s.run.st at r1
  change a.run.hcause = s.run.hcause at r2
  change a.log = s.log at r5
  change s.flt.phase = .none → s.run.hcause < 5 → a.flt.phase = .draining ∧ a.flt.replays = sat32 s.flt.replays 1 ∧ a.flt.quiet = [] at r8
  change a.flt.dead = s.flt.dead at q1
  change a.flt.promos = s.flt.promos at q2
  change a.flt.repairs = s.flt.repairs ++ [f] at q3
  change a.flt.logFull = s.flt.logFull at q4
  change a.flt.exh = s.flt.exh at q5
  have q6' : s.flt.phase ≠ .none → a.flt.phase = s.flt.phase ∧ a.flt.replays = s.flt.replays := by
    intro h; rw [ha, q6 h]; exact ⟨rfl, rfl⟩
  clear q6
  clear ha
  have hb : b.run = a.run ∧ b.log = a.log ∧ b.flt = { a.flt with phase := b.flt.phase } ∧ (a.flt.phase = .rebuilding ∨ a.flt.phase = .restored → b.flt.phase = .draining) ∧
      (a.flt.phase = .draining → b.flt.phase = .draining) ∧ onlyChanges [.run, .brg, .flt, .log, .pwr] s b := by
    simp only [b]
    unfold State.rejoin
    split
    · rename_i h
      exact ⟨rfl, rfl, rfl, fun _ => rfl, fun _ => rfl, onFlt_in af (by decide)⟩
    · rename_i h
      exact ⟨rfl, rfl, rfl, fun g => absurd g h, fun g => g, af⟩
  clear_value b
  obtain ⟨b1, b2, b3, b4, b5, b6⟩ := hb
  have br : b.flt.repairs = s.flt.repairs ++ [f] := by rw [b3]; exact q3
  have bl : b.flt.logFull = s.flt.logFull := by rw [b3]; exact q4
  have bd : b.flt.dead = s.flt.dead := by rw [b3]; exact q1
  have bp : b.flt.promos = s.flt.promos := by rw [b3]; exact q2
  have be : b.flt.exh = s.flt.exh := by rw [b3]; exact q5
  have bq : b.flt.replays = a.flt.replays := by rw [b3]
  clear b3
  cases hl : s.flt.logFull with
  | true =>
    rw [if_pos (by rw [bl, hl])]
    obtain ⟨x1, x2, x3, x4, _⟩ := sparesExhausted_facts b
    exact ⟨x4.trans br, (fun h => by rw [hl] at h; cases h), (fun h => by rw [hl] at h; cases h), (fun h => by rw [hl] at h; cases h), fun _ => x1, x2.trans bd, x3.trans bp, sparesExhausted_in b6 (by decide)⟩
  | false =>
    rw [if_neg (by rw [bl, hl]; decide)]
    refine ⟨br, ?_, ?_, fun _ => ⟨by rw [b1, r1], by rw [b1, r2], by rw [b2, r5], be⟩, (fun h => by rw [hl] at h; cases h), bd, bp, b6⟩
    · intro _ h1 h2
      obtain ⟨y1, y2, _⟩ := r8 h2 h1
      exact ⟨b5 y1, by rw [bq, y2]⟩
    · intro _ h
      have hn : s.flt.phase ≠ .none := by rcases h with h | h <;> rw [h] <;> decide
      obtain ⟨y1, y2⟩ := q6' hn
      exact ⟨b4 (by rw [y1]; exact h), by rw [bq, y2]⟩

theorem stateLost_flt (s : State) (l : List (Nat × Nat)) : (s.stateLost l).flt.dead = s.flt.dead ∧ (s.stateLost l).flt.promos = s.flt.promos ∧ (s.stateLost l).flt.repairs = s.flt.repairs ∧ (s.stateLost l).flt.logFull = s.flt.logFull := by
  unfold State.stateLost
  extract_lets a b
  have af : a.flt = s.flt := onlyChanges_flt (l := [.log]) (foldl_changes _ _ (fun _ _ => logHealth_in (onlyChanges_refl _ _) (by decide)) _ _) (by decide)
  have bf : b.flt = s.flt := (event_flt a 9 _).1.trans af
  clear_value b
  refine ⟨?_, ?_, ?_, ?_⟩
  · show b.flt.dead = _; rw [bf]
  · show b.flt.promos = _; rw [bf]
  · show b.flt.repairs = _; rw [bf]
  · show b.flt.logFull = _; rw [bf]

/-- What a loss of state or of exchange lines keeps: the dead units, the promotions, the repairs, and which regions run. -/
def keepsFaults (s t : State) : Prop :=
  (t.flt.dead = s.flt.dead ∧ t.flt.promos = s.flt.promos ∧ t.flt.repairs = s.flt.repairs ∧ t.flt.logFull = s.flt.logFull) ∧
  ∀ q, (t.reg q).powered = (s.reg q).powered ∧ (t.reg q).clockOn = (s.reg q).clockOn ∧ (t.reg q).lock = (s.reg q).lock ∧ (t.reg q).retired = (s.reg q).retired

theorem keepsFaults_refl (s : State) : keepsFaults s s := ⟨⟨rfl, rfl, rfl, rfl⟩, fun _ => ⟨rfl, rfl, rfl, rfl⟩⟩

theorem keepsFaults_trans {s t u : State} (h : keepsFaults s t) (g : keepsFaults t u) : keepsFaults s u :=
  ⟨⟨g.1.1.trans h.1.1, g.1.2.1.trans h.1.2.1, g.1.2.2.1.trans h.1.2.2.1, g.1.2.2.2.trans h.1.2.2.2⟩,
    fun q => ⟨(g.2 q).1.trans (h.2 q).1, (g.2 q).2.1.trans (h.2 q).2.1, (g.2 q).2.2.1.trans (h.2 q).2.2.1, (g.2 q).2.2.2.trans (h.2 q).2.2.2⟩⟩

theorem keepsFaults_of {l : List Part} {s t : State} (h : onlyChanges l s t) (nf : Part.flt ∉ l) (nr : Part.regions ∉ l) : keepsFaults s t := by
  unfold keepsFaults State.reg
  rw [onlyChanges_flt h nf, onlyChanges_regions h nr]
  exact ⟨⟨rfl, rfl, rfl, rfl⟩, fun _ => ⟨rfl, rfl, rfl, rfl⟩⟩

theorem keepsFaults_onReg (s : State) (p : Nat) (f : RegionSt → RegionSt) (hf : ∀ g, (f g).powered = g.powered ∧ (f g).clockOn = g.clockOn ∧ (f g).lock = g.lock ∧ (f g).retired = g.retired) : keepsFaults s (s.onReg p f) := by
  refine ⟨⟨rfl, rfl, rfl, rfl⟩, fun q => ?_⟩
  by_cases h : q = p
  · rw [h, State.reg_onReg_self]; exact hf _
  · rw [State.reg_onReg_ne _ _ h]; exact ⟨rfl, rfl, rfl, rfl⟩

theorem keepsFaults_foldl {β : Type} (f : State → β → State) (h : ∀ u x, keepsFaults u (f u x)) (l : List β) (s : State) : keepsFaults s (l.foldl f s) := by
  induction l generalizing s with
  | nil => exact keepsFaults_refl s
  | cons x l ih => exact keepsFaults_trans (h s x) (ih _)

theorem abandonStep_keeps (s : State) : keepsFaults s s.abandonStep := by
  unfold State.abandonStep
  extract_lets q s1 s2 s3 s4 s5 s6 s7 s8
  have k2 : keepsFaults s s2 := keepsFaults_of (l := [.cores, .lregions, .bat, .net, .eng, .store]) (onlyChanges_ite (onStore_in (discardSlab_in (onlyChanges_refl _ _) (by decide)) (by decide)) (discardSlab_in (onlyChanges_refl _ _) (by decide))) (by decide) (by decide)
  have k3 : keepsFaults s s3 := keepsFaults_trans k2 (keepsFaults_foldl _ (fun u r => by
    split
    · exact keepsFaults_refl _
    · exact keepsFaults_onReg _ _ _ fun _ => ⟨rfl, rfl, rfl, rfl⟩) _ _)
  have k5 : keepsFaults s s5 := keepsFaults_trans k3 (keepsFaults_of (l := [.cores, .lregions]) (onLregs_in (onCores_in (onlyChanges_refl _ _) (by decide)) (by decide)) (by decide) (by decide))
  clear_value s5
  have k6 : keepsFaults s s6 := by
    have kk (o : Option Snapshot) : keepsFaults s (match o with | none => s5 | some q => { s5 with sram := s5.restoreSram q }) := by cases o <;> exact k5
    exact kk q
  clear_value s6
  exact k6

/-- Lost exchange lines: unless a load is due or a worse hold stands, a load becomes due (R294). -/
theorem exchangeGone_keeps (s : State) : keepsFaults s s.exchangeGone ∧ (s.exchangeGone.flt.needLoad = s.flt.needLoad → s.exchangeGone = s) ∧ (5 ≤ s.run.hcause → s.exchangeGone = s) := by
  unfold State.exchangeGone
  split
  · exact ⟨keepsFaults_refl s, fun _ => rfl, fun _ => rfl⟩
  · rename_i h
    simp only [Bool.or_eq_true, decide_eq_true_eq, not_or, Bool.not_eq_true] at h
    refine ⟨keepsFaults_trans (keepsFaults_of (l := [.log]) (logHealth_in (onlyChanges_refl _ _) (by decide)) (by decide) (by decide)) (abandonStep_keeps (s.logHealth { cls := 0x50, action := 10 })), fun g => ?_, fun g => absurd g h.2⟩
    rw [h.1] at g
    cases g

/-- What a second lost member of a sheaf does to the state (R293, R294). -/
theorem secondMember_facts (s : State) (r : Nat) : keepsFaults s (s.secondMember r) ∧ (s.secondMember r).cfg = s.cfg ∧
    ((s.secondMember r).flt.needLoad = s.flt.needLoad → onlyChanges [.run, .brg, .flt, .log, .pwr] s (s.secondMember r)) ∧
    (exhausted s → (s.modeCourse.prot = true → exhausted (s.secondMember r)) ∧ (exhausted (s.secondMember r) ∨ stateGone (s.secondMember r))) := by
  have c : (s.secondMember r).cfg = s.cfg := onlyChanges_cfg (secondMember_changes s r) (by decide)
  refine ⟨?_, c, ?_, ?_⟩
  · unfold State.secondMember
    simp only
    split
    · exact keepsFaults_refl s
    · split
      · split
        · exact (exchangeGone_keeps s).1
        · exact keepsFaults_refl s
      · refine ⟨stateLost_flt _ _, fun q => ?_⟩
        unfold State.reg
        rw [onlyChanges_regions (stateLost_changes _ _) (by decide)]
        exact ⟨rfl, rfl, rfl, rfl⟩
  · unfold State.secondMember
    simp only
    split
    · exact fun _ => onlyChanges_refl _ _
    · split
      · split
        · intro h; rw [(exchangeGone_keeps s).2.1 h]; exact onlyChanges_refl _ _
        · exact fun _ => onlyChanges_refl _ _
      · exact fun _ => stateLost_changes _ _
  · intro h
    unfold State.secondMember
    simp only
    split
    · exact ⟨fun _ => h, .inl h⟩
    · split
      · split
        · rw [(exchangeGone_keeps s).2.2 (by have := h.cause; omega)]; exact ⟨fun _ => h, .inl h⟩
        · exact ⟨fun _ => h, .inl h⟩
      · rename_i hp
        refine ⟨fun g => absurd g hp, .inr ?_⟩
        generalize s.shardsLost _ _ = l
        unfold State.stateLost
        extract_lets a b
        have af : onlyChanges [.log] s a := foldl_changes _ _ (fun _ _ => logHealth_in (onlyChanges_refl _ _) (by decide)) _ _
        have p9 : (b.run.events.get {} 9).pend = true := (postEvent_pend a 9 (BitVec.ofNat 64 l.length) a.run.step).1
        have p8 : b.run.events.get {} 8 = s.run.events.get {} 8 := by
          rw [← onlyChanges_run af (by decide)]
          show (a.event 9 _).run.events.get {} 8 = _
          unfold State.event State.postEvent
          simp only
          split <;> split <;> simp <;> exact Tab.get_set_ne ({} : EventPend) a.run.events _ (show (8 : Nat) ≠ 9 by decide)
        have bf : b.flt = s.flt := (event_flt a 9 _).1.trans (onlyChanges_flt af (by decide))
        exact ⟨by show b.flt.exh = true; rw [bf]; exact h.exh, rfl, rfl, by show (b.run.events.get {} 8).pend = true ∧ _; rw [p8]; exact ⟨h.told, p9⟩⟩

theorem moveSettings_reg (s : State) (p b q : Nat) : ((s.moveSettings p b).reg q).powered = (s.reg q).powered ∧ ((s.moveSettings p b).reg q).clockOn = (s.reg q).clockOn ∧ ((s.moveSettings p b).reg q).lock = (s.reg q).lock ∧
    ((s.moveSettings p b).reg q).retired = (s.reg q).retired := by
  unfold State.moveSettings
  extract_lets mine gone u v ask w
  have same (x y : State) (h : x.regions = y.regions) : x.reg q = y.reg q := by unfold State.reg; rw [h]
  have on (x : State) (k : Nat) (f : RegionSt → RegionSt) (hf : ∀ g, (f g).powered = g.powered ∧ (f g).clockOn = g.clockOn ∧ (f g).lock = g.lock ∧ (f g).retired = g.retired) :
      ((x.onReg k f).reg q).powered = (x.reg q).powered ∧ ((x.onReg k f).reg q).clockOn = (x.reg q).clockOn ∧ ((x.onReg k f).reg q).lock = (x.reg q).lock ∧ ((x.onReg k f).reg q).retired = (x.reg q).retired := by
    by_cases h : q = k
    · rw [h, State.reg_onReg_self]; exact hf _
    · rw [State.reg_onReg_ne _ _ h]; exact ⟨rfl, rfl, rfl, rfl⟩
  have uf : u.regions = s.regions := onlyChanges_regions (l := [.settings]) (foldl_changes _ _ (fun _ _ => discardWrite_in (onlyChanges_refl _ _) (by decide)) _ _) (by decide)
  have vu : v.reg q = s.reg q := same _ _ uf
  clear_value v
  have wv : (w.reg q).powered = (v.reg q).powered ∧ (w.reg q).clockOn = (v.reg q).clockOn ∧ (w.reg q).lock = (v.reg q).lock ∧ (w.reg q).retired = (v.reg q).retired := on v p _ fun _ => ⟨rfl, rfl, rfl, rfl⟩
  clear_value w
  have xf : ([0x2000, 0x2020, 0x2034, 0x2040, 0x20C0].foldl (fun s off => s.putActive (rgnBase b + off) (s.setting (rgnBase p + off))) w).regions = w.regions :=
    onlyChanges_regions (l := [.settings]) (foldl_changes _ _ (fun _ _ => putActive_in (onlyChanges_refl _ _) (by decide)) _ _) (by decide)
  have ww := same _ _ xf
  generalize [0x2000, 0x2020, 0x2034, 0x2040, 0x20C0].foldl (fun s off => s.putActive (rgnBase b + off) (s.setting (rgnBase p + off))) w = x at *
  obtain ⟨y1, y2, y3, y4⟩ := on x b (fun g => { g with k := w.promotedClock p b, kNext := ask }) fun _ => ⟨rfl, rfl, rfl, rfl⟩
  rw [y1, y2, y3, y4, ww, wv.1, wv.2.1, wv.2.2.1, wv.2.2.2, vu]
  exact ⟨rfl, rfl, rfl, rfl⟩

theorem sparesExhausted_net (s : State) : s.sparesExhausted.net = s.net ∧ s.sparesExhausted.regions = s.regions ∧ s.sparesExhausted.cfg = s.cfg :=
  have f := sparesExhausted_changes s
  ⟨onlyChanges_net f (by decide), onlyChanges_regions f (by decide), onlyChanges_cfg f (by decide)⟩

/-- Exhausted spares keep what a loss keeps. -/
theorem sparesExhausted_keeps (s : State) : keepsFaults s s.sparesExhausted ∧ exhausted s.sparesExhausted ∧ s.sparesExhausted.flt.needLoad = s.flt.needLoad := by
  obtain ⟨e1, e2, e3, e4, e5, _⟩ := sparesExhausted_facts s
  refine ⟨⟨⟨e2, e3, e4, e5⟩, fun q => ?_⟩, e1, ?_⟩
  · unfold State.reg
    rw [(sparesExhausted_net s).2.1]
    exact ⟨rfl, rfl, rfl, rfl⟩
  · unfold State.sparesExhausted
    extract_lets a b
    show b.flt.needLoad = _
    rw [show b.flt = a.flt from (event_flt a 8 0).1]
    rfl

/-- Routes are recomputed; a pair that cannot be routed exhausts the spares (R118). -/
theorem rerouted (x : State) : let y := x.recomputeRoutes
    let t := if y.net.unroutable.isEmpty = true then y else y.sparesExhausted
    keepsFaults x t ∧ t.cfg = x.cfg ∧ t.flt.needLoad = x.flt.needLoad ∧ (t.net.unroutable ≠ [] → exhausted t) ∧ onlyChanges [.run, .brg, .net, .flt, .log, .pwr] x t := by
  intro y t
  have yf := recomputeRoutes_changes x
  have y1 : keepsFaults x y := keepsFaults_of yf (by decide) (by decide)
  have y2 : y.cfg = x.cfg := onlyChanges_cfg yf (by decide)
  have y3 : y.flt = x.flt := onlyChanges_flt yf (by decide)
  have y4 : onlyChanges [.run, .brg, .net, .flt, .log, .pwr] x y := onlyChanges_mono yf (by decide)
  clear_value y
  simp only [t]
  split
  · rename_i h
    refine ⟨y1, y2, by rw [y3], fun g => ?_, y4⟩
    cases hh : y.net.unroutable with
    | nil => exact absurd hh g
    | cons a l => rw [hh] at h; cases h
  · obtain ⟨s1, s2, s3⟩ := sparesExhausted_keeps y
    exact ⟨keepsFaults_trans y1 s1, (sparesExhausted_net y).2.2.trans y2, by rw [s3, y3], fun _ => s2, sparesExhausted_in y4 (by decide)⟩

/-- What a promotion does to the map, the promotions and the rest (R288). -/
theorem promote_facts (a : State) (p r b : Nat) :
    (a.promote p r b).cfg.map = a.cfg.map.set none r (some b) ∧ (a.promote p r b).flt.promos = (a.flt.promos.filter fun x => x.lregion ≠ r) ++ [{ lregion := r, lost := p, standby := b }] ∧
    ((a.promote p r b).flt.dead = a.flt.dead ∧ (a.promote p r b).flt.repairs = a.flt.repairs ∧ (a.promote p r b).flt.logFull = a.flt.logFull) ∧ (a.promote p r b).regions = a.regions ∧
    (a.promote p r b).flt.needLoad = a.flt.needLoad ∧ onlyChanges [.lregions, .cfg, .net, .store, .flt, .log] a (a.promote p r b) := by
  unfold State.promote
  extract_lets c d e u
  have d1 : d.cfg.map = a.cfg.map.set none r (some b) ∧ d.flt.promos = (a.flt.promos.filter fun x => x.lregion ≠ r) ++ [{ lregion := r, lost := p, standby := b }] ∧
      (d.flt.dead = a.flt.dead ∧ d.flt.repairs = a.flt.repairs ∧ d.flt.logFull = a.flt.logFull) ∧ d.regions = a.regions ∧ d.flt.needLoad = a.flt.needLoad := ⟨rfl, rfl, ⟨rfl, rfl, rfl⟩, rfl, rfl⟩
  have df : onlyChanges [.lregions, .cfg, .net, .store, .flt, .log] a d := onFlt_in (logHealth_in (onCfg_in (onlyChanges_refl _ _) (by decide)) (by decide)) (by decide)
  clear_value d
  have ef : onlyChanges [.lregions, .net] d e := dropDeltasOf_changes d r
  have e1 : e.cfg = d.cfg := onlyChanges_cfg ef (by decide)
  have e2 : e.flt = d.flt := onlyChanges_flt ef (by decide)
  have e3 : e.regions = d.regions := onlyChanges_regions ef (by decide)
  have eg : onlyChanges [.lregions, .cfg, .net, .store, .flt, .log] a e := onlyChanges_step df ef (by decide)
  clear_value e
  rw [← e1, ← e2, ← e3] at d1
  split
  · exact ⟨d1.1, d1.2.1, d1.2.2.1, d1.2.2.2.1, d1.2.2.2.2, logHealth_in (onStore_in eg (by decide)) (by decide)⟩
  · exact ⟨d1.1, d1.2.1, d1.2.2.1, d1.2.2.2.1, d1.2.2.2.2, eg⟩

/-- A region loss by its cases. -/
theorem loseRegion_cases (s : State) (p : Nat) (half : Option Nat) (u : State) (hu : u = s.onReg p fun g => { g with powered := false, clockOn := false, lock := false, retired := true }) :
    s.loseRegion p half = match (if s.run.st = .idle then none else s.logicalOf p) with
      | none => if u.recomputeRoutes.net.unroutable.isEmpty = true then u.recomputeRoutes else u.recomputeRoutes.sparesExhausted
      | some r =>
        match u.pickStandby p half with
        | none => (u.onStore fun t => { t with degr := true }).recomputeRoutes.sparesExhausted.secondMember r
        | some b =>
          let e := (((u.onStore fun t => { t with degr := true }).secondMember r).moveSettings p b).promote p r b
          if e.recomputeRoutes.net.unroutable.isEmpty = true then e.recomputeRoutes else e.recomputeRoutes.sparesExhausted := by
  subst hu
  rfl

theorem loseRegion_lost (s : State) (p : Nat) (half : Option Nat) : regionLost p half s (s.loseRegion p half) := by
  have gone := loseRegion_changes s p half
  have key := loseRegion_cases s p half _ rfl
  have uf : onlyChanges [.regions] s (s.onReg p fun g => { g with powered := false, clockOn := false, lock := false, retired := true }) := onReg_changes ..
  have ds : let u := s.onReg p fun g => { g with powered := false, clockOn := false, lock := false, retired := true }
      (u.reg p).powered = false ∧ (u.reg p).clockOn = false ∧ (u.reg p).lock = false ∧ (u.reg p).retired = true := by
    intro u; rw [State.reg_onReg_self]; exact ⟨rfl, rfl, rfl, rfl⟩
  have os (q : Nat) (h : q ≠ p) : let u := s.onReg p fun g => { g with powered := false, clockOn := false, lock := false, retired := true }
      (u.reg q).powered = (s.reg q).powered ∧ (u.reg q).clockOn = (s.reg q).clockOn ∧ (u.reg q).retired = (s.reg q).retired := by
    intro u; rw [State.reg_onReg_ne _ _ h]; exact ⟨rfl, rfl, rfl⟩
  -- the case of a region that serves no logical region, the case of no standby, the case of a standby
  have goal (t : State) (hk : ∀ q, (t.reg q).powered = ((s.onReg p fun g => { g with powered := false, clockOn := false, lock := false, retired := true }).reg q).powered ∧ (t.reg q).clockOn = ((s.onReg p fun g => { g with powered := false, clockOn := false, lock := false, retired := true }).reg q).clockOn ∧ (t.reg q).lock = ((s.onReg p fun g => { g with powered := false, clockOn := false, lock := false, retired := true }).reg q).lock ∧ (t.reg q).retired = ((s.onReg p fun g => { g with powered := false, clockOn := false, lock := false, retired := true }).reg q).retired)
      (g3 : s.run.st = .idle ∨ s.logicalOf p = none → t.cfg = s.cfg ∧ t.flt.promos = s.flt.promos)
      (g4 : ∀ r, s.run.st ≠ .idle → s.logicalOf p = some r → (s.onReg p fun g => { g with powered := false, clockOn := false, lock := false, retired := true }).pickStandby p half = none → t.cfg = s.cfg ∧ (s.modeCourse.prot = true → exhausted t) ∧ (exhausted t ∨ stateGone t))
      (g5 : ∀ r b, s.run.st ≠ .idle → s.logicalOf p = some r → (s.onReg p fun g => { g with powered := false, clockOn := false, lock := false, retired := true }).pickStandby p half = some b → t.cfg.map = s.cfg.map.set none r (some b) ∧ t.flt.promos = (s.flt.promos.filter fun x => x.lregion ≠ r) ++ [{ lregion := r, lost := p, standby := b }])
      (g6 : t.net.unroutable ≠ [] → exhausted t ∨ stateGone t) (g7 : t.flt.dead = s.flt.dead ∧ t.flt.repairs = s.flt.repairs ∧ t.flt.logFull = s.flt.logFull)
      (g8 : t.flt.needLoad = s.flt.needLoad → onlyChanges [.lregions, .regions, .settings, .run, .brg, .cfg, .net, .store, .flt, .log, .pwr] s t)
      (g9 : onlyChanges [.sram, .cores, .lregions, .regions, .settings, .num, .run, .brg, .cfg, .bat, .net, .store, .eng, .flt, .log, .pwr] s t) : regionLost p half s t := by
    refine ⟨?_, ?_, g3, g4, g5, g6, g7, g8, g9⟩
    · obtain ⟨x1, x2, x3, x4⟩ := hk p
      rw [x1, x2, x3, x4]; exact ds
    · intro q hq
      obtain ⟨x1, x2, x3, x4⟩ := hk q
      rw [x1, x2, x4]; exact os q hq
  rw [key] at gone ⊢
  generalize hu : (s.onReg p fun g => { g with powered := false, clockOn := false, lock := false, retired := true }) = u at *
  have uc : u.cfg = s.cfg := onlyChanges_cfg uf (by decide)
  have ue : u.flt = s.flt := onlyChanges_flt uf (by decide)
  have um : u.modeCourse = s.modeCourse := by unfold State.modeCourse; rw [uc]
  clear key ds os
  generalize hl : (if s.run.st = .idle then none else s.logicalOf p) = lo at gone ⊢
  cases lo with
  | none =>
    simp only at gone ⊢
    obtain ⟨⟨r1, r2⟩, r3, r4, r5, r6⟩ := rerouted u
    generalize (if u.recomputeRoutes.net.unroutable.isEmpty = true then u.recomputeRoutes else u.recomputeRoutes.sparesExhausted) = t at *
    have no (r : Nat) (h : s.run.st ≠ .idle) (g : s.logicalOf p = some r) : False := by rw [if_neg h, g] at hl; cases hl
    rw [ue] at r1 r4
    exact goal t r2 (fun _ => ⟨by rw [r3, uc], r1.2.1⟩) (fun r h g => (no r h g).elim) (fun r b h g => (no r h g).elim) (fun h => .inl (r5 h)) ⟨r1.1, r1.2.2.1, r1.2.2.2⟩
      (fun _ => onlyChanges_step (onlyChanges_mono uf (by decide)) r6 (by decide)) gone
  | some r =>
    simp only at gone ⊢
    have live : s.run.st ≠ .idle := fun h => by rw [if_pos h] at hl; cases hl
    have lr : s.logicalOf p = some r := by rw [if_neg live] at hl; exact hl
    have notIdle : ¬ (s.run.st = .idle ∨ s.logicalOf p = none) := by
      rintro (h | h)
      · exact live h
      · rw [lr] at h; cases h
    have vf : onlyChanges [.regions, .store] s (u.onStore fun t => { t with degr := true }) := onStore_in (onlyChanges_mono uf (by decide)) (by decide)
    have vk : keepsFaults u (u.onStore fun t => { t with degr := true }) := keepsFaults_refl u
    generalize (u.onStore fun t => { t with degr := true }) = v at *
    have vc : v.cfg = s.cfg := onlyChanges_cfg vf (by decide)
    have ve : v.flt = s.flt := onlyChanges_flt vf (by decide)
    cases hp : u.pickStandby p half with
    | none =>
      rw [hp] at gone
      simp only at gone ⊢
      have yf : onlyChanges [.regions, .store, .net] s v.recomputeRoutes := recomputeRoutes_in (onlyChanges_mono vf (by decide)) (by decide)
      have yk : keepsFaults u v.recomputeRoutes := keepsFaults_trans vk (keepsFaults_of (recomputeRoutes_changes v) (by decide) (by decide))
      generalize v.recomputeRoutes = y at *
      obtain ⟨s1, s2, s3⟩ := sparesExhausted_keeps y
      have xf : onlyChanges [.regions, .store, .net, .run, .brg, .flt, .log, .pwr] s y.sparesExhausted := sparesExhausted_in (onlyChanges_mono yf (by decide)) (by decide)
      have xk := keepsFaults_trans yk s1
      rw [onlyChanges_flt yf (by decide)] at s3
      generalize y.sparesExhausted = x at *
      have xc : x.cfg = s.cfg := onlyChanges_cfg xf (by decide)
      obtain ⟨m1, m2, m3, m4⟩ := secondMember_facts x r
      obtain ⟨m5, m6⟩ := m4 s2
      have pm : x.modeCourse = s.modeCourse := by unfold State.modeCourse; rw [xc]
      generalize x.secondMember r = t at *
      obtain ⟨tk1, tk2⟩ := keepsFaults_trans xk m1
      rw [ue] at tk1
      rw [pm] at m5
      refine goal t tk2 (fun h => (notIdle h).elim) (fun r' _ _ _ => ⟨by rw [m2, xc], m5, m6⟩) (fun r' b _ _ h => by rw [hp] at h; cases h) (fun _ => m6) ⟨tk1.1, tk1.2.2.1, tk1.2.2.2⟩ ?_ gone
      · intro h
        exact onlyChanges_step (onlyChanges_mono xf (by decide)) (m3 (by rw [h, s3])) (by decide)
    | some b =>
      rw [hp] at gone
      simp only at gone ⊢
      obtain ⟨m1, m2, m3, _⟩ := secondMember_facts v r
      have wk := keepsFaults_trans vk m1
      generalize v.secondMember r = w at *
      have ar := moveSettings_reg w p b
      have af := moveSettings_changes w p b
      have ac : (w.moveSettings p b).cfg = w.cfg := onlyChanges_cfg af (by decide)
      have at' : (w.moveSettings p b).flt = w.flt := onlyChanges_flt af (by decide)
      generalize w.moveSettings p b = a at *
      obtain ⟨d1, d2, d3, d4, d5, d6⟩ := promote_facts a p r b
      generalize a.promote p r b = e at *
      obtain ⟨⟨r1, r2⟩, r3, r4, r5, r6⟩ := rerouted e
      generalize (if e.recomputeRoutes.net.unroutable.isEmpty = true then e.recomputeRoutes else e.recomputeRoutes.sparesExhausted) = t at *
      obtain ⟨wk1, wk2⟩ := wk
      rw [ue] at wk1
      refine goal t (fun q => ?_) (fun h => (notIdle h).elim) (fun r' _ _ h => by rw [hp] at h; cases h) ?_ (fun h => .inl (r5 h)) ?_ ?_ gone
      · have er : e.reg q = a.reg q := by unfold State.reg; rw [d4]
        rw [(r2 q).1, (r2 q).2.1, (r2 q).2.2.1, (r2 q).2.2.2, er, (ar q).1, (ar q).2.1, (ar q).2.2.1, (ar q).2.2.2]
        exact wk2 q
      · intro r' b' _ h1 h2
        rw [lr] at h1; cases h1
        rw [hp] at h2; cases h2
        exact ⟨by rw [r3, d1, ac, m2, vc], by rw [r1.2.1, d2, at', wk1.2.1]⟩
      · rw [r1.1, r1.2.2.1, r1.2.2.2, d3.1, d3.2.1, d3.2.2, at']
        exact ⟨wk1.1, wk1.2.2.1, wk1.2.2.2⟩
      · intro h
        have wl : w.flt.needLoad = v.flt.needLoad := by rw [ve, ← h, r4, d5, at']
        exact onlyChanges_step (onlyChanges_step (onlyChanges_step (onlyChanges_step (onlyChanges_mono vf (by decide)) (m3 wl) (by decide)) af (by decide)) d6 (by decide)) r6 (by decide)

/-! Taking a report, and image faults (R278, R281). -/

theorem takeReport_takes (s : State) (f : FaultRep) : takesReport f s (s.takeReport f) := by
  refine ⟨?_, ?_, ?_, ?_, ?_, ?_⟩
  · intro p c cls h1 h2
    unfold State.takeReport
    rw [h1]
    simp only
    rw [if_pos (by rcases h2 with h | h <;> rw [h] <;> simp)]
  · intro p c cls h1 h2 h3 u
    have key : s.takeReport f = (s.logHealth (s.detectionRec f)).loseCore f p c := by
      unfold State.takeReport
      rw [h1]
      simp only
      rw [if_neg (by rw [h2, h3]; decide)]
    have sp : (s.logHealth (s.detectionRec f)).spareFree p c = s.spareFree p c := rfl
    have lc : (s.logHealth (s.detectionRec f)).loseCore f p c = (if s.spareFree p c = true then u else u.loseRegion p none).absorb f := by
      rw [← sp]; rfl
    rw [key, lc]
    refine ⟨_, fun h => ?_, fun h => ?_, absorb_absorbs _ f⟩
    · rw [if_pos h]
    · rw [if_neg (by rw [h]; decide)]
      exact loseRegion_lost _ _ _
  · intro p cls h1 h2
    unfold State.takeReport
    rw [h1]
    simp only
    rw [if_pos h2]
  · intro p cls h1 h2
    have key : s.takeReport f = ((s.logHealth (s.detectionRec f)).loseRegion p f.half).absorb f := by
      unfold State.takeReport
      rw [h1]
      simp only
      rw [if_neg (by rw [h2]; decide)]
    rw [key]
    exact ⟨_, loseRegion_lost _ _ _, absorb_absorbs _ f⟩
  · intro p b l h
    have key : s.takeReport f = (s.logHealth (s.detectionRec f)).absorb f := by
      unfold State.takeReport
      rw [h]
    rw [key]; exact absorb_absorbs _ f
  · intro e h
    have key : s.takeReport f = (s.logHealth (s.detectionRec f)).absorb f := by
      unfold State.takeReport
      rw [h]
    rw [key]; exact absorb_absorbs _ f

/-- An image fault holds the module, tells the host which unit and record, and rewinds (R278). -/
theorem imageFault_facts (s : State) (x : IllegalRep) : (s.imageFault x).run.st = .held ∧ (s.run.hcause < 5 → (s.imageFault x).run.hcause = 4) ∧ (s.imageFault x).flt.image = true ∧ (s.imageFault x).log.seq ≠ s.log.seq ∧
    ((s.imageFault x).run.events.get {} 7).pend = true ∧ ((s.imageFault x).run.events.get {} 7).res1 = BitVec.ofNat 64 (x.lregion % 64 + x.core % 1024 * 64 + x.point % 65536 * 65536) ∧
    (s.flt.phase = .none → s.run.hcause < 5 → (s.imageFault x).flt.phase = .draining) := by
  unfold State.imageFault
  simp only
  have l := logHealth_seq s { cls := 0x06, action := 10, pregion := (s.phys x.lregion).getD 63, lregion := x.lregion, unit := x.core, detail := x.point % 2 ^ 30 + 2 ^ 31 }
  have lf : (s.logHealth { cls := 0x06, action := 10, pregion := (s.phys x.lregion).getD 63, lregion := x.lregion, unit := x.core, detail := x.point % 2 ^ 30 + 2 ^ 31 }).flt = s.flt := rfl
  have lh : (s.logHealth { cls := 0x06, action := 10, pregion := (s.phys x.lregion).getD 63, lregion := x.lregion, unit := x.core, detail := x.point % 2 ^ 30 + 2 ^ 31 }).run.hcause = s.run.hcause := rfl
  generalize s.logHealth { cls := 0x06, action := 10, pregion := (s.phys x.lregion).getD 63, lregion := x.lregion, unit := x.core, detail := x.point % 2 ^ 30 + 2 ^ 31 } = a at *
  generalize BitVec.ofNat 64 (x.lregion % 64 + x.core % 1024 * 64 + x.point % 65536 * 65536) = n
  have ep := postEvent_pend a 7 n a.run.step
  have ef := event_flt a 7 n
  change ((a.event 7 n).run.events.get {} 7).pend = true ∧ ((a.event 7 n).run.events.get {} 7).res0 = _ ∧ ((a.event 7 n).run.events.get {} 7).res1 = _ at ep
  generalize a.event 7 n = b at *
  have hc : ((b.onFlt fun f => { f with image := true, since := b.time }).holdFor 4).run.st = .held ∧ (b.run.hcause < 5 → ((b.onFlt fun f => { f with image := true, since := b.time }).holdFor 4).run.hcause = 4) ∧
      ((b.onFlt fun f => { f with image := true, since := b.time }).holdFor 4).flt = { b.flt with image := true, since := b.time } ∧ ((b.onFlt fun f => { f with image := true, since := b.time }).holdFor 4).log = b.log ∧
      ((b.onFlt fun f => { f with image := true, since := b.time }).holdFor 4).run.events = b.run.events := ⟨rfl, fun h => if_neg (fun k => Nat.not_lt.mpr k.2 h), rfl, rfl, rfl⟩
  rw [ef.2.2.2, lh] at hc
  generalize (b.onFlt fun f => { f with image := true, since := b.time }).holdFor 4 = c at *
  obtain ⟨h1, h2, h3, h4, h5⟩ := hc
  obtain ⟨r1, r2, _, _, r5, r6, _, r7⟩ := startRewind_facts c
  have im : c.startRewind.flt.image = c.flt.image := by unfold State.startRewind; split <;> rfl
  obtain ⟨j1, j2, _, _, j3, j4⟩ := rejoin_facts c.startRewind
  refine ⟨by rw [j1, r1, h1], fun hc => by rw [j1, r2, h2 hc], by rw [j3, im, h3], by rw [j2, r5, h4, ef.2.1]; exact l, by rw [j1, r6, h5]; exact ep.1, by rw [j1, r6, h5]; exact ep.2.2, ?_⟩
  intro hp hc
  exact j4 (r7 (by rw [h3, ← hp, ← lf, ← ef.1]) (by rw [h2 hc]; decide)).1

/-! Rewinding (R281). -/

/-- An entry of a table changed entry by entry comes from an entry. -/
theorem mapTab_mem {α : Type} [DecidableEq α] (d : α) (f : α → α) (t : Tab α) (x : Nat × α) (h : x ∈ mapTab d f t) : ∃ y ∈ t, x = (y.1, f y.2) := by
  unfold mapTab tidy at h
  obtain ⟨h1, _⟩ := List.mem_filter.mp h
  obtain ⟨y, y1, y2⟩ := List.mem_map.mp h1
  exact ⟨y, y1, y2.symm⟩

/-- What a table reads is its default or listed. -/
theorem get_mem {α : Type} (d : α) (t : Tab α) (k : Nat) : Tab.get d t k = d ∨ (k, Tab.get d t k) ∈ t := by
  induction t with
  | nil => exact .inl rfl
  | cons a l ih =>
    obtain ⟨j, v⟩ := a
    unfold Tab.get
    split
    · rename_i h; subst h; exact .inr List.mem_cons_self
    · rcases ih with h | h
      · exact .inl h
      · exact .inr (List.mem_cons_of_mem _ h)

theorem discardSlab_discards (s : State) : slabDiscarded s s.discardSlab := by
  refine ⟨?_, ?_, ?_, ?_, rfl⟩
  · intro x hx
    have e : s.discardSlab.cores = mapTab {} (fun x : CoreSt => { x with outq := dropPackets x.outq, inHi := dropPackets x.inHi, inNo := dropPackets x.inNo, port := [], ported := [], vec := none, accs := [] }) s.cores := rfl
    rw [e] at hx
    exact mapTab_mem _ _ _ x hx
  · intro x hx
    have e : s.discardSlab.lregions = mapTab {} (fun x : LRegionSt => { x with outq := dropPackets x.outq, inHi := dropPackets x.inHi, inNo := dropPackets x.inNo }) s.lregions := rfl
    rw [e] at hx
    exact mapTab_mem _ _ _ x hx
  · intro x hx
    have e : s.discardSlab.net.routers = mapTab {} RouterSt.discard s.net.routers := rfl
    rw [e] at hx
    obtain ⟨y, hy, rfl⟩ := mapTab_mem _ _ _ x hx
    refine ⟨y, hy, rfl, rfl, fun v hv => ?_⟩
    have k := (List.mem_filter.mp hv).2
    cases hz : v.2 with
    | none => rw [hz] at k; cases k
    | some z => rw [hz] at k; exact ⟨z, List.contains_iff_mem.mp k, rfl⟩
  · intro x hx
    obtain ⟨y, hy, rfl⟩ := List.mem_map.mp hx
    exact ⟨y, hy, rfl⟩

theorem quietQueue_drop (q : List Packet) : quietQueue (dropPackets q) = true := by
  unfold quietQueue dropPackets
  rw [List.all_eq_true]
  intro p hp
  exact (List.mem_filter.mp hp).2

/-- After the discard no queue of a press holds a packet of unit work. -/
theorem discardSlab_quiet (s : State) (r : Nat) : quietQueue (s.discardSlab.lreg r).outq = true ∧ quietQueue (s.discardSlab.lreg r).inHi = true ∧ quietQueue (s.discardSlab.lreg r).inNo = true := by
  rcases get_mem ({} : LRegionSt) s.discardSlab.lregions r with h | h
  · unfold State.lreg; rw [h]; exact ⟨rfl, rfl, rfl⟩
  · obtain ⟨y, _, e⟩ := (discardSlab_discards s).lregions _ h
    have e2 := congrArg Prod.snd e
    unfold State.lreg
    simp only at e2
    rw [e2]
    exact ⟨quietQueue_drop _, quietQueue_drop _, quietQueue_drop _⟩

/-- A fold of updates of one region each leaves every listed region as one of its updates leaves it. -/
theorem foldl_onLreg {β : Type} (key : β → Nat) (f : β → LRegionSt → LRegionSt) (P : Nat → LRegionSt → Prop) (Q : LRegionSt → Prop) (hP : ∀ b l, Q l → P (key b) (f b l)) (hQ : ∀ b l, Q l → Q (f b l))
    (l : List β) (s : State) (hs : ∀ r, Q (s.lreg r)) :
    (∀ b ∈ l, P (key b) ((l.foldl (fun s b => s.onLreg (key b) (f b)) s).lreg (key b))) ∧ (∀ r, Q ((l.foldl (fun s b => s.onLreg (key b) (f b)) s).lreg r)) ∧
    (∀ r, (∀ b ∈ l, key b ≠ r) → (l.foldl (fun s b => s.onLreg (key b) (f b)) s).lreg r = s.lreg r) := by
  induction l generalizing s with
  | nil => exact ⟨(fun b h => by cases h), hs, (fun _ _ => rfl)⟩
  | cons a t ih =>
    rw [List.foldl_cons]
    have hs2 : ∀ r, Q ((s.onLreg (key a) (f a)).lreg r) := by
      intro r
      by_cases h : r = key a
      · rw [h, State.lreg_onLreg_self]; exact hQ _ _ (hs _)
      · rw [State.lreg_onLreg_ne _ _ h]; exact hs r
    obtain ⟨i1, i2, i3⟩ := ih (s.onLreg (key a) (f a)) hs2
    refine ⟨?_, i2, ?_⟩
    · intro b hb
      by_cases h : ∃ c ∈ t, key c = key b
      · obtain ⟨c, c1, c2⟩ := h
        rw [← c2]; exact i1 c c1
      · have hn : ∀ c ∈ t, key c ≠ key b := fun c hc e => h ⟨c, hc, e⟩
        rw [i3 _ hn]
        rcases List.mem_cons.mp hb with e | e
        · rw [e, State.lreg_onLreg_self]; exact hP _ _ (hs _)
        · exact absurd rfl (hn b e)
    · intro r hr
      rw [i3 r fun b hb => hr b (List.mem_cons_of_mem _ hb)]
      exact State.lreg_onLreg_ne _ _ (fun e => hr a List.mem_cons_self e.symm)

end Sys2Proof.Machine
end

