-- ==== Sys2Proof/Tests/Slice0.lean ====
section
/-! SUPPORT. Tests: an ill-formed term for each check of WellFormed, values the manual gives, and for each statement with hypotheses states and operands that meet them, clause by clause. -/

namespace Sys2Proof.Tests
open Sys2Proof.Machine

/-! Each of these proofs needs the kernel's environment of everything before it: one at a time, so that none holds a thread while it waits. -/
set_option Elab.async false

/-! States that the tests start from. -/

/-- An image of two logical regions, the first with a given course. -/
def img (rc : RegionCourse) (mc : ModeCourse) (lc : LinkCourse) (pc : PressCourse) : Image :=
  { regions := [(0, rc), (1, {})], link := some lc, press := some pc, step := some {}, mode := some mc }

/-- A powered region whose clock is locked. -/
def lit : RegionSt := { powered := true, clockOn := true, lock := true }

/-- A module inside step 3 under an image. -/
def inStepOf (i : Image) : State :=
  { State.reset with
    cfg := { image := some i, map := [(0, some 0), (1, some 1)] }
    regions := [(0, lit), (1, lit)]
    lregions := [(0, { active := true }), (1, { active := true })]
    run := { st := .running, inStep := true, step := 3 } }

/-- A module inside a step, its first region with a given course. -/
def inStep (rc : RegionCourse) : State := inStepOf (img rc {} {} {})

/-- A module stopped at a boundary under an image. -/
def stopped (i : Image) : State := { inStepOf i with run := { st := .stopped, step := 3 } }

def hdr : CmdHdr := { sq := 0, cid := 1 }

def bare : State := stopped (img {} {} {} {})

/-- A course with one shard's lines: an exchange run, a parameter run, staging. -/
def rcShard : RegionCourse :=
  { runs := [⟨8, 0, 4, .parameter, false⟩, ⟨0, 0, 64, .exchange, false⟩, ⟨1, 0, 64, .exchange, true⟩], lists := [[0]] }

/-- A press course with one shard of two lines in region 0, all of whose copies lie in line list 0. -/
def pcShard : PressCourse :=
  { groups := [{}], regions := [{ lregion := 0, shards := [{ nlines := 2, runs := [some 0, some 0, some 0, some 0, some 0, some 0], hbank := 8, hline := 3 }] }] }

/-! Ill-formed terms: each check of WellFormed refuses one. -/

theorem test_wf_refuses_lists_and_windows :
    Instr.wf (.partnerSet hdr (List.replicate 256 (0, 0))) = false ∧ Instr.wf (.feedDomainSet hdr 0 (List.replicate 256 (0, 0))) = false ∧
    Instr.wf (.windowWrite 0 [] false) = false ∧ Instr.wf (.windowWrite 60 [0, 0, 0, 0, 0] false) = false ∧
    Instr.wf (.windowRead 0 0) = false ∧ Instr.wf (.windowRead 63 2) = false := by decide +kernel

theorem test_wf_refuses_lines_and_records :
    Instr.wf (.scrub 0 2 14044 .clean) = false ∧ Instr.wf (.scrub 0 3 14043 .clean) = false ∧ Instr.wf (.lineRecovered 0 2 14044) = false ∧
    Instr.wf (.dramRowRemap 0 0 65536) = false ∧ Instr.wf (.normRecordArrival ⟨0, 0, 0, 0, 0, 0, List.replicate 257 0⟩) = false := by decide +kernel

theorem test_wf_refuses_frames_and_packets :
    Instr.wf (.frameReceipt 0 0 ⟨0, List.replicate 18 0, []⟩) = false ∧ Instr.wf (.frameReceipt 0 0 ⟨0, List.replicate 19 0, [{ glen := 0 }]⟩) = false ∧
    Instr.wf (.frameReceipt 0 0 ⟨0, List.replicate 19 0, [{}]⟩) = true ∧ Instr.wf (.transportAcknowledgement 0 { dmod := 0, amod := 0, vc := 0, slot := 0, cum := 0, sel := 0, hops := 16 }) = false ∧
    ([{ vc := 4 }, { kind := 16 }, { pidx := 128 }, { nflag := 8 }, { smod := 65536 }, { slregion := 64 }, { skind := 4 }, { sunit := 1024 }, { sctx := 64 },
      { ltok := 512 }, { ttok := 512 }, { count := 0 }, { count := 65536 }, { glen := 0 }, { glen := 8193 }, { hops := 16 }, { hkind := 4 }, { cetag := 256 },
      { payload := List.replicate 520 0 }, { payload := [0] }] : List Packet).all (fun p => !Instr.wf (.transportPacketAccept 0 p)) = true ∧
    Instr.wf (.transportPacketAccept 0 {}) = true := by decide +kernel

/-! Witnesses, in the order of the statements. -/

theorem witness_ReportCommandsWriteTheirRecords :
    hdr.cid ≠ 0xFFFF ∧ (0xFFFFFFFFFFFFF000 : U64).toNat % 64 = 0 ∧ (0xFFFFFFFFFFFFF000 : U64).toNat + 4096 ≤ 2 ^ 64 ∧
    (0xFFFFFFFFFFFF0000 : U64).toNat + (65536 : U32).toNat ≤ 2 ^ 64 ∧ 4096 ≤ (65536 : U32).toNat ∧ (65536 : U32).toNat ≤ 65536 ∧
    1 ≤ (1 : U32).toNat ∧ (0xFFFFFFFFFFFFF000 : U64).toNat + 2176 ≤ 2 ^ 64 ∧ (0xFFFFFFFFFFE00000 : U64).toNat + 32 * (65536 : U32).toNat ≤ 2 ^ 64 ∧
    (0x8000 : U16) ≠ 0 ∧ (4096 : U32).toNat ≤ 4096 ∧ (0xFFFFFFFFFFF00000 : U64).toNat + 256 * (4096 : U32).toNat ≤ 2 ^ 64 := by decide +kernel

theorem witness_StagingAChunkJoinsTheStagedSet :
    ∃ (s : State) (len : U32) (off : U64), (0 : U64).toNat + len.toNat ≤ 2 ^ 64 ∧ 4096 ≤ len.toNat ∧ len.toNat ≤ 2 ^ 30 ∧ len.toNat % 4096 = 0 ∧ off.toNat % 4096 = 0 ∧
      off.toNat + len.toNat ≤ 2 ^ 34 ∧ s.stg.st = .checked ∧ s.stg.have_ = [] ∧ s.cfg.image = none ∧
      kindDiffers false off (s.readHost 0 len.toNat) = false ∧ kindDiffers true off (s.readHost 0 len.toNat) = false ∧ s.shareFits (spliceMem s.stg.bytes off.toNat (s.readHost 0 len.toNat)) = true ∧
      ∀ z, s.stg.sizeWith off (s.readHost 0 len.toNat) = some z → off.toNat + len.toNat ≤ z :=
  ⟨{ State.reset with stg := { st := .checked, size := some (2 ^ 34) } }, 4096, 0x3FFFFF000, by decide, by decide, by decide, by decide, by decide, by decide, rfl, rfl, rfl, by decide +kernel, by decide +kernel,
    by decide +kernel, fun z h => by
      have : z = 2 ^ 34 := by simpa [StagingSt.sizeWith] using h.symm
      subst this; decide⟩

/-- A header with one course, and a module with no staging line for it. -/
def tooBig : State :=
  { bare with stg := { st := .loading, have_ := [(0, 4096)], size := some (2 ^ 34), bytes :=
      [(0, 0x52), (1, 0x41), (2, 0x4E), (3, 0x49), (4, 0x4C), (5, 0x45), (6, 0x49), (7, 0x4D), (8, 1), (10, 1), (0x100, 2), (0x109, 0x10), (0x111, 0x10)] } }

theorem witness_StagingAChunkJoinsTheStagedSet_full :
    tooBig.stg.st = .loading ∧ tooBig.stg.reshard = false ∧ kindDiffers false 0x3FFFFF000 (tooBig.readHost 0 4096) = false ∧
      tooBig.shareFits (spliceMem tooBig.stg.bytes 0x3FFFFF000 (tooBig.readHost 0 4096)) = false := by decide +kernel

theorem witness_CheckArmAndAbandonMoveTheStagedSet :
    ∃ s : State, s.stg.st = .checked ∧ s.stg.st ≠ .empty ∧ s.stg.applying = false ∧ s.run.check = none ∧ s.cfg.epoch.toNat < (0xFFFFFFFF : U32).toNat ∧ s.vendorLapsed = false ∧
      ofBytes 64 (s.readHost 0 64) = s.stg.root ∧ s.run.st = .running ∧ s.run.step.toNat ≤ (3 : U64).toNat ∧ s.stg.disag = false :=
  ⟨{ inStep {} with stg := { st := .checked } }, by decide +kernel⟩

theorem witness_CheckArmAndAbandonMoveTheStagedSet_idle :
    ∃ s : State, s.stg.st = .checked ∧ s.stg.applying = false ∧ s.vendorLapsed = false ∧ ofBytes 64 (s.readHost 0 64) = s.stg.root ∧ s.run.st = .idle :=
  ⟨{ State.reset with stg := { st := .checked } }, by decide +kernel⟩

theorem witness_CheckArmAndAbandonMoveTheStagedSet_check :
    (∃ s : State, s.stg.st = .loading) ∧ ∃ s : State, s.stg.st = .checking ∧ s.run.check = some hdr :=
  ⟨⟨{ State.reset with stg := { st := .loading } }, rfl⟩, ⟨{ State.reset with stg := { st := .checking }, run := { check := some hdr } }, rfl, rfl⟩⟩

theorem witness_RunHoldFeedAndResetAct :
    let s := stopped (img {} {} {} {})
    (s.run.st = .stopped ∧ s.run.inStep = false ∧ s.run.crossed = false ∧ s.run.stopAsked = false ∧ s.stg.st ≠ .armed ∧ s.stg.applying = false ∧ s.flt.phase = .none ∧
      s.run.step.toNat ≤ (3 : U64).toNat ∧ s.cfg.topoWait = false ∧ s.commandsInHand = []) ∧
    (let t := inStep {}
     t.run.st = .running ∧ t.run.inStep = true ∧ t.flt.phase = .none ∧ t.num.hold = none ∧ t.num.held = false ∧ t.run.st ≠ .idle ∧
      t.nextStep ≤ (5 : U64).toNat ∧ (5 : U64).toNat < t.nextStep + t.stepCourse.s ∧ t.store.slots.get 0 (t.slotFor 5) = 0 ∧ t.slotSettled (t.slotFor 5) = true ∧
      t.slotPasses (t.slotFor 5) = true) ∧
    (let t := { inStep {} with run := { st := .held, step := 3 } }
     t.run.st = .held ∧ t.run.inStep = false) := by decide +kernel

theorem witness_RunHoldFeedAndResetAct_settled :
    (let s := bare.onFlt fun f => { f with snap := some (bare.takeSnap 0) }
     s.flt.needLoad = false ∧ s.flt.phase = .none ∧ s.flt.pendSnap = none ∧ s.snapStands = true) ∧
    (let s := (stopped { img rcShard {} {} {} with step := some { store := [(0, 0, 0)] } }).onLreg 0 fun x => { x with outDeltas := [{ tag := 1, bank := 8, line := 3, data := [], stamp := 0, omod := none, plregion := 0, pbank := 9, pline := 3, sent := true }] }
     s.flt.needLoad = false ∧ s.flt.phase = .none ∧ (match exec (.stepRun hdr 3) s with | .next t => t.flt.pendSnap.isSome | _ => false) = true) := by decide +kernel

theorem witness_ParametersAndCheckpointsAreReadAndWritten :
    let s := stopped (img rcShard {} {} pcShard)
    paramOk 0 5 0 2 = true ∧ (5 : Byte) ≠ 1 ∧ s.run.st = .stopped ∧ (∃ sh l, s.paramSpan 0 0 0 2 2 = some (sh, l)) ∧ (1 : Byte).toNat ≤ 1 ∧ ceilDiv s.checkpoint.length 2048 ≤ s.cline := by
  refine ⟨by decide, by decide, rfl, ⟨_, _, rfl⟩, by decide, by decide +kernel⟩

/-- A module without shards, stopped, and the same with its checkpoint in host memory at 0. -/
def withCheckpoint : State := bare.writeHost 0 bare.checkpoint

theorem length_ckBody : bare.ckBody.length = 4096 := by decide +kernel

theorem readHost_written (s : State) (b : List Byte) : (s.writeHost 0 b).readHost 0 b.length = b := readMem_writeMem s.host 0 b

theorem witness_ParametersAndCheckpointsAreReadAndWritten_import :
    withCheckpoint.ckOk (withCheckpoint.readHost 0 (min (8192 : U64).toNat (withCheckpoint.ckPlaces.2 + 64))) = true := by
  have hn : min (8192 : U64).toNat (withCheckpoint.ckPlaces.2 + 64) = bare.checkpoint.length := by
    have h : bare.checkpoint.length = 4160 := by decide +kernel
    rw [h]; decide +kernel
  have hp : withCheckpoint.ckPlaces = ([], 4096) := by decide +kernel
  have ht : bare.checkpoint.take 4096 = bare.ckBody := List.take_left' length_ckBody
  have hd : bare.checkpoint.drop 4096 = digestBytes (digest64 bare.ckBody) := List.drop_left' length_ckBody
  have hl : (digestBytes (digest64 bare.ckBody)).length = 64 := rfl
  have hr : withCheckpoint.readHost 0 bare.checkpoint.length = bare.checkpoint := readHost_written bare _
  rw [hn, hr]
  simp only [State.ckOk, hp, ht, hd, List.take_of_length_le (Nat.le_of_eq hl), decide_true, Bool.and_true, List.all_nil, List.length_nil, Bool.and_eq_true, decide_eq_true_eq]
  decide +kernel

theorem witness_ProtectionAndKeyCommandsTakeEffect :
    let s := inStepOf (img {} {} { outer := [⟨1, [7], 8, 0, 0, 0, 1⟩] } {})
    (List.replicate 8 ((1 : U16), (2 : U32))).length ≤ 8 ∧ State.reset.stg.st = .empty ∧
    (s.outerPartners.all fun m => [((7 : U16), (2 : U16))].all fun d => decide (d.1.toNat ≠ m) || decide (d.2 ≠ (1 : U16))) = true ∧ s.outerPartners.contains 7 = true ∧
    1 ≤ (4096 : U16).toNat ∧ (4096 : U16).toNat ≤ 4096 ∧ (1 : Byte).toNat ≤ 1 ∧ (0xFFFFFFFFFFFE0000 : U64).toNat + 32 * (4096 : U16).toNat ≤ 2 ^ 64 ∧
    (3 : Byte).toNat ≤ 3 ∧ (0xFFFFFFFFFFFFFE80 : U64).toNat % 64 = 0 ∧ (0xFFFFFFFFFFFFFE80 : U64).toNat + 384 ≤ 2 ^ 64 ∧ State.reset.run.st = .idle ∧ State.reset.set.lock.getLsbD 0 = false ∧
    (7 : U32).toNat < 8 := by decide +kernel

/-- Queue 512 holds an entry of a given opcode that is not yet fetched. -/
def withEntry (opc : Byte) : State := { State.reset with host := [(64, opc)], brg := { hq := [(512, { en := true, host := 1 })] } }

theorem witness_CommandsAreFetchedAndStartedInOrder :
    ([0x10, 0x01, 0xEE] : List Byte).all (fun b => decide ((withEntry b).brg.linkDown = false) && decide ((withEntry b).nextQueue = some 0) &&
      decide ((inHandOf 0 ((withEntry b).entryAt ((withEntry b).hq 512)) 0).opc = b.toNat)) = true ∧
    laneOpcodes.contains 0x10 = true ∧ laneOpcodes.contains 0x01 = false ∧ otherOpcodes.contains 0x01 = true ∧ laneOpcodes.contains 0xEE = false ∧ otherOpcodes.contains 0xEE = false ∧
    (let x : InHand := ⟨hdr, 0x61, true, []⟩
     let s := { State.reset with run := { laneQ := [x] } }
     s.run.laneQ = [x] ∧ s.laneBlocked = false ∧ x.rsv = true) ∧
    ([0x10, 0x11, 0x12, 0x13, 0x20, 0x30, 0x31, 0x32, 0x33, 0x34, 0x60, 0x61] : List Nat).all (fun o => !InHand.unusedSet ⟨hdr, o, false, List.replicate 56 0⟩) = true := by decide +kernel

/-- The entry's time runs from its fetch, at which its host request fails. -/
theorem witness_CommandsAreFetchedAndStartedInOrder_hostFails :
    ([0x01, 0x02, 0x03, 0x04, 0x50, 0x51] : List Byte).all (fun b =>
      let s := (withEntry b).onRun fun r => { r with hostFails := [{ sq := 0, cid := 0 }] }
      let x := inHandOf 0 (s.entryAt (s.hq 512)) s.time
      decide (s.brg.linkDown = false ∧ s.nextQueue = some 0 ∧ x.opc = b.toNat ∧ x.rsv = false ∧ x.unusedSet = false) && s.run.hostFails.contains x.h) = true ∧
    (withEntry 0x10).run.hostFails = [] ∧
    ([0x10, 0x12, 0x30, 0x31, 0x32, 0x33, 0x34, 0x60] : List Nat).all (fun o =>
      let x : InHand := ⟨hdr, o, false, List.replicate 56 0⟩
      let s := bare.onRun fun r => { r with laneQ := [x], hostFails := [hdr] }
      decide (s.run.laneQ = [x] ∧ s.run.armed = none ∧ s.checkWaits x = false ∧ x.rsv = false ∧ x.unusedSet = false) && x.asksHost && s.run.hostFails.contains x.h) = true ∧
    (let x : InHand := ⟨hdr, 0x11, false, []⟩
     let s := bare.onRun fun r => { r with laneQ := [x], holds := List.replicate 32 (hdr, 0) }
     s.run.laneQ = [x] ∧ x.opc = 0x11 ∧ 32 ≤ s.execCount ∧ (bare.onRun fun r => { r with holds := List.replicate 31 (hdr, 0) }).checkWaits x = false) := by decide +kernel

/-- Completion queue 513, enabled with interrupts, of a ring of 2^z entries with an event waiting. -/
def withCq (dev : U32) (unsig : Nat) : State := { State.reset with brg := { hq := [(513, { en := true, stg := BitVec.ofNat 128 (6 * 2 ^ 64 + 2 ^ 107), dev := dev, unsig := unsig, items := [.event 1] })] } }

theorem witness_CompletionsAreWrittenAndTimedOutCommandsEnd :
    (let s := withCq 63 1
     (s.hq 513).en = true ∧ isCq 513 = true ∧ s.brg.linkDown = false ∧ (s.hq 513).items = [.event 1] ∧ ((s.hq 513).dev - (s.hq 513).host).toNat ≠ 2 ^ (s.hq 513).z ∧
       (s.hq 513).ien = true ∧ 0 < (s.hq 513).unsig) ∧
    (let s := { State.reset with brg := { hq := [(513, { (withCq 63 1).hq 513 with items := [.dma 0 0 0 0 0 0 [⟨63, 0, 0, 1⟩] true] })] } }
     (s.hq 513).en = true ∧ s.brg.linkDown = false ∧ (s.hq 513).items = [.dma 0 0 0 0 0 0 [⟨63, 0, 0, 1⟩] true] ∧ ((s.hq 513).dev - (s.hq 513).host).toNat ≠ 2 ^ (s.hq 513).z) ∧
    (((withCq 64 0).hq 513).dev - ((withCq 64 0).hq 513).host).toNat = 2 ^ ((withCq 64 0).hq 513).z ∧
    (({ State.reset with run := { laneQ := [⟨hdr, 0x11, false, []⟩] } }).run.laneQ.any fun x => decide (x.h = hdr)) = true ∧
    (let s := { State.reset with run := { check := some hdr } }
     (s.run.laneQ.any fun x => decide (x.h = hdr)) = false ∧ s.run.check = some hdr) ∧
    (let s := { State.reset with run := { holds := [(hdr, 1)] } }
     s.run.check ≠ some hdr ∧ (s.run.holds.any fun x => decide (x.1 = hdr)) = true) ∧
    (let s := { State.reset with run := { feeds := [(hdr, 4)] } }
     s.run.check ≠ some hdr ∧ (s.run.holds.any fun x => decide (x.1 = hdr)) = false ∧ (s.run.feeds.any fun x => decide (x.1 = hdr)) = true) := by decide +kernel

/-- A command in hand since the start, its parameters as the entry's bytes 0x08 up; and a module whose time has passed every command's. -/
def old (opc : Nat) (prm : List Byte) : InHand := ⟨hdr, opc, false, prm⟩
def late (i : Image) (q : List InHand) : State := { stopped i with time := BitVec.ofNat 64 (2 ^ 40), run := { st := .stopped, step := 3, laneQ := q } }

theorem witness_CompletionsAreWrittenAndTimedOutCommandsEnd_lane :
    ([old 0x11 [], old 0x30 (List.replicate 56 0)] : List InHand).all (fun x =>
      let s := late (img rcShard {} {} pcShard) [x]
      decide (s.run.laneQ.find? (fun x => decide (x.h = hdr)) = some x) && s.timeUp hdr x.opc && !x.judgedOk s) = true ∧
    (let y : InHand := { old 0x11 [] with h := { hdr with cid := 2 } }
     let s := late (img rcShard {} {} pcShard) [y, old 0x30 []]
     s.run.laneQ.find? (fun x => decide (x.h = hdr)) = some (old 0x30 []) ∧ s.run.laneQ.head? ≠ some (old 0x30 [])) ∧
    ([old 0x30 (List.replicate 16 0 ++ [1] ++ List.replicate 39 0), old 0x31 (List.replicate 16 0 ++ [2] ++ List.replicate 39 0)] : List InHand).all (fun x =>
      let s := late (img rcShard {} {} pcShard) [x]
      let u := s.onRun fun r => { r with laneQ := eraseHdr InHand.h hdr r.laneQ }
      decide (s.run.laneQ.head? = some x ∧ s.run.armed = none) && s.timeUp hdr x.opc && x.judgedOk u && (u.paramSpan (x.b 0x10) (x.b 0x11) (x.w 0x12) (x.d 0x14) (x.d 0x18)).isSome) = true ∧
    (let x := old 0x32 (List.replicate 18 0 ++ [1] ++ List.replicate 37 0)
     let s := late (img {} {} {} {}) [x]
     s.run.laneQ.head? = some x ∧ s.run.armed = none ∧ s.timeUp hdr x.opc = true ∧ x.judgedOk (s.onRun fun r => { r with laneQ := eraseHdr InHand.h hdr r.laneQ }) = true) := by decide +kernel

theorem witness_CompletionsAreWrittenAndTimedOutCommandsEnd_others :
    ([fun r => { r with check := some hdr }, fun r => { r with holds := [(hdr, 1)] }, fun r => { r with feeds := [(hdr, 4)] }, fun r => { r with resetCmd := some hdr }] : List (RunSt → RunSt)).all (fun f =>
      let s := (late (img {} {} {} {}) []).onRun f
      decide (s.run.laneQ.find? (fun x => decide (x.h = hdr)) = none) && [0x11, 0x21, 0x22, 0x23].all (s.timeUp hdr)) = true ∧
    (let s := (late (img {} {} {} {}) []).onRun fun r => { r with resetCmd := some hdr }
     s.run.check ≠ some hdr ∧ (s.run.holds.any fun x => decide (x.1 = hdr)) = false ∧ (s.run.feeds.any fun x => decide (x.1 = hdr)) = false ∧ s.run.resetCmd = some hdr) := by decide +kernel

theorem witness_CompletionsAreWrittenAndTimedOutCommandsEnd_early : ∀ opc, bare.timeUp { hdr with tmo := 1 } opc = false := fun opc => rfl

/-- A module whose queue-staging words describe a completion queue of 64 entries. -/
def withStaging : State := { State.reset with set := { active := [(0x5008, some 70)] } }

theorem witness_HostQueuesAndDoorbellsFollowTheirChecks :
    withStaging.createCode 513 = 0 ∧ State.reset.createCode 513 ≠ 0 ∧ (State.reset.hq 600).en = false ∧
    (let s := { State.reset with brg := { hq := [(512, { en := true, stg := BitVec.ofNat 128 (4 * 2 ^ 64) }), (513, { en := true, stg := BitVec.ofNat 128 (6 * 2 ^ 64 + 2 ^ 70), dev := 5 })] } }
     (s.hq 513).en = true ∧ isCq 513 = true ∧ (s.hq (pairOf 513)).en = true ∧ (s.hq 512).en = true ∧ 256 ≤ 512 ∧ isCq 512 = false ∧
     (s.hq 512).poll = false ∧ (s.hq 512).prodOk 16 = true ∧ (s.hq 512).prodOk 17 = false ∧ (s.hq 513).consOk 5 = true) ∧
    (let s := { State.reset with host := [(0, 3)], brg := { hq := [(512, { en := true, stg := BitVec.ofNat 128 (4 * 2 ^ 64 + 2 ^ 71) })] } }
     (s.hq 512).poll = true ∧ s.brg.linkDown = false ∧ (s.hq 512).prodOk (BitVec.ofNat 32 (leNat (s.readHost (s.hq 512).base 4))) = true) ∧
    ({ State.reset with dma := [(bridgeBase + 255, { stop := true })] }.chan (bridgeBase + 255)).stop = true ∧
    ({ State.reset with brg := { hq := [(255, { en := true })] } }.hq 255).en = true := by decide +kernel

theorem witness_HostQueuesAndDoorbellsFollowTheirChecks_more :
    State.reset.hostReaches = true ∧ withStaging.hostReaches = true ∧
    (let s := { State.reset with host := [(0, 17)], brg := { hq := [(512, { en := true, stg := BitVec.ofNat 128 (4 * 2 ^ 64 + 2 ^ 71) })] } }
     (s.hq 512).en = true ∧ isCq 512 = false ∧ (s.hq 512).poll = true ∧ s.brg.linkDown = false ∧ (s.hq 512).prodOk (BitVec.ofNat 32 (leNat (s.readHost (s.hq 512).base 4))) = false) ∧
    ([false, true] : List Bool).all (fun b =>
      let s := { State.reset with dma := [(bridgeBase + 255, { stop := true, queue := [{ raw := 0, lost := b }] })] }
      (s.chan (bridgeBase + 255)).stop && ((s.chan (bridgeBase + 255)).queue.any Desc.lost == b)) = true ∧
    (State.reset.chan (bridgeBase + 0)).stop = false ∧ (State.reset.hq 0).en = false := by decide +kernel

theorem witness_ActionRegistersActAtOnce :
    (let s := { State.reset with num := { prod := 4096 } }
     (0 : U32).toNat < 2 ^ 13 ∧ (s.num.prod - (0 : U32).setWidth 13).toNat ≤ 4096 ∧ (8191 : U32).toNat < 2 ^ 13 ∧ 4096 < (s.num.prod - (8191 : U32).setWidth 13).toNat) ∧
    State.reset.set.lock.getLsbD 2 = false ∧ { State.reset with set := { lock := 6 } }.set.lock.getLsbD 2 = true ∧ (7 : U32).toNat < 8 ∧ 8 ≤ (8 : U32).toNat ∧
    State.reset.set.lock.getLsbD 1 = false ∧ (3 : U32).toNat < 4 ∧ { State.reset with set := { lock := 6 } }.set.lock.getLsbD 1 = true ∧
    (let s := inStepOf (img {} { diag := 2 } {} {})
     s.notServed (rgnBase 1 + 0x20C8) = false ∧ s.modeCourse.diag = 2) ∧
    (let s := inStep {}
     s.notServed (rgnBase 1 + 0x20C8) = false ∧ s.modeCourse.diag ≠ 2 ∧ s.modeCourse.clock = axisUniform ∧ (24 : U32).toNat ≤ 24 ∧
       (∀ d ∈ modDesc 0x9008, s.reservedDiffers d 0x9008 24 = false) ∧ s.servesPhys 1 = true ∧ s.servesPhys 47 = false) ∧
    (let s := inStepOf (img {} { clock := 2, flow := [3, 5] } {} {})
     s.modeCourse.clock = axisCaps ∧ s.flowOf 1 ≤ (5 : U32).toNat ∧ s.notServed (rgnBase 1 + 0x20C0) = false ∧ ∀ d ∈ rgnDesc 0x20C0, s.reservedDiffers d (rgnBase 1 + 0x20C0) 5 = false) := by decide +kernel

theorem witness_ActionRegistersActAtOnce_clocks :
    ([axisUniform, axisCaps] : List Nat).all (fun c =>
      let s := inStepOf (img {} { clock := c, flow := [3, 5] } {} {})
      s.hostReaches && (match modDesc 0x9008 with | some d => !s.reservedDiffers d 0x9008 0x181818 && d.inRange 0x181818 && !s.reservedDiffers d 0x9008 0 && d.inRange 0 | none => false) &&
      (match rgnDesc 0x20C0 with | some d => !s.reservedDiffers d (rgnBase 1 + 0x20C0) 24 && d.inRange 24 && decide (s.flowOf 1 ≤ fld (24 : U32).toNat 0 5) | none => false)) = true ∧
    (inStepOf (img {} { clock := axisCaps, flow := [3, 5] } {} {})).flowOf 1 ≤ fld (5 : U32).toNat 0 5 := by decide +kernel

theorem witness_GuardedActionsTakeAComplementPair :
    (0xFFFF : U32).toNat / 2 ^ guardBits .fence = 0 ∧ guardInRange .fence 0 = true ∧ guardInRange .fence 0xFFFF = false ∧
    (let s := { State.reset with grd := { pending := some (.fence, 0) } }
     s.grd.pending = some (.fence, 0) ∧ (0xFFFFFFFF : U32) = ~~~0 ∧ s.guardRefused = true) ∧
    (let s := { inStep {} with grd := { pending := some (.fence, 47) } }
     s.guardRefused = false ∧ s.guardFault .fence 47 = none) ∧
    (let s := { inStep {} with grd := { pending := some (.fence, 1) } }
     s.guardRefused = false ∧ ∃ f, s.guardFault .fence 1 = some f ∧ s.beyondBudget f = false) ∧
    (let s := { inStepOf (img {} { spare := true } {} {}) with grd := { pending := some (.rpwr, 1) } }
     s.guardRefused = false ∧ ∃ f, s.guardFault .rpwr 1 = some f ∧ s.beyondBudget f = true) ∧
    ((.rpwr : Guard) ≠ .fence) ∧ State.reset.grd.pending = none ∧ State.reset.hostReaches = true ∧ (inStep {}).hostReaches = true := by
  refine ⟨by decide +kernel, by decide +kernel, by decide +kernel, by decide +kernel, by decide +kernel, ⟨by decide +kernel, _, rfl, by decide +kernel⟩, ⟨by decide +kernel, _, rfl, by decide +kernel⟩, by decide, rfl, rfl, rfl⟩

theorem witness_WindowRegistersAreWrittenAndRead :
    (let s := inStep {}
     ∀ x ∈ ([(0x9024, .immediate, 0x3FF), (0x4000, .micro, 0x3F), (0x8000, .step, 1049600 + 104857605), (0x9004, .epoch, 1000)] : List (BitVec 26 × Swap × U32)),
       ∃ d ∈ regDesc x.1.toNat, x.1.toNat % 4 = 0 ∧ activeOf x.1.toNat = none ∧ s.writeSpecial x.1.toNat x.2.2 false = none ∧ s.notServed x.1.toNat = false ∧
         s.reservedDiffers d x.1.toNat x.2.2 = false ∧ d.inRange x.2.2 = true ∧ d.swap = x.2.1) ∧
    State.reset.stg.accepts = true ∧ { State.reset with stg := { st := .armed } }.stg.accepts = false ∧ (State.reset.set.staged.find? fun p => p.addr = 0x9004) = none ∧
    activeOf 0x4800 = some 0x4000 ∧
    (activeOf 0x3FFFFFC = none ∧ State.reset.writeSpecial 0x3FFFFFC 0 false = none ∧ regDesc 0x3FFFFFC = none ∧ State.reset.readOwn 0x3FFFFFC = none) ∧
    accessOk 0x4002 4 = false ∧ accessOk 0x4004 8 = false ∧ accessOk 0x4000 2 = false := by decide +kernel

theorem witness_WindowBusAndParityCommandsAct :
    (let s := inStep rcShard
     s.windowOpen = true ∧ s.holdsCopies 63 = false ∧ s.windowAt (63 * 2048) = some (0, 0, 63) ∧ s.resClosed 0 0 63 = false ∧ s.holdsCopies (2 * segSize + 64 * 2048) = true ∧
       s.windowAt (64 * 2048) = none ∧ ¬ (s.cfg.image.isSome = true ∧ s.modeCourse.hwin = true) ∧ 63 % 64 + [(7 : Byte)].length ≤ 64 ∧ (s.reg 1).powered = true) ∧
    (let s := inStepOf (img rcShard { hwin := true } {} {})
     s.windowOpen = false ∧ s.cfg.image.isSome = true ∧ s.modeCourse.hwin = true) ∧
    mbusIndexOk 0x1C = true ∧ (1023 : U32).toNat < 1024 ∧ State.reset.reservedDiffers ⟨[⟨0, 10, 0, 1023⟩], .immediate, 1023⟩ 0x9024 1023 = false ∧ (0x18 : Byte) ≠ 0x1C ∧ mbusIndexOk 0x20 = false ∧
    mbusIndexOk 0x1D = false ∧ (regDesc 0x8000).isSome = true ∧ rgnOf 0x8000 = none ∧ { State.reset with set := { staged := [⟨0x8000, 0, false⟩] } }.isStaged 0x8000 = true := by decide +kernel

/-- A module of a reservoir slot that is closed, the host's writes gathered for lines. -/
theorem witness_WindowBusAndParityCommandsAct_gathered :
    (let s := inStep rcShard
     let t := s.onStore fun q => { q with slots := [(0, 2)] }
     s.hostReaches = true ∧ t.hostReaches = true ∧ t.windowOpen = true ∧ t.holdsCopies 63 = false ∧ t.windowAt 63 = some (0, 0, 0) ∧ t.resClosed 0 0 0 = true ∧
       (s.brg.gather.get [] (lineKey 0 0 63) = [])) ∧
    (let s := (inStep rcShard).onBrg fun b => { b with gather := [(lineKey 0 1023 16383, [(2040, List.replicate 8 1)])] }
     s.brg.gather.get [] (lineKey 0 1023 16383) = [(2040, List.replicate 8 1)]) ∧
    (let s := State.reset.onPwr fun p => { p with standby := 50000 }
     50000 ≤ s.pwr.standby ∧ s.pwr.rstLow = false) ∧
    (State.reset.onPwr fun p => { p with standby := 49999 }).pwr.standby < 50000 ∧ (State.reset.onPwr fun p => { p with rstLow := true }).pwr.rstLow = true ∧
    ([0x1000, 0x400C, 0xC100, 0x9024] : List Nat).all (fun a => decide (rgnOf a = none) && (State.reset.readOwn a).isSome) = true := by decide +kernel

/-- A core of region 0 with one tile operation. -/
def withTile (o : TileOp) : State := inStep { cores := [{ core := 0, slots := List.range 8, tiles := [o] }] }

theorem witness_TheMatrixEngineIssuesAndDrains :
    (let o : TileOp := { out := { base := 4 } }
     let s := withTile o
     s.coreRuns 0 0 = true ∧ pickUnit (s.unsplit 0) (s.readyTiles 0 0) = some 0 ∧ (s.coreCourse 0 0).tiles[0]? = some o ∧ tileLegal o (s.coreCourse 0 0).tiles 0 0 = true) ∧
    (let o : TileOp := { out := { base := 4 }, drain := false, tr := { emits := [⟨0, 0, 0, 1⟩] } }
     let s := { inStep { cores := [{ core := 0, slots := List.range 8, tiles := [o, { init := 2, out := { base := 4 } }] }] } with bat := { illegals := List.replicate 8 ⟨0, 0, 0⟩ } }
     s.coreRuns 0 0 = true ∧ pickUnit (s.unsplit 0) (s.readyTiles 0 0) = some 0 ∧ tileLegal o (s.coreCourse 0 0).tiles 0 0 = true ∧ o.drain = false ∧ 8 ≤ s.queuedRecs 0 0) ∧
    (let o : TileOp := { init := 3 }
     let s := withTile o
     s.coreRuns 0 0 = true ∧ pickUnit (s.unsplit 0) (s.readyTiles 0 0) = some 0 ∧ tileLegal o (s.coreCourse 0 0).tiles 0 0 = false) ∧
    (let s := (withTile {}).onCore 0 0 fun x => { x with accs := [{ op := 0, firing := 0, vals := [0x3F800000], draining := true }] }
     ((s.core 0 0).accs.find? (·.draining)).isSome = true ∧ ((s.coreCourse 0 0).tiles[0]?).isSome = true) := by decide +kernel

/-- A core of region 0 with one vector chain. -/
def withChain (o : Chain) : State := inStep { cores := [{ core := 0, chains := [o] }] }

theorem witness_TheVectorEngineIssuesAndCompletes :
    (let o : Chain := { nst := 1, nin := 1, nout := 1, stages := [{ op := 0, a := 0, b := 0 }], ins := [{ base := 0 }], outs := [{ base := 8 }] }
     let s := withChain o
     s.coreRuns 0 0 = true ∧ (s.core 0 0).vec = none ∧ pickUnit (s.unsplit 0) (s.readyChains 0 0) = some 0 ∧ (s.coreCourse 0 0).chains[0]? = some o ∧ chainLegal o 0 = true) ∧
    (let o : Chain := { stages := [{ op := 12 }] }
     let s := withChain o
     s.coreRuns 0 0 = true ∧ (s.core 0 0).vec = none ∧ pickUnit (s.unsplit 0) (s.readyChains 0 0) = some 0 ∧ chainLegal o 0 = false) ∧
    (let s := (withChain {}).onCore 0 0 fun x => { x with vec := some { chain := 0, writes := [(64, [1, 2])] } }
     ((s.core 0 0).vec).isSome = true ∧ ((s.coreCourse 0 0).chains[0]?).isSome = true) := by decide +kernel

/-- A core of region 0 whose context 5 runs one instruction. -/
def withInstr (i : CtxInstr) : State := inStep { cores := [{ core := 0, progs := [(5, [i])] }] }

/-- The address of an offset of a core of region 1. -/
def remote (core off : Nat) : U64 := BitVec.ofNat 64 (0xFFFF * 2 ^ 48 + 1 * 2 ^ 42 + core * 2 ^ 31 + off)

theorem witness_RemoteOperationsIssueFromTheirContext :
    ([0, 1, 2, 3, 4, 5] : List Nat).all (fun op =>
      let q : Rmo := { op := op, len := 1, gaddr := remote 895 1310712, ltok := 0, ttok := 0 }
      let s := withInstr { op := .rmo q }
      let x := mkIssue (s.ctx 0 0 5) 5 q
      s.coreRuns 0 0 && decide (s.pickCtx 0 0 = some 5) && decide (s.nextInstr 0 0 5 = some { op := .rmo q }) && x.legal && s.isOwn (gMod x.gaddr) && s.inService (gRegion x.gaddr)) = true ∧
    (let q : Rmo := { op := 0, len := 1, gaddr := BitVec.ofNat 64 (0xFFFF * 2 ^ 48 + 47 * 2 ^ 42) }
     let s := withInstr { op := .rmo q }
     let x := mkIssue (s.ctx 0 0 5) 5 q
     s.pickCtx 0 0 = some 5 ∧ x.legal = true ∧ s.isOwn (gMod x.gaddr) = true ∧ s.inService (gRegion x.gaddr) = false) ∧
    (let q : Rmo := { op := 0, len := 1, gaddr := BitVec.ofNat 64 (7 * 2 ^ 48) }
     let s := withInstr { op := .rmo q }
     let x := mkIssue (s.ctx 0 0 5) 5 q
     x.legal = true ∧ s.isOwn (gMod x.gaddr) = false ∧ s.unserved (s.packetLayout ((s.packetsOf 0 0 x (s.net.nextTag * 4096 + x.pos)).headD {})) (gMod x.gaddr) = true) ∧
    ([0, 1, 2, 3, 4, 5, 6] : List Nat).all (fun op =>
      let q : Rmo := { op := op, len := 1, gaddr := remote 896 0 }
      let s := withInstr { op := .rmo q }
      s.coreRuns 0 0 && decide (s.pickCtx 0 0 = some 5) && !(mkIssue (s.ctx 0 0 5) 5 q).legal) = true := by decide +kernel

theorem witness_RemoteOperationsIssueFromTheirContext_illegal :
    ([0, 7, 8] : List Nat).all (fun n =>
      let q : Rmo := { op := 0, len := 1, gaddr := remote 896 0 }
      let s := (withInstr { op := .rmo q }).onBat fun b => { b with illegals := List.replicate n ⟨0, 0, 0⟩ }
      s.coreRuns 0 0 && decide (s.pickCtx 0 0 = some 5 ∧ s.nextInstr 0 0 5 = some { op := .rmo q } ∧ s.queuedRecs 0 0 = n) && !(mkIssue (s.ctx 0 0 5) 5 q).legal) = true := by decide +kernel

theorem witness_ContextInstructionsIssueInProgramOrder :
    ([.wait, .emit, .launch 0, .loop 3 1, .stop] : List CtxOp).all (fun op =>
      let s := withInstr { op := op }
      s.coreRuns 0 0 && decide (s.pickCtx 0 0 = some 5) && decide (s.nextInstr 0 0 5 = some { op := op }) && decide ((s.ctx 0 0 5).loops.length < 4)) = true ∧
    (let s := (withInstr { op := .loop 3 1 }).onCore 0 0 fun x => { x with ctxs := [(5, { loops := List.replicate 4 ⟨0, 1, 1⟩ })] }
     s.coreRuns 0 0 = true ∧ s.pickCtx 0 0 = some 5 ∧ s.nextInstr 0 0 5 = some { op := .loop 3 1 } ∧ 4 ≤ (s.ctx 0 0 5).loops.length) := by decide +kernel

theorem witness_ContextInstructionsIssueInProgramOrder_illegal :
    ([0, 7, 8] : List Nat).all (fun n =>
      let s := ((withInstr { op := .loop 3 1 }).onBat fun b => { b with illegals := List.replicate n ⟨0, 0, 0⟩ }).onCore 0 0 fun x => { x with ctxs := [(5, { loops := List.replicate 4 ⟨0, 1, 1⟩ })] }
      s.coreRuns 0 0 && decide (s.pickCtx 0 0 = some 5 ∧ s.nextInstr 0 0 5 = some { op := .loop 3 1 } ∧ s.queuedRecs 0 0 = n ∧ (s.ctx 0 0 5).loops.length = 4)) = true := by decide +kernel

/-- Core 0 of region 0 has a packet in its normal inbound queue. -/
def withPacket (p : Packet) : State := (inStep {}).onCore 0 0 fun x => { x with inNo := [p] }

/-- Region 0's store interface has a packet in its normal inbound queue. -/
def withStorePacket (rc : RegionCourse) (p : Packet) : State := (inStep rc).onLreg 0 fun x => { x with inNo := [p] }

/-- The address of an offset of a store bank of region 0. -/
def storeAddr (bank off : Nat) : U64 := BitVec.ofNat 64 (0xFFFF * 2 ^ 48 + 2 ^ 41 + bank * 2 ^ 31 + off)

theorem witness_RemoteOperationsApplyAtTheirTarget :
    ([0, 1, 2, 3, 4, 5] : List Nat).all (fun k =>
      let p : Packet := { kind := k, base := 1310712, glen := 1, gaddr := BitVec.ofNat 64 1310712, payload := if k = 1 then [] else List.replicate (if k = 5 then 16 else 8) 1, ttok := 259 }
      decide (((withPacket p).takeCore 0 0 isOp).map (·.1) = some p) && coreRangeOk p && decide (tokOf p.ttok = some 3)) = true ∧
    (let p : Packet := { kind := 0, base := 1310712, glen := 2, gaddr := BitVec.ofNat 64 1310712, payload := List.replicate 16 1 }
     ((withPacket p).takeCore 0 0 isOp).map (·.1) = some p ∧ coreRangeOk p = false ∧ gOffset p.gaddr = p.base) ∧
    (let p : Packet := { kind := 0, pidx := 1, base := 1310208, glen := 80, gaddr := BitVec.ofNat 64 1310712, payload := List.replicate 8 1 }
     ((withPacket p).takeCore 0 0 isOp).map (·.1) = some p ∧ coreRangeOk p = false ∧ gOffset p.gaddr ≠ p.base) ∧
    ([0, 1] : List Nat).all (fun k =>
      let p : Packet := { kind := k, base := 0, glen := 1, gaddr := storeAddr 0 0, payload := if k = 1 then [] else List.replicate 8 1 }
      let s := withStorePacket rcShard p
      decide ((s.takeOrdered 0 (s.storeOp 0)).map (·.1) = some p) && (match s.takeOrdered 0 (s.storeOp 0) with | some x => decide (x.2.storeClass 0 false p = .ok) | none => false)) = true ∧
    (let p : Packet := { kind := 0, base := 0, glen := 1, gaddr := storeAddr 500 0, payload := List.replicate 8 1 }
     let s := withStorePacket rcShard p
     (match s.takeOrdered 0 (s.storeOp 0) with | some x => decide (x.1 = p ∧ x.2.storeClass 0 false p = .reject) | none => false) = true ∧ gOffset p.gaddr = p.base) := by decide +kernel

theorem witness_RemoteOperationsApplyAtTheirTarget_port :
    ([(0, true), (15, true), (16, false)] : List (Nat × Bool)).all (fun x =>
      let p : Packet := { kind := 1, base := 0, glen := 64, gaddr := storeAddr 0 0 }
      let s := (inStep rcShard).onCore 0 0 fun y => { y with port := [p], ported := List.replicate x.1 { payload := List.replicate 512 0 } }
      decide ((s.core 0 0).port = [p] ∧ s.lineWaits 0 p = false ∧ s.storeClass 0 true p = .ok) && (decide (s.portHeld 0 0 + min 512 (8 * p.glen) ≤ 8192) == x.2)) = true := by decide +kernel

/-- An operation of context 5 of core 0, outstanding with packets of a given kind on their way. -/
def withOutst (kind left : Nat) (p : Packet) : State :=
  (withPacket p).onCore 0 0 fun x => { x with ctxs := [(5, { outst := [⟨9, kind, left, 256, 64, remote 0 0⟩] })] }

theorem witness_RemoteOperationsCompleteAtTheirIssuer :
    ([(8, 1, 1), (8, 1, 2), (9, 0, 1), (10, 5, 1)] : List (Nat × Nat × Nat)).all (fun x =>
      let p : Packet := { kind := x.1, tag := 9, payload := List.replicate 8 7 }
      let s := withOutst x.2.1 x.2.2 p
      match s.takeCore 0 0 (fun p => p.kind = x.1) with
      | some y => decide (y.1 = p ∧ y.2.findOutst 0 0 p.tag x.2.1 = some (5, ⟨9, x.2.1, x.2.2, 256, 64, remote 0 0⟩))
      | none => false) = true ∧ tokOf 256 = some 0 ∧ tokOf 0 = none := by decide +kernel

theorem witness_TheBattenNetworkDeliversEmitsAndConfiguration :
    (let s := { inStep {} with bat := { emits := [⟨63, 0, 255, 1⟩, ⟨0, 895, 255, 65535⟩, ⟨0, 0x0401, 255, 1⟩, ⟨0, 0x57F, 0, 1⟩], cfgs := [⟨0, 0, 0, 1⟩] } }
     s.bat.emits[0]? = some ⟨63, 0, 255, 1⟩ ∧ s.run.feeds = [] ∧ s.bat.emits[1]? = some ⟨0, 895, 255, 65535⟩ ∧ (0 ≠ 63) ∧ 895 < 896 ∧ s.bat.emits[2]? = some ⟨0, 0x0401, 255, 1⟩ ∧ 255 < 256 ∧ s.bat.emits[3]? = some ⟨0, 0x57F, 0, 1⟩ ∧ 0x500 ≤ 0x57F ∧ 0x57F < 0x580 ∧ s.prs.waitFp = [] ∧
       (s.reg 1).powered = true ∧ 0 < s.bat.cfgs.length) := by decide +kernel

/-- Core 0 of region 0 runs a sequence of one beat-table entry that is due; a group has arrived on port 0. -/
def withBeat (b : BeatEntry) : State :=
  let s := (inStep { cores := [{ core := 0, beats := [b], seqs := [⟨0, 1, 0⟩] }] }).onCore 0 0 fun x => { x with seqs := [{ seq := 0, start := 5 }], wires := [(wireKey 0 5, List.replicate 64 1)] }
  s.onReg 0 fun g => { g with beat := 5 }

theorem witness_TheScheduledPlaneRunsItsEntries :
    (let s := { withBeat {} with bat := { launches := [⟨0, 0, 0, 6⟩] } }
     (s.bat.launches.find? fun l => l.lregion = 0 && l.core = 0) = some ⟨0, 0, 0, 6⟩ ∧ s.phys 0 = some 0 ∧ 0 < beatDist (s.reg 0).beat 6 ∧ beatDist (s.reg 0).beat 5 ≤ 0) ∧
    ([{ kind := 0, pout := 1, soff := 20479, etok := 256 }, { kind := 1 }, { kind := 2, pout := 1 }, { kind := 3, pout := 2 }] : List BeatEntry).all (fun b =>
      let s := withBeat b
      s.coreRuns 0 0 && decide (earliestBeat (s.reg ((s.phys 0).getD 63)).beat (s.nextBeats 0 0) = some (5, 0, 0)) && decide (beatDist (s.reg ((s.phys 0).getD 63)).beat 5 ≤ 0) &&
      decide ((s.coreCourse 0 0).beats.getD 0 {} = b ∧ b.soff ≤ 20479 ∧ b.kind ≤ 3 ∧ b.pin ≤ 3 ∧ b.pout ≤ 3 ∧ (s.core 0 0).wires.get [] (wireKey b.pin 5) ≠ [])) = true ∧
    (let s := withBeat { soff := 20480 }
     s.coreRuns 0 0 = true ∧ earliestBeat (s.reg 0).beat (s.nextBeats 0 0) = some (5, 0, 0) ∧ ¬ ((s.coreCourse 0 0).beats.getD 0 {}).soff ≤ 20479) := by decide +kernel

theorem witness_TheScheduledPlaneRunsItsEntries_full :
    ([(0, 6), (1, 6), (0, 5)] : List (Nat × Nat)).all (fun x =>
      let s := { withBeat {} with bat := { launches := [⟨0, 0, x.1, x.2⟩] } }
      decide ((s.bat.launches.find? fun l => l.lregion = 0 && l.core = 0) = some ⟨0, 0, x.1, x.2⟩ ∧ ((s.coreCourse 0 0).seqs.getD x.1 {}).count = 1 - x.1)) = true ∧
    ([0, 7, 8] : List Nat).all (fun n =>
      let f (b : BattenSt) : BattenSt := { b with launches := [⟨0, 0, 0, 5⟩], illegals := List.replicate n ⟨0, 0, 0⟩ }
      let s := (withBeat {}).onBat f
      let t := (withBeat { soff := 20480 }).onBat f
      decide ((s.bat.launches.find? fun l => l.lregion = 0 && l.core = 0) = some ⟨0, 0, 0, 5⟩ ∧ s.phys 0 = some 0 ∧ beatDist (s.reg 0).beat 5 ≤ 0 ∧ s.queuedRecs 0 0 = n) &&
      t.coreRuns 0 0 && decide (earliestBeat (t.reg ((t.phys 0).getD 63)).beat (t.nextBeats 0 0) = some (5, 0, 0) ∧ t.queuedRecs 0 0 = n)) = true := by decide +kernel

theorem witness_NumericRecordsAndHoldsFollowTheirRules :
    (let s := { inStep {} with bat := { nums := [({} : NumRec)], mbs := [⟨0, 0, false, 0, 0⟩, ⟨0, 0, true, 1, 0⟩] } }
     s.bat.nums[0]? = some ({} : NumRec) ∧ s.num.fill ≠ 4096 ∧ (s.bat.mbs[0]?.map (·.ended)) = some false ∧ (s.bat.mbs[1]?.map (·.ended)) = some true) ∧
    ({} : NumRec).store = false ∧ ({} : NumRec).lcore ≠ 0x3FF ∧ ({ lcore := 0x3FF : NumRec }).lcore = 0x3FF ∧ { inStep {} with num := { prod := 4096 } }.num.fill = 4096 ∧
    (let s := { inStep {} with num := { hold := some 0 } }
     s.num.hold = some 0 ∧ s.inService 1 = true ∧ s.num.held = false) ∧
    (let s := { inStep {} with num := { hold := some 0, holdNumeric := true, done := [(0, 1), (1, 1)] }, lregions := [(0, { holdTok := some 0 }), (1, { holdTok := some 0 })] }
     s.num.hold = some 0 ∧ s.holdComplete 0 = true ∧ s.num.held = false ∧ s.run.st = .running ∧ s.num.holdNumeric = true) ∧
    (let s := { inStepOf { img {} {} {} {} with step := some { mb := 2 } } with num := { hold := some 0, done := [(0, 1), (1, 1)] }, lregions := [(0, { holdTok := some 0 }), (1, { holdTok := some 0 })] }
     s.holdComplete 0 = true ∧ s.num.holdNumeric = false ∧ 0 ≠ s.lastMb) := by decide +kernel

theorem witness_StepsEndAndCommitAtTheirBoundary :
    (let s := (inStep {}).onLreg 0 fun l => { l with mbEnded := 1 }
     s.regionRuns 0 = true ∧ (s.lreg 0).endSent = false ∧ s.stepDone 0 = true) ∧
    ((inStep {}).onRun fun r => { r with ended := [0, 1] }).mayCommit = true ∧
    (let s := (inStep {}).onRun fun r => { r with tokens := [0, 1] }
     s.run.tokens.contains 1 = true ∧ s.phys 1 = some 1 ∧ (s.lreg 1).active = true ∧ ((s.onLreg 1 fun l => { l with active := false }).lreg 1).active = false ∧ (s.lreg 1).counted = false) := by decide +kernel

/-- Core 0 of region 0 has a put for core c of region 0 to send. -/
def withSend (c : Nat) : State :=
  (inStep {}).onCore 0 0 fun x => { x with outq := [{ gaddr := BitVec.ofNat 64 (c * 2 ^ 31), payload := List.replicate 8 1 }] }

theorem witness_TheBoundedPlaneForwardsPackets :
    (let s := withSend 1
     s.routerRuns 0 = true ∧ ((s.inject 0).choose 0 4).isSome = true ∧ (s.inject 0).choose 0 6 = none) ∧
    (let s := { withSend 1 with net := { (withSend 1).net with routers := [(0, { retries := [(4, 2)] })] } }
     s.routerRuns 0 = true ∧ ((s.inject 0).choose 0 4).isSome = true ∧ ((s.inject 0).router 0).retries.get 0 4 = 2) ∧
    (match ((withSend 8).inject 0).choose 0 1 with
     | some (k, p) => decide (meshNext 0 1 = some 1 ∧ ((((withSend 8).inject 0).noteSent 0 1 k p).destOf p).isSome = true ∧ isReduce p = false)
     | none => false) = true ∧
    (match ((withSend 1).inject 0).choose 0 4 with
     | some (k, p) => decide (p.kind ≠ 14 ∧ p.kind ≠ 15 ∧ (((withSend 1).inject 0).noteSent 0 4 k p).leavesModule p = false ∧ (((withSend 1).inject 0).noteSent 0 4 k p).logicalOf (0 / 28) = some 0)
     | none => false) = true := by decide +kernel

/-- Engine 0 holds a packet that has arrived, in a module with a slot and a route for module 7. -/
def withArrived (p : Packet) : State :=
  { inStepOf (img {} {} { slots := [(0, 3, 7)], routes := [⟨0, 7, [(0, 0)]⟩], links := [⟨0, 0, 1, 1, 7, 0, 1⟩] } {}) with eng := [(0, { ok := true, arrived := [(8, p)] })] }

theorem witness_TheTransportTakesAcknowledgesAndRepeats :
    ([{ hkind := 1 }, { hops := 8 }, { kind := 6 }, { smod := 9 }] : List Packet).all (fun p => decide (((withArrived p).engine 0).arrived.find? (fun x => x.2 = p) = some (8, p) ∧
      (p.hkind ≠ 0 ∨ maxHops < p.hops ∨ kindDefined p.kind = false ∨ ((withArrived p).isHere p = true ∧ (withArrived p).rxSlot 0 p.smod = none)))) = true ∧
    ([({ vc := 1, kind := 9, smod := 7, tseq := 0xFFFFFFFF }, 0, true, false), ({ vc := 1, kind := 9, smod := 7, tseq := 5000 }, 0, false, true), ({ vc := 1, kind := 9, smod := 7 }, 0, false, false),
      ({ vc := 1, kind := 9, smod := 7, cetag := 127 }, 127, false, false), ({ vc := 1, kind := 9, smod := 7, cetag := 128, tseq := 0xFFFFFFFF }, 128, true, false),
      ({ vc := 1, kind := 9, smod := 7, cetag := 255 }, 255, false, false)] : List (Packet × Nat × Bool × Bool)).all (fun x =>
      let p := x.1
      let s := withArrived p
      let st := s.rxOf ((((s.onEng 0 fun y => { y with arrived := y.arrived.erase (8, p) }).freeBuf 0 8 p.vc).rxHome 0 (rxKeyOf p))) (rxKeyOf p)
      decide (p.hkind = 0 ∧ p.hops ≤ maxHops ∧ kindDefined p.kind = true ∧ s.isHere p = true ∧ (s.rxSlot 0 p.smod).isSome = true ∧ (p.cetag + 256 - s.cfg.epoch.toNat % 256) % 256 = x.2.1 ∧
        st.has p.tseq = x.2.2.1 ∧ (x.2.2.1 = true ∨ st.beyond p.tseq = x.2.2.2) ∧ ordered p.vc = false ∧ st.waiting = [] ∧ s.layoutNewer p = false ∧ s.inService (gRegion (s.strip p).gaddr) = true ∧
        s.replayingLog p.smod = false ∧ s.armedTag p.cetag = false)) = true ∧
    (let s := (withArrived { vc := 1, kind := 9, smod := 7, cetag := 1 }).onStg fun g => { g with st := .armed, e := 1 }
     s.armedTag 1 = true) ∧
    (let p : Packet := { gaddr := BitVec.ofNat 64 (7 * 2 ^ 48), hops := 7 }
     (withArrived p).isHere p = false ∧ p.hops = maxHops) ∧
    (let p : Packet := { gaddr := BitVec.ofNat 64 (7 * 2 ^ 48), hops := 6 }
     let s := withArrived p
     s.isHere p = false ∧ p.hops < maxHops ∧ p.vc ≠ 2 ∧ (s.routeEntry (s.packetLayout p) (gMod p.gaddr)).isSome = true) ∧
    ((withArrived {}).engine 0).ok = true ∧ (0 : U16).toNat = (withArrived {}).ownMod ∧ (7 : U16).toNat ≠ (withArrived {}).ownMod ∧ maxHops < 8 ∧
    (let p : Packet := { gaddr := BitVec.ofNat 64 (7 * 2 ^ 48), tseq := 5 }
     let s := ((withArrived {}).onEng 0 fun x => { x with tx := [(txKey 3 0, { unacked := [p] })], links := [(0, { st := .up, lanes := [0], cred := [(0, 1)] })] }).onCfg fun c => { c with links := [⟨0, 0, 1, 1, 7, 0, 1⟩] }
     ((s.engine 0).tx.get {} (txKey 3 0)).unacked.find? (fun p => p.tseq = 5) = some p ∧ s.nextHop (s.packetLayout p) (gMod p.gaddr) p.slregion p.sunit = some (0, 0) ∧ s.linkTakes 0 0 p.vc = true) := by decide +kernel

theorem witness_TheTransportTakesAcknowledgesAndRepeats_closed :
    (let p : Packet := { vc := 1, kind := 9, smod := 7, seng := 3 }
     let s := (withArrived p).onFlt fun f => { f with closed := [(7, 3)] }
     p.hkind = 0 ∧ p.hops ≤ maxHops ∧ kindDefined p.kind = true ∧ s.isHere p = true ∧ s.flt.closed.contains (p.smod, p.seng) = true ∧ (withArrived p).flt.closed = []) ∧
    (let p : Packet := { kind := 6, smod := 9 }
     let s := withArrived p
     s.isHere p = true ∧ s.flt.closed.contains (p.smod, p.seng) = false ∧ s.rxSlot 0 p.smod = none) ∧
    (let p : Packet := { vc := 2, kind := 2, smod := 7, layout := 1 }
     (withArrived p).layoutNewer p = true ∧ (withArrived p).layoutFree p = true) := by decide +kernel

/-- Streams with module 7's engine 3 and with its engine 4: the loss of engine 3 closes the one and keeps the other. -/
theorem witness_TheTransportTakesAcknowledgesAndRepeats_partner :
    let p (e : Nat) : Packet := { vc := 1, smod := 7, seng := e }
    rxFrom 7 3 (rxKeyOf (p 3)) = true ∧ rxFrom 7 3 (rxKeyOf (p 4)) = false ∧ ({ holder := some (7, 4) } : TxStream).holder ≠ some (7, 3) := by decide +kernel

/-- Region 0's press holds a contribution to line 0 of its shard 0. -/
def withContribution (held : Bool) (p : Packet) : State :=
  (inStepOf (img rcShard { updt := held } {} pcShard)).onLreg 0 fun x => { x with inNo := [p] }

/-- A contribution of one part of line 0. -/
def contribution (layout : U32) (count : Nat) : Packet := { vc := 2, kind := 2, gaddr := storeAddr 8 0, glen := 256, layout := layout, count := count, payload := List.replicate 512 0 }

theorem witness_ThePressGathersContributions :
    ([(contribution 1 1, false), (contribution 0 5, false), (contribution 0 4, false), (contribution 0 4, true)] : List (Packet × Bool)).all (fun x =>
      let s := withContribution x.2 x.1
      s.pressRuns 0 && !s.flt.exh && decide ((s.takeStore 0 (s.contribNow 0)).map (·.1) = some x.1) && decide (s.contribPlace 0 x.1 = some (0, 0)) && (s.shard 0 0).isSome && decide (s.heldTiming = x.2)) = true ∧
    (match (withContribution true (contribution 0 4)).takeStore 0 ((withContribution true (contribution 0 4)).contribNow 0), (withContribution true (contribution 0 4)).shard 0 0 with
     | some x, some sh => decide (x.2.alreadyDone 0 sh = false ∧ sh.epoch = 0 ∧ sh.ncont = 1 ∧ (((withContribution true (contribution 0 4)).copyLines 0 sh copyBuffer)[0]?).isSome = true)
     | _, _ => false) = true := by decide +kernel

/-- Region 0's shard has the counts it waits for. -/
def metShard (held : Bool) (f : LRegionSt → LRegionSt) : State :=
  (inStepOf (img rcShard { updt := held } { lists := [(2, [7, 8]), (3, [7])] } pcShard)).onLreg 0 fun x => f { x with counts := [(0, 4), (1, 4)] }

theorem foldl_same {α β : Type} (f : α → β → α) (l : List β) (t : α) (h : ∀ x ∈ l, f t x = t) : l.foldl f t = t := by
  induction l with
  | nil => rfl
  | cons x l ih => rw [List.foldl_cons, h x (by simp)]; exact ih fun y hy => h y (by simp [hy])

theorem leNat_zeros (n : Nat) : leNat (List.replicate n 0) = 0 := by
  induction n with
  | zero => rfl
  | succ n ih => rw [List.replicate_succ, leNat, ih]; rfl

theorem flatMap_zeros (n m : Nat) : (List.range n).flatMap (fun _ => List.replicate m (0 : Byte)) = List.replicate (n * m) 0 := by
  induction n with
  | zero => simp
  | succ n ih => rw [List.range_succ, List.flatMap_append, ih]; simp [List.replicate_append_replicate, Nat.succ_mul]

theorem readMem_empty (a n : Nat) : readMem [] a n = List.replicate n 0 := by
  show (List.range n).map (fun _ => (0 : Byte)) = _
  rw [List.map_const', List.length_range]

theorem gradLine_empty (s : State) (r j : Nat) (sh : Shard) (h : s.heldTiming = false) (ha : (s.lreg r).asm = []) : s.gradLine r sh j = List.replicate (4 * 512) 0 := by
  have hp : s.readPart r sh j = fun _ => List.replicate 512 0 := by
    funext part
    unfold State.readPart
    rw [h, ha, if_neg Bool.false_ne_true, readMem_empty]
  rw [State.gradLine, hp, flatMap_zeros]

theorem leAt_zeros (n a b : Nat) : leAt (List.replicate n 0) a b = 0 := by
  rw [leAt, List.drop_replicate, List.take_replicate, leNat_zeros]

theorem gradTally_empty (s : State) (r : Nat) (sh : Shard) (h : s.heldTiming = false) (ha : (s.lreg r).asm = []) : (s.gradTally r sh).nfi = false := by
  have hn : (v32 0).nonFinite = false := by decide +kernel
  unfold State.gradTally
  rw [foldl_same]
  intro j _
  refine foldl_same _ _ _ fun p _ => ?_
  rw [gradLine_empty s r j sh h ha, leAt_zeros, hn]
  exact if_neg Bool.false_ne_true

/-- An update on arrival whose gradients are all zero, and one that a replay finds done. -/
def zeroGrads : State := metShard false id
def doneShard : State := metShard false fun x => { x with reentered := true, stamped := true }

theorem witness_ThePressUpdatesAndSumsItsShards :
    ([zeroGrads, doneShard] : List State).all (fun s => !s.heldTiming && decide (s.phase 0 0 = .waiting) && (match s.shard 0 0 with | some sh => s.shardReady 0 0 sh | none => false)) = true ∧
    (match doneShard.shard 0 0 with | some sh => (doneShard.takeSiWaits 0 sh.release).alreadyDone 0 sh | none => false) = true ∧
    (match zeroGrads.shard 0 0 with | some sh => (zeroGrads.takeSiWaits 0 sh.release).alreadyDone 0 sh | none => true) = false := by decide +kernel

theorem witness_ThePressUpdatesAndSumsItsShards_waits :
    (zeroGrads.partnersIn 2).any (fun m => decide (m ≠ ownFp) && (zeroGrads.fpsOf 0 0 zeroGrads.run.step).all fun x => decide (x.1 ≠ m)) = true ∧
    (let s := zeroGrads.onSet fun x => { x with active := [(0x02200000, some 0)] }
     s.prs.waitFp.contains (0, 0) = false ∧ s.replicaCheck = false) := by decide +kernel

theorem witness_ThePressUpdatesAndSumsItsShards_finite :
    (match zeroGrads.shard 0 0 with | some sh => decide (((zeroGrads.takeSiWaits 0 sh.release).gradTally 0 sh).nfi = false) | none => false) = true :=
  decide_eq_true (gradTally_empty (zeroGrads.takeSiWaits 0 []) 0 _ (by decide +kernel) (by decide +kernel))

theorem witness_ThePressUpdatesAndSumsItsShards_held :
    ([false, true] : List Bool).all (fun skip =>
      let s := (metShard true fun x => { x with phases := [(0, .summed)] }).onPrs fun q => { q with decided := true, skipStep := skip }
      match s.shard 0 0 with
      | some sh => s.heldTiming && s.prs.decided && decide (s.phase 0 0 = .summed) && s.shardReady 0 0 sh && decide (s.prs.skipStep = skip ∧ (s.takeSiWaits 0 sh.release).alreadyDone 0 sh = false)
      | none => false) = true ∧
    (let s := metShard true id
     s.heldTiming = true ∧ s.pressRuns 0 = true ∧ s.phase 0 0 = .waiting ∧ (match s.shard 0 0 with | some sh => s.shardMet 0 0 sh | none => false) = true ∧ (s.shards 0).length = 1 ∧ s.prs.sent = false) ∧
    (let s := metShard false fun x => { x with phases := [(0, .updated)] }
     s.pressRuns 0 = true ∧ (s.lreg 0).stamped = false ∧ ∀ k, k < (s.shards 0).length → s.phase 0 k = .updated) := by decide +kernel

/-- A module whose clip group holds module 7, all of whose micro-batches have been reported. -/
def withNorms (f : PressSt → PressSt) : State :=
  ({ inStepOf (img {} { updt := true } { lists := [(3, [7])] } {}) with num := { done := [(0, 1), (1, 1)] } }).onPrs f

/-- A norm record of module 7. -/
def norm7 (step : U64) (epoch : U32) : NormRec := ⟨step, epoch, 0, 7, 0, 0, []⟩

theorem witness_TheNormExchangeDecidesTheStep :
    (let s := withNorms id
     s.heldTiming = true ∧ s.run.inStep = true ∧ s.prs.sent = false ∧ s.serviceRegions.all s.reported = true ∧ s.allMbs = true ∧
       (s.partnersIn 3).contains 7 = true ∧ (norm7 3 0).cepoch = s.cfg.epoch ∧ (norm7 3 0).step = s.run.step ∧ (norm7 4 0).step = s.run.step + 1 ∧
       s.prs.recs = [] ∧ s.prs.nextRecs = [] ∧ (norm7 3 1).cepoch ≠ s.cfg.epoch ∧ (s.partnersIn 3).contains 8 = false ∧ (norm7 5 0).step ≠ s.run.step ∧ (norm7 5 0).step ≠ s.run.step + 1) ∧
    (inStep {}).heldTiming = false ∧
    (let s := withNorms fun q => { q with sent := true, recs := [norm7 3 0] }
     s.prs.sent = true ∧ s.prs.decided = false ∧ ∀ m ∈ s.partnersIn 3, ∃ x ∈ s.prs.recs, x.mod.toNat = m) ∧
    (let s := withNorms fun q => { q with sent := true }
     s.prs.sent = true ∧ s.prs.decided = false ∧ s.flt.partner = false ∧ s.beatStepping = false ∧ (s.partnersIn 3).contains (7 : U16).toNat = true ∧ (∀ x ∈ s.prs.recs, x.mod ≠ 7) ∧ s.run.hcause < 5 ∧ s.flt.phase = .none ∧
       5 ≤ (s.onRun fun r => { r with hcause := 5 }).run.hcause) := by decide +kernel

/-- Replicas 7 and 8 hold a shard; some fingerprints of it have come. -/
def withFps (fps : List (Nat × Nat × Nat × U64 × BitVec 128)) (wait : Bool) : State :=
  (metShard false id).onPrs fun q => { q with fps := fps, waitFp := if wait then [(0, 0)] else [] }

theorem witness_ReplicasCompareTheirFingerprints :
    (let s := withFps [] false
     (s.shard 0 0).isSome = true ∧ (s.partnersIn 2).contains (7 : U16).toNat = true ∧ s.prs.waitFp.contains (0, 0) = false) ∧
    ([1, 2] : List (BitVec 128)).all (fun own =>
      let s := withFps [(ownFp, 0, 0, 1, own), (8, 0, 0, 1, 1)] true
      let fps := (s.prs.fps.filter fun x => !(x.1 = 7 && x.2.1 = 0 && x.2.2.1 = 0 && x.2.2.2.1 = 1)) ++ [(7, 0, 0, 1, 1)]
      let l : List (Nat × BitVec 128) := fps.filterMap fun x => if x.2.1 = 0 ∧ x.2.2.1 = 0 ∧ x.2.2.2.1 = 1 then some (x.1, x.2.2.2.2) else none
      s.prs.waitFp.contains (0, 0) && ((s.partnersIn 2).all fun m => l.any fun x => decide (x.1 = m)) && decide ((l.find? fun x => decide (x.1 = ownFp)) = some (ownFp, own)) &&
      (if own = 1 then l.all fun x => decide (x.2 = own) else (l.any fun x => decide (x.2 ≠ own)) && decide (3 ≤ l.length ∧ majorityFp l = some 1))) = true ∧
    (let s := withFps [(ownFp, 0, 0, 1, 5)] true
     s.prs.waitFp.contains (0, 0) = true ∧ s.flt.partner = false ∧ s.beatStepping = false ∧ (s.partnersIn 2).contains (7 : U16).toNat = true ∧ ∀ x ∈ s.fpsOf 0 0 1, x.1 ≠ (7 : U16).toNat) := by decide +kernel

theorem witness_ReplicasCompareTheirFingerprints_rounds :
    ([([], [], false), ([(0, 0)], [(0, 0, 0)], true)] : List (List (Nat × Nat) × List (Nat × Nat × Nat) × Bool)).all (fun x =>
      let s := (withFps [(ownFp, 0, 0, 1, 2), (8, 0, 0, 1, 1)] true).onPrs fun q => { q with round2 := x.1, mism := x.2.1 }
      let l : List (Nat × BitVec 128) := [(ownFp, 2), (8, 1), (7, 3)]
      (s.prs.round2.contains (0, 0) == x.2.2) && ((s.prs.mism.any fun y => y.1 = 0 && y.2.1 = 0) == x.2.2) && decide (majorityFp l = none ∧ majorityFp [(ownFp, (1 : BitVec 128)), (8, 1), (7, 3)] = some 1) &&
      (match s.shard 0 0 with | some sh => s.shardSettled 0 sh | none => false)) = true ∧
    (let s := (inStepOf (img { rcShard with sheaves := [⟨(List.range 8).map fun k => (0, 8 + k, 0), 4⟩] } {} {} pcShard)).onLreg 0 fun x => { x with outDeltas := [{ tag := 1, bank := 9, line := 3, data := [], stamp := 0, omod := none, plregion := 0, pbank := 15, pline := 3, sent := true }] }
     (match s.shard 0 0 with | some sh => !s.shardSettled 0 sh | none => false) = true) ∧
    ((withFps [] true).onRun fun r => { r with hcause := 5 }).run.hcause = 5 ∧ (withFps [] true).flt.phase = .none ∧ (withFps [] true).run.hcause < 5 := by decide +kernel

/-- A packet of the delta of line 0 of bank 8 of region 0, from this module's region 1. -/
def deltaPacket (k : Nat) : Packet := { vc := 2, kind := 4, skind := 1, pidx := k, tag := 6, smod := 0xFFFF, slregion := 1, gaddr := storeAddr 8 (512 * k), glen := 256, payload := List.replicate 512 3 }

/-- A sheaf of two lines of bank 8 and their parity in bank 9, line 0 of bank 8 bad. -/
def withSheaf : State := (inStep { sheaves := [⟨[(0, 8, 0), (0, 9, 0)], 2⟩] }).onStore fun q => { q with bad := [lineKey 0 8 0] }

/-- Two lines of eight members, bank 8's first line bad, with more lines bad or module protection. -/
def withSheaf8 (bad : List Nat) (prot : Bool) : State :=
  (inStepOf (img { rcShard with sheaves := [⟨(List.range 8).map fun k => (0, 8 + k, 0), 2⟩] } { prot := prot } {} pcShard)).onStore fun q => { q with bad := bad.map fun k => lineKey 0 k 0 }

theorem witness_TheStoreKeepsItsLinesAndParity :
    (let p := deltaPacket 3
     let have3 : List DeltaEntry := [{ tag := 6, bank := 8, line := 0, smod := 0xFFFF, sregion := 1, parts := [(0, []), (1, []), (2, [])] }]
     ([[], have3] : List (List DeltaEntry)).all (fun d =>
      let s := (withStorePacket rcShard p).onLreg 0 fun x => { x with deltas := d }
      decide ((s.takeStore 0 (fun p => s.deltaRoom 0 p || (p.kind = 9 && p.skind = 1))).map (·.1) = some p)) = true ∧
     ({ tag := 6, bank := 8, line := 0, smod := 0, sregion := 1, parts := [(3, [1])] } : DeltaEntry).whole = none ∧
     ({ tag := 6, bank := 8, line := 0, smod := 0, sregion := 1, parts := [(0, []), (1, []), (2, []), (3, [1])] } : DeltaEntry).whole = some [1] ∧ (inStep {}).isOwn 0xFFFF = true) ∧
    (let p : Packet := { kind := 9, skind := 1, tag := 6 }
     let s := withStorePacket rcShard p
     (s.takeStore 0 (fun p => s.deltaRoom 0 p || (p.kind = 9 && p.skind = 1))).map (·.1) = some p) ∧
    bankLines 2 ≤ 14044 ∧ 14043 - 1 < bankLines 3 ∧
    (let s := withSheaf
     s.store.bad.contains (lineKey 0 8 0) = true ∧ s.logicalOf 0 = some 0 ∧ s.maySettle 0 8 0 = true ∧ (s.sheafOf 0 8 0).isSome = true) ∧
    ([([8], 8, false, 0, false), ([15, 8], 15, false, 7, true), ([8, 9], 8, true, 0, true), ([8, 9], 8, false, 0, true)] : List (List Nat × Nat × Bool × Nat × Bool)).all (fun x =>
      let s := withSheaf8 x.1 x.2.2.1
      match s.sheafOf 0 x.2.1 0 with
      | some (h, m, j) => decide (s.store.bad.contains (lineKey 0 x.2.1 0) = true ∧ s.logicalOf 0 = some 0 ∧ s.maySettle 0 x.2.1 0 = true ∧ m = x.2.2.2.1 ∧ s.othersGone h m j = x.2.2.2.2 ∧
          s.outerCovered 0 8 0 = x.2.2.1 ∧ s.run.hcause < 5)
      | none => false) = true ∧
    (let s := (inStepOf (img rcShard {} {} pcShard)).onStore fun q => { q with bad := [lineKey 0 8 0] }
     s.store.bad.contains (lineKey 0 8 0) = true ∧ s.logicalOf 0 = some 0 ∧ s.maySettle 0 8 0 = true ∧ s.sheafOf 0 8 0 = none ∧ (s.copyOf 0 8 0 copyWorking).isSome = true) ∧
    ([0, 31, 32] : List Nat).all (fun n =>
      let s := (inStep {}).onStore fun q => { q with remapDue := [(47 * 1024 + 1023) * 4096 + 5], rowSpares := [(47 * 1024 + 1023, n)] }
      s.store.remapDue.contains ((47 * 1024 + 1023) * 4096 + 5)) = true ∧
    ([0, movedMark] : List Nat).all (fun mark =>
      let s := (inStepOf (img rcShard {} {} pcShard)).onCfg fun c => { c with moves := [(0, 0, 1, 0, mark)], oldPress := some { regions := [{ lregion := 1, shards := [{}] }] } }
      decide (s.nextMove 0 = some (0, 0, 1, 0, mark)) && (s.shard 0 0).isSome && s.drained 1 0 && (s.oldShard 1 0).isSome && s.sourceThere 1 0 && !s.flt.quiet.contains 0) = true := by decide +kernel

theorem witness_TheStoreKeepsItsLinesAndParity_more :
    (inStep {}).prs.waitFp = [] ∧ (inStep {}).run.feeds = [] ∧
    (let s := inStep rcShard
     s.store.bad.contains (lineKey 0 2 0) = false ∧ s.logicalOf 0 = some 0 ∧ areaOf (s.course 0) 8 0 ≠ .stepLocal) ∧
    ([(true, false, 0), (true, true, 0), (true, false, 5)] : List (Bool × Bool × Nat)).all (fun x =>
      let s := ((withSheaf8 [8, 9, 10] x.1).onFlt fun f => { f with needLoad := x.2.1 }).onRun fun r => { r with hcause := x.2.2 }
      let t := { s with cfg := { s.cfg with image := s.cfg.image.map fun (i : Image) => { i with mode := some { prot := true }, regions := i.regions.map fun (y : Nat × RegionCourse) => (y.1, { y.2 with runs := [⟨8, 0, 4, .exchange, false⟩] }) } } }
      match t.sheafOf 0 8 0 with
      | some (h, m, j) => decide (t.store.bad.contains (lineKey 0 8 0) = true ∧ t.logicalOf 0 = some 0 ∧ t.maySettle 0 8 0 = true ∧ m ≠ 7 ∧ t.othersGone h m j = true ∧ t.outerCovered 0 8 0 = false ∧
          t.modeCourse.prot = true ∧ t.flt.needLoad = x.2.1 ∧ t.run.hcause = x.2.2 ∧ t.orcPlace 0 8 0 = none)
      | none => false) = true ∧
    (let s := (inStepOf (img rcShard {} {} pcShard)).onCfg fun c => { c with moves := [(0, 0, 1, 0, movedMark)], oldPress := some { regions := [{ lregion := 1, shards := [{ nlines := 2, runs := [some 0], hbank := 8, hline := 3 }] }] } }
     let t := (s.onReg 1 fun g => { g with retired := true }).onCfg fun c => { c with map := [(0, some 0), (1, none)] }
     s.nextMove 0 = some (0, 0, 1, 0, movedMark) ∧ s.sourceThere 1 0 = true ∧ (s.oldShard 1 0).isSome = true) := by decide +kernel

/-- The old owner, region 1, is being rebuilt and its header line lies in a sheaf whose parity line has a delta under way: the move waits. -/
theorem witness_TheStoreKeepsItsLinesAndParity_waits :
    let h : Sheaf := ⟨(List.range 8).map fun k => (1, 8 + k, 0), 4⟩
    let s := (inStepOf { img rcShard {} {} pcShard with regions := [(0, rcShard), (1, { rcShard with sheaves := [h] })] }).onCfg fun c => { c with moves := [(0, 0, 1, 0, movedMark)], oldPress := some { regions := [{ lregion := 1, shards := [{ nlines := 2, runs := [some 0], hbank := 8, hline := 3 }] }] } }
    let s := (s.onFlt fun f => { f with phase := .rebuilding, promos := [{ lregion := 1, lost := 9, standby := 1, on := true }] }).onLreg 0 fun x => { x with outDeltas := [{ tag := 1, bank := 8, line := 3, data := [], stamp := 0, omod := none, plregion := 1, pbank := 15, pline := 3, sent := true }] }
    s.nextMove 0 = some (0, 0, 1, 0, movedMark) ∧ s.sourceThere 1 0 = false ∧ (s.shard 0 0).isSome = true := by decide +kernel

/-- A table of eight rows, owned by region 0 with room for two. -/
def table3 : OrcTable := { table := 3, rows := 8, width := 8, lines := 1, group := 0, k := 1, maxList := 1, lookahead := 1, owners := [(0, 0, 0, 2)] }

/-- A module whose touch list of the first micro-batch names row 5 of table 3. -/
def withTable (orc : OrchardSt) : State :=
  let s := inStepOf { img rcShard {} {} { pcShard with tables := [table3] } with step := some { touch := [(3, 0, 1)] } }
  { s with run := { s.run with step := 4 }, orc := orc, store := { s.store with mem := [(0, 1), (4, 5)] } }

theorem witness_TheOrchardPreparesAndFillsRows :
    ([{}, { cache := [(cacheKey 0 3, [{ table := 3, row := 5, pos := 0 }])] }, { cache := [(cacheKey 0 3, [{ table := 3, row := 6, pos := 0, pinned := true }, { table := 3, row := 7, pos := 1, pinned := true }])] }] : List OrchardSt).all (fun o =>
      let s := withTable o
      decide (s.orcTable 3 = some table3 ∧ (table3.owners.find? fun o => o.1 = 0) = some (0, 0, 0, 2) ∧ (s.rowsDue 0 table3).head? = some 5) && (s.lreg 0).active && s.run.inStep && !s.flt.quiet.contains 0) = true ∧
    (withTable { cache := [(cacheKey 0 3, [{ table := 3, row := 5, pos := 0, pinned := true }])] }).rowsDue 0 table3 = [] ∧
    ((withTable { cache := [(cacheKey 0 3, [{ table := 3, row := 5, pos := 0 }])] }).rowCached 0 3 5).isSome = true ∧ (withTable {}).rowCached 0 3 5 = none ∧ ((withTable {}).makeRoom 0 table3 (0, 0, 0, 2)).isSome = true ∧
    ((withTable { cache := [(cacheKey 0 3, [{ table := 3, row := 6, pos := 0, pinned := true }, { table := 3, row := 7, pos := 1, pinned := true }])] }).makeRoom 0 table3 (0, 0, 0, 2)).isSome = false ∧
    (let s := withTable { fills := [(0, 3, 5, 1)] }
     (s.orc.fills.find? fun f => f.1 = 0 && f.2.1 = 3 && f.2.2.1 = 5) = some (0, 3, 5, 1) ∧ ownerOf table3 5 = some (0, 0, 0, 2) ∧ (s.orc.fills.any fun f => f.1 = 0 && f.2.1 = 3 && f.2.2.1 = 5) = true) ∧
    State.reset.orc.lostDies = [] ∧ (withTable { lostDies := [3] }).orc.lostDies.contains 3 = true ∧ (withTable { lostDies := [3] }).orc.lostDies.contains 0 = false := by decide +kernel

/-- Region 0's channel 127 of home core 895, and its state. -/
def withChan (d : DmaSt) : State := { inStep { dma := [⟨7, 15, 1, true, 895, 4, 0, 32⟩] } with dma := [(chanKey (.region 0 127), d)] }

/-- Bridge channel 255 with its pair of queues, and its state. -/
def withBridge (d : DmaSt) : State := { inStep {} with dma := [(bridgeBase + 255, d)], brg := { hq := [(255, { en := true, host := 1 }), (511, { en := true })] } }

/-- A descriptor of 8 bytes, its source and destination host (1) or global (0). -/
def desc8 (src dst : Nat) : Desc := { raw := BitVec.ofNat 512 (8 * 2 ^ 128 + (src + 4 * dst) * 2 ^ 160) }

theorem witness_ChannelsFetchRunAndCompleteDescriptors :
    (let s := withChan { ctrs := [(6, 1), (7, 1)] }
     let k := chanKey (.region 0 127)
     s.chanRuns k = true ∧ (s.chanDecl k).isSome = true ∧ (s.chan k).cur = none ∧ (s.chan k).queue = [] ∧ 1 ≤ (s.chan k).ctrs.get 0 7 ∧ 1 ≤ (s.chan k).ctrs.get 0 6) ∧
    (let s := withBridge {}
     let k := chanKey (.bridge 255)
     s.chanRuns k = true ∧ (s.hq 255).host ≠ (s.chan k).fetched ∧ (s.chan k).queue.length < 4) ∧
    ([{ raw := 0 }, { desc8 0 0 with lost := true }] : List Desc).all (fun x =>
      let s := withChan { queue := [x] }
      let k := chanKey (.region 0 127)
      s.chanRuns k && decide ((s.chan k).cur = none ∧ (s.chan k).queue = [x]) && (x.lost || !x.valid (isRegionChan k) (s.chan k).prevCsum)) = true ∧ (desc8 0 0).lost = false ∧
    (let s := withChan { queue := [desc8 0 0] }
     let k := chanKey (.region 0 127)
     let x := desc8 0 0
     s.chanRuns k = true ∧ (s.chan k).cur = none ∧ (s.chan k).queue = [x] ∧ x.valid (isRegionChan k) (s.chan k).prevCsum = true ∧ (x.waits.all fun w => decide (w.thr ≤ (s.chan k).ctrs.get 0 w.ctr)) = true ∧
       s.noTarget x.srcHost x.src = false ∧ s.noTarget x.dstHost x.dst = false) ∧
    ((withChan { acks := [{}] }).chan (chanKey (.region 0 127))).acks = [{}] ∧
    (let s := withBridge { hostAcks := 1 }
     (s.chan (chanKey (.bridge 255))).acks = [] ∧ 1 ≤ (s.chan (chanKey (.bridge 255))).hostAcks ∧ s.brg.linkDown = false) ∧
    ([0, 2, 3] : List Byte).all (fun st =>
      let k := chanKey (.region 0 127)
      let s := withChan { cur := some (desc8 0 0), moved := 8, status := st, ctrs := [(6, 1)] }
      let j := bridgeBase + 255
      let t := withBridge { cur := some (desc8 1 0), moved := 8, status := st }
      s.chanRuns k && (s.chanDecl k).isSome && decide ((s.chan k).cur = some (desc8 0 0)) && s.descEnded k (desc8 0 0) && decide (1 ≤ (s.chan k).ctrs.get 0 6) &&
      t.chanRuns j && decide ((t.chan j).cur = some (desc8 1 0)) && t.descEnded j (desc8 1 0) && decide (((t.hq 511).dev - (t.hq 511).host).toNat ≠ 2 ^ (t.hq 511).z)) = true ∧
    (let x : HostQ := { en := true, stg := BitVec.ofNat 128 (6 * 2 ^ 64), dev := 64 }
     (x.dev - x.host).toNat = 2 ^ x.z) ∧
    (let s := withBridge { cur := some (desc8 1 0), hostAcks := 2 }
     let k := bridgeBase + 255
     1 ≤ (s.chan k).hostAcks ∧ (s.chan k).cur = some (desc8 1 0) ∧ (desc8 1 0).srcHost = true ∧ (s.chan k).moved < (desc8 1 0).len ∧ (s.chan k).status = 0) ∧
    (let s := (inStep {}).onRun fun r => { r with laneQ := [⟨hdr, 0x11, false, []⟩] }
     s.run.laneQ = [⟨hdr, 0x11, false, []⟩] ∧ s.laneBlocked = false) := by decide +kernel

theorem witness_ChannelsFetchRunAndCompleteDescriptors_more :
    ([(0, 0, 0), (0, 1, 0), (7, 0, 0)] : List (Nat × Nat × Nat)).all (fun x =>
      let p : Packet := { nflag := x.2.1, tag := x.1 * 2 ^ 32 }
      let k := chanKey (.region 0 127)
      let s := withChan { acks := [p] }
      isRegionChan k && decide ((s.chan k).acks = [p] ∧ p.nflag = x.2.1 ∧ s.phys (k / 128) = some 0) && (decide (p.tag / 2 ^ 32 = (s.chan k).epoch) == decide (x.1 = 0))) = true ∧
    isRegionChan (chanKey (.bridge 255)) = false ∧
    (let x : InHand := ⟨hdr, 0x10, false, List.replicate 56 0⟩
     let s := (inStep {}).onRun fun r => { r with laneQ := [x] }
     s.run.laneQ = [x] ∧ s.laneBlocked = false ∧ x.asksHost = true ∧ InHand.asksHost ⟨hdr, 0x11, false, []⟩ = false ∧ (s.onRun fun r => { r with armed := some hdr }).laneBlocked = true ∧ State.reset.run.laneQ = []) := by decide +kernel

theorem witness_ChannelDataReachesItsTargets :
    ([(13, 0), (13, 1), (12, 0), (12, 1)] : List (Nat × Nat)).all (fun x =>
      let p : Packet := { vc := 3, kind := x.1, gaddr := BitVec.ofNat 64 (1310712 + 8 * x.2), glen := 1, payload := if x.1 = 12 then List.replicate 8 1 else [], last := true, ttok := 259 }
      decide (((withPacket p).takeCore 0 0 (fun p => p.kind = x.1)).map (·.1) = some p) && decide (dmaInSram p = decide (x.2 = 0) ∧ tokOf p.ttok = some 3)) = true ∧
    ([(13, 0), (13, 500), (12, 0), (12, 500)] : List (Nat × Nat)).all (fun x =>
      let p : Packet := { vc := 3, kind := x.1, gaddr := storeAddr x.2 2040, glen := 1, payload := if x.1 = 12 then List.replicate 8 1 else [] }
      match (withStorePacket rcShard p).takeStore 0 (fun q => q.kind = x.1 && !(withStorePacket rcShard p).lineWaits 0 q) with
      | some y => decide (y.1 = p ∧ (y.2.dmaInBank 0 p (fun a => a ≠ .free)) = decide (x.2 = 0) ∧ (y.2.dmaInBank 0 p (fun a => a = .exchange)) = decide (x.2 = 0) ∧ y.2.resClosed 0 (gIndex p.gaddr) 0 = false)
      | none => false) = true ∧
    (let p : Packet := { vc := 3, kind := 12, gaddr := storeAddr 0 2040, glen := 1, payload := List.replicate 8 1 }
     let s := (withStorePacket rcShard p).onStore fun q => { q with slots := [(0, 2)] }
     match s.takeStore 0 (fun q => q.kind = 12 && !s.lineWaits 0 q) with
     | some y => decide (y.1 = p ∧ (y.2.dmaInBank 0 p (fun a => a = .exchange)) = true ∧ y.2.resClosed 0 (gIndex p.gaddr) 0 = true)
     | none => false) = true ∧
    ([withBridge { cur := some (desc8 1 0), reads := [{ kind := 14, payload := List.replicate 8 1 }] }, withBridge { cur := some (desc8 0 1), reads := [{ kind := 14, payload := List.replicate 8 1 }] }] : List State).all (fun s =>
      let k := chanKey (.bridge 255)
      (s.chan k).cur.isSome && (s.nextData k).isSome && s.chanRuns k && s.chanCredit k && s.chanTurn k) = true ∧ (desc8 0 1).dstHost = true ∧ (desc8 1 0).dstHost = false ∧ (desc8 0 1).csum = 0 ∧
    (let x : Desc := { raw := BitVec.ofNat 512 (1024 * 2 ^ 128 + 4 * 2 ^ 160) }
     let s := withBridge { cur := some x, reads := [{ kind := 14, payload := List.replicate 64 1 }] }
     let k := chanKey (.bridge 255)
     x.dstHost = true ∧ s.nextData k = some (List.replicate 64 1) ∧ s.chanRuns k = true ∧ s.chanCredit k = true ∧ s.chanTurn k = true ∧ ¬ x.len ≤ (s.chan k).moved + 64 ∧ ((s.chan k).moved + 64) % 512 ≠ 0) := by decide +kernel

/-- Lane 63 of a working engine 15, on link 7 to module 7 with at least two lanes; lane 62 serves. -/
def withLane (x : LaneSt) : State :=
  let s := (inStepOf (img {} {} {} {})).onCfg fun c => { c with links := [⟨15, 7, 0x80, 0x80, 7, 0, 2⟩] }
  { s with eng := [(15, { ok := true, lanes := [(62, { st := .service }), (63, x)], links := [(7, { st := .up, lanes := [62, 63] })] })] }

theorem witness_LanesTrainServeAndRetire :
    (let s := { State.reset with eng := [(15, { ok := true })] }
     (s.engine 15).ok = true ∧ (s.lane 15 63).st = .dark) ∧
    ([.dark, .equalise, .locked, .measure, .service, .retired] : List LaneState).all (fun st =>
      let s := withLane { st := st, fails := 2 }
      (s.engine 15).ok && decide ((s.lane 15 63).st = st)) = true ∧
    (0x96E15A3D : U32) ≠ 0x96E15A3C ∧ (trainWordOf 15 63 0).marker = 0x96E15A3C ∧ trainCrcOk (trainWordOf 15 63 0) = true ∧ trainCrcOk { trainWordOf 15 63 0 with crc := 0 } = false ∧
    (trainWordOf 15 63 0).converged = false ∧ (trainWordOf 15 63 64).converged = true ∧
    (List.replicate 64 (7168 : BitVec 20)).length = 64 ∧ (List.replicate 64 (7168 : BitVec 20)).all (fun x => decide (x.toNat / 1024 % 8 = 63 % 8)) = true ∧
    (let s := withLane { st := .service, bad := 99 }
     (s.lane 15 63).st = .service ∧ s.laneLink 15 63 = some 7 ∧ (s.link 15 7).st = .up ∧ (s.serviceLanes 15 7).length = s.minLanes 15 7) := by decide +kernel

/-- Link 7 of engine 15, declared to module 7's engine 0, in a given state. -/
def withLink (x : LinkSt) : State :=
  let s := (inStepOf (img {} {} {} {})).onCfg fun c => { c with links := [⟨15, 7, 0x80, 0x80, 7, 0, 1⟩], partners := [(7, 9)] }
  { s with eng := [(15, { ok := true, lanes := [(62, { st := .service, mark := true }), (63, { st := .service })], links := [(7, x)] })] }

/-- The identity frame of that partner, and one of another fibre. -/
def idFrame (fibres : Byte) : IdFrame := { midd := 9, mod := 7, engine := 0, fibres := fibres, cepoch := 0, root := 0, lepoch := 0, credits := [3], agrees := some true }

/-- A frame with given control bits and its checksum, its flits left out for the kernel's sake. -/
def sealedFrame (ctl : Nat) : Frame :=
  { ctl := BitVec.ofNat 256 (ctl + (crc32c (leBytes 28 ctl)).toNat * 2 ^ 224), flits := [] }

theorem witness_LinksAlignIdentifyAndReplay :
    ([.down, .align, .identify, .up, .mismatch] : List LinkState).all (fun st => decide (((withLink { st := st }).link 15 7).st = st)) = true ∧
    (withLink { st := .identify }).identityOk 15 7 (idFrame 0x80) = true ∧ (withLink { st := .identify }).identityOk 15 7 (idFrame 0x40) = false ∧ ((withLink { st := .mismatch, peer := some (idFrame 0x40) }).link 15 7).peer ≠ some (idFrame 0x80) ∧
    ([[], [{ seq := 0, replays := 7, pkts := [{}] }], [{ seq := 0 }, { seq := 1, replays := 8 }]] : List (List SentFrame)).all (fun o => decide (((withLink { st := .up, outst := o }).link 15 7).outst = o)) = true ∧
    ([(0, 0, false, true), (3, 0, false, true), (0, 5, false, true), (0, 0, true, true), (6, 0, false, true), (1, 0xFFFF, false, true), (2, 0, false, true)] : List (Nat × Nat × Bool × Bool)).all (fun x =>
      let f := sealedFrame (x.1 + x.2.1 * 2 ^ 8 + b2n x.2.2.1 * 2 ^ 40)
      decide (frameCrcOk f = x.2.2.2 ∧ frameType f = x.1 ∧ (frameSeq f).toNat = x.2.1 ∧ frameNak f = x.2.2.1)) = true ∧
    frameCrcOk { sealedFrame 0 with ctl := 0 } = false ∧ ((withLink { st := .up }).link 15 7).rxLast = 0xFFFF ∧ ((withLink { st := .up, agreed := true }).link 15 7).agreed = true ∧
    ((withLink { st := .up }).link 15 7).agreed = false ∧ ({ idFrame 0x80 with agrees := none }).agrees = none ∧ (idFrame 0x80).agrees = some true ∧
    (let s := withLink { st := .up, lanes := [62, 63] }
     62 ∈ s.serviceLanes 15 7 ∧ (s.lane 15 62).mark = true ∧ 63 ∈ s.serviceLanes 15 7 ∧ (s.lane 15 63).mark = false) := by decide +kernel

theorem witness_LinksAlignIdentifyAndReplay_skew :
    lanesAligned ⟨[1023, 31]⟩ 2 = true ∧ lanesAligned ⟨[1023, 32]⟩ 2 = false ∧ lanesAligned ⟨[5]⟩ 2 = false ∧
    ([{ counter := 256, lead := 64, heard := ⟨[7, 9]⟩ }, { counter := 768, lead := 64, heard := ⟨[7]⟩ }] : List ChangePoint).all (fun p =>
      let s := withLink { st := .up, agreed := true, lanes := [62] }
      decide (p.counter.toNat % 256 = 0 ∧ (s.link 15 7).st = .up ∧ (s.link 15 7).agreed = true ∧ 64 ≤ p.lead ∧ (s.serviceLanes 15 7).length = 2)) = true ∧
    (257 : BitVec 10).toNat % 256 ≠ 0 ∧ 63 < 64 ∧ ((withLink { st := .mismatch }).link 15 7).st = .mismatch ∧
    (let s := withLink { st := .up, lanes := [62] }
     (s.link 15 7).agreed = false ∧ s.hasRoom 15 7 = true ∧ 62 ∈ s.serviceLanes 15 7 ∧ (s.lane 15 62).mark = true) ∧
    (let s := withLink { st := .identify, peer := none }
     s.identityOk 15 7 (idFrame 0x80) = true ∧ (idFrame 0x80).agrees = some true ∧ s.identityOk 15 7 (idFrame 0x40) = false ∧ ({ idFrame 0x80 with agrees := some false } : IdFrame).agrees ≠ some true) ∧
    frameType (sealedFrame (4 + 2 ^ 8 * 0)) = 4 ∧ frameCrcOk (sealedFrame 4) = true ∧ frameSeq (sealedFrame 4) = ((withLink { st := .up }).link 15 7).rxLast + 1 := by decide +kernel

/-- A beacon of module 7. -/
def beacon7 (cepoch lepoch : U32) : Beacon := { step := 0, cepoch := cepoch, lepoch := lepoch, mod := 7, eng := 0, flags := 0, sag := 0, root := 0 }

/-- A module whose link to module 7 is in a given state; its region 0's store interface waits on counter 5, which that module's tokens raise. -/
def withForeign (x : LinkSt) (disag : Bool) : State :=
  let pc : PressCourse := { pcShard with regions := [{ lregion := 0, shards := [{ release := [⟨5, 1⟩] }] }] }
  let s := inStepOf (img rcShard {} { xtoks := [(0, 0x401, 5, 7), (0, 0x401, 5, 0)] } pc)
  { s with eng := [(15, { ok := true, links := [(7, x)] })], stg := { s.stg with disag := disag } }

/-- The number of foreign tokens after a beacon of module 0 in epoch 0, received in a given epoch. -/
def foreignAfter (s : State) (epoch : U32) : Option Nat :=
  match exec (.beaconReceipt 15 7 (sealedFrame 4)) (s.onCfg fun c => { c with epoch := epoch }) with
  | .next t => some t.foreignToks.length
  | _ => none

theorem witness_BeaconsAreSentComparedAndMissed :
    ([.up, .mismatch] : List LinkState).all (fun st => (withForeign { st := st } false).beaconing 15 7) = true ∧
    (let s := withForeign { st := .up } false
     (s.link 15 7).st = .up ∧ (beacon7 0 0).cepoch = s.cfg.epoch ∧ (beacon7 0 0).root = s.cfg.root ∧ (beacon7 0 0).lepoch = s.cfg.layout ∧ (beacon7 1 1).cepoch ≠ s.cfg.epoch ∧ (beacon7 1 1).lepoch ≠ s.cfg.layout) ∧
    (let s := withForeign { st := .up } false
     (s.link 15 7).cdiff = false ∧ (s.link 15 7).ldiff = false ∧ s.stg.disag = false ∧ s.unitWaitsOn 0 0x401 5 = true) ∧
    (let s := withForeign { st := .up, cdiff := true, ldiff := true, beacon := some (beacon7 1 1) } true
     s.stg.disag = true ∧ (s.link 15 7).cdiff = true ∧ (s.link 15 7).ldiff = true) := by decide +kernel

theorem witness_BeaconsAreSentComparedAndMissed_frames :
    frameCrcOk (sealedFrame 4) = true ∧ frameType (sealedFrame 4) = 4 ∧ frameType (sealedFrame 5) ≠ 4 ∧ frameCrcOk { sealedFrame 4 with ctl := 4 } = false ∧
    (let s := withForeign { st := .up, lanes := [62] } false
     (s.link 15 7).st = .up ∧ s.hasRoom 15 7 = true) ∧
    (let s := withForeign { st := .up } false
     (s.link 15 7).st = .up ∧ s.hasRoom 15 7 = false) := by decide +kernel

theorem witness_BeaconsAreSentComparedAndMissed_tokens :
    foreignAfter (withForeign { st := .up } false) 1 = some 1 ∧ foreignAfter (withForeign { st := .up } false) 0 = some 0 ∧
    foreignAfter (withForeign { st := .up } true) 0 = some 0 ∧ foreignAfter (withForeign { st := .up } true) 1 = some 1 := by decide +kernel

theorem witness_TheStagedSetComesIntoForce :
    (let s := { inStep {} with stg := { applying := true, applyToks := [1], loading := [0] } }
     s.run.rerun = false ∧ (s.onRun fun x => { x with rerun := true }).run.rerun = true ∧ s.stg.applying = true ∧ s.stg.applyToks.contains 1 = true ∧ s.run.st ≠ .idle ∧ s.phys 1 = some 1 ∧ s.stg.loading.contains 0 = true ∧ s.phys 0 = some 0) ∧
    (let s := { State.reset with stg := { applying := true, applyToks := [47] } }
     s.stg.applying = true ∧ s.stg.applyToks.contains 47 = true ∧ s.run.st = .idle) ∧
    (let s := (inStep {}).onFlt fun f => { f with promos := [{ lregion := 1, lost := 1, standby := 2, on := true }] }
     s.stg.applying = false ∧ s.flt.promos.any (fun x => decide (x.lregion = 1) && x.on && !x.courseOk) = true ∧ s.phys 1 = some 1) ∧
    ([(false, false), (true, false), (false, true)] : List (Bool × Bool)).all (fun x =>
      let s := { State.reset with stg := { applying := true, image := some (img {} {} {} {}), reshard := x.1, full := x.2, e := 1 } }
      s.stg.applying && s.stg.applyToks.isEmpty && s.stg.loading.isEmpty && decide (s.flt.phase = .none) && s.stg.image.isSome && !s.run.resetAsked && decide (s.stg.full = x.2 ∧ s.stg.reshard = x.1)) = true ∧
    (inStep {}).run.st ≠ .idle ∧ State.reset.run.st = .idle := by decide +kernel

theorem witness_TheStagedSetComesIntoForce_loads :
    ([true, false] : List Bool).all (fun come =>
      let s := (inStep {}).onStg fun g => { g with applying := true, loading := [0] }
      let u := State.reset.onStg fun g => { g with applying := true, loading := [0] }
      let t := (inStep {}).onFlt fun f => { f with promos := [{ lregion := 1, lost := 1, standby := 2, on := true }] }
      (s.digestMatches 0 s.stg.image (s.loadedCourse 0) come == come) && (u.digestMatches 0 u.stg.image (u.loadedCourse 0) come == come) && decide (u.run.st = .idle ∧ s.run.st ≠ .idle) &&
      (t.digestMatches 1 t.cfg.image (t.cfg.image.bind fun i => t.readCopy (keeperOf i 1) false 2 1) come == come)) = true ∧
    ([(false, false), (true, false), (false, true)] : List (Bool × Bool)).all (fun x =>
      let s := ((inStep {}).onStg fun g => { g with applying := true, applyToks := [1] }).onLreg 1 fun l => { l with counted := x.1, active := x.2 }
      decide (s.run.rerun = false ∧ (s.lreg 1).counted = x.1 ∧ (s.lreg 1).active = x.2)) = true := by decide +kernel

/-- A module whose core 0 of region 0 waits on counter 5, raised by core 3 or by the press. -/
def withBlame (press : Bool) : State :=
  let e : Emit := ⟨0, 0, 5, 1⟩
  let rc : RegionCourse := { rcShard with cores := [{ core := 0, tiles := [{ tr := { rep := 1, waits := [⟨5, 1⟩], emits := [] } }] }, { core := 3, tiles := [{ tr := { rep := 1, waits := [], emits := if press then [] else [e] } }] }] }
  (inStepOf (img rc {} {} { pcShard with regions := [{ lregion := 0, shards := [{ ready := if press then [e] else [] }] }] })).onLreg 0 fun x => { x with counts := [(0, 4), (1, 4)] }

theorem witness_FaultsAreDetectedAndBlamed :
    (let s := inStep {}
     (s.reg 1).powered = true ∧ (s.reg 1).clockOn = true ∧ s.beatStepping = false ∧ s.liveFailed 1 923 = false ∧ (s.reg 47).powered = false) ∧
    (let s := withOutst 0 1 {}
     s.outstList 0 0 = [⟨9, 0, 1, 256, 64, remote 0 0⟩] ∧ s.phys 0 = some 0 ∧ s.isOwn (gMod (remote 0 0)) = true ∧ s.beatStepping = false ∧ s.phys (gRegion (remote 0 0)) = some 1 ∧ s.pcore 1 (gIndex (remote 0 0)) < 924 ∧
       s.liveFailed 1 (s.pcore 1 (gIndex (remote 0 0))) = false ∧ (s.routeOrder 0 1).find? s.linkFailed = none) ∧
    (let s := (withOutst 0 1 {}).onFlt fun f => { f with dead := [924] }
     s.liveFailed 1 (s.pcore 1 (gIndex (remote 0 0))) = true) ∧
    (let s := (withOutst 0 1 {}).onBat fun b => { b with faults := [{ kind := .region 1 0x11 }] }
     (s.routeOrder 0 1).find? s.linkFailed = some 1 ∧ s.liveFailed 1 (s.pcore 1 (gIndex (remote 0 0))) = false) ∧
    (inStep {}).isOwn 7 = false ∧
    ([false, true] : List Bool).all (fun press =>
      let s := withBlame press
      s.run.inStep && decide (s.run.st = .running) && !s.stg.disag && !s.orcWaiting && decide (s.flt.phase = .none) && !s.beatStepping &&
      (match s.unmetAll.findSome? s.blameFor with | some b => decide (b.core = (if press then 0x3FF else 3) ∧ s.phys b.region = some 0 ∧ s.pcore 0 3 < 924) | none => false)) = true ∧
    (inStep {}).unmetAll.findSome? (inStep {}).blameFor = none := by decide +kernel

theorem witness_FaultsAreDetectedAndBlamed_lock :
    ((inStep {}).reg 1).lock = true ∧ (((inStep {}).onReg 1 fun g => { g with lock := false }).reg 1).lock = false := by decide +kernel

theorem witness_ReportsAreAbsorbedOrExceedTheBudget :
    ([{ kind := .core 47 923 0x01 }, { kind := .region 0 0x11 }, { kind := .storeLine 0 1 2 }, { kind := .engine 15 }] : List FaultRep).all (fun f =>
      decide (((inStep {}).onBat fun b => { b with faults := [f] }).bat.faults[0]? = some f)) = true ∧
    ([[], [(895, 7)]] : List (List (Nat × Nat))).all (fun l =>
      let s := ((inStep {}).onBat fun b => { b with illegals := [⟨1, 895, 7⟩] }).onLreg 1 fun x => { x with remembered := l }
      decide (s.bat.illegals[0]? = some ⟨1, 895, 7⟩ ∧ (s.lreg 1).remembered.contains (895, 7) = !l.isEmpty ∧ s.phys 1 = some 1 ∧ s.pcore 1 895 < 924)) = true ∧
    (let s := (inStep {}).onBat fun b => { b with illegals := [⟨1, 0x3FF, 7⟩] }
     s.bat.illegals[0]? = some ⟨1, 0x3FF, 7⟩ ∧ 896 ≤ 0x3FF ∧ (s.lreg 1).remembered = []) ∧
    (let s := withForeign { st := .up } false
     s.run.inStep = true ∧ s.run.st = .running ∧ s.epochDiffers 7 = false ∧ s.flt.partner = false ∧ s.beatStepping = false ∧ ∃ x ∈ s.linkCourse.xtoks, x.2.2.2 = (7 : U16).toNat ∧ s.unitWaitsOn x.1 x.2.1 x.2.2.1 = true) ∧
    State.reset.flt.mgmtOk = true ∧ ((inStep {}).onFlt fun f => { f with mgmtOk := false }).flt.mgmtOk = false := by decide +kernel

/-- A recovery in hand. -/
def recovering (f : FaultSt → FaultSt) : State := (inStep {}).onFlt f

theorem witness_TheRewindDrainsAndRestores :
    (let s := recovering fun f => { f with phase := .draining, awaiting := [1] }
     s.flt.phase = .draining ∧ s.flt.awaiting.contains 1 = true ∧ s.flt.awaiting.contains 0 = false) ∧
    (let s := recovering fun f => { f with phase := .draining, snap := some {} }
     s.flt.phase = .draining ∧ s.flt.awaiting = [] ∧ s.slabQuiet = true ∧ s.flt.snap = some {} ∧ s.flt.repairs = [] ∧ ∀ x ∈ ({} : Snapshot).dma, isRegionChan x.1 = true) ∧
    (let q : Snapshot := { cores := [(0, { tileFired := [(0, 1)] }), (1, { halted := true })], mb := 1 }
     let s := (recovering fun f => { f with phase := .draining, drainedOut := true, snap := some q }).onCore 0 0 fun x => { x with outq := [{}, { kind := 9, skind := 1 }] }
     (s.cores.map (·.1)).Nodup ∧ s.cores ≠ [] ∧ (q.cores.map (·.1)).Nodup ∧ s.flt.awaiting = [] ∧ s.flt.snap = some q) ∧
    (let f : FaultRep := { kind := .core 47 923 0x01 }
     let s := (recovering fun x => { x with phase := .draining, snap := some {}, drainedOut := true, repairs := [f] }).onLreg 0 fun l => { l with outq := [{}] }
     s.flt.awaiting = [] ∧ s.flt.drainedOut = true ∧ s.slabQuiet = false ∧ s.flt.repairs = [f] ∧ (s.reg 47).retired = false) ∧
    (let s := (recovering fun x => { x with phase := .draining }).onLreg 0 fun l => { l with outq := [{}] }
     s.flt.phase = .draining ∧ s.flt.drainedOut = false ∧ s.slabQuiet = false) ∧
    (inStep {}).flt.phase ≠ .draining := by decide +kernel

theorem witness_TheRewindDrainsAndRestores_reentry :
    (let s := recovering fun f => { f with phase := .draining, snap := some {} }
     s.reentrySnap = some {}) ∧
    (let s := (bare.onFlt fun f => { f with phase := .draining, drainedOut := true, snap := some {}, pendSnap := some { mb := 1 } })
     s.atBoundary = true ∧ s.reentrySnap = some { mb := 1 }) := by decide +kernel

/-- Region 1 waits at the commit point of its first micro-batch; the other region has or has not reported it. -/
def atCommit (reported : Bool) : State :=
  let s := (inStepOf { img {} {} {} {} with step := some { mb := 2, commits := [1] } }).onLreg 0 fun x => { x with cpReported := reported }
  s.onLreg 1 fun x => { x with mbBegun := 1, mbEnded := 1 }

theorem witness_CommitPointsAreReportedAndSettled :
    ([false, true] : List Bool).all (fun b =>
      let s := atCommit b
      s.regionRuns 1 && decide (s.flt.phase = .none) && s.waitsAtCommit 1 && s.inService 1 && decide (s.serviceRegions = [0, 1] ∧ (s.lreg 0).cpReported = b)) = true ∧
    (inStep {}).waitsAtCommit 1 = false ∧ (recovering fun f => { f with pendSnap := some { mb := 1 } }).flt.pendSnap.isSome = true ∧ (recovering fun f => { f with pendSnap := some { mb := 1 } }).snapIsSettled { mb := 1 } = true ∧
    (let s := (inStepOf { img rcShard {} {} {} with step := some { mb := 2, commits := [1], store := [(0, 0, 0)] } }).onLreg 0 fun x => { x with outDeltas := [{ tag := 1, bank := 8, line := 3, data := [], stamp := 0, omod := none, plregion := 0, pbank := 9, pline := 3, sent := true }] }
     0 ∈ s.serviceRegions ∧ ∃ d ∈ (s.lreg 0).outDeltas, (d.bank, d.line) ∈ s.snapLines false 0) ∧ (inStep {}).flt.pendSnap = none := by decide +kernel

theorem witness_CommitPointsAreReportedAndSettled_boundary :
    ([bare, inStep {}] : List State).all (fun u =>
      let s := u.onFlt fun f => { f with pendSnap := some { mb := 1 } }
      s.snapIsSettled { mb := 1 } && decide (s.flt.pendSnap = some { mb := 1 } ∧ s.run.inStep = u.run.inStep)) = true ∧ bare.run.inStep = false ∧ (inStep {}).run.inStep = true := by decide +kernel

/-- The meter in a state, all else as after reset. -/
def withMeter (m : MeterSt) : State := { State.reset with meter := m }

/-- A module that is on, with a power state. -/
def onPower (f : PowerSt → PowerSt) : State := (inStep {}).onPwr fun p => f { p with stage := 7, ready := true }

theorem witness_ClocksAndDutyFollowTheirLimits :
    (let s := (inStep {}).onReg 47 fun g => { g with powered := true, clockOn := true }
     (s.reg 47).powered = true ∧ (s.reg 47).clockOn = true ∧ (s.reg 47).lock = false ∧ (s.reg 46).powered = false) ∧
    State.reset.pwr.stage = 0 ∧
    (let s := onPower fun p => { p with mduty := 4, gateMs := 99, riseMs := 9, allowC := 4400000 }
     let p := min 4400000 (min ((s.setting 0x900C).toNat % 64 * 100000) s.pwr.allowC)
     s.pwr.stage ≠ 0 ∧ p < 100 * (65535 : U16).toNat ∧ s.pwr.mduty = 4 ∧ 100 ≤ s.pwr.gateMs + 1 ∧ (0 : U16).toNat = 0 ∧ 10 ≤ s.pwr.riseMs + 1 ∧ (0 < p → 100 * (100 * (0 : U16).toNat) < 95 * p)) ∧
    (let s := onPower fun p => { p with tempRise := [(47, 9)] }
     10 ≤ s.pwr.tempRise.get 0 47 + 1 ∧ 92 < (93 : Byte).toNat ∧ (89 : Byte).toNat < 90 ∧ 90 ≤ (90 : Byte).toNat ∧ (92 : Byte).toNat ≤ 92) := by decide +kernel

theorem witness_ClocksAndDutyFollowTheirLimits_inlet :
    State.reset.meter.live = true ∧ (withMeter { live := false }).meter.live = false ∧ State.reset.meter.seated = true ∧ (withMeter { seated := false }).meter.seated = false ∧
    (let x : InletReading := ⟨48000, 40000, 48000, 2003, 1997⟩
     2000 * (x.chanA - x.chanB).natAbs ≤ 3 * (x.chanA + x.chanB).natAbs ∧ 20000 < x.meterMv.toNat) ∧
    (let x : InletReading := ⟨20000, 0, 20000, 2004, 1997⟩
     3 * (x.chanA + x.chanB).natAbs < 2000 * (x.chanA - x.chanB).natAbs ∧ x.meterMv.toNat ≤ 20000) ∧
    20000 < (withMeter { mv := 20001 }).meter.mv := by decide +kernel

/-- The limit of the governor is 44 kW where no cap is set lower: one watt more exceeds it, 41,799 W lies below 0.95 of it and 41,800 W does not. -/
theorem witness_ClocksAndDutyFollowTheirLimits_watts :
    let s := (onPower fun p => { p with allowC := 4400000 }).onSet fun x => { x with active := [(0x900C, some 44)] }
    let p := min 4400000 (min ((s.setting 0x900C).toNat % 64 * 100000) s.pwr.allowC)
    p = 4400000 ∧ p < 100 * (44001 : U16).toNat ∧ 100 * (44000 : U16).toNat ≤ p ∧ 100 * (100 * (41799 : U16).toNat) < 95 * p ∧ 95 * p ≤ 100 * (100 * (41800 : U16).toNat) := by decide +kernel

theorem witness_CoolantIsSampledAndLimited :
    max (100 : BitVec 10).toNat (89 : BitVec 10).toNat < 10 * (max (100 : BitVec 10).toNat (89 : BitVec 10).toNat - min (100 : BitVec 10).toNat (89 : BitVec 10).toNat) ∧
    ¬ max (100 : BitVec 10).toNat (90 : BitVec 10).toNat < 10 * (max (100 : BitVec 10).toNat (90 : BitVec 10).toNat - min (100 : BitVec 10).toNat (90 : BitVec 10).toNat) ∧
    (let s := onPower fun p => { p with silentA := 9, silentB := 9, silentTA := 9, silentTB := 9 }
     10 ≤ s.pwr.silentA + 1 ∧ 10 ≤ s.pwr.silentB + 1 ∧ 10 ≤ s.pwr.silentTA + 1 ∧ 10 ≤ s.pwr.silentTB + 1 ∧ s.pwr.sens = false) ∧
    ([(639, 200), (640, 199), (640, 200), (1023, 400), (1023, 401)] : List (Nat × Nat)).all (fun x =>
      match exec (.coolantSample (some (BitVec.ofNat 10 x.1)) none none (some (BitVec.ofNat 10 x.2)) 0) (onPower id) with
      | .next t => decide (t.pwr.flow = x.1 ∧ t.pwr.tin = x.2)
      | _ => false) = true ∧
    (let s := onPower fun p => { p with tin := 450, flow := 160 }
     s.pwr.ready = true ∧ s.pwr.tin ≤ 450 ∧ 160 ≤ s.pwr.flow) ∧
    450 < (onPower fun p => { p with tin := 451 }).pwr.tin ∧ (onPower fun p => { p with flow := 159 }).pwr.flow < 160 ∧ State.reset.pwr.ready = false := by decide +kernel

theorem witness_CoolantIsSampledAndLimited_pairs :
    10 * (max (100 : BitVec 10).toNat (90 : BitVec 10).toNat - min (100 : BitVec 10).toNat (90 : BitVec 10).toNat) ≤ max (100 : BitVec 10).toNat (90 : BitVec 10).toNat ∧
    ([(none, none), (some 5, none)] : List (Option (BitVec 10) × Option (BitVec 10))).all (fun x =>
      match exec (.coolantSample x.1 x.2 none none 0) (onPower fun p => { p with silentA := 9, silentB := 9, badFlow := true }), exec (.coolantSample x.1 x.2 none none 0) (onPower fun p => { p with silentTA := 9, silentTB := 9 }) with
      | .next t, .next u => t.pwr.badFlow && u.pwr.badTin && decide (t.log.seq = (onPower id).log.seq ∧ u.log.seq ≠ (onPower id).log.seq)
      | _, _ => false) = true := by decide +kernel

theorem witness_InletAndPinsStartAndStopTheModule :
    (43999 : U16).toNat < 44000 ∧ 44000 ≤ (44000 : U16).toNat ∧ 56000 < (56001 : U16).toNat ∧ (56000 : U16).toNat ≤ 56000 ∧ 60000 < (60001 : U16).toNat ∧ (60000 : U16).toNat ≤ 60000 ∧
    (44999 : U16).toNat < 45000 ∧ 45000 ≤ (45000 : U16).toNat ∧ State.reset.pwr.stage = 0 ∧ (onPower id).pwr.stage ≠ 0 := by decide +kernel

theorem witness_InletAndPinsStartAndStopTheModule_more :
    State.reset.meter.seated = true ∧ (withMeter { seated := false }).meter.seated = false ∧ 45000 ≤ (56000 : U16).toNat ∧ (56000 : U16).toNat ≤ 56000 ∧ 56000 < (56001 : U16).toNat ∧
    (let s := State.reset.onPwr fun p => { p with inletOk := true, pwrEn := true }
     s.pwr.inletOk = true ∧ s.pwr.pwrEn = true ∧ s.pwr.rstLow = false ∧ s.pwr.stage = 0) ∧
    (State.reset.onPwr fun p => { p with rstLow := true }).pwr.rstLow = true := by decide +kernel

theorem witness_BringUpRunsItsStages :
    ([1, 2, 3, 4, 5, 6] : List Nat).all (fun n =>
      let s := { State.reset with pwr := { stage := n, flow := 320, tin := 200, fuse := [(47 * 28 + 27, some 32)] }, mir := { live := n = 2 } }
      decide (s.pwr.fail = 0 ∧ s.pwr.stage = n ∧ s.mir.live = decide (n = 2) ∧ 320 ≤ s.pwr.flow ∧ 200 ≤ s.pwr.tin ∧ s.pwr.tin ≤ 400) &&
      decide (s.pwr.fuse.get none ((46 : Region).val * 28 + (923 : PCore).val / 33) = none ∧ s.pwr.fuse.get none ((47 : Region).val * 28 + (922 : PCore).val / 33) = some 32 ∧ 32 ≠ (922 : PCore).val % 33)) = true ∧
    { State.reset with pwr := { stage := 2 } }.mir.live = false ∧ State.reset.pwr.stage = 0 ∧ 7 ≤ (onPower id).pwr.stage ∧ { State.reset with pwr := { stage := 4, fail := 4 } }.pwr.fail ≠ 0 := by decide +kernel

/-- Link 7 of engine 15 is up, and module 7 is on the other end of its fibre or is not. -/
def withTopology (fibres : Byte) (st : RunState) (inStep : Bool) : State :=
  let s := (withLink { st := .up, peer := some (idFrame fibres) }).onCfg fun c => { c with topoWait := true }
  { s with run := { s.run with st := st, inStep := inStep, limit := 3 } }

theorem witness_LinksAreCheckedBeforeAndDuringService :
    ([(.running, true), (.running, false)] : List (RunState × Bool)).all (fun x =>
      let s := withTopology 0x80 x.1 x.2
      s.cfg.topoWait && s.topologyOk && decide (s.run.inStep = x.2 ∧ s.flt.phase = .none ∧ s.stg.applying = false ∧ s.stg.st ≠ .armed ∧ s.run.st = .running ∧ s.run.stopAsked = false ∧ s.run.crossed = false ∧ s.run.step.toNat ≤ s.run.limit.toNat)) = true ∧
    (withTopology 0x40 .running false).topologyOk = false ∧ (inStep {}).cfg.topoWait = false := by decide +kernel

/-- 2,240,000 symbol errors in the windows of the last second are within the limit of a link, one more is not. -/
theorem witness_LinksAreCheckedBeforeAndDuringService_second :
    ([(2240, 0, false), (2240, 1, true)] : List (Nat × Nat × Bool)).all (fun x =>
      let s := { withLink { st := .up, lanes := [62] } with eng := [(15, { ok := true, lanes := [(62, { st := .service, recent := [2240000 - x.1, x.1 + x.2.1] })], links := [(7, { st := .up, lanes := [62] })] })] }
      (s.marginalLinks.contains 127) == x.2.2) = true := by decide +kernel

/-- The accesses of the host, one of each form. -/
def accesses : List Instr :=
  [.hostQueueCreate 0, .hostQueueDelete 0, .dbProd 512 0, .dbCons 513 0, .bridgeDmaResume 0, .bridgeDmaAbort 0, .consumerIndexWrite 0, .overwriteOldest, .stopAtFull, .clearTheMirror, .guardValueWrite .fence 0,
   .ctlGrdFence 0, .ctlGrdRpwr 0, .ctlGrdPromo 0, .lockBitWrite 0, .ctlClkWrite 0, .fsetWrite 0 0, .grant 0 0, .ctlDbgWrite 0, .registerWrite 0 4 0 false, .clearOnRead 0 4, .windowWrite 0 [1] false, .windowRead 63 1]

theorem witness_TheHostLinkFailsOverOnce_accesses :
    (∀ c ∈ accesses, c.hostAccess) ∧ (State.reset.onPwr fun p => { p with fail := 1 }).pwr.fail = 1 ∧ State.reset.pwr.fail ≠ 1 ∧ State.reset.brg.linkDown = false ∧ State.reset.brg.dead = false :=
  ⟨by
    simp only [accesses, List.forall_mem_cons]
    exact ⟨trivial, trivial, trivial, trivial, trivial, trivial, trivial, trivial, trivial, trivial, trivial, trivial, trivial, trivial, trivial, trivial, trivial, trivial, trivial, trivial, trivial, ⟨by decide, by decide⟩, ⟨by decide, by decide⟩, fun _ h => nomatch h⟩, by decide +kernel⟩

theorem witness_TheHostLinkFailsOverOnce_recovered :
    let s := State.reset.onBrg fun b => { b with linkDown := true, delayed := accesses }
    s.brg.linkDown = true ∧ s.brg.dead = false ∧ (match exec .cxlLinkRecovered s with | .next t => t.brg.delayed.isEmpty && !t.brg.linkDown | _ => false) = true := by decide +kernel

theorem witness_TheHostLinkFailsOverOnce :
    State.reset.brg.spareOk = true ∧ ((inStep {}).onBrg fun b => { b with spareOk := false, dead := true }).brg.spareOk = false := by decide +kernel

/-- A promotion of region 1 to the standby 2. -/
def promo (on ok : Bool) : Promo := { lregion := 1, lost := 1, standby := 2, on := on, courseOk := ok }

theorem witness_RecoveryResumesOnceItsRelocationsAllow :
    (recovering fun f => { f with phase := .restored, repairs := [{ kind := .engine 3 }] }).flt.phase = .restored ∧
    (let s := recovering fun f => { f with phase := .rebuilding, promos := [promo true true] }
     s.flt.phase = .rebuilding ∧ ∀ x ∈ s.flt.promos, x.rebuilt = true ∨ (x.on = true ∧ x.courseOk = true ∧ s.paramsRebuilt x.lregion = true)) ∧
    (let s := recovering fun f => { f with phase := .rebuilding, promos := [promo true false] }
     ∃ x ∈ s.flt.promos, x.rebuilt = false ∧ (x.on = false ∨ x.courseOk = false ∨ s.paramsRebuilt x.lregion = false)) ∧
    (let s := recovering fun f => { f with phase := .restored, snap := some { mb := 1 }, relog := [{ m := 7, sent := false, e := 15, p := {} }] }
     s.flt.snap = some { mb := 1 } ∧ s.flt.relog.length = 1) ∧
    (let s := ((inStepOf (img rcShard {} {} pcShard)).onCfg fun c => { c with readySent := [(0, 0)] }).onFlt fun f => { f with phase := .restored, snap := some {} }
     (0, 0) ∈ s.cfg.readySent ∧ (0, 0) ∉ ({} : Snapshot).ready ∧ (s.shard 0 0).isSome = true) ∧
    (let s := recovering fun f => { f with promos := [promo true true, promo false false] }
     s.flt.promos = [promo true true] ++ promo false false :: [] ∧ (∀ y ∈ [promo true true], y.on = true) ∧ (promo false false).on = false) := by decide +kernel

theorem witness_RecoveryResumesOnceItsRelocationsAllow_moved :
    let s := ((inStepOf (img rcShard {} {} pcShard)).onCfg fun c => { c with readySent := [(0, 0)] }).onFlt fun f => { f with phase := .restored, snap := some {} }
    s.reentrySnap = some {} ∧ (s.onFlt fun f => { f with snap := none }).reentrySnap = none := by decide +kernel

/-- A sheaf of one line of bank 8 in each of eight regions, the first region's being rebuilt at its promoted standby; a chain has passed some survivors. -/
def rebuilding (prot : Bool) (bad : List Nat) (chains : List RebuildChain) : State :=
  let h : Sheaf := ⟨(List.range 8).map fun r => (r, 8, 0), 1⟩
  let a : Area := if prot then .parameter else .exchange
  let s := inStepOf { img {} { prot := prot } {} {} with regions := (List.range 8).map fun r => (r, if r = 0 then { runs := [⟨8, 0, 1, a, false⟩], sheaves := [h] } else { runs := [⟨8, 0, 1, a, false⟩] }) }
  let s := s.onCfg fun c => { c with map := (List.range 8).map fun r => (r, some r) }
  (s.onStore fun q => { q with bad := bad }).onFlt fun f => { f with phase := .rebuilding, promos := [{ lregion := 0, lost := 9, standby := 0, on := true }], chains := chains }

theorem witness_LostLinesAreRebuiltThroughTheirSurvivors :
    ([0, 6] : List Nat).all (fun passed =>
      let c : RebuildChain := { lregion := 0, bank := 8, line := 0, passed := passed, data := [] }
      let s := rebuilding false [] [c]
      match (s.course 0).sheaves[0]? with
      | some h => decide (0 < h.n ∧ s.settled (memberLine h 7 0) = true ∧ s.rebuildTarget h 0 = some (0, 0) ∧ s.othersGone h 0 0 = false ∧
          (s.flt.chains.find? fun c => c.lregion = 0 && c.bank = 8 && c.line = 0) = some c ∧ (((List.range 8).filter (· ≠ 0))[passed]?).isSome = true ∧ s.copyOf 0 8 0 copyMaster = none ∧ s.orcPlace 0 8 0 = none)
      | none => false) = true ∧
    ([false, true] : List Bool).all (fun prot =>
      let c : RebuildChain := { lregion := 0, bank := 8, line := 0, passed := 0, data := [] }
      let s := rebuilding prot [lineKey 1 8 0] [c]
      match (s.course 0).sheaves[0]? with
      | some h => decide (0 < h.n ∧ s.settled (memberLine h 7 0) = true ∧ s.rebuildTarget h 0 = some (0, 0) ∧ s.othersGone h 0 0 = true ∧ s.outerCovered 0 8 0 = prot ∧ s.run.hcause < 5)
      | none => false) = true ∧
    (let s := rebuilding false [] []
     (s.flt.chains.find? fun c => c.lregion = 0 && c.bank = 8 && c.line = 0) = none ∧ s.nextRebuild 0 = some (8, 0) ∧ s.rebuildOrder 0 = [(8, 0)]) ∧
    (let s := inStep { sheaves := [⟨[(0, 8, 0)], 1⟩] }
     s.rebuildTarget ⟨[(0, 8, 0)], 1⟩ 0 = none ∧ (s.course 0).sheaves[0]? = some ⟨[(0, 8, 0)], 1⟩) := by decide +kernel

/-- Two lines of one sheaf are gone, in a module with or without protection: an exchange line takes the job back to its last step boundary, once. -/
theorem witness_LostLinesAreRebuiltThroughTheirSurvivors_gone :
    ([(true, false, 0), (true, true, 0), (true, false, 5), (false, false, 5)] : List (Bool × Bool × Nat)).all (fun x =>
      let c : RebuildChain := { lregion := 0, bank := 8, line := 0, passed := 0, data := [] }
      let s := rebuilding false [lineKey 1 8 0] [c]
      let s := ((s.onCfg fun y => { y with image := y.image.map fun (i : Image) => { i with mode := some { prot := x.1 } } }).onFlt fun f => { f with needLoad := x.2.1 }).onRun fun r => { r with hcause := x.2.2 }
      match (s.course 0).sheaves[0]? with
      | some h => decide (0 < h.n ∧ s.settled (memberLine h 7 0) = true ∧ s.rebuildTarget h 0 = some (0, 0) ∧ s.othersGone h 0 0 = true ∧ areaOf (s.course 0) 8 0 ≠ .parameter ∧ s.modeCourse.prot = x.1 ∧
          s.flt.needLoad = x.2.1 ∧ s.run.hcause = x.2.2)
      | none => false) = true ∧
    (let s := (inStepOf (img { rcShard with sheaves := [⟨(List.range 8).map fun r => (r, 8, 0), 1⟩] } {} {} pcShard)).onFlt fun f => { f with phase := .rebuilding, promos := [{ lregion := 0, lost := 9, standby := 0, on := true }] }
     (s.copyOf 0 8 0 copyMaster).isSome = true ∧ ((s.copyLines 0 ((s.shards 0).getD 0 {}) copyWorking)[0]?).isSome = true) := by decide +kernel

/-- Module 7 is a partner of the outer sheaf; sags that have coincided. -/
def withSags (n : Nat) (lastSag : U64) : State :=
  let s := inStepOf (img {} {} { outer := [⟨1, [7], 8, 0, 0, 0, 1⟩] } {})
  { s with flt := { s.flt with lastSag := lastSag, offsets := [(7, 0)], echoes := [(7, 1, 2)], coinc := (List.range n).map fun k => (7, k, k) } }

theorem witness_SagsAreExchangedAndCorrelated :
    (let s := withSags 0 1000
     (s.flt.echoes.find? fun x => x.1 = 7) = some (7, 1, 2) ∧ s.outerPartners.contains (7 : U16).toNat = true ∧ s.outerPartners.contains (9 : U16).toNat = false) ∧
    ([(0, 1100, true), (1, 900, true), (2, 1000, true), (2, 1101, false)] : List (Nat × Nat × Bool)).all (fun x =>
      let s := withSags x.1 1000
      let sag : U64 := BitVec.ofNat 64 x.2.1
      decide ((s.flt.lastSag ≠ 0 ∧ sag ≠ 0 ∧ ((sag.toNat : Int) - 0 - s.flt.lastSag.toNat).natAbs ≤ 100 ∧ s.flt.coinc.contains (7, sag.toNat, s.flt.lastSag.toNat) = false) ↔ x.2.2 = true) &&
      decide ((s.flt.offsets.find? fun y => y.1 = 7) = some (7, 0) ∧ ((s.flt.coinc.filter fun (y : Nat × Nat × Nat) => decide (s.flt.lastSag.toNat ≤ y.2.2 + 86400000000)) ++ [(7, sag.toNat, s.flt.lastSag.toNat)]).length = x.1 + 1)) = true := by decide +kernel

theorem witness_TheMeterRecordsItsOccasionsAndSealEvents :
    State.reset.meter.lost = false ∧ (43999 : U16).toNat < 44000 ∧ (withMeter { lost := true, seals := [(0, 1)] }).meter.lost = true ∧ State.reset.meter.coverOpen = false ∧ State.reset.meter.session = false ∧
    (withMeter { coverOpen := true }).meter.coverOpen = true ∧ (withMeter { coverOpen := true, session := true }).meter.session = true := by decide +kernel

theorem witness_TheMeterRecordsItsOccasionsAndSealEvents_more :
    (let s := withMeter { time := 900000000 }
     s.meter.time.toNat % 900000000 = 0 ∧ (∀ x ∈ s.meter.occ, x.what ≠ .interval) ∧ s.pending = []) ∧
    (withMeter { time := 900000001 }).meter.time.toNat % 900000000 ≠ 0 ∧ (∃ x ∈ (withMeter { time := 0, occ := [⟨.interval, 0⟩] }).meter.occ, x.what = .interval) ∧
    ([(true, 0), (true, 7), (false, 0)] : List (Bool × Nat)).all (fun x =>
      let s := State.reset.onPwr fun p => { p with inletOk := x.1, stage := x.2 }
      decide (s.pwr.inletOk = x.1 ∧ s.pwr.stage = x.2)) = true := by decide +kernel

theorem witness_DisplaySagsAndMarkersFollowTheirRules :
    20000 < (withMeter { mv := 20001 }).meter.mv ∧ (withMeter { mv := 20000 }).meter.mv ≤ 20000 ∧
    ([(2003, 1997, false), (2004, 1997, true), (-2003, -1997, false), (-2004, -1997, true), (1, -1, true), (0, 0, false)] : List (Int × Int × Bool)).all (fun x =>
      let a : U32 := BitVec.ofInt 32 x.1
      let b : U32 := BitVec.ofInt 32 x.2.1
      decide (3 * (a.toInt + b.toInt).natAbs < 2000 * (a.toInt - b.toInt).natAbs) == x.2.2 && decide (2000 * (a.toInt - b.toInt).natAbs ≤ 3 * (a.toInt + b.toInt).natAbs) == !x.2.2) = true ∧
    (let s := withMeter { runs := [(48000, 1000000)] }
     s.meter.sagLimit = 43200 ∧ (43199 : U16).toNat < s.meter.sagLimit ∧ s.meter.sagLimit ≤ (43200 : U16).toNat ∧ s.meter.sag = none) ∧
    ([([(44200, 99)], false, 99), ([(44200, 100)], true, 100), ([(44100, 1), (48000, 99)], false, 100), ([(48000, 100), (1000, 5)], true, 105)] : List (List (Nat × Nat) × Bool × Nat)).all (fun x =>
      let s := withMeter { runs := x.1, sag := some 5 }
      let vs := s.meter.runs.flatMap fun y => List.replicate y.2 y.1
      decide (vs.length = x.2.2) && (x.2.1 == (decide (100 ≤ vs.length) && (vs.take 100).all fun v => decide (s.meter.sagLimit + 1000 ≤ v)))) = true ∧
    State.reset.meter.sag = none ∧ (withMeter { sag := some 5 }).meter.sag ≠ none ∧ State.reset.mir.markers[0]? = none ∧
    ([(some (1, 0), false), (none, true), (none, false)] : List (Option (U32 × BitVec 192) × Bool)).all (fun x =>
      let s := { withMeter { accepted := x.1, window := x.2 } with mir := { markers := [⟨1, 0, 5⟩] } }
      decide (s.mir.markers[0]? = some ⟨1, 0, 5⟩ ∧ s.meter.window = x.2) && (decide (s.meter.accepted = some (1, 0)) == x.1.isSome)) = true ∧
    (withMeter { heldM := some ⟨2, 0, 6⟩, merges := 3 }).meter.heldM = some ⟨2, 0, 6⟩ ∧ State.reset.meter.heldM = none := by decide +kernel

/-- The mirror holds a record in each of slots 0 and 1. -/
def withMirror (m : MirrorSt) : State := { State.reset with mir := m }

theorem witness_TheExportLinkFillsTheMirror :
    State.reset.meter.recs = [] ∧
    (let s := withMeter { recs := [(0, 0)] }
     1 = min s.meter.recs.length 4096 ∧ s.meter.recs[s.meter.recs.length - 1 + s.meter.backfill % 1]? = some (0, 0)) ∧
    State.reset.mir.frames[0]? = none ∧
    ([.status 1 2 3 5 4, .record 0, .sag 1 2 3, .identity 1 2 3 4, .bad] : List ExportFrame).all (fun f => decide ((withMirror { frames := [f] }).mir.frames[0]? = some f)) = true ∧
    (let m : MirrorSt := { frames := [.record 0], recs := [(0, some (0, 0))] }
     m.held (recSeq 0) = some 0) ∧
    (let m : MirrorSt := { frames := [.record 0] }
     m.held (recSeq 0) ≠ some 0 ∧ m.pub = none) ∧
    (let m : MirrorSt := { frames := [.record 0], stopFull := true, recs := [(0, some (32768, 0))], newest := 32768 }
     m.stopFull = true ∧ m.held (recSeq 0) ≠ some 0 ∧ m.recs.get none (recSeq 0 % 32768) = some (32768, 0) ∧ m.newest.toNat ≤ 32768 + 32768) ∧
    State.reset.mir.live = false ∧ (withMirror { live := true }).mir.live = true := by decide +kernel

/-- Of every key and record that verifies under it, a mirror without neighbours takes the record. -/
theorem witness_TheExportLinkFillsTheMirror_joins (key : Nat) (r : MeterRec)
    (h : Sys2Proof.Machine.ed448Verify (leBytes 57 key) meterContext ((leBytes 256 r.toNat).take 0x8E) ((leBytes 256 r.toNat).drop 0x8E) = true) :
    let m : MirrorSt := { frames := [.record r], pub := some key }
    m.held (recSeq r) ≠ some r ∧ (∃ k, m.pub = some k ∧ Sys2Proof.Machine.ed448Verify (leBytes 57 k) meterContext ((leBytes 256 r.toNat).take 0x8E) ((leBytes 256 r.toNat).drop 0x8E) = true) ∧
      (∀ p, m.held (recSeq r - 1) = some p → recSeq r = 0 ∨ recPrev r = recDigest p) ∧ (∀ n, m.held (recSeq r + 1) = some n → recPrev n = recDigest r) ∧
      ¬ (m.stopFull = true ∧ ∃ n p, m.recs.get none (recSeq r % 32768) = some (n, p) ∧ m.newest.toNat ≤ n + 32768) :=
  have hz (n : Nat) : MirrorSt.held { frames := [.record r], pub := some key } n = none := rfl
  ⟨fun e => absurd ((hz _).symm.trans e) (Option.some_ne_none _).symm, ⟨key, rfl, h⟩, fun _ e => absurd ((hz _).symm.trans e) (Option.some_ne_none _).symm, fun _ e => absurd ((hz _).symm.trans e) (Option.some_ne_none _).symm, fun e => Bool.noConfusion e.1⟩

/-- Such a key and record: with the neutral point as key and first half of the signature, and 0 as its second, both sides of the equation are the neutral point. -/
theorem witness_TheExportLinkFillsTheMirror_verifies :
    let r : Nat := 2 ^ (8 * 0x8E)
    Sys2Proof.Machine.ed448Verify (leBytes 57 1) meterContext ((leBytes 256 r).take 0x8E) ((leBytes 256 r).drop 0x8E) = true := by decide +kernel

/-- A module with one command waiting. -/
def waiting (c : Instr) : State := { State.reset with pending := [c] }

theorem witness_AStepRunsTheFrontCommand :
    (waiting .coolantLimit).pending = [.coolantLimit] ∧ State.reset.pending = [] ∧ State.reset.meter.live = true ∧ (withMeter { live := false }).meter.live = false ∧
    (match exec .coolantLimit State.reset with | .next t => decide (t.pending = State.reset.pending) | _ => false) = true := by decide +kernel

/-- A microsecond of an idle module in its first and its last of a second, with MOD_RST_N low and the inlet there, with nothing and with writes gathered. -/
theorem witness_AStepRunsTheFrontCommand_tick :
    State.reset.pending = [] ∧ State.reset.brg.gather = [] ∧ State.reset.flt.outerDue = [] ∧
    (let s := State.reset.onPwr fun p => { p with rstLow := true, pwrEn := true, inletOk := true }
     s.pwr.rstLow = true ∧ s.pwr.pwrEn = true ∧ s.pwr.inletOk = true ∧ s.pwr.stage = 0 ∧ s.pending = []) ∧
    (withMeter { time := 0 }).meter.live = true ∧ ((withMeter { time := 0 }).meter.time + 1).toNat % 1000000 ≠ 0 ∧
    (let s := withMeter { time := 999999, mv := 48000, ia := 1000, ib := 1000 }
     let w : Int := s.meter.mv * (s.meter.ia + s.meter.ib)
     s.meter.live = true ∧ (s.meter.time + 1).toNat % 1000000 = 0 ∧ (s.meter.sumV + s.meter.mv) / (s.meter.sumN + 1) / 10 < 2 ^ 16 ∧ ((s.meter.sumP + w) / ((s.meter.sumN + 1) * 2000000)).toNat < 2 ^ 32) := by decide +kernel

theorem witness_CoreIndicesFollowRowsAndColumns :
    (let s := inStep {}
     27 < 28 ∧ s.flt.fences.get none (47 * 28 + 27) = none ∧ 895 < 896 ∧ 923 < 924 ∧ s.lcore 47 922 = some 895) ∧
    (let s := recovering fun f => { f with fences := [(47 * 28 + 27, some 0)] }
     (∀ f ∈ s.flt.fences.get none (47 * 28 + 895 / 32), f ≤ 32) ∧ s.lcore 47 923 = some 895) := by decide +kernel

theorem witness_RingReadsCopyFromTheConsumerIndex :
    hdr.cid ≠ 0xFFFF ∧ 1 ≤ (4096 : U16).toNat ∧ (4096 : U16).toNat ≤ 4096 ∧ (0xFFFFFFFFFFFE0000 : U64).toNat % 64 = 0 ∧ (0xFFFFFFFFFFFE0000 : U64).toNat + 32 * (4096 : U16).toNat ≤ 2 ^ 64 ∧ ((1 : Byte) = 0 ∨ (1 : Byte) = 1) := by decide +kernel

theorem witness_EveryStepKeepsTheMemoriesCanonical : ∃ s t : State, s.memWf ∧ step s = .next t ∧ s.host ≠ [] :=
  ⟨(waiting .coolantLimit).writeHost 5 [1], _, ⟨by decide +kernel, by decide +kernel, by decide +kernel, by decide +kernel⟩, rfl, by decide +kernel⟩

theorem witness_EveryStepKeepsTheMeterChain : ∃ s t : State, s.meter.chained ∧ step s = .next t ∧ s.meter.recs = [(0, 0)] :=
  ⟨{ waiting .coolantLimit with meter := { recs := [(0, 0)] } }, _, ⟨by decide, by decide +kernel, by decide +kernel, fun i x y h g => by
    match i with
    | 0 => simp at g
    | n + 1 => simp at h⟩, rfl, rfl⟩

theorem witness_NothingElseReachesTheMeter :
    (¬ Instr.coolantLimit.ofMeter ∧ ∃ t, exec .coolantLimit State.reset = .next t) ∧ (∃ t, exec .markerHoldEnd State.reset = .next t) ∧ ∃ t, exec (.markerReceipt 0 true) State.reset = .next t :=
  ⟨⟨id, _, rfl⟩, ⟨_, rfl⟩, ⟨_, rfl⟩⟩

theorem witness_NothingElseReachesTheMeter_tick : ∃ t, exec (.governorTick ⟨48000, 0, 48000, 0, 0⟩) State.reset = .next t := ⟨_, rfl⟩

/-! Values the manual works out. -/

def p2 (m : Nat) (e : Int) : Fp := .fin false m e

/-- Chapter 2, small terms beside a large one in binary16: the chunk sum is exactly 1,024. -/
theorem test_chunk_drops_terms_below_its_window :
    accumulate 0 (chunkSum (p2 1 10 :: List.replicate 31 (p2 3 (-18)))).1 = (0x44800000, false, false) := by decide +kernel

/-- Chapter 2, truncation of the largest product's neighbours in binary32: 1 + 7 x 2^-26 rounds to 1 + 2^-23. -/
theorem test_chunk_rounds_once :
    accumulate 0 (chunkSum (p2 1 0 :: List.replicate 7 (p2 7 (-28)))).1 = (0x3F800001, false, false) := by decide +kernel

/-- Chapter 3, one element's place: element (5, 13) of a binary16 block is at byte 394 of its image. -/
theorem test_element_place : elemOff false 5 13 = 394 := by decide +kernel

/-- Chapter 7, updates smaller than a working ulp: the working copy of 0x3DCCCCCD is 0x2E66. -/
theorem test_working_copy : convert b32 b16 0x3DCCCCCD = (0x2E66, false) := by decide +kernel

/-- Chapter 8, the first AdamW update of one parameter. -/
theorem test_first_adamw_update :
    let g : Group := { recipe := 2, decay := 2, biasc := true, b1 := 0x3F600000, b2 := 0x3F700000, eps := 0x322BCC77, lambda := 0x3D800000, lrmul := 0x3F800000 }
    let o := updateParam g (pressConst g (p2 1 (-10)) 1 16 fpOne) fpOne { w := p2 2 0, m := fpZero, v := fpZero, r := fpZero, g := p2 32768 0 }
    o.w = 0x3FFFDC00 ∧ o.m = 0x3D800000 ∧ o.v = 0x3C800000 ∧ convert b32 b16 o.w = (0x3FFF, false) ∧ o.nfo = false := by decide +kernel

/-- Chapter 16, fencing a suspect core: the pair of 0x00004D51 and its complement fences core 309 of region 17; 0x0000B2AE is discarded with code 2. -/
theorem test_fence_pair :
    let s := ((onPower id).onCfg fun c => { c with map := [(0, some 0), (1, some 17)] }).onReg 17 fun _ => lit
    (match exec (.registerWrite 0x1000 4 0x4D51 false) s with
     | .next t => decide (t.grd.pending = some (.fence, 0x4D51)) && (match exec (.ctlGrdFence 0xFFFFB2AE) t, exec (.ctlGrdFence 0xB2AE) t with
       | .next u, .next v => decide (u.grd.code = 0 ∧ v.grd.code = 2) && decide (v.bat.faults = []) &&
           (u.flt.dead.contains (17 * 924 + 309) || u.bat.faults.any fun f => match f.kind with | .core q c _ => decide (q.val = 17 ∧ c.val = 309) | _ => false)
       | _, _ => false)
     | _ => false) = true := by decide +kernel

end Sys2Proof.Tests
end

section
/-! The meter stands apart: which commands reach it, and that none changes its energy registers (R23, R376, R379). -/

namespace Sys2Proof.Machine

/-! Commands that are not the meter's own (R23, R376). -/

/-- Where a command answers a next state, the meter is as it was. -/
def sparesMeter (s : State) (a : Ans) : Prop := ∀ t, a = .next t → t.meter = s.meter

theorem spares_of_within {l : List Part} {s : State} {a : Ans} (h : answersWithin l s a) (n : Part.meter ∉ l) : sparesMeter s a :=
  fun t e => onlyChanges_meter (h t e) n

/-- The frame of every command that is not the meter's own leaves the meter out. -/
theorem exec_spares_meter (c : Instr) (s : State) (h : ¬ c.ofMeter) : sparesMeter s (exec c s) := by
  cases c with
  | identify => exact spares_of_within (execIdentify_within _ _ _) (by decide)
  | attest => exact spares_of_within (execAttest_within _ _ _ _ _) (by decide)
  | healthRead => exact spares_of_within (execHealthRead_within _ _ _ _ _ _) (by decide)
  | linkStatus => exact spares_of_within (execLinkStatus_within _ _ _ _) (by decide)
  | imageStage => exact spares_of_within (execImageStage_within _ _ _ _ _) (by decide)
  | reshard => exact spares_of_within (execReshard_within _ _ _ _ _) (by decide)
  | imageCheck => exact spares_of_within (execImageCheck_within _ _) (by decide)
  | imageCheckEnd => exact spares_of_within (execImageCheckEnd_within _) (by decide)
  | imageArm => exact spares_of_within (execImageArm_within _ _ _ _ _) (by decide)
  | imageAbandon => exact spares_of_within (execImageAbandon_within _ _) (by decide)
  | stepRun => exact spares_of_within (execStepRun_within _ _ _) (by decide)
  | stepHold => exact spares_of_within (execStepHold_within _ _ _) (by decide)
  | batchFeed => exact spares_of_within (execBatchFeed_within _ _ _) (by decide)
  | computeReset => exact spares_of_within (execComputeReset_within _ _) (by decide)
  | paramRead => exact spares_of_within (execParamRead_within _ _ _ _ _ _ _ _) (by decide)
  | paramWrite => exact spares_of_within (execParamWrite_within _ _ _ _ _ _ _ _) (by decide)
  | checkpointExport => exact spares_of_within (execCheckpointExport_within _ _ _ _ _ _) (by decide)
  | checkpointImport => exact spares_of_within (execCheckpointImport_within _ _ _ _ _ _) (by decide)
  | partnerSet => exact spares_of_within (execPartnerSet_within _ _ _) (by decide)
  | feedDomainSet => exact spares_of_within (execFeedDomainSet_within _ _ _ _) (by decide)
  | numericRingRead => exact spares_of_within (execNumericRingRead_within _ _ _ _ _) (by decide)
  | meterMirrorRead => exact spares_of_within (execMeterMirrorRead_within _ _ _ _ _) (by decide)
  | keyEnrol => exact spares_of_within (execKeyEnrol_within _ _ _ _) (by decide)
  | lock => exact spares_of_within (execLock_within _ _ _) (by decide)
  | commandFetch => exact spares_of_within (execCommandFetch_within _) (by decide)
  | laneCommandStart => exact spares_of_within (execLaneCommandStart_within _) (by decide)
  | commandTimeout => exact spares_of_within (execCommandTimeout_within _ _) (by decide)
  | completionEntryWrite => exact spares_of_within (execCompletionEntryWrite_within _ _) (by decide)
  | msiXCoalesceTimeout => exact spares_of_within (execMsiXCoalesceTimeout_within _ _) (by decide)
  | hostQueueCreate => exact spares_of_within (execHostQueueCreate_within _ _) (by decide)
  | hostQueueDelete => exact spares_of_within (execHostQueueDelete_within _ _) (by decide)
  | dbProd => exact spares_of_within (execDbProd_within _ _ _) (by decide)
  | dbCons => exact spares_of_within (execDbCons_within _ _ _) (by decide)
  | headerLineReread => exact spares_of_within (execHeaderLineReread_within _ _) (by decide)
  | bridgeDmaResume => exact spares_of_within (execBridgeDmaResume_within _ _) (by decide)
  | bridgeDmaAbort => exact spares_of_within (execBridgeDmaAbort_within _ _) (by decide)
  | consumerIndexWrite => exact spares_of_within (execConsumerIndexWrite_within _ _) (by decide)
  | overwriteOldest => exact spares_of_within (execOverwriteOldest_within _) (by decide)
  | stopAtFull => exact spares_of_within (execStopAtFull_within _) (by decide)
  | clearTheMirror => exact spares_of_within (execClearTheMirror_within _) (by decide)
  | guardValueWrite => exact spares_of_within (execGuardValueWrite_within _ _ _) (by decide)
  | ctlGrdFence => exact spares_of_within (execCtlGrdFence_within _ _) (by decide)
  | ctlGrdRpwr => exact spares_of_within (execCtlGrdRpwr_within _ _) (by decide)
  | ctlGrdPromo => exact spares_of_within (execCtlGrdPromo_within _ _) (by decide)
  | guardConfirmTimeout => exact spares_of_within (execGuardConfirmTimeout_within _) (by decide)
  | lockBitWrite => exact spares_of_within (execLockBitWrite_within _ _) (by decide)
  | ctlClkWrite => exact spares_of_within (execCtlClkWrite_within _ _) (by decide)
  | fsetWrite => exact spares_of_within (execFsetWrite_within _ _ _) (by decide)
  | grant => exact spares_of_within (execGrant_within _ _ _) (by decide)
  | ctlDbgWrite => exact spares_of_within (execCtlDbgWrite_within _ _) (by decide)
  | registerWrite => exact spares_of_within (execRegisterWrite_within _ _ _ _ _) (by decide)
  | clearOnRead => exact spares_of_within (execClearOnRead_within _ _ _) (by decide)
  | managementBusWrite => exact spares_of_within (execManagementBusWrite_within _ _ _) (by decide)
  | managementBusClockStuck => exact spares_of_within (execManagementBusClockStuck_within _) (by decide)
  | windowWrite => exact spares_of_within (execWindowWrite_within _ _ _ _) (by decide)
  | windowRead => exact spares_of_within (execWindowRead_within _ _ _) (by decide)
  | tileOperationIssue => exact spares_of_within (execTileOperationIssue_within _ _ _) (by decide)
  | tileDrain => exact spares_of_within (execTileDrain_within _ _ _) (by decide)
  | vectorChainIssue => exact spares_of_within (execVectorChainIssue_within _ _ _) (by decide)
  | vectorChainComplete => exact spares_of_within (execVectorChainComplete_within _ _ _) (by decide)
  | put => exact spares_of_within (execPut_within _ _ _) (by decide)
  | get => exact spares_of_within (execGet_within _ _ _) (by decide)
  | reduceAdd => exact spares_of_within (execReduceAdd_within _ _ _) (by decide)
  | reduceMax => exact spares_of_within (execReduceMax_within _ _ _) (by decide)
  | reduceXor => exact spares_of_within (execReduceXor_within _ _ _) (by decide)
  | compareAndSwap => exact spares_of_within (execCompareAndSwap_within _ _ _) (by decide)
  | wait => exact spares_of_within (execWait_within _ _ _) (by decide)
  | emit => exact spares_of_within (execEmit_within _ _ _) (by decide)
  | launch => exact spares_of_within (execLaunch_within _ _ _) (by decide)
  | loop => exact spares_of_within (execLoop_within _ _ _) (by decide)
  | endProg => exact spares_of_within (execEndProg_within _ _ _) (by decide)
  | remoteOperationApply => exact spares_of_within (execRemoteOperationApply_within _ _) (by decide)
  | getDataArrival => exact spares_of_within (execGetDataArrival_within _ _ _) (by decide)
  | putAcknowledgement => exact spares_of_within (execPutAcknowledgement_within _ _ _) (by decide)
  | compareAndSwapResult => exact spares_of_within (execCompareAndSwapResult_within _ _ _) (by decide)
  | emitArrival => exact spares_of_within (execEmitArrival_within _ _) (by decide)
  | launchArrival => exact spares_of_within (execLaunchArrival_within _ _ _) (by decide)
  | beatTableEntry => exact spares_of_within (execBeatTableEntry_within _ _ _ _) (by decide)
  | packetForward => exact spares_of_within (execPacketForward_within _ _ _ _) (by decide)
  | configurationWrite => exact spares_of_within (execConfigurationWrite_within _ _ _ _ _) (by decide)
  | configurationReadRequest => exact spares_of_within (execConfigurationReadRequest_within _ _ _ _) (by decide)
  | configurationReadResponse => exact spares_of_within (execConfigurationReadResponse_within _ _) (by decide)
  | numericRecord => exact spares_of_within (execNumericRecord_within _ _) (by decide)
  | numericRecordExpiry => exact spares_of_within (execNumericRecordExpiry_within _ _) (by decide)
  | microBatchReport => exact spares_of_within (execMicroBatchReport_within _ _) (by decide)
  | holdToken => exact spares_of_within (execHoldToken_within _ _) (by decide)
  | holdReached => exact spares_of_within (execHoldReached_within _) (by decide)
  | endOfStepReport => exact spares_of_within (execEndOfStepReport_within _ _) (by decide)
  | stepCommit => exact spares_of_within (execStepCommit_within _) (by decide)
  | commitToken => exact spares_of_within (execCommitToken_within _ _) (by decide)
  | contributionArrival => exact spares_of_within (execContributionArrival_within _ _) (by decide)
  | shardUpdate => exact spares_of_within (execShardUpdate_within _ _ _) (by decide)
  | shardSum => exact spares_of_within (execShardSum_within _ _ _) (by decide)
  | normRecordSend => exact spares_of_within (execNormRecordSend_within _) (by decide)
  | normRecordArrival => exact spares_of_within (execNormRecordArrival_within _ _) (by decide)
  | normExchangeComplete => exact spares_of_within (execNormExchangeComplete_within _) (by decide)
  | normExchangeTimeout => exact spares_of_within (execNormExchangeTimeout_within _ _) (by decide)
  | heldShardUpdate => exact spares_of_within (execHeldShardUpdate_within _ _ _) (by decide)
  | fingerprintArrival => exact spares_of_within (execFingerprintArrival_within _ _ _ _ _ _) (by decide)
  | fingerprintTimeout => exact spares_of_within (execFingerprintTimeout_within _ _ _ _) (by decide)
  | stampRefresh => exact spares_of_within (execStampRefresh_within _ _) (by decide)
  | deltaPacketArrival => exact spares_of_within (execDeltaPacketArrival_within _ _) (by decide)
  | scrub => exact spares_of_within (execScrub_within _ _ _ _ _) (by decide)
  | lineRecovered => exact spares_of_within (execLineRecovered_within _ _ _ _) (by decide)
  | dramRowRemap => exact spares_of_within (execDramRowRemap_within _ _ _ _) (by decide)
  | orchardRowPrepare => exact spares_of_within (execOrchardRowPrepare_within _ _ _ _) (by decide)
  | orchardFillComplete => exact spares_of_within (execOrchardFillComplete_within _ _ _ _) (by decide)
  | orchardFillTimeout => exact spares_of_within (execOrchardFillTimeout_within _ _ _ _) (by decide)
  | flashDieLost => exact spares_of_within (execFlashDieLost_within _ _) (by decide)
  | descriptorFetch => exact spares_of_within (execDescriptorFetch_within _ _) (by decide)
  | descriptorRun => exact spares_of_within (execDescriptorRun_within _ _) (by decide)
  | dmaReadRequest => exact spares_of_within (execDmaReadRequest_within _ _) (by decide)
  | dmaReadData => exact spares_of_within (execDmaReadData_within _ _) (by decide)
  | dmaWriteArrival => exact spares_of_within (execDmaWriteArrival_within _ _) (by decide)
  | dmaWriteAcknowledgement => exact spares_of_within (execDmaWriteAcknowledgement_within _ _) (by decide)
  | descriptorComplete => exact spares_of_within (execDescriptorComplete_within _ _) (by decide)
  | hostCompletionTimeout => exact spares_of_within (execHostCompletionTimeout_within _ _) (by decide)
  | moveBegin => exact spares_of_within (execMoveBegin_within _ _ _) (by decide)
  | moveComplete => exact spares_of_within (execMoveComplete_within _ _ _) (by decide)
  | lanePowerInRange => exact spares_of_within (execLanePowerInRange_within _ _ _) (by decide)
  | receiverOverPower => exact spares_of_within (execReceiverOverPower_within _ _ _) (by decide)
  | trainingWord => exact spares_of_within (execTrainingWord_within _ _ _ _) (by decide)
  | laneStateTimeout => exact spares_of_within (execLaneStateTimeout_within _ _ _) (by decide)
  | codewordLock => exact spares_of_within (execCodewordLock_within _ _ _) (by decide)
  | measureEnd => exact spares_of_within (execMeasureEnd_within _ _ _ _ _) (by decide)
  | errorWindowEnd => exact spares_of_within (execErrorWindowEnd_within _ _ _ _ _) (by decide)
  | lossOfCodewordLock => exact spares_of_within (execLossOfCodewordLock_within _ _ _) (by decide)
  | laneChangePoint => exact spares_of_within (execLaneChangePoint_within _ _ _ _) (by decide)
  | linkAlign => exact spares_of_within (execLinkAlign_within _ _ _ _) (by decide)
  | identityFrame => exact spares_of_within (execIdentityFrame_within _ _ _ _) (by decide)
  | identifyTimeout => exact spares_of_within (execIdentifyTimeout_within _ _ _) (by decide)
  | frameReceipt => exact spares_of_within (execFrameReceipt_within _ _ _ _) (by decide)
  | linkReplayTimeout => exact spares_of_within (execLinkReplayTimeout_within _ _ _) (by decide)
  | transportPacketAccept => exact spares_of_within (execTransportPacketAccept_within _ _ _) (by decide)
  | transportAcknowledgement => exact spares_of_within (execTransportAcknowledgement_within _ _ _) (by decide)
  | transportRetransmission => exact spares_of_within (execTransportRetransmission_within _ _ _ _) (by decide)
  | engineLoss => exact spares_of_within (execEngineLoss_within _ _) (by decide)
  | beaconSend => exact spares_of_within (execBeaconSend_within _ _ _) (by decide)
  | beaconReceipt => exact spares_of_within (execBeaconReceipt_within _ _ _ _) (by decide)
  | beaconMiss => exact spares_of_within (execBeaconMiss_within _ _ _) (by decide)
  | applyToken => exact spares_of_within (execApplyToken_within _ _) (by decide)
  | regionLoadComplete => exact spares_of_within (execRegionLoadComplete_within _ _ _) (by decide)
  | goToken => exact spares_of_within (execGoToken_within _) (by decide)
  | liveSignalTimeout => exact spares_of_within (execLiveSignalTimeout_within _ _ _) (by decide)
  | operationDeadline => exact spares_of_within (execOperationDeadline_within _ _ _ _) (by decide)
  | quiescenceWatchdog => exact spares_of_within (execQuiescenceWatchdog_within _) (by decide)
  | partnerLoss => exact spares_of_within (execPartnerLoss_within _ _) (by decide)
  | illegalOperationReport => exact spares_of_within (execIllegalOperationReport_within _ _ _) (by decide)
  | faultReport => exact spares_of_within (execFaultReport_within _ _) (by decide)
  | regionSupplyTrip => exact spares_of_within (execRegionSupplyTrip_within _ _) (by decide)
  | lockstepDivergence => exact spares_of_within (execLockstepDivergence_within _) (by decide)
  | configurationParityScrub => exact spares_of_within (execConfigurationParityScrub_within _ _) (by decide)
  | rewind => exact spares_of_within (execRewind_within _ _) (by decide)
  | rewindQuiescent => exact spares_of_within (execRewindQuiescent_within _) (by decide)
  | drainTimeout => exact spares_of_within (execDrainTimeout_within _) (by decide)
  | resumeToken => exact spares_of_within (execResumeToken_within _) (by decide)
  | standbyPowered => exact spares_of_within (execStandbyPowered_within _) (by decide)
  | rebuildChainStep => exact spares_of_within (execRebuildChainStep_within _ _ _ _) (by decide)
  | replayStart => exact spares_of_within (execReplayStart_within _) (by decide)
  | commitPointReport => exact spares_of_within (execCommitPointReport_within _ _) (by decide)
  | snapshotSettled => exact spares_of_within (execSnapshotSettled_within _) (by decide)
  | sagExchangeSend => exact spares_of_within (execSagExchangeSend_within _) (by decide)
  | sagExchangeRecord => exact spares_of_within (execSagExchangeRecord_within _ _) (by decide)
  | pllLocked => exact spares_of_within (execPllLocked_within _ _) (by decide)
  | pllLockTimeout => exact spares_of_within (execPllLockTimeout_within _ _) (by decide)
  | powerFail => exact spares_of_within (execPowerFail_within _ _) (by decide)
  | overVoltage => exact spares_of_within (execOverVoltage_within _ _) (by decide)
  | absoluteOverVoltage => exact spares_of_within (execAbsoluteOverVoltage_within _ _) (by decide)
  | inletRestored => exact spares_of_within (execInletRestored_within _ _) (by decide)
  | thermalDutyTick => exact spares_of_within (execThermalDutyTick_within _ _ _) (by decide)
  | junctionTrip => exact spares_of_within (execJunctionTrip_within _ _) (by decide)
  | coolantSample => exact spares_of_within (execCoolantSample_within _ _ _ _ _ _) (by decide)
  | coolantLimit => exact spares_of_within (execCoolantLimit_within _) (by decide)
  | pwrEnHigh => exact spares_of_within (execPwrEnHigh_within _) (by decide)
  | pwrEnLow => exact spares_of_within (execPwrEnLow_within _) (by decide)
  | modRstN => exact spares_of_within (execModRstN_within _) (by decide)
  | rstgl => exact spares_of_within (execRstgl_within _) (by decide)
  | bringUpStageEnd => exact spares_of_within (execBringUpStageEnd_within _ _ _) (by decide)
  | bringUpStageTimeout => exact spares_of_within (execBringUpStageTimeout_within _ _) (by decide)
  | topologyCheckPass => exact spares_of_within (execTopologyCheckPass_within _) (by decide)
  | topologyTimeout => exact spares_of_within (execTopologyTimeout_within _) (by decide)
  | linkErrorCheck => exact spares_of_within (execLinkErrorCheck_within _) (by decide)
  | bridgeControllerFailover => exact spares_of_within (execBridgeControllerFailover_within _) (by decide)
  | cxlLinkRecovered => exact spares_of_within (execCxlLinkRecovered_within _) (by decide)
  | statusFrame => exact spares_of_within (execStatusFrame_within _) (by decide)
  | identityFrameExport => exact spares_of_within (execIdentityFrameExport_within _) (by decide)
  | exportFrameReceipt => exact spares_of_within (execExportFrameReceipt_within _ _ _) (by decide)
  | exportLost => exact spares_of_within (execExportLost_within _) (by decide)
  | ideKmOverDoe => exact spares_of_within (execIdeKmOverDoe_within _ _) (by decide)
  | _ => exact absurd trivial h

/-! The energy registers (R379). -/

/-- Both energy registers. -/
def MeterSt.energy (m : MeterSt) : Nat × Nat := (m.eimp, m.erev)

/-- Where a command answers a next state, the meter's energy registers are as they were. -/
def sparesEnergy (s : State) (a : Ans) : Prop := ∀ t, a = .next t → t.meter.energy = s.meter.energy

theorem energy_next {s u : State} (h : u.meter.energy = s.meter.energy) : sparesEnergy s (.next u) := fun _ e => Host.Outcome.next.inj e ▸ h

theorem energy_ite {s : State} {a b : Ans} {c : Prop} [Decidable c] (h : sparesEnergy s a) (g : sparesEnergy s b) : sparesEnergy s (if c then a else b) := by
  split <;> assumption

theorem energy_of_spares {s : State} {a : Ans} (h : sparesMeter s a) : sparesEnergy s a := fun t e => congrArg MeterSt.energy (h t e)

theorem sealEvent_energy (m : MeterSt) (evt : Nat) : (m.sealEvent evt).energy = m.energy := by
  unfold MeterSt.sealEvent
  dsimp only
  split <;> rfl

theorem inletLost_meter (s : State) (mv : U16) : (s.inletLost mv).meter = s.meter := onlyChanges_meter (inletLost_changes s mv) (by decide)

theorem foldl_export_meter (l : List (Nat × MeterRec)) (s : State) : (l.foldl (fun s r => s.export_ (.record r.2)) s).meter = s.meter :=
  onlyChanges_meter (foldl_changes [.mir] _ (fun u r => export__changes u (.record r.2)) l s) (by decide)

theorem execMeterStart_energy (s : State) : sparesEnergy s (execMeterStart s) :=
  energy_next ((congrArg MeterSt.energy (foldl_export_meter _ _)).trans rfl)

theorem execUnseated_energy (s : State) : sparesEnergy s (execUnseated s) := by
  unfold execUnseated
  extract_lets live u
  have sealed : u.meter.energy = s.meter.energy := by
    simp only [u, State.onMeter_meter]
    split <;> exact sealEvent_energy _ 2
  refine energy_next ?_
  split
  · rw [inletLost_meter, sealed]
  · exact sealed

theorem sendAgain_energy (s : State) (n : Nat) (r : MeterRec) : (s.sendAgain n r).meter.energy = s.meter.energy := rfl

theorem execBackfill_energy (s : State) : sparesEnergy s (execBackfill s) := by
  unfold execBackfill
  split
  · exact energy_next rfl
  · exact energy_next (sendAgain_energy ..)

theorem execMarkerReceipt_energy (i : Nat) (ok : Bool) (s : State) : sparesEnergy s (execMarkerReceipt i ok s) := by
  unfold execMarkerReceipt
  split
  · exact energy_next rfl
  · exact energy_ite (energy_next rfl) (energy_ite (energy_next rfl) (energy_next rfl))

theorem execMarkerHoldEnd_energy (s : State) : sparesEnergy s (execMarkerHoldEnd s) := by
  unfold execMarkerHoldEnd
  split <;> exact energy_next rfl

/-! A millisecond's readings (R376, R379). -/

/-- What the governor does with a reading reaches no further into the meter than the reading itself. -/
theorem execGovernorTick_meter (x : InletReading) (s t : State) (h : execGovernorTick x s = .next t) : t.meter = (s.takeReading x).meter := by
  unfold execGovernorTick at h
  extract_lets u watts above under stuck y v w at h
  have alerted : w.meter = u.meter := by
    simp only [w]
    split <;> rfl
  split at h
  · split at h
    · obtain rfl := Host.Outcome.next.inj h
      rw [onlyChanges_meter (quiesceNow_changes _) (by decide), alerted]
    · obtain rfl := Host.Outcome.next.inj h
      rw [onlyChanges_meter (setDuties_changes _) (by decide), alerted]
  · obtain rfl := Host.Outcome.next.inj h
    rfl

/-- A reading changes the present samples, what they show of the channels, and the display's image. -/
theorem takeReading_meter (x : InletReading) (s : State) :
    (s.takeReading x).meter = s.meter ∨ (s.takeReading x).meter = s.meter.sample x.meterMv.toNat x.chanA x.chanB := by
  unfold State.takeReading
  extract_lets u
  split
  · exact Or.inr rfl
  · exact Or.inl rfl

theorem execGovernorTick_energy (x : InletReading) (s : State) : sparesEnergy s (execGovernorTick x s) := by
  intro t h
  rw [execGovernorTick_meter x s t h]
  obtain e | e := takeReading_meter x s <;> rw [e]
  rfl

/-- The meter's own commands leave its energy registers alone: they move with meter time. -/
theorem exec_spares_energy (c : Instr) (s : State) : sparesEnergy s (exec c s) := by
  by_cases h : c.ofMeter
  · cases c with
    | intervalRecord => exact energy_ite (energy_next rfl) (energy_next rfl)
    | meterPowerLost => exact energy_ite (energy_next rfl) (energy_next rfl)
    | meterPowerRestored => exact energy_ite (energy_next rfl) (energy_next rfl)
    | meterStart => exact execMeterStart_energy s
    | coverOpened => exact energy_ite (energy_next rfl) (energy_next (sealEvent_energy _ 0))
    | coverClosed => exact energy_ite (energy_next rfl) (energy_next (sealEvent_energy _ 1))
    | unseated => exact execUnseated_energy s
    | seated => exact energy_next (sealEvent_energy _ 3)
    | serviceSessionBegin => exact energy_ite (energy_next (sealEvent_energy _ 4)) (energy_next rfl)
    | serviceSessionEnd => exact energy_ite (energy_next (sealEvent_energy _ 5)) (energy_next rfl)
    | meterTimeAdjust => exact energy_ite (energy_next (sealEvent_energy _ 6)) (energy_next rfl)
    | tamperClear => exact energy_ite (energy_next rfl) (energy_next rfl)
    | buttonPress => exact energy_ite (energy_next rfl) (energy_next rfl)
    | displayTimeout => exact energy_ite (energy_next rfl) (energy_next rfl)
    | channelComparison => exact energy_next rfl
    | sagBegin => exact energy_ite (energy_next rfl) (energy_next rfl)
    | sagEnd => exact energy_ite (energy_next rfl) (energy_next rfl)
    | backfill => exact execBackfill_energy s
    | markerReceipt i ok => exact execMarkerReceipt_energy i ok s
    | markerHoldEnd => exact execMarkerHoldEnd_energy s
    | governorTick x => exact execGovernorTick_energy x s
    | _ => exact h.elim
  · exact energy_of_spares (exec_spares_meter c s h)

/-! Markers (R389). -/

/-- Of the meter only what a marker sets may differ: the accepted epoch and root, the window, the held marker and the records due. -/
def markerOnly (s t : State) : Prop :=
  t.meter = { s.meter with accepted := t.meter.accepted, window := t.meter.window, heldM := t.meter.heldM, merges := t.meter.merges, occ := t.meter.occ }

theorem execMarkerReceipt_markerOnly (i : Nat) (ok : Bool) (s t : State) (h : execMarkerReceipt i ok s = .next t) : markerOnly s t := by
  unfold execMarkerReceipt at h
  dsimp only at h
  split at h
  · cases h; rfl
  · split at h
    · cases h; rfl
    · split at h
      · cases h; rfl
      · cases h; rfl

theorem execMarkerHoldEnd_markerOnly (s t : State) (h : execMarkerHoldEnd s = .next t) : markerOnly s t := by
  unfold execMarkerHoldEnd at h
  split at h <;> cases h <;> rfl

/-! Commands that complete within the meter and its link (R376, R382, R387, R389). -/

/-- A command answers a next state in which meter time and the records are as they were. -/
def answersKept (s : State) (a : Ans) : Prop := ∃ t, a = .next t ∧ t.meter.time = s.meter.time ∧ t.meter.recs = s.meter.recs

theorem kept_next {s u : State} (ht : u.meter.time = s.meter.time) (hr : u.meter.recs = s.meter.recs) : answersKept s (.next u) := ⟨u, rfl, ht, hr⟩

theorem kept_ite {s : State} {a b : Ans} {c : Prop} [Decidable c] (h : answersKept s a) (g : answersKept s b) : answersKept s (if c then a else b) := by
  split <;> assumption

theorem execMarkerReceipt_kept (i : Nat) (ok : Bool) (s : State) : answersKept s (execMarkerReceipt i ok s) := by
  unfold execMarkerReceipt
  split
  · exact kept_next rfl rfl
  · exact kept_ite (kept_next rfl rfl) (kept_ite (kept_next rfl rfl) (kept_next rfl rfl))

theorem execMarkerHoldEnd_kept (s : State) : answersKept s (execMarkerHoldEnd s) := by
  unfold execMarkerHoldEnd
  split <;> exact kept_next rfl rfl

/-- With its frame, a command that keeps time and records touches the meter and its link alone. -/
theorem kept_within {s : State} {a : Ans} {l : List Part} (h : answersKept s a) (w : answersWithin l s a) (hl : (l.all fun p => [Part.meter, .mir].contains p) = true) :
    ∃ t, a = .next t ∧ t.meter.time = s.meter.time ∧ t.meter.recs = s.meter.recs ∧ onlyChanges [.meter, .mir] s t := by
  obtain ⟨t, e, ht, hr⟩ := h
  exact ⟨t, e, ht, hr, answers_mono w hl t e⟩

/-- Settles O60: by the frame of each command, and for the meter's own by what each writes of the meter. -/
theorem nothingElseReachesTheMeter : Obligations.NothingElseReachesTheMeter := by
  refine ⟨fun c s t h e => exec_spares_meter c s h t e, fun c s t e => Prod.mk.inj (exec_spares_energy c s t e), ?markers, ?readings, ?completes⟩
  case markers =>
    rintro c s t (⟨i, ok, rfl⟩ | rfl) h
    · exact execMarkerReceipt_markerOnly i ok s t h
    · exact execMarkerHoldEnd_markerOnly s t h
  case readings =>
    intro x s t h
    have e := execGovernorTick_meter x s t h
    obtain k | k := takeReading_meter x s
    · rw [e, k]
    · rw [e, k]; rfl
  case completes =>
    rintro c s (rfl | rfl | ⟨a, b, rfl⟩ | ⟨v, rfl⟩ | ⟨d, l, rfl⟩ | ⟨i, ok, rfl⟩ | rfl)
    · exact kept_within (kept_ite (kept_next rfl rfl) (kept_next rfl rfl)) (execButtonPress_within s) (by decide)
    · exact kept_within (kept_ite (kept_next rfl rfl) (kept_next rfl rfl)) (execDisplayTimeout_within s) (by decide)
    · exact kept_within (kept_next rfl rfl) (execChannelComparison_within a b s) (by decide)
    · exact kept_within (kept_ite (kept_next rfl rfl) (kept_next rfl rfl)) (execSagBegin_within v s) (by decide)
    · exact kept_within (kept_ite (kept_next rfl rfl) (kept_next rfl rfl)) (execSagEnd_within d l s) (by decide)
    · exact kept_within (execMarkerReceipt_kept i ok s) (execMarkerReceipt_within i ok s) (by decide)
    · exact kept_within (execMarkerHoldEnd_kept s) (execMarkerHoldEnd_within s) (by decide)

end Sys2Proof.Machine
end

section
/-! Physical and logical core indices (R14), and the shift of a row with a fenced core (R15). -/

namespace Sys2Proof.Machine

variable {s : State} {p : Nat}

/-- The fenced column of a row of a physical region, if it has one (R15). -/
def State.fenceAt (s : State) (p row : Nat) : Option Nat := s.flt.fences.get none (p * 28 + row)

theorem pcore_unfenced {i : Nat} (h : s.fenceAt p (i / 32) = none) : s.pcore p i = i / 32 * 33 + i % 32 := by
  unfold State.fenceAt at h
  simp only [State.pcore, h]

/-- A logical column at or beyond the fence lies one physical column further. -/
theorem pcore_fenced {i f : Nat} (h : s.fenceAt p (i / 32) = some f) : s.pcore p i = i / 32 * 33 + if i % 32 < f then i % 32 else i % 32 + 1 := by
  unfold State.fenceAt at h
  simp only [State.pcore, h]

theorem lcore_unfenced {k : Nat} (h : s.fenceAt p (k / 33) = none) : s.lcore p k = if k % 33 < 32 then some (k / 33 * 32 + k % 33) else none := by
  unfold State.fenceAt at h
  simp only [State.lcore, h]

theorem lcore_fenced {k f : Nat} (h : s.fenceAt p (k / 33) = some f) :
    s.lcore p k = if k % 33 < f then some (k / 33 * 32 + k % 33) else if k % 33 = f then none else some (k / 33 * 32 + k % 33 - 1) := by
  unfold State.fenceAt at h
  simp only [State.lcore, h]

/-- The column of a logical core in its row, past the fence if the row has one before it. -/
theorem pcore_place (i : Nat) : ∃ col, col < 33 ∧ s.pcore p i = i / 32 * 33 + col := by
  cases h : s.fenceAt p (i / 32) with
  | none => exact ⟨i % 32, by omega, pcore_unfenced h⟩
  | some f => exact ⟨_, by split <;> omega, pcore_fenced h⟩

theorem pcore_row (i : Nat) : s.pcore p i / 33 = i / 32 := by
  obtain ⟨col, hc, e⟩ := pcore_place (s := s) (p := p) i
  omega

theorem pcore_lt {i : Nat} (h : i < 896) : s.pcore p i < 924 := by
  obtain ⟨col, hc, e⟩ := pcore_place (s := s) (p := p) i
  omega

theorem lcore_pcore (i : Nat) : s.lcore p (s.pcore p i) = some i := by
  have row := pcore_row (s := s) (p := p) i
  cases h : s.fenceAt p (i / 32) with
  | none =>
    have e := pcore_unfenced h
    rw [lcore_unfenced (by rw [row, h]), row, if_pos (by omega)]
    exact congrArg some (by omega)
  | some f =>
    have e := pcore_fenced h
    rw [lcore_fenced (by rw [row, h]), row]
    by_cases hf : i % 32 < f
    · rw [if_pos hf] at e
      rw [if_pos (by omega)]
      exact congrArg some (by omega)
    · rw [if_neg hf] at e
      rw [if_neg (by omega), if_neg (by omega)]
      exact congrArg some (by omega)

/-- A physical core that is a logical one lies in that core's row, and is its place. -/
theorem pcore_of_lcore {k i : Nat} (hf : ∀ f, s.fenceAt p (k / 33) = some f → f ≤ 32) (e : s.lcore p k = some i) : i / 32 = k / 33 ∧ s.pcore p i = k := by
  cases h : s.fenceAt p (k / 33) with
  | none =>
    rw [lcore_unfenced h] at e
    split at e
    · obtain rfl := Option.some.inj e
      have row : (k / 33 * 32 + k % 33) / 32 = k / 33 := by omega
      exact ⟨row, by rw [pcore_unfenced (by rw [row, h])]; omega⟩
    · cases e
  | some f =>
    have := hf f h
    rw [lcore_fenced h] at e
    split at e
    · obtain rfl := Option.some.inj e
      have row : (k / 33 * 32 + k % 33) / 32 = k / 33 := by omega
      exact ⟨row, by rw [pcore_fenced (f := f) (by rw [row, h]), if_pos (by omega)]; omega⟩
    · split at e
      · cases e
      · obtain rfl := Option.some.inj e
        have row : (k / 33 * 32 + k % 33 - 1) / 32 = k / 33 := by omega
        exact ⟨row, by rw [pcore_fenced (f := f) (by rw [row, h]), if_neg (by omega)]; omega⟩

/-- Settles O56: a row's columns without a fence, and the two maps as inverses with one. -/
theorem coreIndicesFollowRowsAndColumns : Obligations.CoreIndicesFollowRowsAndColumns := by
  refine ⟨fun s p row hrow h => ⟨fun c hc => ?_, ?_⟩, fun s p i hi _ => ⟨pcore_row i, pcore_lt hi, lcore_pcore i⟩, fun s p k i hk hf e => ?_⟩
  · have rl : (row * 32 + c) / 32 = row := by omega
    have e := pcore_unfenced (s := s) (p := p) (i := row * 32 + c) (by rw [rl]; exact h)
    have place : s.pcore p (row * 32 + c) = row * 33 + c := by rw [e]; omega
    exact ⟨place, place ▸ lcore_pcore _⟩
  · have rp : (row * 33 + 32) / 33 = row := by omega
    rw [lcore_unfenced (by rw [rp]; exact h), if_neg (by omega)]
  · obtain ⟨row, place⟩ := pcore_of_lcore hf e
    exact ⟨by omega, row, place⟩

end Sys2Proof.Machine
end

section
/-! The stages of bring-up (R15, R317, R324, R325). -/

namespace Sys2Proof.Machine

/-! One change made at several regions or engines. -/

theorem reg_foldl_onReg {β : Type} (key : β → Nat) (f : RegionSt → RegionSt) (idem : ∀ g, f (f g) = f g) (l : List β) (s : State) (q : Nat) :
    (l.foldl (fun s x => s.onReg (key x) f) s).reg q = if q ∈ l.map key then f (s.reg q) else s.reg q := by
  induction l generalizing s with
  | nil => rfl
  | cons b l ih =>
    rw [List.foldl_cons, ih, List.map_cons]
    by_cases hb : q = key b
    · subst hb
      rw [State.reg_onReg_self, idem, if_pos List.mem_cons_self]
      exact ite_self _
    · rw [State.reg_onReg_ne _ _ hb]
      simp only [List.mem_cons, hb, false_or]

theorem engine_foldl_onEng (f : EngineSt → EngineSt) (idem : ∀ x, f (f x) = f x) (l : List Nat) (s : State) (e : Nat) :
    (l.foldl (fun s i => s.onEng i f) s).engine e = if e ∈ l then f (s.engine e) else s.engine e := by
  induction l generalizing s with
  | nil => rfl
  | cons b l ih =>
    rw [List.foldl_cons, ih]
    by_cases hb : e = b
    · subst hb
      rw [State.engine_onEng_self, idem, if_pos List.mem_cons_self]
      exact ite_self _
    · rw [State.engine_onEng_ne _ _ hb]
      simp only [List.mem_cons, hb, false_or]

/-! Power, retirement and the fuse map (R15, R325). -/

/-- A region switched off and retired. -/
def RegionSt.retire (g : RegionSt) : RegionSt := { g with powered := false, clockOn := false, lock := false, retired := true }

/-- A region powered and tested. -/
def RegionSt.passTest (g : RegionSt) : RegionSt := { g with powered := true, tested := true }

/-- A photonic engine powered up. -/
def EngineSt.powerUp (x : EngineSt) : EngineSt := { x with ok := true }

theorem powerEngines_engine (s : State) (e : Nat) : s.powerEngines.engine e = if e < 16 then (s.engine e).powerUp else s.engine e := by
  unfold State.powerEngines
  refine (engine_foldl_onEng EngineSt.powerUp (fun _ => rfl) (List.range 16) s e).trans ?_
  simp only [List.mem_range]

theorem powerRegions_reg (s : State) (q : Nat) : s.powerRegions.reg q = if q < 48 then (s.reg q).passTest else s.reg q := by
  unfold State.powerRegions
  extract_lets u
  rw [State.reg_onFlt]
  refine (reg_foldl_onReg (fun p => p) RegionSt.passTest (fun _ => rfl) (List.range 48) s q).trans ?_
  simp only [List.map_id', List.mem_range]

theorem powerRegions_fences (s : State) : s.powerRegions.flt.fences = s.pwr.fuse := by
  unfold State.powerRegions
  extract_lets u
  have f : onlyChanges [.regions] s u := foldl_changes _ _ (fun v p => onReg_changes v p _) _ _
  exact congrArg PowerSt.fuse (onlyChanges_pwr f (by decide))

/-- Every region of a list is switched off and retired. -/
def State.retireRegions (s : State) (l : List Region) : State := l.foldl (fun s (p : Region) => s.retireRegion p.val) s

/-- Every region that fails is switched off and retired, and no other changes. -/
theorem retireRegions_reg (l : List Region) (s : State) (q : Nat) :
    (s.retireRegions l).reg q = if q ∈ l.map Fin.val then (s.reg q).retire else s.reg q :=
  reg_foldl_onReg Fin.val RegionSt.retire (fun _ => rfl) l s q

theorem retireRegions_changes (l : List Region) (s : State) : onlyChanges [.regions] s (s.retireRegions l) :=
  foldl_changes _ (fun u (p : Region) => u.retireRegion p.val) (fun u p => retireRegion_changes u p) l s

theorem retireRegions_off {l : List Region} {p : Region} (h : p ∈ l) (s : State) : (s.retireRegions l).reg p = (s.reg p).retire := by
  rw [retireRegions_reg, if_pos (List.mem_map_of_mem h)]

theorem retireRegions_other {l : List Region} {q : Nat} (h : ∀ p ∈ l, p.val ≠ q) (s : State) : (s.retireRegions l).reg q = s.reg q := by
  rw [retireRegions_reg, if_neg]
  intro hq
  obtain ⟨p, hp, rfl⟩ := List.mem_map.mp hq
  exact h p hp rfl

/-- Retirement leaves a region dark whatever it was, and what is dark and retired stays so. -/
theorem retireRegions_keeps_retired (l : List Region) (s : State) (q : Nat) (hr : (s.reg q).retired = true) (hp : (s.reg q).powered = false) :
    ((s.retireRegions l).reg q).retired = true ∧ ((s.retireRegions l).reg q).powered = false := by
  rw [retireRegions_reg]
  split
  · exact ⟨rfl, rfl⟩
  · exact ⟨hr, hp⟩

theorem retireRegions_tested (l : List Region) (s : State) (q : Nat) : ((s.retireRegions l).reg q).tested = (s.reg q).tested := by
  rw [retireRegions_reg]
  split <;> rfl

/-! A core that fails its self-test (R15, R325). -/

/-- The row of a physical core has its spare free: the row shifts around the core. -/
theorem badCore_shifts {s : State} {p c : Nat} (h : s.flt.fences.get none (p * 28 + c / 33) = none) :
    s.badCore p c = s.onFlt fun f => { f with fences := f.fences.set none (p * 28 + c / 33) (some (c % 33)), dead := f.dead ++ [p * 924 + c] } := by
  simp only [State.badCore, h]

/-- The spare of the core's row is used: the region is retired, unless that very core is fenced. -/
theorem badCore_spare_used {s : State} {p c f : Nat} (h : s.flt.fences.get none (p * 28 + c / 33) = some f) :
    s.badCore p c = if f = c % 33 then s else s.retireRegion p := by
  simp only [State.badCore, h]

theorem badCore_reg (s : State) (p c q : Nat) : (s.badCore p c).reg q = s.reg q ∨ (q = p ∧ (s.badCore p c).reg q = (s.reg q).retire) := by
  cases h : s.flt.fences.get none (p * 28 + c / 33) with
  | none => rw [badCore_shifts h]; exact Or.inl rfl
  | some f =>
    rw [badCore_spare_used h]
    split
    · exact Or.inl rfl
    · by_cases hq : q = p
      · subst hq
        exact Or.inr ⟨rfl, State.reg_onReg_self ..⟩
      · exact Or.inl (State.reg_onReg_ne _ _ hq)

theorem badCores_tested (l : List (Region × PCore)) (s : State) (q : Nat) : ((l.foldl (fun s x => s.badCore x.1 x.2) s).reg q).tested = (s.reg q).tested := by
  induction l generalizing s with
  | nil => rfl
  | cons x l ih =>
    rw [List.foldl_cons, ih]
    obtain e | ⟨-, e⟩ := badCore_reg s x.1 x.2 q <;> rw [e]
    rfl

theorem badCores_other (l : List (Region × PCore)) (s : State) (q : Nat) (h : ∀ x ∈ l, x.1.val ≠ q) : (l.foldl (fun s x => s.badCore x.1 x.2) s).reg q = s.reg q := by
  induction l generalizing s with
  | nil => rfl
  | cons x l ih =>
    rw [List.foldl_cons, ih _ fun y hy => h y (List.mem_cons_of_mem _ hy)]
    obtain e | ⟨e, -⟩ := badCore_reg s x.1 x.2 q
    · exact e
    · exact absurd e.symm (h x List.mem_cons_self)

/-- The regions once stage 5 has ended: powered, tested and shifted, with the failed ones retired. -/
def State.testedRegions (s : State) (failed : List Region) (cores : List (Region × PCore)) : State :=
  (cores.foldl (fun s x => s.badCore x.1 x.2) s.powerRegions).retireRegions failed

/-! The ends of the stages (R324, Table 14.8). -/

section
variable {s : State} {failed : List Region} {cores : List (Region × PCore)}

theorem bringUpStageEnd_idle (h : s.pwr.fail ≠ 0 ∨ s.pwr.stage = 0 ∨ 7 ≤ s.pwr.stage) : execBringUpStageEnd failed cores s = .next s := by
  unfold execBringUpStageEnd
  split
  · rfl
  next fine =>
    have hs : s.pwr.stage = 0 ∨ 7 ≤ s.pwr.stage := h.resolve_left fine
    split
    case h_7 => rfl
    all_goals exfalso; omega

theorem bringUpStageEnd_passes (hf : s.pwr.fail = 0) (h : s.pwr.stage = 1 ∨ s.pwr.stage = 4) :
    execBringUpStageEnd failed cores s = .next (s.toStage (s.pwr.stage + 1)) := by
  obtain h | h := h <;> simp [execBringUpStageEnd, hf, h]

theorem bringUpStageEnd_export (hf : s.pwr.fail = 0) (h : s.pwr.stage = 2) :
    execBringUpStageEnd failed cores s = if s.mir.live then .next (s.toStage 3).powerEngines else .next s := by
  simp [execBringUpStageEnd, hf, h]

theorem bringUpStageEnd_coolant (hf : s.pwr.fail = 0) (h : s.pwr.stage = 3) :
    execBringUpStageEnd failed cores s = if s.coolantReady then .next (s.toStage 4) else .next s := by
  simp [execBringUpStageEnd, hf, h]

theorem bringUpStageEnd_regions (hf : s.pwr.fail = 0) (h : s.pwr.stage = 5) :
    execBringUpStageEnd failed cores s =
      .next ((s.testedRegions failed cores).toStage 6) := by
  simp [execBringUpStageEnd, hf, h, State.testedRegions, State.retireRegions]

theorem bringUpStageEnd_ready (hf : s.pwr.fail = 0) (h : s.pwr.stage = 6) :
    execBringUpStageEnd failed cores s =
      .next (((s.retireRegions failed).recomputeRoutes.toStage 7).onPwr fun p => { p with ready := true }) := by
  simp [execBringUpStageEnd, hf, h, State.retireRegions]

end

theorem testedRegions_changes (s : State) (failed : List Region) (cores : List (Region × PCore)) : onlyChanges [.regions, .flt] s (s.testedRegions failed cores) := by
  have shifted : onlyChanges [.regions, .flt] s (cores.foldl (fun s x => s.badCore x.1 x.2) s.powerRegions) :=
    onlyChanges_foldl (powerRegions_changes s) (fun (u : State) (x : Region × PCore) => u.badCore x.1 x.2) (fun u x => badCore_changes u x.1 x.2) cores
  exact onlyChanges_step shifted (retireRegions_changes failed _) (by decide)

theorem testedRegions_tested (s : State) (failed : List Region) (cores : List (Region × PCore)) {q : Nat} (h : q < 48) :
    ((s.testedRegions failed cores).reg q).tested = true := by
  unfold State.testedRegions
  rw [retireRegions_tested, badCores_tested, powerRegions_reg, if_pos h]
  rfl

theorem testedRegions_other (s : State) {failed : List Region} {cores : List (Region × PCore)} {q : Nat} (h : q < 48)
    (hf : ∀ p ∈ failed, p.val ≠ q) (hc : ∀ x ∈ cores, x.1.val ≠ q) :
    ((s.testedRegions failed cores).reg q).powered = true ∧ ((s.testedRegions failed cores).reg q).retired = (s.reg q).retired := by
  unfold State.testedRegions
  rw [retireRegions_other hf, badCores_other _ _ _ hc, powerRegions_reg, if_pos h]
  exact ⟨rfl, rfl⟩

theorem testedRegions_fences (s : State) (failed : List Region) (cores : List (Region × PCore)) :
    (s.testedRegions failed cores).flt = (cores.foldl (fun s x => s.badCore x.1 x.2) s.powerRegions).flt :=
  onlyChanges_flt (retireRegions_changes failed _) (by decide)

/-- The first core of a row to fail shifts it. -/
theorem testedRegions_shifts {s : State} {p : Region} {c : PCore} (failed : List Region) (h : s.pwr.fuse.get none (p.val * 28 + c.val / 33) = none) :
    (s.testedRegions failed [(p, c)]).flt.fences = s.pwr.fuse.set none (p.val * 28 + c.val / 33) (some (c.val % 33)) ∧
      (failed = [] → ((s.testedRegions failed [(p, c)]).reg p).powered = true) := by
  have shifts := badCore_shifts (s := s.powerRegions) (p := p) (c := c) (by rw [powerRegions_fences]; exact h)
  constructor
  · rw [testedRegions_fences, List.foldl_cons, List.foldl_nil, shifts, State.onFlt_flt, powerRegions_fences]
  · rintro rfl
    unfold State.testedRegions State.retireRegions
    rw [List.foldl_nil, List.foldl_cons, List.foldl_nil, shifts, State.reg_onFlt, powerRegions_reg, if_pos p.isLt]
    rfl

/-- A core that fails in a row whose spare is used retires its region. -/
theorem testedRegions_retires {s : State} {p : Region} {c : PCore} {f : Nat} (failed : List Region) (h : s.pwr.fuse.get none (p.val * 28 + c.val / 33) = some f)
    (hf : f ≠ c.val % 33) : ((s.testedRegions failed [(p, c)]).reg p).retired = true ∧ ((s.testedRegions failed [(p, c)]).reg p).powered = false := by
  have used := badCore_spare_used (s := s.powerRegions) (p := p) (c := c) (by rw [powerRegions_fences]; exact h)
  rw [if_neg hf] at used
  unfold State.testedRegions
  rw [List.foldl_cons, List.foldl_nil, used]
  refine retireRegions_keeps_retired failed _ p ?_ ?_ <;> (unfold State.retireRegion; rw [State.reg_onReg_self])

theorem coolantReady_iff (s : State) : s.coolantReady = true ↔ 320 ≤ s.pwr.flow ∧ 200 ≤ s.pwr.tin ∧ s.pwr.tin ≤ 400 := by
  simp only [State.coolantReady, Bool.and_eq_true, decide_eq_true_eq, and_assoc]

theorem bringUpStageTimeout_eq (coolant : Bool) (s : State) :
    execBringUpStageTimeout coolant s = if 1 ≤ s.pwr.stage ∧ s.pwr.stage ≤ 4 ∧ s.pwr.fail = 0 then
      .next ((s.onPwr fun p => { p with fail := if s.pwr.stage = 4 then 5 else if s.pwr.stage = 3 ∧ coolant then 4 else s.pwr.stage }).alert 5) else .next s := rfl

/-- Settles O45: stage by stage, and the regions of stages 5 and 6 one by one. -/
theorem bringUpRunsItsStages : Obligations.BringUpRunsItsStages := by
  refine ⟨fun s failed cores => ⟨bringUpStageEnd_idle, bringUpStageEnd_passes, fun hf hs => ?exported, fun hf hs => ?coolant, fun hf hs => ?regions, fun hf hs => ?ready⟩,
    fun s coolant => ⟨fun h1 h4 hf => ?runsOut, fun h => ?otherwise⟩⟩
  case exported =>
    have e := bringUpStageEnd_export (failed := failed) (cores := cores) hf hs
    refine ⟨fun hl => ?_, fun hl => ⟨(s.toStage 3).powerEngines, ?_, ?_, powerEngines_engine _, ?_⟩⟩
    · rw [exec, e, if_neg (by simp [hl])]
    · rw [exec, e, if_pos hl]
    · exact onlyChanges_pwr (powerEngines_changes _) (by decide)
    · exact powerEngines_in (toStage_in (onlyChanges_refl _ _) (by decide)) (by decide)
  case coolant =>
    rw [exec, bringUpStageEnd_coolant hf hs]
    by_cases h : s.coolantReady = true
    · rw [if_pos h, if_pos ((coolantReady_iff s).mp h)]
      rfl
    · rw [if_neg h, if_neg fun k => h ((coolantReady_iff s).mpr k)]
  case regions =>
    refine ⟨(s.testedRegions failed cores).toStage 6, bringUpStageEnd_regions hf hs, ?_, fun q hq => testedRegions_tested s failed cores hq, fun p hp => ?_,
      fun q hq hqf hqc => testedRegions_other s hq hqf hqc, ?_, ?_, ?_, toStage_in (onlyChanges_mono (testedRegions_changes s failed cores) (by decide)) (by decide)⟩
    · rw [State.toStage, State.onPwr_pwr, onlyChanges_pwr (testedRegions_changes s failed cores) (by decide)]
    · have off := retireRegions_off hp (cores.foldl (fun s x => s.badCore x.1 x.2) s.powerRegions)
      exact ⟨congrArg RegionSt.powered off, congrArg RegionSt.clockOn off, congrArg RegionSt.retired off⟩
    · rintro rfl
      exact (congrArg FaultSt.fences (testedRegions_fences s failed [])).trans (powerRegions_fences s)
    · rintro p c rfl h
      exact testedRegions_shifts failed h
    · rintro p c f rfl h hne
      exact testedRegions_retires failed h hne
  case ready =>
    have retired := retireRegions_changes failed s
    have routed := recomputeRoutes_changes (s.retireRegions failed)
    have same (q : Nat) : (s.retireRegions failed).recomputeRoutes.reg q = (s.retireRegions failed).reg q := by
      unfold State.reg
      rw [onlyChanges_regions routed (by decide)]
    refine ⟨_, bringUpStageEnd_ready hf hs, ?_, fun p hp => ?_, fun q hq => (same q).trans (retireRegions_other hq s), ?_⟩
    · rw [State.toStage, State.onPwr_pwr, State.onPwr_pwr, onlyChanges_pwr routed (by decide), onlyChanges_pwr retired (by decide)]
    · have off := (same p).trans (retireRegions_off hp s)
      exact ⟨congrArg RegionSt.powered off, congrArg RegionSt.clockOn off, congrArg RegionSt.retired off⟩
    · exact onPwr_in (toStage_in (recomputeRoutes_in (onlyChanges_mono retired (by decide)) (by decide)) (by decide)) (by decide)
  case runsOut =>
    rw [exec, bringUpStageTimeout_eq, if_pos ⟨h1, h4, hf⟩]
    rfl
  case otherwise =>
    rw [exec, bringUpStageTimeout_eq, if_neg (by omega)]

end Sys2Proof.Machine
end

section
/-! A module at a step boundary: what lets the commit token leave, and what it waits for (R19, R152, R279, R350). -/

namespace Sys2Proof.Machine

/-- A running module stands at a boundary within its limit with nothing to stop it: no step or recovery in hand, nothing armed or being applied, no stop asked for, the commit token not yet sent and the topology checked (R19, R327, R350). -/
structure State.mayCross (s : State) : Prop where
  running : s.run.st = .running
  between : s.run.inStep = false
  unsent : s.run.crossed = false
  going : s.run.stopAsked = false
  within : s.run.step.toNat ≤ s.run.limit.toNat
  unarmed : s.stg.st ≠ .armed
  unapplied : s.stg.applying = false
  whole : s.flt.phase = .none
  checked : s.cfg.topoWait = false

/-- Where nothing stops it, going on is to cross the boundary. -/
theorem advance_crosses {s : State} (h : s.mayCross) : s.advance = s.crossBoundary := by
  obtain ⟨running, between, unsent, going, within, unarmed, unapplied, whole, checked⟩ := h
  have settled : s.settleStop = s := if_neg (by simp [going])
  have due : s.applyDue = false := by simp [State.applyDue, unarmed]
  unfold State.advance
  rw [if_neg (by simp [between, unapplied, whole]), settled]
  unfold State.goOn
  rw [if_neg (by simp [due]), if_pos running, if_neg (by omega), if_neg (by simp [unsent]), if_neg (by simp [checked])]

/-- The boundary with its commit point taken: the snapshot being written, or that which stands, or a new one (R279). -/
def State.withSnap (s : State) : State := if s.flt.pendSnap.isSome || s.snapStands then s else s.boundarySnap

theorem crossBoundary_eq (s : State) : s.crossBoundary = if s.withSnap.flt.pendSnap.isSome then s.withSnap else s.withSnap.sendTokens.tryBegin := rfl

/-- While the snapshot of a boundary is unsettled, the module stays at it (R279). -/
theorem crossBoundary_waits {s : State} (h : s.flt.pendSnap.isSome = true) : s.crossBoundary = s := by
  have same : s.withSnap = s := if_pos (by simp [h])
  rw [crossBoundary_eq, same, if_pos h]

end Sys2Proof.Machine
end

section
/-! The topology check at a boundary whose snapshot is not settled (R279, R327). -/

namespace Sys2Proof.Machine

/-- A module that runs and stands at the boundary before its first step under an image with no declared link: the next slot is full, the topology check is awaited, and the boundary's snapshot is still being written. -/
def topologyAwaited : State :=
  { State.reset with
    cfg := { image := some {}, topoWait := true }
    run := { st := .running }
    store := { slots := [(0, 1)] }
    flt := { pendSnap := some {} } }

/-- The check passes there and the step does not begin: the commit token waits for the snapshot. -/
theorem topologyAwaited_waits :
    exec .topologyCheckPass topologyAwaited = .next { topologyAwaited with cfg := { image := some {}, topoOk := true } } := by
  have mayCross : ({ topologyAwaited with cfg := { image := some {}, topoOk := true } } : State).mayCross :=
    { running := rfl, between := rfl, unsent := rfl, going := rfl, within := by decide, unarmed := by decide, unapplied := rfl, whole := rfl, checked := rfl }
  have passes : (topologyAwaited.cfg.topoWait && topologyAwaited.topologyOk) = true := by decide
  show execTopologyCheckPass topologyAwaited = _
  unfold execTopologyCheckPass
  rw [if_pos passes]
  exact congrArg Host.Outcome.next ((advance_crosses mayCross).trans (crossBoundary_waits rfl))

/-- Refutes O46: its clause on the topology check has no premise about the boundary's snapshot, and with one that is not settled the step does not begin though its slot is full. -/
theorem not_linksAreCheckedBeforeAndDuringService : ¬ Obligations.LinksAreCheckedBeforeAndDuringService := by
  intro h
  obtain ⟨t, e, -, sends, -⟩ := (h.1 topologyAwaited).2 rfl (by decide)
  obtain ⟨-, -, begins⟩ := sends rfl rfl rfl (by decide) rfl rfl rfl (by decide)
  obtain rfl := Host.Outcome.next.inj (topologyAwaited_waits.symm.trans e)
  exact absurd begins (by decide)

end Sys2Proof.Machine
end

section
/-! What line writes touch of the regions and of the reservoir: the deltas that their lines owe, and the packets that carry them (R144). -/

namespace Sys2Proof.Machine

/-- Of every region only the deltas it owes and its packets may differ, and the reservoir's slots are the same. -/
structure owesOnly (s t : State) : Prop where
  regions : ∀ q, ∃ od oq, t.lreg q = { s.lreg q with outDeltas := od, outq := oq }
  slots : t.store.slots = s.store.slots

theorem owesOnly_refl (s : State) : owesOnly s s := ⟨fun _ => ⟨_, _, rfl⟩, rfl⟩

theorem owesOnly_trans {s t u : State} (h : owesOnly s t) (g : owesOnly t u) : owesOnly s u := by
  refine ⟨fun q => ?_, g.slots.trans h.slots⟩
  obtain ⟨_, _, e⟩ := h.regions q
  obtain ⟨od, oq, f⟩ := g.regions q
  exact ⟨od, oq, by rw [f, e]⟩

/-- Where neither regions nor slots change, no region owes more. -/
theorem owesOnly_same {s t : State} (hl : t.lregions = s.lregions) (hs : t.store.slots = s.store.slots) : owesOnly s t :=
  ⟨fun q => ⟨_, _, by unfold State.lreg; rw [hl]⟩, hs⟩

theorem owesOnly_onLreg (s : State) (r : Nat) (f : LRegionSt → LRegionSt) (h : ∀ l, ∃ od oq, f l = { l with outDeltas := od, outq := oq }) : owesOnly s (s.onLreg r f) := by
  refine ⟨fun q => ?_, rfl⟩
  by_cases hq : q = r
  · subst hq
    obtain ⟨od, oq, e⟩ := h (s.lreg q)
    exact ⟨od, oq, by rw [State.lreg_onLreg_self, e]⟩
  · exact ⟨_, _, State.lreg_onLreg_ne _ _ hq⟩

theorem owesOnly_foldl {β : Type} (f : State → β → State) (h : ∀ u x, owesOnly u (f u x)) (l : List β) (s : State) : owesOnly s (l.foldl f s) := by
  induction l generalizing s with
  | nil => exact owesOnly_refl s
  | cons x l ih => exact owesOnly_trans (h s x) (ih _)

theorem queueDelta_owes (s : State) (r bank line : Nat) (data : List Byte) (st : Byte) (m : Option Nat) (p : Nat × Nat × Nat) : owesOnly s (s.queueDelta r bank line data st m p) := by
  unfold State.queueDelta
  extract_lets open_ d u
  have queued : owesOnly s u := owesOnly_trans (t := s.onNet fun n => { n with nextTag := n.nextTag + 1 }) (owesOnly_same rfl rfl) (owesOnly_onLreg _ _ _ fun _ => ⟨_, _, rfl⟩)
  split
  · exact queued
  · exact owesOnly_trans queued (owesOnly_onLreg _ _ _ fun _ => ⟨_, _, rfl⟩)

theorem orcWritten_owes (s : State) (r bank line : Nat) : owesOnly s (s.orcWritten r bank line) := by
  have f := orcWritten_changes s r bank line
  exact owesOnly_same (onlyChanges_lregions f (by decide)) (congrArg StoreSt.slots (onlyChanges_store f (by decide)))

theorem changeLine_owes (s : State) (r bank line : Nat) (data : List Byte) (st : Byte) : owesOnly s (s.changeLine r bank line data st) := by
  unfold State.changeLine
  extract_lets old d dst a u v
  have written : owesOnly s u := owesOnly_same rfl rfl
  have owed : owesOnly u v := by
    simp only [v]
    split
    · split
      · exact owesOnly_refl u
      · exact queueDelta_owes ..
    · exact owesOnly_refl u
  have inner := owesOnly_trans written owed
  split
  · exact owesOnly_trans inner (owesOnly_trans (owesOnly_foldl _ (fun w _ => queueDelta_owes w ..) _ _) (orcWritten_owes ..))
  · exact inner

theorem writeSnap_owes (s : State) (runB : Bool) : owesOnly s (s.writeSnap runB) :=
  owesOnly_foldl _ (fun _ _ => owesOnly_foldl _ (fun w _ => owesOnly_trans (t := w.foreignLine.2) (owesOnly_same rfl rfl) (changeLine_owes ..)) _ _) _ _

theorem boundarySnap_owes (s : State) : owesOnly s s.boundarySnap := by
  unfold State.boundarySnap
  extract_lets q
  have f : onlyChanges [.flt] (s.writeSnap q.runB) ((s.writeSnap q.runB).onFlt fun f => { f with pendSnap := some q }).settleSnap :=
    settleSnap_in (onFlt_in (onlyChanges_refl _ _) (by decide)) (by decide)
  exact owesOnly_trans (writeSnap_owes s q.runB) (owesOnly_same (onlyChanges_lregions f (by decide)) (congrArg StoreSt.slots (onlyChanges_store f (by decide))))

end Sys2Proof.Machine
end

section
/-! Commit points within a step and the settling of their snapshots (R279, R280). -/

namespace Sys2Proof.Machine

/-! The report of a commit point. -/

/-- The region has reported its commit point. -/
def State.withReport (s : State) (r : Nat) : State := s.onLreg r fun l => { l with cpReported := true }

theorem withReport_lreg (s : State) (r q : Nat) : ∃ b, (s.withReport r).lreg q = { s.lreg q with cpReported := b } := by
  by_cases h : q = r
  · subst h
    exact ⟨true, State.lreg_onLreg_self ..⟩
  · exact ⟨_, State.lreg_onLreg_ne _ _ h⟩

/-- A snapshot tells nothing of the reports. -/
theorem takeSnap_withReport (s : State) (r mb : Nat) : (s.withReport r).takeSnap mb = s.takeSnap mb := by
  have same {α : Type} (f : LRegionSt → α) (hf : ∀ l b, f { l with cpReported := b } = f l) (l : List Nat) :
      (l.map fun q => (q, f ((s.withReport r).lreg q))) = l.map fun q => (q, f (s.lreg q)) := by
    refine List.map_congr_left fun q _ => ?_
    obtain ⟨b, e⟩ := withReport_lreg s r q
    rw [e, hf]
  have ctrs := same LRegionSt.ctrs (fun _ _ => rfl) s.serviceRegions
  have told := same LRegionSt.orcTold (fun _ _ => rfl) s.serviceRegions
  have begun := same LRegionSt.mbBegun (fun _ _ => rfl) s.serviceRegions
  show ({ s.takeSnap mb with
      ctrs := s.serviceRegions.map fun q => (q, ((s.withReport r).lreg q).ctrs)
      told := s.serviceRegions.map fun q => (q, ((s.withReport r).lreg q).orcTold)
      begun := s.serviceRegions.map fun q => (q, ((s.withReport r).lreg q).mbBegun) } : Snapshot) = _
  rw [ctrs, told, begun]
  rfl

section
variable {s : State} {r : Region}

theorem commitPointReport_idle (h : s.regionRuns r = false ∨ s.flt.phase ≠ .none ∨ s.waitsAtCommit r = false) : execCommitPointReport r s = .next s := by
  unfold execCommitPointReport
  rw [if_neg]
  simp only [Bool.and_eq_true, decide_eq_true_eq]
  rintro ⟨⟨runs, phase⟩, waits⟩
  obtain h | h | h := h
  · rw [h] at runs; cases runs
  · exact h phase
  · rw [h] at waits; cases waits

variable (runs : s.regionRuns r = true) (phase : s.flt.phase = .none) (waits : s.waitsAtCommit r = true)
include runs phase waits

theorem commitPointReport_waits (h : ∃ q ∈ s.serviceRegions, q ≠ r.val ∧ (s.lreg q).cpReported = false) : execCommitPointReport r s = .next (s.withReport r) := by
  obtain ⟨q, hq, hne, hr⟩ := h
  have missing : ¬ ((s.withReport r).serviceRegions.all fun q => ((s.withReport r).lreg q).cpReported) = true := by
    intro all
    have e := List.all_eq_true.mp all q hq
    rw [State.withReport, State.lreg_onLreg_ne _ _ hne, hr] at e
    cases e
  unfold execCommitPointReport
  rw [if_pos (by simp [runs, phase, waits])]
  exact if_neg missing

/-- The last report orders the snapshot of the module as it stands. -/
theorem commitPointReport_orders (h : ∀ q ∈ s.serviceRegions, q ≠ r.val → (s.lreg q).cpReported = true) :
    execCommitPointReport r s =
      .next (((s.withReport r).writeSnap (s.takeSnap (s.lreg r).mbBegun).runB).onFlt fun f => { f with pendSnap := some (s.takeSnap (s.lreg r).mbBegun) }) := by
  have all : ((s.withReport r).serviceRegions.all fun q => ((s.withReport r).lreg q).cpReported) = true := by
    refine List.all_eq_true.mpr fun q hq => ?_
    by_cases hne : q = r
    · rw [hne, State.withReport, State.lreg_onLreg_self]
    · rw [State.withReport, State.lreg_onLreg_ne _ _ hne]
      exact h q hq hne
  have begun : ((s.withReport r).lreg r).mbBegun = (s.lreg r).mbBegun := by rw [State.withReport, State.lreg_onLreg_self]
  have snap := takeSnap_withReport s r (s.lreg r).mbBegun
  unfold execCommitPointReport
  rw [if_pos (by simp [runs, phase, waits])]
  refine (if_pos all).trans ?_
  show Host.Outcome.next (((s.withReport r).writeSnap ((s.withReport r).takeSnap ((s.withReport r).lreg r).mbBegun).runB).onFlt
    fun f => { f with pendSnap := some ((s.withReport r).takeSnap ((s.withReport r).lreg r).mbBegun) }) = _
  rw [begun, snap]

end

/-! The snapshot settles. -/

section
variable {s : State} {q : Snapshot}

theorem snapshotSettled_none (h : s.flt.pendSnap = none) : execSnapshotSettled s = .next s := by
  unfold execSnapshotSettled
  rw [h]

theorem snapshotSettled_open (h : s.flt.pendSnap = some q) (o : s.snapIsSettled q = false) : execSnapshotSettled s = .next s := by
  unfold execSnapshotSettled
  rw [h]
  exact if_pos (by simp [o])

theorem snapshotSettled_boundary (h : s.flt.pendSnap = some q) (o : s.snapIsSettled q = true) (b : s.run.inStep = false) :
    execSnapshotSettled s = .next (s.onFlt fun f => { f with snap := some q, pendSnap := none }).advanceAgain := by
  have settles : s.settleSnap = s.onFlt fun f => { f with snap := some q, pendSnap := none } := by
    unfold State.settleSnap
    rw [h]
    exact if_pos o
  unfold execSnapshotSettled
  rw [h, ← settles]
  exact (if_neg (by simp [o])).trans (if_pos (by simp [b]))

/-- Within a step the regions may begin their micro-batches, and the inbound logs keep the step's contributions. -/
theorem snapshotSettled_within_step (h : s.flt.pendSnap = some q) (o : s.snapIsSettled q = true) (b : s.run.inStep = true) :
    execSnapshotSettled s = .next ((s.onLregs fun l => { l with cpReported := false }).onFlt fun f =>
      { f with snap := some q, pendSnap := none, logFull := false, inlog := f.inlog.filter fun x => !x.sent && s.isContribution x.p }) := by
  unfold execSnapshotSettled
  rw [h]
  exact (if_neg (by simp [o])).trans (if_neg (by simp [b]))

/-- An open delta of one of its lines leaves the snapshot unsettled. -/
theorem snapIsSettled_open (h : ∃ r ∈ s.serviceRegions, ∃ d ∈ (s.lreg r).outDeltas, (d.bank, d.line) ∈ s.snapLines q.runB r) : s.snapIsSettled q = false := by
  obtain ⟨r, hr, d, hd, hl⟩ := h
  refine Bool.eq_false_iff.mpr fun settled => ?_
  have region := List.all_eq_true.mp settled r hr
  have delta := List.all_eq_true.mp region d hd
  rw [List.contains_iff_mem.mpr hl] at delta
  cases delta

end

/-- An entry of a table changed entry by entry is listed unless it has become the default. -/
theorem mapTab_lists {α : Type} [DecidableEq α] (d : α) (f : α → α) (t : Tab α) {y : Nat × α} (h : y ∈ t) : f y.2 = d ∨ (y.1, f y.2) ∈ mapTab d f t := by
  by_cases e : f y.2 = d
  · exact Or.inl e
  · exact Or.inr (List.mem_filter.mpr ⟨List.mem_map.mpr ⟨y, h, rfl⟩, by simp [e]⟩)

/-- A region that may begin its micro-batch: its report is done with. -/
def LRegionSt.unreported (l : LRegionSt) : LRegionSt := { l with cpReported := false }

/-- Settles O41: who has reported decides the report, and what is open or in step decides the settling. -/
theorem commitPointsAreReportedAndSettled : Obligations.CommitPointsAreReportedAndSettled := by
  refine ⟨fun s r runs phase waits _ => ⟨fun h => ?waits, fun h => ?orders⟩, fun s r h => commitPointReport_idle h,
    fun s q h o b => snapshotSettled_boundary h o b, fun s q h o b => ?settles, fun s q h d => snapshotSettled_open h (snapIsSettled_open d), fun s h => snapshotSettled_none h⟩
  case waits =>
    exact ⟨_, commitPointReport_waits runs phase waits h, State.lreg_onLreg_self .., onLreg_sameBut s r _, onLreg_changes ..⟩
  case orders =>
    have written := writeSnap_changes (s.withReport r) (s.takeSnap (s.lreg r).mbBegun).runB
    have frame := writeSnap_in (L := [.free, .lregions, .net, .store, .orc, .flt]) (runB := (s.takeSnap (s.lreg r).mbBegun).runB)
      (onlyChanges_mono (onLreg_changes s r fun l => { l with cpReported := true }) (by decide)) (by decide)
    refine ⟨_, s.takeSnap (s.lreg r).mbBegun, commitPointReport_orders runs phase waits h, ?_, ?_, rfl, rfl, fun e => ?_, fun q e => ?_,
      rfl, rfl, rfl, rfl, rfl, rfl, rfl, fun b hb => ?_, onFlt_in frame (by decide)⟩
    · rw [State.onFlt_flt, onlyChanges_flt written (by decide)]
      rfl
    · obtain ⟨od, oq, e⟩ := (writeSnap_owes (s.withReport r) (s.takeSnap (s.lreg r).mbBegun).runB).regions r
      rw [State.lreg_onFlt, e, State.withReport, State.lreg_onLreg_self]
    · simp only [State.takeSnap, e]
    · simp only [State.takeSnap, e]
    · exact (writeSnap_off (s.withReport r) _ b (offSnap_cfg rfl hb)).1
  case settles =>
    refine ⟨_, snapshotSettled_within_step h o b, rfl, fun x hx => mapTab_mem ({} : LRegionSt) LRegionSt.unreported _ x hx,
      fun y hy => mapTab_lists ({} : LRegionSt) LRegionSt.unreported _ hy, ?_⟩
    exact onFlt_in (onLregs_in (onlyChanges_refl _ _) (by decide)) (by decide)

end Sys2Proof.Machine
end

section
/-! The end of a step in a region, its commit, and the commit token of the next (R19, R22, R64, R174, R176, R177). -/

namespace Sys2Proof.Machine

/-! The step commit (R22, R176). -/

/-- The slot of the step in hand is released (R22). -/
def State.slotReleased (s : State) : State := s.onStore fun t => { t with slots := t.slots.set 0 (s.slotFor s.run.step) 0 }

/-- The step counted and its completion posted, nothing of the boundary done yet (R22). -/
def State.stepCounted (s : State) : State :=
  let u := s.slotReleased
  let v := (u.updateScale.onPrs fun p => { p with asmHi := u.asmHigh }).onLregs fun x => { x with hiwat := 0 }
  (v.postEvent 1 u.stepRes1 s.run.step).onRun fun r => { r with step := s.run.step + 1, inStep := false, ended := [] }

theorem stepCommit_eq {s : State} (h : s.mayCommit = true) : execStepCommit s = .next s.stepCounted.clearStep.endRerun.boundarySnap.afterCommit := by
  unfold execStepCommit
  rw [if_pos h]
  rfl

/-- The loss scale moves by the press alone: which slots are in use does not matter (R176). -/
theorem updateScale_slotReleased (s : State) : s.slotReleased.updateScale.prs = s.updateScale.prs := by
  unfold State.updateScale
  extract_lets c d
  show (if c.lsen = true then _ else _ : State).prs = (if c.lsen = true then _ else _ : State).prs
  split <;> rfl

theorem stepCounted_exp (s : State) : s.stepCounted.prs.exp = s.updateScale.prs.exp := by
  unfold State.stepCounted
  extract_lets u v
  rw [State.onRun_prs, onlyChanges_prs (postEvent_changes v _ _ _) (by decide)]
  show s.slotReleased.updateScale.prs.exp = _
  rw [updateScale_slotReleased]

theorem stepCounted_event (s : State) :
    (s.stepCounted.run.events.get {} 1).pend = true ∧ (s.stepCounted.run.events.get {} 1).res1 = s.slotReleased.stepRes1 ∧ (s.stepCounted.run.events.get {} 1).res0 = s.run.step :=
  postEvent_pends _ 1 s.slotReleased.stepRes1 s.run.step

/-- What follows the count at the boundary leaves the counter and the completion as they are, and the loss scale. -/
theorem boundary_after_count (s : State) :
    sameStep s s.clearStep.endRerun.boundarySnap.afterCommit ∧ s.clearStep.endRerun.boundarySnap.afterCommit.prs.exp = s.prs.exp := by
  have snapped := boundarySnap_changes s.clearStep.endRerun
  have after := afterCommit_changes s.clearStep.endRerun.boundarySnap
  constructor
  · have cleared : sameStep s s.clearStep := sameStep_of (clearStep_changes s) (by decide)
    have ended : sameStep s.clearStep s.clearStep.endRerun := ⟨rfl, rfl⟩
    exact sameStep_trans (sameStep_trans cleared ended) (sameStep_trans (sameStep_of snapped (by decide)) (afterCommit_sameStep _))
  · rw [onlyChanges_prs after (by decide), onlyChanges_prs snapped (by decide)]
    rfl

/-! Settings at a region's boundary (R304, R364). -/

theorem askClock_counts (s : State) (p k f q : Nat) : ((s.askClock p k f).reg q).counts = (s.reg q).counts := by
  unfold State.askClock
  by_cases h : q = p
  · rw [h, State.reg_onReg_self]
  · rw [State.reg_onReg_ne _ _ h]

theorem clockFrom_counts (s : State) (p q : Nat) : ((s.clockFrom p).reg q).counts = (s.reg q).counts := by
  have set (k : Nat) : ((s.onReg p fun g => { g with k := k, kNext := none, lock := g.lock && decide (k = (s.reg p).k) }).reg q).counts = (s.reg q).counts := by
    by_cases h : q = p
    · rw [h, State.reg_onReg_self]
    · rw [State.reg_onReg_ne _ _ h]
  unfold State.clockFrom
  split
  · rfl
  · split
    · exact set _
    · exact set _

/-- Settings that take effect in a region leave its counts alone. -/
theorem stepBoundaryRegion_counts (s : State) (p q : Nat) : ((s.stepBoundaryRegion p).reg q).counts = (s.reg q).counts := by
  unfold State.stepBoundaryRegion
  extract_lets u
  have asked : (u.reg q).counts = (s.reg q).counts := by
    simp only [u]
    split
    · rfl
    · exact askClock_counts ..
  rw [clockFrom_counts]
  unfold State.reg at asked ⊢
  rw [onlyChanges_regions (applyStaged_changes u _) (by decide), asked]

/-! The commit token (R19, R64, R174, R177). -/

theorem sramBase_same {s t : State} (hc : t.cfg = s.cfg) (hf : t.flt = s.flt) (r c : Nat) : t.sramBase r c = s.sramBase r c := by
  unfold State.sramBase State.phys State.pcore
  rw [hc, hf]

theorem beatUse_same {s t : State} (h : t.cfg = s.cfg) (p : Nat) : t.beatUse p = s.beatUse p := by
  have placed : t.phys = s.phys := funext fun r => congrArg (fun c : ConfigSt => c.map.get none r) h
  unfold State.beatUse State.logicalOf State.course
  rw [placed, h]

/-- The scale cells of a region are all that is written of SRAM (R177). -/
theorem writeScale_sram (s : State) (r b : Nat)
    (h : ∀ c ∈ s.pressCourse.cells, c.1 = r → ¬ (s.sramBase r c.2.1 + c.2.2 ≤ b ∧ b < s.sramBase r c.2.1 + c.2.2 + 4)) :
    Tab.get (0 : Byte) (s.writeScale r).sram b = Tab.get (0 : Byte) s.sram b := by
  unfold State.writeScale
  extract_lets v u
  have len : v.length = 4 := leBytes_length _ _
  have cells : Tab.get (0 : Byte) u.sram b = Tab.get (0 : Byte) s.sram b := by
    refine foldl_writeSram_get (fun _ => r) (fun c : Nat × Nat × Nat => c.2.1) (fun c => c.2.2) (fun _ => v) b (s.pressCourse.cells.filter fun c => c.1 = r) s fun c hc => ?_
    obtain ⟨listed, own⟩ := List.mem_filter.mp hc
    rw [len]
    exact h c listed (of_decide_eq_true own)
  split
  · exact cells
  · exact cells

/-- The region's counts latched and its schedules evaluated as it becomes active. -/
def State.activated (s : State) (r p : Nat) : State :=
  ((s.latchOnce r p).evalSchedules r).onLreg r fun l => { l with active := true, reentered := l.reentered || s.run.rerun }

theorem activated_changes (s : State) (r p : Nat) : onlyChanges [.lregions, .regions] s (s.activated r p) :=
  onLreg_in (onlyChanges_step (latchOnce_changes s r p) (evalSchedules_changes _ r) (by decide)) (by decide)

theorem activated_lreg (s : State) (r p : Nat) :
    ((s.activated r p).lreg r).active = true ∧ ((s.activated r p).lreg r).counted = false ∧
      ((s.activated r p).lreg r).lrs = s.pressCourse.scheds.map (fun c => w64 (schedValue c s.run.step)) := by
  have latched : (s.latchOnce r p).run = s.run ∧ (s.latchOnce r p).cfg = s.cfg :=
    ⟨onlyChanges_run (latchOnce_changes s r p) (by decide), onlyChanges_cfg (latchOnce_changes s r p) (by decide)⟩
  have uncounted : ((s.latchOnce r p).lreg r).counted = false := congrArg LRegionSt.counted (State.lreg_onLreg_self ..)
  unfold State.activated State.evalSchedules
  rw [State.lreg_onLreg_self, State.lreg_onLreg_self]
  refine ⟨rfl, uncounted, ?_⟩
  show (s.latchOnce r p).pressCourse.scheds.map _ = _
  unfold State.pressCourse
  rw [latched.1, latched.2]

theorem latchOnce_sameBut (s : State) (r p : Nat) : sameBut {} r s.lregions (s.latchOnce r p).lregions := by
  unfold State.latchOnce
  split
  · exact onLreg_sameBut s r _
  · exact onLreg_sameBut (s.latchCounts p) r _

theorem activated_sameBut (s : State) (r p : Nat) : sameBut {} r s.lregions (s.activated r p).lregions :=
  sameBut_trans (latchOnce_sameBut s r p) (sameBut_trans (onLreg_sameBut _ r _) (onLreg_sameBut _ r _))

/-- Counts not yet latched at this boundary are latched (R64). -/
theorem activated_latches (s : State) (r p : Nat) (h : (s.lreg r).counted = false) :
    ((s.activated r p).reg p).counts = [] ∧ ((s.activated r p).reg p).latched = latchedOf p s.cfg.epoch s.run.step (s.beatUse p) (s.reg p).counts := by
  have e : (s.activated r p).reg p = (s.latchCounts p).reg p := by
    show ((s.latchOnce r p).reg p) = _
    unfold State.latchOnce
    rw [if_neg (by simp [h])]
    rfl
  rw [e]
  unfold State.latchCounts
  rw [State.reg_onReg_self]
  exact ⟨rfl, rfl⟩

/-- The token taken off those that are on their way. -/
def State.tokenArrived (s : State) (r : Nat) : State := s.onRun fun x => { x with tokens := x.tokens.filter (· ≠ r) }

/-- Up to the settings that take effect, a token changes nothing of the region's work. -/
theorem tokenArrived_settles (s : State) (r p : Nat) : onlyChanges [.regions, .settings, .run, .log] s ((s.tokenArrived r).stepBoundaryRegion p) :=
  onlyChanges_step (onlyChanges_mono (onRun_changes s _) (by decide)) (stepBoundaryRegion_changes (s.tokenArrived r) p) (by decide)

/-- The end of a region's step reported (R22). -/
def State.endReported (s : State) (r : Nat) : State :=
  (s.onLreg r fun l => { l with active := false, endSent := true }).onRun fun x => { x with ended := x.ended ++ [r] }

theorem endReported_lreg (s : State) (r : Nat) : (s.endReported r).lreg r = { s.lreg r with active := false, endSent := true } :=
  State.lreg_onLreg_self s r fun l => { l with active := false, endSent := true }

section
variable {s : State} {r : Region} {p : Nat} (token : s.run.tokens.contains r.val = true) (phys : s.phys r = some p)
include token phys

theorem commitToken_active (h : (s.lreg r).active = true) : execCommitToken r s = .next ((s.tokenArrived r).stepBoundaryRegion p) := by
  have there : (s.tokenArrived r).phys r = some p := phys
  have lregs : ((s.tokenArrived r).stepBoundaryRegion p).lregions = s.lregions := onlyChanges_lregions (tokenArrived_settles s r p) (by decide)
  have active : (((s.tokenArrived r).stepBoundaryRegion p).lreg r).active = true := by unfold State.lreg at h ⊢; rw [lregs, h]
  unfold execCommitToken
  rw [if_pos token]
  show Host.Outcome.next ((s.tokenArrived r).takeToken r) = _
  unfold State.takeToken
  rw [there]
  exact congrArg Host.Outcome.next (if_pos active)

theorem commitToken_activates (h : (s.lreg r).active = false) :
    execCommitToken r s = .next ((((s.tokenArrived r).stepBoundaryRegion p).activated r p).writeScale r) := by
  have there : (s.tokenArrived r).phys r = some p := phys
  have settled := tokenArrived_settles s r p
  have lregs : ((s.tokenArrived r).stepBoundaryRegion p).lregions = s.lregions := onlyChanges_lregions settled (by decide)
  have idle : (((s.tokenArrived r).stepBoundaryRegion p).lreg r).active = false := by unfold State.lreg at h ⊢; rw [lregs, h]
  have still : ((s.tokenArrived r).stepBoundaryRegion p).phys r = some p := by unfold State.phys at phys ⊢; rw [onlyChanges_cfg settled (by decide), phys]
  have rerun : (((s.tokenArrived r).stepBoundaryRegion p).latchOnce r p).run = ((s.tokenArrived r).stepBoundaryRegion p).run := onlyChanges_run (latchOnce_changes _ r p) (by decide)
  unfold execCommitToken
  rw [if_pos token]
  show Host.Outcome.next ((s.tokenArrived r).takeToken r) = _
  unfold State.takeToken
  rw [there]
  refine congrArg Host.Outcome.next ((if_neg (by simp [idle])).trans ?_)
  simp only [still]
  unfold State.activated
  rw [← rerun]

end

/-- Settles O23: the report region by region, the commit by what is counted before the boundary, the token by whether the region has it already. -/
theorem stepsEndAndCommitAtTheirBoundary : Obligations.StepsEndAndCommitAtTheirBoundary := by
  refine ⟨fun s r runs unsent done => ?report, fun s h => ?commit, fun s r p token phys => ⟨fun h => ?activates, fun h => ?settings⟩⟩
  case report =>
    have e : execEndOfStepReport r s = .next (s.endReported r) := if_pos (by simp [runs, unsent, done])
    exact ⟨_, e, endReported_lreg s r, rfl, onLreg_sameBut s r fun l => { l with active := false, endSent := true }, execEndOfStepReport_within r s _ e⟩
  case commit =>
    obtain ⟨⟨step, event⟩, exp⟩ := boundary_after_count s.stepCounted
    obtain ⟨pend, res1, res0⟩ := stepCounted_event s
    refine ⟨_, stepCommit_eq h, step, ?_, ?_, ?_, exp.trans (stepCounted_exp s), execStepCommit_within s _ (stepCommit_eq h)⟩
    · rw [event, pend]
    · rw [event, res0]
    · rw [event, res1]
      rfl
  case settings =>
    exact ⟨_, commitToken_active token phys h, onlyChanges_run (stepBoundaryRegion_changes (s.tokenArrived r) p) (by decide), tokenArrived_settles s r p⟩
  case activates =>
    have settled := tokenArrived_settles s r p
    have run : ((s.tokenArrived r).stepBoundaryRegion p).run = (s.tokenArrived r).run := onlyChanges_run (stepBoundaryRegion_changes (s.tokenArrived r) p) (by decide)
    have counts := stepBoundaryRegion_counts (s.tokenArrived r) p p
    have e := commitToken_activates token phys h
    generalize (s.tokenArrived r).stepBoundaryRegion p = u at settled run counts e
    have ucfg : u.cfg = s.cfg := onlyChanges_cfg settled (by decide)
    have ulregs : u.lregions = s.lregions := onlyChanges_lregions settled (by decide)
    have active := activated_changes u r p
    have scaled := writeScale_changes (u.activated r p) r
    obtain ⟨isActive, uncounted, lrs⟩ := activated_lreg u r p
    have lreg : ((u.activated r p).writeScale r).lreg r = (u.activated r p).lreg r := by unfold State.lreg; rw [onlyChanges_lregions scaled (by decide)]
    have reg : ((u.activated r p).writeScale r).reg p = (u.activated r p).reg p := by unfold State.reg; rw [onlyChanges_regions scaled (by decide)]
    refine ⟨_, e, ?_, ?_, ?_, ?_, fun hc => ?_, fun b hb => ?_, ?_, execCommitToken_within r s _ e⟩
    · rw [onlyChanges_run scaled (by decide), onlyChanges_run active (by decide), run]
      rfl
    · rw [lreg, isActive]
    · rw [lreg, uncounted]
    · rw [lreg, lrs]
      unfold State.pressCourse
      rw [ucfg, run]
      rfl
    · have unlatched : (u.lreg r).counted = false := by unfold State.lreg at hc ⊢; rw [ulregs, hc]
      obtain ⟨empty, latched⟩ := activated_latches u r p unlatched
      rw [reg, latched, ucfg, run, counts, beatUse_same ucfg]
      exact ⟨empty, rfl⟩
    · have acfg : (u.activated r p).cfg = s.cfg := (onlyChanges_cfg active (by decide)).trans ucfg
      have aflt : (u.activated r p).flt = s.flt := (onlyChanges_flt active (by decide)).trans (onlyChanges_flt settled (by decide))
      rw [writeScale_sram _ r b, onlyChanges_sram active (by decide), onlyChanges_sram settled (by decide)]
      · intro c hc
        unfold State.pressCourse at hc
        rw [acfg] at hc
        rw [sramBase_same acfg aflt]
        exact hb c hc
    · rw [onlyChanges_lregions scaled (by decide), ← ulregs]
      exact activated_sameBut u r p

end Sys2Proof.Machine
end

section
/-! STEP_RUN of a module at a boundary: it crosses, or waits there for its commit point (R19, R279, R350). -/

namespace Sys2Proof.Machine

theorem withSnap_changes (s : State) : onlyChanges [.free, .lregions, .net, .store, .orc, .flt] s s.withSnap :=
  onlyChanges_ite (onlyChanges_refl _ _) (boundarySnap_changes s)

theorem withSnap_slots (s : State) : s.withSnap.store.slots = s.store.slots := by
  unfold State.withSnap
  split
  · rfl
  · exact (boundarySnap_owes s).slots

/-- A commit point that stands needs no new snapshot (R279). -/
theorem withSnap_stands {s : State} (h : s.snapStands = true) : s.withSnap = s := if_pos (by simp [h])

/-- The commit token goes out to the regions in service (R19). -/
theorem sendTokens_run (s : State) : s.sendTokens.run = { s.run with crossed := true, tokens := s.serviceRegions, ended := [], atStep := false } := by
  have settled := stepBoundaryModule_changes s
  show ({ s.stepBoundaryModule.run with crossed := true, tokens := s.stepBoundaryModule.serviceRegions, ended := [], atStep := false } : RunSt) = _
  unfold State.serviceRegions State.inService
  rw [onlyChanges_run settled (by decide), onlyChanges_cfg settled (by decide)]

theorem sendTokens_keeps (s : State) : onlyChanges [.regions, .settings, .num, .run] s s.sendTokens := by
  have settled : onlyChanges [.regions, .settings, .num, .run] s s.stepBoundaryModule := onlyChanges_mono (stepBoundaryModule_changes s) (by decide)
  unfold State.sendTokens
  extract_lets u
  exact onRun_in (onNum_in settled (by decide)) (by decide)

/-- A step begins where its slot is full, and the slot is then in use (R152). -/
theorem tryBegin_begins {s : State} (h : s.run.inStep = false) :
    s.tryBegin.run.tokens = s.run.tokens ∧ s.tryBegin.run.inStep = decide (s.store.slots.get 0 (s.slotFor s.run.step) = 1) ∧
      (s.tryBegin.run.inStep = true → s.tryBegin.store.slots.get 0 (s.slotFor s.run.step) = 2) := by
  unfold State.tryBegin
  by_cases full : s.store.slots.get 0 (s.slotFor s.run.step) = 1
  · rw [if_pos full]
    exact ⟨rfl, (decide_eq_true full).symm, fun _ => Tab.get_set_self (0 : Nat) s.store.slots (s.slotFor s.run.step) 2⟩
  · rw [if_neg full]
    refine ⟨rfl, h.trans (decide_eq_false full).symm, fun begun => ?_⟩
    rw [h] at begun
    cases begun

/-- Until the commit point of the boundary is settled nothing of the step begins; its settling is all that the crossing waits for (R279). -/
theorem crossBoundary_flt (s : State) : s.crossBoundary.flt = s.withSnap.flt := by
  have begins : s.withSnap.sendTokens.tryBegin.flt = s.withSnap.flt :=
    (onlyChanges_flt (tryBegin_changes _) (by decide)).trans (onlyChanges_flt (sendTokens_keeps _) (by decide))
  rw [crossBoundary_eq]
  split
  · rfl
  · exact begins

theorem crossBoundary_stays {s : State} (h : s.crossBoundary.flt.pendSnap ≠ none) : s.crossBoundary.run = s.run ∧ s.crossBoundary.num = s.num := by
  have open_ : s.withSnap.flt.pendSnap.isSome = true := by rwa [crossBoundary_flt, ← Option.isSome_iff_ne_none] at h
  rw [crossBoundary_eq, if_pos open_]
  exact ⟨onlyChanges_run (withSnap_changes s) (by decide), onlyChanges_num (withSnap_changes s) (by decide)⟩

theorem crossBoundary_crosses {s : State} (h : s.crossBoundary.flt.pendSnap = none) (between : s.run.inStep = false) :
    s.crossBoundary.run.tokens = s.serviceRegions ∧ s.crossBoundary.num.summary = 0 ∧ s.crossBoundary.num.gnf = false ∧
      s.crossBoundary.run.inStep = decide (s.store.slots.get 0 (s.slotFor s.run.step) = 1) ∧
      (s.crossBoundary.run.inStep = true → s.crossBoundary.store.slots.get 0 (s.slotFor s.run.step) = 2) := by
  have settled : s.withSnap.flt.pendSnap.isSome = false := by rw [← crossBoundary_flt, h]; rfl
  have snapped := withSnap_changes s
  have run : s.withSnap.run = s.run := onlyChanges_run snapped (by decide)
  have cfg : s.withSnap.cfg = s.cfg := onlyChanges_cfg snapped (by decide)
  have sent := sendTokens_run s.withSnap
  have kept := sendTokens_keeps s.withSnap
  have slots : s.withSnap.sendTokens.store.slots = s.store.slots := by rw [onlyChanges_store kept (by decide), withSnap_slots]
  have slot : s.withSnap.sendTokens.slotFor s.withSnap.sendTokens.run.step = s.slotFor s.run.step := by
    unfold State.slotFor State.stepCourse
    rw [onlyChanges_cfg kept (by decide), cfg, sent, run]
  obtain ⟨tokens, begins, inUse⟩ := tryBegin_begins (s := s.withSnap.sendTokens) (by rw [sent, run, between])
  have num := onlyChanges_num (tryBegin_changes s.withSnap.sendTokens) (by decide)
  rw [slots, slot] at begins
  rw [slot] at inUse
  rw [crossBoundary_eq, if_neg (by simp [settled])]
  refine ⟨?_, by rw [num]; rfl, by rw [num]; rfl, begins, inUse⟩
  rw [tokens, sent]
  unfold State.serviceRegions State.inService
  rw [cfg]

/-- Crossing leaves the run state, its limit and the step counter as they were. -/
theorem crossBoundary_counts (s : State) : s.crossBoundary.run.st = s.run.st ∧ s.crossBoundary.run.limit = s.run.limit ∧ s.crossBoundary.run.step = s.run.step := by
  have run : s.withSnap.run = s.run := onlyChanges_run (withSnap_changes s) (by decide)
  have begins (u : State) : u.tryBegin.run.st = u.run.st ∧ u.tryBegin.run.limit = u.run.limit ∧ u.tryBegin.run.step = u.run.step := by
    unfold State.tryBegin
    split
    · exact ⟨rfl, rfl, rfl⟩
    · exact ⟨rfl, rfl, rfl⟩
  rw [crossBoundary_eq]
  split
  · rw [run]
    exact ⟨rfl, rfl, rfl⟩
  · rw [← run]
    have sent := sendTokens_run s.withSnap
    obtain ⟨st, limit, step⟩ := begins s.withSnap.sendTokens
    rw [sent] at st limit step
    exact ⟨st, limit, step⟩

/-- The module set RUNNING with a limit (R350). -/
def State.startRun (s : State) (limit : U64) : State := (s.onRun fun r => { r with atStep := false }).onRun fun r => { r with st := .running, limit := limit }

theorem startRun_snapStands (s : State) (limit : U64) : (s.startRun limit).snapStands = s.snapStands := by
  have same (mb : Nat) : (s.startRun limit).takeSnap mb = s.takeSnap mb := rfl
  unfold State.snapStands
  simp only [same]
  rfl

end Sys2Proof.Machine
end

section
/-! STEP_RUN, STEP_HOLD, BATCH_FEED and COMPUTE_RESET (Table 15.6, R329, R350, R351). -/

namespace Sys2Proof.Machine

/-! STEP_HOLD (R350). -/

section
variable {s : State} {h : CmdHdr} (cid : h.cid ≠ 0xFFFF)
include cid

theorem stepRun_crosses {limit : U64} (stopped : s.run.st = .stopped) (intact : s.flt.needLoad = false) (may : (s.startRun limit).mayCross) :
    execStepRun h limit s = .next ((s.startRun limit).crossBoundary.done0 h 0) := by
  rw [← advance_crosses may]
  unfold execStepRun State.runStep
  rw [if_neg (by simp [badHdr_eq cid]), if_neg (by simp [stopped, intact])]
  have resumed : (if s.run.st ≠ .held then s.onRun fun r => { r with atStep := false } else if s.run.hcause = 3 then s.replayHeld else s.releaseHold) =
      s.onRun fun r => { r with atStep := false } := if_pos (by simp [stopped])
  simp only [resumed]
  rfl

theorem stepHold_boundary (running : s.run.st = .running) (within : s.run.inStep = true) : execStepHold h 1 s = .next (s.waitHold h 1).askStop := by
  unfold execStepHold State.runHold
  rw [if_neg (by simp [badHdr_eq cid]), running]
  refine congrArg Host.Outcome.next ((if_pos rfl).trans ?_)
  exact if_pos (by simp [State.askStop, State.waitHold, within])

theorem stepHold_now (running : s.run.st = .running) (within : s.run.inStep = true) (whole : s.flt.phase = .none) :
    execStepHold h 0 s = .next ((s.waitHold h 0).triggerHold 0 false) := by
  unfold execStepHold State.runHold
  rw [if_neg (by simp [badHdr_eq cid]), running]
  refine congrArg Host.Outcome.next ((if_neg (by decide)).trans ?_)
  exact (if_neg (by simp [State.waitHold, whole])).trans (if_pos within)

theorem stepHold_held (held : s.run.st = .held) (between : s.run.inStep = false) :
    execStepHold h 0 s = .next (s.complete h 0 (s.run.step - 1) (BitVec.ofNat 64 s.lastMb) 0) := by
  unfold execStepHold State.runHold
  rw [if_neg (by simp [badHdr_eq cid]), held]
  refine congrArg Host.Outcome.next ((if_pos (Or.inl rfl)).trans ?_)
  exact if_pos (by simp [between])

end

/-- A hold not yet triggered is triggered at the highest micro-batch begun (R47). -/
theorem triggerHold_begun {s : State} (none_ : s.num.hold = none) (going : s.num.held = false) :
    s.triggerHold 0 false = s.onNum fun n => { n with hold := some (n.top - 1), holdNumeric := false, heard := [] } := by
  have trigger : s.triggerHold 0 false = s.onNum fun n => { n with hold := some (max 0 (n.top - 1)), holdNumeric := false, heard := [] } := by
    unfold State.triggerHold
    rw [none_]
    exact if_neg (by simp [going])
  simpa using trigger

/-! BATCH_FEED (R351). -/

/-- The slot of a step is full (R152). -/
def State.slotFull (s : State) (k : Nat) : State := s.onStore fun t => { t with slots := t.slots.set 0 k 1 }

theorem batchFeed_fills {s : State} {h : CmdHdr} {n : U64} (cid : h.cid ≠ 0xFFFF) (ok : s.feedOk n = true) (free : s.store.slots.get 0 (s.slotFor n) = 0)
    (settled : s.slotSettled (s.slotFor n) = true) (passes : s.slotPasses (s.slotFor n) = true) (within : s.run.inStep = true) :
    execBatchFeed h n s = .next ((s.slotFull (s.slotFor n)).complete h 0 (BitVec.ofNat 64 (s.slotFor n)) 0 0) := by
  have stays : ((s.slotFull (s.slotFor n)).complete h 0 (BitVec.ofNat 64 (s.slotFor n)) 0 0).advance =
      (s.slotFull (s.slotFor n)).complete h 0 (BitVec.ofNat 64 (s.slotFor n)) 0 0 := if_pos (by simp [State.complete, State.slotFull, within])
  have ends : s.endFeed h n = ((s.slotFull (s.slotFor n)).complete h 0 (BitVec.ofNat 64 (s.slotFor n)) 0 0).advance := by
    unfold State.endFeed
    extract_lets k
    exact (if_neg (by simp [k, free])).trans (if_neg (by simp [k, passes]))
  unfold execBatchFeed State.runBatchFeed
  rw [if_neg (by simp [badHdr_eq cid]), if_neg (by simp [ok]), if_pos settled, ends, stays]

/-! COMPUTE_RESET (R329, Table 14.10). -/

/-- With no other command in hand there is none to end (R346). -/
theorem endCommands_none {s : State} (h : s.commandsInHand = []) : s.endCommands = s := by
  have same : (s.onRun fun r => { r with laneQ := [], holds := [], feeds := [], check := none, resetCmd := none }) = s := by
    simp only [State.commandsInHand, List.append_eq_nil_iff, List.map_eq_nil_iff, Option.toList_eq_nil_iff] at h
    obtain ⟨⟨⟨⟨lane, holds⟩, feeds⟩, check⟩, reset⟩ := h
    have run : ({ s.run with laneQ := [], holds := [], feeds := [], check := none, resetCmd := none } : RunSt) = s.run := by
      generalize s.run = r at lane holds feeds check reset ⊢
      cases r
      simp only at lane holds feeds check reset
      subst lane holds feeds check reset
      rfl
    exact congrArg (fun r => { s with run := r }) run
  unfold State.endCommands
  rw [h, List.foldl_nil, same]

/-- A window write carried out leaves the host queues alone. -/
theorem applyGather_hq (s : State) (k : Nat) : (s.applyGather k).brg.hq = s.brg.hq := by
  unfold State.applyGather
  split
  · rfl
  · extract_lets r bank
    rw [onlyChanges_brg (changeLine_changes ..) (by decide)]
    rfl

theorem applyGathered_hq (s : State) : s.applyGathered.brg.hq = s.brg.hq :=
  List.foldlRecOn (motive := fun t : State => t.brg.hq = s.brg.hq) _ State.applyGather rfl fun t ht k _ => (applyGather_hq t k).trans ht

/-- A region that idles stays retired or not. -/
theorem idleRegions_retired (s : State) (r : Nat) : (s.idleRegions.reg r).retired = (s.reg r).retired := by
  refine List.foldlRecOn (motive := fun t : State => (t.reg r).retired = (s.reg r).retired) _ _ rfl fun t ht p _ => ?_
  by_cases h : r = p
  · rw [← ht, h, State.reg_onReg_self]
    rfl
  · rw [State.reg_onReg_ne _ _ h, ht]

/-- The writes of the window and the bridge's restarts, which come before anything is cleared. -/
def State.beforeClear (s : State) : State := s.applyGathered.resetBridge

theorem beforeClear_changes (s : State) : onlyChanges [.lregions, .brg, .net, .store, .orc, .dma] s s.beforeClear :=
  onlyChanges_step (onlyChanges_mono (applyGathered_changes s) (by decide)) (resetBridge_changes _) (by decide)

/-- What a reset does once the compute tier is cleared: regions idle, traffic goes, and a map that moved is logged. -/
theorem computeReset_after (s : State) : onlyChanges [.regions, .net, .store, .orc, .log] s.beforeClear.clearCompute s.computeReset := by
  have idled : onlyChanges [.regions, .net, .store, .orc, .log] s.beforeClear.clearCompute s.beforeClear.clearCompute.idleRegions.clearTraffic :=
    onlyChanges_step (onlyChanges_mono (idleRegions_changes _) (by decide)) (clearTraffic_changes _) (by decide)
  unfold State.computeReset
  extract_lets t
  exact onlyChanges_ite (logHealth_in idled (by decide)) idled

/-- The reset's own log record touches neither store nor regions. -/
theorem computeReset_logged (s : State) : onlyChanges [.log] s.beforeClear.clearCompute.idleRegions.clearTraffic s.computeReset := by
  unfold State.computeReset
  extract_lets t
  exact onlyChanges_ite (logHealth_changes ..) (onlyChanges_refl _ _)

theorem clearTraffic_mem (s : State) : s.clearTraffic.store.mem = s.store.mem := by
  unfold State.clearTraffic
  rw [onlyChanges_store (recomputeRoutes_changes _) (by decide)]
  rfl

theorem computeReset_mem (s : State) : s.computeReset.store.mem = s.applyGathered.store.mem := by
  have idled := onlyChanges_store (idleRegions_changes s.beforeClear.clearCompute) (by decide)
  rw [onlyChanges_store (computeReset_logged s) (by decide), clearTraffic_mem, idled, onlyChanges_store (clearCompute_changes _) (by decide)]
  exact congrArg StoreSt.mem (onlyChanges_store (resetBridge_changes _) (by decide))

theorem computeReset_retired (s : State) (r : Nat) : (s.computeReset.reg r).retired = (s.reg r).retired := by
  have before : s.beforeClear.clearCompute.reg r = s.reg r := by
    unfold State.reg
    rw [onlyChanges_regions (clearCompute_changes _) (by decide), onlyChanges_regions (beforeClear_changes s) (by decide)]
  have traffic : s.computeReset.reg r = s.beforeClear.clearCompute.idleRegions.reg r := by
    unfold State.reg
    rw [onlyChanges_regions (computeReset_logged s) (by decide), onlyChanges_regions (clearTraffic_changes _) (by decide)]
  rw [traffic, idleRegions_retired, before]

theorem computeReset_hq (s : State) (q : Nat) : s.computeReset.hq q = s.hq q := by
  unfold State.hq
  rw [onlyChanges_brg (computeReset_after s) (by decide), onlyChanges_brg (clearCompute_changes _) (by decide),
    State.beforeClear, onlyChanges_brg (resetBridge_changes _) (by decide), applyGathered_hq]

/-- A command completes over a state whose queues are as they were. -/
theorem completes_of_hq {s u : State} (h : CmdHdr) (st : Byte) (e : ∀ q, u.hq q = s.hq q) : completes s (u.done0 h st) h st 0 0 0 := by
  obtain ⟨own, others⟩ := completes_done0 u u h st rfl
  refine ⟨?_, fun q hq => (others q hq).trans (e q)⟩
  rw [own, e]
  unfold State.waiting
  rw [e]

theorem computeReset_resets {s : State} {h : CmdHdr} (cid : h.cid ≠ 0xFFFF) (none_ : s.commandsInHand = []) (settled : s.stg.applying = false) :
    execComputeReset h s = .next (s.computeReset.done0 h 0) := by
  unfold execComputeReset State.runReset
  rw [if_neg (by simp [badHdr_eq cid]), endCommands_none none_]
  exact congrArg Host.Outcome.next (if_neg (by simp [settled]))

/-- Settles O4: the crossing of the boundary, the hold's two ways, the slot that fills, and the reset part by part. -/
theorem runHoldFeedAndResetAct : Obligations.RunHoldFeedAndResetAct := by
  refine ⟨fun s h limit cid stopped between uncrossed going unarmed unapplied whole intact within checked => ?run,
    fun s h cid running within => ⟨?boundary, fun whole unheld going => ?now⟩, fun s h cid held between => ?held,
    fun s h n cid busy least most free settled passes within => ?feed, fun s h cid none_ settled => ?reset⟩
  case run =>
    have may : (s.startRun limit).mayCross := ⟨rfl, between, uncrossed, going, within, unarmed, unapplied, whole, checked⟩
    have started : onlyChanges [.run] s (s.startRun limit) := onRun_in (onRun_changes s _) (by decide)
    have crossed := crossBoundary_changes (s.startRun limit)
    obtain ⟨st, lim, step⟩ := crossBoundary_counts (s.startRun limit)
    refine ⟨_, stepRun_crosses cid stopped intact may, ?_, completes_done0 s _ h 0 ?_, st, lim, step, fun settled stands => ?_, fun settled => ?_, fun open_ => ?_⟩
    · exact onlyChanges_step (onlyChanges_step (onlyChanges_mono started (by decide)) crossed (by decide)) (done0_changes _ h 0) (by decide)
    · exact (onlyChanges_brg crossed (by decide) :)
    · show (s.startRun limit).crossBoundary.flt.pendSnap = none
      rw [crossBoundary_flt, withSnap_stands ((startRun_snapStands s limit).trans stands)]
      exact settled
    · exact crossBoundary_crosses settled between
    · obtain ⟨run, num⟩ := crossBoundary_stays open_
      exact ⟨(congrArg RunSt.tokens run :), (congrArg RunSt.inStep run :).trans between, num⟩
  case boundary =>
    exact ⟨_, stepHold_boundary cid running within, onRun_in (onRun_changes s _) (by decide), rfl⟩
  case now =>
    refine ⟨_, stepHold_now cid running within whole, ?_⟩
    rw [triggerHold_begun (s := s.waitHold h 0) unheld going]
    exact ⟨onNum_in (onlyChanges_mono (onRun_changes s _) (by decide)) (by decide), rfl, rfl, rfl⟩
  case held =>
    exact ⟨_, stepHold_held cid held between, complete_changes .., completes_complete s s h _ _ _ _ rfl⟩
  case feed =>
    have ok : s.feedOk n = true := by simp [State.feedOk, busy, least, most, free]
    refine ⟨_, batchFeed_fills cid ok free settled passes within, ?_, completes_complete s _ h _ _ _ _ rfl, ?_, fun k hk => ?_, rfl⟩
    · exact complete_in (onlyChanges_mono (onStore_changes s _) (by decide)) (by decide)
    · exact Tab.get_set_self (0 : Nat) s.store.slots (s.slotFor n) 1
    · exact Tab.get_set_ne (0 : Nat) s.store.slots 1 hk
  case reset =>
    have e := computeReset_resets cid none_ settled
    have before := beforeClear_changes s
    have after := computeReset_after s
    have cfg : s.computeReset.cfg = s.cfg.idle := by rw [onlyChanges_cfg after (by decide), ← onlyChanges_cfg before (by decide)]; rfl
    have num : s.computeReset.num = s.num.idle := by rw [onlyChanges_num after (by decide), ← onlyChanges_num before (by decide)]; rfl
    have run : s.computeReset.run = s.run.idle := by rw [onlyChanges_run after (by decide), ← onlyChanges_run before (by decide)]; rfl
    have flt : s.computeReset.flt = s.flt.idle := by rw [onlyChanges_flt after (by decide), ← onlyChanges_flt before (by decide)]; rfl
    refine ⟨_, e, completes_of_hq h 0 (computeReset_hq s), ?_, ?_, onlyChanges_cores after (by decide), onlyChanges_lregions after (by decide),
      ?_, ?_, ?_, ?_, ?_, ?_, computeReset_mem s, ?_, ?_, ?_, ?_, computeReset_retired s, execComputeReset_within h s _ e⟩
    · exact (congrArg RunSt.st run :)
    · exact (congrArg RunSt.step run :)
    · exact (congrArg ConfigSt.image cfg :)
    · exact (congrArg ConfigSt.map cfg :)
    · exact (congrArg ConfigSt.epoch cfg :)
    · exact (congrArg ConfigSt.layout cfg :)
    · exact (congrArg ConfigSt.links cfg :)
    · exact congrArg StagingSt.st (onlyChanges_stg after (by decide))
    · exact (congrArg NumSt.ring num :)
    · exact (congrArg NumSt.prod num :)
    · exact (congrArg NumSt.cons num :)
    · exact (congrArg FaultSt.fences flt :)

end Sys2Proof.Machine
end

section
/-! The apply token, the load of a region, and the go token that puts the staged set into force (R11, R44, R263, R294, R389). -/

namespace Sys2Proof.Machine

/-! The apply token (R64, R263). -/

theorem applyToken_eq {s : State} {r : Region} (applying : s.stg.applying = true) (awaited : s.stg.applyToks.contains r.val = true) :
    execApplyToken r s = .next ((s.applyLatch r).onStg fun t => { t with applyToks := t.applyToks.filter (· ≠ r.val), loading := t.loading ++ [r.val] }) :=
  if_pos ⟨applying, awaited⟩

/-- A region without a physical one, and any of an idle module, has no counts to latch. -/
theorem applyLatch_none {s : State} {r : Nat} (h : s.run.st = .idle ∨ s.phys r = none) : s.applyLatch r = s := by
  unfold State.applyLatch
  split
  · rfl
  next p phys =>
    have idle : s.run.st = .idle := h.resolve_right (by simp [phys])
    exact if_pos idle

/-- The counts of the step that has ended, latched unless the step runs again or they are latched already (R64). -/
def State.countsTaken (s : State) (r p : Nat) : State := if s.run.rerun || (s.lreg r).counted || (s.lreg r).active then s else s.latchCounts p

theorem applyLatch_latches {s : State} {r p : Nat} (busy : s.run.st ≠ .idle) (phys : s.phys r = some p) :
    s.applyLatch r = (s.countsTaken r p).onLreg r fun l => { l with counted := true } := by
  unfold State.applyLatch
  rw [phys]
  exact if_neg busy

theorem latchCounts_reg (s : State) (p : Nat) :
    (s.latchCounts p).reg p = { s.reg p with counts := [], latched := latchedOf p s.cfg.epoch s.run.step (s.beatUse p) (s.reg p).counts } :=
  State.reg_onReg_self s p fun g => { g with counts := [], latched := latchedOf p s.cfg.epoch s.run.step (s.beatUse p) g.counts }

theorem latchCounts_sameBut (s : State) (p : Nat) : sameBut {} p s.regions (s.latchCounts p).regions := onReg_sameBut s p _

theorem countsTaken_changes (s : State) (r p : Nat) : onlyChanges [.regions] s (s.countsTaken r p) :=
  onlyChanges_ite (onlyChanges_refl _ _) (latchCounts_changes s p)

/-! The load of a region (R44, R263). -/

/-- A load fault is a report of the region, by its logical number in an idle module and by its physical one else. -/
theorem loadFault_idle {s : State} (r : Region) (h : s.run.st = .idle) : s.loadFault r = s.report { kind := .region r 0x12 } := by
  unfold State.loadFault
  rw [if_pos h]
  exact dif_pos r.isLt

theorem loadFault_phys {s : State} {r p : Nat} (h : s.run.st ≠ .idle) (phys : s.phys r = some p) (hp : p < 48) :
    s.loadFault r = s.report { kind := .region ⟨p, hp⟩ 0x12 } := by
  unfold State.loadFault
  rw [if_neg h, phys]
  exact dif_pos hp

section
variable {s : State} {r : Region} {come : Bool}

theorem regionLoad_matches (applying : s.stg.applying = true) (loading : s.stg.loading.contains r.val = true)
    (same : s.digestMatches r s.stg.image (s.loadedCourse r) come = true) :
    execRegionLoadComplete r come s = .next (s.onStg fun t => { t with loading := t.loading.filter (· ≠ r.val) }) :=
  (if_pos ⟨applying, loading⟩).trans (if_pos same)

theorem regionLoad_differs (applying : s.stg.applying = true) (loading : s.stg.loading.contains r.val = true)
    (differs : s.digestMatches r s.stg.image (s.loadedCourse r) come = false) :
    execRegionLoadComplete r come s = .next (s.loadFault r) :=
  (if_pos ⟨applying, loading⟩).trans (if_neg (by simp [differs]))

/-- The course of a promoted standby, as the store keeps it, matches its digest. -/
def State.standbyMatches (s : State) (r : Region) (come : Bool) : Bool :=
  s.digestMatches r s.cfg.image (s.cfg.image.bind fun i => s.readCopy (keeperOf i r) false 2 r) come

/-- The program slots of a promoted standby are loaded. -/
def State.slotsLoaded (s : State) (r : Nat) : State := (s.course r).cores.foldl (fun s c => s.loadSlots r c) s

variable (other : s.stg.applying = false ∨ s.stg.loading.contains r.val = false)
  (promoted : s.flt.promos.any (fun x => decide (x.lregion = r.val) && x.on && !x.courseOk) = true)
include other promoted

/-- Outside an application, or for a region that it does not load, the load is that of a promoted standby. -/
theorem standbyLoad_eq :
    execRegionLoadComplete r come s = if s.standbyMatches r come then
      .next ((s.slotsLoaded r).onFlt fun f => { f with promos := f.promos.map fun x => if x.lregion = r.val ∧ x.on then { x with courseOk := true } else x })
    else .next (s.loadFault r) := by
  have unstaged : ¬ (s.stg.applying = true ∧ s.stg.loading.contains r.val = true) := by
    rintro ⟨applying, loading⟩
    rw [applying, loading] at other
    simp at other
  exact (if_neg unstaged).trans (if_pos promoted)

theorem standbyLoad_matches (same : s.standbyMatches r come = true) :
    execRegionLoadComplete r come s =
      .next ((s.slotsLoaded r).onFlt fun f => { f with promos := f.promos.map fun x => if x.lregion = r.val ∧ x.on then { x with courseOk := true } else x }) :=
  (standbyLoad_eq other promoted).trans (if_pos same)

theorem standbyLoad_differs (differs : s.standbyMatches r come = false) : execRegionLoadComplete r come s = .next (s.loadFault r) :=
  (standbyLoad_eq other promoted).trans (if_neg (by simp [differs]))

end

/-- A byte of SRAM is the same, and so is what places the cores there. -/
structure keepsByte (b : Nat) (s t : State) : Prop where
  cfg : t.cfg = s.cfg
  flt : t.flt = s.flt
  byte : Tab.get (0 : Byte) t.sram b = Tab.get (0 : Byte) s.sram b

/-- One program slot is loaded. -/
def State.loadSlot (s : State) (r core k : Nat) : State := s.foreignLine.2.writeSram r core (k * 2048) s.foreignLine.1

/-- A slot load writes its 2,048 bytes and no other. -/
theorem loadSlot_keeps {b : Nat} {s t : State} {r core k : Nat} (h : keepsByte b s t)
    (out : ¬ (s.sramBase r core + k * 2048 ≤ b ∧ b < s.sramBase r core + k * 2048 + 2048)) : keepsByte b s (t.loadSlot r core k) := by
  obtain ⟨cfg, flt, byte⟩ := h
  have filled := fresh_changes t
  have len : t.foreignLine.1.length = 2048 := leBytes_length _ _
  have base : t.foreignLine.2.sramBase r core = s.sramBase r core :=
    sramBase_same ((onlyChanges_cfg filled (by decide)).trans cfg) ((onlyChanges_flt filled (by decide)).trans flt) r core
  have stored := writeMem_stores t.foreignLine.2.sram (t.foreignLine.2.sramBase r core + k * 2048) t.foreignLine.1 b
  rw [len, base, if_neg out] at stored
  refine ⟨(onlyChanges_cfg filled (by decide)).trans cfg, (onlyChanges_flt filled (by decide)).trans flt, ?_⟩
  rw [← byte, ← onlyChanges_sram filled (by decide)]
  unfold State.loadSlot
  rw [State.writeSram_sram, base]
  exact stored

/-- The loading of a standby's program slots writes those slots alone (R44). -/
theorem slotsLoaded_keeps (s : State) (r b : Nat)
    (out : ∀ c ∈ (s.course r).cores, ∀ k ∈ c.slots, ¬ (s.sramBase r c.core + k * 2048 ≤ b ∧ b < s.sramBase r c.core + k * 2048 + 2048)) :
    keepsByte b s (s.slotsLoaded r) := by
  refine List.foldlRecOn (motive := keepsByte b s) _ _ ⟨rfl, rfl, rfl⟩ fun t ht c hc => ?_
  exact List.foldlRecOn (motive := keepsByte b s) c.slots (fun u k => u.loadSlot r c.core k) ht fun u hu k hk => loadSlot_keeps hu (out c hc k hk)

theorem slotsLoaded_changes (s : State) (r : Nat) : onlyChanges [.free, .sram] s (s.slotsLoaded r) :=
  onlyChanges_foldl (onlyChanges_refl _ _) _ (fun t c => loadSlots_changes t r c) _

/-! Whether the module waits for a warm load, along what follows an application (R294). -/

theorem boundarySnap_needLoad (s : State) : s.boundarySnap.flt.needLoad = s.flt.needLoad := by
  have settles (u : State) : u.settleSnap.flt.needLoad = u.flt.needLoad := by
    unfold State.settleSnap
    split
    · rfl
    · split
      · rfl
      · rfl
  unfold State.boundarySnap
  extract_lets q
  rw [settles, State.onFlt_flt, onlyChanges_flt (writeSnap_changes s q.runB) (by decide)]

theorem crossBoundary_needLoad (s : State) : s.crossBoundary.flt.needLoad = s.flt.needLoad := by
  rw [crossBoundary_flt]
  unfold State.withSnap
  split
  · rfl
  · exact boundarySnap_needLoad s

theorem goOn_needLoad (s : State) : s.goOn.flt.needLoad = s.flt.needLoad := by
  unfold State.goOn
  split
  · split
    · rfl
    · rfl
  · split
    · split
      · rw [onlyChanges_flt (stopAtLimit_changes s) (by decide)]
      · split
        · rw [onlyChanges_flt (tryBegin_changes s) (by decide)]
        · split
          · rfl
          · exact crossBoundary_needLoad s
    · rfl

theorem advance_needLoad (s : State) : s.advance.flt.needLoad = s.flt.needLoad := by
  unfold State.advance
  split
  · rfl
  · rw [goOn_needLoad, onlyChanges_flt (settleStop_changes s) (by decide)]

theorem releaseLog_needLoad (s : State) (m n : Nat) : (s.releaseLog m n).flt.needLoad = s.flt.needLoad := by
  induction n generalizing s with
  | zero => rfl
  | succ n ih =>
    unfold State.releaseLog
    split
    · rfl
    · split
      · rfl
      · extract_lets u v
        rw [ih]
        have entered : onlyChanges [.eng] u v := onlyChanges_ite (onlyChanges_refl _ _) (enterSlab_changes u _ _)
        rw [onlyChanges_flt entered (by decide)]
        rfl

theorem releaseLogs_needLoad (s : State) : s.releaseLogs.flt.needLoad = s.flt.needLoad :=
  List.foldlRecOn (motive := fun t : State => t.flt.needLoad = s.flt.needLoad) _ _ rfl fun t ht m _ => (releaseLog_needLoad t m _).trans ht

theorem releaseContributions_needLoad (s : State) : s.releaseContributions.flt.needLoad = s.flt.needLoad := by
  unfold State.releaseContributions
  extract_lets go u
  have entered : onlyChanges [.eng] u (go.foldl (fun s x => s.enterSlab x.e x.p) u) :=
    onlyChanges_foldl (onlyChanges_refl _ _) _ (fun t x => enterSlab_changes t x.e x.p) go
  rw [onlyChanges_flt entered (by decide)]
  rfl

/-- With no reset waiting, what follows an application leaves the wait for a warm load as it was. -/
theorem afterApply_needLoad {s : State} (h : s.run.resetAsked = false) : s.afterApply.flt.needLoad = s.flt.needLoad := by
  have snapped : (if s.snapStands then s else s.boundarySnap).flt.needLoad = s.flt.needLoad := by
    split
    · rfl
    · exact boundarySnap_needLoad s
  unfold State.afterApply
  rw [if_neg (by simp [h])]
  unfold State.advanceAgain
  extract_lets u
  have advanced : u.flt.needLoad = s.flt.needLoad := (advance_needLoad _).trans snapped
  split
  · rw [releaseLogs_needLoad, releaseContributions_needLoad, advanced]
  · exact advanced

/-! The go token, stage by stage (R263). -/

/-- Packets held for the new epoch arrive, and the epoch's marker and event go out (R389). -/
def State.announced (s : State) : State := (s.releaseHeld.sendMarker).event 3 (BitVec.ofNat 64 s.cfg.epoch.toNat)

/-- A re-shard with no line to move has ended. -/
def State.moveEnded (s : State) (moved : Bool) : State :=
  if moved && s.cfg.moves.isEmpty then (s.onCfg fun c => { c with rsDone := true }).event 5 (BitVec.ofNat 64 s.cfg.layout.toNat) else s

/-- What cannot be routed or placed holds the module, which waits for no warm load any more (R294, R298). -/
def State.loadTaken (s : State) (cold : Bool) : State :=
  (if s.net.unroutable.isEmpty && !(cold && s.unmapped) then s else s.sparesExhausted).onFlt fun f => { f with needLoad := false }

/-- The image in force, the stage empty and the course copies written. -/
def State.imageTaken (s : State) (i : Image) : State := (s.applyImage i (decide (s.run.st = .idle))).emptyStage.writeCopies

theorem goToken_eq {s : State} {i : Image} (applying : s.stg.applying = true) (toks : s.stg.applyToks = []) (loading : s.stg.loading = [])
    (whole : s.flt.phase = .none) (image : s.stg.image = some i) :
    execGoToken s = .next (((s.imageTaken i).announced.moveEnded s.stg.reshard).loadTaken (decide (s.run.st = .idle))).completeArm.afterApply := by
  unfold execGoToken
  rw [if_pos (by simp [applying, toks, loading, whole]), image]
  refine congrArg Host.Outcome.next ?_
  unfold State.loadTaken State.moveEnded State.announced State.imageTaken
  rfl

/-- A stage of the go token past the image: of the configuration only the end of the re-shard may differ, the stage, the press and the markers are as they were, and so is the wait of a reset. -/
structure goStage (s t : State) : Prop where
  cfg : ∃ rs, t.cfg = { s.cfg with rsDone := rs }
  stg : t.stg = s.stg
  prs : t.prs = s.prs
  mir : t.mir = s.mir
  reset : t.run.resetAsked = s.run.resetAsked

theorem goStage_trans {s t u : State} (h : goStage s t) (g : goStage t u) : goStage s u := by
  obtain ⟨_, hc⟩ := h.cfg
  obtain ⟨rs, gc⟩ := g.cfg
  exact ⟨⟨rs, by rw [gc, hc]⟩, g.stg.trans h.stg, g.prs.trans h.prs, g.mir.trans h.mir, g.reset.trans h.reset⟩

/-- Changes outside of the five are a stage. -/
theorem goStage_of {l : List Part} {s t : State} (h : onlyChanges l s t) (d : ([.cfg, .stg, .prs, .mir].all fun p => !l.contains p) = true)
    (reset : t.run.resetAsked = s.run.resetAsked) : goStage s t := by
  have apart (p : Part) (hp : p ∈ [Part.cfg, .stg, .prs, .mir]) : p ∉ l := by simpa using List.all_eq_true.mp d p hp
  exact ⟨⟨s.cfg.rsDone, onlyChanges_cfg h (apart _ (by decide))⟩, onlyChanges_stg h (apart _ (by decide)), onlyChanges_prs h (apart _ (by decide)),
    onlyChanges_mir h (apart _ (by decide)), reset⟩

theorem event_goStage (s : State) (c : Nat) (x : U64) : goStage s (s.event c x) := goStage_of (event_changes s c x) (by decide) (event_reset s c x)

theorem moveEnded_goStage (s : State) (moved : Bool) : goStage s (s.moveEnded moved) := by
  unfold State.moveEnded
  split
  · exact goStage_trans (t := s.onCfg fun c => { c with rsDone := true }) ⟨⟨true, rfl⟩, rfl, rfl, rfl, rfl⟩ (event_goStage ..)
  · exact ⟨⟨_, rfl⟩, rfl, rfl, rfl, rfl⟩

theorem loadTaken_goStage (s : State) (cold : Bool) : goStage s (s.loadTaken cold) := by
  have held : goStage s (if s.net.unroutable.isEmpty && !(cold && s.unmapped) then s else s.sparesExhausted) := by
    split
    · exact ⟨⟨_, rfl⟩, rfl, rfl, rfl, rfl⟩
    · exact goStage_of (sparesExhausted_changes s) (by decide) (sparesExhausted_reset s)
  exact goStage_trans held ⟨⟨_, rfl⟩, rfl, rfl, rfl, rfl⟩

theorem completeArm_goStage (s : State) : goStage s s.completeArm := by
  refine goStage_of (completeArm_changes s) (by decide) ?_
  unfold State.completeArm
  split
  · rfl
  · rfl

/-- With the stage empty and no reset waiting, going on from the boundary leaves what came into force. -/
theorem afterApply_settled {s : State} (h : s.run.resetAsked = false) (g : s.stg.st ≠ .armed) :
    s.afterApply.cfg = s.cfg ∧ s.afterApply.stg = s.stg ∧ s.afterApply.prs = s.prs ∧ s.afterApply.mir = s.mir := by
  obtain ⟨kept, stg⟩ := afterApply_keeps s h g
  exact ⟨onlyChanges_cfg kept (by decide), stg, onlyChanges_prs kept (by decide), onlyChanges_mir kept (by decide)⟩

/-- The marker of the epoch in force goes out three times, and nothing else of the configuration, the stage or the press moves (R389). -/
theorem announced_facts (s : State) :
    s.announced.cfg = s.cfg ∧ s.announced.stg = s.stg ∧ s.announced.prs = s.prs ∧ s.announced.run.resetAsked = s.run.resetAsked ∧
      ∃ m : Marker, m.epoch = s.cfg.epoch ∧ m.root = s.cfg.root.setWidth 192 ∧ s.announced.mir.markers = s.mir.markers ++ [m, m, m] := by
  have released := releaseHeld_changes s
  have sent : onlyChanges [.eng, .mir] s s.releaseHeld.sendMarker := sendMarker_in (onlyChanges_mono released (by decide)) (by decide)
  obtain ⟨m, epoch, root, markers⟩ := sendMarker_facts s.releaseHeld
  obtain ⟨cfg, stg, mir, prs⟩ := event_other s.releaseHeld.sendMarker 3 (BitVec.ofNat 64 s.cfg.epoch.toNat)
  refine ⟨cfg.trans (onlyChanges_cfg sent (by decide)), stg.trans (onlyChanges_stg sent (by decide)), prs.trans (onlyChanges_prs sent (by decide)), ?_, m, ?_, ?_, ?_⟩
  · exact (event_reset ..).trans (congrArg RunSt.resetAsked (onlyChanges_run sent (by decide)))
  · rw [epoch, onlyChanges_cfg released (by decide)]
  · rw [root, onlyChanges_cfg released (by decide)]
  · rw [← onlyChanges_mir released (by decide), ← markers]
    exact congrArg MirrorSt.markers mir

/-- The copies of the courses are written beside what the image put into force (R263). -/
theorem imageTaken_facts (s : State) (i : Image) :
    let m := s.applyImage i (decide (s.run.st = .idle))
    (s.imageTaken i).cfg = m.cfg ∧ (s.imageTaken i).stg = { disag := m.stg.disag, decl := m.stg.decl } ∧ (s.imageTaken i).prs = m.prs ∧
      (s.imageTaken i).mir = m.mir ∧ (s.imageTaken i).run = m.run := by
  intro m
  have written := writeCopies_changes m.emptyStage
  obtain ⟨stg, cfg, mir, run, prs⟩ := emptyStage_facts m
  exact ⟨(onlyChanges_cfg written (by decide)).trans cfg, (onlyChanges_stg written (by decide)).trans stg, (onlyChanges_prs written (by decide)).trans prs,
    (onlyChanges_mir written (by decide)).trans mir, (onlyChanges_run written (by decide)).trans run⟩

/-- The state that the go token leaves. -/
def State.wentOn (s : State) (moved cold : Bool) : State := ((s.announced.moveEnded moved).loadTaken cold).completeArm.afterApply

/-- What the go token does past the image leaves it in force, sends its marker and ends the wait for a warm load. -/
theorem wentOn_facts {s : State} (moved cold : Bool) (h : s.run.resetAsked = false) (g : s.stg.st ≠ .armed) :
    (∃ rs, (s.wentOn moved cold).cfg = { s.cfg with rsDone := rs }) ∧ (s.wentOn moved cold).stg = s.stg ∧ (s.wentOn moved cold).prs = s.prs ∧
      (∃ m : Marker, m.epoch = s.cfg.epoch ∧ m.root = s.cfg.root.setWidth 192 ∧ (s.wentOn moved cold).mir.markers = s.mir.markers ++ [m, m, m]) ∧
      (s.wentOn moved cold).flt.needLoad = false := by
  obtain ⟨cfg, stg, prs, reset, m, epoch, root, markers⟩ := announced_facts s
  have loaded : ((s.announced.moveEnded moved).loadTaken cold).flt.needLoad = false := rfl
  have staged : goStage s.announced ((s.announced.moveEnded moved).loadTaken cold).completeArm :=
    goStage_trans (moveEnded_goStage _ moved) (goStage_trans (loadTaken_goStage _ cold) (completeArm_goStage _))
  have armed := onlyChanges_flt (completeArm_changes ((s.announced.moveEnded moved).loadTaken cold)) (by decide)
  unfold State.wentOn
  generalize ((s.announced.moveEnded moved).loadTaken cold).completeArm = q at staged armed
  obtain ⟨⟨rs, qcfg⟩, qstg, qprs, qmir, qreset⟩ := staged
  have asked : q.run.resetAsked = false := by rw [qreset, reset, h]
  obtain ⟨tcfg, tstg, tprs, tmir⟩ := afterApply_settled asked (by rw [qstg, stg]; exact g)
  refine ⟨⟨rs, by rw [tcfg, qcfg, cfg]⟩, by rw [tstg, qstg, stg], by rw [tprs, qprs, prs], ⟨m, epoch, root, by rw [tmir, qmir, markers]⟩, ?_⟩
  rw [afterApply_needLoad asked, armed, loaded]

/-- Settles O37: the token by what there is to latch, the load by its digest, and the go token stage by stage. -/
theorem theStagedSetComesIntoForce : Obligations.TheStagedSetComesIntoForce := by
  refine ⟨fun s r applying awaited => ?token, fun s r come applying loading => ⟨fun same => ?done, fun differs idle => ?fault, fun p differs busy phys hp => ?faultPhys⟩,
    fun s r come other promoted => ⟨fun same => ?standby, fun differs idle => ?standbyFault, fun p differs busy phys hp => ?standbyPhys⟩,
    fun s i applying toks loading whole image unasked => ?go⟩
  case token =>
    have e := applyToken_eq applying awaited
    have latched := applyLatch_changes s r
    refine ⟨_, e, ?_, fun h => ?_, fun p busy phys => ?_, execApplyToken_within r s _ e⟩
    · rw [State.onStg_stg, onlyChanges_stg latched (by decide)]
    · rw [applyLatch_none h]
      exact ⟨rfl, rfl⟩
    · rw [applyLatch_latches busy phys]
      have taken := countsTaken_changes s r p
      have lregs : (s.countsTaken r p).lregions = s.lregions := onlyChanges_lregions taken (by decide)
      have same : (s.countsTaken r p).lreg r = s.lreg r := by unfold State.lreg; rw [lregs]
      refine ⟨?_, ?_, fun h => ?_, fun first uncounted idle => ?_⟩
      · rw [State.lreg_onStg, State.lreg_onLreg_self, same]
      · exact lregs ▸ onLreg_sameBut (s.countsTaken r p) r fun l => { l with counted := true }
      · have kept : s.countsTaken r p = s := if_pos (by simpa [or_assoc] using h)
        rw [kept]
        rfl
      · have latches : s.countsTaken r p = s.latchCounts p := if_neg (by simp [first, uncounted, idle])
        rw [latches]
        exact ⟨latchCounts_reg s p, latchCounts_sameBut s p⟩
  case done =>
    exact ⟨_, regionLoad_matches applying loading same, rfl, onStg_changes s _⟩
  case fault =>
    refine ⟨_, regionLoad_differs applying loading differs, ?_, loadFault_changes s r⟩
    rw [loadFault_idle r idle]
    rfl
  case faultPhys =>
    refine ⟨_, regionLoad_differs applying loading differs, ?_, loadFault_changes s r⟩
    rw [loadFault_phys busy phys hp]
    rfl
  case standby =>
    have loaded := slotsLoaded_changes s r
    refine ⟨_, standbyLoad_matches other promoted same, ?_, fun b hb => (slotsLoaded_keeps s r b hb).byte, ?_⟩
    · rw [State.onFlt_flt, onlyChanges_flt loaded (by decide)]
    · exact onFlt_in (onlyChanges_mono loaded (by decide)) (by decide)
  case standbyFault =>
    refine ⟨_, standbyLoad_differs other promoted differs, ?_, loadFault_changes s r⟩
    rw [loadFault_idle r idle]
    rfl
  case standbyPhys =>
    refine ⟨_, standbyLoad_differs other promoted differs, ?_, loadFault_changes s r⟩
    rw [loadFault_phys busy phys hp]
    rfl
  case go =>
    have e := goToken_eq applying toks loading whole image
    obtain ⟨map, cfg, warm, stg, mir, reset, exp⟩ := applyImage_facts s i (decide (s.run.st = .idle))
    obtain ⟨tcfg, tstg, tprs, tmir, trun⟩ := imageTaken_facts s i
    obtain ⟨⟨rs, gcfg⟩, gstg, gprs, ⟨m, epoch, root, markers⟩, needLoad⟩ := wentOn_facts (s := s.imageTaken i) s.stg.reshard (decide (s.run.st = .idle))
      (by rw [trun, reset, unasked]) (by rw [tstg]; intro h; cases h)
    refine ⟨(s.imageTaken i).wentOn s.stg.reshard (decide (s.run.st = .idle)), map, rs, e, ?_, fun busy => warm (decide_eq_false busy), ?_, fun full => ?_, fun part => ?_,
      ⟨m, ?_, ?_, ?_⟩, needLoad, execGoToken_within s _ e⟩
    · rw [gcfg, tcfg, cfg]
    · rw [gstg, tstg, stg]
    · rw [gprs, tprs, exp, if_pos full]
    · rw [gprs, tprs, exp, if_neg (by simp [part])]
    · rw [epoch, tcfg, cfg]
    · rw [root, tcfg, cfg]
    · rw [markers, tmir, mir]

end Sys2Proof.Machine
end

section
/-! The state after reset (R42, R43, R371). -/

namespace Sys2Proof.Machine

/-- A meter whose store holds no record has nothing to chain (R385). -/
theorem chained_empty {m : MeterSt} (h : m.recs = []) : m.chained where
  size := by simp [h]
  own := by simp [h]
  last := by simp [h]
  next := by simp [h]

/-- With no command waiting a microsecond passes, whatever the state. -/
theorem safeStep_idle {s : State} (h : s.pending = []) : safeStep s := by
  refine ⟨tick s, ?_⟩
  unfold step
  rw [h]

/-- Settles O55: the empty memories are canonical, the empty store of the meter is a chain, and nothing waits. -/
theorem resetMeetsTheInvariants : Obligations.ResetMeetsTheInvariants :=
  ⟨rfl, ⟨rfl, rfl, rfl, rfl⟩, rfl, rfl, rfl, chained_empty rfl, rfl, rfl, rfl, rfl, rfl, rfl, safeStep_idle rfl⟩

end Sys2Proof.Machine
end

section
/-! Numeric records, micro-batch reports and the numeric hold (R40 to R47, R132, R350). -/

namespace Sys2Proof.Machine

/-! The ring, the step summary and the hold trigger (R41, R42, R43, R45). -/

theorem ringInsert_full {s : State} (x : NumRec) (h : s.num.fill = 4096) : (s.ringInsert x).num = { s.num with drop := sat32 s.num.drop 1, ovfl := true } := by
  unfold State.ringInsert
  rw [if_pos h, State.onNum_num]

theorem ringInsert_room {s : State} (x : NumRec) (h : s.num.fill ≠ 4096) :
    (s.ringInsert x).num = { s.num with ring := s.num.ring.set {} (s.num.prod.toNat % 4096) { item := x, seq := s.num.seq }, prod := s.num.prod + 1, seq := s.num.seq + 1 } := by
  unfold State.ringInsert
  rw [if_neg h, State.onNum_num]

theorem ringInsert_keeps (s : State) (x : NumRec) : (s.ringInsert x).num.cons = s.num.cons ∧ (s.ringInsert x).num.summary = s.num.summary := by
  by_cases full : s.num.fill = 4096
  · rw [ringInsert_full x full]
    exact ⟨rfl, rfl⟩
  · rw [ringInsert_room x full]
    exact ⟨rfl, rfl⟩

theorem gradSummary_num (s : State) (f : BitVec 4) : ∃ g, (s.gradSummary f).num = { s.num with summary := s.num.summary ||| f, gnf := g } := by
  have told (l : List Nat) (u : State) : (l.foldl (fun s r => s.onLreg r fun x => { x with gnf := true }) u).num = u.num :=
    onlyChanges_num (foldl_changes [.lregions] _ (fun u r => onLreg_changes u r _) l u) (by decide)
  unfold State.gradSummary
  extract_lets first u
  refine ⟨s.num.gnf || first, ?_⟩
  split
  · rw [told]
    rfl
  · rfl

/-- The micro-batch that the module is to be held at, and who asks for it. -/
def NumSt.withHold (n : NumSt) (hold : Option Nat) (numeric : Bool) (heard : List (Nat × Nat)) : NumSt := { n with hold := hold, holdNumeric := numeric, heard := heard }

theorem triggerHold_num (s : State) (mb : Nat) (numeric : Bool) : ∃ h b l, (s.triggerHold mb numeric).num = s.num.withHold h b l := by
  unfold State.triggerHold
  split
  · split
    · exact ⟨s.num.hold, true, s.num.heard, rfl⟩
    · exact ⟨s.num.hold, s.num.holdNumeric, s.num.heard, rfl⟩
  · split
    · exact ⟨s.num.hold, s.num.holdNumeric, s.num.heard, rfl⟩
    · exact ⟨some (max mb (s.num.top - 1)), numeric, [], rfl⟩

theorem maybeHold_num (s : State) (f : BitVec 4) (grad : Bool) (mb : Nat) : ∃ h b l, (s.maybeHold f grad mb).num = s.num.withHold h b l := by
  unfold State.maybeHold
  split
  · exact triggerHold_num s mb true
  · exact ⟨s.num.hold, s.num.holdNumeric, s.num.heard, rfl⟩

/-! NUMERIC_RECORD and NUMERIC_RECORD_EXPIRY (R42, R132). -/

/-- Record `i` is off the network. -/
def State.recordTaken (s : State) (i : Nat) : State := s.onBat fun b => { b with nums := dropAt b.nums i }

/-- The flags of a record of the step's gradient work join the summary (R41). -/
def State.flagsJoined (s : State) (x : NumRec) : State := if recGrad x.w0 ∧ x.step = s.run.step then s.gradSummary (recFlags x.w0) else s

section
variable {s : State} {i : Nat} {x : NumRec} (there : s.bat.nums[i]? = some x)
include there

theorem numericRecord_eq : execNumericRecord i s = .next ((((s.recordTaken i).ringInsert x).flagsJoined x).maybeHold (recFlags x.w0) (recGrad x.w0) x.mbatch) := by
  unfold execNumericRecord
  rw [there]
  rfl

theorem numericRecordExpiry_counted (store : x.store = false) (core : x.lcore ≠ 0x3FF) : execNumericRecordExpiry i s = .next ((s.recordTaken i).numDropped x.pregion x.pcore) := by
  unfold execNumericRecordExpiry
  rw [there]
  exact if_pos (by simp [recFromCore, store, core])

theorem numericRecordExpiry_uncounted (h : x.store = true ∨ x.lcore = 0x3FF) : execNumericRecordExpiry i s = .next (s.recordTaken i) := by
  unfold execNumericRecordExpiry
  rw [there]
  refine if_neg ?_
  obtain store | core := h
  · simp [recFromCore, store]
  · simp [recFromCore, core]

end

theorem flagsJoined_changes (s : State) (x : NumRec) : onlyChanges [.lregions, .num] s (s.flagsJoined x) :=
  onlyChanges_ite (gradSummary_changes s _) (onlyChanges_refl _ _)

theorem flagsJoined_num (s : State) (x : NumRec) :
    ∃ g, (s.flagsJoined x).num = { s.num with summary := if recGrad x.w0 = true ∧ x.step = s.run.step then s.num.summary ||| recFlags x.w0 else s.num.summary, gnf := g } := by
  unfold State.flagsJoined
  split
  · exact gradSummary_num s _
  · exact ⟨s.num.gnf, rfl⟩

/-- After the ring a record touches the summary, and what a hold concerns. -/
theorem numericRecord_num (s : State) (x : NumRec) :
    ∃ g h b l, (((s.ringInsert x).flagsJoined x).maybeHold (recFlags x.w0) (recGrad x.w0) x.mbatch).num =
      NumSt.withHold { (s.ringInsert x).num with
        summary := if recGrad x.w0 = true ∧ x.step = s.run.step then (s.ringInsert x).num.summary ||| recFlags x.w0 else (s.ringInsert x).num.summary, gnf := g } h b l := by
  obtain ⟨g, joined⟩ := flagsJoined_num (s.ringInsert x) x
  obtain ⟨h, b, l, held⟩ := maybeHold_num ((s.ringInsert x).flagsJoined x) (recFlags x.w0) (recGrad x.w0) x.mbatch
  rw [onlyChanges_run (ringInsert_changes s x) (by decide)] at joined
  exact ⟨g, h, b, l, by rw [held, joined]⟩

/-! MICRO_BATCH_REPORT (R40, R46). -/

/-- A region has begun micro-batch `n`: past those begun before a rewind the replay is over (R46). -/
def State.replayPast (s : State) (n : Nat) : State := if s.flt.replayTo ≤ n then s.onFlt fun f => { f with replaying := false } else s

/-- Report `i` is off the network. -/
def State.reportTaken (s : State) (i : Nat) : State := s.onBat fun b => { b with mbs := dropAt b.mbs i }

/-- Micro-batch `m.n` of a region is complete. -/
def State.noteEnded (s : State) (m : MbReport) : State := s.onNum fun n => { n with done := noteMax n.done m.lregion (m.n + 1) }

theorem replayPast_changes (s : State) (n : Nat) : onlyChanges [.flt] s (s.replayPast n) := onlyChanges_ite (onFlt_changes s _) (onlyChanges_refl _ _)

theorem replayPast_ends {s : State} {n : Nat} (h : s.flt.replayTo ≤ n) : (s.replayPast n).flt.replaying = false := by
  unfold State.replayPast
  rw [if_pos h, State.onFlt_flt]

section
variable {s : State} {i : Nat} {m : MbReport} (there : s.bat.mbs[i]? = some m)
include there

theorem microBatchReport_ended (h : m.ended = true) :
    execMicroBatchReport i s = .next (((((s.reportTaken i).noteEnded m).gradSummary m.grad).maybeHold m.grad true m.n).maybeHold m.other false m.n) := by
  unfold execMicroBatchReport
  rw [there]
  exact if_pos h

/-- A report of a begun micro-batch raises the highest begun to it, where it is not there yet (R46). -/
theorem microBatchReport_begun (h : m.ended = false) :
    ∃ u, execMicroBatchReport i s = .next u ∧ onlyChanges [.settings, .num] ((s.reportTaken i).replayPast m.n) u ∧ u.num = { s.num with top := max s.num.top (m.n + 1) } := by
  have num : ((s.reportTaken i).replayPast m.n).num = (s.reportTaken i).num := onlyChanges_num (replayPast_changes _ _) (by decide)
  have e : execMicroBatchReport i s = if ((s.reportTaken i).replayPast m.n).num.top ≤ m.n
      then .next (((s.reportTaken i).replayPast m.n).microBoundary.onNum fun n => { n with top := m.n + 1 }) else .next ((s.reportTaken i).replayPast m.n) := by
    unfold execMicroBatchReport
    rw [there]
    exact if_neg (by simp [h])
  generalize (s.reportTaken i).replayPast m.n = u at num e
  change u.num = s.num at num
  by_cases top : s.num.top ≤ m.n
  · refine ⟨_, e.trans (if_pos (num ▸ top)), onNum_in (onlyChanges_mono (microBoundary_changes u) (by decide)) (by decide), ?_⟩
    rw [State.onNum_num, onlyChanges_num (microBoundary_changes u) (by decide), num, Nat.max_eq_right (by omega)]
  · refine ⟨_, e.trans (if_neg (num ▸ top)), onlyChanges_refl _ _, ?_⟩
    rw [num, Nat.max_eq_left (by omega)]

end

/-- A completed micro-batch joins its region's, its gradient flags the step's; else only what a hold concerns changes. -/
theorem microBatchReport_num (s : State) (m : MbReport) :
    ∃ g h b l, ((((s.noteEnded m).gradSummary m.grad).maybeHold m.grad true m.n).maybeHold m.other false m.n).num =
      NumSt.withHold { s.num with done := noteMax s.num.done m.lregion (m.n + 1), summary := s.num.summary ||| m.grad, gnf := g } h b l := by
  obtain ⟨g, joined⟩ := gradSummary_num (s.noteEnded m) m.grad
  obtain ⟨h, b, l, held⟩ := maybeHold_num ((s.noteEnded m).gradSummary m.grad) m.grad true m.n
  obtain ⟨h', b', l', again⟩ := maybeHold_num (((s.noteEnded m).gradSummary m.grad).maybeHold m.grad true m.n) m.other false m.n
  exact ⟨g, h', b', l', by rw [again, held, joined]; rfl⟩

/-! HOLD_TOKEN and HOLD_REACHED (R46, R350). -/

theorem mbProgress_holdTok (s : State) (r k q : Nat) : ((s.mbProgress r k).lreg q).holdTok = (s.lreg q).holdTok := by
  induction k generalizing s with
  | zero => rfl
  | succ k ih =>
    unfold State.mbProgress
    extract_lets n f u
    split
    · rw [ih]
      show ((s.onLreg r fun l => { l with mbEnded := n + 1 }).lreg q).holdTok = _
      by_cases h : q = r
      · rw [h, State.lreg_onLreg_self]
      · rw [State.lreg_onLreg_ne _ _ h]
    · rfl

/-- The region begins no micro-batch beyond `n` (R46). -/
def State.boundHold (s : State) (r n : Nat) : State :=
  (s.onLreg r fun l => { l with holdTok := some n }).onNum fun x => { x with hold := some n, heard := noteMax x.heard r n }

theorem holdToken_eq {s : State} {r : Region} {h : Nat} (hold : s.num.hold = some h) (serves : s.inService r = true) (going : s.num.held = false) :
    execHoldToken r s = .next ((s.boundHold r (max h ((s.lreg r).mbBegun - 1))).progress r) := by
  unfold execHoldToken
  rw [hold]
  exact if_pos (by simp [serves, going])

theorem boundHold_holdTok (s : State) (r n : Nat) : (((s.boundHold r n).progress r).lreg r).holdTok = some n := by
  unfold State.progress
  rw [mbProgress_holdTok, State.boundHold, State.lreg_onNum, State.lreg_onLreg_self]

/-- The commands that wait for the hold are answered, and wait no longer. -/
theorem finishHolds_run (s : State) (a : Bool) (x y : U64) : ∃ hs, (s.finishHolds a x y).run = { s.run with holds := hs } := by
  unfold State.finishHolds
  extract_lets go u
  refine ⟨s.run.holds.filter fun x => !(a || x.2 = 0), ?_⟩
  exact onlyChanges_run (foldl_changes [.brg] _ (fun v z => complete_changes v z.1 0 x y 0) go u) (by decide)

theorem event_run (s : State) (code : Nat) (x : U64) : ∃ es m, (s.event code x).run = { s.run with events := es, merged := m } := by
  unfold State.event State.postEvent
  extract_lets e u
  have run : u.run = s.run := by
    simp only [u]
    split <;> rfl
  split
  · exact ⟨_, _, by rw [State.onRun_run, run]⟩
  · exact ⟨_, s.run.merged, by rw [State.onHq_run, State.onRun_run, run]⟩

/-- The module is held at the boundary after micro-batch `h` for a numeric condition. -/
def State.holdNumerically (s : State) (h : Nat) : State :=
  ((s.onNum fun n => { n with held := true, trig := true, hmb := BitVec.ofNat 12 h }).onRun fun r => { r with st := .held, hcause := 1, atStep := !r.inStep }).event 2 (BitVec.ofNat 64 h)

theorem holdNumerically_facts (s : State) (h : Nat) :
    (s.holdNumerically h).num = { s.num with held := true, trig := true, hmb := BitVec.ofNat 12 h } ∧
      ∃ es m, (s.holdNumerically h).run = { s.run with st := .held, hcause := 1, atStep := !s.run.inStep, events := es, merged := m } :=
  ⟨onlyChanges_num (event_changes ..) (by decide), event_run ..⟩

/-- The module is held at the boundary after micro-batch `h` as STEP_HOLD asked. -/
def State.holdAsAsked (s : State) (h : Nat) : State :=
  (s.onNum fun n => { n with held := true, hmb := BitVec.ofNat 12 h }).onRun fun r => { r with st := .held, hcause := 2, atStep := false }

section
variable {s : State} {h : Nat} (hold : s.num.hold = some h) (complete : s.holdComplete h = true) (going : s.num.held = false) (running : s.run.st = .running)
include hold complete going running

theorem holdReached_numeric (numeric : s.num.holdNumeric = true) :
    ∃ a x y, execHoldReached s = .next ((s.holdNumerically h).finishHolds a x y) := by
  let u := s.holdNumerically h
  refine ⟨!u.run.inStep, if u.run.inStep then u.run.step else u.run.step - 1, BitVec.ofNat 64 h, ?_⟩
  unfold execHoldReached
  rw [hold]
  exact (if_pos (by simp [complete, going, running])).trans (if_pos numeric)

theorem holdReached_asked (asked : s.num.holdNumeric = false) (more : h ≠ s.lastMb) :
    ∃ x y, execHoldReached s = .next ((s.holdAsAsked h).finishHolds false x y) := by
  refine ⟨s.run.step, BitVec.ofNat 64 h, ?_⟩
  unfold execHoldReached
  rw [hold]
  exact (if_pos (by simp [complete, going, running])).trans ((if_neg (by simp [asked])).trans (if_neg more))

end

/-- Settles O22: the ring by its room, the expiry by its sender, the report by its kind, the hold by who asked for it. -/
theorem numericRecordsAndHoldsFollowTheirRules : Obligations.NumericRecordsAndHoldsFollowTheirRules := by
  refine ⟨fun s i x there => ?record, fun s i x there => ?expiry, fun s i m there => ?report, fun s r h hold serves going => ?token,
    fun s h hold complete going running => ⟨fun numeric => ?numeric, fun asked more => ?asked⟩⟩
  case record =>
    have e := numericRecord_eq there
    obtain ⟨cons, summary⟩ := ringInsert_keeps (s.recordTaken i) x
    obtain ⟨g, h, b, l, num⟩ := numericRecord_num (s.recordTaken i) x
    have rest : onlyChanges [.lregions, .num] (s.recordTaken i) ((((s.recordTaken i).ringInsert x).flagsJoined x).maybeHold (recFlags x.w0) (recGrad x.w0) x.mbatch) :=
      maybeHold_in (onlyChanges_trans (ringInsert_in (onlyChanges_refl _ _) (by decide)) (flagsJoined_changes _ x)) (by decide)
    refine ⟨_, e, onlyChanges_bat rest (by decide), fun room => ?_, fun full => ?_, ?_, ?_, execNumericRecord_within i s _ e⟩
    · rw [num, ringInsert_room (s := s.recordTaken i) x room]
      exact ⟨rfl, rfl, rfl, rfl⟩
    · rw [num, ringInsert_full (s := s.recordTaken i) x full]
      exact ⟨rfl, rfl, rfl, rfl, rfl⟩
    · rw [num]
      exact cons
    · rw [num]
      simp only [NumSt.withHold, summary]
      rfl
  case expiry =>
    by_cases h : x.store = true ∨ x.lcore = 0x3FF
    · have e := numericRecordExpiry_uncounted there h
      refine ⟨_, e, rfl, fun store core => ?_, fun _ => rfl, execNumericRecordExpiry_within i s _ e⟩
      obtain h | h := h
      · rw [store] at h; cases h
      · exact absurd h core
    · obtain ⟨store, core⟩ := not_or.mp h
      have e := numericRecordExpiry_counted there (Bool.eq_false_iff.mpr store) core
      exact ⟨_, e, rfl, fun _ _ => ⟨State.reg_onReg_self .., onReg_sameBut (s.recordTaken i) x.pregion _⟩, fun g => absurd g h, execNumericRecordExpiry_within i s _ e⟩
  case report =>
    cases kind : m.ended with
    | false =>
      obtain ⟨u, e, rest, num⟩ := microBatchReport_begun there kind
      refine ⟨u, e, ?_, fun _ => ⟨num, fun past => ?_⟩, fun h => (by cases h), execMicroBatchReport_within i s _ e⟩
      · rw [onlyChanges_bat rest (by decide), onlyChanges_bat (replayPast_changes _ _) (by decide)]
        rfl
      · rw [onlyChanges_flt rest (by decide)]
        exact replayPast_ends past
    | true =>
      have e := microBatchReport_ended there kind
      obtain ⟨g, h, b, l, num⟩ := microBatchReport_num (s.reportTaken i) m
      have rest : onlyChanges [.lregions, .num] (s.reportTaken i) (((((s.reportTaken i).noteEnded m).gradSummary m.grad).maybeHold m.grad true m.n).maybeHold m.other false m.n) :=
        maybeHold_in (maybeHold_in (gradSummary_in (onNum_in (onlyChanges_refl _ _) (by decide)) (by decide)) (by decide)) (by decide)
      have flt := onlyChanges_flt rest (by decide)
      have set := onlyChanges_set rest (by decide)
      refine ⟨_, e, onlyChanges_bat rest (by decide), fun h => (by cases h), fun _ => ⟨?_, ?_, flt, set⟩,
        execMicroBatchReport_within i s _ e⟩
      · rw [num]
        rfl
      · rw [num]
        rfl
  case token =>
    have e := holdToken_eq hold serves going
    exact ⟨_, e, boundHold_holdTok s r _, onlyChanges_num (progress_changes _ _) (by decide), execHoldToken_within r s _ e⟩
  case numeric =>
    obtain ⟨a, x, y, e⟩ := holdReached_numeric hold complete going running numeric
    obtain ⟨hs, run⟩ := finishHolds_run (s.holdNumerically h) a x y
    obtain ⟨num, es, m, held⟩ := holdNumerically_facts s h
    refine ⟨_, e, ?_, ?_, ?_, ?_, execHoldReached_within s _ e⟩
    · rw [onlyChanges_num (finishHolds_changes ..) (by decide), num]
    all_goals
      rw [run, held]
  case asked =>
    obtain ⟨x, y, e⟩ := holdReached_asked hold complete going running asked more
    obtain ⟨hs, run⟩ := finishHolds_run (s.holdAsAsked h) false x y
    refine ⟨_, e, onlyChanges_num (finishHolds_changes ..) (by decide), ?_, ?_, ?_, finishHolds_in (onRun_in (onNum_in (onlyChanges_refl _ _) (by decide)) (by decide)) (by decide)⟩
    all_goals
      rw [run]
      rfl

end Sys2Proof.Machine
end

section
/-! Action registers, locks, the meter mirror's policy and the clock registers, written over the host link (R43, R304, R335, R362, R371, R390, R399, R406). -/

namespace Sys2Proof.Machine

/-- Over a link that is up and answers an access is performed at once (R335). -/
theorem overLink_reaches {s : State} (c : Instr) (f : State → Ans) (h : s.hostReaches = true) : s.overLink c f = f s := by
  obtain ⟨up, alive⟩ := Bool.and_eq_true_iff.mp h
  unfold State.overLink
  rw [if_neg (of_decide_eq_true alive)]
  exact if_neg (by simpa using up)

/-- A discarded write is counted in the settings, and that is all (R362). -/
theorem discardWrite_discards (s : State) (a c : Nat) (m : Bool) : discards s (s.discardWrite a c m) a c m := rfl

/-! The staged view and the values in force (R258, R363). -/

/-- A value staged is what the staged view shows. -/
theorem stageWrite_stagedView (s : State) (a : Nat) (v : U32) (mbus : Bool) : (s.stageWrite a v mbus).stagedView a = v := by
  have earlier : (s.set.staged.filter fun p => p.addr ≠ a).find? (fun p => decide (p.addr = a)) = none :=
    List.find?_eq_none.mpr fun p hp => by simpa using (List.mem_filter.mp hp).2
  have found : ((s.stageWrite a v mbus).set.staged ++ (s.stageWrite a v mbus).stg.writes).find? (fun p => decide (p.addr = a)) = some { addr := a, value := v, mbus := mbus } := by
    show (((s.set.staged.filter fun p => p.addr ≠ a) ++ [({ addr := a, value := v, mbus := mbus } : Pending)]) ++ s.stg.writes).find? (fun p => decide (p.addr = a)) = _
    rw [List.append_assoc, List.find?_append, earlier]
    simp
  unfold State.stagedView
  rw [found]

/-- Staging puts nothing in force. -/
theorem stageWrite_setting (s : State) (a : Nat) (v : U32) (mbus : Bool) (b : Nat) : (s.stageWrite a v mbus).setting b = s.setting b := rfl

/-! The consumer index (R43). -/

section
variable {s : State} {v : U32} (mbus : Bool) (width : v.toNat < 2 ^ 13)
include width

theorem writeCons_taken (h : (s.num.prod - v.setWidth 13).toNat ≤ 4096) : s.writeCons v mbus = s.onNum fun n => { n with cons := v.setWidth 13 } := by
  unfold State.writeCons
  rw [if_neg (Classical.not_not.mpr (Nat.div_eq_of_lt width)), if_pos h]

theorem writeCons_discarded (h : 4096 < (s.num.prod - v.setWidth 13).toNat) : s.writeCons v mbus = (s.discardWrite 0x400C 0x1 mbus).logHealth { cls := 0x71, detail := v.toNat } := by
  unfold State.writeCons
  rw [if_neg (Classical.not_not.mpr (Nat.div_eq_of_lt width)), if_neg (Nat.not_le.mpr h)]

end

/-! The meter mirror (R390). -/

theorem mirrorOp_open {s : State} (f : MirrorSt → MirrorSt) (h : s.set.lock.getLsbD 2 = false) : s.mirrorOp f = s.onMir f :=
  if_neg (Bool.eq_false_iff.mp h)

theorem mirrorOp_locked {s : State} (f : MirrorSt → MirrorSt) (h : s.set.lock.getLsbD 2 = true) : s.mirrorOp f = s.discardWrite 0xB000 0x4 false :=
  if_pos h

theorem setPolicy_overwrite (m : MirrorSt) : m.setPolicy false = { m with stopFull := false, full := false } := by
  unfold MirrorSt.setPolicy
  rw [Bool.and_false]

theorem setPolicy_stop (m : MirrorSt) : m.setPolicy true = { m with stopFull := true } := by
  unfold MirrorSt.setPolicy
  rw [Bool.and_true]

/-! Locks and the debug register (R371, R399). -/

theorem writeLock_sets {s : State} {v : U32} (h : v.toNat < 8) : s.writeLock v = s.onSet fun t => { t with lock := t.lock ||| v.setWidth 3 } :=
  if_neg (Classical.not_not.mpr (Nat.div_eq_of_lt h))

theorem writeLock_reserved {s : State} {v : U32} (h : 8 ≤ v.toNat) : s.writeLock v = s.discardWrite 0x1020 0x0 false :=
  if_pos (Nat.ne_of_gt (Nat.div_pos h (by decide)))

/-- Bits set in a lock stay set, whatever is written beside them. -/
theorem lock_kept {a : BitVec 3} (b : BitVec 3) {i : Nat} (h : a.getLsbD i = true) : (a ||| b).getLsbD i = true := by
  rw [BitVec.getLsbD_or, h, Bool.true_or]

theorem writeDbg_open {s : State} {v : U32} (h : s.set.lock.getLsbD 1 = false) (width : v.toNat < 4) :
    s.writeDbg v = s.onKeys fun k => { k with vimg := v.getLsbD 0, used := k.used || v.getLsbD 0 } := by
  unfold State.writeDbg
  rw [if_neg (Bool.eq_false_iff.mp h), if_neg (Classical.not_not.mpr (Nat.div_eq_of_lt width))]

theorem writeDbg_locked {s : State} (v : U32) (h : s.set.lock.getLsbD 1 = true) : s.writeDbg v = s.discardWrite 0xC100 0x4 false := if_pos h

/-! Granted beats (R406, R408). -/

section
variable {s : State} {p : Nat} (v : U32) (served : s.notServed (rgnBase p + 0x20C8) = false)
include served

theorem writeGrant_stepping (h : s.modeCourse.diag = 2) : s.writeGrant p v = s.onReg p fun g => { g with grant := min 65535 (g.grant + v.toNat % 65536) } := by
  have counted : fld v.toNat 0 16 = v.toNat % 65536 := by
    unfold fld
    rw [Nat.pow_zero, Nat.div_one, show 2 ^ 16 = 65536 from rfl]
  unfold State.writeGrant
  rw [counted]
  exact (if_neg (Bool.eq_false_iff.mp served)).trans (if_neg (by simp [State.beatStepping, h]))

theorem writeGrant_free (h : s.modeCourse.diag ≠ 2) : s.writeGrant p v = s.discardWrite (rgnBase p + 0x20C8) 0x8 false := by
  unfold State.writeGrant
  exact (if_neg (Bool.eq_false_iff.mp served)).trans (if_pos (by simp [State.beatStepping, h]))

end

/-! Clocks (R304). -/

section
variable {s : State} {v : U32} {d : RegDesc} (mbus : Bool) (desc : modDesc 0x9008 = some d) (reserved : s.reservedDiffers d 0x9008 v = false) (range : d.inRange v = true)
include desc reserved range

theorem writeClk_staged (h : s.modeCourse.clock ≠ axisCaps) : s.writeClk v mbus = s.stageWrite 0x9008 (v &&& d.mask) mbus := by
  unfold State.writeClk
  rw [desc]
  exact (if_neg (Bool.eq_false_iff.mp reserved)).trans ((if_neg (by simp [range])).trans (if_neg h))

theorem writeClk_capped (h : s.modeCourse.clock = axisCaps) : s.writeClk v mbus = s.discardWrite 0x9008 0x7 mbus := by
  unfold State.writeClk
  rw [desc]
  exact (if_neg (Bool.eq_false_iff.mp reserved)).trans ((if_neg (by simp [range])).trans (if_pos h))

end

theorem writeFset_staged {s : State} {p : Nat} {v : U32} {d : RegDesc} (desc : rgnDesc 0x20C0 = some d) (served : s.notServed (rgnBase p + 0x20C0) = false)
    (reserved : s.reservedDiffers d (rgnBase p + 0x20C0) v = false) (range : d.inRange v = true) (capped : s.modeCourse.clock = axisCaps) (flow : s.flowOf p ≤ fld v.toNat 0 5) :
    s.writeFset p v = s.stageWrite (rgnBase p + 0x20C0) (v &&& d.mask) false := by
  unfold State.writeFset
  rw [desc]
  exact (if_neg (Bool.eq_false_iff.mp served)).trans ((if_neg (Bool.eq_false_iff.mp reserved)).trans
    ((if_neg (by simp [range])).trans ((if_neg (Classical.not_not.mpr capped)).trans (if_neg (Nat.not_lt.mpr flow)))))

/-! A write over the link and what it makes of the module. -/

section
variable {s : State} (reaches : s.hostReaches = true)
include reaches

theorem consumerIndexWrite_eq (v : U32) : execConsumerIndexWrite v s = .next (s.writeCons v false) := overLink_reaches _ _ reaches
theorem overwriteOldest_eq : execOverwriteOldest s = .next (s.mirrorOp (·.setPolicy false)) := overLink_reaches _ _ reaches
theorem stopAtFull_eq : execStopAtFull s = .next (s.mirrorOp (·.setPolicy true)) := overLink_reaches _ _ reaches
theorem clearTheMirror_eq : execClearTheMirror s = .next (s.mirrorOp (·.clear)) := overLink_reaches _ _ reaches
theorem lockBitWrite_eq (v : U32) : execLockBitWrite v s = .next (s.writeLock v) := overLink_reaches _ _ reaches
theorem ctlDbgWrite_eq (v : U32) : execCtlDbgWrite v s = .next (s.writeDbg v) := overLink_reaches _ _ reaches
theorem grant_eq (r : Region) (v : U32) : execGrant r v s = .next (s.writeGrant r v) := overLink_reaches _ _ reaches
theorem ctlClkWrite_eq (v : U32) : execCtlClkWrite v s = .next (s.writeClk v false) := overLink_reaches _ _ reaches
theorem fsetWrite_eq (r : Region) (v : U32) : execFsetWrite r v s = .next (s.writeFset r v) := overLink_reaches _ _ reaches

/-- Each operation of the mirror's register is that operation of the mirror, which the lock forbids. -/
theorem mirrorCommand_eq {c : Instr} (h : c = .overwriteOldest ∨ c = .stopAtFull ∨ c = .clearTheMirror) : ∃ f, exec c s = .next (s.mirrorOp f) := by
  obtain rfl | rfl | rfl := h
  · exact ⟨_, overwriteOldest_eq reaches⟩
  · exact ⟨_, stopAtFull_eq reaches⟩
  · exact ⟨_, clearTheMirror_eq reaches⟩

end

/-- Settles O10: register by register, the write as its checks let it through. -/
theorem actionRegistersActAtOnce : Obligations.ActionRegistersActAtOnce := by
  refine ⟨fun s v reaches width => ⟨fun near => ?taken, fun far => ?far⟩,
    fun s reaches => ⟨fun unlocked => ⟨?overwrite, ?stop, ?clear⟩, fun locked c hc => ?mirrorLocked⟩,
    fun s v reaches => ⟨fun width => ?lock, fun wide => ?lockReserved, fun unlocked width => ?dbg, fun locked => ?dbgLocked⟩,
    fun s r v reaches served => ⟨fun stepping => ?grant, fun free => ?grantFree⟩,
    fun s v d reaches desc reserved range => ⟨fun axis => ?clk, fun capped => ?clkCapped⟩,
    fun s r v d reaches capped desc served reserved range flow => ?fset⟩
  case taken => exact ⟨_, (consumerIndexWrite_eq reaches v).trans (congrArg Host.Outcome.next (writeCons_taken false width near)), rfl, onNum_changes ..⟩
  case far =>
    exact ⟨_, (consumerIndexWrite_eq reaches v).trans (congrArg Host.Outcome.next (writeCons_discarded false width far)), discardWrite_discards .., logHealth_seq (s.discardWrite 0x400C 0x1 false) _,
      logHealth_in (onlyChanges_mono (discardWrite_changes ..) (by decide)) (by decide)⟩
  case overwrite => exact ⟨_, (overwriteOldest_eq reaches).trans (congrArg Host.Outcome.next (mirrorOp_open _ unlocked)), setPolicy_overwrite _, onMir_changes ..⟩
  case stop => exact ⟨_, (stopAtFull_eq reaches).trans (congrArg Host.Outcome.next (mirrorOp_open _ unlocked)), setPolicy_stop _, onMir_changes ..⟩
  case clear => exact ⟨_, (clearTheMirror_eq reaches).trans (congrArg Host.Outcome.next (mirrorOp_open _ unlocked)), rfl, onMir_changes ..⟩
  case mirrorLocked =>
    obtain ⟨f, e⟩ := mirrorCommand_eq reaches hc
    exact ⟨_, e.trans (congrArg Host.Outcome.next (mirrorOp_locked f locked)), discardWrite_discards .., discardWrite_changes ..⟩
  case lock => exact ⟨_, (lockBitWrite_eq reaches v).trans (congrArg Host.Outcome.next (writeLock_sets width)), rfl, fun i h => lock_kept _ h, onSet_changes ..⟩
  case lockReserved => exact ⟨_, (lockBitWrite_eq reaches v).trans (congrArg Host.Outcome.next (writeLock_reserved wide)), discardWrite_discards .., discardWrite_changes ..⟩
  case dbg => exact ⟨_, (ctlDbgWrite_eq reaches v).trans (congrArg Host.Outcome.next (writeDbg_open unlocked width)), rfl, onKeys_changes ..⟩
  case dbgLocked => exact ⟨_, (ctlDbgWrite_eq reaches v).trans (congrArg Host.Outcome.next (writeDbg_locked v locked)), discardWrite_discards .., discardWrite_changes ..⟩
  case grant =>
    exact ⟨_, (grant_eq reaches r v).trans (congrArg Host.Outcome.next (writeGrant_stepping v served stepping)), State.reg_onReg_self .., fun p h => State.reg_onReg_ne _ _ h, onReg_changes ..⟩
  case grantFree => exact ⟨_, (grant_eq reaches r v).trans (congrArg Host.Outcome.next (writeGrant_free v served free)), discardWrite_discards .., discardWrite_changes ..⟩
  case clk =>
    exact ⟨_, (ctlClkWrite_eq reaches v).trans (congrArg Host.Outcome.next (writeClk_staged false desc reserved range axis)), stageWrite_stagedView .., stageWrite_setting s _ _ _, stageWrite_changes ..⟩
  case clkCapped => exact ⟨_, (ctlClkWrite_eq reaches v).trans (congrArg Host.Outcome.next (writeClk_capped false desc reserved range capped)), discardWrite_discards .., discardWrite_changes ..⟩
  case fset =>
    exact ⟨_, (fsetWrite_eq reaches r v).trans (congrArg Host.Outcome.next (writeFset_staged desc served reserved range capped flow)), stageWrite_stagedView .., stageWrite_setting s _ _ _, stageWrite_changes ..⟩

end Sys2Proof.Machine
end

section
/-! Partners, feed domains, the numeric ring's command, key enrolment and locks (R43, R348, R354, R355, R371, R396, R397). -/

namespace Sys2Proof.Machine

/-! PARTNER_SET and FEED_DOMAIN_SET (R354). -/

theorem accepts_of {t : StagingSt} (h : t.st = .empty ∨ t.st = .loading ∨ t.st = .checked) : t.accepts = true := decide_eq_true h

theorem runPartnerSet_stages {s : State} {h : CmdHdr} {ps : List (U16 × U32)} (cid : h.cid ≠ 0xFFFF) (few : ps.length ≤ 8) (accepts : s.stg.accepts = true) :
    s.runPartnerSet h ps = (s.onStg fun t => { t.void with partners := some ps }).done0 h 0 := by
  unfold State.runPartnerSet
  rw [if_neg (by simp [badHdr_eq cid, few]), if_neg (by simp [accepts])]

theorem sharesDomain_none {s : State} {own : U16} {ds : List (U16 × U16)} (h : own ≠ 0 → ∀ m ∈ s.outerPartners, ∀ d ∈ ds, d.1.toNat = m → d.2 ≠ own) : s.sharesDomain own ds = false := by
  refine Bool.eq_false_iff.mpr fun shares => ?_
  obtain ⟨named, shared⟩ := Bool.and_eq_true_iff.mp shares
  obtain ⟨m, hm, partner⟩ := List.any_eq_true.mp shared
  obtain ⟨d, hd, same⟩ := List.any_eq_true.mp partner
  obtain ⟨module, domain⟩ := of_decide_eq_true same
  exact h (of_decide_eq_true named) m hm d hd module domain

theorem runDomainSet_sets {s : State} {h : CmdHdr} {own : U16} {ds : List (U16 × U16)} (cid : h.cid ≠ 0xFFFF) (few : ds.length ≤ 8) (apart : s.sharesDomain own ds = false) :
    s.runDomainSet h own ds = (s.onCfg fun c => { c with domain := own, domains := ds }).done0 h 0 := by
  unfold State.runDomainSet
  rw [if_neg (by simp [badHdr_eq cid, few]), if_neg (by simp [apart])]

/-! NUMERIC_RING_READ (R355). -/

/-- The ring once its consumer index is moved to `c`, where ADV asks for it. -/
def State.ringAdvanced (s : State) (adv : Byte) (c : BitVec 13) : State := if adv = 1 then s.onNum fun x => { x with cons := c } else s

theorem ringAdvanced_num (s : State) (adv : Byte) (c : BitVec 13) : (s.ringAdvanced adv c).num = { s.num with cons := if adv = 1 then c else s.num.cons } := by
  unfold State.ringAdvanced
  split <;> rfl

theorem ringAdvanced_changes (s : State) (adv : Byte) (c : BitVec 13) : onlyChanges [.num] s (s.ringAdvanced adv c) :=
  onlyChanges_ite (onNum_changes s _) (onlyChanges_refl _ _)

theorem runRingRead_reads {s : State} {h : CmdHdr} {a : U64} {maxN : U16} {adv : Byte} (cid : h.cid ≠ 0xFFFF) (least : 1 ≤ maxN.toNat) (most : maxN.toNat ≤ 4096) (flag : adv.toNat ≤ 1)
    (buffer : bufferOk a (32 * maxN.toNat) = true) :
    let n := min maxN.toNat s.num.fill
    let c := s.num.cons + BitVec.ofNat 13 n
    s.runRingRead h a maxN adv = ((s.writeHost a.toNat (s.ringBytes n)).ringAdvanced adv c).complete h 0 (BitVec.ofNat 64 n) (c.setWidth 64) (if s.num.ovfl then 1 else 0) := by
  intro n c
  have ovfl : ((s.writeHost a.toNat (s.ringBytes n)).ringAdvanced adv c).num.ovfl = s.num.ovfl := by
    rw [ringAdvanced_num]
    rfl
  rw [← ovfl]
  unfold State.runRingRead
  exact if_neg (by simp [badHdr_eq cid, buffer, Nat.pos_iff_ne_zero.mp least, most, flag])

/-! KEY_ENROL (R396, R397). -/

/-- The slot holds the key of the block, or none, and the operation is counted. -/
def KeySt.enrolled (k : KeySt) (x : Enrol) (slot : Nat) : KeySt := { k with owners := k.owners.set none slot (if x.op = 1 then some x.pub else none), count := k.count + 1 }

theorem keysChanged_stg (s : State) : s.keysChanged.stg = if s.stg.st = .checked then s.stg.void else s.stg := by
  unfold State.keysChanged
  split <;> rfl

theorem keysChanged_stages (s : State) : onlyChanges [.stg] s s.keysChanged := onlyChanges_ite (onStg_changes s _) (onlyChanges_refl _ _)

section
variable {s : State} {h : CmdHdr} {a : U64} {slot : Byte} (cid : h.cid ≠ 0xFFFF) (most : slot.toNat ≤ 3) (buffer : bufferOk a 384 = true) (idle : s.run.st = .idle) (unlocked : s.set.lock.getLsbD 0 = false)
include cid most buffer idle unlocked

/-- In IDLE, with the lock clear and the parameters in range, the block's own conditions decide. -/
theorem runEnrol_eq : s.runEnrol h a slot = if s.enrolOk (s.readHost a.toNat 384) slot.toNat
    then ((s.onKeys fun k => k.enrolled (enrolOf (s.readHost a.toNat 384)) slot.toNat).keysChanged).done0 h 0 else s.done0 h 0x0C := by
  unfold State.runEnrol
  refine (if_neg (by simp [badHdr_eq cid, most, buffer])).trans ((if_neg (Classical.not_not.mpr idle)).trans ((if_neg (Bool.eq_false_iff.mp unlocked)).trans ?_))
  cases s.enrolOk (s.readHost a.toNat 384) slot.toNat <;> rfl

end

/-! LOCK (R371). -/

theorem runLock_locks {s : State} {h : CmdHdr} {mask : U32} (cid : h.cid ≠ 0xFFFF) (few : mask.toNat < 8) :
    s.runLock h mask = (s.onSet fun t => { t with lock := t.lock ||| mask.setWidth 3 }).complete h 0 ((s.set.lock ||| mask.setWidth 3).setWidth 64) 0 0 :=
  if_neg (by simp [badHdr_eq cid, few])

/-- A lock bit of the mask is set. -/
theorem lock_set {mask : U32} (a : BitVec 3) {i : Nat} (width : i < 3) (h : mask.getLsbD i = true) : (a ||| mask.setWidth 3).getLsbD i = true := by
  rw [BitVec.getLsbD_or, BitVec.getLsbD_setWidth, h, decide_eq_true width, Bool.and_true, Bool.or_true]

/-- Settles O6: each command past its checks, and then its parts and its completion. -/
theorem protectionAndKeyCommandsTakeEffect : Obligations.ProtectionAndKeyCommandsTakeEffect := by
  refine ⟨fun s h ps cid few accepts => ?partners, fun s h own ds cid few apart => ?domains, fun s h a maxN adv cid least most flag aligned fits => ?ring,
    fun s h a slot cid most aligned fits idle unlocked => ?enrol, fun s h mask cid few => ?lock⟩
  case partners =>
    refine ⟨_, congrArg Host.Outcome.next (runPartnerSet_stages cid few (accepts_of accepts)), completes_done0 _ _ _ _ (State.onStg_brg ..), rfl, rfl, rfl, fun _ => rfl, rfl, rfl, ?_⟩
    exact done0_in (onStg_in (onlyChanges_refl _ _) (by decide)) (by decide)
  case domains =>
    refine ⟨_, congrArg Host.Outcome.next (runDomainSet_sets cid few (sharesDomain_none apart)), completes_done0 _ _ _ _ (State.onCfg_brg ..), rfl, ?_⟩
    exact done0_in (onCfg_in (onlyChanges_refl _ _) (by decide)) (by decide)
  case ring =>
    intro n c
    have advances := ringAdvanced_changes (s.writeHost a.toNat (s.ringBytes n)) adv c
    refine ⟨_, congrArg Host.Outcome.next (runRingRead_reads cid least most flag (bufferOk_eq aligned fits)), completes_complete _ _ _ _ _ _ _ ((onlyChanges_brg advances (by decide)).trans (State.writeHost_brg ..)),
      ?_, ringAdvanced_num _ adv c, complete_in (onlyChanges_step (writeHost_in (onlyChanges_refl _ _) (by decide)) advances (by decide)) (by decide)⟩
    show stores s.host ((s.writeHost a.toNat (s.ringBytes n)).ringAdvanced adv c).host a.toNat (s.ringBytes n)
    rw [onlyChanges_host advances (by decide)]
    exact writeMem_stores s.host a.toNat (s.ringBytes n)
  case enrol =>
    intro b
    refine ⟨_, congrArg Host.Outcome.next (runEnrol_eq cid most (bufferOk_eq aligned fits) idle unlocked), ?_⟩
    have voids := keysChanged_stages (s.onKeys fun k => k.enrolled (enrolOf b) slot.toNat)
    by_cases ok : s.enrolOk b slot.toNat
    · rw [if_pos ok, if_pos ok]
      exact ⟨completes_done0 _ _ _ _ ((onlyChanges_brg voids (by decide)).trans (State.onKeys_brg ..)), (onlyChanges_keys voids (by decide)).trans (State.onKeys_keys ..), keysChanged_stg _,
        done0_in (onlyChanges_step (onKeys_in (onlyChanges_refl _ _) (by decide)) voids (by decide)) (by decide)⟩
    · rw [if_neg ok, if_neg ok]
      exact ⟨completes_done0 _ _ _ _ rfl, done0_changes ..⟩
  case lock =>
    exact ⟨_, congrArg Host.Outcome.next (runLock_locks cid few), completes_complete _ _ _ _ _ _ _ (State.onSet_brg ..), rfl, fun i => lock_kept _, fun i => lock_set _,
      complete_in (onSet_in (onlyChanges_refl _ _) (by decide)) (by decide)⟩

end Sys2Proof.Machine
end

section
/-! The matrix engine: the issue of a tile operation and the drain of its set (R24, R32, R38, R39, R60, R61, R132). -/

namespace Sys2Proof.Machine

/-! The event queue (R132). -/

theorem maySend_of {s : State} {r c : Nat} {sends : Bool} (h : sends = false ∨ s.queuedRecs r c < 8) : s.maySend r c sends = true := by
  unfold State.maySend
  obtain silent | room := h
  · rw [silent]
    rfl
  · rw [decide_eq_true (show s.queuedRecs r c < eventEntries from room), Bool.or_true]

theorem maySend_full {s : State} {r c : Nat} (h : 8 ≤ s.queuedRecs r c) : s.maySend r c true = false :=
  decide_eq_false (Nat.not_lt.mpr h)

/-! The accumulator set of an operation (R24, R31, R61). -/

/-- The set that operation `i` goes on with: that of the operation before it in its chain, in the same firing. -/
def State.chainSet (s : State) (r c i : Nat) (o : TileOp) (f : Nat) : Option AccSet :=
  if o.init = 2 then (s.core r c).accs.find? (fun a => a.op + 1 = i ∧ a.firing = f) else none

/-- The K index from which an operation goes on. -/
def kBaseOf : Option AccSet → Nat
  | none => 0
  | some a => a.kbase

/-- The accumulators from which an operation goes on. -/
def State.startOf (s : State) (r c : Nat) (o : TileOp) (f : Nat) : Option AccSet → List Acc
  | none => s.startAccs r c o f
  | some a => a.accs

/-- The accumulators once operation `i` has run. -/
def State.tileAccs (s : State) (r c i : Nat) (o : TileOp) (f : Nat) : List Acc :=
  s.runTile r c o f (kBaseOf (s.chainSet r c i o f)) (s.startOf r c o f (s.chainSet r c i o f))

/-- A set holds the accumulators of operation `i` in firing `f`, draining or not. -/
def AccSet.holds (a : AccSet) (i f : Nat) (accs : List Acc) (drain : Bool) : Prop :=
  a.op = i ∧ a.firing = f ∧ a.vals = accs.map (·.v) ∧ a.evs = accs.map (·.ev) ∧ a.draining = drain

theorem chainSet_mem {s : State} {r c i f : Nat} {o : TileOp} {a : AccSet} (h : s.chainSet r c i o f = some a) : a ∈ (s.core r c).accs := by
  unfold State.chainSet at h
  split at h
  · exact List.mem_of_find?_eq_some h
  · cases h

/-- The new set is among those of the core, in the place of the set it replaces if there is one. -/
theorem mem_mergeAcc {accs : List AccSet} {old : Option AccSet} (new : AccSet) (h : ∀ a, old = some a → a ∈ accs) : new ∈ mergeAcc accs old new := by
  cases old with
  | none => exact List.mem_append_right accs (List.mem_singleton_self new)
  | some a => exact List.mem_map.mpr ⟨a, h a rfl, if_pos ⟨rfl, rfl⟩⟩

/-! The issue (R60). -/

theorem takeWaits_core (s : State) (r c : Nat) (ws : List Wait) : (s.takeWaits r c ws).core r c = (s.core r c).take ws := State.core_onCore_self ..

/-- The core once operation `i` has issued in firing `f`. -/
def CoreSt.tileIssued (x : CoreSt) (i f : Nat) (late : Bool) (accs : List AccSet) : CoreSt := { x with tileFired := x.tileFired.set 0 i (f + 1), lateStart := late, accs := accs }

/-- An issue takes the waits, counts the firing, and leaves the operation's set; the rest of the core but its late start is as it was. -/
theorem issueTile_core (s : State) (r c i : Nat) (o : TileOp) (f : Nat) :
    ∃ late new, new.holds i f (s.tileAccs r c i o f) o.drain ∧ (s.issueTile r c i o f).core r c =
      ((s.core r c).take o.tr.waits).tileIssued i f late (mergeAcc (s.core r c).accs (s.chainSet r c i o f) new) := by
  unfold State.issueTile
  extract_lets p old hset start kbase accs u new v counted held sent
  have waited : u.core r c = (s.core r c).take o.tr.waits := (mbNote_core ..).trans (takeWaits_core s r c o.tr.waits)
  have settled : (sent.progress r).core r c = v.core r c := by
    rw [progress_core]
    simp only [sent, held]
    split <;> split <;> rfl
  refine ⟨(u.core r c).lateStart && decide (o.init = 2), new, ⟨rfl, rfl, rfl, rfl, rfl⟩, ?_⟩
  rw [settled, State.core_onCore_self, waited]
  rfl

theorem issueTile_emits (s : State) (r c i : Nat) (o : TileOp) (f : Nat) : (s.issueTile r c i o f).bat.emits = s.bat.emits ++ if o.drain then [] else o.tr.emits := by
  unfold State.issueTile
  extract_lets p old hset start kbase accs u new v counted held sent
  have before : held.bat.emits = s.bat.emits := by
    have noted : v.bat.emits = s.bat.emits := mbNote_emits ..
    simp only [held]
    split <;> exact noted
  rw [progress_emits]
  simp only [sent]
  split
  · rw [before, List.append_nil]
  · rw [State.sendEmits, State.onBat_bat, before]

theorem issueTile_sameBut (s : State) (r c i : Nat) (o : TileOp) (f : Nat) : sameBut {} (coreKey r c) s.cores (s.issueTile r c i o f).cores := by
  unfold State.issueTile
  extract_lets p old hset start kbase accs u new v counted held sent
  have settled : (sent.progress r).cores = v.cores := by
    rw [progress_cores]
    simp only [sent, held]
    split <;> split <;> rfl
  have waited : u.cores = (s.takeWaits r c o.tr.waits).cores := mbNote_cores ..
  rw [settled]
  refine sameBut_trans ?_ (onCore_sameBut u r c _)
  rw [waited]
  exact onCore_sameBut s r c _

section
variable {s : State} {r : Region} {c : Core} {i : Nat} {o : TileOp} (runs : s.coreRuns r c = true) (pick : pickUnit (s.unsplit r) (s.readyTiles r c) = some i)
  (there : (s.coreCourse r c).tiles[i]? = some o)
include runs pick there

/-- The picked operation: it waits for room, issues, or is refused as illegal. -/
theorem tileOperationIssue_eq : execTileOperationIssue r c s =
    let f := (s.core r c).tileFired.get 0 i
    let ok := tileLegal o (s.coreCourse r c).tiles i f
    if !s.maySend r c (!ok || (!o.drain && !o.tr.emits.isEmpty)) then .next s else if ok then .next (s.issueTile r c i o f) else .next (s.illegal r c i) := by
  unfold execTileOperationIssue
  rw [if_pos runs, pick]
  simp only [there]

theorem tileOperationIssue_issues (legal : tileLegal o (s.coreCourse r c).tiles i ((s.core r c).tileFired.get 0 i) = true)
    (room : o.drain = true ∨ o.tr.emits = [] ∨ s.queuedRecs r c < 8) :
    execTileOperationIssue r c s = .next (s.issueTile r c i o ((s.core r c).tileFired.get 0 i)) := by
  have may : s.maySend r c (!o.drain && !o.tr.emits.isEmpty) = true := by
    obtain drains | silent | free := room
    · exact maySend_of (Or.inl (by simp [drains]))
    · exact maySend_of (Or.inl (by simp [silent]))
    · exact maySend_of (Or.inr free)
  rw [tileOperationIssue_eq runs pick there]
  simp only [legal, Bool.not_true, Bool.false_or, may]
  rfl

theorem tileOperationIssue_waits (legal : tileLegal o (s.coreCourse r c).tiles i ((s.core r c).tileFired.get 0 i) = true)
    (stays : o.drain = false) (sends : o.tr.emits ≠ []) (full : 8 ≤ s.queuedRecs r c) : execTileOperationIssue r c s = .next s := by
  have some_ : o.tr.emits.isEmpty = false := List.isEmpty_eq_false_iff.mpr sends
  rw [tileOperationIssue_eq runs pick there]
  simp only [legal, stays, some_, Bool.not_true, Bool.not_false, Bool.false_or, Bool.and_self, maySend_full full]
  rfl

theorem tileOperationIssue_faults (illegal : tileLegal o (s.coreCourse r c).tiles i ((s.core r c).tileFired.get 0 i) = false) (room : s.queuedRecs r c < 8) :
    execTileOperationIssue r c s = .next (s.illegal r c i) := by
  rw [tileOperationIssue_eq runs pick there]
  simp only [illegal, Bool.not_false, Bool.true_or, maySend_of (Or.inr room)]
  rfl

end

theorem illegal_core (s : State) (r c k : Nat) : (s.illegal r c k).core r c = { s.core r c with halted := true } := by
  unfold State.illegal
  rw [State.core_onBat, State.core_onCore_self]

theorem illegal_sameBut (s : State) (r c k : Nat) : sameBut {} (coreKey r c) s.cores (s.illegal r c k).cores :=
  onCore_sameBut s r c fun x => { x with halted := true }

/-! The drain (R32, R38, R54). -/

/-- A byte that the element at `off` of a core's SRAM does not cover. -/
def State.offElem (s : State) (r c : Nat) (f32 : Bool) (off b : Nat) : Prop := ¬ (s.sramBase r c + off ≤ b ∧ b < s.sramBase r c + off + if f32 then 4 else 2)

theorem writeElem_get {s : State} {r c off b : Nat} {f32 : Bool} (v : Nat) (h : s.offElem r c f32 off b) : Tab.get (0 : Byte) (s.writeElem r c f32 off v).sram b = Tab.get (0 : Byte) s.sram b := by
  refine writeSram_get s r c off _ b ?_
  rw [leBytes_length]
  exact h

/-- A byte that no round of a loop over SRAM writes keeps its value; the rounds find the module's map and fences as they were. -/
theorem loopN_sram_get {F : Nat → State → State} {s : State} {b : Nat} (frame : ∀ e u, onlyChanges [.sram] u (F e u)) (n : Nat)
    (keeps : ∀ e, e < n → ∀ u : State, u.cfg = s.cfg → u.flt = s.flt → Tab.get (0 : Byte) (F e u).sram b = Tab.get (0 : Byte) u.sram b) :
    Tab.get (0 : Byte) (loopN F n s).sram b = Tab.get (0 : Byte) s.sram b := by
  induction n with
  | zero => rfl
  | succ n ih =>
    have rounds := loopN_changes [.sram] F frame n s
    exact (keeps n (Nat.lt_succ_self n) _ (onlyChanges_cfg rounds (by decide)) (onlyChanges_flt rounds (by decide))).trans
      (ih fun e he => keeps e (Nat.lt_succ_of_lt he))

/-- A byte outside every output element of a drained tile, and outside every stash element where the drain stashes. -/
def State.offDrain (s : State) (r c : Nat) (o : TileOp) (f b : Nat) : Prop :=
  ∀ e, e < o.m * o.n → s.offElem r c (!o.outf) (opOff o.out (!o.outf) f (e / o.n) (e % o.n)) b ∧
    (o.dmode = 1 → o.dstash = true → s.offElem r c (!o.stf) (opOff o.stash (!o.stf) f (e / o.n) (e % o.n)) b)

/-- One element of a drained tile, and its stash where the drain stashes. -/
def State.drainOne (s : State) (r c : Nat) (o : TileOp) (f e : Nat) (d : Drained) : State :=
  (if o.dmode = 1 ∧ o.dstash then s.writeElem r c (!o.stf) (opOff o.stash (!o.stf) f (e / o.n) (e % o.n)) d.stash else s).writeElem r c (!o.outf)
    (opOff o.out (!o.outf) f (e / o.n) (e % o.n)) d.out

theorem drainOne_changes (s : State) (r c : Nat) (o : TileOp) (f e : Nat) (d : Drained) : onlyChanges [.sram] s (s.drainOne r c o f e d) :=
  writeElem_in (onlyChanges_ite (writeElem_changes ..) (onlyChanges_refl _ _)) (by decide)

theorem drainOne_get {s : State} {r c f e b : Nat} {o : TileOp} (d : Drained) (out : s.offElem r c (!o.outf) (opOff o.out (!o.outf) f (e / o.n) (e % o.n)) b)
    (stash : o.dmode = 1 → o.dstash = true → s.offElem r c (!o.stf) (opOff o.stash (!o.stf) f (e / o.n) (e % o.n)) b) :
    Tab.get (0 : Byte) (s.drainOne r c o f e d).sram b = Tab.get (0 : Byte) s.sram b := by
  unfold State.drainOne
  split
  next h => exact (writeElem_get d.out (s := s.writeElem ..) out).trans (writeElem_get d.stash (stash h.1 h.2))
  next => exact writeElem_get d.out out

theorem writeDrain_get {s : State} {r c f b : Nat} {o : TileOp} (ds : List Drained) (h : s.offDrain r c o f b) :
    Tab.get (0 : Byte) (s.writeDrain r c o f ds).sram b = Tab.get (0 : Byte) s.sram b := by
  unfold State.writeDrain
  refine loopN_sram_get (fun e u => ?frame) _ fun e he u cfg flt => ?keeps
  case frame =>
    split
    · exact onlyChanges_refl _ _
    · exact drainOne_changes u r c o f e _
  case keeps =>
    obtain ⟨out, stash⟩ := h e he
    have base := sramBase_same cfg flt r c
    split
    · rfl
    · refine drainOne_get _ ?_ fun mode stashes => ?_
      · unfold State.offElem at out ⊢
        rwa [base]
      · have off := stash mode stashes
        unfold State.offElem at off ⊢
        rwa [base]

theorem freeSet_core (s : State) (r c : Nat) (a : AccSet) : ((s.freeSet r c a).core r c).accs = (s.core r c).accs.filter fun b => !(b.op = a.op && b.firing = a.firing) := by
  unfold State.freeSet
  extract_lets full u late
  rw [State.core_onCore_self, State.core_onCore_self]

theorem freeSet_sameBut (s : State) (r c : Nat) (a : AccSet) : sameBut {} (coreKey r c) s.cores (s.freeSet r c a).cores :=
  sameBut_trans (onCore_sameBut s r c _) (onCore_sameBut _ r c _)

/-- The elements of a drained set, through the drain function (R32, R55, R56). -/
def State.drainedElems (s : State) (r c : Nat) (a : AccSet) (o : TileOp) : List Drained :=
  (List.range (o.m * o.n)).map fun e =>
    drainElem o (a.vals.getD e 0) (if o.dmode = 2 then s.readElem r c (!o.stf) (opOff o.stash (!o.stf) a.firing (e / o.n) (e % o.n)) else 0)

/-- The set leaves, with its record, its emits, and the micro-batches that are then complete. -/
def State.setLeaves (s : State) (r c : Nat) (a : AccSet) (o : TileOp) (w : U32 × U32) : State :=
  (((s.freeSet r c a).sendRecord r c a.mbatch o.tileId w.1 w.2).sendEmits o.tr.emits).progress r

theorem drainSet_eq (s : State) (r c : Nat) (a : AccSet) (o : TileOp) :
    s.drainSet r c a o = (s.writeDrain r c o a.firing (s.drainedElems r c a o)).setLeaves r c a o (drainRecord o a (s.drainedElems r c a o)) := rfl

section
variable (s : State) (r c : Nat) (a : AccSet) (o : TileOp) (w : U32 × U32)

theorem setLeaves_sram : (s.setLeaves r c a o w).sram = s.sram := by
  rw [State.setLeaves, progress_sram, State.sendEmits, State.onBat_sram]
  obtain ⟨-, -, sram, -⟩ := sendRecord_keeps (s.freeSet r c a) r c a.mbatch o.tileId w.1 w.2
  rw [sram, onlyChanges_sram (freeSet_changes s r c a) (by decide)]

theorem setLeaves_accs : ((s.setLeaves r c a o w).core r c).accs = (s.core r c).accs.filter fun b => !(b.op = a.op && b.firing = a.firing) := by
  rw [State.setLeaves, progress_core, State.sendEmits, State.core_onBat, sendRecord_accs, freeSet_core]

theorem setLeaves_emits : (s.setLeaves r c a o w).bat.emits = s.bat.emits ++ o.tr.emits := by
  obtain ⟨-, emits, -, -⟩ := sendRecord_keeps (s.freeSet r c a) r c a.mbatch o.tileId w.1 w.2
  rw [State.setLeaves, progress_emits, State.sendEmits, State.onBat_bat]
  show _ ++ o.tr.emits = _
  rw [emits, onlyChanges_bat (freeSet_changes s r c a) (by decide)]

theorem setLeaves_sameBut : sameBut {} (coreKey r c) s.cores (s.setLeaves r c a o w).cores := by
  obtain ⟨-, -, -, others⟩ := sendRecord_keeps (s.freeSet r c a) r c a.mbatch o.tileId w.1 w.2
  rw [State.setLeaves, progress_cores, State.sendEmits, State.onBat_cores]
  exact sameBut_trans (freeSet_sameBut s r c a) others

end

theorem tileDrain_drains {s : State} {r : Region} {c : Core} {a : AccSet} {o : TileOp} (ended : (s.core r c).accs.find? (·.draining) = some a)
    (there : (s.coreCourse r c).tiles[a.op]? = some o) (room : o.tr.emits = [] ∨ s.queuedRecs r c < 8) : execTileDrain r c s = .next (s.drainSet r c a o) := by
  unfold execTileDrain
  rw [ended]
  simp only [there]
  refine if_pos (maySend_of (room.imp_left fun silent => ?_))
  rw [silent]
  rfl

/-- Settles O14: the issue by whether the operation is legal and its sends fit, the drain stage by stage. -/
theorem theMatrixEngineIssuesAndDrains : Obligations.TheMatrixEngineIssuesAndDrains := by
  refine ⟨fun s r c i o runs pick there => ⟨fun legal room => ?issues, fun legal stays sends full => tileOperationIssue_waits runs pick there legal stays sends full,
    fun illegal room => ?faults⟩, fun s r c a o ended there room => ?drains⟩
  case issues =>
    intro old accs
    have e := tileOperationIssue_issues runs pick there legal room
    obtain ⟨late, new, holds, core⟩ := issueTile_core s r c i o ((s.core r c).tileFired.get 0 i)
    refine ⟨_, e, ?_, ?_, ⟨new, ?_, holds⟩, issueTile_emits .., issueTile_sameBut s r c i o _, execTileOperationIssue_within r c s _ e⟩
    · rw [core]
      rfl
    · rw [core, takeWaits_core]
      rfl
    · rw [core]
      exact mem_mergeAcc new fun a h => chainSet_mem h
  case faults =>
    have e := tileOperationIssue_faults runs pick there illegal room
    exact ⟨_, e, illegal_core s r c i, rfl, illegal_sameBut s r c i, illegal_changes s r c i⟩
  case drains =>
    intro ds
    have e := tileDrain_drains ended there room
    rw [drainSet_eq] at e
    have written := writeDrain_changes s r c o a.firing (s.drainedElems r c a o)
    refine ⟨_, e, setLeaves_sram .., fun b off => ?_, ?_, ?_, ?_, execTileDrain_within r c s _ e⟩
    · rw [setLeaves_sram]
      exact writeDrain_get _ off
    · rw [setLeaves_accs, State.core_same (onlyChanges_cores written (by decide))]
    · rw [setLeaves_emits, onlyChanges_bat written (by decide)]
    · rw [← onlyChanges_cores written (by decide)]
      exact setLeaves_sameBut _ r c a o _

end Sys2Proof.Machine
end

section
/-! The vector engine: the issue of a chain and its completion (R60, R66, R67, R73, R79, R132). -/

namespace Sys2Proof.Machine

/-! The issue (R60, R73). -/

/-- The lane groups of a chain in firing `f` (R65, R73). -/
def State.chainGroups (s : State) (r c : Nat) (ch : Chain) (f : Nat) : State × VProg :=
  let total := groupRows ch * groupCols ch
  loopN (s.runGroup r c ch f · total) total (s, {})

/-- What the engine holds once the lane groups of chain `i` have run: the writes to come, the tree's behind the streams', and the record (R71, R79). -/
def chainRun (r i : Nat) (ch : Chain) (q : State × VProg) : VecRun :=
  let w := treeWrites ch q.2.accs q.2
  let record := chainRecord ch w.2
  { chain := i, writes := w.2.held ++ w.1, w0 := record.1, w1 := record.2, mbatch := q.1.mbNow r }

/-- The run that the issue of chain `i` in firing `f` starts. -/
def State.issuedRun (s : State) (r c i : Nat) (ch : Chain) (f : Nat) : VecRun :=
  chainRun r i ch (((s.takeWaits r c ch.tr.waits).mbNote r 2 c i 0).chainGroups r c ch f)

/-- The core once chain `i` has issued in firing `f`: the engine runs `v`. -/
def CoreSt.chainIssued (x : CoreSt) (i f : Nat) (v : VecRun) : CoreSt := { x with chainFired := x.chainFired.set 0 i (f + 1), vec := some v }

/-- The lane groups write the SRAM and take free choices, and touch no core. -/
theorem chainGroups_cores (s : State) (r c : Nat) (ch : Chain) (f : Nat) : (s.chainGroups r c ch f).1.cores = s.cores :=
  onlyChanges_cores (loopN_runGroup s r c ch f _ _ (s, {})) (by decide)

/-- An issue takes the waits, counts the firing and starts the engine; it touches no core beside its own. -/
theorem issueChain_cores (s : State) (r c i : Nat) (ch : Chain) (f : Nat) :
    (s.issueChain r c i ch f).cores = ((s.takeWaits r c ch.tr.waits).onCore r c fun x => x.chainIssued i f (s.issuedRun r c i ch f)).cores := by
  let waited := (s.takeWaits r c ch.tr.waits).mbNote r 2 c i 0
  have cores : (waited.chainGroups r c ch f).1.cores = (s.takeWaits r c ch.tr.waits).cores := (chainGroups_cores ..).trans (mbNote_cores ..)
  exact congrArg (fun t => Tab.upd {} t (coreKey r c) fun x => x.chainIssued i f (s.issuedRun r c i ch f)) cores

theorem issueChain_core (s : State) (r c i : Nat) (ch : Chain) (f : Nat) :
    (s.issueChain r c i ch f).core r c = ((s.takeWaits r c ch.tr.waits).core r c).chainIssued i f (s.issuedRun r c i ch f) :=
  (State.core_same (issueChain_cores s r c i ch f) r c).trans (State.core_onCore_self ..)

theorem issueChain_sameBut (s : State) (r c i : Nat) (ch : Chain) (f : Nat) : sameBut {} (coreKey r c) s.cores (s.issueChain r c i ch f).cores := by
  rw [issueChain_cores]
  exact sameBut_trans (onCore_sameBut s r c _) (onCore_sameBut _ r c _)

section
variable {s : State} {r : Region} {c : Core} {i : Nat} {ch : Chain} (runs : s.coreRuns r c = true) (free : (s.core r c).vec = none)
  (pick : pickUnit (s.unsplit r) (s.readyChains r c) = some i) (there : (s.coreCourse r c).chains[i]? = some ch)
include runs free pick there

/-- The picked chain issues if it is legal; an illegal one is reported as soon as there is room. -/
theorem vectorChainIssue_eq : execVectorChainIssue r c s =
    let f := (s.core r c).chainFired.get 0 i
    if chainLegal ch f then .next (s.issueChain r c i ch f) else if s.maySend r c true then .next (s.illegal r c (0x10000 + i)) else .next s := by
  unfold execVectorChainIssue
  rw [if_pos (by rw [runs, free]; rfl), pick]
  simp only [there]

theorem vectorChainIssue_issues (legal : chainLegal ch ((s.core r c).chainFired.get 0 i) = true) :
    execVectorChainIssue r c s = .next (s.issueChain r c i ch ((s.core r c).chainFired.get 0 i)) :=
  (vectorChainIssue_eq runs free pick there).trans (if_pos legal)

theorem vectorChainIssue_faults (illegal : chainLegal ch ((s.core r c).chainFired.get 0 i) = false) (room : s.queuedRecs r c < 8) :
    execVectorChainIssue r c s = .next (s.illegal r c (0x10000 + i)) := by
  rw [vectorChainIssue_eq runs free pick there]
  simp only [illegal, maySend_of (Or.inr room)]
  rfl

end

/-! The completion (R66, R73, R79; that it writes the last lane group: log entry 19). -/

/-- The writes that the engine holds until its chain completes. -/
def State.writeLast (s : State) (r c : Nat) (ws : List (Nat × List Byte)) : State := ws.foldl (fun s w => s.writeSram r c w.1 w.2) s

theorem writeLast_changes (s : State) (r c : Nat) (ws : List (Nat × List Byte)) : onlyChanges [.sram] s (s.writeLast r c ws) :=
  foldl_changes [.sram] _ (fun u _ => writeSram_changes u r c _ _) ws s

theorem writeLast_sram (s : State) (r c : Nat) (ws : List (Nat × List Byte)) :
    (s.writeLast r c ws).sram = ws.foldl (fun m w => writeMem m (s.sramBase r c + w.1) w.2) s.sram := by
  induction ws generalizing s with
  | nil => rfl
  | cons w ws ih => exact ih (s.writeSram r c w.1 w.2)

theorem writeLast_get {s : State} {r c b : Nat} {ws : List (Nat × List Byte)} (off : ∀ w ∈ ws, ¬ (s.sramBase r c + w.1 ≤ b ∧ b < s.sramBase r c + w.1 + w.2.length)) :
    Tab.get (0 : Byte) (s.writeLast r c ws).sram b = Tab.get (0 : Byte) s.sram b :=
  foldl_writeSram_get (fun _ => r) (fun _ => c) Prod.fst Prod.snd b ws s off

/-- The engine is free again, and the chain's record and emits leave. -/
def State.chainLeaves (s : State) (r c : Nat) (v : VecRun) (ch : Chain) : State :=
  (((s.onCore r c fun x => { x with vec := none }).sendRecord r c v.mbatch ch.tileId v.w0 v.w1).sendEmits ch.tr.emits).progress r

section
variable (s : State) (r c : Nat) (v : VecRun) (ch : Chain)

theorem chainLeaves_sram : (s.chainLeaves r c v ch).sram = s.sram := by
  obtain ⟨-, -, sram, -⟩ := sendRecord_keeps (s.onCore r c fun x => { x with vec := none }) r c v.mbatch ch.tileId v.w0 v.w1
  rw [State.chainLeaves, progress_sram, State.sendEmits, State.onBat_sram, sram, State.onCore_sram]

theorem chainLeaves_vec : ((s.chainLeaves r c v ch).core r c).vec = none := by
  rw [State.chainLeaves, progress_core, State.sendEmits, State.core_onBat, sendRecord_vec, State.core_onCore_self]

theorem chainLeaves_emits : (s.chainLeaves r c v ch).bat.emits = s.bat.emits ++ ch.tr.emits := by
  obtain ⟨-, emits, -, -⟩ := sendRecord_keeps (s.onCore r c fun x => { x with vec := none }) r c v.mbatch ch.tileId v.w0 v.w1
  rw [State.chainLeaves, progress_emits]
  exact congrArg (· ++ ch.tr.emits) emits

theorem chainLeaves_sameBut : sameBut {} (coreKey r c) s.cores (s.chainLeaves r c v ch).cores := by
  obtain ⟨-, -, -, others⟩ := sendRecord_keeps (s.onCore r c fun x => { x with vec := none }) r c v.mbatch ch.tileId v.w0 v.w1
  rw [State.chainLeaves, progress_cores]
  exact sameBut_trans (onCore_sameBut s r c _) others

end

theorem vectorChainComplete_completes {s : State} {r : Region} {c : Core} {v : VecRun} {ch : Chain} (runs : (s.core r c).vec = some v)
    (there : (s.coreCourse r c).chains[v.chain]? = some ch) (room : ch.tr.emits = [] ∨ s.queuedRecs r c < 8) :
    execVectorChainComplete r c s = .next ((s.writeLast r c v.writes).chainLeaves r c v ch) := by
  unfold execVectorChainComplete
  rw [runs]
  simp only [there]
  refine if_pos (maySend_of (room.imp_left fun silent => ?_))
  rw [silent]
  rfl

/-- Settles O15: the issue by whether the chain is legal, the completion as its writes and then the engine's release. -/
theorem theVectorEngineIssuesAndCompletes : Obligations.TheVectorEngineIssuesAndCompletes := by
  refine ⟨fun s r c i ch runs free pick there => ⟨fun legal => ?issues, fun illegal room => ?faults⟩, fun s r c v ch runs there room => ?completes⟩
  case issues =>
    have e := vectorChainIssue_issues runs free pick there legal
    have core := issueChain_core s r c i ch ((s.core r c).chainFired.get 0 i)
    refine ⟨_, _, e, ?fired, ?ctrs, congrArg CoreSt.vec core, rfl, issueChain_sameBut s r c i ch _, issueChain_changes s r c i ch _⟩
    case fired =>
      rw [core, takeWaits_core]
      rfl
    case ctrs =>
      rw [core]
      rfl
  case faults =>
    have e := vectorChainIssue_faults runs free pick there illegal room
    exact ⟨_, e, illegal_core s r c _, rfl, illegal_sameBut s r c _, illegal_changes s r c _⟩
  case completes =>
    have e := vectorChainComplete_completes runs there room
    have written := writeLast_changes s r c v.writes
    refine ⟨_, e, (chainLeaves_sram ..).trans (writeLast_sram ..), fun b off => ?_, chainLeaves_vec .., ?_, ?_, execVectorChainComplete_within r c s _ e⟩
    · rw [chainLeaves_sram]
      exact writeLast_get off
    · rw [chainLeaves_emits, onlyChanges_bat written (by decide)]
    · rw [← onlyChanges_cores written (by decide)]
      exact chainLeaves_sameBut _ r c v ch

end Sys2Proof.Machine
end

section
/-! Staging: a chunk of host memory joins the staged set, and the course copies are written into checkpoint-staging lines (R215, R255, R261, R348). -/

namespace Sys2Proof.Machine

/-! Where the copies stand (R255, R337). -/

/-- Every line of a run has a number in the list of runs. -/
theorem runLine_of_mem {us : List ExRun} {u : ExRun} {k : Nat} (run : u ∈ us) (line : k < u.count) : ∃ n, runLine us n = some (u.lregion, u.bank, u.first + k) := by
  induction us with
  | nil => exact absurd run List.not_mem_nil
  | cons v us ih =>
    obtain rfl | later := List.mem_cons.mp run
    · exact ⟨k, if_pos line⟩
    · obtain ⟨n, e⟩ := ih later
      refine ⟨v.count + n, (if_neg (by omega)).trans ?_⟩
      rwa [Nat.add_sub_cancel_left]

theorem runLine_of_stagingOf {s : State} {r : Nat} {x : Nat × Nat} (h : x ∈ s.stagingOf r) : ∃ n, runLine s.stagingRuns n = some (r, x.1, x.2) := by
  obtain ⟨u, run, lines⟩ := List.mem_flatMap.mp h
  obtain ⟨k, line, rfl⟩ := List.mem_map.mp lines
  obtain ⟨held, kind⟩ := List.mem_filter.mp run
  obtain ⟨staging, region⟩ := Bool.and_eq_true_iff.mp kind
  rw [← of_decide_eq_true region]
  exact runLine_of_mem (List.mem_filter.mpr ⟨held, staging⟩) (List.mem_range.mp line)

theorem copyPlace_stagingOf {s : State} {r k : Nat} {x : Nat × Nat} (h : x ∈ s.copyPlace r k) : x ∈ s.stagingOf r :=
  List.mem_reverse.mp (List.mem_of_mem_drop (List.mem_of_mem_take (List.mem_reverse.mp h)))

/-- A byte outside checkpoint staging is outside every line of a copy. -/
theorem offStaging_copyPlace {s : State} {b r k : Nat} {x : Nat × Nat} (out : s.offStaging b) (h : x ∈ s.copyPlace r k) : ¬ s.inLine r x.1 x.2 b := by
  obtain ⟨n, line⟩ := runLine_of_stagingOf (copyPlace_stagingOf h)
  exact out n r x.1 x.2 line

/-! What the copies leave of the store (R255). -/

/-- A byte of the store is the same, and so is what places the columns there. -/
structure keepsStored (b : Nat) (s t : State) : Prop where
  cfg : t.cfg = s.cfg
  byte : Tab.get (0 : Byte) t.store.mem b = Tab.get (0 : Byte) s.store.mem b

/-- The bytes of a line begin 2,048 times its number past those of its bank. -/
theorem lineKey_line (p bank line : Nat) : lineKey p bank 0 * 2048 + line * 2048 = lineKey p bank line * 2048 := by
  unfold lineKey
  omega

/-- Writing part of a line, from its start, leaves the bytes outside that line. -/
theorem writeExchange_keeps {b : Nat} {s t : State} {r bank line : Nat} {d : List Byte} (h : keepsStored b s t) (len : d.length ≤ 2048) (out : ¬ s.inLine r bank line b) :
    keepsStored b s (t.writeExchange r bank line 0 d) := by
  obtain ⟨cfg, byte⟩ := h
  have column : t.column r = s.column r := by unfold State.column State.phys; rw [cfg]
  have stored := writeExchange_stores t r bank line 0 d (by omega) b
  rw [column, Nat.add_zero, lineKey_line, if_neg fun within => out ⟨within.1, Nat.lt_of_lt_of_le within.2 (Nat.add_le_add_left len _)⟩] at stored
  exact ⟨(onlyChanges_cfg (writeExchange_changes ..) (by decide)).trans cfg, stored.trans byte⟩

theorem putExchange_keeps {b : Nat} {s t : State} {r bank line : Nat} {d : List Byte} (h : keepsStored b s t) (len : d.length ≤ 2048) (out : ¬ s.inLine r bank line b) :
    keepsStored b s (t.putExchange r bank line d) := by
  unfold State.putExchange
  split
  · exact h
  · exact writeExchange_keeps h len out

/-- Every copy lies in checkpoint-staging lines, and so no byte outside them is written. -/
theorem writeCopies_keeps {s : State} {b : Nat} (out : s.offStaging b) : keepsStored b s s.writeCopies := by
  refine List.foldlRecOn (motive := keepsStored b s) _ _ ⟨rfl, rfl⟩ fun t ht r _ => ?_
  refine List.foldlRecOn (motive := keepsStored b s) _ _ ht fun t ht k _ => ?_
  split
  · exact ht
  · refine List.foldlRecOn (motive := keepsStored b s) _ _ ht fun t ht x hx => ?_
    refine putExchange_keeps ht ?_ (offStaging_copyPlace out (List.of_mem_zip hx).1)
    rw [List.length_append, List.length_replicate, List.length_take]
    omega

/-! The chunk in the set (R348). -/

theorem takeChunk_idle {s : State} (reshard : Bool) (off : U64) (data : List Byte) (idle : s.run.st = .idle) : s.takeChunk reshard off data = s.onStg (·.stage reshard off data) :=
  if_pos idle

theorem takeChunk_running {s : State} (reshard : Bool) (off : U64) (data : List Byte) (configured : s.run.st ≠ .idle) :
    s.takeChunk reshard off data = (s.onStg (·.stage reshard off data)).writeCopies := if_neg configured

theorem takeChunk_stg (s : State) (reshard : Bool) (off : U64) (data : List Byte) : (s.takeChunk reshard off data).stg = s.stg.stage reshard off data := by
  by_cases idle : s.run.st = .idle
  · rw [takeChunk_idle _ _ _ idle, State.onStg_stg]
  · rw [takeChunk_running _ _ _ idle, onlyChanges_stg (writeCopies_changes _) (by decide), State.onStg_stg]

/-- The staging lines are those of the configuration in force, which a chunk leaves as it is. -/
theorem takeChunk_keeps {s : State} {b : Nat} (reshard : Bool) (off : U64) (data : List Byte) (out : s.offStaging b) : keepsStored b s (s.takeChunk reshard off data) := by
  by_cases idle : s.run.st = .idle
  · rw [takeChunk_idle _ _ _ idle]
    exact ⟨rfl, rfl⟩
  · rw [takeChunk_running _ _ _ idle]
    obtain ⟨cfg, byte⟩ := writeCopies_keeps (s := s.onStg (·.stage reshard off data)) out
    exact ⟨cfg, byte⟩

/-! IMAGE_STAGE and RESHARD past their checks (R347, R348, Table 15.6). -/

theorem stageParams_of {a : U64} {len : U32} {off : U64} (aligned : a.toNat % 64 = 0) (fits : a.toNat + len.toNat ≤ 2 ^ 64) (least : 4096 ≤ len.toNat) (most : len.toNat ≤ 2 ^ 30)
    (lines : len.toNat % 4096 = 0) (place : off.toNat % 4096 = 0) (range : off.toNat + len.toNat ≤ 2 ^ 34) : stageParams a len off = true := by
  unfold stageParams
  rw [decide_eq_true ⟨least, most⟩, decide_eq_true lines, decide_eq_true place, decide_eq_true range, bufferOk_eq aligned fits]
  rfl

theorem takes_of {t : StagingSt} {reshard : Bool} (accepts : t.accepts = true) (kind : t.have_ = [] ∨ t.reshard = reshard) : t.takes reshard = true := by
  unfold StagingSt.takes
  obtain empty | same := kind
  · simp [accepts, empty]
  · simp [accepts, same]

theorem sizeWith_within {t : StagingSt} {off : U64} {data : List Byte} {n : Nat} (h : ∀ z, t.sizeWith off data = some z → n ≤ z) :
    ((t.sizeWith off data).any fun z => decide (z < n)) = false :=
  (Option.any_eq_false _ _).mpr fun z size => decide_eq_false (Nat.not_lt.mpr (h z size))

/-- With parameters in range and a set that accepts the chunk, its share decides. -/
theorem runStage_eq {s : State} {reshard : Bool} {h : CmdHdr} {a : U64} {len : U32} {off : U64} (cid : h.cid ≠ 0xFFFF) (params : stageParams a len off = true)
    (takes : s.stg.takes reshard = true) (kind : kindDiffers reshard off (s.readHost a.toNat len.toNat) = false)
    (within : ∀ z, s.stg.sizeWith off (s.readHost a.toNat len.toNat) = some z → off.toNat + len.toNat ≤ z) :
    s.runStage reshard h a len off = if s.shareFits (spliceMem s.stg.bytes off.toNat (s.readHost a.toNat len.toNat))
      then (s.takeChunk reshard off (s.readHost a.toNat len.toNat)).done0 h 0 else s.done0 h 0x0B := by
  unfold State.runStage
  refine (if_neg (by simp [badHdr_eq cid, params, kind, sizeWith_within within])).trans ((if_neg (by simp [takes])).trans ?_)
  cases s.shareFits (spliceMem s.stg.bytes off.toNat (s.readHost a.toNat len.toNat)) <;> rfl

theorem exec_stage (reshard : Bool) (h : CmdHdr) (a : U64) (len : U32) (off : U64) (s : State) :
    exec (if reshard then .reshard h a len off else .imageStage h a len off) s = .next (s.runStage reshard h a len off) := by
  cases reshard <;> rfl

/-- Settles O2: past the checks the share decides; what the chunk leaves is its set, the copies in their lines, and the completion. -/
theorem stagingAChunkJoinsTheStagedSet : Obligations.StagingAChunkJoinsTheStagedSet := by
  intro s h a len off reshard cid aligned fits least most lines place range accepts kind data c same within
  have run := runStage_eq cid (stageParams_of aligned fits least most lines place range) (takes_of (accepts_of accepts) kind) same within
  have answer : exec c s = .next (s.runStage reshard h a len off) := exec_stage ..
  rw [answer, run]
  refine ⟨fun share => ?joins, fun share => ?refused⟩
  case joins =>
    have stg := takeChunk_stg s reshard off data
    have length : data.length = len.toNat := readMem_length ..
    have changes := takeChunk_changes s reshard off data
    rw [if_pos share]
    refine ⟨_, rfl, completes_done0 _ _ _ _ (onlyChanges_brg changes (by decide)), congrArg StagingSt.st stg, congrArg StagingSt.root stg, congrArg StagingSt.image stg,
      congrArg StagingSt.full stg, congrArg StagingSt.reshard stg, ?have_, congrArg StagingSt.bytes stg, fun idle => ?idle, fun b out => (takeChunk_keeps reshard off data out).byte,
      done0_in (takeChunk_in (onlyChanges_refl _ _) (by decide)) (by decide)⟩
    case have_ =>
      exact (congrArg StagingSt.have_ stg).trans (congrArg (fun n => s.stg.have_ ++ [(off.toNat, n)]) length)
    case idle =>
      rw [takeChunk_idle _ _ _ idle]
      exact done0_in (onStg_in (onlyChanges_refl _ _) (by decide)) (by decide)
  case refused =>
    rw [if_neg (Bool.eq_false_iff.mp share)]
    exact ⟨_, rfl, completes_done0 _ _ _ _ rfl, done0_changes ..⟩

end Sys2Proof.Machine
end

section
/-! The staged set through the states of Table 12.10: its check, its arm and its abandon (R261, R262, R263, R265). -/

namespace Sys2Proof.Machine

/-! Checking (R261, R265). -/

theorem runCheck_checks {s : State} {h : CmdHdr} (cid : h.cid ≠ 0xFFFF) (loading : s.stg.st = .loading) :
    s.runCheck h = (s.onStg fun t => { t with st := .checking }).onRun fun r => { r with check := some h } := by
  unfold State.runCheck
  rw [if_neg (by simp [badHdr_eq cid]), if_neg (Classical.not_not.mpr loading)]

/-- Checks pass on a merged image only: without one, check 1 fails. -/
theorem mergedImage_of_passes {s : State} (passes : s.checkCode = 0) : ∃ i, s.mergedImage = some i := by
  cases merged : s.mergedImage with
  | some i => exact ⟨i, rfl⟩
  | none =>
    have first : s.checkCode = 1 := by simp [State.checkCode, merged]
    exact absurd (first.symm.trans passes) (by decide)

section
variable {s : State} {h : CmdHdr} (checking : s.stg.st = .checking) (hand : s.run.check = some h)
include checking hand

theorem imageCheckEnd_passes {i : Image} (merged : s.mergedImage = some i) (passes : s.checkCode = 0) :
    execImageCheckEnd s = .next (((s.stageChecked i).onRun fun r => { r with check := none }).complete h 0 0
      ((s.stageChecked i).stg.root.setWidth 64) (((s.stageChecked i).stg.root >>> 64).setWidth 64)) := by
  have kept : (s.stageChecked i).run.check = some h := hand
  simp only [execImageCheckEnd, if_pos checking, merged, if_pos passes, kept, State.onRun_stg]

theorem imageCheckEnd_fails (fails : s.checkCode ≠ 0) :
    execImageCheckEnd s = .next (((s.onStg fun t => { t with st := .failed, code := s.checkCode }).onRun fun r => { r with check := none }).complete h 7 (BitVec.ofNat 64 s.checkCode) 0 0) := by
  cases merged : s.mergedImage <;> simp only [execImageCheckEnd, if_pos checking, merged, if_neg fails, State.onStg_run, hand]

end

/-! Arming (R262, R263). -/

/-- Past its checks an arm of a checked set is accepted. -/
theorem runArm_accepts {s : State} {h : CmdHdr} {b : U64} {e : U32} {a : U64} (cid : h.cid ≠ 0xFFFF) (buffer : bufferOk a 64 = true) (later : s.cfg.epoch.toNat < e.toNat)
    (checked : s.stg.st = .checked) (inTime : s.armInTime b = true) (root : ofBytes 64 (s.readHost a.toNat 64) = s.stg.root) (trusted : s.vendorLapsed = false) :
    s.runArm h b e a = s.acceptArm h b e := by
  unfold State.runArm
  rw [if_neg (by simp [badHdr_eq cid, buffer, later]), if_neg (by simp [checked, inTime]), if_neg (Classical.not_not.mpr root), if_neg (Bool.eq_false_iff.mp trusted)]

theorem armInTime_running {s : State} {b : U64} (running : s.run.st = .running) (early : s.run.step.toNat ≤ b.toNat) : s.armInTime b = true := by
  simp [State.armInTime, running, early]

theorem armInTime_idle {s : State} (b : U64) (idle : s.run.st = .idle) : s.armInTime b = true := by
  simp [State.armInTime, idle]

/-- In step and in agreement, an arm waits for its boundary, and the command completes. -/
theorem acceptArm_running {s : State} (h : CmdHdr) (b : U64) (e : U32) (running : s.run.st = .running) (agreed : s.stg.disag = false) (waits : s.stg.applying = false) :
    s.acceptArm h b e = (s.onStg fun t => { t with st := .armed, b := b, e := e }).done0 h 0 := by
  simp [State.acceptArm, State.reentryArm, running, agreed, waits]

/-- In IDLE the set is applied at once, and the command stays in hand. -/
theorem acceptArm_idle {s : State} (h : CmdHdr) (b : U64) (e : U32) (idle : s.run.st = .idle) :
    s.acceptArm h b e = ((s.onStg fun t => { t with st := .armed, b := b, e := e }).startApply).onRun fun r => { r with armed := some h } := by
  simp [State.acceptArm, State.startApply, idle]

/-! Abandoning (R261). -/

theorem runAbandon_empties {s : State} {h : CmdHdr} (cid : h.cid ≠ 0xFFFF) (staged : s.stg.st ≠ .empty) (waits : s.stg.applying = false) (free : s.run.check = none) :
    s.runAbandon h = s.emptyStage.done0 h 0 := by
  have noCheck : s.stopCheck = s := by simp [State.stopCheck, free]
  unfold State.runAbandon
  rw [if_neg (by simp [badHdr_eq cid]), if_neg (by simp [staged, waits]), noCheck]

/-- Settles O3: each command past its checks, the end of a check by whether one fails, the arm by the module's state. -/
theorem checkArmAndAbandonMoveTheStagedSet : Obligations.CheckArmAndAbandonMoveTheStagedSet := by
  refine ⟨fun s h cid loading => ?check, fun s h checking hand => ?checkEnd,
    fun s h b e a cid aligned fits later checked waits trusted root => ⟨fun running early agreed => ?armed, fun idle => ?applied⟩,
    fun s h cid staged waits free => ?abandoned⟩
  case check => exact ⟨_, congrArg Host.Outcome.next (runCheck_checks cid loading), onRun_in (onStg_in (onlyChanges_refl _ _) (by decide)) (by decide), rfl, rfl⟩
  case checkEnd =>
    by_cases passes : s.checkCode = 0
    · obtain ⟨i, merged⟩ := mergedImage_of_passes passes
      refine ⟨_, imageCheckEnd_passes checking hand merged passes, complete_in (onRun_in (stageChecked_in (onlyChanges_refl _ _) (by decide)) (by decide)) (by decide), rfl, passes.symm, ?_, ?_⟩
      · rw [if_pos passes]
        rfl
      · rw [if_pos passes]
        exact completes_complete _ _ _ _ _ _ _ rfl
    · refine ⟨_, imageCheckEnd_fails checking hand passes, complete_in (onRun_in (onStg_in (onlyChanges_refl _ _) (by decide)) (by decide)) (by decide), rfl, rfl, ?_, ?_⟩
      · rw [if_neg passes]
        rfl
      · rw [if_neg passes]
        exact completes_complete _ _ _ _ _ _ _ rfl
  case armed =>
    have accepted := runArm_accepts cid (bufferOk_eq aligned fits) later checked (armInTime_running running early) root trusted
    exact ⟨_, congrArg Host.Outcome.next (accepted.trans (acceptArm_running h b e running agreed waits)), completes_done0 _ _ _ _ rfl,
      done0_in (onStg_in (onlyChanges_refl _ _) (by decide)) (by decide), rfl⟩
  case applied =>
    have accepted := runArm_accepts cid (bufferOk_eq aligned fits) later checked (armInTime_idle b idle) root trusted
    exact ⟨_, congrArg Host.Outcome.next (accepted.trans (acceptArm_idle h b e idle)),
      onRun_in (startApply_in (onStg_in (onlyChanges_refl _ _) (by decide)) (by decide)) (by decide), rfl, rfl, rfl, rfl, rfl⟩
  case abandoned =>
    exact ⟨_, congrArg Host.Outcome.next (runAbandon_empties cid staged waits free), completes_done0 _ _ _ _ rfl, done0_in (emptyStage_in (onlyChanges_refl _ _) (by decide)) (by decide), rfl⟩

end Sys2Proof.Machine
end

section
/-! The register window over the host link: writes by the class of the register, and reads with their clear (R261, R333, R360 to R363, R367). -/

namespace Sys2Proof.Machine

/-! The values in force and the staged view (R261, R363). -/

/-- The value put in force is the one its register holds; every other keeps its own. -/
theorem putActive_setting (s : State) (a : Nat) (v : U32) (b : Nat) : (s.putActive a v).setting b = if b = a then v else s.setting b := by
  have entry : (s.putActive a v).set.active.get none b = if b = a then some v else s.set.active.get none b := Tab.get_set none s.set.active a b (some v)
  unfold State.setting
  rw [entry]
  split <;> rfl

/-- An `EPOCH` write is what the staged view shows, unless the settings stage a value of their own there. -/
theorem stageEpoch_stagedView {s : State} {a : Nat} (v : U32) (mbus : Bool) (free : (s.set.staged.find? fun p => p.addr = a) = none) : (s.stageEpoch a v mbus).stagedView a = v := by
  have earlier : (s.stg.writes.filter fun p => p.addr ≠ a).find? (fun p => decide (p.addr = a)) = none :=
    List.find?_eq_none.mpr fun p hp => by simpa using (List.mem_filter.mp hp).2
  have found : ((s.stageEpoch a v mbus).set.staged ++ (s.stageEpoch a v mbus).stg.writes).find? (fun p => decide (p.addr = a)) = some { addr := a, value := v, mbus := mbus } := by
    show (s.set.staged ++ ((s.stg.writes.filter fun p => p.addr ≠ a) ++ [({ addr := a, value := v, mbus := mbus } : Pending)])).find? (fun p => decide (p.addr = a)) = _
    rw [List.find?_append, free, List.find?_append, earlier]
    simp
  unfold State.stagedView
  rw [found]

/-! A write past the checks of its setting, by the register's class (R360 to R366). -/

section
variable {s : State} {d : RegDesc} {a : Nat} {v : U32} (mbus : Bool) (served : s.notServed a = false) (reserved : s.reservedDiffers d a v = false) (range : d.inRange v = true)
include served reserved range

theorem writeSetting_immediate (swap : d.swap = .immediate) : s.writeSetting d a v mbus = s.putActive a (v &&& d.mask) := by
  simp [State.writeSetting, served, reserved, range, swap]

theorem writeSetting_epoch (swap : d.swap = .epoch) :
    s.writeSetting d a v mbus = if s.stg.accepts then s.stageEpoch a (v &&& d.mask) mbus else s.discardWrite a 0x3 mbus := by
  simp [State.writeSetting, served, reserved, range, swap]

theorem writeSetting_boundary (swap : d.swap = .micro ∨ d.swap = .step) : s.writeSetting d a v mbus = s.stageWrite a (v &&& d.mask) mbus := by
  obtain swap | swap := swap <;> simp [State.writeSetting, served, reserved, range, swap]

end

/-! A 4-byte write by what stands at its address (R333, R360, R363). -/

section
variable {s : State} {a : Nat} (v : U32) (mbus : Bool)

theorem writeReg_active {b : Nat} (view : activeOf a = some b) : s.writeReg a v mbus = s.discardWrite a 0x5 mbus := by
  simp only [State.writeReg, view]

variable {v mbus} (view : activeOf a = none) (plain : s.writeSpecial a v mbus = none)
include view plain

theorem writeReg_setting {d : RegDesc} (desc : regDesc a = some d) : s.writeReg a v mbus = s.writeSetting d a v mbus := by
  simp only [State.writeReg, view, plain, desc]

theorem writeReg_nowhere (desc : regDesc a = none) (empty : s.readOwn a = none) : s.writeReg a v mbus = s.writeNowhere a := by
  simp [State.writeReg, view, plain, desc, empty]

end

/-! Accesses over the link, by their width and alignment (R333, R360, R367). -/

theorem accessOk_word {a : Nat} (aligned : a % 4 = 0) : accessOk a 4 = true := by
  simp [accessOk, aligned]

theorem accessOk_pair {a : Nat} (aligned : a % 8 = 0) : accessOk a 8 = true := by
  simp [accessOk, aligned]

section
variable {s : State} (reaches : s.hostReaches = true)
include reaches

theorem registerWrite_eq (a : BitVec 26) (z : BitVec 4) (v : U64) (poison : Bool) : exec (.registerWrite a z v poison) s = .next (s.hostWrite a.toNat z v poison) :=
  overLink_reaches (.registerWrite a z v poison) (fun u => .next (u.hostWrite a.toNat z v poison)) reaches

theorem clearOnRead_eq (a : BitVec 26) (z : BitVec 4) : exec (.clearOnRead a z) s = .next (s.hostReadAt a.toNat z) :=
  overLink_reaches (.clearOnRead a z) (fun u => .next (u.hostReadAt a.toNat z)) reaches

theorem registerWrite_word {a : BitVec 26} (v : U64) (aligned : a.toNat % 4 = 0) : exec (.registerWrite a 4 v false) s = .next (s.writeReg a.toNat (v.setWidth 32) false) := by
  rw [registerWrite_eq reaches]
  simp [State.hostWrite, accessOk_word aligned]

/-- An 8-byte write is the lower and then the upper 4-byte write. -/
theorem registerWrite_pair {a : BitVec 26} (v : U64) (aligned : a.toNat % 8 = 0) :
    exec (.registerWrite a 8 v false) s = .next ((s.writeReg a.toNat (v.setWidth 32) false).writeReg (a.toNat + 4) ((v >>> 32).setWidth 32) false) := by
  rw [registerWrite_eq reaches]
  simp [State.hostWrite, accessOk_pair aligned]

theorem registerWrite_rejected {a : BitVec 26} {z : BitVec 4} (v : U64) {poison : Bool} (bad : poison = true ∨ accessOk a.toNat z.toNat = false) :
    exec (.registerWrite a z v poison) s = .next s.rejectAccess := by
  rw [registerWrite_eq reaches]
  unfold State.hostWrite
  rw [if_pos (by simpa using bad)]

theorem clearOnRead_word {a : BitVec 26} (aligned : a.toNat % 4 = 0) :
    exec (.clearOnRead a 4) s = .next ((s.clearRc a.toNat).onRun fun r => { r with lastRead := ((s.readReg a.toNat).getD 0).setWidth 64, readOk := true }) := by
  rw [clearOnRead_eq reaches]
  simp [State.hostReadAt, State.hostRead, accessOk_word aligned]

theorem clearOnRead_rejected {a : BitVec 26} {z : BitVec 4} (bad : accessOk a.toNat z.toNat = false) :
    exec (.clearOnRead a z) s = .next (s.rejectAccess.onRun fun r => { r with lastRead := if z = 4 then 0xFFFFFFFF else 0xFFFFFFFFFFFFFFFF, readOk := false }) := by
  rw [clearOnRead_eq reaches]
  simp [State.hostReadAt, State.rejectAccess, bad]

end

theorem clearRc_run (s : State) (a : Nat) : (s.clearRc a).run = s.run := onlyChanges_run (clearRc_changes s a) (by decide)

/-- Settles O12: the write by what stands at its address and by the class of the register, the read as its value and its clear. -/
theorem windowRegistersAreWrittenAndRead : Obligations.WindowRegistersAreWrittenAndRead := by
  refine ⟨fun s a v d reaches aligned view plain desc served reserved range => ?setting, fun s a v b reaches aligned view => ?active,
    fun s a v reaches aligned view plain desc empty => ?nowhere, fun s a z v poison reaches bad => ?rejected, fun s a v reaches aligned => ?pair,
    fun s a reaches aligned => ?read, fun s a z reaches bad => ?unread⟩
  case setting =>
    refine ⟨_, (registerWrite_word reaches v aligned).trans (congrArg Host.Outcome.next (writeReg_setting view plain desc)), fun swap => ?_, fun swap accepts => ?_, fun swap refuses => ?_, fun swap => ?_⟩
    · rw [writeSetting_immediate false served reserved range swap]
      exact ⟨(putActive_setting ..).trans (if_pos rfl), fun b other => (putActive_setting ..).trans (if_neg other), putActive_changes ..⟩
    · rw [writeSetting_epoch false served reserved range swap, if_pos accepts]
      exact ⟨rfl, rfl, stageEpoch_stagedView _ false, stageEpoch_changes ..⟩
    · rw [writeSetting_epoch false served reserved range swap, if_neg (Bool.eq_false_iff.mp refuses)]
      exact ⟨discardWrite_discards .., discardWrite_changes ..⟩
    · rw [writeSetting_boundary false served reserved range swap]
      exact ⟨stageWrite_stagedView .., stageWrite_setting s _ _ _, stageWrite_changes ..⟩
  case active =>
    exact ⟨_, (registerWrite_word reaches v aligned).trans (congrArg Host.Outcome.next (writeReg_active _ _ view)), discardWrite_discards .., discardWrite_changes ..⟩
  case nowhere =>
    exact ⟨_, (registerWrite_word reaches v aligned).trans (congrArg Host.Outcome.next (writeReg_nowhere view plain desc empty)), logHealth_seq s _, logHealth_changes ..⟩
  case rejected => exact ⟨_, registerWrite_rejected reaches v bad, rfl, onBrg_changes ..⟩
  case pair =>
    refine ⟨_, _, registerWrite_word reaches v (by omega), registerWrite_pair reaches v aligned, fun still => ?_⟩
    have upper : (a + 4).toNat = a.toNat + 4 := by
      have := a.isLt
      rw [BitVec.toNat_add]
      exact Nat.mod_eq_of_lt (by simp; omega)
    rw [registerWrite_word still _ (by omega), upper]
  case read =>
    refine ⟨_, clearOnRead_word reaches aligned, ?_, rfl, fun status => ?_, fun alerts => ?_, onRun_in (clearRc_in (onlyChanges_refl _ _) (by decide)) (by decide)⟩
    · rw [State.onRun_run, clearRc_run]
    · subst status
      rfl
    · subst alerts
      rfl
  case unread => exact ⟨_, clearOnRead_rejected reaches bad, rfl, rfl, onRun_in (onBrg_in (onlyChanges_refl _ _) (by decide)) (by decide)⟩

end Sys2Proof.Machine
end
